-- ==== Sys2Proof/Word.lean ====
section
/-! DEFINITION. The plain words of the model and the plain records that commands carry as operands. -/

namespace Sys2Proof

/-- One byte; bit 0 is the least significant bit (R1). -/
abbrev Byte := BitVec 8
/-- One 32-bit register of the register space (R23). -/
abbrev Word32 := BitVec 32
/-- One 64-bit value of a packet, a ledger entry or a control core. -/
abbrev Word64 := BitVec 64

/-- The two PCI Express ports (R194). -/
inductive HostPort where
  /-- the Cope port, on B0 -/
  | cope
  /-- the Drag port, on B1 -/
  | drag
deriving DecidableEq, Repr

/-- The number of a port in registers: 0 Cope, 1 Drag (Table 11-10). -/
def HostPort.toNat : HostPort → Nat
  | .cope => 0
  | .drag => 1

/-- The two ports in the order in which simultaneous events take effect: Cope first (R24). -/
def HostPort.all : List HostPort := [.cope, .drag]

/-- The MSI-X configuration of a port as its host sets it: MSI-X Enable, Function Mask, and the table, entry v of 128 bits with its
mask in bit 96 (R195, R214). -/
structure MsixConfig where
  enable       : Bool
  functionMask : Bool
  table        : List (BitVec 128)
deriving DecidableEq, Repr

/-- MSI-X as a reset of the port leaves it: disabled, and every vector masked. R214 refers to the base specification (PRESUMED, log entry
76). -/
def MsixConfig.masked : MsixConfig := ⟨false, false, List.replicate 65 (1#128 <<< 96)⟩

/-- The configuration registers of a port that its host sets: Command, the three BARs, Device Control, and the masks and severities of AER
(R194, R195, R411). Bus Master Enable, which the model holds by itself, is no part of it. -/
structure PcieSetup where
  command       : BitVec 16
  bar0          : BitVec 64
  bar2          : BitVec 64
  bar4          : BitVec 64
  deviceControl : BitVec 16
  uncorMask     : Word32
  uncorSeverity : Word32
  corMask       : Word32
deriving DecidableEq, Repr

/-- The configuration registers at their reset values, which the spec leaves to the base specification (PRESUMED, log entry 85). -/
def PcieSetup.reset : PcieSetup := ⟨0, 0, 0, 0, 0x2810, 0x00400000, 0x00462030, 0xE000⟩

/-- A port whose host sets Bus Master Enable, and the port's MSI-X configuration and configuration registers as they then stand (R195, R196,
R411). -/
structure PortEnable where
  port  : HostPort
  msix  : MsixConfig
  setup : PcieSetup
deriving DecidableEq, Repr

/-- How the completion of a read ends: with data, with an error status, or poisoned (R227). -/
inductive TlpStatus where
  | good | error | poisoned
deriving DecidableEq, Repr

/-- A vector may be sent: MSI-X is enabled, and neither the function nor the vector is masked. -/
def MsixConfig.opens (m : MsixConfig) (v : Nat) : Bool :=
  m.enable && !m.functionMask && ((m.table[v]?).map fun e => !e.getLsbD 96).getD false

/-- The five engines of a cluster (R73). -/
inductive Engine where
  | ld | st | mx | dr | vx
deriving DecidableEq, Repr

/-- The engine numbers of R73. -/
def Engine.toNat : Engine → Nat
  | .ld => 0
  | .st => 1
  | .mx => 2
  | .dr => 3
  | .vx => 4

/-- Load or store engine, the two engines that move data (R73). -/
inductive MoveEngine where
  | ld | st
deriving DecidableEq, Repr

/-- A load or store engine as one of the five engines. -/
def MoveEngine.toEngine : MoveEngine → Engine
  | .ld => .ld
  | .st => .st

/-- The transmit and the receive direction of a Runner port (R316). -/
inductive LaneDir where
  | tx | rx
deriving DecidableEq, Repr

/-- A Runner frame as it arrives: the header fields of Table 14-2 and the payload.
`poison` lists the payload codewords (1 to 39) that arrive poisoned (R265). -/
structure Frame where
  flaskId : BitVec 16
  pace    : BitVec 8
  type    : BitVec 4
  count   : Nat
  stream  : BitVec 7
  seq     : BitVec 48
  ackSeq  : BitVec 48
  nak     : Bool
  arg     : BitVec 64
  payload : List Byte
  poison  : List Nat
  /-- the symbols the receiver corrected in it, by codeword and symbol (R265) -/
  fixed   : List (Nat × Nat)
  /-- the bytes, as they came, of each lane on which they are not those of the frame under the lane's key (R314, R315) -/
  raw     : List (Nat × List Byte)
deriving DecidableEq, Repr

/-- The statuses a cluster fault can have: the execution data faults of Table 12-10 (R4). -/
inductive DataFault where
  | slotCollision | uncorrectable | poisonConsumed | peerLost
deriving DecidableEq, Repr

/-- The status of a data fault. -/
def DataFault.status : DataFault → BitVec 16
  | .slotCollision => 0x0301
  | .uncorrectable => 0x0302
  | .poisonConsumed => 0x0303
  | .peerLost => 0x0304

/-- The identity certificate (R357): the subject key, what the dual-signature extension holds, and the rest as it stands. -/
structure IdCert where
  /-- the DeviceID public key -/
  deviceKey : List Byte
  serial    : List Byte
  /-- the device's HSS public key, the chip ID, and the vendor's LMS signature -/
  hssKey    : List Byte
  chipId    : BitVec 18
  vendorLms : List Byte
  /-- the device CA's ECDSA signature -/
  caSig     : List Byte
deriving DecidableEq, Repr, Inhabited

/-- A line of a Riser copy, or a run of lines that is written as one (Table 13-1). -/
inductive RLine where
  /-- ledger entry i -/
  | entry (i : Nat)
  /-- bytes 0 to 127 of channel c in the channel table -/
  | chan (c : Nat)
  /-- commit slot k % 2 of channel k / 2 -/
  | slot (k : Nat)
  /-- slot k % 2 of the pattern record of handle k / 2 + 1 -/
  | record (k : Nat)
  /-- map copy k % 2 of handle k / 2 + 1 -/
  | map (k : Nat)
  /-- the boot record, which holds the anti-rollback counter, the next top leaf, and the nodes of the top tree -/
  | bootRecord | lms | lmsNodes
  /-- the configuration area: the retired lists, and the health, trip and flask records -/
  | retired | health | trip | flask
deriving DecidableEq, Repr

/-- The kinds of engine whose accesses wait for a phase or slot (R89): a load or store engine of a cluster, and a stream engine. -/
inductive PhaseEngine where
  | move (eng : MoveEngine)
  | stream
deriving DecidableEq, Repr

/-- An identity record (Table 14-4). -/
structure IdRecord where
  flaskId   : BitVec 16
  chipId    : BitVec 18
  port      : BitVec 5
  standsFor : BitVec 5
  minor     : BitVec 8
  major     : BitVec 8
  fwVersion : BitVec 32
  arithFp   : BitVec 64
  rank      : BitVec 18
  verdict   : BitVec 2
  verdictStatus : BitVec 16
deriving DecidableEq, Repr

/-- A lane record (Table 16-4). -/
structure LaneRecord where
  change   : BitVec 8
  txLanes  : BitVec 16
  resweep  : BitVec 16
  rxLanes  : BitVec 16
deriving DecidableEq, Repr

/-- A lane of a Runner port or of a floor-link direction (R317, R319). Direction 0 of the floor link is B0 to B1. -/
inductive LanePlace where
  | runner (p : Fin 32) (dir : LaneDir) (lane : Fin 16)
  | floor (dir : Fin 2) (lane : Fin 400)
deriving DecidableEq, Repr

/-- A link whose lanes have rings with heaters (R307): a Runner port with the modulators (`tx`) and drop filters (`rx`) of its 16
lanes, or a direction of the floor link with the modulators on its sending die and the drop filters on its receiving one, 400 each. -/
inductive RingLink where
  | runner (p : Fin 32)
  /-- `carried`: the codewords on their way over the direction, in case its second lane leaves (R319) -/
  | floor (dir : Fin 2) (carried : List (Nat × Nat × List Byte))
deriving DecidableEq, Repr

/-- A ring that is resweept (R317): of a Runner port's lane, or of a floor-link lane its modulator (`tx`) or its drop filter (`rx`). -/
inductive RingPlace where
  | runner (p : Fin 32) (dir : LaneDir) (lane : Fin 16)
  | floor (dir : Fin 2) (side : LaneDir) (lane : Fin 400)
deriving DecidableEq, Repr

/-- What a resweep finds (R317): the steps at which the ring's monitor marks a resonance, from −150 to 150 in steps of 2 GHz from the
calibrated point, and those of them at which the lane passes the tag check at the receiver for 20 µs. -/
structure RingSweep where
  resonances : List Int
  passing    : List Int
deriving DecidableEq, Repr

/-- A place with a bank of 16 modulators and a bank of 16 drop filters, each with its temperature sensor (R307): a Runner port, or a
waveguide of a direction of the floor link. -/
inductive RingBank where
  | runner (p : Fin 32)
  | floor (dir : Fin 2) (waveguide : Fin 25) (carried : List (Nat × Nat × List Byte))
deriving DecidableEq, Repr

/-- What the scans of the margin test find on one lane (R320). -/
structure LaneScan where
  /-- for each PAM4 threshold the first and the last position with a ratio of at most 1 × 10⁻⁵, if there is one -/
  eyes : List (Option (Nat × Nat))
  /-- the drop power at lock -/
  p0   : Nat
  /-- toward lower and higher frequency: the step in GHz at which the scan stopped, and the drop power there -/
  low  : Nat × Nat
  high : Nat × Nat
deriving DecidableEq, Repr

/-- The return check of a lane that is out (R317, R319). -/
structure ReturnCheck where
  place : LanePlace
  scan  : LaneScan
deriving DecidableEq, Repr

/-- A floor-link lane that fails in a slot: its tag in that slot as its receiver took it, and the codewords on their way over the direction:
slot position, where each is written, and its bytes (R315, R319). -/
structure FloorLoss where
  lane    : Fin 400
  tag     : List Byte
  carried : List (Nat × Nat × List Byte)
deriving DecidableEq, Repr

/-- What a training stage of a Runner port found when it ended (Table 14-3). -/
inductive StageResult where
  /-- stage 1, 3, 5 or 6 ended without fault -/
  | ok
  /-- stage 2 ended: the lanes that the peer found passing in the direction this chip sends, and the scan of each lane it receives -/
  | margins (tx : BitVec 16) (rx : List LaneScan)
  /-- the stage failed -/
  | failed
deriving DecidableEq, Repr

/-- What a boot stage found when it ended (Table 21-2). -/
inductive BootResult where
  /-- the stage ended as it should -/
  | ok
  /-- stage 1: a self-test of the Assay failed, with the CAUSE of Table 18-9 -/
  | selfTest (cause : BitVec 8)
  /-- stage 3: whether a Sprue pair that had failed works again -/
  | sprue (works : Bool)
  /-- stage 4: a stack failed training or initialisation -/
  | stackFailed (stack : BitVec 3)
  /-- stage 5: the physical positions of each die that fail BIST -/
  | bist (fail0 fail1 : BitVec 66)
  /-- stage 6: the scans of the 400 lanes of each floor-link direction (R320), and the laser sources that answered with SRC_ID 0x4C -/
  | optics (scans0 scans1 : List LaneScan) (sources : BitVec 4)
deriving DecidableEq, Repr

/-- A packet in the Tundish: the one that is being written in a channel's window of a port, or one by its place among those received or
among those bound. -/
inductive TundishSlot where
  | window (port : HostPort) (chan : Nat)
  | received (n : Nat)
  | bound (n : Nat)
deriving DecidableEq, Repr

/-- What Fettle scrubs in one SRAM slot (R383): a codeword of one of the memories under the code (Table 19-2). -/
inductive SramTarget where
  /-- cluster memory or under-store: codeword number in the chip-local space -/
  | window (codeword : Nat)
  /-- scalar data memory of cluster g -/
  | scalar (g codeword : Nat)
  /-- instruction memory of cluster g -/
  | code (g codeword : Nat)
  /-- vector registers of cluster g -/
  | vregs (g codeword : Nat)
  /-- Crucible of cluster g -/
  | crucible (g codeword : Nat)
  /-- weight bank b of cluster g -/
  | bank (g : Nat) (second : Bool) (codeword : Nat)
  /-- a packet's buffer in the Tundish -/
  | tundish (slot : TundishSlot) (codeword : Nat)
  /-- the Ladle of cluster g, where a permuting copy of a load or store engine passes through it -/
  | ladle (g : Nat) (eng : MoveEngine) (codeword : Nat)
  /-- the last codeword of every bank has been scrubbed: a pass is complete -/
  | passEnd
deriving DecidableEq, Repr

/-- A request a port answers over DOE (R364, R365). -/
inductive SpdmRequest where
  /-- the versions, the capabilities and the algorithms -/
  | version
  | capabilities
  | algorithms
  /-- the certificate chain -/
  | certificate
  /-- a challenge with its nonce -/
  | challenge (nonce : BitVec 256)
  /-- the signed measurements -/
  | measurements (nonce : BitVec 256)
  /-- a session is opened, with the requester's public key -/
  | keyExchange (pub : List Byte)
  /-- the session is closed -/
  | endSession
  /-- the key of the session is renewed -/
  | keyUpdate
  /-- IDE_KM programs the key of the link (false) or selective (true) stream and sets it going -/
  | ideKeys (selective : Bool) (key : BitVec 256)
deriving DecidableEq, Repr

/-- A request as DOE carries it: the session that it belongs to, if any, and its bytes on the link. -/
structure SpdmMessage where
  session : Option Nat
  req     : SpdmRequest
  size    : Nat
deriving DecidableEq, Repr

/-- A JTAG operation (R430). -/
inductive JtagOp where
  /-- TRST_N goes to this level -/
  | trst (level : Bool)
  /-- an instruction code is loaded through the instruction register -/
  | loadIr (code : BitVec 8)
  /-- bits are shifted through the data register, the first one first -/
  | shiftDr (bits : List Bool)
deriving DecidableEq, Repr

end Sys2Proof
end

