-- ==== Sys2Proof/Syntax.lean ====
section
/-! DEFINITION. The commands of the block: one constructor for each row of the table of operations and events. -/

namespace Sys2Proof

/-- A command: an operation that an agent invokes, or an event that befalls the part. -/
inductive Instr where
  -- Intake, channels and pours (chapters 11 to 13)
  /-- R203: A host write reaches an intake window in BAR2; the first write of a packet may assign a Tundish buffer, and writes beyond offset 0x3FFF count in SPR_STRAY. -/
  | intakeWrite (port : HostPort) (c : Fin 64) (off : Nat) (data : List Byte)
  /-- R206: After the previous decision on the channel, the Nelhan checks a received packet by Table 11-5 and refuses it, copies a duplicate reply, or binds it for acceptance. -/
  | packetDecision (c : Fin 64)
  /-- R206: Once the body is in the intake store in phase 63, the ledger entry is committed in both Riser copies, the packet is accepted and its buffer freed. -/
  | packetAccept (c : Fin 64) (s0ok s4ok : Bool)
  /-- R254: A packet whose body writes failed is retried in each phase 63 while later packets of the channel wait. -/
  | intakeBodyRetry (c : Fin 64) (s0ok s4ok : Bool)
  /-- R254: An intake body write held for 1 ms sets ERR_FAULT.INTAKE_STALL and asserts FAULT_N. -/
  | intakeStallTimeout (c : Fin 64)
  /-- R198: Opens a closed channel for the receiving port with its quota, Tundish reservation, reply ring and options, and writes commit slot 0. -/
  | channelOpen (c : Fin 64)
  /-- R200: The non-owning port takes over a channel, installs a new ring and rewrites held final replies to it marked ADOPTED. -/
  | channelAdopt (c : Fin 64)
  /-- R201: Makes an open channel CLOSING and starts its teardown. -/
  | channelClose (c : Fin 64)
  /-- R201: Once the earlier pours have ended and replied, the Nelhan unloads the channel's patterns, writes the close reply, releases its entries and makes it CLOSED. -/
  | closeTeardown (c : Fin 64)
  /-- R190: Checks a staged image by Table 10-9 and either refuses it or loads it, assigning a handle and creating its epoch state. -/
  | patternLoad (c : Fin 64)
  /-- R193: Frees a handle, its metadata, buffers, ledger reserve, epoch state and kept Crucible state. -/
  | patternUnload (c : Fin 64)
  /-- R223: Checks a RUN at execution and starts a pour of the pattern, setting up every used cluster and its register values. -/
  | run (c : Fin 64)
  /-- R175: Checks an FP32 step size and sets it as the pattern's pending step size at commit. -/
  | setStepSize (c : Fin 64)
  /-- R226: Copies host memory into pattern-usable HBM of the chip in ascending address order. -/
  | copyIn (c : Fin 64)
  /-- R226: Copies pattern-usable HBM of the chip to host memory in ascending address order. -/
  | copyOut (c : Fin 64)
  /-- R226: Fills a device range with a repeated 32-byte value. -/
  | fill (c : Fin 64)
  /-- R228: Writes the 128-byte device result block to host memory. -/
  | queryDevice (c : Fin 64)
  /-- R228: Writes the 640-byte result block of a loaded pattern to host memory. -/
  | queryPattern (c : Fin 64)
  /-- R347: Returns the channel's energy accumulator in its final reply. -/
  | energyRead (c : Fin 64)
  /-- R231: Checks the join and the no-transit rule, enters the flask and starts training every live port. -/
  | flaskJoin (c : Fin 64)
  /-- R232: Takes the chip out of its flask and darkens every port. -/
  | flaskLeave (c : Fin 64)
  /-- R233: Retests and retrains the named ports and reports those that passed and failed. -/
  | marginTest (c : Fin 64)
  /-- R360: The Assay writes a signed evidence block and the alias and identity certificates to host memory. -/
  | attestDeviceEvidence (c : Fin 64)
  /-- R363: The Assay completes, signs and writes the stored reproducibility receipt of a handle. -/
  | attestReceipt (c : Fin 64)
  /-- R234: Writes firmware bytes into the boot-flash slot not in use and optionally verifies the slot. -/
  | firmwareStage (c : Fin 64)
  /-- R354: Verifies the staged slot and marks it pending for a trial boot at the next reset. -/
  | firmwareActivate (c : Fin 64)
  /-- R246: Once the pour may commit, the Nelhan saves kept tiles, flips buffer maps, digests receipts and writes ENDING, fold, commit slot and DONE. -/
  | pourCommit (c : Fin 64)
  /-- R213: When the ring has a free slot and the port allows writes, the Nelhan writes the next final reply or copy and sends MSI-X. -/
  | finalReply (c : Fin 64)
  -- Register writes (chapters 11, 13, 16, 17, 18, 20)
  /-- R211: A host write of the consumed reply count frees ring slots for waiting replies. -/
  | sprChanRhead (port : HostPort) (c : Fin 64) (value : Word32)
  /-- R249: A write to RSR_CHAN_RESET with ABANDON 0 replays the channel's running pour. -/
  | channelReset (port : HostPort) (c : Fin 64)
  /-- R249: A write to RSR_CHAN_RESET with ABANDON 1 ends the channel's running pour faulted with SLOT_COLLISION. -/
  | channelResetAbandon (port : HostPort) (c : Fin 64)
  /-- R256: Ends the RISER_LOST state by testing the MRAM regions and writing two fresh ledger copies. -/
  | rsrReinit (port : HostPort) (value : Word32) (pass : BitVec 4)
  /-- R23: A write to a register with no behaviour of its own, or to a reserved offset or width, takes effect or is ignored and counted. -/
  | registerWrite (port : HostPort) (off width : Nat) (value : Word64)
  /-- R395: Copies every counter register to the shadow in one base-die cycle. -/
  | cntSnap (port : HostPort) (value : Word32)
  /-- R399: Sets a bandwidth window length, which takes effect at the next boundary of the new length. -/
  | cntBwCtrl (u : Fin 42) (value : Word32)
  /-- R402: Sets a cluster's sampling mode and clears its sample buffer and status. -/
  | cntSampleCtrl (g : Fin 128) (value : Word32)
  /-- R370: Runs the Assay's known-answer tests on demand. -/
  | asySelftest (value : Word32) (pass : Bool)
  /-- R372: Zeroises every SSP outside OTP and stops the Nelhan as in the error state. -/
  | zeroise (value : Word32)
  /-- R372: Burns every UDS bit and DECOMMISSIONED and then zeroises. -/
  | decommission (value : Word32)
  /-- R340: Sets the power cap, effective at the next gate-step boundary, or ignores an out-of-range value. -/
  | pwrCapWatts (value : Word32)
  /-- R349: Writing 1 to PWR_STATUS.TRIPPED clears it and the trip record. -/
  | trippedClear (value : Word32)
  /-- R328: A write of GO to LGT_MON_CTRL starts one monitor reading and clears VALID. -/
  | monitorReading (value : Word32)
  /-- R328: At the end of its integration the reading is placed in LGT_MON_DATA with VALID set. -/
  | monitorReadingDone (value : BitVec 12)
  -- Control core (chapters 4, 8, 17)
  /-- R83: Control-core integer addition. -/
  | add (g : Fin 128)
  /-- R83: Control-core integer subtraction. -/
  | sub (g : Fin 128)
  /-- R83: Control-core bitwise and. -/
  | and (g : Fin 128)
  /-- R83: Control-core bitwise or. -/
  | or (g : Fin 128)
  /-- R83: Control-core bitwise exclusive or. -/
  | xor (g : Fin 128)
  /-- R83: Control-core shift left by xb mod 64. -/
  | shl (g : Fin 128)
  /-- R83: Control-core logical shift right by xb mod 64. -/
  | shr (g : Fin 128)
  /-- R83: Control-core arithmetic shift right by xb mod 64. -/
  | sra (g : Fin 128)
  /-- R83: Control-core multiply giving the low 64 bits. -/
  | mul (g : Fin 128)
  /-- R83: Control-core unsigned multiply giving the high 64 bits. -/
  | mulhu (g : Fin 128)
  /-- R83: Control-core unsigned divide, all ones on division by zero. -/
  | divu (g : Fin 128)
  /-- R83: Control-core unsigned remainder, xa on division by zero. -/
  | remu (g : Fin 128)
  /-- R83: Control-core signed set-less-than. -/
  | slt (g : Fin 128)
  /-- R83: Control-core unsigned set-less-than. -/
  | sltu (g : Fin 128)
  /-- R83: Control-core signed minimum. -/
  | min (g : Fin 128)
  /-- R83: Control-core signed maximum. -/
  | max (g : Fin 128)
  /-- R83: Control-core add of a sign-extended immediate. -/
  | addi (g : Fin 128)
  /-- R83: Control-core move of a 16-bit immediate into one field of a register. -/
  | movk (g : Fin 128)
  /-- R83: Control-core FP64 addition rounded to nearest even. -/
  | fadd (g : Fin 128)
  /-- R83: Control-core FP64 subtraction. -/
  | fsub (g : Fin 128)
  /-- R83: Control-core FP64 multiplication. -/
  | fmul (g : Fin 128)
  /-- R83: Control-core FP64 division. -/
  | fdiv (g : Fin 128)
  /-- R83: Control-core FP64 square root of xa. -/
  | fsqrt (g : Fin 128)
  /-- R83: Control-core FP64 minimum with canonical NaN and signed-zero rules. -/
  | fmin (g : Fin 128)
  /-- R83: Control-core FP64 maximum with canonical NaN and signed-zero rules. -/
  | fmax (g : Fin 128)
  /-- R83: Control-core FP64 less-than comparison giving 1 or 0. -/
  | flt (g : Fin 128)
  /-- R83: Control-core FP64 equality comparison giving 1 or 0. -/
  | feq (g : Fin 128)
  /-- R83: Control-core widening of FP32 bits to FP64. -/
  | fcvtDS (g : Fin 128)
  /-- R83: Control-core narrowing of FP64 to FP32 with RNE. -/
  | fcvtSD (g : Fin 128)
  /-- R83: Control-core conversion of signed INT64 to FP64 with RNE. -/
  | fcvtDL (g : Fin 128)
  /-- R83: Control-core conversion of FP64 to INT64 with RTZ and saturation. -/
  | fcvtLD (g : Fin 128)
  /-- R84: Control-core 64-bit load from scalar data memory. -/
  | ld64 (g : Fin 128)
  /-- R84: Control-core zero-extending 32-bit load from scalar data memory. -/
  | ld32 (g : Fin 128)
  /-- R84: Control-core 64-bit store to scalar data memory. -/
  | st64 (g : Fin 128)
  /-- R84: Control-core 32-bit store to scalar data memory. -/
  | st32 (g : Fin 128)
  /-- R83: Control-core branch if equal. -/
  | beq (g : Fin 128)
  /-- R83: Control-core branch if not equal. -/
  | bne (g : Fin 128)
  /-- R83: Control-core branch if signed less. -/
  | blt (g : Fin 128)
  /-- R83: Control-core branch if signed greater or equal. -/
  | bge (g : Fin 128)
  /-- R83: Control-core branch if unsigned less. -/
  | bltu (g : Fin 128)
  /-- R83: Control-core branch if unsigned greater or equal. -/
  | bgeu (g : Fin 128)
  /-- R83: Control-core unconditional branch by OFF26 words. -/
  | jmp (g : Fin 128)
  /-- R83: Control-core branch that writes the return address to x31. -/
  | call (g : Fin 128)
  /-- R83: Control-core jump to the address in xa. -/
  | jr (g : Fin 128)
  /-- R83: Control core waits until a token is set, optionally clearing it. -/
  | waitt (g : Fin 128)
  /-- R77: Control core sets a token, faulting the pour if it is already set. -/
  | sett (g : Fin 128)
  /-- R77: Control core clears a token, faulting the pour if it is already clear. -/
  | clrt (g : Fin 128)
  /-- R86: Control core reads a word of a summary slot once the slot is valid. -/
  | sumrd (g : Fin 128)
  /-- R74: Control core enqueues engine work, copying the command record and its descriptors into the queue entry. -/
  | issue (g : Fin 128)
  /-- R159: Appends a deferred item to the armed list, opening or extending the lending period. -/
  | deferArm (g : Fin 128)
  /-- R164: Waits until the armed list is empty, closes the lending period and writes the deferred summary. -/
  | deferSync (g : Fin 128)
  /-- R339: Sets the cluster's hint level and hold count at the next gate-step boundary. -/
  | phaseHint (g : Fin 128)
  /-- R83: Control core waits until all five queues are empty and nothing is in flight. -/
  | fence (g : Fin 128)
  /-- R87: Stops the control core. -/
  | halt (g : Fin 128)
  /-- R86: A stalled control-core instruction retires once its token, summary slot, queue entry or drained queues become available. -/
  | coreStallEnd (g : Fin 128)
  -- Matrix, drain and vector engines (chapters 5 to 9)
  /-- R100: MX issues a load of a weight bank from a weight descriptor. -/
  | wload (g : Fin 128)
  /-- R105: MX issues a matrix product from a bank into Crucible tiles by the sequential sum, optionally preloading the other bank. -/
  | matmul (g : Fin 128)
  /-- R120: DR issues a drain of a tile view through the epilogue into a destination tensor. -/
  | drain (g : Fin 128)
  /-- R118: DR issues a clear of tile saturation flags and optionally of their words. -/
  | tclr (g : Fin 128)
  /-- R140: VX issues an elementwise move. -/
  | mov (g : Fin 128)
  /-- R140: VX issues an elementwise addition. -/
  | vxAdd (g : Fin 128)
  /-- R140: VX issues an elementwise subtraction. -/
  | vxSub (g : Fin 128)
  /-- R140: VX issues an elementwise multiplication. -/
  | vxMul (g : Fin 128)
  /-- R141: VX issues an elementwise division. -/
  | div (g : Fin 128)
  /-- R141: VX issues an elementwise minimum. -/
  | vxMin (g : Fin 128)
  /-- R141: VX issues an elementwise maximum. -/
  | vxMax (g : Fin 128)
  /-- R140: VX issues an elementwise fused multiply-add with one rounding. -/
  | fma (g : Fin 128)
  /-- R140: VX issues an elementwise absolute value. -/
  | abs (g : Fin 128)
  /-- R140: VX issues an elementwise negation. -/
  | neg (g : Fin 128)
  /-- R141: VX issues an elementwise square root. -/
  | sqrt (g : Fin 128)
  /-- R141: VX issues an elementwise reciprocal square root. -/
  | rsqrt (g : Fin 128)
  /-- R141: VX issues an elementwise reciprocal. -/
  | rcp (g : Fin 128)
  /-- R151: VX issues the defined FP32 exponential. -/
  | exp (g : Fin 128)
  /-- R151: VX issues the defined FP32 natural logarithm. -/
  | log (g : Fin 128)
  /-- R151: VX issues the RELU procedure. -/
  | relu (g : Fin 128)
  /-- R151: VX issues the GELU_TANH procedure. -/
  | geluTanh (g : Fin 128)
  /-- R151: VX issues the GELU_ERF procedure. -/
  | geluErf (g : Fin 128)
  /-- R151: VX issues the SILU procedure. -/
  | silu (g : Fin 128)
  /-- R151: VX issues the SIGMOID procedure. -/
  | sigmoid (g : Fin 128)
  /-- R151: VX issues the TANH procedure. -/
  | tanh (g : Fin 128)
  /-- R141: VX issues a less-than comparison writing 1 or 0. -/
  | cmplt (g : Fin 128)
  /-- R141: VX issues a less-or-equal comparison writing 1 or 0. -/
  | cmple (g : Fin 128)
  /-- R141: VX issues an equality comparison writing 1 or 0. -/
  | cmpeq (g : Fin 128)
  /-- R141: VX issues an inequality comparison writing 1 or 0. -/
  | cmpne (g : Fin 128)
  /-- R140: VX issues a count of infinite and NaN elements of A. -/
  | nfcount (g : Fin 128)
  /-- R142: VX issues a tree sum over the innermost dimensions. -/
  | rsum (g : Fin 128)
  /-- R142: VX issues a tree sum of squares over the innermost dimensions. -/
  | rsumsq (g : Fin 128)
  /-- R142: VX issues a tree maximum over the innermost dimensions. -/
  | rmax (g : Fin 128)
  /-- R142: VX issues a tree minimum over the innermost dimensions. -/
  | rmin (g : Fin 128)
  /-- R142: VX issues a tree maximum of absolute values over the innermost dimensions. -/
  | ramax (g : Fin 128)
  /-- R144: VX issues a gather of rows whose key matches into a buffer of fixed capacity. -/
  | compress (g : Fin 128)
  /-- R145: VX issues a scatter of buffer rows back to their token rows. -/
  | expand (g : Fin 128)
  /-- R166: VX issues an FP64 sum of squares chained through a carry. -/
  | normsq (g : Fin 128)
  /-- R170: VX issues the optimizer update of moments, master weights and working copy. -/
  | update (g : Fin 128)
  -- Load and store engines, completions, deferred steps (chapters 4, 8, 15)
  /-- R290: LD or ST issues a copy of a source to a destination with a permutation, bits unchanged. -/
  | copy (g : Fin 128) (eng : MoveEngine)
  /-- R299: LD or ST issues an all-reduce over the group, sending STARTs for the streams it will receive. -/
  | allReduce (g : Fin 128) (eng : MoveEngine)
  /-- R299: LD or ST issues a reduce-scatter over the group. -/
  | reduceScatter (g : Fin 128) (eng : MoveEngine)
  /-- R301: LD or ST issues an all-gather over the group. -/
  | allGather (g : Fin 128) (eng : MoveEngine)
  /-- R301: LD or ST issues an all-to-all over the group. -/
  | allToAll (g : Fin 128) (eng : MoveEngine)
  /-- R301: LD or ST issues a broadcast from the root member. -/
  | broadcast (g : Fin 128) (eng : MoveEngine)
  /-- R293: LD or ST issues a send to the matching RECV of a peer. -/
  | send (g : Fin 128) (eng : MoveEngine)
  /-- R293: LD or ST issues a receive from the matching SEND of a peer. -/
  | recv (g : Fin 128) (eng : MoveEngine)
  /-- R77: An engine instruction completes, sets its post tokens and notify tokens and writes its summary. -/
  | instructionComplete (g : Fin 128) (eng : Engine) (idx : Nat)
  /-- R159: The filler latches an armed item's guard in the first cycle its token is set. -/
  | guardLatch (g : Fin 128)
  /-- R160: The filler issues the next step of the oldest armed item into an idle engine. -/
  | fillerStepIssue (g : Fin 128)
  /-- R89: A requester starts a waiting access in its next owned HBM phase or floor-link slot: for copy idx in flight, an engine
  of cluster `unit`, or stream engine `unit`. -/
  | hbmPhaseAccess (unit : Fin 128) (eng : PhaseEngine) (idx : Nat) (phase : Nat)
  -- Cluster faults (chapter 1)
  /-- R10: A cluster fault retires its position, ends any running pour and starts BIST on the lowest free spare, or leaves the cluster unmapped. -/
  | clusterFault (die : Fin 2) (pos : Fin 66) (fault : DataFault)
  /-- R11: A spare's BIST ends; a pass maps the logical cluster to it and replays the pour, a fail retires it and tries the next spare. -/
  | spareBistDone (die : Fin 2) (pos : Fin 66) (pass : Bool)
  -- Runner ports (chapters 14, 15)
  /-- R264: A received idle frame carries acknowledgement and pace. -/
  | idleFrame (p : Fin 32) (frame : Frame)
  /-- R266: A frame with an uncorrectable codeword is discarded and NAKed until resent whole. -/
  | damagedFrame (p : Fin 32) (frame : Frame)
  /-- R298: A received stream frame is combined, written or relayed, or discarded if its TAG is stale. -/
  | streamData (p : Fin 32) (frame : Frame)
  /-- R295: A received START lets the sender stream to the receiver once its own COLL has issued, after comparing the collective. -/
  | start (p : Fin 32) (frame : Frame)
  /-- R302: A child's vote arrives and the rank forwards the least outcome once all children have voted. -/
  | voteUp (p : Fin 32) (frame : Frame)
  /-- R302: The flask's vote outcome arrives and the rank commits, replays or faults the RUN. -/
  | voteDown (p : Fin 32) (frame : Frame)
  /-- R276: A peer's board read is served from HBM once a RUN of the flask runs and its phase comes. -/
  | boardReadRequest (p : Fin 32) (frame : Option Frame) (phase : Nat)
  /-- R276: A peer's board write is checked against the buffer table and served in an owned phase. -/
  | boardWrite (p : Fin 32) (frame : Option Frame) (phase : Nat)
  /-- R276: A board read response delivers data or a code that faults the requester's pour. -/
  | boardReadResponse (p : Fin 32) (frame : Frame)
  /-- R271: A taken identity record is checked and the port sends VERDICT, or records a received reject. -/
  | identityRecord (p : Fin 32) (rec : IdRecord)
  /-- R269: A training stage of a port ends and the next begins, or the port fails with its status. -/
  | trainingStageDone (p : Fin 32) (stage : Nat) (result : StageResult)
  /-- R231: A live port not trained 10 s after the join counts as failed with PEER_LOST. -/
  | joinPortTimeout (p : Fin 32)
  -- Light (chapter 16)
  /-- R316: A received lane record moves one direction of a port to a new set of lanes. -/
  | laneRecord (p : Fin 32) (rec : LaneRecord)
  /-- R317: A resweep ends with a candidate resonance that passes the tag check, or fails. -/
  | resweepDone (place : RingPlace) (sweep : RingSweep)
  /-- R317: A lane that passes its return check returns to service by a lane change. -/
  | laneReturn (check : ReturnCheck)
  /-- R308: Every 100 µs a ring's heater is updated by its feedback loop; a ring beyond 20 GHz leaves lock. -/
  | lockLoopUpdate (link : RingLink) (side : LaneDir) (lane : Fin 400) (estimate : Int)
  /-- R309: Every 10 µs each ring receives feed-forward from its bank's temperature sensor. -/
  | feedForward (bank : RingBank) (side : LaneDir) (delta : Int)
  /-- R279: A port with no error-free frame for 10 µs goes down. -/
  | portSilenceTimeout (p : Fin 32)
  /-- R280: A spare not admitted 10 s after its port went down is freed and the RUN faults with PEER_LOST. -/
  | spareTimeout (p : Fin 32)
  /-- R319: A floor-link lane with too many corrected symbols leaves service; two out stop the direction. -/
  | floorLaneRemoval (dir : Fin 2) (loss : FloorLoss)
  /-- R319: A floor-link direction stopped for 20 ms asserts FAULT_N. -/
  | floorStallTimeout (dir : Fin 2)
  /-- R324: An open fibre held for 8 windows shuts its laser group and takes the port down. -/
  | openFibreDetect (p : Fin 32) (cause : BitVec 2)
  /-- R327: A read of EMIT confirms a laser-bus write and may release LSHUT_N. -/
  | laserBusConfirm (n : Fin 4) (emit fault : BitVec 8)
  /-- R327: A disabling write not confirmed within 1 ms keeps LSHUT_N low. -/
  | laserBusTimeout (n : Fin 4)
  /-- R325: Every 2 s a SHUT port is probed at low power. -/
  | eyeProbe (p : Fin 32)
  /-- R325: A probe's result is judged; two passes in a row make the port CLOSED. -/
  | eyeProbeDone (p : Fin 32) (pass : Bool)
  -- Power and temperature (chapter 17)
  /-- R337: At each 64 µs boundary the Nelhan updates caps, thermal limit, hints, gate values and energy. -/
  | gateStep (compute0 compute1 base : List (BitVec 16))
  /-- R334: A cluster idle for 64 cycles stops its clock. -/
  | clusterSleep (g : Fin 128)
  /-- R341: Every 1 ms the Nelhan reads each rail over AVSBus and compares measured with estimated power. -/
  | avsReading (rails : List (Option (Nat × Nat)))
  /-- R345: A sensor reaching 115 °C stops every PLL, asserts THERMTRIP_N and shuts the lasers. -/
  | chillTrip (sensor : BitVec 8) (temp : Nat)
  /-- R332: A cluster group idle for 10 ms, or a stack idle for 100 µs, is disabled. -/
  | idleHoldoffExpiry (k : Fin 58)
  /-- R331: A domain finishes RISING and becomes ON, then starts FALLING if a disable is latched. -/
  | risingEnd (k : Fin 58)
  /-- R331: A domain finishes FALLING and becomes OFF, losing its memories. -/
  | fallingEnd (k : Fin 58)
  /-- R331: A domain's minimum off time ends and a latched enable starts RISING. -/
  | minimumOffExpiry (k : Fin 58)
  -- Counters, health, Fettle (chapters 19, 20)
  /-- R401: A cluster counter passing a multiple of 64 × PERIOD writes a counter sample record. -/
  | counterSample (g : Fin 128) (pc : BitVec 18)
  /-- R399: At a window boundary LAST, PEAK and WINDOWS of each unit are updated. -/
  | bandwidthWindowEnd (u : Fin 42)
  /-- R389: Every 1 s the Nelhan computes raw and LOCAL and updates HEALTH with hysteresis. -/
  | healthEvaluation
  /-- R389: Every 3,600 s each health accumulator decays and the health state is saved. -/
  | healthDecay
  /-- R383: Every 42.1875 s Fettle scrubs a 64 MiB burst of each stack in phase 63. -/
  | fettleHbmBurst (stack : Fin 8)
  /-- R383: Once in every 1,024 cycles Fettle scrubs one codeword of each SRAM bank. -/
  | fettleSramSlot (target : SramTarget)
  /-- R383: Once an hour an OFF cluster group is enabled, tested and disabled, retiring a failing position. -/
  | fettleOffGroupTest (die : Fin 2) (group : Fin 9) (failing : BitVec 66)
  -- Riser, Sprue, Assay, host ports (chapters 11, 13, 18)
  /-- R255: A Riser copy whose writes fail or whose MRAM stops answering is lost and a rebuild starts, or the ledger enters RISER_LOST. -/
  | riserWriteFail (copy : Fin 2) (line : Option RLine)
  /-- R255: A rebuild of a lost Riser copy completes and the copy returns to service. -/
  | riserRebuildDone
  /-- R247: On failure of a Sprue pair the standby takes over and completes work in progress. -/
  | sprueTakeover
  /-- R371: A failed self-test puts the Assay in its error state, zeroising SSPs and stopping the Nelhan. -/
  | assayError (cause : BitVec 8)
  /-- R364: A port answers an SPDM request over DOE. -/
  | spdmRequest (port : HostPort) (req : SpdmMessage)
  /-- R365: An IDE stream failing integrity enters Insecure and stops delivering TLPs. -/
  | ideIntegrityFailure (port : HostPort) (selective : Bool)
  /-- R227: A host read completion arrives for a pour's transfer; an error or poisoned TLP faults a COPY_IN. -/
  | hostDmaCompletion (port : HostPort) (c : Fin 64) (data : List Byte) (err : TlpStatus)
  /-- R196: A host port's link goes down and its replies and messages wait. -/
  | hostLinkDown (port : HostPort)
  /-- R196: Setting Bus Master Enable lets waiting replies and messages of the port go out in order. -/
  | busMasterEnable (enable : PortEnable)
  /-- R414: A port's PERST_N resets its link, configuration, IDE keys and partly written packets. -/
  | perstN (port : HostPort)
  /-- R414: A function-level reset of a port acts as PERST_N with the link kept up. -/
  | flr (port : HostPort)
  -- Resets, boot, pins (chapters 21, 22)
  /-- R405: PWRGD_MAIN falling starts a cold reset that loses HBM, patterns and flask membership. -/
  | coldReset
  /-- R407: PWRGD_MAIN rising with PWRGD_AON high samples the straps and starts a cold boot. -/
  | bootStart (slot : BitVec 3) (board : BitVec 15)
  /-- R412: Two low samples of WARM_RESET_N stop pours, finish Riser writes, self-refresh HBM and take links down. -/
  | warmReset
  /-- R412: Once the warm entry is complete and WARM_RESET_N is high, the warm boot starts. -/
  | warmBootStart
  /-- R407: A boot stage completes and the stages after it start. -/
  | bootStageDone (stage : Nat) (result : BootResult)
  /-- R423: PWRGD_AON rising resets BOOT_STATUS and makes it readable over MCTP. -/
  | pwrgdAonRise
  /-- R425: PWRGD_AON falling is treated as loss of VDD_AON. -/
  | pwrgdAonFall
  /-- R425: AON_CLK absent for more than 2 µs causes a cold reset. -/
  | aonClkLoss
  /-- R425: A rail out of range for more than 5 µs while PWRGD_MAIN is high causes a cold reset. -/
  | railOutOfRange
  /-- R415: Loss of VDD_AON loses everything but MRAM and restarts CNT_TIME. -/
  | vddAonLoss
  /-- R409: The board controller reads BOOT_STATUS over MCTP. -/
  | mctpBootStatus
  /-- R428: The board controller's MCTP read of ERR_LOG_SEQ releases SMB_ALERT_N. -/
  | errLogSeqRead
  /-- R429: QSPI_HOLD_N low makes the Nelhan finish its flash command and release the flash; high lets it resume. -/
  | qspiHold (level : Bool) (writes : List (Nat × Byte))
  /-- R430: A JTAG TAP operation runs as IEEE 1149.1 states, limited by the Assay. -/
  | jtagInstruction (op : JtagOp)
  /-- R394: VDD_AON is applied: the always-on islands start and CNT_TIME starts from zero, with LSHUT_N held low. -/
  | vddAonApplied
  /-- R410: A port's PERST_N rises and the port begins to answer configuration requests within 100 ms, with CRS until readiness. -/
  | perstNRelease (port : HostPort)
  /-- R196: A host port's PCIe link comes back up, so replies and MSI-X messages waiting for it go out in order if the port is out of reset and Bus Master Enable is set. -/
  | hostLinkUp (port : HostPort)
  /-- R414: A function-level reset completes within 100 ms, and the port again answers configuration and may carry waiting replies. -/
  | flrComplete (port : HostPort)
  /-- R215: The standby Sprue pair fails, SPR_STATE.STANDBY_READY returns to 0 and stays 0 until a cold boot finds both pairs working. -/
  | standbySprueFailure
deriving DecidableEq, Repr

end Sys2Proof
end

