-- ==== Sys2Proof/Decode.lean ====
section
/-! DEFINITION. The commands have no encoding: no row of the table of operations gives bits. -/

namespace Sys2Proof

/-- The command a word of the table's bits spells: none, since no row of the table gives bits. -/
def decodeTableWord (_nbits _w : Nat) : Option Instr := none

end Sys2Proof
end

