-- ==== Sys2Proof/Config.lean ====
section
/-! DEFINITION. What the spec leaves to the part or gives no value for: free values with no body.
Nothing in Lean can evaluate one of them, so a statement holds for every value they may have. -/

namespace Sys2Proof

/-- A value the spec does not fix, drawn freshly: the state's counter `free` gives the index and moves on. -/
opaque Config.freeValue : Nat → BitVec 64
/-- The unique device secret, burnt at manufacture (Table 18-1). -/
opaque Config.uds : BitVec 384
/-- ROM_DIGEST, burnt at manufacture (Table 18-1). -/
opaque Config.romDigest : BitVec 384
/-- The vendor key digests burnt at manufacture (Table 18-1): 0 and 1 ECDSA, 2 and 3 LMS. -/
opaque Config.keyDigest : Nat → BitVec 384
/-- The identity certificate burnt at manufacture (R357). -/
opaque Config.certificate : IdCert
/-- What the leveller adds to the writes of the most-written physical line beyond the average, by the line writes made: R259 bounds it,
and does not give it. -/
opaque Config.wear : Nat → Nat
/-- Lines that a rebuild copies in 25 ms beyond the 2,048 of a copy: R255 bounds its time, and does not give its pace. -/
opaque Config.rebuildPace : Nat
/-- The energy in nJ of one event of the counter at an offset of the CNT block (R341): calibrated per chip at manufacture. -/
opaque Config.eventEnergy : Nat → Nat
/-- The events that the counter at an offset of the CNT block counts in the period of AON_CLK that ends at a chip-local time, of the
counters whose events hang on cycles, refresh and symbol errors that the spec does not give (R397, log entry 5). -/
opaque Config.events : Nat → Nat → Nat
/-- The leakage in mW that the junction temperatures give (R341). -/
opaque Config.leakage : List (BitVec 16) → Nat
/-- What a lock acquisition, by a free index, calibrates of a ring's coefficient: R309 gives it to within 5 %. -/
opaque Config.ringCalibration : Nat → Nat
/-- The slot on the chip's board of a member, by flask and rank, that no live port of the join leads to; 8 or more where the member is on
another board. The join does not tell the chip (R71, R284). -/
opaque Config.memberSlot : BitVec 16 → Nat → Nat
/-- What a JTAG instruction code stands for; the spec gives no code (R369): 0 BYPASS, 1 IDCODE, 2 SAMPLE/PRELOAD, 3 EXTEST,
others a private instruction. -/
opaque Config.jtagCode : BitVec 8 → Nat
/-- The names in the certificates, as DER: 0 the device CA, 1 the device, 2 the alias key. The spec gives none (R357). -/
opaque Config.certName : Nat → List Byte
/-- The fixed dates of the identity certificate (1) and of the alias certificate (2), as DER. The spec gives none (R357). -/
opaque Config.certValidity : Nat → List Byte
/-- The object identifier of the Keaginor dual-signature extension, in its encoded form (R357). -/
opaque Config.dualSignatureOid : List Byte
/-- The revision ID of a port (R194). -/
opaque Config.revisionId : BitVec 8
/-- The endpoint ID that the bus owner has assigned (R428). -/
opaque Config.endpointId : Byte
/-- Keaginor's vendor ID at the PCI-SIG (R194, R409). -/
opaque Config.vendorId : BitVec 16
/-- The port, true for Drag, that carries a register write whose command names no port, at a chip-local time (R399). -/
opaque Config.writePort : Nat → Bool
/-- The secret number of the signature on the alias certificate, which is the same for the same bytes (R357). -/
opaque Config.aliasNonce : List Byte → Nat
/-- The certificates of the Keaginor device CA and of its root (R364). -/
opaque Config.caCertificate : List Byte
opaque Config.rootCertificate : List Byte
/-- The message of the SPDM responder around the bytes that a request asks for (DMTF DSP0274, outside the spec), at a free index. -/
opaque Config.spdmMessage : Nat → List Byte → Nat → List Byte

end Sys2Proof
end

