-- ==== Sys2Proof/Machine/Formats.lean ====
section
/-! DEFINITION. The fifteen element formats (R29), exact dyadic values, the three rounding modes (R40),
the conversions (R35 to R39), the keyed generator (R43) and the FP operations every engine shares. -/

namespace Sys2Proof.Machine

/-- How a floating-point format uses its highest exponent (Table 2-1). -/
inductive Special where
  /-- infinities and NaNs as IEEE 754 has them -/
  | ieee
  /-- FP8-E4M3: ordinary values up to mantissa 110, and one NaN -/
  | e4m3
  /-- no infinity and no NaN -/
  | finite
deriving DecidableEq, Repr

/-- What a format code denotes (Table 2-1). -/
inductive Form where
  | float (expBits manBits : Nat) (bias : Nat) (special : Special)
  | scale
  | sint (bits : Nat)
  | uint (bits : Nat)
deriving DecidableEq, Repr

/-- Table 2-1; code 0xF is reserved (R30). -/
def formOf : Nat → Option Form
  | 0x0 => some (.float 8 23 127 .ieee)
  | 0x1 => some (.float 8 7 127 .ieee)
  | 0x2 => some (.float 5 10 15 .ieee)
  | 0x3 => some (.float 4 3 7 .e4m3)
  | 0x4 => some (.float 5 2 15 .ieee)
  | 0x5 => some (.float 3 2 3 .finite)
  | 0x6 => some (.float 2 3 1 .finite)
  | 0x7 => some (.float 2 1 1 .finite)
  | 0x8 => some .scale
  | 0x9 => some (.sint 32)
  | 0xA => some (.sint 16)
  | 0xB => some (.sint 8)
  | 0xC => some (.uint 8)
  | 0xD => some (.sint 4)
  | 0xE => some (.float 11 52 1023 .ieee)
  | _ => none

/-- The width in bits of a format code (Table 2-1); 32 for the reserved code, which no check lets through. -/
def widthBits : Nat → Nat
  | 0x0 => 32
  | 0x1 => 16
  | 0x2 => 16
  | 0x3 => 8
  | 0x4 => 8
  | 0x5 => 6
  | 0x6 => 6
  | 0x7 => 4
  | 0x8 => 8
  | 0x9 => 32
  | 0xA => 16
  | 0xB => 8
  | 0xC => 8
  | 0xD => 4
  | 0xE => 64
  | _ => 32

/-- The codes 0x9 to 0xD are integer formats (R29). -/
def isIntCode (c : Nat) : Bool := 0x9 ≤ c && c ≤ 0xD

/-- The element formats an MX operand may carry (R48). -/
def isMxCode (c : Nat) : Bool := 0x3 ≤ c && c ≤ 0x7

/-- An exact value: NaN, an infinity, or (−1)^neg × m × 2^e. -/
inductive Num where
  | nan
  | inf (neg : Bool)
  | fin (neg : Bool) (m : Nat) (e : Int)
deriving DecidableEq, Repr

/-- The value +0. -/
def Num.zero : Num := .fin false 0 0

/-- An integer as an exact value. -/
def Num.ofInt (i : Int) : Num := .fin (i < 0) i.natAbs 0

/-- Two's complement value of the low `w` bits of `b`. -/
def signedOf (w b : Nat) : Int :=
  let v := b % 2 ^ w
  if 2 * v < 2 ^ w then (v : Int) else (v : Int) - 2 ^ w

/-- The low `w` bits of an integer. -/
def bitsOfInt (w : Nat) (i : Int) : Nat := (i % (2 ^ w : Nat)).toNat

/-- The value of the bits of a floating-point format (R29). -/
def decodeFloat (eb mb bias : Nat) (sp : Special) (bits : Nat) : Num :=
  let m := bits % 2 ^ mb
  let e := bits / 2 ^ mb % 2 ^ eb
  let neg := bits / 2 ^ (mb + eb) % 2 = 1
  let top := e = 2 ^ eb - 1
  if sp = .ieee ∧ top then (if m = 0 then .inf neg else .nan)
  else if sp = .e4m3 ∧ top ∧ m = 2 ^ mb - 1 then .nan
  else if e = 0 then .fin neg m (1 - (bias : Int) - mb)
  else .fin neg (2 ^ mb + m) ((e : Int) - bias - mb)

/-- The value of an element's bits in a format code (R29); the reserved code reads as NaN. -/
def decodeNum (code bits : Nat) : Num :=
  match formOf code with
  | some (.float eb mb bias sp) => decodeFloat eb mb bias sp bits
  | some .scale => if bits % 256 = 255 then .nan else .fin false 1 (((bits % 256 : Nat) : Int) - 127)
  | some (.sint w) => .ofInt (signedOf w bits)
  | some (.uint w) => .ofInt ((bits % 2 ^ w : Nat) : Int)
  | none => .nan

/-- The bits of the largest finite value without its sign (Table 2-1). -/
def maxFiniteBits (eb mb : Nat) : Special → Nat
  | .ieee => (2 ^ eb - 1) * 2 ^ mb - 1
  | .e4m3 => 2 ^ (eb + mb) - 2
  | .finite => 2 ^ (eb + mb) - 1

/-- The canonical NaN of a format code (R34). -/
def canonicalNan : Nat → Nat
  | 0x0 => 0x7FC00000
  | 0x1 => 0x7FC0
  | 0x2 => 0x7E00
  | 0x3 => 0x7F
  | 0x4 => 0x7E
  | 0x8 => 0xFF
  | 0xE => 0x7FF8000000000000
  | _ => 0

/-- The rounding modes of R40. -/
inductive RMode where
  | rne | rtz | sr
deriving DecidableEq, Repr

/-- R40's encoding; 0b11 is reserved. -/
def rmodeOf : Nat → Option RMode
  | 0 => some .rne
  | 1 => some .rtz
  | 2 => some .sr
  | _ => none

/-! ### The keyed generator (R42, R43) -/

/-- One round of R43 on the counter words and the key words. -/
def philoxRound (c : Nat × Nat × Nat × Nat) (k : Nat × Nat) : Nat × Nat × Nat × Nat :=
  let p0 := 0xD2511F53 * c.1
  let p1 := 0xCD9E8D57 * c.2.2.1
  ((p1 / 2 ^ 32) ^^^ c.2.1 ^^^ k.1, p1 % 2 ^ 32, (p0 / 2 ^ 32) ^^^ c.2.2.2 ^^^ k.2, p0 % 2 ^ 32)

/-- The rounds still to run. -/
def philox : Nat → Nat × Nat × Nat × Nat → Nat × Nat → Nat
  | 0, c, _ => c.1
  | n + 1, c, k =>
    philox n (philoxRound c k) ((k.1 + 0x9E3779B9) % 2 ^ 32, (k.2 + 0xBB67AE85) % 2 ^ 32)

/-- R43's sr_draw: seed, tensor identifier, element index modulo 2^64. -/
def srDraw (seed tid index : Nat) : Nat :=
  philox 10 (index % 2 ^ 32, index / 2 ^ 32 % 2 ^ 32, tid % 2 ^ 32, 1) (seed % 2 ^ 32, seed / 2 ^ 32 % 2 ^ 32)

/-- The three inputs of a draw (R44). -/
structure SrKey where
  seed  : Nat
  tid   : Nat
  index : Nat
deriving DecidableEq, Repr

/-- The draw r of a key (R45). -/
def SrKey.draw (k : SrKey) : Nat := srDraw k.seed k.tid k.index

/-- A key for conversions whose mode never draws. -/
def SrKey.none : SrKey := ⟨0, 0, 0⟩

/-! ### Rounding -/

/-- Whether the quotient of `rem` by `2^sh` above an integer `q` rounds away from zero (R40, R41). -/
def roundsAway (mode : RMode) (key : SrKey) (q rem sh : Nat) : Bool :=
  match mode with
  | .rtz => false
  | .rne => 2 * rem > 2 ^ sh || (2 * rem == 2 ^ sh && q % 2 == 1)
  | .sr => rem != 0 && key.draw < rem * 2 ^ 32 / 2 ^ sh

/-- `m × 2^e` rounded to a multiple of `2^qe`: the number of quanta (R36 step 2, R41). -/
def roundQuanta (mode : RMode) (key : SrKey) (m : Nat) (e qe : Int) : Nat :=
  if qe ≤ e then m * 2 ^ (e - qe).toNat
  else
    let sh := (qe - e).toNat
    let q := m / 2 ^ sh
    let rem := m % 2 ^ sh
    if roundsAway mode key q rem sh then q + 1 else q

/-- The magnitude bits of `m × 2^e` rounded to the format, its exponent unbounded above (R36). -/
def roundMagnitude (mode : RMode) (key : SrKey) (mb bias m : Nat) (e : Int) : Nat :=
  if m = 0 then 0
  else
    let low := 1 - (bias : Int) - mb
    let qe := max ((Nat.log2 m : Nat) + e - mb) low
    roundQuanta mode key m e qe + (qe - low).toNat * 2 ^ mb

/-- The result of a narrowing conversion: the bits, and whether R39 counts it. -/
structure Conv where
  bits : Nat
  saturated : Bool
  nanNarrowed : Bool
deriving DecidableEq, Repr

/-- Narrowing to a floating-point format: R36 and Table 2-3. -/
def narrowFloat (eb mb bias : Nat) (sp : Special) (cnan : Nat) (mode : RMode) (key : SrKey) (v : Num) : Conv :=
  let sgn (neg : Bool) : Nat := if neg then 2 ^ (eb + mb) else 0
  let top := maxFiniteBits eb mb sp
  match v with
  | .nan => if sp = .ieee then ⟨cnan, false, false⟩ else ⟨0, false, true⟩
  | .inf neg => if sp = .ieee then ⟨sgn neg + (top + 1), false, false⟩ else ⟨sgn neg + top, true, false⟩
  | .fin neg m e =>
    let b := roundMagnitude mode key mb bias m e
    if b ≤ top then ⟨sgn neg + b, false, false⟩
    else if sp = .ieee ∧ mode ≠ .rtz then ⟨sgn neg + (top + 1), false, false⟩
    else ⟨sgn neg + top, true, false⟩

/-- An integer limited to a range (R38). -/
def clampInt (lo hi i : Int) : Int := max lo (min hi i)

/-- Narrowing to an integer format with the range lo to hi: R38 and Table 2-3. -/
def narrowInt (w : Nat) (lo hi : Int) (mode : RMode) (key : SrKey) (v : Num) : Conv :=
  match v with
  | .nan => ⟨0, false, true⟩
  | .inf neg => ⟨bitsOfInt w (if neg then lo else hi), true, false⟩
  | .fin neg m e =>
    let q := roundQuanta mode key m e 0
    let i : Int := if neg then -(q : Int) else q
    ⟨bitsOfInt w (clampInt lo hi i), decide (i < lo ∨ hi < i), false⟩

/-- The conversion of an exact value to a format code (R36 to R38). -/
def narrowTo (code : Nat) (mode : RMode) (key : SrKey) (v : Num) : Conv :=
  match formOf code with
  | some (.float eb mb bias sp) => narrowFloat eb mb bias sp (canonicalNan code) mode key v
  | some (.sint w) => narrowInt w (-(2 ^ (w - 1) : Nat)) ((2 ^ (w - 1) : Nat) - 1) mode key v
  | some (.uint w) => narrowInt w 0 ((2 ^ w : Nat) - 1) mode key v
  | _ => ⟨0, false, false⟩

/-- One result of arithmetic rounded to nearest even in a format (R40). -/
def roundRne (code : Nat) (v : Num) : Nat := (narrowTo code .rne .none v).bits

/-! ### Exact arithmetic on values -/

/-- The signed mantissa of a finite value at the exponent `e0 ≤ e`. -/
def alignTo (e0 : Int) (neg : Bool) (m : Nat) (e : Int) : Int :=
  let a : Int := ((m * 2 ^ (e - e0).toNat : Nat) : Int)
  if neg then -a else a

/-- −v (R33 keeps the sign of zero). -/
def Num.neg : Num → Num
  | .nan => .nan
  | .inf n => .inf (!n)
  | .fin n m e => .fin (!n) m e

/-- |v|. -/
def Num.abs : Num → Num
  | .nan => .nan
  | .inf _ => .inf false
  | .fin _ m e => .fin false m e

/-- The exact sum; a zero sum of values that are not both negative zeros is +0 (IEEE 754, nearest even). -/
def Num.add : Num → Num → Num
  | .nan, _ => .nan
  | _, .nan => .nan
  | .inf a, .inf b => if a = b then .inf a else .nan
  | .inf a, _ => .inf a
  | _, .inf b => .inf b
  | .fin n1 m1 e1, .fin n2 m2 e2 =>
    if m1 = 0 ∧ m2 = 0 then .fin (n1 && n2) 0 0
    else
      let e0 := min e1 e2
      let s := alignTo e0 n1 m1 e1 + alignTo e0 n2 m2 e2
      .fin (s < 0) s.natAbs e0

/-- The exact difference. -/
def Num.sub (a b : Num) : Num := a.add b.neg

/-- The exact product. -/
def Num.mul : Num → Num → Num
  | .nan, _ => .nan
  | _, .nan => .nan
  | .inf a, .inf b => .inf (xor a b)
  | .inf a, .fin n m _ => if m = 0 then .nan else .inf (xor a n)
  | .fin n m _, .inf b => if m = 0 then .nan else .inf (xor n b)
  | .fin n1 m1 e1, .fin n2 m2 e2 => .fin (xor n1 n2) (m1 * m2) (e1 + e2)

/-- The quotient, with enough bits below the working precision and one sticky bit, so that one rounding
gives what rounding the exact quotient gives. -/
def Num.div : Num → Num → Num
  | .nan, _ => .nan
  | _, .nan => .nan
  | .inf _, .inf _ => .nan
  | .inf a, .fin n _ _ => .inf (xor a n)
  | .fin n _ _, .inf b => .fin (xor n b) 0 0
  | .fin n1 m1 e1, .fin n2 m2 e2 =>
    if m2 = 0 then (if m1 = 0 then .nan else .inf (xor n1 n2))
    else
      let k := 130 + Nat.log2 m2
      let q := m1 * 2 ^ k / m2
      let sticky := if m1 * 2 ^ k % m2 = 0 then 0 else 1
      .fin (xor n1 n2) (2 * q + sticky) (e1 - e2 - k - 1)

/-- Newton's iteration for the integer square root, `fuel` steps from above. -/
def isqrtLoop : Nat → Nat → Nat → Nat
  | 0, _, x => x
  | fuel + 1, n, x =>
    let y := (x + n / x) / 2
    if y < x then isqrtLoop fuel n y else x

/-- The integer square root. -/
def isqrt (n : Nat) : Nat := if n = 0 then 0 else isqrtLoop (Nat.log2 n + 2) n (2 ^ (Nat.log2 n / 2 + 1))

/-- The square root with a sticky bit, as `Num.div`; −0 gives −0 and a negative operand NaN. -/
def Num.sqrt : Num → Num
  | .nan => .nan
  | .inf false => .inf false
  | .inf true => .nan
  | .fin n m e =>
    if m = 0 then .fin n 0 0
    else if n then .nan
    else
      let pad : Nat := 260 + (if (e % 2 = 0) then 0 else 1)
      let mm := m * 2 ^ pad
      let r := isqrt mm
      let sticky := if r * r = mm then 0 else 1
      .fin false (2 * r + sticky) ((e - pad) / 2 - 1)

/-- 1 ÷ √v with a sticky bit (R141): +infinity for +0, −infinity for −0, +0 for +infinity. -/
def Num.rsqrt : Num → Num
  | .nan => .nan
  | .inf false => .fin false 0 0
  | .inf true => .nan
  | .fin n m e =>
    if m = 0 then .inf n
    else if n then .nan
    else
      -- 1/√(m·2^e) = √(2^(−e)/m), with e made even
      let (m', e') := if e % 2 = 0 then (m, e) else (2 * m, e - 1)
      let k := 2 * (140 + Nat.log2 m')
      let q := 2 ^ k / m'
      let r := isqrt q
      let exact := q * m' = 2 ^ k ∧ r * r = q
      .fin false (2 * r + (if exact then 0 else 1)) (-(e' / 2) - (k / 2 : Nat) - 1)

/-- Whether a finite value or an infinity lies below another; false with a NaN (R141). -/
def Num.lt : Num → Num → Bool
  | .nan, _ => false
  | _, .nan => false
  | .inf a, .inf b => a && !b
  | .inf a, .fin _ _ _ => a
  | .fin _ _ _, .inf b => !b
  | .fin n1 m1 e1, .fin n2 m2 e2 =>
    let e0 := min e1 e2
    decide (alignTo e0 n1 m1 e1 < alignTo e0 n2 m2 e2)

/-- Equality of values; −0 equals +0, and a NaN equals nothing (R141). -/
def Num.eq : Num → Num → Bool
  | .nan, _ => false
  | _, .nan => false
  | .inf a, .inf b => a == b
  | .inf _, .fin _ _ _ => false
  | .fin _ _ _, .inf _ => false
  | .fin n1 m1 e1, .fin n2 m2 e2 =>
    let e0 := min e1 e2
    decide (alignTo e0 n1 m1 e1 = alignTo e0 n2 m2 e2)

/-- Whether the sign bit is set; a NaN has none here. -/
def Num.isNeg : Num → Bool
  | .nan => false
  | .inf n => n
  | .fin n _ _ => n

/-- Whether the value is a NaN. -/
def Num.isNan : Num → Bool
  | .nan => true
  | _ => false

/-- Whether the value is finite. -/
def Num.isFinite : Num → Bool
  | .fin _ _ _ => true
  | _ => false

/-- The minimum of R141: NaN if either is, and min(−0, +0) = −0. -/
def Num.min (a b : Num) : Num :=
  if a.isNan || b.isNan then .nan
  else if a.lt b then a
  else if b.lt a then b
  else if a.isNeg then a else b

/-- The maximum of R141: NaN if either is, and max(−0, +0) = +0. -/
def Num.max (a b : Num) : Num :=
  if a.isNan || b.isNan then .nan
  else if a.lt b then b
  else if b.lt a then a
  else if a.isNeg then b else a

/-- v × 2^k, exactly. -/
def Num.scaleBy (k : Int) : Num → Num
  | .nan => .nan
  | .inf n => .inf n
  | .fin n m e => .fin n m (e + k)

/-- floor(log2 |v|) of a finite non-zero value. -/
def floorLog2 (m : Nat) (e : Int) : Int := (Nat.log2 m : Nat) + e

/-! ### Operations in a format: bits in, bits out, one rounding (R40) -/

/-- a + b in a format. -/
def fpAdd (code a b : Nat) : Nat := roundRne code ((decodeNum code a).add (decodeNum code b))
/-- a − b in a format. -/
def fpSub (code a b : Nat) : Nat := roundRne code ((decodeNum code a).sub (decodeNum code b))
/-- a × b in a format. -/
def fpMul (code a b : Nat) : Nat := roundRne code ((decodeNum code a).mul (decodeNum code b))
/-- a ÷ b in a format. -/
def fpDiv (code a b : Nat) : Nat := roundRne code ((decodeNum code a).div (decodeNum code b))
/-- √a in a format. -/
def fpSqrt (code a : Nat) : Nat := roundRne code (decodeNum code a).sqrt
/-- a × b + c with one rounding. -/
def fpFma (code a b c : Nat) : Nat :=
  roundRne code (((decodeNum code a).mul (decodeNum code b)).add (decodeNum code c))
/-- −a: the sign bit flipped; a NaN gives the canonical NaN (R34). -/
def fpNeg (code a : Nat) : Nat := roundRne code (decodeNum code a).neg
/-- |a|; a NaN gives the canonical NaN (R34). -/
def fpAbs (code a : Nat) : Nat := roundRne code (decodeNum code a).abs
/-- The minimum of R141. -/
def fpMin (code a b : Nat) : Nat := roundRne code ((decodeNum code a).min (decodeNum code b))
/-- The maximum of R141. -/
def fpMax (code a b : Nat) : Nat := roundRne code ((decodeNum code a).max (decodeNum code b))
/-- Whether an element is infinite or NaN; integer formats have neither. -/
def isNonfinite (code bits : Nat) : Bool := !(decodeNum code bits).isFinite

/-! ### FP32 functions (R151) -/

/-- fadd of R151. -/
def fadd (a b : Nat) : Nat := fpAdd 0 a b
/-- fsub of R151. -/
def fsub (a b : Nat) : Nat := fpSub 0 a b
/-- fmul of R151. -/
def fmul (a b : Nat) : Nat := fpMul 0 a b
/-- fdiv of R151. -/
def fdiv (a b : Nat) : Nat := fpDiv 0 a b
/-- FP32 a ≥ b; false with a NaN. -/
def fge (a b : Nat) : Bool :=
  let x := decodeNum 0 a
  let y := decodeNum 0 b
  y.lt x || y.eq x
/-- FP32 a > b. -/
def fgt (a b : Nat) : Bool := (decodeNum 0 b).lt (decodeNum 0 a)
/-- Whether FP32 bits are a NaN. -/
def fIsNan (a : Nat) : Bool := (decodeNum 0 a).isNan
/-- FP32 magnitude bits. -/
def fMagnitude (a : Nat) : Nat := a % 2 ^ 31
/-- |y| with the sign of v. -/
def copySign (y v : Nat) : Nat := fMagnitude y + v / 2 ^ 31 % 2 * 2 ^ 31
/-- Sign bit flipped (exact negation of R151). -/
def fFlip (v : Nat) : Nat := fMagnitude v + (1 - v / 2 ^ 31 % 2) * 2 ^ 31
/-- The FP32 bits of −infinity. -/
def fNegInf : Nat := 0xFF800000
/-- The FP32 canonical NaN. -/
def fNan : Nat := 0x7FC00000
/-- The coefficients of a Horner chain in fadd and fmul, from the highest. -/
def horner (x : Nat) : Nat → List Nat → Nat
  | p, [] => p
  | p, c :: cs => horner x (fadd (fmul p x) c) cs

/-- R151, relu. -/
def fnRelu (v : Nat) : Nat := if fIsNan v then fNan else if fgt v 0 then v else 0

/-- R151, exp_f32. -/
def fnExp (x : Nat) : Nat :=
  if fIsNan x then fNan
  else if fge x 0x42B20000 then 0x7F800000
  else if fge 0xC2D00000 x then 0
  else
    match decodeNum 0 (fmul x 0x3FB8AA3B) with
    | .fin neg m e =>
      let q := roundQuanta .rne .none m e 0
      let k : Int := if neg then -(q : Int) else q
      -- a zero k keeps the sign that an integer has: none
      let kf := roundRne 0 (.ofInt k)
      let r := fsub x (roundRne 0 ((Num.ofInt k).mul (decodeNum 0 0x3F318000)))
      let r := fsub r (fmul kf 0xB95E8083)
      let p := horner r 0x39500D01
        [0x3AB60B61, 0x3C088889, 0x3D2AAAAB, 0x3E2AAAAB, 0x3F000000, 0x3F800000, 0x3F800000]
      roundRne 0 ((decodeNum 0 p).scaleBy k)
    | _ => fNan

/-- R151, log_f32. -/
def fnLog (x : Nat) : Nat :=
  match decodeNum 0 x with
  | .nan => fNan
  | .inf false => 0x7F800000
  | .inf true => fNan
  | .fin neg m e =>
    if m = 0 then fNegInf
    else if neg then fNan
    else
      let l := Nat.log2 m
      let mant : Num := .fin false m (-(l : Int))
      let ex : Int := l + e
      let (mant, ex) := if (decodeNum 0 0x3FB504F3).lt mant then (mant.scaleBy (-1), ex + 1) else (mant, ex)
      let f := fsub (roundRne 0 mant) 0x3F800000
      let s := fdiv f (fadd 0x40000000 f)
      let z := fmul s s
      let q := fmul (horner z 0x3DE38E39 [0x3E124925, 0x3E4CCCCD, 0x3EAAAAAB]) z
      let t := fmul (fadd (fmul s q) s) 0x40000000
      let ef := roundRne 0 (.ofInt ex)
      fadd (fadd (fmul ef 0xB95E8083) t) (roundRne 0 ((Num.ofInt ex).mul (decodeNum 0 0x3F318000)))

/-- R151, sigmoid. -/
def fnSigmoid (v : Nat) : Nat :=
  if fIsNan v then fNan else fdiv 0x3F800000 (fadd 0x3F800000 (fnExp (fFlip v)))

/-- R151, silu. -/
def fnSilu (v : Nat) : Nat :=
  if fIsNan v then fNan else if v = fNegInf then 0x80000000 else fmul v (fnSigmoid v)

/-- R151, tanh. -/
def fnTanh (v : Nat) : Nat :=
  if fIsNan v then fNan
  else
    let a := fMagnitude v
    let y :=
      if fge a 0x41200000 then 0x3F800000
      else if fgt 0x3E800000 a then
        let z := fmul a a
        let q := horner z 0xBC11371A [0x3CB327A4, 0xBD5D0DD1, 0x3E088889, 0xBEAAAAAB]
        fadd (fmul (fmul a z) q) a
      else fsub 0x3F800000 (fdiv 0x40000000 (fadd (fnExp (fmul a 0x40000000)) 0x3F800000))
    copySign y v

/-- R151, erf_f32. -/
def fnErf (x : Nat) : Nat :=
  if fIsNan x then fNan
  else
    let a := fMagnitude x
    let y :=
      if fge a 0x40800000 then 0x3F800000
      else
        let t := fdiv 0x3F800000 (fadd 0x3F800000 (fmul 0x3EA7BA05 a))
        let p := fmul (horner t 0x3F87DC22 [0xBFBA00E3, 0x3FB5F0E3, 0xBE91A98E, 0x3E827906]) t
        fsub 0x3F800000 (fmul p (fnExp (fFlip (fmul a a))))
    copySign y x

/-- R151, gelu_tanh. -/
def fnGeluTanh (v : Nat) : Nat :=
  if fIsNan v then fNan
  else if v = fNegInf then 0x80000000
  else
    let u := fmul v (fmul v v)
    let u := fmul 0x3F4C422A (fadd v (fmul 0x3D372713 u))
    fmul (fmul 0x3F000000 v) (fadd 0x3F800000 (fnTanh u))

/-- R151, gelu_erf. -/
def fnGeluErf (v : Nat) : Nat :=
  if fIsNan v then fNan
  else if v = fNegInf then 0x80000000
  else fmul (fmul 0x3F000000 v) (fadd 0x3F800000 (fnErf (fmul v 0x3F3504F3)))

/-- The activations of Table 6-4, by the code ACT; the reserved codes never get here. -/
def activation : Nat → Nat → Nat
  | 1, v => fnRelu v
  | 2, v => fnGeluTanh v
  | 3, v => fnGeluErf v
  | 4, v => fnSilu v
  | 5, v => fnSigmoid v
  | 6, v => fnTanh v
  | _, v => v

/-! ### Block scaling (R48 to R52) -/

/-- An element of an MX operand times its scale, exactly; a scale of 0xFF makes it NaN (R48). -/
def mxValue (code bits scale : Nat) : Num :=
  if scale % 256 = 255 then .nan else (decodeNum code bits).scaleBy (((scale % 256 : Nat) : Int) - 127)

/-- emax of R52. -/
def mxEmax : Nat → Int
  | 3 => 8
  | 4 => 15
  | 5 => 4
  | 6 => 2
  | 7 => 2
  | _ => 0

/-- The larger of two magnitudes, an infinity above every finite one. -/
def magMax (a b : Num) : Num := if a.abs.lt b.abs then b.abs else a.abs

/-- x of R52 step 2 from the largest magnitude of the block. -/
def mxExponent (code : Nat) (amax : Num) : Int :=
  match amax with
  | .inf _ => 127
  | .nan => 127
  | .fin _ m e => if m = 0 then -127 else clampInt (-127) 127 (floorLog2 m e - mxEmax code)

/-- One element of R52 step 4: narrowed, and a finite overflow written as the largest finite value. -/
def mxNarrow (code : Nat) (mode : RMode) (key : SrKey) (v : Num) : Conv :=
  match formOf code, v with
  | some (.float eb mb bias sp), .fin neg m e =>
    let b := roundMagnitude mode key mb bias m e
    let top := maxFiniteBits eb mb sp
    let sgn : Nat := if neg then 2 ^ (eb + mb) else 0
    if b ≤ top then ⟨sgn + b, false, false⟩ else ⟨sgn + top, true, false⟩
  | _, w => narrowTo code mode key w

/-- A block of R52: the scale byte and the elements with their counts, from FP32 values and their keys. -/
def mxBlock (code : Nat) (mode : RMode) (vals : List (Num × SrKey)) : Nat × List Conv :=
  if vals.any (fun v => v.1.isNan) then
    (255, vals.map fun v => ⟨0, false, v.1.isNan⟩)
  else
    let amax := vals.foldl (fun a v => magMax a v.1) Num.zero
    let x := mxExponent code amax
    ((x + 127).toNat, vals.map fun v => mxNarrow code mode v.2 (v.1.scaleBy (-x)))

/-! ### Integer and matrix steps -/

/-- An integer limited to `w` bits, and whether it was (R141, R106). -/
def saturate (w : Nat) (i : Int) : Int × Bool :=
  let lo : Int := -(2 ^ (w - 1) : Nat)
  let hi : Int := (2 ^ (w - 1) : Nat) - 1
  (clampInt lo hi i, decide (i < lo ∨ hi < i))

/-- step of R105: acc + a × w, the product exact, one rounding to FP32. -/
def macStep (acc : Nat) (a w : Num) : Nat := roundRne 0 ((decodeNum 0 acc).add (a.mul w))

/-- The high part of R107: the upper sixteen bits, and 0x7FC0 for a NaN. -/
def splitHi (x : Nat) : Nat := if fIsNan x then 0x7FC0 else x / 2 ^ 16 % 2 ^ 16

/-- The low part of R107. -/
def splitLo (x : Nat) : Nat :=
  if isNonfinite 0 x then 0 else roundRne 1 ((decodeNum 0 x).sub (decodeNum 1 (splitHi x)))

/-- The three passes of R107 for one k. -/
def macStep32 (acc aHi aLo wHi wLo : Nat) : Nat :=
  let acc := macStep acc (decodeNum 1 aHi) (decodeNum 1 wHi)
  let acc := macStep acc (decodeNum 1 aHi) (decodeNum 1 wLo)
  macStep acc (decodeNum 1 aLo) (decodeNum 1 wHi)

/-! ### Sums in tree order (R143) -/

/-- The largest power of two below n, for n > 1. -/
def treeSplit (n : Nat) : Nat := if n ≤ 1 then 0 else 2 ^ Nat.log2 (n - 1)

/-- The tree of R143 over the leaves, with `fuel` at least its depth; empty leaves drop out. -/
def treeFold {α : Type} (combine : α → α → α) : Nat → List (Option α) → Option α
  | 0, ls => ls.head?.join
  | _ + 1, [] => none
  | _ + 1, [x] => x
  | fuel + 1, ls =>
    let h := treeSplit ls.length
    match treeFold combine fuel (ls.take h), treeFold combine fuel (ls.drop h) with
    | none, b => b
    | a, none => a
    | some a, some b => some (combine a b)

/-- The bias correction of R171, bits 63 down to 0 of n. -/
def biasLoop (b n : Nat) : Nat → Nat → Nat
  | 0, p => p
  | i + 1, p =>
    let p := fpMul 0xE p p
    biasLoop b n i (if n / 2 ^ i % 2 = 1 then fpMul 0xE p b else p)

/-- bias_correction(beta, n) of R171: FP32 bits in, FP32 bits out. -/
def biasCorrection (beta n : Nat) : Nat :=
  let b := roundRne 0xE (decodeNum 0 beta)
  let p := biasLoop b n 64 0x3FF0000000000000
  roundRne 0 (decodeNum 0xE (fpSub 0xE 0x3FF0000000000000 p))

end Sys2Proof.Machine
end

