-- ==== Sys2Proof/Machine/Store.lean ====
section
/-! DEFINITION. Sparse tables and memories in one canonical form, and the 288/256 code over them
(R374 to R382): decoding a codeword, poison and its HBM map, whole and partial writes. -/

namespace Sys2Proof.Machine

/-! ### Tables -/

/-- A table from numbers to values: keys strictly rising, no entry equal to the table's default value. -/
abbrev Tab (α : Type) := List (Nat × α)

/-- The entry of a key, or the default. -/
def Tab.get {α : Type} (d : α) : Tab α → Nat → α
  | [], _ => d
  | (k, v) :: t, i => if k = i then v else Tab.get d t i

/-- An entry put in its place, replacing one of the same key. -/
def Tab.insert {α : Type} (k : Nat) (v : α) : Tab α → Tab α
  | [] => [(k, v)]
  | (k', v') :: t =>
    if k < k' then (k, v) :: (k', v') :: t
    else if k = k' then (k, v) :: t
    else (k', v') :: Tab.insert k v t

/-- The entry of a key set; setting the default removes it, so that equal tables are equal data. -/
def Tab.put {α : Type} [DecidableEq α] (d : α) (t : Tab α) (k : Nat) (v : α) : Tab α :=
  if v = d then t.filter (fun e => e.1 ≠ k) else Tab.insert k v t

/-- The entry of a key changed by a function. -/
def Tab.upd {α : Type} [DecidableEq α] (d : α) (t : Tab α) (k : Nat) (f : α → α) : Tab α :=
  Tab.put d t k (f (Tab.get d t k))

/-- The canonical form of a table: keys strictly rising, no default entry. -/
def Tab.wf {α : Type} [DecidableEq α] (d : α) (t : Tab α) : Bool :=
  decide (t.Pairwise (fun a b => a.1 < b.1)) && t.all (fun e => decide (e.2 ≠ d))

/-! ### Memories -/

/-- A memory under the code: its bytes, and for each codeword the difference between the check bits it holds
and the check bits of its data (R374). An unlisted byte reads 0 and an unlisted codeword is clean. -/
structure Mem where
  bytes : List Host.Cell
  chk   : List (Nat × BitVec 32)
deriving DecidableEq, Repr

/-- The memory that holds zeros. -/
def Mem.zeros : Mem := ⟨[], []⟩

/-- The canonical form: addresses strictly rising, and no entry equal to what an unlisted address reads as. -/
def Mem.wf (m : Mem) : Bool := Tab.wf 0 m.bytes && Tab.wf 0 m.chk

/-- The byte at an address. -/
def Mem.byte (m : Mem) (a : Nat) : Byte := Tab.get 0 m.bytes a

/-- The cells of a range. -/
def cellsIn {α : Type} (t : Tab α) (a n : Nat) : Tab α := t.filter (fun e => a ≤ e.1 && e.1 < a + n)

/-- The cells outside a range. -/
def cellsOut {α : Type} (t : Tab α) (a n : Nat) : Tab α := t.filter (fun e => !(a ≤ e.1 && e.1 < a + n))

/-- `n` bytes from an address on, from the cells of that range. -/
def bytesFrom (w : Tab Byte) : Nat → Nat → List Byte
  | _, 0 => []
  | a, n + 1 => Tab.get 0 w a :: bytesFrom w (a + 1) n

/-- The listed cells of bytes laid from an address on. -/
def cellsOf : Nat → List Byte → Tab Byte
  | _, [] => []
  | a, b :: bs => if b = 0 then cellsOf (a + 1) bs else (a, b) :: cellsOf (a + 1) bs

/-- `n` bytes as they are stored. -/
def Mem.raw (m : Mem) (a n : Nat) : List Byte := bytesFrom (cellsIn m.bytes a n) a n

/-- Bytes laid over a memory; check-bit differences stay. -/
def Mem.lay (m : Mem) (a : Nat) (bs : List Byte) : Mem :=
  { m with bytes :=
      m.bytes.filter (fun e => e.1 < a) ++ cellsOf a bs ++ m.bytes.filter (fun e => a + bs.length ≤ e.1) }

/-- A range set to zero and clean, without listing it. -/
def Mem.clear (m : Mem) (a n : Nat) : Mem :=
  ⟨cellsOut m.bytes a n, cellsOut m.chk (a / 32) ((a + n + 31) / 32 - a / 32)⟩

/-- The check-bit difference of a codeword set. -/
def Mem.setChk (m : Mem) (c : Nat) (d : BitVec 32) : Mem := { m with chk := Tab.put 0 m.chk c d }

/-- Bytes as a number, the first byte lowest (R1). -/
def leNat : List Byte → Nat
  | [] => 0
  | b :: bs => b.toNat + 256 * leNat bs

/-- The low `n` bytes of a number, lowest first (R1). -/
def leBytes : Nat → Nat → List Byte
  | 0, _ => []
  | n + 1, v => BitVec.ofNat 8 v :: leBytes n (v / 256)

/-! ### The field and the code (R374) -/

/-- Multiplication by α = 2 in GF(2^8) with the polynomial 0x11D. -/
def gfDouble (a : Nat) : Nat := if 128 ≤ a then (2 * a) ^^^ 0x11D else 2 * a

/-- Multiplication, `fuel` bits of `b` from the lowest. -/
def gfMulLoop : Nat → Nat → Nat → Nat → Nat
  | 0, _, _, acc => acc
  | fuel + 1, a, b, acc => gfMulLoop fuel (gfDouble a) (b / 2) (if b % 2 = 1 then acc ^^^ a else acc)

/-- Multiplication in GF(2^8). -/
def gfMul (a b : Nat) : Nat := gfMulLoop 8 a b 0

/-- α^n. -/
def gfPow : Nat → Nat
  | 0 => 1
  | n + 1 => gfDouble (gfPow n)

/-- One check symbol of a difference. -/
def chkSym (d : BitVec 32) (i : Nat) : Nat := d.toNat / 2 ^ (8 * i) % 256

/-- The syndrome S_m of a check-bit difference: the code is linear, so a word's syndromes are those of its difference. -/
def syndrome (d : BitVec 32) (m : Nat) : Nat :=
  chkSym d 0 ^^^ gfMul (chkSym d 1) (gfPow m) ^^^ gfMul (chkSym d 2) (gfPow (2 * m))
    ^^^ gfMul (chkSym d 3) (gfPow (3 * m))

/-- M of R375, symbol 0 lowest. -/
def poisonMark : BitVec 32 := 0x3C96C35A

/-- A single symbol error with these syndromes: its exponent e(j) and its value v. -/
def singleError (d : BitVec 32) : Option (Nat × Nat) :=
  let v := syndrome d 0
  if v = 0 then none
  else
    ((List.range 36).find? fun e =>
      gfMul v (gfPow e) == syndrome d 1 && gfMul v (gfPow (2 * e)) == syndrome d 2
        && gfMul v (gfPow (3 * e)) == syndrome d 3).map fun e => (e, v)

/-- The decoder classes of Table 19-1; a corrected symbol is its exponent and value. -/
inductive CwClass where
  | clean
  | corrected (exponent value : Nat)
  | poisoned (error : Option (Nat × Nat))
  | uncorrectable
deriving DecidableEq, Repr

/-- Table 19-1. -/
def classify (d : BitVec 32) : CwClass :=
  if d = 0 then .clean
  else
    match singleError d with
    | some (e, v) => .corrected e v
    | none =>
      if d = poisonMark then .poisoned none
      else
        match singleError (d ^^^ poisonMark) with
        | some ev => .poisoned (some ev)
        | none => .uncorrectable

/-- A data symbol corrected; a check symbol (exponent below 4) changes no data. -/
def fixData (data : List Byte) (e v : Nat) : List Byte :=
  if e < 4 then data else data.modify (e - 4) (fun b => b ^^^ BitVec.ofNat 8 v)

/-- The data of a codeword as Table 19-1 gives it. -/
def classData (data : List Byte) : CwClass → List Byte
  | .corrected e v => fixData data e v
  | .poisoned (some (e, v)) => fixData data e v
  | _ => data

/-! ### Codewords of a memory -/

/-- Which memory a codeword lies in: the chip-local space, or a memory of a cluster or die without an address. -/
inductive MemKind where
  | chip
  | priv (g : Nat)
  | tundish
deriving DecidableEq, Repr

/-- Where the ERR log places a codeword (Table 19-5 UNIT and INDEX). -/
inductive MemPlace where
  | hbm (s : Nat)
  | cluster (g : Nat)
  | intake
deriving DecidableEq, Repr

/-- What an access found or wrote that ERR counts (R379, R386, R392). -/
inductive MemEvent where
  | corrected (p : MemPlace)
  | uncorrectable (p : MemPlace) (addr : Nat)
  | poisonWritten
deriving DecidableEq, Repr

/-- A codeword of HBM (R16). -/
def isHbmCw (k : MemKind) (c : Nat) : Bool := k = .chip && c < 2 ^ 35

/-- The place of a codeword. -/
def placeOf (k : MemKind) (c : Nat) : MemPlace :=
  match k with
  | .priv g => .cluster g
  | .tundish => .intake
  | .chip => if c < 2 ^ 35 then .hbm (c / 2 ^ 32) else .cluster ((c - 2 ^ 35) / 2 ^ 20)

/-- The address the log gives a codeword: its chip-local address, zero where it has none. -/
def addrOf (k : MemKind) (c : Nat) : Nat := if k = .chip then 32 * c else 0

/-- The byte of the poison map that holds a codeword's bit (R381, Table 1-4). -/
def mapByteAddr (c : Nat) : Nat := c / 2 ^ 32 * 2 ^ 37 + 0x1F80000000 + c % 2 ^ 32 / 8

/-- The codeword's bit within that byte. -/
def mapBit (c : Nat) : Nat := c % 8

/-- The first of the 256 codewords a map codeword covers. -/
def mapCovers (mc : Nat) : Nat := mc / 2 ^ 32 * 2 ^ 32 + (32 * mc % 2 ^ 37 - 0x1F80000000) * 8

/-- The bit of the map as stored, with its codeword's single errors corrected. -/
def Mem.mapBitOf (m : Mem) (c : Nat) : Bool :=
  let a := mapByteAddr c
  let mc := a / 32
  let d := classData (m.raw (32 * mc) 32) (classify (Tab.get 0 m.chk mc))
  (d.getD (a % 32) 0).toNat.testBit (mapBit c)

/-- A codeword stored with a difference. -/
def Mem.putCw (m : Mem) (c : Nat) (data : List Byte) (d : BitVec 32) : Mem :=
  (m.lay (32 * c) data).setChk c d

/-- The codewords `c, c+1, …` written back poisoned with the data they hold. -/
def Mem.poisonRun (m : Mem) : Nat → Nat → Mem
  | _, 0 => m
  | c, n + 1 => Mem.poisonRun (m.setChk c poisonMark) (c + 1) n

/-- R381's loss of a map codeword: every codeword it covers is poisoned and the map codeword holds all ones. -/
def Mem.loseMap (m : Mem) (mc : Nat) : Mem :=
  (m.poisonRun (mapCovers mc) 256).putCw mc (List.replicate 32 0xFF) 0

/-- The events of that loss: one log entry with the map codeword's address, and 256 poisoned writes. -/
def loseMapEvents (mc : Nat) : List MemEvent :=
  .uncorrectable (.hbm (mc / 2 ^ 32)) (32 * mc) :: List.replicate 256 .poisonWritten

/-- Whether a map codeword can still be read: clean, or with one symbol in error. -/
def mapReadable (d : BitVec 32) : Bool :=
  match classify d with
  | .clean => true
  | .corrected _ _ => true
  | _ => false

/-- The memory and the events after making a codeword's map codeword readable. -/
def Mem.mapReady (m : Mem) (c : Nat) : Mem × List MemEvent :=
  let mc := mapByteAddr c / 32
  let d := Tab.get 0 m.chk mc
  if d = 0 then (m, [])
  else if mapReadable d then (m, [.corrected (.hbm (mc / 2 ^ 32))])
  else (m.loseMap mc, loseMapEvents mc)

/-- The map bit of an HBM codeword set; the map codeword is written whole and clean. -/
def Mem.setMap (m : Mem) (c : Nat) (b : Bool) : Mem :=
  let a := mapByteAddr c
  let mc := a / 32
  let d := classData (m.raw (32 * mc) 32) (classify (Tab.get 0 m.chk mc))
  let bit : Byte := BitVec.ofNat 8 (2 ^ mapBit c)
  m.putCw mc (d.modify (a % 32) fun x => if b then x ||| bit else x &&& ~~~bit) 0

/-- A codeword written poisoned; in HBM its map bit is set (R375, R381). -/
def Mem.writePoison (k : MemKind) (m : Mem) (c : Nat) (data : List Byte) : Mem :=
  let m := m.putCw c data poisonMark
  if isHbmCw k c then m.setMap c true else m

/-- A codeword written whole and clean; in HBM its map bit is cleared (R382). -/
def Mem.writeClean (k : MemKind) (m : Mem) (c : Nat) (data : List Byte) : Mem :=
  let m := m.putCw c data 0
  if isHbmCw k c && m.mapBitOf c then m.setMap c false else m

/-- What reading a codeword gives: its data, whether it is poisoned, whether this read found it uncorrectable,
the memory after it (R379 writes an uncorrectable word back poisoned), and what ERR counts. -/
structure CwRead where
  data     : List Byte
  poisoned : Bool
  bad      : Bool
  mem      : Mem
  events   : List MemEvent
deriving DecidableEq, Repr

/-- A codeword is one of a stack's poison map (Table 1-4). -/
def isMapCw (k : MemKind) (c : Nat) : Bool :=
  isHbmCw k c && decide (0x1F80000000 ≤ 32 * c % 2 ^ 37) && decide (32 * c % 2 ^ 37 < 0x1FA0000000)

/-- One codeword read: R376, R379, and in HBM R381. A map codeword that can no longer be read is lost to this read too. -/
def Mem.readCw (k : MemKind) (m : Mem) (c : Nat) : CwRead :=
  let (m, ev) := if isHbmCw k c then m.mapReady c else (m, [])
  let raw := m.raw (32 * c) 32
  let cls := classify (Tab.get 0 m.chk c)
  if isMapCw k c && !mapReadable (Tab.get 0 m.chk c) then
    let m := m.loseMap c
    ⟨List.replicate 32 0xFF, m.mapBitOf c, false, m, ev ++ loseMapEvents c⟩
  else if isHbmCw k c && m.mapBitOf c then ⟨classData raw cls, true, false, m, ev⟩
  else
    match cls with
    | .clean => ⟨raw, false, false, m, ev⟩
    | .corrected e v => ⟨fixData raw e v, false, false, m, ev ++ [.corrected (placeOf k c)]⟩
    | .poisoned _ => ⟨classData raw cls, true, false, m, ev⟩
    | .uncorrectable =>
      ⟨raw, true, true, m.writePoison k c raw,
        ev ++ [.uncorrectable (placeOf k c) (addrOf k c), .poisonWritten]⟩

/-- The numbers of a list in ascending order, each once. -/
def sortedSet (l : List Nat) : List Nat := (l.foldl (fun (t : Tab Unit) c => Tab.insert c () t) []).map (·.1)

/-- The codewords of `c0 .. c0 + n − 1` that may not read clean: a difference of their own, a map bit,
or a map codeword that has a difference. -/
def Mem.suspects (k : MemKind) (m : Mem) (c0 n : Nat) : List Nat :=
  let own := (cellsIn m.chk c0 n).map (·.1)
  if isHbmCw k c0 && n != 0 then
    let a0 := mapByteAddr c0
    let a1 := mapByteAddr (c0 + n - 1)
    let dirty := (cellsIn m.bytes a0 (a1 + 1 - a0)).flatMap fun e =>
      let first := mapCovers (e.1 / 32) + e.1 % 32 * 8
      (List.range 8).filterMap fun i => if e.2.toNat.testBit i then some (first + i) else none
    let lost := (cellsIn m.chk (a0 / 32) (a1 / 32 + 1 - a0 / 32)).flatMap fun e =>
      (List.range 256).map fun i => mapCovers e.1 + i
    sortedSet ((own ++ dirty ++ lost).filter fun c => c0 ≤ c && c < c0 + n)
  else own

/-- What reading a range gives: the data as corrected, the poisoned codewords in ascending order, the codewords this
read found uncorrectable, the memory after it and what ERR counts. -/
structure RangeRead where
  data     : List Byte
  poisoned : List Nat
  bad      : List Nat
  mem      : Mem
  events   : List MemEvent
deriving DecidableEq, Repr

/-- What reading a list of codewords one after the other gives: each one's data as corrected, and the rest as in
`RangeRead`. -/
structure SuspectRead where
  fixes    : List (Nat × List Byte)
  poisoned : List Nat
  bad      : List Nat
  mem      : Mem
  events   : List MemEvent
deriving DecidableEq, Repr

/-- Codewords read one after the other. -/
def Mem.readSuspects (k : MemKind) : Mem → List Nat → SuspectRead
  | m, [] => ⟨[], [], [], m, []⟩
  | m, c :: cs =>
    let r := m.readCw k c
    let rest := Mem.readSuspects k r.mem cs
    { rest with
      fixes := (c, r.data) :: rest.fixes
      poisoned := if r.poisoned then c :: rest.poisoned else rest.poisoned
      bad := if r.bad then c :: rest.bad else rest.bad
      events := r.events ++ rest.events }

/-- A memory as its readers see it: single errors corrected in the data. -/
def Mem.withFixes (m : Mem) : List (Nat × List Byte) → Mem
  | [] => m
  | (c, d) :: fs => Mem.withFixes (m.lay (32 * c) d) fs

/-- The codewords a byte range touches: the first and how many. -/
def cwSpan (a n : Nat) : Nat × Nat := if n = 0 then (a / 32, 0) else (a / 32, (a + n - 1) / 32 + 1 - a / 32)

/-- `n` bytes read from an address on (R376, R379, R381). -/
def Mem.readRange (k : MemKind) (m : Mem) (a n : Nat) : RangeRead :=
  let sp := cwSpan a n
  match m.suspects k sp.1 sp.2 with
  | [] => ⟨m.raw a n, [], [], m, []⟩
  | sus =>
    let r := m.readSuspects k sus
    ⟨(m.withFixes r.fixes).raw a n, r.poisoned, r.bad, r.mem, r.events⟩

/-- The codewords of a list that are written over only in part, read for the merge (R377): a poisoned or an
uncorrectable one stays poisoned, the others are written clean. -/
def Mem.mergeRead (k : MemKind) (m : Mem) (c : Nat) : Bool × Mem × List MemEvent :=
  let r := m.readCw k c
  (r.poisoned, r.mem.lay (32 * c) r.data, r.events)

/-- A codeword after its merge: written poisoned or clean. -/
def Mem.mergeWrite (k : MemKind) (m : Mem) (c : Nat) (data : List Byte) : Mem × List MemEvent :=
  let (p, m, ev) := m.mergeRead k c
  if p then (m.writePoison k c data, ev ++ [.poisonWritten]) else (m.writeClean k c data, ev)

/-- What a codeword holds with bytes laid over a part of it. -/
def Mem.merged (k : MemKind) (m : Mem) (c a : Nat) (bs : List Byte) : List Byte :=
  let r := m.readCw k c
  ((r.mem.lay (32 * c) r.data).lay a bs).raw (32 * c) 32

/-- Whole codewords written clean one after the other; only those with a difference or a map bit need more than their
bytes. -/
def Mem.cleanAll (k : MemKind) : Mem → List Nat → Mem
  | m, [] => m
  | m, c :: cs =>
    Mem.cleanAll k (if isHbmCw k c then ((m.mapReady c).1.setChk c 0).setMap c false else m.setChk c 0) cs

/-- The events of the map codewords that `cleanAll` finds unreadable. -/
def Mem.cleanEvents (k : MemKind) : Mem → List Nat → List MemEvent
  | _, [] => []
  | m, c :: cs =>
    if isHbmCw k c then
      let (m', ev) := m.mapReady c
      ev ++ Mem.cleanEvents k ((m'.setChk c 0).setMap c false) cs
    else Mem.cleanEvents k (m.setChk c 0) cs

/-- The part of a byte list that lies within a codeword. -/
def partIn (c a : Nat) (bs : List Byte) : Nat × List Byte :=
  if a < 32 * c then (32 * c, (bs.drop (32 * c - a)).take 32)
  else (a, bs.take (32 * c + 32 - a))

/-- One codeword written in part. -/
def Mem.writePart (k : MemKind) (m : Mem) (c a : Nat) (bs : List Byte) : Mem × List MemEvent :=
  m.mergeWrite k c (m.merged k c a bs)

/-- Bytes written from an address on: whole codewords clean (R382), the partial ones at either end by read, modify
and write (R377). -/
def Mem.writeRange (k : MemKind) (m : Mem) (a : Nat) (bs : List Byte) : Mem × List MemEvent :=
  let n := bs.length
  if n = 0 then (m, [])
  else
    let c0 := (a + 31) / 32
    let c1 := (a + n) / 32
    let head := a / 32
    let tail := (a + n - 1) / 32
    let (m, e1) :=
      if a % 32 ≠ 0 ∨ head = tail ∧ n < 32 then
        let p := partIn head a bs
        m.writePart k head p.1 p.2
      else (m, [])
    let (m, e2) :=
      if (a + n) % 32 ≠ 0 ∧ tail ≠ head then
        let p := partIn tail a bs
        m.writePart k tail p.1 p.2
      else (m, [])
    if c0 < c1 then
      let sus := m.suspects k c0 (c1 - c0)
      let ev := m.cleanEvents k sus
      let m := m.cleanAll k sus
      (m.lay (32 * c0) ((bs.drop (32 * c0 - a)).take (32 * (c1 - c0))), e1 ++ e2 ++ ev)
    else (m, e1 ++ e2)

/-- A carrier's write of one whole codeword, poisoned or clean (R380, R382). -/
def Mem.carryCw (k : MemKind) (m : Mem) (c : Nat) (data : List Byte) (poison : Bool) : Mem × List MemEvent :=
  if poison then
    let (m, ev) := if isHbmCw k c then m.mapReady c else (m, [])
    (m.writePoison k c data, ev ++ [.poisonWritten])
  else m.writeRange k (32 * c) data

/-! ### Writes of one instruction, merged by codeword (R382) -/

/-- The writes of one instruction to one memory: for each codeword, the mask of the bits written and their values.
Codewords stand in falling order, so that a write beyond the last is quick. -/
abbrev Patch := List (Nat × Nat × Nat)

/-- Bits `mask` of a codeword set to `v`. -/
def Patch.putCw (c mask v : Nat) : Patch → Patch
  | [] => [(c, mask, v)]
  | (c', m', v') :: t =>
    if c' < c then (c, mask, v) :: (c', m', v') :: t
    else if c = c' then (c, m' ||| mask, (v' ^^^ (v' &&& mask)) ||| v) :: t
    else (c', m', v') :: Patch.putCw c mask v t

/-- A value of `w` bits written at a bit address; it may cross into the next codeword (6-bit formats). -/
def Patch.write (p : Patch) (bitAddr w v : Nat) : Patch :=
  let c := bitAddr / 256
  let o := bitAddr % 256
  let mask := (2 ^ w - 1) * 2 ^ o
  let val := (v % 2 ^ w) * 2 ^ o
  if o + w ≤ 256 then Patch.putCw c mask val p
  else Patch.putCw (c + 1) (mask / 2 ^ 256) (val / 2 ^ 256) (Patch.putCw c (mask % 2 ^ 256) (val % 2 ^ 256) p)

/-- The value of `w` bits at a bit address as the patch leaves it over a memory. -/
def Patch.find (c : Nat) : Patch → Nat × Nat
  | [] => (0, 0)
  | (c', m, v) :: t => if c' = c then (m, v) else Patch.find c t

/-- A codeword of a memory as a number. -/
def Mem.cwNat (m : Mem) (c : Nat) : Nat := leNat (m.raw (32 * c) 32)

/-- `w` bits at a bit address of a memory, as stored. -/
def Mem.bitsAt (m : Mem) (bitAddr w : Nat) : Nat :=
  let c := bitAddr / 256
  let o := bitAddr % 256
  if o + w ≤ 256 then m.cwNat c / 2 ^ o % 2 ^ w
  else (m.cwNat c + m.cwNat (c + 1) * 2 ^ 256) / 2 ^ o % 2 ^ w

/-- A codeword of a memory with a patch over it. -/
def Patch.cwOver (p : Patch) (m : Mem) (c : Nat) : Nat :=
  let (mask, v) := p.find c
  let old := m.cwNat c
  (old ^^^ (old &&& mask)) ||| v

/-- `w` bits at a bit address of a memory with a patch over it. -/
def Patch.bitsOver (p : Patch) (m : Mem) (bitAddr w : Nat) : Nat :=
  let c := bitAddr / 256
  let o := bitAddr % 256
  if o + w ≤ 256 then p.cwOver m c / 2 ^ o % 2 ^ w
  else (p.cwOver m c + p.cwOver m (c + 1) * 2 ^ 256) / 2 ^ o % 2 ^ w

/-- One codeword of a patch written: whole and clean when every bit is covered, else merged (R377, R382). -/
def Mem.applyCw (k : MemKind) (m : Mem) (c mask v : Nat) : Mem × List MemEvent :=
  if mask = 2 ^ 256 - 1 then
    let (m, ev) := if isHbmCw k c then m.mapReady c else (m, [])
    (m.writeClean k c (leBytes 32 v), ev)
  else
    let r := m.readCw k c
    let old := leNat r.data
    m.mergeWrite k c (leBytes 32 ((old ^^^ (old &&& mask)) ||| v))

/-- A patch written to a memory, codewords in the patch's order. -/
def Mem.applyList (k : MemKind) : Mem → Patch → Mem × List MemEvent
  | m, [] => (m, [])
  | m, (c, mask, v) :: t =>
    let (m, e) := m.applyCw k c mask v
    let (m, es) := Mem.applyList k m t
    (m, e ++ es)

/-- A patch written to a memory in ascending order of codewords. -/
def Mem.apply (k : MemKind) (m : Mem) (p : Patch) : Mem × List MemEvent := m.applyList k p.reverse

end Sys2Proof.Machine
end

