-- ==== Sys2Proof/Machine/ClusterState.lean ====
section
/-! DEFINITION. The state of one cluster as plain data: control core, queues, instructions in flight, weight banks,
Crucible, vector registers, presence tokens, summary slots, the deferred list, the issue gate and the CLS registers
(chapters 4 to 8, 17, 20). -/

namespace Sys2Proof.Machine

/-- The footprints of an instruction (R64, R76): byte ranges by first and last board address after STATE translation
(R183), and each Crucible tile and each vector register as a footprint of its own. -/
structure Prints where
  rd     : List (Nat × Nat)
  wr     : List (Nat × Nat)
  tilesR : List Nat
  tilesW : List Nat
  regsR  : List Nat
  regsW  : List Nat
deriving DecidableEq, Repr

/-- No footprint. -/
def Prints.none : Prints := ⟨[], [], [], [], [], []⟩

/-- A queue entry: what ISSUE copied (R74) and what it encodes (Table 4-4). -/
structure QEntry where
  /-- address of the ISSUE that enqueued it (CLS_FAULT_PC) -/
  pc      : Nat
  /-- scalar data address of the command record -/
  addr    : Nat
  /-- the 64-byte command record -/
  record  : BitVec 512
  /-- the 64-byte lines copied with it (descriptors, update block), by scalar data address -/
  lines   : List (Nat × BitVec 512)
  /-- the value of SEED_X's register when ISSUE retired (R119) -/
  seed    : Word64
  /-- the values of KIND 5 operands, by bit position of their specifier (R135) -/
  scalars : List (Nat × Word64)
  /-- the scalar data addresses of the lines that are fixed and unchanged (R179): no check is made again on them -/
  fixed   : List Nat
  wait0   : Option (Nat × Bool)
  wait1   : Option (Nat × Bool)
  post0   : Option Nat
  post1   : Option Nat
  /-- the summary slot, with SUM_EN = 1 -/
  slot    : Option Nat
  /-- the cycle of its enqueueing, from the start of the attempt (R400) -/
  cycle   : Nat
deriving DecidableEq, Repr

/-- A weight bank (R97). Element (k, n) lies at bit (k × N_W + n) × width, an FP32 weight as its pair hi, lo in
32 bits, and the scale of column n and block b at byte 65,536 + b × N_W + n. -/
structure Bank where
  valid  : Bool
  form   : Nat
  fmt    : Nat
  mx     : Bool
  kW     : Nat
  nW     : Nat
  cells  : Mem
deriving DecidableEq, Repr

/-- A bank that holds nothing (R97: invalid when a pour starts). -/
def Bank.empty : Bank := ⟨false, 0, 0, false, 0, 0, Mem.zeros⟩

/-- How far a COPY has come (R91: accesses in ascending linear index of the destination, read before write). Elements
move in groups that fill whole destination codewords; each codeword read or written is an access of its own. -/
structure CopyState where
  /-- the first element of the group in progress -/
  next   : Nat
  /-- the values read of that group, and whether their codewords were poisoned -/
  got    : List (Nat × Bool)
  /-- every element is read before any is written (R66, R67) -/
  whole  : Bool
  /-- for such a copy: the values read -/
  buffer : List (Nat × Bool)
  /-- of a permuting copy: the codewords of these values that the Ladle holds with a difference (R377) -/
  ladle  : Tab (BitVec 32)
  /-- the tag of the board read that is awaited (R276) -/
  asked  : Option (BitVec 16)
  /-- codewords a peer has answered with and that are not used yet: number, bytes, poison -/
  come   : List (Nat × List Byte × Bool)
  /-- codewords of the element or group in progress whose access has started -/
  started : List Nat
  /-- the first element with an access in a slot that the cluster does not own: element, SOURCE and address (R91) -/
  miss   : Option (Nat × Nat × Nat)
  /-- every access has been made -/
  done   : Bool
deriving DecidableEq, Repr

/-- An instruction in flight. -/
structure Flight where
  /-- the number of its issue in this pour on this cluster -/
  idx      : Nat
  eng      : Engine
  entry    : QEntry
  /-- a step of the deferred list -/
  deferred : Bool
  prints   : Prints
  /-- what its summary will say (R86), eight words -/
  summary  : List Word64
  /-- the bank that becomes valid at its completion: which, and its contents (R97) -/
  bank     : Option (Bool × Bank)
  /-- the tile words and the saturation flags that become visible at its completion (R109) -/
  tiles    : Option (Patch × BitVec 64)
  /-- the cycle of its issue, from the start of the attempt (R400) -/
  cycle    : Nat
  /-- 1.5 GHz cycles it takes (R109, R127, R149); 0 for LD and ST -/
  cycles   : Nat
  /-- a permuting copy (R154) -/
  permuting : Bool
  /-- an UPDATE (R173) -/
  isUpdate : Bool
  copy     : Option CopyState
  /-- a COLL: its COLL_ID -/
  coll     : Option Nat
deriving DecidableEq, Repr

/-- A summary slot (R86). -/
structure SumSlot where
  valid : Bool
  words : List Word64
deriving DecidableEq, Repr

/-- A slot as every slot is when a pour starts: valid and zero (R86). -/
def SumSlot.init : SumSlot := ⟨true, List.replicate 8 0⟩

/-- An item of the armed list (R157, R159). -/
structure ArmedItem where
  /-- address of the DEFER ARM -/
  pc      : Nat
  /-- scalar data address of the header -/
  addr    : Nat
  steps   : Nat
  drMap   : BitVec 64
  first   : Nat
  guard   : Option Nat
  latched : Bool
  /-- the next step to issue -/
  next    : Nat
  /-- a step of this item is executing -/
  running : Bool
  /-- every step has completed -/
  finished : Bool
  /-- SEED_X's value for each step, taken at the ARM -/
  seeds   : List Word64
  /-- the footprints of all its steps (R162) -/
  prints  : Prints
  /-- the scalar data lines it is made of: header, records, descriptors (R163) -/
  lines   : List Nat
  /-- the cycle of the ARM, from the start of the attempt (R400) -/
  cycle   : Nat
deriving DecidableEq, Repr

/-- The lending period (R161 to R164). -/
structure Lending where
  /-- the period is running -/
  active  : Bool
  /-- MX instructions enqueued before the ARM that opened it and not yet completed -/
  mxAhead : Nat
  /-- items armed in the period, in order, completed or not -/
  items   : List ArmedItem
  /-- footprints of compiled instructions enqueued in the period (R162) -/
  issued  : List Prints
  /-- the deferred summary's sums (Table 8-5) -/
  sums    : List Nat
deriving DecidableEq, Repr

/-- No lending period. -/
def Lending.none : Lending := ⟨false, 0, [], [], List.replicate 8 0⟩

/-- A stalled control-core instruction (R74, R86, R159, R164, WAITT, FENCE). -/
inductive Stall where
  | token (t : Nat)
  | slot (n : Nat)
  /-- an ISSUE or a DEFER SYNC that waits for its summary slot -/
  | sumSlot (n : Nat)
  | queueFull (e : Engine)
  | drained
  | listFull
  | sync
deriving DecidableEq, Repr

/-- CLS_STATE.RUN (Table 4-8). -/
inductive RunState where
  | idle | running | halted | ended | stopped
deriving DecidableEq, Repr

/-- The value of RUN in CLS_STATE. -/
def RunState.toNat : RunState → Nat
  | .idle => 0
  | .running => 1
  | .halted => 2
  | .ended => 3
  | .stopped => 4

/-- CLS_FAULT, CLS_FAULT_PC and CLS_FAULT_ADDR (Tables 4-12, 4-13). -/
structure ClsFault where
  valid  : Bool
  source : BitVec 4
  status : BitVec 16
  pc     : BitVec 18
  addr   : BitVec 48
deriving DecidableEq, Repr

/-- No fault. -/
def ClsFault.none : ClsFault := ⟨false, 0, 0, 0, 0⟩

/-- The issue gate of a cluster (R335 to R339). -/
structure Gate where
  /-- G_g, sixteenths -/
  g        : Nat
  /-- C_g, the credit, at most 0 -/
  credit   : Int
  /-- H_g, the hint level in force (0: none), and the gate steps it still holds -/
  hint     : Nat
  hold     : Nat
  /-- a PHASE_HINT that takes effect at the next boundary: LEVEL and HOLD -/
  newHint  : Option (Nat × Nat)
  /-- busy cycles of the matrix engine since the last boundary (A_g's count) -/
  busy     : Nat
  /-- the activity A_g of the last step (R337) -/
  activity : Nat
  /-- ballast cycles since the last boundary (R338) -/
  ballast  : Nat
  /-- chip-local time at which the last pour that used the cluster ended (R338) -/
  ended    : Option Nat
deriving DecidableEq, Repr

/-- The state of one logical cluster. Pour start sets it as R75, R81, R86, R97, R116, R134 and R181 say. -/
structure Cluster where
  run       : RunState
  unused    : Bool
  /-- the address of the core's next instruction, with one bit above CLS_PC.PC: past the end of a full code section the next
  fetch faults (R84) -/
  pc        : BitVec 19
  /-- x1 to x31; x0 is never stored (R81) -/
  regs      : Tab Word64
  /-- scalar data memory, 64 KiB -/
  dmem      : Mem
  /-- instruction memory: the CODE section, and its length -/
  imem      : Mem
  codeLen   : Nat
  /-- scalar data lines the core has stored to since the pour started (R179) -/
  dirty     : List Nat
  tokens    : BitVec 256
  slots     : Tab SumSlot
  qLd       : List QEntry
  qSt       : List QEntry
  qMx       : List QEntry
  qDr       : List QEntry
  qVx       : List QEntry
  flights   : List Flight
  issues    : Nat
  bank0     : Bank
  bank1     : Bank
  /-- the Crucible: word e of tile t at byte 65,536 t + 4 e -/
  crucible  : Mem
  satFlags  : BitVec 64
  /-- the flags of the kept tiles were restored from a poisoned flag record (R380) -/
  flagPoison : Bool
  /-- vector registers: byte b of register v at 256 v + b -/
  vregs     : Mem
  lending   : Lending
  stall     : Option Stall
  fault     : ClsFault
  gate      : Gate
  /-- the clock is stopped (R334) -/
  asleep    : Bool
  /-- consecutive idle cycles counted towards R334's 64 -/
  idleCycles : Nat
  /-- cycles since the attempt started (R400) -/
  cycle     : Nat
  /-- the address of the last instruction that the core has retired in the attempt (R401) -/
  lastPc    : Option Nat
deriving DecidableEq, Repr

/-- A gate while its cluster's group is not ON (R335). -/
def Gate.init : Gate := ⟨0, 0, 0, 0, none, 0, 0, 0, none⟩

/-- A cluster that has run nothing. -/
def Cluster.init : Cluster where
  run := .idle
  unused := false
  pc := 0
  regs := []
  dmem := Mem.zeros
  imem := Mem.zeros
  codeLen := 0
  dirty := []
  tokens := 0
  slots := []
  qLd := []
  qSt := []
  qMx := []
  qDr := []
  qVx := []
  flights := []
  issues := 0
  bank0 := Bank.empty
  bank1 := Bank.empty
  crucible := Mem.zeros
  satFlags := 0
  flagPoison := false
  vregs := Mem.zeros
  lending := Lending.none
  stall := none
  fault := ClsFault.none
  gate := Gate.init
  asleep := false
  idleCycles := 0
  cycle := 0
  lastPc := none

/-- The queue of an engine. -/
def Cluster.queue (c : Cluster) : Engine → List QEntry
  | .ld => c.qLd
  | .st => c.qSt
  | .mx => c.qMx
  | .dr => c.qDr
  | .vx => c.qVx

/-- The queue of an engine replaced. -/
def Cluster.setQueue (c : Cluster) (e : Engine) (q : List QEntry) : Cluster :=
  match e with
  | .ld => { c with qLd := q }
  | .st => { c with qSt := q }
  | .mx => { c with qMx := q }
  | .dr => { c with qDr := q }
  | .vx => { c with qVx := q }

/-- One cluster entry of the resource manifest (Table 10-5). -/
structure ClusterRes where
  entryPc : Nat
  nTokens : Nat
  nT      : Nat
  nK      : Nat
  nD      : Nat
deriving DecidableEq, Repr

/-- A buffer table entry (Table 10-6). -/
structure BufEntry where
  kind   : Nat
  base   : Nat
  copy1  : Nat
  length : Nat
deriving DecidableEq, Repr

/-- A route entry (Table 15-1). -/
structure RouteEntry where
  pair : Bool
  port : Nat
  lo   : Nat
  hi   : Nat
deriving DecidableEq, Repr

/-- A collective record (Table 15-4). -/
structure CollRecord where
  op          : Nat
  red         : Nat
  fmt         : Nat
  rmode       : Nat
  order       : Bool
  notifyEn    : Bool
  group       : Nat
  notifyToken : Nat
  peer        : Nat
  localEngine : Nat
  notifyMask  : BitVec 128
deriving DecidableEq, Repr

/-- A port entry of the topology manifest (Table 10-8). -/
structure TopoPort where
  used     : Bool
  pairOk   : Bool
  peerPort : Nat
  peerRank : Nat
deriving DecidableEq, Repr

/-- A loaded pattern: what its image says (chapter 10). Its epoch state stands in the Riser (R245). -/
structure Pattern where
  chan      : Nat
  digest    : List Byte
  initialT  : Word64
  used      : BitVec 128
  ports     : BitVec 32
  tundishMin : Nat
  riserReserve : Nat
  gradMode  : Bool
  saveBuffer : Option Nat
  res       : Tab ClusterRes
  bufs      : List BufEntry
  steps     : List Word32
  code      : Tab (List Byte)
  scalar    : Tab (List Byte)
  tokens    : Tab (BitVec 256)
  /-- RECORDS entries of each cluster: scalar data address and engine -/
  records   : Tab (List (Nat × Nat))
  /-- DEFERRED blocks of each cluster: address, steps, bytes -/
  deferred  : Tab (List (Nat × Nat × List Byte))
  /-- mesh tables by die, floor-link tables by direction, the HBM table: the sections' bytes -/
  mesh      : Tab (List Byte)
  floor     : Tab (List Byte)
  hbm       : List Byte
  /-- SIZE_0 to SIZE_3, 1 where the manifest has no axis -/
  sizes     : List Nat
  topo      : List TopoPort
  /-- the port of each valid stream engine, 31 for a local engine -/
  engines   : Tab (Option Nat)
  routes    : List RouteEntry
  colls     : List CollRecord
deriving DecidableEq, Repr

end Sys2Proof.Machine
end

