-- ==== Sys2Proof/Machine/LedgerState.lean ====
section
/-! DEFINITION. The state of intake, channels, replies, the Riser ledger and the running pours as plain data
(chapters 11 to 13 and 15). -/

namespace Sys2Proof.Machine

/-- A 48-bit counter with its OVF bit (R15's ROS fields named OVF, R394). -/
structure Ctr48 where
  n   : BitVec 48
  ovf : Bool
deriving DecidableEq, Repr

/-- A counter at zero. -/
def Ctr48.zero : Ctr48 := ⟨0, false⟩

/-- States of a ledger entry (Table 13-3). -/
inductive EntryState where
  | free | accepted | running | ending | done
deriving DecidableEq, Repr

/-- The number of a state, also its rank in R253 with FREE last. -/
def EntryState.rank : EntryState → Nat
  | .accepted => 1
  | .running => 2
  | .ending => 3
  | .done => 4
  | .free => 5

/-- A ledger entry (Table 13-2). Its CRC is no field: a line that fails it, or that cannot be read, is a bad line of its copy
(R239). -/
structure Entry where
  state       : EntryState
  pour        : Word64
  opcode      : BitVec 8
  chan        : BitVec 6
  handle      : BitVec 5
  restartable : Bool
  adopted     : Bool
  replayed    : Bool
  started     : Bool
  attempts    : Nat
  charged     : Nat
  status      : BitVec 16
  epoch       : Word32
  detail      : Word64
  energy      : Word64
  tsAccept    : Word64
  tsStart     : Word64
  tsDone      : Word64
deriving DecidableEq, Repr

/-- An entry no pour has held. -/
def Entry.free : Entry :=
  ⟨.free, 0, 0, 0, 0, false, false, false, false, 0, 0, 0, 0, 0, 0, 0, 0, 0⟩

/-- A commit slot or a pattern record slot (Table 13-4); an invalid slot is absent. -/
structure CommitSlot where
  pour      : Word64
  t         : Word64
  epoch     : Word32
  pendingSs : Word32
  pending   : Bool
  mapSel    : Bool
  removed   : Bool
  handle    : BitVec 5
deriving DecidableEq, Repr

/-- Channel states (Table 11-2). -/
inductive ChanState where
  | closed | opened | closing
deriving DecidableEq, Repr

/-- The number of a channel state in SPR_CHAN_STATE. -/
def ChanState.toNat : ChanState → Nat
  | .closed => 0
  | .opened => 1
  | .closing => 2

/-- A channel's entry in the channel table (R197). -/
structure ChanRec where
  state      : ChanState
  owner      : HostPort
  ringBase   : Word64
  ringLog    : Nat
  quota      : Nat
  tundishRes : Nat
  bestEffort : Bool
  msixEn     : Bool
  accepted   : Word64
  replied    : Word64
  acked      : Word64
  /-- the opcode of pour A (R209) -/
  lastOp     : BitVec 8
  /-- the last final reply, as its entry (R197) -/
  last       : Option Entry
  /-- the channel's energy accumulator in mJ (R347) -/
  energy     : Word64
deriving DecidableEq, Repr

/-- A channel that is CLOSED (R253: counters are zero on a CLOSED channel, R206). -/
def ChanRec.closed : ChanRec := ⟨.closed, .cope, 0, 0, 0, 0, false, false, 0, 0, 0, 0, none, 0⟩

/-- The health state of R389 and R390. -/
structure Health where
  dLocal : Nat
  dLink  : Nat
  health : Nat
  loc    : Nat
  /-- consecutive 1 s evaluations with raw at least HEALTH + 50 -/
  above  : Nat
deriving DecidableEq, Repr

/-- A chip that no event has touched (R257: accumulators zero and HEALTH 1,000). -/
def Health.fresh : Health := ⟨0, 0, 1000, 1000, 0⟩

/-- The trip record of R345: the sensor (die and position) and its reading in mK, and the time. -/
structure TripRecord where
  sensor : BitVec 8
  temp   : Nat
  time   : Word64
deriving DecidableEq, Repr

/-- The flask record of R413. -/
structure FlaskRecord where
  flaskId   : BitVec 16
  n         : Nat
  rank      : Nat
  paceAdopt : Bool
  /-- the port entries of the join: MODE, PEER_PORT, PEER_RANK, PEER_CHIP -/
  ports     : List (Nat × Nat × Nat × Nat)
deriving DecidableEq, Repr

/-- What one Riser copy holds (Table 13-1). -/
structure Ledger where
  entries  : Tab Entry
  chans    : Tab ChanRec
  /-- commit slot i of channel c at 2c + i -/
  slots    : Tab (Option CommitSlot)
  /-- slot i of the record of handle h at 2(h − 1) + i -/
  precs    : Tab (Option CommitSlot)
  /-- map copy m of handle h at 2(h − 1) + m -/
  maps     : Tab (BitVec 4096)
  /-- the boot record of R354: COUNTER, ACTIVE, and whether the other slot is PENDING -/
  rollback : BitVec 16
  bootActive  : Bool
  bootPending : Bool
  /-- Q, the next unused top leaf, and the cached nodes of the top tree (R358) -/
  lmsQ     : Nat
  topNodes : List Byte
  retired0 : BitVec 66
  retired1 : BitVec 66
  health   : Health
  trip     : Option TripRecord
  flask    : Option FlaskRecord
deriving DecidableEq, Repr

/-- A ledger as RSR_REINIT and the factory leave it: every channel CLOSED and every entry FREE. -/
def Ledger.fresh : Ledger :=
  ⟨[], [], [], [], [], 0, false, false, 0, [], 0, 0, Health.fresh, none, none⟩

/-- COPYn_STATE (Table 13-9). -/
inductive CopyHealth where
  | inService | lost | rebuilding
deriving DecidableEq, Repr

/-- The number in RSR_STATE. -/
def CopyHealth.toNat : CopyHealth → Nat
  | .inService => 0
  | .lost => 1
  | .rebuilding => 2

/-- The first line of what a write covers, in lines of 64 bytes from the start of the copy (Table 13-1). Where the boot record and the
records of the configuration area stand in their areas is open; the model sets one line apart for each (DESIGN CHOICE, log
entry 73). -/
def lineOffset : RLine → Nat
  | .entry i => i
  | .chan c => 1024 + 4 * c
  | .slot k => 1026 + 4 * (k / 2) + k % 2
  | .map k => 1280 + 8 * k
  | .record k => 1536 + k
  | .bootRecord => 1568
  | .lms => 1600
  | .lmsNodes => 1601
  | .retired => 1792
  | .health => 1793
  | .trip => 1794
  | .flask => 1795

/-- The lines that a write counts as (Table 13-7): a channel's record one, a map copy eight, and the nodes of the top tree 128. -/
def lineSize : RLine → Nat
  | .map _ => 8
  | .lmsNodes => 128
  | _ => 1

/-- One Riser copy and where it lies (R238, R255). -/
structure RiserCopy where
  state : CopyHealth
  /-- the die that holds it: true B1 -/
  die   : Bool
  /-- it lies in a spare region -/
  spare : Bool
  data  : Ledger
  /-- lines that are not valid (R239): torn by a loss of power, or lost with a write that failed -/
  bad   : List RLine
  /-- lines that the copy holds, from its start: all 2,048, those copied by a rebuild that was cut off, or none where its die's MRAM
  does not answer -/
  held  : Nat
deriving DecidableEq, Repr

/-- A copy that holds a ledger whole. -/
def RiserCopy.whole (die spare : Bool) (l : Ledger) : RiserCopy := ⟨.inService, die, spare, l, [], 2048⟩

/-- A line of a copy is valid (R239). -/
def RiserCopy.valid (c : RiserCopy) (l : RLine) : Bool := decide (lineOffset l < c.held) && !c.bad.contains l

/-- Lines of the Assay's own regions (R366). -/
def assayLine : RLine → Bool
  | .bootRecord => true
  | .lms => true
  | .lmsNodes => true
  | _ => false

/-- The number of a region of MRAM: 2·die + spare. -/
def mramRegion (die spare : Bool) : Nat := (if die then 2 else 0) + (if spare then 1 else 0)

/-- The Riser (chapter 13). -/
structure Riser where
  copy0    : RiserCopy
  copy1    : RiserCopy
  /-- RISER_LOST -/
  lost     : Bool
  /-- the Sprue's working state while RISER_LOST lasts: what it reads in place of a copy in service (R256) -/
  work     : Ledger
  /-- CNT_TIME when the rebuild that runs started -/
  rebuildAt : Word64
  /-- MRAM regions that a copy was lost in: bit 2·die + spare -/
  failed   : BitVec 4
  /-- RSR_REPLAYS -/
  replays  : Ctr48
  /-- PROVEN and UNKNOWN by channel (R256) -/
  proven   : Tab Word64
  unknown  : Tab Word64
  /-- the entry allocated last (R242) -/
  lastAlloc : Nat
  /-- line writes made to each region of MRAM (R259) -/
  writes   : Tab Nat
  /-- lines invalid in one copy that were rewritten from the other (R255) -/
  repaired : Nat
deriving DecidableEq, Repr

/-- A reply that waits for its ring (Table 11-7), without its PHASE, which is known when it is written. -/
structure Reply where
  status     : BitVec 16
  origStatus : BitVec 16
  opcode     : BitVec 8
  chan       : BitVec 8
  handle     : BitVec 16
  epoch      : Word32
  pour       : Word64
  detail     : Word64
  energy     : Word64
  tsAccept   : Word64
  tsStart    : Word64
  tsDone     : Word64
  refused    : Bool
  adopted    : Bool
  replayed   : Bool
  /-- a final reply, which advances Rp when it is written; copies and refusals do not -/
  final      : Bool
deriving DecidableEq, Repr

/-- SPR_CHAN_REFUSAL and SPR_CHAN_REFUSAL_POUR. -/
structure Refusal48 where
  valid  : Bool
  port   : HostPort
  opcode : BitVec 8
  status : BitVec 16
  pour   : Word64
deriving DecidableEq, Repr

/-- The volatile side of a channel (Table 11-10, reset 0). -/
structure Chan where
  rhead    : Word32
  rtail    : Word32
  refusal  : Refusal48
  dropped  : Ctr48
  /-- replies that wait for the ring or the port, in order (R213) -/
  replyQ   : List Reply
  /-- copies written by step 4 of R200 at the last adopt -/
  adoptCopies : Nat
  /-- pours whose final reply a duplicate's copy is to follow (R209) -/
  dups     : List Word64
deriving DecidableEq, Repr

/-- A channel's volatile side after a reset. -/
def Chan.init : Chan := ⟨0, 0, ⟨false, .cope, 0, 0, 0⟩, Ctr48.zero, [], 0, []⟩

/-- A packet in an intake window (R202 to R204). -/
structure Window where
  active : Bool
  /-- the half its Tundish buffer lies in (true B1); none when no buffer held the packet -/
  buffer : Option Bool
  /-- the packet's bytes: header, payload and trailer as written -/
  bytes  : Mem
deriving DecidableEq, Repr

/-- An idle window. -/
def Window.idle : Window := ⟨false, none, Mem.zeros⟩

/-- A packet whose receipt has completed. -/
structure Packet where
  port   : HostPort
  chan   : Nat
  buffer : Option Bool
  header : BitVec 512
  trailer : BitVec 128
  payload : List Byte
  /-- chip-local time of receipt -/
  time   : Word64
  /-- its codewords in the Tundish that are stored with a difference, poison among them (R377) -/
  chk    : Tab (BitVec 32)
deriving DecidableEq, Repr

/-- A packet bound for acceptance and the entry allocated for it (R206). -/
structure Bound where
  packet : Packet
  entry  : Nat
deriving DecidableEq, Repr

/-- Start classes (R219). -/
inductive PourClass where
  | any | exclusive | run | memory | firmware
deriving DecidableEq, Repr

/-- What a pour's commit does beyond its entry (R191, R193, R175, R246). -/
inductive CommitEffect where
  | nothing
  | load (handle : Nat) (pattern : Pattern) (digest : List Byte)
  | unload (handle : Nat)
  | stepSize (handle : Nat) (value : Word32)
  | run
deriving DecidableEq, Repr

/-- A pour's outcome once it is fixed (R218). -/
structure PourOutcome where
  status : BitVec 16
  detail : Word64
  /-- completed: neither refused nor faulted -/
  ok     : Bool
  effect : CommitEffect
deriving DecidableEq, Repr

/-- A host transfer of a running pour (R220, R226): bytes done, bytes in all, and those of the bytes done that do not fill a codeword of
HBM yet: a COPY_IN writes whole codewords (R382). -/
structure Transfer where
  done  : Nat
  total : Nat
  rest  : List Byte
deriving DecidableEq, Repr

/-- A running pour of a channel. -/
structure Running where
  entry    : Nat
  /-- the packet, as the attempt read its body -/
  body     : Packet
  cls      : PourClass
  outcome  : Option PourOutcome
  transfer : Option Transfer
  /-- FLASK_JOIN and MARGIN_TEST: ports that have not ended yet, and the status of each port that failed -/
  waiting  : BitVec 32
  failures : List (Nat × BitVec 16)
  /-- writes to host memory that wait for the port, in order, and the outcome that stands once they are made (R228) -/
  out      : List (Word64 × List Byte)
  planned  : Option PourOutcome
deriving DecidableEq, Repr

/-- A stream this chip receives (R295): its peer's rank, kind, tag and length, the frames taken in order, and frames that have
come and are not taken yet: INDEX, the stream engine of the port they came on, bytes and poisoned codewords. -/
structure RecvStream where
  peer  : Nat
  kind  : Nat
  tag   : BitVec 16
  bytes : Nat
  taken : Nat
  early : List (Nat × Nat × List Byte × List Nat)
deriving DecidableEq, Repr

/-- A stream this chip sends: its peer's rank, kind, the receiver's START once held, its length and the frames sent. -/
structure SendStream where
  peer  : Nat
  kind  : Nat
  tag   : Option (BitVec 16)
  bytes : Nat
  sent  : Nat
deriving DecidableEq, Repr

/-- An instance of a collective in flight on the chip (R296). -/
structure CollInstance where
  collId : Nat
  inst   : Nat
  g      : Nat
  eng    : Engine
  idx    : Nat
  /-- every descriptor it names is local (R284) -/
  local_ : Bool
  q      : Nat
  size   : Nat
  recvs  : List RecvStream
  sends  : List SendStream
  /-- results of a reduction by local linear index of S, four bytes each (R299), and the indices whose final came poisoned (R380) -/
  acc    : Mem
  tainted : List Nat
  /-- codewords of D written in part so far, and those of them that poison has reached (R380, R382) -/
  part   : Patch
  bad    : List Nat
  /-- the part of the operation that crosses no port is done (R285) -/
  begun  : Bool
  /-- accesses of work in progress that a phase or slot has let start (R89): the work, whether it writes, and the codeword -/
  started : List (Nat × Bool × Nat)
  /-- the sums of Table 15-6: CVT_SATURATED, CVT_NAN_NARROWED, NONFINITE, BYTES_OUT, BYTES_IN -/
  sums   : List Nat
deriving DecidableEq, Repr

/-- A START that names an instance this chip has not reached (R295). -/
structure HeldStart where
  src      : Nat
  tag      : BitVec 16
  collId   : Nat
  inst     : Nat
  size     : Nat
  bytes    : Nat
  kind     : Nat
  local_   : Bool
  /-- ORDER, RED, FMT and OP as bits [26:16] of the START -/
  shape    : BitVec 11
deriving DecidableEq, Repr

/-- A vote outcome (R302). -/
structure Vote where
  cls    : Nat
  origin : Nat
  status : BitVec 16
deriving DecidableEq, Repr

/-- The attempt of a RUN that is running (chapters 4, 12, 13, 15). -/
structure RunCtx where
  chan     : Nat
  entry    : Nat
  handle   : Nat
  t        : Word64
  eta      : Word32
  receipts : List Nat
  /-- the attempt number mod 2, the top bit of tags (R298) -/
  attempt  : Nat
  runSeq   : Word32
  /-- STATE buffers written in this attempt (R185) -/
  written  : BitVec 4096
  /-- an UPDATE has completed (R173) -/
  updated  : Bool
  /-- the fault that ended the attempt: status, and whether Table 13-5 replays it -/
  fault    : Option (BitVec 16 × Bool)
  /-- CNT_TIME as the fault was detected, until the stop of R92 has taken effect -/
  stopAt   : Option Word64
  /-- the end vote: votes of children received, this rank's vote sent, the outcome -/
  votes    : List (Nat × Vote)
  votedUp  : Bool
  verdict  : Option Vote
  /-- COLL_ID bound to a cluster, and issues so far (R296) -/
  binding  : Tab Nat
  instances : Tab Nat
  colls    : List CollInstance
  nextTag  : Nat
deriving DecidableEq, Repr

/-- The context whose kept tiles the Crucibles hold (R130, R131). -/
structure KeptContext where
  chan   : Nat
  handle : Nat
  /-- false once the next pour of the context has to restore (fault, reset, group OFF) -/
  clean  : Bool
deriving DecidableEq, Repr

/-- An IDE stream of a port (R365). -/
inductive IdeState where
  | off | secure | insecure
deriving DecidableEq, Repr

/-- An SPDM session (R364): its number, the responder's key and IV, and the answers sealed in it so far. -/
structure SpdmSession where
  id   : Nat
  key  : List Byte
  iv   : List Byte
  sent : Nat
deriving DecidableEq, Repr

/-- A write that a host port has made: to host memory, or an MSI-X vector. The model's own record of what left the chip. -/
inductive HostOut where
  | write (addr : Word64) (data : List Byte)
  | readReq (chan : Nat) (addr : Word64) (len : Nat)
  | msix (vector : Nat)
  | doe (data : List Byte)
deriving DecidableEq, Repr

/-- A host port (R194 to R196, R214, R364, R365, R414). -/
structure HostPortState where
  linkUp   : Bool
  /-- PERST_N is low -/
  perst    : Bool
  /-- a function-level reset runs -/
  flr      : Bool
  busMaster : Bool
  /-- the MSI-X capability and table (R195) -/
  msixConfig : MsixConfig
  /-- MSI-X pending bits of vectors 0 to 64 -/
  pending  : BitVec 65
  linkIde  : IdeState
  selIde   : IdeState
  /-- the keys of the two streams, as the IDE engine holds them (R365) -/
  linkKey  : List Byte
  selKey   : List Byte
  /-- SPDM sessions set up, at most 4 (R364) -/
  sessions : List SpdmSession
  /-- the configuration registers that the host sets, and AER's status registers (R194, R405) -/
  setup    : PcieSetup
  aerUncor : Word32
  aerCor   : Word32
  /-- refusals of a CHANNEL_OPEN on a CLOSED channel that wait for the port: address, bytes, and the MSI-X vector (R213) -/
  late     : List (Word64 × List Byte × Option Nat)
  out      : List HostOut
deriving DecidableEq, Repr

end Sys2Proof.Machine
end

