-- ==== Sys2Proof/Machine/LinkState.lean ====
section
/-! DEFINITION. The state of the Runner ports, the optics, power and temperature as plain data
(chapters 14, 16, 17). -/

namespace Sys2Proof.Machine

/-- RUN_PORT_STATE.STATE (Table 14-7). -/
inductive PortState where
  | dark | training | admitted | degraded | down | failed
deriving DecidableEq, Repr

/-- The number of a port state. -/
def PortState.toNat : PortState → Nat
  | .dark => 0
  | .training => 1
  | .admitted => 2
  | .degraded => 3
  | .down => 4
  | .failed => 5

/-- A frame of the replay buffer, and its sequence number (R266). -/
structure SentFrame where
  seq   : BitVec 48
  frame : Frame
deriving DecidableEq, Repr

/-- A frame as it left a port, and the lanes it was striped over. The model's own record of what left the chip. -/
structure LineFrame where
  lanes : BitVec 16
  frame : Frame
deriving DecidableEq, Repr

/-- A board access that waits for a RUN of the flask or for its phase (R276): a read or a write. -/
structure BoardAccess where
  write   : Bool
  addr    : Nat
  tag     : BitVec 16
  length  : Nat
  data    : List Byte
  poison  : List Nat
deriving DecidableEq, Repr

/-- A Runner port (chapter 14). -/
structure Port where
  state     : PortState
  standsFor : BitVec 5
  code      : BitVec 16
  found     : IdRecord
  /-- the stage of Table 14-3 in progress, 1 to 6; 0 when the port does not train -/
  stage     : Nat
  /-- VERDICT sent, and received -/
  sentVerdict : BitVec 2
  gotVerdict  : BitVec 2
  /-- SEQ of the next frame sent, and of the next frame expected -/
  txSeq     : BitVec 48
  rxSeq     : BitVec 48
  /-- SEQ of the first frame sent that is not acknowledged (R266) -/
  nextAck   : BitVec 48
  /-- a damaged frame is awaited again: NAK is sent -/
  nakOut    : Bool
  /-- times in a row that the frame awaited has arrived damaged and been NAKed (R266) -/
  nakCount  : Nat
  /-- NAKs heard in a row for one frame, its ACK_SEQ, and when the last of them came (R266) -/
  heardNaks : Nat
  heardFor  : BitVec 48
  heardAt   : Word64
  /-- the frames held for a replay, at most 512 (R266) -/
  replay    : List SentFrame
  /-- frames that wait for room in the replay buffer -/
  txQ       : List Frame
  sent      : List LineFrame
  /-- frames sent since the last idle one (R315) -/
  sinceIdle : Nat
  /-- the least PACE received since the last gate step (R305) -/
  pace      : Nat
  /-- board accesses that wait (R276) -/
  boards    : List BoardAccess
  /-- frames that wait to be relayed (R287): destination rank and frame -/
  relays    : List Frame
deriving DecidableEq, Repr

/-- An identity record of zeros. -/
def IdRecord.zero : IdRecord := ⟨0, 0, 0, 0, 0, 0, 0, 0, 0, 0, 0⟩

/-- Port p after reset (Table 14-7: STANDS_FOR resets to p). -/
def Port.init (p : Nat) : Port :=
  ⟨.dark, BitVec.ofNat 5 p, 0, IdRecord.zero, 0, 0, 0, 0, 0, 0, false, 0, 0, 0, 0, [], [], [], 0, 16, [], []⟩

/-- The flask the chip is in (RUN_FLASK, RUN_RANK, RUN_N) and its join's port entries. -/
structure Runner where
  ports    : List Port
  flask    : Option FlaskRecord
  /-- RUN_SPARES.FREE -/
  spares   : BitVec 2
  /-- spares that failed, out until the next FLASK_JOIN (R281) -/
  spareOut : BitVec 2
  foreign  : Ctr48
  /-- RUN_SEQ (R302), and what the always-on islands of B0 and B1 hold of it (R413) -/
  runSeq   : Word32
  isle0    : Word32
  isle1    : Word32
  /-- channel and pour of the RUN counted last in RUN_SEQ, until it ends: a first attempt of it counts once (R302) -/
  counted  : Option (Nat × Word64)
  /-- a RUN waits for a spare of this logical port to be admitted (R280) -/
  awaiting : List Nat
  /-- logical ports whose training a warm boot has begun, until one serves them or no spare is left (R413) -/
  retrains : List Nat
  /-- STARTs held for instances this chip has not reached (R295) -/
  held     : List HeldStart
  /-- votes held until this chip's own attempt has come to its end vote: true for VOTE_UP, the sender, RUN_SEQ, the vote -/
  votes    : List (Bool × Nat × Word32 × Vote)
deriving DecidableEq, Repr

/-- The Runner ports after reset. -/
def Runner.init : Runner :=
  ⟨(List.range 32).map Port.init, none, 3, 0, Ctr48.zero, 0, 0, 0, none, [], [], [], []⟩

/-- LGT_PORT_EYE.STATE (Table 16-8). -/
inductive EyeState where
  | clear | shut | closed
deriving DecidableEq, Repr

/-- The number of an eye-safety state. -/
def EyeState.toNat : EyeState → Nat
  | .clear => 0
  | .shut => 1
  | .closed => 3

/-- The optics of one Runner port (chapter 16). -/
structure PortLight where
  txLocked : BitVec 16
  rxLocked : BitVec 16
  /-- lanes in service in each direction (R316) -/
  txLanes  : BitVec 16
  rxLanes  : BitVec 16
  pass     : BitVec 16
  worst    : BitVec 12
  eye      : EyeState
  eyeCause : BitVec 2
  probes   : BitVec 16
  /-- consecutive passing probes (R325) -/
  passes   : Nat
  /-- a probe is running -/
  probing  : Bool
  /-- the sensors of the modulator and the drop bank in mK (R307, R309); LGT_PORT_TEMP reads the first in 1/64 °C -/
  temp     : Int
  dropTemp : Int
  /-- CHANGE of the last lane change of the direction this chip sends, and of the one it receives (R316) -/
  changeTx : BitVec 8
  changeRx : BitVec 8
  /-- the receive lanes wanted, and those a lane change that has been asked for brings (R316) -/
  rxWant   : BitVec 16
  rxAsked  : Option (BitVec 16)
  /-- modulators of the peer that the next record asks it to resweep (R315) -/
  asks     : BitVec 16
  /-- agreeing lane records taken so far of the next change (R316 step 2) -/
  agreed   : Nat
  lastRx   : BitVec 16
  /-- resweeps a lane has had since it left, receive lanes at i and transmit lanes at 16 + i (R317) -/
  resweeps : Tab Nat
  /-- tag checks failed in a row by each receive lane (R315) -/
  tagRuns  : Tab Nat
  /-- the lanes of the symbols corrected in each of the last 64 frames, newest first (R315) -/
  history  : List (List Nat)
  /-- symbols corrected and symbols received since the last health evaluation (Table 19-6) -/
  serErr   : Nat
  serTotal : Nat
  /-- rings that are being resweept, and those that three resweeps have not brought back (R317) -/
  sweeping : BitVec 32
  lost     : BitVec 32
  /-- the detuning estimate of each ring in MHz, modulator i at i and drop filter i at 16 + i (R308, R310) -/
  detune   : Tab Int
  /-- the heater setting of each ring, as the shift in MHz it applies (R308, R309) -/
  heater   : Tab Int
  /-- each ring's coefficient in kHz per mK as its last lock acquisition calibrated it, 0 before one, and the lag in MHz that
  feed-forward has let grow since the loop's last update (R309) -/
  coef     : Tab Nat
  lag      : Tab Int
  /-- each ring's calibrated point: its heater setting as its last lock acquisition left it (R317) -/
  calib    : Tab Int
  /-- threshold j of receive lane i at 3i + j, as the last margin test set it (R320) -/
  thresholds : Tab Nat
deriving DecidableEq, Repr

/-- A dark port's optics. -/
def PortLight.init : PortLight :=
  ⟨0, 0, 0, 0, 0, 0, .clear, 0, 0, 0, false, 0, 0, 0, 0, 0, none, 0, 0, 0, [], [], [], 0, 0, 0, 0, [], [], [], [], [], []⟩

/-- The optics (chapter 16). -/
structure Light where
  ports      : List PortLight
  mislock    : Ctr48
  /-- LGT_STATE -/
  lbusErr    : BitVec 4
  srcPresent : BitVec 4
  /-- OUT_EN and PROBE last written to each source (Table 16-6) -/
  outEn      : BitVec 32
  probe      : BitVec 32
  /-- writes not confirmed yet; those of them that disable an output; and disabling writes that stayed unconfirmed for 1 ms
  or that a source fault stands for (R326, R327) -/
  writing    : BitVec 4
  disabling  : BitVec 4
  /-- outputs whose enabling write is not confirmed yet (R321) -/
  enabling   : BitVec 32
  unconfirmed : BitVec 4
  /-- the boot has enabled the laser groups (R326) -/
  enabled    : Bool
  /-- LSHUT_N held low from an eye-safety detection until its disable is confirmed (R324, R326) -/
  detection  : BitVec 4
  /-- LGT_MON_CTRL without GO, whether a reading runs, and LGT_MON_DATA -/
  monCtrl    : Word32
  monBusy    : Bool
  monValid   : Bool
  monValue   : BitVec 12
  /-- floor-link lanes out in each direction (R319) -/
  floorOut0  : BitVec 400
  floorOut1  : BitVec 400
  /-- directions stopped for more than 20 ms (R319) -/
  floorStall : BitVec 2
  /-- the rings of the floor link, of lane 400·direction + lane the modulator, and 800 above it the drop filter: resweeps since its lane
  left, in lock, the detuning estimate and the heater setting in MHz, the coefficient, the lag and the calibrated point (R308 to R310,
  R317) -/
  floorSweeps : Tab Nat
  floorLocked : BitVec 1600
  floorDetune : Tab Int
  floorHeater : Tab Int
  floorCoef   : Tab Nat
  floorLag    : Tab Int
  floorCalib  : Tab Int
  /-- threshold j of the lane at 3·(400·direction + lane) + j, as the boot's margin test set it (R319, R320) -/
  floorThresholds : Tab Nat
  /-- the sensors of the floor link's banks in mK: 50·side + 25·direction + waveguide -/
  floorTemps  : Tab Int
deriving DecidableEq, Repr

/-- The optics after a cold reset. -/
def Light.init : Light :=
  ⟨List.replicate 32 PortLight.init, Ctr48.zero, 0, 0, 0, 0, 0, 0, 0, 0, false, 0, 0, false, false, 0, 0, 0, 0, [], 0, [], [], [], [], [], [], []⟩

/-- Sequencer states (Table 17-1). -/
inductive SeqState where
  | off | rising | on | falling
deriving DecidableEq, Repr

/-- The number of a sequencer state. -/
def SeqState.toNat : SeqState → Nat
  | .off => 0
  | .rising => 1
  | .on => 2
  | .falling => 3

/-- A latched request of a sequencer (Table 17-6 LATCH). -/
inductive SeqLatch where
  | none | enable | disable
deriving DecidableEq, Repr

/-- The number of a latched request. -/
def SeqLatch.toNat : SeqLatch → Nat
  | .none => 0
  | .enable => 1
  | .disable => 2

/-- The sequencer of one domain (R331). -/
structure Sequencer where
  state  : SeqState
  latch  : SeqLatch
  /-- the minimum off time has passed since OFF was reached -/
  minOff : Bool
deriving DecidableEq, Repr

/-- A domain that has been OFF for long. -/
def Sequencer.init : Sequencer := ⟨.off, .none, true⟩

/-- Power and temperature (chapter 17). -/
structure Power where
  cap      : BitVec 11
  /-- a cap written and not yet in force (R340) -/
  newCap   : Option (BitVec 11)
  tripped  : Bool
  capUnmet : Bool
  distrust : Bool
  lCap     : Nat
  lTherm   : Nat
  ceiling  : Nat
  /-- the estimate of the last step and P_avg in W, and P_meas -/
  est      : BitVec 16
  avg      : BitVec 16
  meas     : BitVec 16
  /-- step estimates summed since the last AVSBus reading, in mW, and their number -/
  estSum   : Nat
  estCount : Nat
  /-- whether an interval has been measured since reset (R346: r is 1 before) -/
  measured : Bool
  /-- measured intervals in a row that tell for and against distrust (R342), as their length in gate steps -/
  above    : Nat
  below    : Nat
  /-- hottest base-die and compute-die sensor, 1/64 °C -/
  baseMax    : BitVec 16
  computeMax : BitVec 16
  energy   : BitVec 64
  /-- the part of a millijoule not counted yet, in nJ -/
  energyRest : Nat
  /-- the energy of each channel's running pour over all its attempts, in nJ (R346) -/
  pours    : Tab Nat
  capUnmetCtr : Ctr48
  distrustCtr : Ctr48
  /-- the sequencers of the 58 domains of Table 17-2 -/
  seq      : Tab Sequencer
  /-- every PLL is stopped (R345) -/
  stopped  : Bool
  /-- CNT_TIME at the last gate-step boundary, and the counters as it found them (R335, R341) -/
  stepAt   : Option Word64
  seen     : Tab Ctr48
  /-- channel and pour of each pour with an attempt that has run in the gate step so far (R346) -/
  ran      : List (Nat × Word64)
  /-- transfers of the mesh of die d (at d) and of the base-die network of die d (at 2 + d) in the gate step so far (R341) -/
  fabric   : Tab Nat
  /-- cluster groups back at ON whose sample buffers are still to be set to zero (R403) -/
  samplesDue : List Nat
deriving DecidableEq, Repr

/-- Power after a cold reset (Table 17-6). -/
def Power.init : Power :=
  ⟨0x5DC, none, false, false, false, 16, 16, 16, 0, 0, 0, 0, 0, false, 0, 0, 0, 0, 0, 0, [], Ctr48.zero, Ctr48.zero, [], false, none, [], [], [], []⟩

end Sys2Proof.Machine
end

