-- ==== Sys2Proof/Machine/ChipState.lean ====
section
/-! DEFINITION. The state of identity, Assay, error log, counters, boot, pins and JTAG as plain data
(chapters 1, 18 to 22). -/

namespace Sys2Proof.Machine

/-- A cluster fault that waits: for the pour on its die to end (R10), or for a spare that passes BIST (R10, R11). -/
structure WaitingFault where
  g      : Nat
  /-- the position that faulted -/
  pos    : Nat
  /-- the status of the fault that retired the last position (R12) -/
  status : BitVec 16
  /-- the fault ended a pour, whose attempt is replayed or faulted (R10, R12) -/
  ended  : Bool
  /-- step 1 of R10 is done -/
  retired : Bool
deriving DecidableEq, Repr

/-- Identity and the cluster map (R7 to R12, R27). -/
structure Ident where
  /-- IDENT_CHIP_ID, the straps sampled at the last rise of PWRGD_MAIN -/
  chipId  : BitVec 18
  /-- the physical position of each mapped logical cluster -/
  clmap   : Tab (Option Nat)
  /-- free spares of each die, in ascending order -/
  spares0 : List Nat
  spares1 : List Nat
  /-- SHORT of each die -/
  short0  : Bool
  short1  : Bool
  /-- IDENT_HBM_Ss.TRAINED -/
  trained : BitVec 8
  /-- the spare of each die whose BIST runs (R10 step 3) -/
  bist0   : Option Nat
  bist1   : Option Nat
  waiting : List WaitingFault
deriving DecidableEq, Repr

/-- Identity after a cold reset, with no strap sampled yet. -/
def Ident.init : Ident := ⟨0, [], [], [], false, false, 0, none, none, []⟩

/-- The free spares of a die, and its spare under BIST. -/
def Ident.spares (i : Ident) (die : Bool) : List Nat := if die then i.spares1 else i.spares0
def Ident.bist (i : Ident) (die : Bool) : Option Nat := if die then i.bist1 else i.bist0

/-- ASY_STATE.STATE (Table 18-9). -/
inductive AssayMode where
  | selfTest | operational | error | zeroised | decommissioned
deriving DecidableEq, Repr

/-- The number of an Assay state. -/
def AssayMode.toNat : AssayMode → Nat
  | .selfTest => 0
  | .operational => 1
  | .error => 2
  | .zeroised => 3
  | .decommissioned => 4

/-- The fused store (Table 18-1). -/
structure Otp where
  uds        : BitVec 384
  engineering : Bool
  romDigest  : List Byte
  /-- vendor key digests: ECDSA slots 0 and 1, LMS slots 0 and 1 -/
  keyDigests : List (List Byte)
  /-- one bit per algorithm and key slot: ECDSA 0, ECDSA 1, LMS 0, LMS 1 -/
  revoked    : BitVec 4
  watermark  : BitVec 32
  decommissioned : Bool
  certificate : IdCert
deriving DecidableEq, Repr

/-- The DRBG (R367): CTR_DRBG's key and counter block, and the requests made since it was seeded. -/
structure Drbg where
  key      : BitVec 256
  v        : BitVec 128
  requests : Nat
deriving DecidableEq, Repr

/-- A DRBG that has not been seeded. -/
def Drbg.init : Drbg := ⟨0, 0, 0⟩

/-- The bottom tree in use (R359): the top leaf that certifies it, its next leaf, and the random string C of the signature of its public
key. -/
structure BottomTree where
  top  : Nat
  next : Nat
  salt : List Byte
deriving DecidableEq, Repr

/-- A stored receipt record (R362). -/
structure Receipt where
  chan   : Nat
  handle : Nat
  record : List Byte
deriving DecidableEq, Repr

/-- A ledger write of the period of AON_CLK that lasts, in order: what both copies held before it, and the patterns, the receipts and the
energies of the pours that the Nelhan held then. A reset may fall between two of them (R240, R412, R415). The model's own record. -/
structure LineMark where
  time     : Word64
  line     : RLine
  copy0    : Ledger
  copy1    : Ledger
  patterns : Tab (Option Pattern)
  receipts : List Receipt
  pours    : Tab Nat
deriving DecidableEq, Repr

/-- The running image (R352 to R355, R362). -/
structure Image where
  slot      : Bool
  version   : Word32
  svn       : BitVec 16
  arithFp   : BitVec 64
  mFw       : List Byte
  /-- KEY_SLOT bits 1:0 and REVOKE_OTHER -/
  keySlot   : BitVec 2
  revokeOther : Bool
deriving DecidableEq, Repr

/-- No image has run. -/
def Image.none : Image := ⟨false, 0, 0, 0, List.replicate 48 0, 0, false⟩

/-- The Assay (chapter 18). -/
structure Assay where
  mode      : AssayMode
  cause     : BitVec 8
  otp       : Otp
  image     : Image
  fallback  : Bool
  trial     : Bool
  reasonA   : BitVec 4
  reasonB   : BitVec 4
  exhausted : Bool
  bottom    : Option BottomTree
  drbg      : Drbg
  receipts  : List Receipt
  /-- ASY_SERVICE: number and APPROVED -/
  service   : BitVec 8
  serviceOk : Bool
  /-- the board's boot flash, 64 MiB; an erased byte, which reads FFH, is unlisted -/
  flash     : Tab Byte
deriving DecidableEq, Repr

/-- Errors and health beyond the Riser's part (chapter 19). -/
structure Err where
  /-- ERR_LOG_SEQ -/
  seq       : Word32
  /-- ERR_LOG_i -/
  log       : Tab (BitVec 256)
  rsvd      : Ctr48
  corrSram  : Ctr48
  uncorrSram : Ctr48
  poisonWritten : Ctr48
  poisonConsumed : Ctr48
  corrHbm   : Tab Ctr48
  uncorrHbm : Tab Ctr48
  hbmPasses : BitVec 16
  sramPasses : BitVec 16
  /-- the next burst of each stack's pass, and passes of each stack done -/
  burst     : Tab Nat
  stackPasses : Tab Nat
  /-- codewords corrected in each stack since the hour began (Table 19-6) -/
  hourCorr  : Tab Nat
  /-- ERR_PORT_SHARED_p -/
  portShared : Tab (BitVec 16)
  /-- channels whose held body write has lasted 1 ms: ERR_FAULT.INTAKE_STALL (R254) -/
  intakeStall : BitVec 64
  /-- the health state as it stands now; the Riser holds what was saved last (R390) -/
  health    : Health
  /-- the cluster group, by its domain, that Fettle has enabled for the test of its OFF time (R383) -/
  offTest   : Option Nat
deriving DecidableEq, Repr

/-- Errors after a cold reset. -/
def Err.init : Err :=
  ⟨0, [], Ctr48.zero, Ctr48.zero, Ctr48.zero, Ctr48.zero, Ctr48.zero, [], [], 0, 0, [], [], [], [], 0, Health.fresh, none⟩

/-- A bandwidth window unit (R399). -/
structure BwUnit where
  w       : BitVec 5
  /-- a window length written and not yet in force -/
  newW    : Option (BitVec 5)
  windows : Word32
  last0   : BitVec 48
  last1   : BitVec 48
  peak0   : BitVec 48
  peak1   : BitVec 48
  now0    : BitVec 48
  now1    : BitVec 48
deriving DecidableEq, Repr

/-- A window unit after a reset. -/
def BwUnit.init : BwUnit := ⟨0, none, 0, 0, 0, 0, 0, 0, 0⟩

/-- A crossing whose record is due (R401): its cycle, the addresses that the skid allows so far, and how many more instructions it takes
in: the last one retired before the crossing, and 8 after. -/
structure Crossing where
  cycle : Nat
  pcs   : List Nat
  more  : Nat
deriving DecidableEq, Repr

/-- The sampling registers of a cluster (R400 to R404). -/
structure Sampler where
  ctrl    : Word32
  dropped : Nat
  next    : Nat
  lost    : Bool
  count   : Nat
  base    : Word64
  /-- issues counted since the last sampled one (R400) -/
  seen    : Nat
  /-- issue numbers of sampled instructions in flight -/
  marked  : List Nat
  /-- crossings of the counter whose records are due (R401) -/
  owed    : List Crossing
deriving DecidableEq, Repr

/-- A sampler after a cold reset. -/
def Sampler.init : Sampler := ⟨0, 0, 0, false, 0, 0, 0, [], []⟩

/-- The registers CNT_SNAP copies (R395). Counter n of a unit stands at its offset in the CNT block (R396). -/
structure CntRegs where
  time : Word64
  ctr  : Tab Ctr48
  bw   : Tab BwUnit
  samp : Tab Sampler
deriving DecidableEq, Repr

/-- No count. -/
def CntRegs.init : CntRegs := ⟨0, [], [], []⟩

/-- Counters, windows and sampling (chapter 20). -/
structure Counters where
  regs   : CntRegs
  shadow : CntRegs
  /-- sample buffers: slot k of cluster g at 256 g + k -/
  slots  : Tab (BitVec 128)
deriving DecidableEq, Repr

/-- Where the chip stands between a reset and readiness (R405 to R412). -/
inductive BootPhase where
  /-- no boot runs: PWRGD_MAIN is low, or rose while PWRGD_AON was low -/
  | off
  /-- a warm reset's entry has been made and the warm boot has not started -/
  | warmEntry
  | booting
  | ready
  | stopped
deriving DecidableEq, Repr

/-- The boot (chapter 21). -/
structure Boot where
  phase : BootPhase
  /-- BOOT_STATUS: READY, STOPPED, KIND, CAUSE, CAUSE_INDEX, DONE -/
  ready : Bool
  stopped : Bool
  kind  : BitVec 2
  cause : BitVec 8
  causeIndex : BitVec 8
  done  : BitVec 8
  /-- what a cold boot has still to do, also when a warm boot takes its place (R415): zero HBM, recover the ledger as after
  a loss of power, build the cluster map -/
  zeroHbm : Bool
  recoverCold : Bool
  buildMap : Bool
deriving DecidableEq, Repr

/-- No boot since PWRGD_AON rose. -/
def Boot.init : Boot := ⟨.off, false, false, 0, 0, 0, 0, true, true, true⟩

/-- The sideband lands that carry a level of their own (Table 22-8). LSHUT_N and FAULT_N follow from the state. -/
structure Pins where
  vddAon    : Bool
  aonClk    : Bool
  pwrgdAon  : Bool
  pwrgdMain : Bool
  warmResetN : Bool
  /-- THERMTRIP_N is low (R345) -/
  thermtrip : Bool
  /-- SMB_ALERT_N is low (R428) -/
  smbAlert  : Bool
  /-- QSPI_HOLD_N is low -/
  qspiHold  : Bool
  /-- PWRGD_MAIN was already high when PWRGD_AON rose, and no boot has started since (Table 22-7) -/
  lateAon   : Bool
deriving DecidableEq, Repr

/-- The JTAG instructions of R369, and those open on an engineering part only. -/
inductive JtagIr where
  | bypass | idcode | sample | extest | other
deriving DecidableEq, Repr

/-- The JTAG port (R369, R430). -/
structure Jtag where
  /-- TRST_N is high -/
  trstN   : Bool
  /-- the instruction in force -/
  ir      : JtagIr
  /-- the data register's content after the last shift, and what was shifted out on TDO, the first bit first -/
  dr      : List Bool
  out     : List Bool
  /-- what the boundary register's update stage holds, land by land -/
  latch   : List Bool
deriving DecidableEq, Repr

/-- The port in Test-Logic-Reset, at a level of TRST_N. -/
def Jtag.reset (trstN : Bool) : Jtag := ⟨trstN, .idcode, [], [], []⟩

/-- An answer to the board controller over MCTP: from which SMBus address and endpoint, and the word (R409, R428). -/
structure MctpAnswer where
  address  : BitVec 7
  endpoint : Byte
  word     : Word32
deriving DecidableEq, Repr

/-- The Sprue pair (R215, R247): which pair serves, and whether the other is ready. -/
structure Sprue where
  activeB1 : Bool
  standbyReady : Bool
  /-- the pairs that have failed, B0 and B1, until a cold boot finds them working -/
  failed0  : Bool
  failed1  : Bool
deriving DecidableEq, Repr

/-- Intake (R202 to R206, R254). Windows by 64 port + channel. -/
structure Intake where
  windows  : Tab Window
  /-- receipts that wait for their decision, in order of receipt -/
  received : List Packet
  /-- packets bound for acceptance, in order -/
  bound    : List Bound
  /-- Tundish buffers free on B0 and on B1 -/
  free0    : Nat
  free1    : Nat
  /-- SPR_STRAY -/
  stray    : Ctr48
  /-- channels whose first bound packet's body could not be written (R254) -/
  held     : BitVec 64
  /-- intake-store slots whose body stands in one stack only: 1 in S0, 2 in S4 (R254) -/
  oneCopy  : Tab Nat
deriving DecidableEq, Repr

/-- An intake that holds no packet. -/
def Intake.init : Intake := ⟨[], [], [], 256, 256, Ctr48.zero, 0, []⟩

end Sys2Proof.Machine
end

