-- ==== Sys2Proof/Machine/State.lean ====
section
/-! DEFINITION. The whole state of the block as plain data, its outcomes' reasons, and the state after reset. -/

namespace Sys2Proof.Machine

/-- Why a command stops with a fault. -/
inductive Fault where
  /-- R432 defines no behaviour for stress beyond the absolute maximum ratings. No command carries a voltage, so no
  meaning raises it: safe. -/
  | beyondRatings
deriving DecidableEq, Repr

/-- Why a command has no meaning. -/
inductive Refusal where
  /-- an arm of `exec` that has no meaning yet: safe -/
  | notModelled (mnemonic : String)
deriving DecidableEq, Repr

/-- The state of the block: everything the manual gives it, and the queue of commands that wait. -/
structure State where
  /-- commands that wait, first in, first out -/
  pending  : List Instr
  /-- the number of free values drawn so far (the model's own) -/
  free     : Nat
  pins     : Pins
  boot     : Boot
  ident    : Ident
  /-- HBM and the cluster windows by chip-local address (Table 1-5) -/
  mem      : Mem
  sprue    : Sprue
  riser    : Riser
  /-- the ledger writes of the period that lasts (the model's own) -/
  trail    : List LineMark
  /-- the volatile side of the 64 channels -/
  chans    : Tab Chan
  /-- entries in the order of their acceptance (R206) -/
  accepted : List Nat
  intake   : Intake
  cope     : HostPortState
  drag     : HostPortState
  /-- loaded patterns by handle, 1 to 16 -/
  patterns : Tab (Option Pattern)
  /-- running pours by channel -/
  running  : Tab (Option Running)
  /-- the running attempt of a RUN -/
  run      : Option RunCtx
  /-- the context whose kept tiles the Crucibles hold -/
  kept     : Option KeptContext
  clusters : Tab Cluster
  power    : Power
  runner   : Runner
  light    : Light
  assay    : Assay
  err      : Err
  cnt      : Counters
  jtag     : Jtag
  /-- answers the board controller has read over MCTP (the model's record) -/
  mctpOut  : List MctpAnswer
deriving DecidableEq, Repr

/-- A host port whose PERST_N is low and whose link is down. -/
def HostPortState.init : HostPortState := 
  ⟨false, true, false, false, MsixConfig.masked, 0, .off, .off, [], [], [], PcieSetup.reset, 0, 0, [], []⟩

/-- A Riser as the factory leaves it: copy 0 on B0, copy 1 on B1, every channel CLOSED and every entry FREE. -/
def Riser.init : Riser :=
  ⟨RiserCopy.whole false false Ledger.fresh, RiserCopy.whole true false Ledger.fresh,
    false, Ledger.fresh, 0, 0, Ctr48.zero, [], [], 1023, [], 0⟩

/-- The fused store of a production part. -/
def Otp.init : Otp :=
  ⟨Config.uds, false, Config.romDigest.toNat |> leBytes 48,
    (List.range 4).map (fun i => leBytes 48 (Config.keyDigest i).toNat), 0, 0, false, Config.certificate⟩

/-- The Assay before its first self-test. -/
def Assay.init : Assay :=
  ⟨.selfTest, 0, Otp.init, Image.none, false, false, 0, 0, false, none, Drbg.init, [], 0, false, []⟩

/-- The machine right after a cold reset of a part that has never booted: VDD_AON is applied, PWRGD_AON is high and
PWRGD_MAIN is low, so that no boot has run since PWRGD_AON rose (R409). -/
def State.reset : State where
  pending := []
  free := 0
  pins := ⟨true, true, true, false, true, false, false, false, false⟩
  boot := Boot.init
  ident := Ident.init
  mem := Mem.zeros
  sprue := ⟨false, false, false, false⟩
  riser := Riser.init
  trail := []
  chans := []
  accepted := []
  intake := Intake.init
  cope := HostPortState.init
  drag := HostPortState.init
  patterns := []
  running := []
  run := none
  kept := none
  clusters := []
  power := Power.init
  runner := Runner.init
  light := Light.init
  assay := Assay.init
  err := Err.init
  cnt := ⟨CntRegs.init, CntRegs.init, []⟩
  jtag := Jtag.reset false
  mctpOut := []

end Sys2Proof.Machine
end

