-- ==== Sys2Proof/Machine/Ops.lean ====
section
/-! DEFINITION. The named operations over the state that the commands share: counters, the log, host writes, memory
with its errors, the ledger, clusters, and the stop of a faulted pour. -/

namespace Sys2Proof.Machine

/-! ### Status codes (Table 12-10) -/

def stOk : BitVec 16 := 0x0000
def stBadHeader : BitVec 16 := 0x0101
def stBadDigest : BitVec 16 := 0x0102
def stOutOfSequence : BitVec 16 := 0x0103
def stDuplicate : BitVec 16 := 0x0104
def stChannelClosed : BitVec 16 := 0x0105
def stTableFull : BitVec 16 := 0x0106
def stQuotaExhausted : BitVec 16 := 0x0107
def stTundishExhausted : BitVec 16 := 0x0108
def stNotOwner : BitVec 16 := 0x0109
def stChannelClosing : BitVec 16 := 0x010A
def stMalformed : BitVec 16 := 0x0201
def stClusterMemory : BitVec 16 := 0x0202
def stTilesExceeded : BitVec 16 := 0x0203
def stHbmExceeded : BitVec 16 := 0x0204
def stTopology : BitVec 16 := 0x0205
def stTransit : BitVec 16 := 0x0206
def stWriteAlias : BitVec 16 := 0x0207
def stCopyOverlap : BitVec 16 := 0x0208
def stFormat : BitVec 16 := 0x0209
def stQuotaOver : BitVec 16 := 0x020A
def stPeerFirmware : BitVec 16 := 0x020B
def stVersioning : BitVec 16 := 0x020C
def stSlotCollision : BitVec 16 := 0x0301
def stUncorrectable : BitVec 16 := 0x0302
def stPoisonConsumed : BitVec 16 := 0x0303
def stPeerLost : BitVec 16 := 0x0304
def stMarginLow : BitVec 16 := 0x0401
def stMislock : BitVec 16 := 0x0402
def stEyeSafety : BitVec 16 := 0x0403
def stPeerIdentity : BitVec 16 := 0x0404
def stSignature : BitVec 16 := 0x0501
def stRollback : BitVec 16 := 0x0502
def stThermalTrip : BitVec 16 := 0x0601
def stDistrust : BitVec 16 := 0x0602
def stMirrorLost : BitVec 16 := 0x0701
def stRiserLost : BitVec 16 := 0x0702
def stSurrendered : BitVec 16 := 0x0703

/-! ### Counters (R393, R396) -/

/-- A counter moved on; past 2^48 − 1 it goes on from the remainder and OVF is set. -/
def Ctr48.add (c : Ctr48) (k : Nat) : Ctr48 :=
  ⟨BitVec.ofNat 48 (c.n.toNat + k), c.ovf || decide (2 ^ 48 ≤ c.n.toNat + k)⟩

/-- A counter whose count is cleared and whose OVF stays. -/
def Ctr48.clearCount (c : Ctr48) : Ctr48 := ⟨0, c.ovf⟩

/-- The _LO and _HI registers of a counter. -/
def Ctr48.lo (c : Ctr48) : Word32 := c.n.setWidth 32
def Ctr48.hi (c : Ctr48) : Word32 := BitVec.ofNat 32 (c.n.toNat / 2 ^ 32 + (if c.ovf then 2 ^ 31 else 0))

/-- Offsets of the counters in the CNT block (Table 20-1). -/
def ctrRunner (p n : Nat) : Nat := 0x100 + 0x40 * p + 8 * n
def ctrHost (h n : Nat) : Nat := 0x900 + 0x40 * h + 8 * n
def ctrHbm (s n : Nat) : Nat := 0xA00 + 0x40 * s + 8 * n
def ctrFloor (d n : Nat) : Nat := 0xC00 + 0x20 * d + 8 * n
def ctrCluster (g n : Nat) : Nat := 0x10000 + 0x200 * g + 8 * n
def ctrColl (i n : Nat) : Nat := 0x20000 + 0x10 * i + 8 * n

/-- Counter n of a cluster goes on by `k` from `before`, one a cycle from `cycle` on: in MODE 2 the counter EVENT may pass a multiple of
64 × PERIOD, and a record falls due (R401). `last`: the address of the last instruction retired. -/
def Sampler.passed (m : Sampler) (n before k cycle : Nat) (last : Option Nat) : Sampler :=
  let v := m.ctrl.toNat
  let d := 64 * (v % 2 ^ 16)
  if v / 2 ^ 30 = 2 ∧ v / 2 ^ 24 % 32 = n ∧ before / d < (before + k) / d then
    { m with owed := m.owed ++ [⟨cycle + (d - before % d) - 1, last.toList, 8⟩] }
  else m

/-- The samplers once the counter at an offset has gone on by `k`: that of its cluster, of which `cl` gives the cluster by number. -/
def CntRegs.sampled (r : CntRegs) (off k : Nat) (cl : Nat → Cluster) : Tab Sampler :=
  if off / 0x10000 = 1 then
    let g := (off - 0x10000) / 0x200
    Tab.upd Sampler.init r.samp g fun m =>
      m.passed (off % 0x200 / 8) (Tab.get Ctr48.zero r.ctr off).n.toNat k (cl g).cycle (cl g).lastPc
  else r.samp

/-- A counter moved on. -/
def CntRegs.count (r : CntRegs) (off k : Nat) (cl : Nat → Cluster) : CntRegs :=
  { r with ctr := Tab.upd Ctr48.zero r.ctr off (fun c => c.add k), samp := r.sampled off k cl }

/-- A counter of the CNT block moved on; one of a cluster may be sampled (R401). -/
def State.count (s : State) (off k : Nat) : State :=
  { s with cnt := { s.cnt with regs := s.cnt.regs.count off k fun g => Tab.get Cluster.init s.clusters g } }

/-- Bytes added to a window unit in direction 0 or 1 (R399). -/
def BwUnit.add (b : BwUnit) (second : Bool) (k : Nat) : BwUnit :=
  if second then { b with now1 := b.now1 + BitVec.ofNat 48 k } else { b with now0 := b.now0 + BitVec.ofNat 48 k }

/-- Bytes of a window unit counted. -/
def State.bwCount (s : State) (u : Nat) (second : Bool) (k : Nat) : State :=
  { s with cnt := { s.cnt with regs := { s.cnt.regs with
      bw := Tab.upd BwUnit.init s.cnt.regs.bw u (fun b => b.add second k) } } }

/-- BAR0 is open: the Nelhan is ready, or its boot has stopped or the Assay has stopped it (R371, R408, R410). -/
def State.barOpen (s : State) : Bool := s.boot.phase = .ready || s.boot.phase = .stopped

/-- A write that was ignored (R2, R23). -/
def State.rsvdWrite (s : State) : State := { s with err := { s.err with rsvd := s.err.rsvd.add 1 } }

/-- A write counted when a reserved field of it is not zero: that value has no effect, and the rest of the write has (R2). -/
def State.rsvdIf (s : State) (rsvd : Bool) : State := if rsvd then s.rsvdWrite else s

/-- SPR_STRAY moved on. -/
def State.addStray (s : State) : State := { s with intake := { s.intake with stray := s.intake.stray.add 1 } }

/-- A free value: the model's counter moves on. -/
def State.drawFree (s : State) : BitVec 64 × State := (Config.freeValue s.free, { s with free := s.free + 1 })

/-! ### Host ports (R196, R214) -/

/-- The state of a port. -/
def State.port (s : State) : HostPort → HostPortState
  | .cope => s.cope
  | .drag => s.drag

/-- The state of a port changed. -/
def State.updPort (s : State) (p : HostPort) (f : HostPortState → HostPortState) : State :=
  match p with
  | .cope => { s with cope := f s.cope }
  | .drag => { s with drag := f s.drag }

/-- A port writes to host memory only when its link is up, it is out of reset and FLR, and Bus Master Enable is set. -/
def HostPortState.mayWrite (p : HostPortState) : Bool := p.linkUp && !p.perst && !p.flr && p.busMaster

/-- Payload bytes of a TLP that a port takes (false) or sends (true) (R399). -/
def State.hostTlp (s : State) (p : HostPort) (sent : Bool) (n : Nat) : State := s.bwCount (32 + p.toNat) sent n

/-- The port that carries a register write whose command names none: one whose link is up (DESIGN CHOICE, log entry 86). -/
def State.anyPort (s : State) : HostPort :=
  if s.drag.linkUp && (Config.writePort s.cnt.regs.time.toNat || !s.cope.linkUp) then .drag else .cope

/-- A 32-bit register write whose command names no port, as its port counts it (R399). -/
def State.anyWrite (s : State) : State := s.hostTlp s.anyPort false 4

/-- A write to host memory through a port. -/
def State.hostWrite (s : State) (p : HostPort) (addr : Word64) (data : List Byte) : State :=
  ((s.updPort p fun h => { h with out := h.out ++ [.write addr data] }).count (ctrHost p.toNat 6) data.length).bwCount
    (32 + p.toNat) true data.length

/-- A vector's message may go out now: the port may write, and MSI-X does not hold the vector back. -/
def HostPortState.maySend (p : HostPortState) (v : Nat) : Bool := p.mayWrite && p.msixConfig.opens v

/-- An MSI-X message, or its pending bit while it may not go out (R196, R214). -/
def State.msix (s : State) (p : HostPort) (v : Nat) : State :=
  if (s.port p).maySend v then
    ((s.updPort p fun h => { h with out := h.out ++ [.msix v] }).count (ctrHost p.toNat 4) 1).hostTlp p true 4
  else s.updPort p fun h => { h with pending := h.pending ||| (1#65 <<< v) }

/-- The kept tiles have to be restored before they are used again (R131). -/
def State.staleKept (s : State) : State := { s with kept := s.kept.map fun (k : KeptContext) => { k with clean := false } }

/-- The port of a channel's other side. -/
def HostPort.other : HostPort → HostPort
  | .cope => .drag
  | .drag => .cope

/-! ### The ledger (R238 to R240) -/

/-- The copy that reads come from: the one on the die of the Sprue pair in service, if it is in service. -/
def Riser.current (r : Riser) (b1 : Bool) : RiserCopy :=
  if r.copy0.state = .inService ∧ (r.copy0.die = b1 ∨ r.copy1.state ≠ .inService) then r.copy0
  else if r.copy1.state = .inService then r.copy1
  else r.copy0

/-- The ledger as the Nelhan reads it: of a copy in service, or the working state that is left (R256). -/
def State.ledger (s : State) : Ledger := if s.riser.lost then s.riser.work else (s.riser.current s.sprue.activeB1).data

/-- A line of a copy written, unless the copy is lost: the line is valid from then on. -/
def RiserCopy.write (c : RiserCopy) (l : RLine) (f : Ledger → Ledger) : RiserCopy :=
  if c.state = .lost then c else { c with data := f c.data, bad := c.bad.filter (· ≠ l) }

/-- Line writes counted for the region of a copy (R259). -/
def RiserCopy.countWrites (c : RiserCopy) (n : Nat) (t : Tab Nat) : Tab Nat :=
  if c.state = .lost then t else Tab.upd 0 t (mramRegion c.die c.spare) (· + n)

/-- A line written once no copy is left: to the working state (R256), and, where it is the Assay's, to each copy in which it is valid, so
that what the Assay reads there stands (R359, R366: DESIGN CHOICE, log entry 84). -/
def RiserCopy.writeLost (c : RiserCopy) (l : RLine) (f : Ledger → Ledger) : RiserCopy :=
  if assayLine l && c.valid l then { c with data := f c.data } else c

/-- A line written to both copies (R240); to one copy while the other is lost (R255); to the working state once no copy is left
(R256). -/
def Riser.put (r : Riser) (l : RLine) (f : Ledger → Ledger) : Riser :=
  if r.lost then { r with
    work := f r.work
    copy0 := r.copy0.writeLost l f
    copy1 := r.copy1.writeLost l f }
  else { r with
    copy0 := r.copy0.write l f
    copy1 := r.copy1.write l f
    writes := r.copy1.countWrites (lineSize l) (r.copy0.countWrites (lineSize l) r.writes) }

/-- The main rails stand and the PLLs run (R345, R424). -/
def State.clocked (s : State) : Bool := s.pins.pwrgdMain && !s.power.stopped

/-- The ledger writes of this period, with one more. Before readiness none is kept: what a boot had written, the next writes again. -/
def State.marked (s : State) (l : RLine) : List LineMark :=
  if s.boot.phase = .ready ∧ s.riser.lost = false then
    (s.trail.filter fun m => m.time = s.cnt.regs.time)
      ++ [⟨s.cnt.regs.time, l, s.riser.copy0.data, s.riser.copy1.data, s.patterns, s.assay.receipts, s.power.pours⟩]
  else []

/-- A write of the ledger (R240). -/
def State.updLedger (s : State) (l : RLine) (f : Ledger → Ledger) : State :=
  { s with riser := s.riser.put l f, trail := s.marked l }

/-- What the ledger writes of this period have led to is seen outside, or worked upon: they are complete. -/
def State.linesDone (s : State) : State := { s with trail := [] }

/-- A copy as a reader may use it: in service, or, once none is, as it is (R366). -/
def Riser.usable (r : Riser) (c : RiserCopy) : RiserCopy := if r.lost || c.state == .inService then c else { c with held := 0 }

/-- A line is valid in a copy that may be used (R239, R366). -/
def Riser.readable (r : Riser) (l : RLine) : Bool := (r.usable r.copy0).valid l || (r.usable r.copy1).valid l

/-- An entry of the ledger. -/
def State.entry (s : State) (i : Nat) : Entry := Tab.get Entry.free s.ledger.entries i

/-- An entry changed. -/
def State.updEntry (s : State) (i : Nat) (f : Entry → Entry) : State :=
  s.updLedger (.entry i) fun l => { l with entries := Tab.upd Entry.free l.entries i f }

/-- A channel's entry in the channel table. -/
def State.chan (s : State) (c : Nat) : ChanRec := Tab.get ChanRec.closed s.ledger.chans c

/-- A channel's entry changed. -/
def State.updChan (s : State) (c : Nat) (f : ChanRec → ChanRec) : State :=
  s.updLedger (.chan c) fun l => { l with chans := Tab.upd ChanRec.closed l.chans c f }

/-- What the channel table keeps of a channel with an entry's own line (R197): a change that is no line write of Table 13-7. -/
def State.noteChan (s : State) (c : Nat) (f : ChanRec → ChanRec) : State :=
  let g (l : Ledger) : Ledger := { l with chans := Tab.upd ChanRec.closed l.chans c f }
  let note (x : RiserCopy) : RiserCopy := if x.state = .lost then x else { x with data := g x.data }
  { s with riser := if s.riser.lost then { s.riser with work := g s.riser.work }
      else { s.riser with copy0 := note s.riser.copy0, copy1 := note s.riser.copy1 } }

/-- The volatile side of a channel. -/
def State.vchan (s : State) (c : Nat) : Chan := Tab.get Chan.init s.chans c

/-- The volatile side of a channel changed. -/
def State.updVchan (s : State) (c : Nat) (f : Chan → Chan) : State :=
  { s with chans := Tab.upd Chan.init s.chans c f }

/-- A running pour of a channel. -/
def State.runningOf (s : State) (c : Nat) : Option Running := Tab.get none s.running c

/-- A running pour set. -/
def State.setRunning (s : State) (c : Nat) (r : Option Running) : State :=
  { s with running := Tab.put none s.running c r }

/-- A loaded pattern. -/
def State.pattern (s : State) (h : Nat) : Option Pattern := Tab.get none s.patterns h

/-- A window of an intake port. -/
def State.window (s : State) (p : HostPort) (c : Nat) : Window := Tab.get Window.idle s.intake.windows (64 * p.toNat + c)

/-- A window set. -/
def State.setWindow (s : State) (p : HostPort) (c : Nat) (w : Window) : State :=
  { s with intake := { s.intake with windows := Tab.put Window.idle s.intake.windows (64 * p.toNat + c) w } }

/-! ### Log and health (R385 to R390) -/

/-- A log entry (Table 19-5). No status that is logged names one failing symbol, so SYMBOL is 0xFF. -/
def logWord (time pour : Word64) (addr unit index chan : Nat) (link pourValid : Bool) (seq : Word32)
    (status : BitVec 16) : BitVec 256 :=
  BitVec.ofNat 256 (status.toNat + seq.toNat * 2 ^ 16 + 0xFF * 2 ^ 48 + (if pourValid then 2 ^ 56 else 0)
    + (if link then 2 ^ 57 else 0) + chan % 64 * 2 ^ 58 + index % 256 * 2 ^ 64 + unit % 256 * 2 ^ 72
    + addr % 2 ^ 48 * 2 ^ 80 + pour.toNat * 2 ^ 128 + time.toNat * 2 ^ 192)

/-- An entry of the ERR log, SMB_ALERT_N low, and MSI-X vector 64 on each port (R386, R428). -/
def State.logStatus (s : State) (status : BitVec 16) (unit index addr : Nat) (link : Bool)
    (pour : Option (Nat × Word64)) : State :=
  let (c, n, valid) := match pour with
    | some (c, n) => (c, n, true)
    | none => (0, 0, false)
  let w := logWord s.cnt.regs.time n addr unit index c link valid s.err.seq status
  let s := { s with
    err := { s.err with seq := s.err.seq + 1, log := Tab.put 0 s.err.log (s.err.seq.toNat % 256) w }
    pins := { s.pins with smbAlert := true } }
  (s.msix .cope 64).msix .drag 64

/-- The statuses marked Log in Table 12-10, and RISER_LOST (R256). -/
def isLogStatus (st : BitVec 16) : Bool :=
  [0x020B, 0x0302, 0x0303, 0x0304, 0x0401, 0x0402, 0x0403, 0x0404, 0x0501, 0x0502, 0x0601, 0x0602, 0x0701, 0x0702].contains st

/-- The units of Table 19-5. -/
def unitHbm : Nat := 0
def unitCluster : Nat := 1
def unitFloor : Nat := 2
def unitRunner : Nat := 3
def unitRiser : Nat := 4
def unitSprue : Nat := 5
def unitAssay : Nat := 6
def unitPower : Nat := 7
def unitLight : Nat := 8
def unitIntake : Nat := 9

/-- The health state written to the Riser's configuration area (R390). -/
def State.saveHealth (s : State) : State := s.updLedger .health fun l => { l with health := s.err.health }

/-- Points of a local event (R388); an event of 100 points or more is saved (R390). -/
def State.addLocal (s : State) (k : Nat) : State :=
  let s := { s with err := { s.err with health := { s.err.health with
    dLocal := min 65535 (s.err.health.dLocal + k) } } }
  if 100 ≤ k then s.saveHealth else s

/-- Points of a link-shared event of a port (R388). -/
def State.addLink (s : State) (p k : Nat) : State :=
  let s := { s with err := { s.err with
    health := { s.err.health with dLink := min 65535 (s.err.health.dLink + k) }
    portShared := Tab.upd 0 s.err.portShared p (fun v => BitVec.ofNat 16 (min 65535 (v.toNat + k))) } }
  if 100 ≤ k then s.saveHealth else s

/-! ### Addresses (R14 to R21) -/

/-- The chip's own slot. -/
def State.slot (s : State) : Nat := s.ident.chipId.toNat % 8

/-- The board address of a chip-local address. -/
def State.boardAddr (s : State) (a : Nat) : Nat := s.slot * 2 ^ 45 + a

/-- The first HBM byte beyond the stacks. -/
def hbmEnd : Nat := 2 ^ 40

/-- Pattern-usable HBM: the lowest 126 GiB of each stack. -/
def isUsable (a : Nat) : Bool := a < 2 ^ 40 && a % 2 ^ 37 < 0x1F80000000

/-- A whole range lies in pattern-usable HBM: the reserved top keeps it within one stack. -/
def usableRange (a n : Nat) : Bool := n != 0 && isUsable a && a % 2 ^ 37 + n ≤ 0x1F80000000

/-- The base of the cluster windows and the size of one. -/
def windowBase : Nat := 2 ^ 40
def windowSize : Nat := 0x2000000

/-- Cluster memory at 0, under-store from 8 MiB, the hole from 24 MiB. -/
def windowUsable : Nat := 0x1800000

/-! ### Memory with its errors -/

/-- Transfers of a mesh (k: its die) or of a base-die network (k: 2 + its die), for the estimate (R341). -/
def State.onFabric (s : State) (k n : Nat) : State :=
  { s with power := { s.power with fabric := Tab.upd 0 s.power.fabric k (· + n) } }

/-- HBM traffic of a byte range (R397: 32 bytes per codeword), which its die's network carries; `dev` marks phase 63. -/
def State.hbmTraffic (s : State) (a n : Nat) (write dev : Bool) : State :=
  if n = 0 ∨ hbmEnd ≤ a then s
  else
    let k := 32 * (cwSpan a n).2
    let st := a / 2 ^ 37
    let s := ((s.count (ctrHbm st (if write then 1 else 0)) k).bwCount (34 + st) write k).onFabric (2 + st / 4) (k / 32)
    if dev then s.count (ctrHbm st 2) k else s

/-- What one memory event does in ERR: counts, log entry and health points (R379, R386, R388). -/
def State.noteEvent (s : State) (pour : Option (Nat × Word64)) : MemEvent → State
  | .corrected (.hbm st) => { s with err := { s.err with
      corrHbm := Tab.upd Ctr48.zero s.err.corrHbm st (fun c => c.add 1)
      hourCorr := Tab.upd 0 s.err.hourCorr st (· + 1) } }
  | .corrected .intake => { s with err := { s.err with corrSram := s.err.corrSram.add 1 } }.addLocal 1
  | .corrected (.cluster _) =>
    { s with err := { s.err with corrSram := s.err.corrSram.add 1 } }.addLocal 1
  | .uncorrectable (.hbm st) a =>
    ({ s with err := { s.err with uncorrHbm := Tab.upd Ctr48.zero s.err.uncorrHbm st (fun c => c.add 1) } }.logStatus
      stUncorrectable unitHbm st (s.boardAddr a) false pour).addLocal 100
  | .uncorrectable .intake _ =>
    ({ s with err := { s.err with uncorrSram := s.err.uncorrSram.add 1 } }.logStatus stUncorrectable unitIntake 0 0 false pour).addLocal 100
  | .uncorrectable (.cluster g) a =>
    ({ s with err := { s.err with uncorrSram := s.err.uncorrSram.add 1 } }.logStatus
      stUncorrectable unitCluster g (if a = 0 then 0 else s.boardAddr a) false pour).addLocal 100
  | .poisonWritten => { s with err := { s.err with poisonWritten := s.err.poisonWritten.add 1 } }

/-- The events of an access noted in order. -/
def State.noteAll (s : State) (pour : Option (Nat × Word64)) (evs : List MemEvent) : State :=
  evs.foldl (fun s e => s.noteEvent pour e) s

/-- A range of the chip-local space read. -/
def State.readMem (s : State) (pour : Option (Nat × Word64)) (dev : Bool) (a n : Nat) : RangeRead × State :=
  let r := s.mem.readRange .chip a n
  (r, ({ s with mem := r.mem }.noteAll pour r.events).hbmTraffic a n false dev)

/-- A range of the chip-local space written. -/
def State.writeMem (s : State) (pour : Option (Nat × Word64)) (dev : Bool) (a : Nat) (bs : List Byte) : State :=
  let (m, ev) := s.mem.writeRange .chip a bs
  ({ s with mem := m }.noteAll pour ev).hbmTraffic a bs.length true dev

/-! ### Clusters -/

/-- A logical cluster. -/
def State.cl (s : State) (g : Nat) : Cluster := Tab.get Cluster.init s.clusters g

/-- A logical cluster changed. -/
def State.updCl (s : State) (g : Nat) (f : Cluster → Cluster) : State :=
  { s with clusters := Tab.upd Cluster.init s.clusters g f }

/-- A cluster is mapped to a position (R27 VALID). -/
def State.mapped (s : State) (g : Nat) : Bool := (Tab.get none s.ident.clmap g).isSome

/-- The channel and the pour number of the running RUN. -/
def State.runPour (s : State) : Option (Nat × Word64) := s.run.map fun r => (r.chan, (s.entry r.entry).pour)

/-- A cluster that stops with its pour (R92): nothing issues again, what is in flight stops, and the armed list and the
lending period are discarded (R165). -/
def Cluster.stop (c : Cluster) : Cluster :=
  if c.unused ∨ c.run = .idle then c
  else { c with run := .stopped, flights := [], stall := none, asleep := false, lending := Lending.none }

/-- Every cluster stopped. -/
def State.stopClusters (s : State) : State :=
  { s with clusters := s.clusters.map fun e => (e.1, e.2.stop) }

/-- The SOURCE numbers of CLS_FAULT (Table 4-12) beyond the engines' own. -/
def srcCore : Nat := 5
def srcMesh : Nat := 6
def srcFloor : Nat := 7
def srcHbm : Nat := 8

/-- The base-die cycle in which the first fault of the attempt was detected still lasts (R92). The model's cycle is the period of
AON_CLK, in which a command takes no time (DESIGN CHOICE, log entry 21). -/
def State.closing (s : State) : Bool := (s.run.bind (·.stopAt)) == some s.cnt.regs.time

/-- The running attempt ends with a fault, on the whole chip; the stop takes effect as its cycle ends (R92). The first fault stands. -/
def State.endAttempt (s : State) (status : BitVec 16) (replay : Bool) : State :=
  match s.run with
  | none => s
  | some r =>
    if r.fault.isSome then s
    else { s with run := some { r with fault := some (status, replay), stopAt := some s.cnt.regs.time } }

/-- No cluster with a lower number has faulted in the attempt: a fault of this one is the one that the reply carries (R92). -/
def State.leastFault (s : State) (g : Nat) : Bool := (List.range g).all fun h => !(s.cl h).fault.valid

/-- A fault is still recorded: it is the attempt's first, or it falls in the cycle of the first, and none of a lower or the same SOURCE
stands in its cluster (R92). -/
def State.faultCounts (s : State) (g source : Nat) : Bool :=
  let f := (s.cl g).fault
  match s.run with
  | none => false
  | some r => r.fault.isNone || (s.closing && !(f.valid && decide (f.source.toNat ≤ source)))

/-- A cluster faults the pour (R92): its CLS_FAULT records the fault, and the pour stops on the whole chip. Of the faults of one cycle the
one with the lowest cluster, and then the lowest SOURCE, is the attempt's. A consumed poisoned word is counted and logged (R380, R386). -/
def State.faultPour (s : State) (g source : Nat) (status : BitVec 16) (pc : BitVec 18) (addr : Nat) : State :=
  if s.faultCounts g source then
    let least := s.leastFault g
    let s := (s.endAttempt status false).updCl g fun c =>
      { c with fault := ⟨true, BitVec.ofNat 4 source, status, pc, BitVec.ofNat 48 addr⟩ }
    let s := if least then { s with run := s.run.map fun (r : RunCtx) => { r with fault := some (status, false) } } else s
    if status = stPoisonConsumed then
      { s with err := { s.err with poisonConsumed := s.err.poisonConsumed.add 1 } }.logStatus
        stPoisonConsumed unitCluster g addr false s.runPour
    else s
  else s

end Sys2Proof.Machine
end

