-- ==== Sys2Proof/Machine/Operands.lean ====
section
/-! DEFINITION. Tensor descriptors: the records, the checks of Table 3-4, the element addresses and indices, the
footprints, and reading and writing elements in memory (chapter 3). -/

namespace Sys2Proof.Machine

/-- Bits [hi:lo] of a number. -/
def fieldOf (v lo n : Nat) : Nat := v / 2 ^ lo % 2 ^ n

/-- The global record (Table 3-3). -/
structure GlobRec where
  reserved : Nat
  gext     : List Nat
  shards   : List Nat
  axis     : List Nat
deriving DecidableEq, Repr

/-- A descriptor (Tables 3-1 and 3-3), lists from dimension 0 to 5; STRIDE0 is 1. -/
structure Desc where
  /-- the scalar data address of its first record -/
  addr     : Nat
  reserved : Nat
  base     : Nat
  fmt      : Nat
  rank     : Nat
  kind     : Bool
  accum    : Bool
  tid      : Nat
  ext      : List Nat
  stride   : List Int
  glob     : GlobRec
deriving DecidableEq, Repr

/-- The global record read from its 512 bits. -/
def parseGlob (v : Nat) : GlobRec where
  reserved := fieldOf v 336 176
  gext := (List.range 6).map fun j => fieldOf v (32 * j) 32
  shards := (List.range 6).map fun j => fieldOf v (192 + 20 * j) 20
  axis := (List.range 6).map fun j => fieldOf v (312 + 4 * j) 4

/-- A descriptor read from its record and the record that follows it. -/
def parseDesc (addr : Nat) (r0 r1 : BitVec 512) : Desc :=
  let v := r0.toNat
  { addr := addr
    reserved := fieldOf v 57 7 + fieldOf v 508 4
    base := fieldOf v 0 48
    fmt := fieldOf v 48 4
    rank := fieldOf v 52 3
    kind := fieldOf v 55 1 = 1
    accum := fieldOf v 56 1 = 1
    tid := fieldOf v 64 32
    ext := (List.range 6).map fun j => fieldOf v (96 + 32 * j) 32
    stride := (List.range 6).map fun j => if j = 0 then 1 else signedOf 44 (fieldOf v (288 + 44 * (j - 1)) 44)
    glob := parseGlob r1.toNat }

/-- Extent and stride of a dimension. -/
def Desc.extent (d : Desc) (j : Nat) : Nat := d.ext.getD j 0
def Desc.strideOf (d : Desc) (j : Nat) : Int := d.stride.getD j 0

/-- The slot and the chip-local part of BASE. -/
def Desc.baseSlot (d : Desc) : Nat := d.base / 2 ^ 45
def Desc.local_ (d : Desc) : Nat := d.base % 2 ^ 45

/-- The dimensions within RANK. -/
def Desc.dims (d : Desc) : List Nat := List.range d.rank

/-- Number of elements. -/
def Desc.count (d : Desc) : Nat := d.dims.foldl (fun n j => n * d.extent j) 1

/-- Offsets of the elements in ascending linear index, dimension by dimension outwards (R57). -/
def Desc.offsets (d : Desc) : List Int :=
  (d.dims.drop 1).foldl
    (fun (inner : List Int) j =>
      (List.range (d.extent j)).flatMap fun (i : Nat) => inner.map fun o => o + d.strideOf j * (i : Int))
    ((List.range (d.extent 0)).map fun (i : Nat) => (i : Int))

/-- Index tuples of the elements in ascending linear index, dimension 0 first. -/
def Desc.indices (d : Desc) : List (List Nat) :=
  (d.dims.drop 1).foldl
    (fun (inner : List (List Nat)) j => (List.range (d.extent j)).flatMap fun i => inner.map fun t => t ++ [i])
    ((List.range (d.extent 0)).map fun i => [i])

/-- The linear index of a tuple under extents. -/
def linearIndex : List Nat → List Nat → Nat
  | [], _ => 0
  | i :: is, es => i + es.headD 0 * linearIndex is (es.drop 1)

/-- The first offset and the last of the footprint, in elements (R59). -/
def Desc.span (d : Desc) : Int × Int :=
  (d.dims.drop 1).foldl
    (fun (lh : Int × Int) j =>
      let sp := ((d.extent j : Int) - 1) * d.strideOf j
      if sp < 0 then (lh.1 + sp, lh.2) else (lh.1, lh.2 + sp))
    (0, (d.extent 0 : Int) - 1)

/-- The footprint as first and last chip-local byte; it may lie outside the space (R59). -/
def Desc.footprint (d : Desc) : Int × Int :=
  let w : Int := (widthBits d.fmt : Nat)
  ((d.local_ : Int) + d.span.1 * w / 8, (d.local_ : Int) + (d.span.2 + 1) * w / 8 - 1)

/-- The footprint as board addresses. -/
def Desc.boardPrint (d : Desc) : Nat × Nat :=
  (d.baseSlot * 2 ^ 45 + d.footprint.1.toNat, d.baseSlot * 2 ^ 45 + d.footprint.2.toNat)

/-! ### Regions (R16, R17, R21) -/

/-- The regions of Table 1-5 as an engine may meet them. -/
inductive Region where
  | usable (stack : Nat)
  | cluster (g : Nat)
  | reservedHbm
  | hole
  | registers
  | unmapped
deriving DecidableEq, Repr

/-- The code of Table 1-6. DESIGN CHOICE (log entry 72): where the lowest byte outside a region lies in the memory of another
mapped cluster or in the usable part of another stack, Table 1-6 names no code and the model takes HBM_EXCEEDED. -/
def Region.code : Region → BitVec 16
  | .reservedHbm => stHbmExceeded
  | .hole => stClusterMemory
  | .registers => stMalformed
  | _ => stHbmExceeded

/-- The region of a chip-local address. -/
def regionOf (mapped : Nat → Bool) (a : Nat) : Region :=
  if a < 2 ^ 40 then (if isUsable a then .usable (a / 2 ^ 37) else .reservedHbm)
  else if a < windowBase + 128 * windowSize then
    let o := a - windowBase
    if o % windowSize < windowUsable ∧ mapped (o / windowSize) then .cluster (o / windowSize) else .hole
  else if 0x018000000000 ≤ a ∧ a < 0x018004000000 then .registers
  else .unmapped

/-- First and last byte of a region that may be reached. -/
def Region.bounds : Region → Option (Nat × Nat)
  | .usable s => some (s * 2 ^ 37, s * 2 ^ 37 + 0x1F80000000 - 1)
  | .cluster g => some (windowBase + g * windowSize, windowBase + g * windowSize + windowUsable - 1)
  | _ => none

/-! ### The checks of Table 3-4 -/

/-- What the checks need to know of the chip and its flask. -/
structure DescEnv where
  slot    : Nat
  mapped  : Nat → Bool
  /-- R275: some port of the pair toward a slot is admitted or stood in for -/
  fence   : Nat → Bool
  /-- sizes of the mesh axes, and this chip's coordinates (R69, R70) -/
  axes    : List Nat
  coords  : List Nat
  /-- the flask is larger than one board (R71) -/
  bigFlask : Bool
  /-- logical rank, rank count, and the board slot of a rank where it is known (R283, R284) -/
  rank     : Nat
  flaskN   : Nat
  slotOf   : Nat → Option Nat

/-- The position in which an instruction names a descriptor: the formats row 3 admits, whether it is written,
whether ACCUM may be 1, and whether a collective names it. -/
structure DescUse where
  formats : Nat → Bool
  write   : Bool
  accum   : Bool
  coll    : Bool

/-- A status where a condition fails. -/
def orElse (c : Bool) (st : BitVec 16) : Option (BitVec 16) := if c then none else some st

/-- The first failure of a list of checks. -/
def firstFail : List (Option (BitVec 16)) → Option (BitVec 16)
  | [] => none
  | some st :: _ => some st
  | none :: t => firstFail t

/-- Row 6: the board fence, then the footprint in one region, in the order of R59. -/
def checkRegion (env : DescEnv) (d : Desc) : Option (BitVec 16) :=
  let peer := d.baseSlot != env.slot
  let reg := regionOf (if peer then fun _ => false else env.mapped) d.local_
  if peer && !env.fence d.baseSlot then some stTopology
  else
    match reg.bounds with
    | none => some (if peer then stHbmExceeded else reg.code)
    | some (lo, hi) =>
      let fp := d.footprint
      if fp.1 < 0 ∨ (2 ^ 45 - 1 : Int) < fp.2 then some stHbmExceeded
      else if fp.1 < lo then some (if peer then stHbmExceeded else (regionOf env.mapped fp.1.toNat).code)
      else if (hi : Int) < fp.2 then some (if peer then stHbmExceeded else (regionOf env.mapped (hi + 1)).code)
      else none

/-- Row 9: the conditions of R69, row by row. -/
def checkGlobal (env : DescEnv) (d : Desc) : Option (BitVec 16) :=
  let g := d.glob
  let ax := fun j => g.axis.getD j 0
  let sh := fun j => g.shards.getD j 0
  let ge := fun j => g.gext.getD j 0
  firstFail
    [ orElse ((List.range 6).all fun j =>
        if j < d.rank then ax j < 4 || ax j = 0xF else ax j = 0 && sh j = 0 && ge j = 0) stMalformed
    , orElse (d.dims.all fun j => (ax j = 0xF) == (sh j = 1)) stMalformed
    , orElse (d.dims.all fun j => ge j = sh j * d.extent j) stMalformed
    , orElse (d.dims.all fun j => ax j = 0xF || d.dims.all fun k => k = j || ax k != ax j) stMalformed
    , orElse (d.dims.all fun j => ax j = 0xF || sh j = env.axes.getD (ax j) 1) stTopology ]

/-- Rows 1 to 10 of Table 3-4. -/
def checkDesc (env : DescEnv) (u : DescUse) (d : Desc) : Option (BitVec 16) :=
  let w := widthBits d.fmt
  firstFail
    [ orElse (d.reserved = 0 && (!d.kind || d.glob.reserved = 0)) stMalformed
    , orElse (1 ≤ d.rank && d.rank ≤ 6) stMalformed
    , orElse (u.formats d.fmt) stFormat
    , orElse ((List.range 6).all fun j =>
        if j < d.rank then 1 ≤ d.extent j else d.extent j = 0 && (j = 0 || d.strideOf j = 0)) stMalformed
    , orElse (d.base % 32 = 0 && d.extent 0 * w % 256 = 0
        && (d.dims.drop 1).all fun j => d.strideOf j * (w : Int) % 256 = 0) stMalformed
    , if 1 ≤ d.rank && d.rank ≤ 6 then checkRegion env d else none
    , orElse (!d.accum || u.accum) stMalformed
    , orElse (!d.accum || [0x0, 0x1, 0x9].contains d.fmt) stFormat
    , orElse (!u.write || d.accum || (d.dims.drop 1).all fun j => d.strideOf j != 0 || d.extent j ≤ 1) stWriteAlias
    , if d.kind then checkGlobal env d else none
    , orElse (!(u.coll && env.bigFlask && !d.kind)) stTopology ]

/-- A position in which a descriptor is read, with what a position in which it is also written asks for (R61, R63: ACCUM = 1
stays refused). -/
def DescUse.alsoWritten (u w : DescUse) : DescUse := ⟨fun f => u.formats f && w.formats f, true, u.accum, u.coll⟩

/-- The uses of the read group and then those of the write group. A descriptor named in both groups is checked once, in the
read group (R72); one named twice within a group is checked in each of its positions. -/
def groupUses (reads writes : List (DescUse × Desc)) : List (DescUse × Desc) :=
  (reads.map fun e => ((writes.filter fun w => w.2.addr = e.2.addr).foldl (fun u w => u.alsoWritten w.1) e.1, e.2))
    ++ writes.filter fun w => reads.all fun e => e.2.addr != w.2.addr

/-- Descriptors checked one at a time in their order; the first that fails decides (R72). -/
def checkDescs (env : DescEnv) (l : List (DescUse × Desc)) : Option (BitVec 16) :=
  firstFail (l.map fun e => checkDesc env e.1 e.2)

/-- The index by which an element is keyed and ordered: global for a global descriptor (R70). -/
def Desc.keyIndices (env : DescEnv) (d : Desc) : List Nat :=
  if d.kind then
    d.indices.map fun t =>
      linearIndex (t.mapIdx fun j i =>
        (if d.glob.axis.getD j 0xF = 0xF then 0 else env.coords.getD (d.glob.axis.getD j 0) 0) * d.extent j + i)
        d.glob.gext
  else List.range d.count

/-! ### Elements in memory -/

/-- Bit addresses of the elements in ascending linear index, after a translation of byte addresses (R183). -/
def Desc.bitAddrs (d : Desc) : List Nat :=
  let w := widthBits d.fmt
  d.offsets.map fun o => ((d.local_ : Int) * 8 + o * (w : Int)).toNat

/-- The codewords that hold elements. -/
def codewordsOf (w : Nat) (addrs : List Nat) : List Nat :=
  sortedSet (addrs.flatMap fun b => if b % 256 + w ≤ 256 then [b / 256] else [b / 256, b / 256 + 1])

/-- Elements read: their bits in order, and what the codewords that hold them gave. -/
structure ElemRead where
  vals     : List Nat
  poisoned : List Nat
  bad      : List Nat
  mem      : Mem
  events   : List MemEvent
deriving DecidableEq, Repr

/-- Elements of `w` bits read at bit addresses. Every codeword that holds one is decoded (R376, R380). -/
def Mem.readElems (k : MemKind) (m : Mem) (w : Nat) (addrs : List Nat) : ElemRead :=
  let cws := codewordsOf w addrs
  let lo := cws.headD 0
  let n := cws.getLastD 0 + 1 - lo
  match (m.suspects k lo n).filter fun c => cws.contains c with
  | [] => ⟨addrs.map fun b => m.bitsAt b w, [], [], m, []⟩
  | sus =>
    let r := m.readSuspects k sus
    let seen := m.withFixes r.fixes
    ⟨addrs.map fun b => seen.bitsAt b w, r.poisoned, r.bad, r.mem, r.events⟩

/-- The status a consumer faults with: an uncorrectable codeword of its own, else a poisoned one (R379, R380). -/
def ElemRead.status (r : ElemRead) : Option (BitVec 16 × Nat) :=
  match r.poisoned with
  | [] => none
  | c :: _ => if r.bad.contains c then some (stUncorrectable, c) else some (stPoisonConsumed, c)

/-- Elements laid into a patch in ascending linear index; a later element wins (R62). -/
def Patch.writeAll (w : Nat) : Patch → List (Nat × Nat) → Patch
  | p, [] => p
  | p, (b, v) :: t => Patch.writeAll w (p.write b w v) t

/-- Two inclusive ranges overlap. -/
def overlaps (a b : Nat × Nat) : Bool := a.1 ≤ b.2 && b.1 ≤ a.2

/-- R64: two footprints overlap and at least one of the instructions writes there. -/
def Prints.clash (a b : Prints) : Bool :=
  a.wr.any (fun x => b.rd.any (overlaps x) || b.wr.any (overlaps x))
    || b.wr.any (fun x => a.rd.any (overlaps x))
    || a.tilesW.any (fun t => b.tilesR.contains t || b.tilesW.contains t)
    || b.tilesW.any (fun t => a.tilesR.contains t)
    || a.regsW.any (fun t => b.regsR.contains t || b.regsW.contains t)
    || b.regsW.any (fun t => a.regsR.contains t)

/-- Two descriptors agree in BASE, FORMAT, extents and strides (R138). -/
def Desc.sameAs (a b : Desc) : Bool := a.base = b.base && a.fmt = b.fmt && a.ext == b.ext && a.stride == b.stride

/-! ### Copies (R65 to R67) -/

/-- Destination extents agree with the source's under the permutation. -/
def permExtents (src dst : Desc) (perm : List Nat) : Bool :=
  src.dims.all fun k => dst.extent k = src.extent (perm.getD k 0)

/-- π is a permutation of the dimensions 0 … RANK − 1 (R65). The entries of PERM above them are not looked at (DEDUCED, log entry 33). -/
def permValid (rank : Nat) (perm : List Nat) : Bool :=
  (List.range rank).all fun j => (List.range rank).any fun k => perm.getD k 0 = j

/-- The permutation fixes every dimension. -/
def permIdentity (rank : Nat) (perm : List Nat) : Bool := (List.range rank).all fun k => perm.getD k 0 = k

/-- The permutation swaps dimensions 0 and 1 and fixes the others. -/
def permTranspose (rank : Nat) (perm : List Nat) : Bool :=
  2 ≤ rank && perm.getD 0 0 = 1 && perm.getD 1 0 = 0 && (List.range rank).all fun k => k < 2 || perm.getD k 0 = k

/-- Source and destination footprints overlap. -/
def printsOverlap (src dst : Desc) : Bool := overlaps src.boardPrint dst.boardPrint

/-- Rows 11 and 12 of Table 3-4; `meets` says whether the translated footprints overlap (R183). -/
def checkCopy (meets : Bool) (src dst : Desc) (perm : List Nat) : Option (BitVec 16) :=
  let sameShape := src.ext = dst.ext && src.stride = dst.stride
  firstFail
    [ orElse (src.rank = dst.rank) stMalformed
    , orElse (permValid src.rank perm && permExtents src dst perm) stMalformed
    , orElse (src.fmt = dst.fmt) stFormat
    , if !meets then none
      else if permIdentity src.rank perm then orElse sameShape stCopyOverlap
      else orElse (permTranspose src.rank perm && src.base = dst.base && src.fmt = dst.fmt && src.rank = dst.rank
        && sameShape && src.extent 0 = src.extent 1 && (src.extent 0 : Int) ≤ src.strideOf 1) stCopyOverlap ]

/-- The source element offset of each destination element, in ascending linear index of the destination (R65). -/
def copyOffsets (src dst : Desc) (perm : List Nat) : List Int :=
  dst.indices.map fun t =>
    (t.mapIdx fun k (i : Nat) => src.strideOf (perm.getD k 0) * (i : Int)).foldl (· + ·) 0

end Sys2Proof.Machine
end

