-- ==== Sys2Proof/Machine/EngineOps.lean ====
section
/-! DEFINITION. What the five engines share: the environment of descriptor checks, an entry's descriptors, the issue of a
queue head by R76, and tokens (R75 to R77, R64, R92). -/

namespace Sys2Proof.Machine

/-! ### The chip and its flask -/

/-- A Runner port in service. -/
def PortState.inService : PortState → Bool
  | .admitted => true
  | .degraded => true
  | _ => false

/-- The Runner ports of the chip. -/
def State.rport (s : State) (p : Nat) : Port := s.runner.ports.getD p (Port.init p)

/-- The physical port in service for a logical port: itself, its pair's partner, or a spare (R272, R280). -/
def State.serving (s : State) (lp : Nat) : Option Nat :=
  (List.range 32).find? fun q => (s.rport q).state.inService && (s.rport q).standsFor.toNat = lp

/-- The board ports toward a slot are those of its place among the other slots (R261). -/
def State.boardPair (s : State) (slot : Nat) : Nat := if slot < s.slot then slot else slot - 1

/-- The board fence of R275. -/
def State.fence (s : State) (slot : Nat) : Bool :=
  let k := s.boardPair slot
  slot < 8 && slot != s.slot && ((s.serving (2 * k)).isSome || (s.serving (2 * k + 1)).isSome)

/-- The rank and the size of the chip's flask (R283). -/
def State.rank (s : State) : Nat := (s.runner.flask.map (·.rank)).getD 0
def State.flaskN (s : State) : Nat := (s.runner.flask.map (·.n)).getD 1

/-- A port entry of the join: MODE, PEER_PORT, PEER_RANK, PEER_CHIP. -/
def State.joinEntry (s : State) (lp : Nat) : Nat × Nat × Nat × Nat :=
  (s.runner.flask.bind fun f => f.ports[lp]?).getD (0, 0, 0, 0)

/-- The slot of a member on the chip's own board, none where it is on another (R284): the chip's own, that of a peer to which the join
names a live port, or, of a member that only relays reach, a free value (log entry 12). -/
def State.slotOfRank (s : State) (r : Nat) : Option Nat :=
  if r = s.rank then some s.slot
  else
    match (List.range 30).find? fun p => (s.joinEntry p).1 != 0 && (s.joinEntry p).2.2.1 = r with
    | some p =>
      let chip := (s.joinEntry p).2.2.2
      if chip / 8 = s.ident.chipId.toNat / 8 then some (chip % 8) else none
    | none =>
      let k := Config.memberSlot ((s.runner.flask.map (·.flaskId)).getD 0) r
      if k < 8 then some k else none

/-- R71: the flask is larger than one board, that is, it has more members than a board has slots, or one on another board. -/
def State.bigFlask (s : State) : Bool := 8 < s.flaskN || (List.range s.flaskN).any fun r => (s.slotOfRank r).isNone

/-- P_a of R283. -/
def axisPlace (sizes : List Nat) (a : Nat) : Nat := (sizes.take a).foldl (· * ·) 1

/-- The chip's coordinates on the mesh axes (R283). -/
def coordsOf (sizes : List Nat) (r : Nat) : List Nat :=
  (List.range 4).map fun a => r / axisPlace sizes a % max 1 (sizes.getD a 1)

/-- What the descriptor checks need of the chip for a pattern with these axis sizes. -/
def State.descEnv (s : State) (sizes : List Nat) : DescEnv where
  slot := s.slot
  mapped := s.mapped
  fence := s.fence
  axes := if s.runner.flask.isSome then sizes else [1, 1, 1, 1]
  coords := coordsOf sizes s.rank
  bigFlask := s.bigFlask
  rank := s.rank
  flaskN := s.flaskN
  slotOf := s.slotOfRank

/-! ### Queue entries -/

/-- A 64-byte line that ISSUE copied; zero where none was. -/
def QEntry.line (e : QEntry) (a : Nat) : BitVec 512 := ((e.lines.find? fun l => l.1 = a).map (·.2)).getD 0

/-- A descriptor of an entry by its scalar data address. -/
def QEntry.desc (e : QEntry) (a : Nat) : Desc := parseDesc a (e.line a) (e.line (a + 64))

/-- What an engine has at hand for an entry. -/
structure EngCtx where
  g        : Nat
  entry    : QEntry
  res      : ClusterRes
  env      : DescEnv
  deferred : Bool
  /-- the pattern, and its current map (R183) -/
  pat      : Pattern
  map      : BitVec 4096

/-- The record of an entry as a number. -/
def EngCtx.rec_ (x : EngCtx) : Nat := x.entry.record.toNat

/-- An entry's record is fixed and unchanged: the checks PATTERN_LOAD made are not made again (R179). -/
def EngCtx.fixedAll (x : EngCtx) (descs : List Nat) : Bool :=
  x.entry.fixed.contains x.entry.addr && descs.all fun a => x.entry.fixed.contains a

/-- Footprint entirely in the cluster's own cluster memory or under-store. -/
def inOwnWindow (env : DescEnv) (g : Nat) (d : Desc) : Bool :=
  let lo : Int := (windowBase + g * windowSize : Nat)
  d.baseSlot = env.slot && lo ≤ d.footprint.1 && d.footprint.2 < lo + (windowUsable : Nat)

/-- The format of a scale tensor, and every other format but the reserved code (R30). -/
def scaleFormats (f : Nat) : Bool := f = 0x8
def elementFormats (f : Nat) : Bool := f != 0x8 && f != 0xF

/-- A descriptor address of a record: a multiple of 64, low enough for its one or two lines (check 2 of the tables). -/
def goodDescAddr (kindBit : Nat → Bool) (a : Nat) : Bool :=
  a = 0 || (a % 64 = 0 && a ≤ (if kindBit a then 0xFF40 else 0xFF80))

/-- A tile is declared, and deferred exactly when the list names it (R114, R115, R158). -/
def tileAllowed (res : ClusterRes) (deferred : Bool) (t : Nat) : Bool :=
  t < res.nT && (decide (res.nT - res.nD ≤ t) == deferred)

/-- What an engine did at the issue of an instruction that completes later. -/
structure Done where
  summary   : List Word64
  bank      : Option (Bool × Bank)
  tiles     : Option (Patch × BitVec 64)
  cycles    : Nat
  permuting : Bool
  isUpdate  : Bool
  copy      : Option CopyState
  coll      : Option Nat

/-- An instruction that only computes. -/
def Done.plain (summary : List Word64) (cycles : Nat) : Done := ⟨summary, none, none, cycles, false, false, none, none⟩

/-- The outcome of performing an instruction: a fault with the address of its access, or what is in flight. -/
abbrev Performed := State × Except (BitVec 16 × Nat) Done

/-- What an engine knows of one of its instructions: the checks of its tables (those PATTERN_LOAD makes for a fixed
record, and those made at every issue), its footprints, its time for the gate, and what it does. -/
structure EngineOp where
  descs     : EngCtx → List Nat
  check     : EngCtx → Option (BitVec 16)
  late      : EngCtx → State → Option (BitVec 16)
  /-- the buffer table (R184), after every other check; PATTERN_LOAD makes it for a fixed record -/
  buffers   : EngCtx → Option (BitVec 16)
  prints    : EngCtx → State → Prints
  time      : EngCtx → State → Nat
  permuting : EngCtx → Bool
  perform   : EngCtx → State → Performed

/-! ### Tokens -/

/-- A token of a cluster. -/
def Cluster.token (c : Cluster) (t : Nat) : Bool := c.tokens.getLsbD t

/-- A token set or cleared. A change of a token restarts the cluster's clock (R334). -/
def Cluster.putToken (c : Cluster) (t : Nat) (b : Bool) : Cluster :=
  { c with
    tokens := if b then c.tokens ||| (1#256 <<< t) else c.tokens &&& ~~~(1#256 <<< t)
    asleep := false
    idleCycles := 0 }

/-- The wait tokens of an entry that are enabled, and whether each is consumed. -/
def QEntry.waits (e : QEntry) : List (Nat × Bool) := e.wait0.toList ++ e.wait1.toList

/-- The post tokens of an entry. -/
def QEntry.posts (e : QEntry) : List Nat := e.post0.toList ++ e.post1.toList

/-- The tokens an entry consumes. -/
def QEntry.consumes (e : QEntry) : List Nat := (e.waits.filter (·.2)).map (·.1)

/-- Condition 1 of R76. -/
def Cluster.tokensReady (c : Cluster) (e : QEntry) : Bool := e.waits.all fun w => c.token w.1

/-- Instructions of an engine in flight. -/
def Cluster.inFlight (c : Cluster) (e : Engine) : List Flight := c.flights.filter fun f => f.eng = e

/-- A COPY record whose permutation is not the identity (R65, R289). -/
def QEntry.permuting (q : QEntry) : Bool :=
  let v := q.record.toNat
  let rank := (q.desc (fieldOf v 32 16)).rank
  fieldOf v 0 8 = 1 && (List.range (min rank 6)).any fun k => fieldOf v (9 + 3 * k) 3 != k

/-- R296's conditions of capacity for a COLL: no instance of its COLL_ID, and fewer than 64 in all, in flight. -/
def State.collRoom (s : State) (q : QEntry) : Bool :=
  let v := q.record.toNat
  fieldOf v 0 8 != 2 || match s.run with
    | some r => r.colls.length < 64 && !r.colls.any fun i => i.collId = fieldOf v 64 16
    | none => false

/-- Condition 2 of R76: capacity by R73, one permuting copy at a time (R154), and R296. -/
def State.hasRoom (s : State) (g : Nat) (e : Engine) (q : QEntry) : Bool :=
  let fl := (s.cl g).inFlight e
  match e with
  | .ld => fl.length < 8 && !(q.permuting && fl.any (·.permuting)) && s.collRoom q
  | .st => fl.length < 8 && !(q.permuting && fl.any (·.permuting)) && s.collRoom q
  | _ => fl.isEmpty

/-- Condition 3 of R76: the issue gate (R336). -/
def Cluster.gateOpen (c : Cluster) (e : Engine) : Bool := e != .mx || decide (0 ≤ c.gate.credit)

/-- The head of a queue. -/
def Cluster.head (c : Cluster) (e : Engine) : Option QEntry := (c.queue e).head?

/-- A head that meets every condition of R76 now. -/
def State.headReady (s : State) (g : Nat) (e : Engine) : Bool :=
  let c := s.cl g
  match c.head e with
  | none => false
  | some q => c.tokensReady q && s.hasRoom g e q && c.gateOpen e

/-- Every engine. -/
def Engine.all : List Engine := [.ld, .st, .mx, .dr, .vx]

/-- The token a stalled WAITT would clear: the cluster's stall and the WAITT's bit 15. -/
def Cluster.waittConsumes (c : Cluster) : Option Nat :=
  match c.stall with
  | some (.token t) => if c.token t ∧ (c.imem.raw (c.pc.toNat + 1) 1).any (fun b => b.toNat.testBit 7) then some t else none
  | _ => none

/-- The engines, in ascending number, whose ready heads consume a token that another consumer of this cycle also clears:
another ready head, or a WAITT the core is stalled in (R76). Only clashes the head of engine e takes part in count. -/
def State.consumeClash (s : State) (g : Nat) (e : Engine) (q : QEntry) : List Engine :=
  let c := s.cl g
  let takes (e' : Engine) (t : Nat) : Bool := s.headReady g e' && ((c.head e').map fun h => h.consumes.contains t).getD false
  let ts := q.consumes.filter fun t => c.waittConsumes = some t || Engine.all.any fun e' => e' != e && takes e' t
  if ts.isEmpty then [] else Engine.all.filter fun e' => e' = e || ts.any (takes e')

/-- The cluster executes a pour and may issue: no fault has ended its attempt, or the cycle of the first one still lasts (R92). -/
def State.attemptRuns (s : State) (g : Nat) : Bool :=
  match s.run with
  | none => false
  | some r => (r.fault.isNone || s.closing) && !(s.cl g).unused && ((s.cl g).run = .running || (s.cl g).run = .halted)

/-- No fault has ended the running attempt. -/
def State.faultFree (s : State) : Bool := (s.run.map fun r => r.fault.isNone).getD false

/-- The pattern of the running RUN. -/
def State.runPattern (s : State) : Option Pattern := s.run.bind fun r => s.pattern r.handle

/-- The resource entry of a cluster in a pattern. -/
def Pattern.resOf (p : Pattern) (g : Nat) : ClusterRes := Tab.get ⟨0, 0, 0, 0, 0⟩ p.res g

/-! ### Translated addresses (R183) and the buffer table (R184) -/

/-- The current commit slot of a channel and its number (R245): the valid slot that follows the other valid one. -/
def State.curSlot (s : State) (c : Nat) : Option (Nat × CommitSlot) :=
  match Tab.get none s.ledger.slots (2 * c), Tab.get none s.ledger.slots (2 * c + 1) with
  | some x, some y => if x.epoch = y.epoch + 1 then some (0, x) else some (1, y)
  | some x, none => some (0, x)
  | none, some y => some (1, y)
  | none, none => none

/-- The record of a handle: its valid slot with the greater EPOCH. -/
def State.precOf (s : State) (h : Nat) : Option CommitSlot :=
  match Tab.get none s.ledger.precs (2 * (h - 1)), Tab.get none s.ledger.precs (2 * (h - 1) + 1) with
  | some x, some y => if x.epoch.toNat < y.epoch.toNat then some y else some x
  | some x, none => some x
  | none, y => y

/-- The epoch state of a loaded pattern (R245). -/
def State.patternSlot (s : State) (h : Nat) : Option CommitSlot :=
  match (s.pattern h).bind fun p => s.curSlot p.chan with
  | some (_, c) => if c.handle.toNat = h ∧ ¬c.removed then some c else s.precOf h
  | none => s.precOf h

/-- The current map of a loaded pattern. -/
def State.currentMap (s : State) (h : Nat) : BitVec 4096 :=
  let sel := ((s.patternSlot h).map (·.mapSel)).getD false
  Tab.get 0 s.ledger.maps (2 * (h - 1) + (if sel then 1 else 0))

/-- The buffer whose logical range holds an address. -/
def Pattern.bufferAt (p : Pattern) (a : Nat) : Option (Nat × BufEntry) :=
  (p.bufs.mapIdx fun i b => (i, b)).find? fun e => e.2.base ≤ a && a < e.2.base + e.2.length

/-- A logical address translated (R183): in a STATE buffer a read goes to the current copy, a write to the next. -/
def translateAddr (p : Pattern) (map : BitVec 4096) (write : Bool) (a : Nat) : Nat :=
  if hbmEnd ≤ a then a
  else
    match p.bufferAt a with
    | some (i, b) => if b.kind = 3 ∧ (map.getLsbD i != write) then a - b.base + b.copy1 else a
    | none => a

/-- The logical address of a translated one: copy 1 of a STATE buffer stands for the range of copy 0. -/
def untranslate (p : Pattern) (a : Nat) : Nat :=
  match p.bufs.find? fun b => b.kind = 3 && b.copy1 ≤ a && a < b.copy1 + b.length with
  | some b => a - b.copy1 + b.base
  | none => a

/-- What is left of ranges of first and last byte once a range is taken out of them. -/
def rangesWithout (lo hi : Nat) (l : List (Nat × Nat)) : List (Nat × Nat) :=
  l.flatMap fun r =>
    (if r.1 < lo then [(r.1, min r.2 (lo - 1))] else []) ++ (if hi < r.2 then [(max r.1 (hi + 1), r.2)] else [])

/-- The translated ranges of a byte range of the chip's own HBM (R183): what lies in the logical range of a STATE buffer that
the access moves, at its copy, and the rest where it is. -/
def transRanges (p : Pattern) (map : BitVec 4096) (write : Bool) (lo hi : Nat) : List (Nat × Nat) :=
  let moved := (p.bufs.mapIdx fun i b => (i, b)).filter fun e => e.2.kind = 3 && map.getLsbD e.1 != write
  (moved.filterMap fun e =>
      let l := max lo e.2.base
      let h := min hi (e.2.base + e.2.length - 1)
      if e.2.length != 0 && l ≤ h then some (l - e.2.base + e.2.copy1, h - e.2.base + e.2.copy1) else none)
    ++ moved.foldl (fun l e => if e.2.length = 0 then l else rangesWithout e.2.base (e.2.base + e.2.length - 1) l) [(lo, hi)]

/-- The footprint of a descriptor as ranges of board addresses, after translation on the chip's own HBM. -/
def transPrints (env : DescEnv) (p : Pattern) (map : BitVec 4096) (write : Bool) (d : Desc) : List (Nat × Nat) :=
  let (lo, hi) := d.boardPrint
  if d.baseSlot = env.slot ∧ d.local_ < hbmEnd then
    let base := env.slot * 2 ^ 45
    (transRanges p map write (lo % 2 ^ 45) (lo % 2 ^ 45 + (hi - lo))).map fun r => (base + r.1, base + r.2)
  else [(lo, hi)]

/-- The translated footprint of a descriptor that an entry reads or writes. -/
def EngCtx.prints (x : EngCtx) (write : Bool) (d : Desc) : List (Nat × Nat) := transPrints x.env x.pat x.map write d

/-- Two footprints of several ranges overlap. -/
def rangesOverlap (a b : List (Nat × Nat)) : Bool := a.any fun x => b.any (overlaps x)

/-- R184 for one descriptor. -/
def checkBuffer (env : DescEnv) (p : Pattern) (write accum : Bool) (d : Desc) : Option (BitVec 16) :=
  if d.baseSlot ≠ env.slot ∨ hbmEnd ≤ d.local_ then none
  else
    let fp := d.footprint
    match (p.bufs.mapIdx fun i b => (i, b)).find? (fun e =>
      (e.2.base : Int) ≤ fp.1 && fp.2 < ((e.2.base + e.2.length : Nat) : Int) && p.saveBuffer != some e.1) with
    | none => some stHbmExceeded
    | some (_, b) =>
      if write ∧ b.kind = 0 then some stVersioning
      else if ¬write ∧ b.kind = 1 then some stVersioning
      else if write ∧ accum ∧ b.kind = 3 then some stVersioning
      else none

/-- A cluster's context for an entry. -/
def State.engCtx (s : State) (p : Pattern) (g : Nat) (q : QEntry) (deferred : Bool) : EngCtx :=
  ⟨g, q, p.resOf g, s.descEnv p.sizes, deferred, p, (s.run.map fun r => s.currentMap r.handle).getD 0⟩

/-! ### Issue -/

/-- An item's guard latched if its token is set (R159). -/
def ArmedItem.latch (tokens : BitVec 256) (i : ArmedItem) : ArmedItem :=
  match i.guard with
  | some t => if tokens.getLsbD t then { i with latched := true } else i
  | none => i

/-- Guards latched by the tokens as they stand (R159). A consumer that clears a token in the cycle in which it is set does
not prevent the latch, so every clearing of a token latches first. -/
def Cluster.latchGuards (c : Cluster) : Cluster :=
  { c with lending := { c.lending with items := c.lending.items.map (ArmedItem.latch c.tokens) } }

/-- The head leaves its queue and its consumed tokens are cleared. -/
def Cluster.takeHead (c : Cluster) (e : Engine) (q : QEntry) : Cluster :=
  q.consumes.foldl (fun c t => c.putToken t false) (c.latchGuards.setQueue e (c.queue e).tail)

/-- An instruction put in flight. -/
def Cluster.launch (c : Cluster) (e : Engine) (q : QEntry) (deferred : Bool) (pr : Prints) (d : Done) : Cluster :=
  { c with
    issues := c.issues + 1
    flights := c.flights ++ [⟨c.issues, e, q, deferred, pr, d.summary, d.bank, d.tiles, c.cycle, d.cycles, d.permuting, d.isUpdate, d.copy, d.coll⟩]
    gate := if e = .mx then { c.gate with credit := c.gate.credit - 16 * (d.cycles : Int) } else c.gate
    asleep := false }

/-- Sampling of an issue (R400): every PERIOD-th issue of a selected engine is marked. -/
def Sampler.issue (sm : Sampler) (eng idx : Nat) : Sampler :=
  let v := sm.ctrl.toNat
  if v / 2 ^ 30 % 4 = 1 ∧ v.testBit (16 + eng) then
    if sm.seen + 1 < v % 2 ^ 16 then { sm with seen := sm.seen + 1 }
    else { sm with seen := 0, marked := sm.marked ++ [idx] }
  else sm

/-- A cluster's sampler changed. -/
def State.updSampler (s : State) (g : Nat) (f : Sampler → Sampler) : State :=
  { s with cnt := { s.cnt with regs := { s.cnt.regs with samp := Tab.upd Sampler.init s.cnt.regs.samp g f } } }

/-- An instruction that has passed its conditions runs its checks, the comparison of R64, and its effect. `take` is what its
issue does to the state: one that R64 stops does not issue. DESIGN CHOICE (log entry 80): a fixed descriptor that names the window of a
cluster unmapped since the load is not checked again, and the access is made: R12 and R17 name no check for it. -/
def startOp (op : EngineOp) (x : EngCtx) (eng : Engine) (take : State → State) (s : State) : State :=
  let pc := BitVec.ofNat 18 x.entry.pc
  let failing := if x.fixedAll (op.descs x) then op.late x s
    else firstFail [op.check x, op.late x s, op.buffers x]
  match failing with
  | some st => (take s).faultPour x.g eng.toNat st pc 0
  | none =>
    let pr := op.prints x s
    if (s.cl x.g).flights.any fun f => pr.clash f.prints then s.faultPour x.g eng.toNat stSlotCollision pc 0
    else
      match op.perform x (take s) with
      | (s, .error (st, a)) => s.faultPour x.g eng.toNat st pc a
      | (s, .ok d) =>
        let idx := (s.cl x.g).issues
        (s.updSampler x.g fun sm => sm.issue eng.toNat idx).updCl x.g
          fun c => c.launch eng x.entry x.deferred pr d

/-- The queue head of an engine issues (R76), if its record is the one the command names and every condition holds.
Otherwise the command does not befall and nothing changes. -/
def issueHead (g : Nat) (eng : Engine) (isOp : Nat → Bool) (op : EngineOp) (s : State) : State :=
  match s.runPattern, (s.cl g).head eng with
  | some p, some q =>
    if s.attemptRuns g && isOp q.record.toNat && s.headReady g eng then
      match s.consumeClash g eng q with
      | [] => startOp op (s.engCtx p g q false) eng (fun s => s.updCl g fun c => c.takeHead eng q) s
      | e :: _ => s.faultPour g e.toNat stSlotCollision (BitVec.ofNat 18 ((((s.cl g).head e).map (·.pc)).getD 0)) 0
    else s
  | _, _ => s

/-- A record of an OPC, or one whose OPC its engine does not define: the command of any of the engine's instructions then
finds the fault of check 1. -/
def opcIs (known : List Nat) (opc : Nat) (rec_ : Nat) : Bool := rec_ % 256 = opc || !known.contains (rec_ % 256)

/-- Operands of a descriptor read by a consumer: its elements' bits, or a fault with the board address of the codeword
(R379, R380). -/
def consume (s : State) (addrs : List Nat) (w : Nat) : State × Except (BitVec 16 × Nat) (List Nat) :=
  let r := s.mem.readElems .chip w addrs
  let s := { s with mem := r.mem }.noteAll s.runPour r.events
  match r.status with
  | some (st, c) => (s, .error (st, s.boardAddr (32 * c)))
  | none => (s, .ok r.vals)

/-- A patch of an instruction written to the chip-local space (R382). -/
def State.applyPatch (s : State) (p : Patch) : State :=
  let (m, ev) := s.mem.apply .chip p
  { s with mem := m }.noteAll s.runPour ev

/-- Words of a cluster's Crucible read by a consumer, by bit address. -/
def consumeTiles (s : State) (g : Nat) (addrs : List Nat) : State × Except (BitVec 16 × Nat) (List Nat) :=
  let r := (s.cl g).crucible.readElems (.priv g) 32 addrs
  let s := (s.updCl g fun c => { c with crucible := r.mem }).noteAll s.runPour r.events
  match r.status with
  | some (st, _) => (s, .error (st, 0))
  | none => (s, .ok r.vals)

/-- A patch written to a cluster's Crucible. -/
def State.applyTiles (s : State) (g : Nat) (p : Patch) : State :=
  let (m, ev) := (s.cl g).crucible.apply (.priv g) p
  (s.updCl g fun c => { c with crucible := m }).noteAll s.runPour ev

/-- The bit address of word e of tile t. -/
def tileBit (t e : Nat) : Nat := 8 * (65536 * t + 4 * e)

/-- A count of a summary, which saturates at 2^64 − 1 (R39). -/
def satWord (n : Nat) : Word64 := BitVec.ofNat 64 (min n (2 ^ 64 - 1))

end Sys2Proof.Machine
end

