-- ==== Sys2Proof/Machine/Flags.lean ====
section
/-! DEFINITION. The counts of narrowing conversions and of non-finite results (R39), and the write of one element with
its conversion or accumulation (R36 to R38, R63, R121). -/

namespace Sys2Proof.Machine

/-- What an instruction counts over its elements: limited results, NaNs written as zero, infinities and NaNs written. -/
structure Counts where
  saturated   : Nat
  nanNarrowed : Nat
  nonfinite   : Nat
deriving DecidableEq, Repr

/-- Nothing counted. -/
def Counts.zero : Counts := ⟨0, 0, 0⟩

/-- Counts added. -/
def Counts.add (a b : Counts) : Counts :=
  ⟨a.saturated + b.saturated, a.nanNarrowed + b.nanNarrowed, a.nonfinite + b.nonfinite⟩

/-- One element as it is stored, and what it counts. -/
structure Stored where
  bits   : Nat
  counts : Counts
deriving DecidableEq, Repr

/-- The element of a conversion, counted (R39). -/
def storedOf (fmt : Nat) (c : Conv) : Stored :=
  ⟨c.bits, ⟨if c.saturated then 1 else 0, if c.nanNarrowed then 1 else 0, if isNonfinite fmt c.bits then 1 else 0⟩⟩

/-- A value written without accumulation (R36 to R38). -/
def storePlain (fmt : Nat) (mode : RMode) (key : SrKey) (v : Num) : Stored := storedOf fmt (narrowTo fmt mode key v)

/-- A value added to a stored FP32 element; an integer is first converted to FP32 (R63). DESIGN CHOICE (log entry 72): R63 does
not say how an FP64 value arrives; it is first rounded to FP32, to nearest even and uncounted, and then added. -/
def accumFp32 (mode : RMode) (key : SrKey) (old : Nat) (isInt : Bool) (v : Num) : Nat :=
  let x := (narrowTo 0x0 (if isInt then mode else .rne) key v).bits
  fadd (roundRne 0x0 (decodeNum 0x0 old)) x

/-- R63: a value added to the stored element. -/
def storeAccum (fmt : Nat) (mode : RMode) (key : SrKey) (old : Nat) (isInt : Bool) (v : Num) : Stored :=
  match fmt with
  | 0x0 => storedOf 0x0 ⟨accumFp32 mode key old isInt v, false, false⟩
  | 0x1 =>
    let wide := (narrowTo 0x0 .rne .none (decodeNum 0x1 old)).bits
    storedOf 0x1 (narrowTo 0x1 mode key (decodeNum 0x0 (accumFp32 mode key wide isInt v)))
  | _ =>
    let c := narrowTo 0x9 mode key v
    let (i, sat) := saturate 32 (signedOf 32 old + signedOf 32 c.bits)
    ⟨bitsOfInt 32 i, ⟨(if c.saturated then 1 else 0) + (if sat then 1 else 0), if c.nanNarrowed then 1 else 0, 0⟩⟩

/-- One element written through a destination. -/
def storeElem (fmt : Nat) (accum : Bool) (mode : RMode) (key : SrKey) (old : Nat) (isInt : Bool) (v : Num) : Stored :=
  if accum then storeAccum fmt mode key old isInt v else storePlain fmt mode key v

/-- A value to be written: its bit address, its key, and the value. -/
structure ToStore where
  bit   : Nat
  key   : SrKey
  isInt : Bool
  val   : Num
deriving DecidableEq, Repr

/-- Values written in ascending linear index through a destination into a patch over a memory (R62, R63). -/
def storeAll (fmt : Nat) (accum : Bool) (mode : RMode) (m : Mem) : Patch → Counts → List ToStore → Patch × Counts
  | p, k, [] => (p, k)
  | p, k, t :: ts =>
    let w := widthBits fmt
    let r := storeElem fmt accum mode t.key (if accum then p.bitsOver m t.bit w else 0) t.isInt t.val
    storeAll fmt accum mode m (p.write t.bit w r.bits) (k.add r.counts) ts

/-- Blocks of 32 values of a list. -/
def blocks32 {α : Type} : Nat → List α → List (List α)
  | 0, _ => []
  | _, [] => []
  | n + 1, l => l.take 32 :: blocks32 n (l.drop 32)

/-- An MX operand written (R52): blocks of 32 elements in order, each element at its bit address, and the blocks' scales. -/
def storeMx (fmt : Nat) (mode : RMode) : Patch → Counts → List (List ToStore) → Patch × Counts × List Nat
  | p, k, [] => (p, k, [])
  | p, k, blk :: rest =>
    let (sc, cs) := mxBlock fmt mode (blk.map fun t => (t.val, t.key))
    let p := Patch.writeAll (widthBits fmt) p ((blk.zip cs).map fun e => (e.1.bit, e.2.bits))
    let k := cs.foldl (fun k c => k.add (storedOf fmt c).counts) k
    let (p, k, scs) := storeMx fmt mode p k rest
    (p, k, sc :: scs)

/-- Scales of blocks, given row by row, written in ascending linear index of their descriptor (R62, R124); a block without a
scale writes none. `nb` blocks make a row, and with `order` the rows are the descriptor's dimension 0. -/
def writeScales (bits : Array Nat) (rows nb : Nat) (order : Bool) (scs : Array (Option Nat)) (p : Patch) : Patch :=
  (List.range scs.size).foldl (fun p i =>
    match scs.getD (if order then i % max 1 rows * nb + i / max 1 rows else i) none with
    | some v => p.write (bits.getD i 0) 8 v
    | none => p) p

/-- The destination's own codewords, read first where the write accumulates: it is a consumer of what it adds to (R382). -/
def accumBase (s : State) (accum : Bool) (w : Nat) (addrs : List Nat) : State × Except (BitVec 16 × Nat) Patch :=
  if accum then
    match consume s addrs w with
    | (s, .error e) => (s, .error e)
    | (s, .ok vals) => (s, .ok (Patch.writeAll w [] (addrs.zip vals)))
  else (s, .ok [])

/-- The rounding mode a record's field names; 0b11 is refused by the checks. -/
def modeOf (f : Nat) : RMode := (rmodeOf f).getD .rne

end Sys2Proof.Machine
end

