-- ==== Sys2Proof/Machine/Wire.lean ====
section
/-! DEFINITION. Frames on their lanes: codewords, stripes, keystreams and tags (R263 to R265, R314, R315), the floor link's lanes (R318),
and the margin of a lane (R320). -/

namespace Sys2Proof.Machine

/-! ### Keystreams (R314) -/

/-- One step of the PRBS31: its bit and the next state. -/
def prbsStep (s : Nat) : Nat × Nat :=
  let b := (s / 2 ^ 30 ^^^ s / 2 ^ 27) % 2
  (b, (2 * s + b) % 2 ^ 31)

/-- `n` bits of a keystream as a number, the first lowest, and the state after them. -/
def keyBits : Nat → Nat → Nat × Nat
  | 0, s => (0, s)
  | n + 1, s =>
    let (b, s) := prbsStep s
    let (r, s) := keyBits n s
    (b + 2 * r, s)

/-- `n` bytes of the keystream of a seed: bit k of it is bit k mod 8 of byte k div 8. -/
def keystream : Nat → Nat → List Byte
  | 0, _ => []
  | n + 1, s =>
    let (b, s) := keyBits 8 s
    BitVec.ofNat 8 b :: keystream n s

/-- Bytes scrambled, or descrambled, with the keystream of a seed. -/
def scramble (seed : Nat) (bs : List Byte) : List Byte := List.zipWith (· ^^^ ·) bs (keystream bs.length seed)

/-- The seed of Runner lane λi, and of floor-link lane ℓ. -/
def runnerSeed (i : Nat) : Nat := 0x2A000000 + 0x00010101 * (i + 1)
def floorSeed (l : Nat) : Nat := 0x35000001 + l

/-! ### Codewords of a frame (R263, R264, R374) -/

/-- A data symbol taken into the remainder p by g(x), p₀ first. -/
def remStep (d : Nat) (r : Nat × Nat × Nat × Nat) : Nat × Nat × Nat × Nat :=
  let f := d ^^^ r.2.2.2
  (gfMul 0x40 f, r.1 ^^^ gfMul 0x78 f, r.2.1 ^^^ gfMul 0x36 f, r.2.2.1 ^^^ gfMul 0x0F f)

/-- The check symbols of 32 data bytes. -/
def checkBytes (data : List Byte) : List Byte :=
  let r := data.foldr (fun d r => remStep d.toNat r) (0, 0, 0, 0)
  [r.1, r.2.1, r.2.2.1, r.2.2.2].map (BitVec.ofNat 8)

/-- The 36 symbols of a codeword, its check symbols changed as its class asks: none for a clean word, M for a poisoned one (R375). -/
def codewordBytes (data : List Byte) (mark : BitVec 32) : List Byte :=
  data ++ List.zipWith (· ^^^ ·) (checkBytes data) (leBytes 4 mark.toNat)

/-- The header of Table 14-2. -/
def frameHeader (f : Frame) : List Byte :=
  leBytes 32 (f.flaskId.toNat + f.pace.toNat * 2 ^ 16 + f.type.toNat * 2 ^ 24 + f.count * 2 ^ 32 + f.stream.toNat * 2 ^ 38
    + f.seq.toNat * 2 ^ 64 + f.ackSeq.toNat * 2 ^ 112 + (if f.nak then 2 ^ 160 else 0) + f.arg.toNat * 2 ^ 192)

/-- Payload codeword k, 1 to 39: the data as it is stored, and zeros beyond COUNT. -/
def frameCodeword (f : Frame) (k : Nat) : List Byte :=
  if k ≤ f.count then codewordBytes ((f.payload.drop (32 * (k - 1))).take 32) (if f.poison.contains k then poisonMark else 0)
  else List.replicate 36 0

/-- The 1,440 bytes of a frame. -/
def frameBytes (f : Frame) : List Byte :=
  codewordBytes (frameHeader f) 0 ++ (List.range 39).flatMap fun k => frameCodeword f (k + 1)

/-! ### Lanes of a port (R263, R314, R315) -/

/-- Lanes of a mask. -/
def lanesOf (m : BitVec 16) : List Nat := (List.range 16).filter fun i => m.getLsbD i

/-- The lane of a byte of a frame, striped round-robin over the lanes in service. -/
def stripeLane (lanes : BitVec 16) (b : Nat) : Nat :=
  let ls := lanesOf lanes
  (ls[b % ls.length]?).getD 0

/-- Bytes that a frame occupies of each lane. -/
def laneLength (lanes : BitVec 16) : Nat := let n := (lanesOf lanes).length; (1440 + n - 1) / n

/-- What a lane carries of a frame: its bytes, or zeros on a lane out of service, under the lane's keystream. -/
def LineFrame.onLane (x : LineFrame) (i : Nat) : List Byte :=
  let ls := lanesOf x.lanes
  let bs := frameBytes x.frame
  let own := (List.range (laneLength x.lanes)).map fun k =>
    match ls.idxOf? i with
    | some r => (bs[k * ls.length + r]?).getD 0
    | none => 0
  scramble (runnerSeed i) own

/-- Byte k of the lane of rank r is a byte of a payload codeword beyond COUNT. -/
def zeroByte (lanes : BitVec 16) (count r k : Nat) : Bool :=
  let b := k * (lanesOf lanes).length + r
  decide (36 * (count + 1) ≤ b) && decide (b < 1440)

/-- Zero bytes of a lane that do not descramble to zero under the key of carrier `key`. -/
def wrongBytes (lanes : BitVec 16) (count lane key : Nat) (raw : List Byte) : Nat :=
  let r := ((lanesOf lanes).idxOf? lane).getD 0
  ((scramble (runnerSeed key) raw).mapIdx fun k b => zeroByte lanes count r k && b != 0).countP id

/-- The bytes of a lane that did not come as the frame has them. -/
def rawLane (f : Frame) (lane : Nat) : Option (List Byte) := (f.raw.find? fun x => x.1 = lane).map (·.2)

/-- A frame with zero payload codewords checks its lanes. -/
def checksTags (f : Frame) : Bool := decide (f.count < 39)

/-- A lane fails the tag check in a frame: more than 2 of its zero bytes descramble to non-zero. -/
def tagFails (f : Frame) (lanes : BitVec 16) (lane : Nat) : Bool :=
  checksTags f && ((rawLane f lane).map fun bs => decide (2 < wrongBytes lanes f.count lane lane bs)).getD false

/-- A lane descrambles under the key of carrier `key`. -/
def onKey (f : Frame) (lanes : BitVec 16) (lane key : Nat) : Bool :=
  checksTags f && ((rawLane f lane).map fun bs => decide (wrongBytes lanes f.count lane key bs ≤ 2)).getD false

/-- A lane descrambles under the key of a neighbouring carrier. -/
def onNeighbour (f : Frame) (lanes : BitVec 16) (lane : Nat) : Bool :=
  (decide (1 ≤ lane) && onKey f lanes lane (lane - 1)) || (decide (lane < 15) && onKey f lanes lane (lane + 1))

/-- The lanes of the symbols corrected in a frame (R315). -/
def fixedLanes (f : Frame) (lanes : BitVec 16) : List Nat := f.fixed.map fun x => stripeLane lanes (36 * x.1 + x.2)

/-! ### Lanes of the floor link (R314, R318) -/

/-- The lane of stripe index k of a slot. -/
def stripeFloor (k : Nat) : Nat := let m := k % 400; 16 * (m % 25) + m / 25

/-- The lane of symbol j of codeword w in a slot. -/
def floorLane (w j : Nat) : Nat := stripeFloor (36 * w + j)

/-- The nine symbols that a lane carries in a slot, by codeword and symbol, in ascending stripe index. -/
def floorSymbols (l : Nat) : List (Nat × Nat) :=
  (List.range 9).map fun i => let k := 25 * (l % 16) + l / 16 + 400 * i; (k / 36, k % 36)

/-- What the transmitting die sends on a lane in a slot of codewords of 36 symbols, under the lane's keystream: its symbols, or on a lane
out of service zeros, which the keystream makes the lane's tag (R314, R319). -/
def floorOnLane (out : BitVec 400) (slot : List (List Byte)) (l : Nat) : List Byte :=
  scramble (floorSeed l) ((floorSymbols l).map fun x => if out.getLsbD l then 0 else ((slot.getD x.1 [])[x.2]?).getD 0)

/-- A codeword of a slot that loses more than one symbol with the lanes out. -/
def floorDamaged (out : BitVec 400) (w : Nat) : Bool :=
  decide (2 ≤ ((List.range 36).filter fun j => out.getLsbD (floorLane w j)).length)

/-- The tag of a floor-link lane descrambles under the key of lane `key`: at most 2 of its bytes are not zero. -/
def floorOnKey (key : Nat) (tag : List Byte) : Bool := decide ((scramble (floorSeed key) tag).countP (· ≠ 0) ≤ 2)

/-- The tag of a lane descrambles under the key of a neighbouring carrier of its waveguide, and not under its own. -/
def floorMislocked (l : Nat) (tag : List Byte) : Bool :=
  !floorOnKey l tag && ((decide (1 ≤ l % 16) && floorOnKey (l - 1) tag) || (decide (l % 16 < 15) && floorOnKey (l + 1) tag))

/-! ### The margin of a lane (R320) -/

/-- The number of decimal digits after the first of a number, at most `fuel`. -/
def logTen : Nat → Nat → Nat
  | 0, _ => 0
  | fuel + 1, v => if v < 10 then 0 else 1 + logTen fuel (v / 10)

/-- 10·log10(P0 ÷ P1) in units of 0.01 dB, rounded down, as WORST holds it (DESIGN CHOICE, log entry 79). -/
def attenuation (p0 p1 : Nat) : Nat := if p1 = 0 then 4095 else logTen 4095 (p0 ^ 1000 / p1 ^ 1000)

/-- The lane margin: the smaller of the two sides. -/
def laneMargin (c : LaneScan) : Nat := min (attenuation c.p0 c.low.2) (attenuation c.p0 c.high.2)

/-- A lane passes: every threshold has an interval, and the margin is at least 1.5 dB. -/
def lanePasses (c : LaneScan) : Bool := c.eyes.all Option.isSome && decide (150 ≤ laneMargin c)

/-- Where a threshold is set: at the centre of its interval. -/
def eyeCentre (e : Option (Nat × Nat)) : Nat := (e.map fun x => (x.1 + x.2) / 2).getD 0

/-- The lanes of a direction that pass. -/
def passMask (rx : List LaneScan) : BitVec 16 :=
  BitVec.ofNat 16 ((rx.mapIdx fun i c => if lanePasses c then 2 ^ i else 0).foldl (· + ·) 0)

/-- The lanes of a floor-link direction that do not pass. -/
def failMask (scans : List LaneScan) : BitVec 400 :=
  (List.range 400).foldl (fun m i => if ((scans[i]?).map lanePasses).getD false then m else m ||| (1#400 <<< i)) 0

/-- The smallest margin of a lane that passes; 0 where none does. -/
def worstMargin (rx : List LaneScan) : BitVec 12 :=
  let ms := (rx.filter lanePasses).map laneMargin
  BitVec.ofNat 12 (if ms.isEmpty then 0 else ms.foldl min 4095)

/-- The thresholds as the scans set them. -/
def thresholdsOf (rx : List LaneScan) : Tab Nat :=
  (rx.flatMap fun c => c.eyes.map eyeCentre).mapIdx (fun i v => (i, v)) |>.foldl (fun t e => Tab.put 0 t e.1 e.2) []

end Sys2Proof.Machine
end

