-- ==== Sys2Proof/Machine/RunnerOps.lean ====
section
/-! DEFINITION. Frames that leave a Runner port: numbering, the replay buffer, and routes (R263 to R266, R277, R287). -/

namespace Sys2Proof.Machine

/-- A port changed. -/
def State.updRport (s : State) (p : Nat) (f : Port → Port) : State :=
  { s with runner := { s.runner with ports := s.runner.ports.modify p f } }

/-- The optics of port p. -/
def State.lport (s : State) (p : Nat) : PortLight := s.light.ports.getD p PortLight.init

/-- The optics of port p changed. -/
def State.updLight (s : State) (p : Nat) (f : PortLight → PortLight) : State :=
  { s with light := { s.light with ports := s.light.ports.modify p f } }

/-- The counters that a port's traffic moves: those of the logical port it serves (R272). -/
def State.unitOf (s : State) (p : Nat) : Nat := (s.rport p).standsFor.toNat

/-- The flask the chip is in; 0 outside one. -/
def State.flaskId (s : State) : BitVec 16 := (s.runner.flask.map (·.flaskId)).getD 0

/-- The PACE of the frames the chip sends: its own limit, never an adopted one (R303). -/
def State.pace (s : State) : Nat := min s.power.lCap s.power.lTherm

/-- A frame of a type, before the port numbers it. -/
def rawFrame (type count : Nat) (stream : Nat) (arg : BitVec 64) (payload : List Byte) (poison : List Nat) : Frame where
  flaskId := 0
  pace := 0
  type := BitVec.ofNat 4 type
  count := count
  stream := BitVec.ofNat 7 stream
  seq := 0
  ackSeq := 0
  nak := false
  arg := arg
  payload := payload
  poison := poison
  fixed := []
  raw := []

/-- A frame as it leaves a port: FLASK_ID, PACE, SEQ, ACK_SEQ and NAK (Table 14-2). A frame that waits to be relayed
withholds its acknowledgement (R287). -/
def State.stamp (s : State) (p : Nat) (f : Frame) : Frame :=
  let o := s.rport p
  { f with
    flaskId := s.flaskId
    pace := BitVec.ofNat 8 s.pace
    seq := o.txSeq
    ackSeq := (o.relays.head?.map (·.seq)).getD o.rxSeq - 1
    nak := o.nakOut }

/-- A frame counted at its first send (Table 20-2). -/
def State.countTx (s : State) (p : Nat) (f : Frame) : State :=
  let u := s.unitOf p
  let s := s.count (ctrRunner u 0) 1
  if 1 ≤ f.type.toNat ∧ f.type.toNat ≤ 4 then
    (s.count (ctrRunner u 2) (32 * f.count)).bwCount u false (32 * f.count)
  else s

/-- A frame leaves a port over a set of lanes. -/
def State.putLine (s : State) (p : Nat) (lanes : BitVec 16) (f : Frame) : State :=
  s.updRport p fun o => { o with
    sent := o.sent ++ [⟨lanes, f⟩]
    sinceIdle := if f.type = 0 then 0 else o.sinceIdle + 1 }

/-- A frame numbered and sent by a port; it enters the replay buffer, which holds 512 frames. Only idle frames are sent while it is full
(R266). -/
def State.emitOne (s : State) (p : Nat) (f : Frame) : State :=
  let f := s.stamp p f
  let s := s.updRport p fun o => { o with
    txSeq := o.txSeq + 1
    replay := if o.replay.length < 512 then o.replay ++ [⟨o.txSeq, f⟩] else o.replay }
  (s.putLine p (s.lport p).txLanes f).countTx p f

/-- An idle frame, which a port sends while it has nothing else to send (R264). -/
def State.emitIdle (s : State) (p : Nat) : State := s.emitOne p (rawFrame 0 0 0 0 [] [])

/-- A busy port's idle frame: one in every 4,096 frames is one, a resend of the whole replay buffer included (R315, DESIGN CHOICE,
log entry 79). -/
def State.keepTag (s : State) (p : Nat) : State := if 3583 ≤ (s.rport p).sinceIdle then s.emitIdle p else s

/-- A frame sent by a port. -/
def State.emit (s : State) (p : Nat) (f : Frame) : State := (s.emitOne p f).keepTag p

/-- Frames that waited are sent while the replay buffer has room, at most `n` of them. -/
def State.pumpTx : Nat → Nat → State → State
  | 0, _, s => s
  | n + 1, p, s =>
    let o := s.rport p
    match o.txQ with
    | [] => s
    | f :: t =>
      if o.replay.length < 512 then State.pumpTx n p ((s.updRport p fun o => { o with txQ := t }).emit p f) else s

/-- A frame handed to a physical port. -/
def State.xmit (s : State) (p : Nat) (f : Frame) : State :=
  (s.updRport p fun o => { o with txQ := o.txQ ++ [f] }).pumpTx ((s.rport p).txQ.length + 1) p

/-- The physical port of a pair that carries a frame meant for its odd or even member: the other while that one is out of
service and no spare stands in (R277, R287). -/
def State.pairPort (s : State) (even : Nat) (odd : Bool) : Option Nat :=
  let want := if odd then even + 1 else even
  let other := if odd then even else even + 1
  (s.serving want).orElse fun _ => s.serving other

/-- The route entry of a rank: the first, in table order, that covers it. -/
def Pattern.routeOf (p : Pattern) (d : Nat) : Option RouteEntry := p.routes.find? fun r => r.lo ≤ d && d ≤ r.hi

/-- The physical port a frame for rank d leaves on (R287): with PAIR, TYPE 1 frames of odd INDEX take the odd port. -/
def State.routePort (s : State) (p : Pattern) (d : Nat) (type index : Nat) : Option Nat :=
  match p.routeOf d with
  | none => none
  | some r => if r.pair then s.pairPort r.port (type = 1 && index % 2 = 1) else s.serving r.port

/-- The stream engine of a logical port in a pattern (R285). -/
def Pattern.engineOf (p : Pattern) (lp : Nat) : Option Nat :=
  (p.engines.find? fun e => e.2 = some lp).map (·.1)

/-- The physical port of a board access to a slot, by bit 10 of the chip-local address (R277). -/
def State.boardPort (s : State) (slot addr : Nat) : Option Nat := s.pairPort (2 * s.boardPair slot) (addr.testBit 10)

/-- ARG of a board frame (R276). -/
def boardArg (tag : BitVec 16) (addr : Nat) : BitVec 64 := BitVec.ofNat 64 (tag.toNat * 2 ^ 48 + addr % 2 ^ 45)

end Sys2Proof.Machine
end

