-- ==== Sys2Proof/Machine/Ldst.lean ====
section
/-! DEFINITION. The load and store engines: the record, slot tables and their ownership, and COPY (R88 to R91, R289 to
R291, R65 to R67). -/

namespace Sys2Proof.Machine

/-- The LD and ST command record (Table 15-3). -/
structure LsRec where
  reserved : Nat
  collId   : Nat
  dst      : Nat
  src      : Nat
  seedX    : Nat
  perm     : Nat
  opc      : Nat
deriving DecidableEq, Repr

/-- The record read from its 512 bits. -/
def parseLs (v : Nat) : LsRec where
  reserved := fieldOf v 80 432 + fieldOf v 8 1
  collId := fieldOf v 64 16
  dst := fieldOf v 48 16
  src := fieldOf v 32 16
  seedX := fieldOf v 27 5
  perm := fieldOf v 9 18
  opc := fieldOf v 0 8

/-- π as a list. -/
def LsRec.pi (r : LsRec) : List Nat := (List.range 6).map fun k => fieldOf r.perm (3 * k) 3

/-- Descriptors the record names, the source first. -/
def LsRec.descs (r : LsRec) : List Nat := [r.src, r.dst].filter (· != 0)

/-- Formats a move carries (R31, R293): all but the reserved code. -/
def moveFormats (f : Nat) : Bool := f != 0xF

/-! ### Slot tables (R88 to R91) -/

/-- The requesters of R89. -/
inductive Requester where
  | cluster (g : Nat) (st : Bool)
  | stream (e : Nat)
deriving DecidableEq, Repr

/-- The owner word of a requester (Table 4-6). -/
def Requester.word : Requester → Nat
  | .cluster g st => 2 ^ 14 + (if st then 128 else 0) + g
  | .stream e => 2 ^ 15 + e

/-- A 16-bit word of a table's bytes; an absent table is all idle. -/
def tableWord (bs : List Byte) (i : Nat) : Nat := leNat ((bs.drop (2 * i)).take 2)

/-- The owner words of a pseudo-channel, phase by phase. -/
def Pattern.hbmWords (p : Pattern) (a : Nat) : List Nat :=
  let base := 64 * (64 * (a / 2 ^ 37) + a / 1024 % 64)
  let bs := (p.hbm.drop (2 * base)).take 128
  (List.range 64).map (tableWord bs)

/-- The owner words of a floor-link direction. -/
def Pattern.floorWords (p : Pattern) (dir : Nat) : List Nat := (List.range 64).map (tableWord (Tab.get [] p.floor dir))

/-- The die of a chip-local address: its stack's or its cluster's. -/
def dieOf (a : Nat) : Nat := if a < hbmEnd then a / 2 ^ 39 else (a - windowBase) / windowSize / 64

/-- The direction of the floor link in which an access's data travels, if it crosses (R89). -/
def floorDir (die : Nat) (write : Bool) (a : Nat) : Option Nat :=
  if dieOf a = die then none else some (if write then die else dieOf a)

/-- An access has an owned slot and phase of the kinds R89 requires; otherwise the SOURCE of the fault. DESIGN CHOICE (log entry
72): an access that owns neither names the table that its data meets first, the HBM table for a read and the floor-link table for
a write; a copy's access that the mesh table lacks has the address it reads. -/
def unowned (p : Pattern) (q : Requester) (die : Nat) (write : Bool) (a : Nat) : Option Nat :=
  let floor := match floorDir die write a with
    | none => false
    | some d => !(p.floorWords d).contains q.word
  let hbm := a < hbmEnd && !(p.hbmWords a).contains q.word
  if write then (if floor then some srcFloor else if hbm then some srcHbm else none)
  else if hbm then some srcHbm else if floor then some srcFloor else none

/-- A codeword that an access of data carries: over the mesh of the die where it meets a cluster's window (R341), and over the floor link,
counted in its direction (R89, Table 20-2). -/
def State.floorCarry (s : State) (die : Nat) (write : Bool) (a : Nat) : State :=
  let s := if a < hbmEnd then s else s.onFabric (dieOf a) 1
  match floorDir die write a with
  | none => s
  | some d => s.count (ctrFloor d 0) 1

/-- An access starts at once: it touches neither a stack nor the floor link. -/
def accessFree (die : Nat) (a : Nat) : Bool := hbmEnd ≤ a && dieOf a = die

/-- An access may start in a phase or slot (R89): its stack's phase, or the floor-link slot of a cluster window. -/
def accessIn (p : Pattern) (q : Requester) (die : Nat) (write : Bool) (a phase : Nat) : Bool :=
  accessFree die a ||
    if a < hbmEnd then (p.hbmWords a).getD phase 0 = q.word
    else match floorDir die write a with
      | none => true
      | some d => (p.floorWords d).getD phase 0 = q.word

/-- The cluster window of an address. -/
def windowOf (a : Nat) : Option Nat := if hbmEnd ≤ a then some ((a - windowBase) / windowSize) else none

/-- R88: data from the memory of cluster b to the memory of another cluster c of its die needs a mesh slot in which b's
entry names c. -/
def meshMissing (p : Pattern) (src dst : Nat) : Bool :=
  match windowOf src, windowOf dst with
  | some b, some c =>
    b != c && b / 64 = c / 64 &&
      let t := (Tab.get [] p.mesh (b / 64)).toArray
      !(List.range 256).any fun s => (t.getD (64 * s + b % 64) 0).toNat = 128 + c % 64
  | _, _ => false

/-! ### COPY: checks and footprints -/

/-- Check 1 of R290. -/
def copyCheck1 (r : LsRec) : Bool :=
  r.opc = 1 && r.reserved = 0 && r.collId = 0 && r.seedX = 0 && r.src != 0 && r.dst != 0 && r.pi.all (· ≤ 5)

/-- The checks of R290. -/
def copyCheck (x : EngCtx) : Option (BitVec 16) :=
  let r := parseLs x.rec_
  let src := x.entry.desc r.src
  let dst := x.entry.desc r.dst
  firstFail
    [ orElse (copyCheck1 r) stMalformed
    , orElse (r.descs.all fun a => goodDescAddr (fun a => (x.entry.desc a).kind) a) stMalformed
    , checkDescs x.env (groupUses [(⟨moveFormats, false, false, false⟩, src)] [(⟨moveFormats, true, false, false⟩, dst)])
    , checkCopy (rangesOverlap (x.prints false src) (x.prints true dst)) src dst r.pi ]

/-- R184 for a COPY, the source first. -/
def copyBuffers (x : EngCtx) : Option (BitVec 16) :=
  let r := parseLs x.rec_
  firstFail [checkBuffer x.env x.pat false false (x.entry.desc r.src), checkBuffer x.env x.pat true false (x.entry.desc r.dst)]

/-- The footprints of R290. -/
def copyPrints (x : EngCtx) (_s : State) : Prints :=
  let r := parseLs x.rec_
  { Prints.none with
    rd := x.prints false (x.entry.desc r.src)
    wr := x.prints true (x.entry.desc r.dst) }

/-! ### COPY: the accesses -/

/-- Where a copy's elements lie: width, elements per group of whole destination codewords, the bit addresses of source and
destination in ascending linear index of the destination, the slots of their chips where these are peers. -/
structure CopyPlan where
  w       : Nat
  unit    : Nat
  total   : Nat
  src     : Array Nat
  dst     : Array Nat
  srcPeer : Option Nat
  dstPeer : Option Nat

/-- Elements of a width that fill whole codewords. -/
def groupUnit (w : Nat) : Nat := if w = 6 then 128 else 256 / max 1 w

/-- A bit address translated (R183). -/
def EngCtx.transBit (x : EngCtx) (write : Bool) (d : Desc) (b : Nat) : Nat :=
  if d.baseSlot = x.env.slot ∧ d.local_ < hbmEnd then 8 * translateAddr x.pat x.map write (b / 8) + b % 8 else b

/-- The plan of a COPY. -/
def copyPlan (x : EngCtx) : CopyPlan :=
  let r := parseLs x.rec_
  let src := x.entry.desc r.src
  let dst := x.entry.desc r.dst
  let w := widthBits src.fmt
  let peer (d : Desc) : Option Nat := if d.baseSlot = x.env.slot then none else some d.baseSlot
  { w := w
    unit := groupUnit w
    total := dst.count
    src := ((copyOffsets src dst r.pi).map fun o =>
      x.transBit false src ((src.local_ : Int) * 8 + o * (w : Int)).toNat).toArray
    dst := (dst.bitAddrs.map fun b => x.transBit true dst b).toArray
    srcPeer := peer src
    dstPeer := peer dst }

/-- The codewords that hold an element. -/
def elemCws (w b : Nat) : List Nat := codewordsOf w [b]

/-- The first element of a copy one of whose accesses has no owned slot (R91): its index, the SOURCE and the address. A
board access's slots are the peer's affair (R276). -/
def copyMiss (p : Pattern) (q : Requester) (die : Nat) (c : CopyPlan) : Option (Nat × Nat × Nat) :=
  (List.range c.total).findSome? fun i =>
    let (sb, db) := (c.src.getD i 0, c.dst.getD i 0)
    let miss (peer : Option Nat) (write : Bool) (b : Nat) : Option (Nat × Nat × Nat) :=
      if peer.isSome then none
      else (elemCws c.w b).findSome? fun k =>
        let a := max (b / 8) (32 * k)
        (unowned p q die write a).map fun src => (i, src, a)
    let mesh := if c.srcPeer.isNone && c.dstPeer.isNone && meshMissing p (sb / 8) (db / 8) then some (i, srcMesh, sb / 8) else none
    ((miss c.srcPeer false sb).orElse fun _ => mesh).orElse fun _ => miss c.dstPeer true db

/-- A copy's context: the requester and its die. -/
structure CopyCtx where
  g     : Nat
  eng   : Engine
  die   : Nat
  q     : Requester
  pat   : Pattern
  plan  : CopyPlan

/-- The run of consecutive source elements from `i` on, fewer than `n`, that lie in the codewords of the first. -/
def readRun (c : CopyPlan) (i n : Nat) : List Nat :=
  let cws := elemCws c.w (c.src.getD i 0)
  ((List.range n).takeWhile fun k => (elemCws c.w (c.src.getD (i + k) 0)).all cws.contains).map fun k => c.src.getD (i + k) 0

/-- Elements of a local source read by a carrier (R380): each value, and whether a codeword of it is poisoned. -/
def carryRun (c : CopyPlan) (bits : List Nat) (s : State) : State × List (Nat × Bool) :=
  let r := s.mem.readElems .chip c.w bits
  let s := { s with mem := r.mem }.noteAll s.runPour r.events
  let cws := codewordsOf c.w bits
  let s := cws.foldl (fun s k => s.hbmTraffic (32 * k) 32 false false) s
  (s, (bits.zip r.vals).map fun e => (e.2, (elemCws c.w e.1).any r.poisoned.contains))

/-- The bytes of whole codewords filled by a group of elements, and which of them carry poison. -/
def groupBytes (w : Nat) (vals : List (Nat × Bool)) : List Byte × List Nat :=
  let n := vals.length * w / 256
  let v := (vals.mapIdx fun i e => e.1 % 2 ^ w * 2 ^ (i * w)).foldl (· + ·) 0
  let bad := (List.range n).filter fun k =>
    (vals.mapIdx fun i e => (i, e.2)).any fun e => e.2 && (elemCws w (e.1 * w)).contains k
  (leBytes (32 * n) v, bad)

/-- A codeword that a carrier leaves poisoned, written whole or over a part of what it holds (R380, R382). -/
def Mem.poisonCw (k : MemKind) (m : Mem) (c mask v : Nat) : Mem × List MemEvent :=
  if mask = 2 ^ 256 - 1 then m.carryCw k c (leBytes 32 v) true
  else
    let r := m.readCw k c
    let old := leNat r.data
    (r.mem.writePoison k c (leBytes 32 ((old ^^^ (old &&& mask)) ||| v)), r.events ++ [.poisonWritten])

/-- What a carrying instruction has written so far of codewords that it has not written whole, and which of these a poisoned
source codeword has reached. -/
abbrev Carried := Patch × List Nat

/-- The codewords of a list written as the patch has them. -/
def carryCws (p : Patch) (bad : List Nat) : List Nat → State → State
  | [], s => s
  | c :: cs, s =>
    let (mask, v) := p.find c
    let (m, ev) := if bad.contains c then s.mem.poisonCw .chip c mask v else s.mem.applyCw .chip c mask v
    carryCws p bad cs (({ s with mem := m }.noteAll s.runPour ev).hbmTraffic (32 * c) 32 true false)

/-- Writes of an instruction made, and those of their codewords that poison reaches. A codeword that the instruction covers in
parts is whole once every part has come (R382). -/
def carryPatch (new : Patch) (bad : List Nat) (cr : Carried) (s : State) : State × Carried :=
  let p := new.foldl (fun p t => Patch.putCw t.1 t.2.1 t.2.2 p) cr.1
  let bad := bad ++ cr.2
  let open_ := p.filter fun t => t.2.1 != 2 ^ 256 - 1
  (carryCws p bad (new.reverse.map (·.1)) s, open_, bad.filter fun c => open_.any fun t => t.1 = c)

/-- Elements written by a carrier, in order: bit address, value, and whether a codeword that held it was poisoned. -/
def carryElems (w : Nat) (els : List (Nat × Nat × Bool)) (s : State) : State :=
  (carryPatch (Patch.writeAll w [] (els.map fun e => (e.1, e.2.1))) (codewordsOf w ((els.filter (·.2.2)).map (·.1)))
    ([], []) s).1

/-- Whole codewords written by a carrier (R380, R382). -/
def carryWrite (s : State) (a : Nat) : List Byte → List Nat → Nat → Nat → State
  | _, _, _, 0 => s
  | bs, bad, k, n + 1 =>
    let (m, ev) := s.mem.carryCw .chip (a / 32) (bs.take 32) (bad.contains k)
    let s := ({ s with mem := m }.noteAll s.runPour ev).hbmTraffic a 32 true false
    carryWrite s (a + 32) (bs.drop 32) bad (k + 1) n

/-- Board writes of whole codewords, one frame each (R276, R277). -/
def boardWrites (s : State) (slot a : Nat) (tag : BitVec 16) : List Byte → List Nat → Nat → Nat → State
  | _, _, _, 0 => s
  | bs, bad, k, n + 1 =>
    let f := rawFrame 3 1 0 (boardArg tag a) (bs.take 32) (if bad.contains k then [1] else [])
    let s := match s.boardPort slot a with
      | some p => s.xmit p f
      | none => s
    boardWrites s slot (a + 32) tag (bs.drop 32) bad (k + 1) n

/-- The STATE buffer of an address marked as written in this attempt (R185). -/
def State.markWritten (s : State) (p : Pattern) (a : Nat) : State :=
  match (p.bufs.mapIdx fun i b => (i, b)).find? fun e =>
      e.2.kind = 3 && ((e.2.base ≤ a && a < e.2.base + e.2.length) || (e.2.copy1 ≤ a && a < e.2.copy1 + e.2.length)) with
  | some (i, _) => { s with run := s.run.map fun r => { r with written := r.written ||| (1#4096 <<< i) } }
  | none => s

/-- What one access of a copy did. -/
inductive CopyStep where
  | moved (s : State) (c : CopyState)
  | blocked (s : State) (c : CopyState)
  | fault (source addr : Nat)

/-- The tags of streams to be received and of board reads that are awaited. -/
def State.tagsInUse (s : State) : List (BitVec 16) :=
  ((s.run.map fun r => r.colls.flatMap fun n => n.recvs.map (·.tag)).getD [])
    ++ s.clusters.flatMap fun c => c.2.flights.filterMap fun f => f.copy.bind (·.asked)

/-- The first number from n on whose tag is not among those in use (R298: a tag names one stream). -/
def tagFrom (attempt : Nat) (used : List (BitVec 16)) (n : Nat) : Nat :=
  (((List.range (used.length + 1)).map (n + ·)).find? fun k =>
    !used.contains (BitVec.ofNat 16 (attempt * 2 ^ 15 + k % 2 ^ 15))).getD n

/-- A tag of the running attempt that nothing in flight has. -/
def State.freshTag (s : State) : BitVec 16 × State :=
  match s.run with
  | none => (0, s)
  | some r =>
    let n := tagFrom r.attempt s.tagsInUse r.nextTag
    (BitVec.ofNat 16 (r.attempt * 2 ^ 15 + n % 2 ^ 15), { s with run := some { r with nextTag := n + 1 } })

/-- The element a copy reads next, and how many it reads before it writes again. -/
def readAt (cs : CopyState) : Nat := if cs.whole then cs.buffer.length else cs.next + cs.got.length
def readWant (pl : CopyPlan) (cs : CopyState) : Nat :=
  let limit := (cs.miss.map (·.1)).getD pl.total
  if cs.whole then limit - readAt cs else min (pl.unit - cs.got.length) (limit - readAt cs)

/-- Elements read taken. -/
def takeRead (cs : CopyState) (vals : List (Nat × Bool)) : CopyState :=
  let cs := { cs with started := [], come := [] }
  if cs.whole then { cs with buffer := cs.buffer ++ vals } else { cs with got := cs.got ++ vals }

/-- Codewords a peer has answered with, as a memory at their own addresses. -/
def comeMem (come : List (Nat × List Byte × Bool)) : Mem := come.foldl (fun m c => m.lay (32 * c.1) c.2.1) Mem.zeros

/-- Elements of a run in the codewords that have come: each value, and whether a codeword of it is poisoned. -/
def comeVals (w : Nat) (come : List (Nat × List Byte × Bool)) (bits : List Nat) : List (Nat × Bool) :=
  let m := comeMem come
  bits.map fun b => (m.bitsAt b w, (elemCws w b).any fun c => come.any fun e => e.1 = c && e.2.2)

/-- The board read a copy makes next: the first codeword that has not come, and the one after it when both lie in one granule
of 1 KiB, so that one port carries both (R277). -/
def boardAsk (come : List (Nat × List Byte × Bool)) (cws : List Nat) : Option (Nat × Nat) :=
  match cws.filter fun c => !come.any fun e => e.1 = c with
  | [] => none
  | [c] => some (c, 1)
  | c :: d :: _ => some (c, if c / 32 = d / 32 then 2 else 1)

/-- Values packed into the codewords of the Ladle, and unpacked. -/
def packVals (w : Nat) (vals : List (Nat × Bool)) : List Byte :=
  leBytes ((vals.length * w + 255) / 256 * 32) ((vals.mapIdx fun i e => e.1 % 2 ^ w * 2 ^ (i * w)).foldl (· + ·) 0)

/-- One codeword of the Ladle read (R376, R377, R379): the values with its error corrected, or, of one that cannot be, poisoned. -/
def ladleRead (g w k : Nat) (d : BitVec 32) (vals : List (Nat × Bool)) : List (Nat × Bool) × List MemEvent :=
  let bs := packVals w vals
  let cw := (bs.drop (32 * k)).take 32
  let mine (i : Nat) : Bool := (elemCws w (i * w)).contains k
  let spoilt := vals.mapIdx fun i e => if mine i then (e.1, true) else e
  match classify d with
  | .clean => (vals, [])
  | .corrected e v =>
    let n := leNat (bs.take (32 * k) ++ fixData cw e v ++ bs.drop (32 * k + 32))
    (vals.mapIdx fun i e => if mine i then (n / 2 ^ (i * w) % 2 ^ w, e.2) else e, [.corrected (.cluster g)])
  | .poisoned _ => (spoilt, [])
  | .uncorrectable => (spoilt, [.uncorrectable (.cluster g) 0, .poisonWritten])

/-- A group of values as it leaves the Ladle, whose codewords count on from `base`. -/
def ladleOut (g w base : Nat) (ladle : Tab (BitVec 32)) (vals : List (Nat × Bool)) : List (Nat × Bool) × List MemEvent :=
  ((List.range ((vals.length * w + 255) / 256)).filter fun k => Tab.get 0 ladle (base + k) ≠ 0).foldl (fun r k =>
    let x := ladleRead g w k (Tab.get 0 ladle (base + k)) r.1
    (x.1, r.2 ++ x.2)) (vals, [])

/-- The group of values that a copy writes next, as it leaves the Ladle. -/
def CopyState.group (cs : CopyState) (g w n : Nat) : List (Nat × Bool) × List MemEvent :=
  if cs.whole then ladleOut g w (cs.next * w / 256) cs.ladle ((cs.buffer.drop cs.next).take n) else ladleOut g w 0 cs.ladle cs.got

/-- The next access of a copy: a read of the source, else the write of a group. `may` says whether an access to a
chip-local address may start now. -/
def copyStep (x : CopyCtx) (may : Bool → Nat → Bool) (cs : CopyState) (s : State) : CopyStep :=
  let pl := x.plan
  let limit := (cs.miss.map (·.1)).getD pl.total
  let readPos := readAt cs
  let want := readWant pl cs
  let groupIn := if cs.whole then min pl.unit (limit - cs.next) else cs.got.length
  if cs.done then .blocked s cs
  else if want != 0 then
    let cws := elemCws pl.w (pl.src.getD readPos 0)
    match pl.srcPeer with
    | some slot =>
      match boardAsk cs.come cws with
      | none => .moved s (takeRead cs (comeVals pl.w cs.come (readRun pl readPos want)))
      | some (c, n) =>
        if cs.asked.isSome then .blocked s cs
        else
          let (tag, s) := s.freshTag
          match s.boardPort slot (32 * c) with
          | some p => .blocked (s.xmit p (rawFrame 2 n 0 (boardArg tag (32 * c)) [] [])) { cs with asked := some tag }
          | none => .blocked s cs
    | none =>
      match cws.find? fun c => !cs.started.contains c with
      | some c => if may false (32 * c) then .moved (s.floorCarry x.die false (32 * c)) { cs with started := c :: cs.started } else .blocked s cs
      | none =>
        let (s, vals) := carryRun pl (readRun pl readPos want) s
        .moved s (takeRead cs vals)
  else if groupIn != 0 then
    let bits := (List.range groupIn).map fun k => pl.dst.getD (cs.next + k) 0
    let (vals, ev) := cs.group x.g pl.w groupIn
    let after : CopyState :=
      { cs with
        next := cs.next + groupIn
        got := []
        ladle := if cs.whole then cs.ladle else []
        started := []
        done := cs.next + groupIn ≥ pl.total }
    match pl.dstPeer with
    | some slot =>
      let s := s.noteAll s.runPour ev
      let (bs, bad) := groupBytes pl.w vals
      let (tag, s) := s.freshTag
      .moved (boardWrites s slot (bits.headD 0 / 8) tag bs bad 0 (bs.length / 32)) after
    | none =>
      match (codewordsOf pl.w bits).find? fun c => !cs.started.contains c with
      | some c => if may true (32 * c) then .moved (s.floorCarry x.die true (32 * c)) { cs with started := c :: cs.started } else .blocked s cs
      | none =>
        .moved (carryElems pl.w (bits.zip vals) ((s.noteAll s.runPour ev).markWritten x.pat (bits.headD 0 / 8))) after
  else
    match cs.miss with
    | some (_, src, a) => .fault src a
    | none => .blocked s { cs with done := true }

/-- Accesses made until one may not start, at most `fuel` of them; `once` lets the first of them start in a phase. -/
def copyLoop (x : CopyCtx) (free : Bool → Nat → Bool) : Nat → (Bool → Nat → Bool) → CopyState → State →
    State × CopyState × Option (Nat × Nat)
  | 0, _, cs, s => (s, cs, none)
  | fuel + 1, may, cs, s =>
    match copyStep x may cs s with
    | .moved s cs => copyLoop x free fuel free cs s
    | .blocked s cs => (s, cs, none)
    | .fault src a => (s, cs, some (src, a))

/-- The context of a copy of an engine. -/
def copyCtxOf (p : Pattern) (g : Nat) (eng : Engine) (x : EngCtx) : CopyCtx :=
  ⟨g, eng, g / 64, .cluster g (eng = .st), p, copyPlan x⟩

/-- The bytes a COPY writes. -/
def CopyPlan.bytes (c : CopyPlan) : Nat := c.total * c.w / 8

/-- COPY (R290): its state as it issues. -/
def copyPerform (eng : Engine) (x : EngCtx) (s : State) : Performed :=
  let c := copyCtxOf x.pat x.g eng x
  let r := parseLs x.rec_
  let meets := rangesOverlap (x.prints false (x.entry.desc r.src)) (x.prints true (x.entry.desc r.dst))
  let cs : CopyState := ⟨0, [], meets, [], [], none, [], [], copyMiss x.pat c.q c.die c.plan, false⟩
  (s, .ok { Done.plain [0, 0, 0, satWord c.plan.bytes, 0, 0, 0, 0] 0 with
    permuting := !permIdentity (x.entry.desc r.src).rank r.pi, copy := some cs })

/-- The COPY operation. -/
def copyOp (eng : Engine) : EngineOp where
  descs x := (parseLs x.rec_).descs
  check := copyCheck
  late _ _ := none
  buffers := copyBuffers
  prints := copyPrints
  time _ _ := 0
  permuting x := x.entry.permuting
  perform := copyPerform eng

/-- A flight of a cluster changed. -/
def Cluster.updFlight (c : Cluster) (idx : Nat) (f : Flight → Flight) : Cluster :=
  { c with flights := c.flights.map fun fl => if fl.idx = idx then f fl else fl }

/-- A flight of a cluster. -/
def Cluster.flight (c : Cluster) (idx : Nat) : Option Flight := c.flights.find? fun f => f.idx = idx

/-- A copy in flight goes on: in the first access as `may` lets it, then as long as accesses need no phase or slot. -/
def advanceCopy (g idx : Nat) (may : CopyCtx → Bool → Nat → Bool) (s : State) : State :=
  match s.runPattern, (s.cl g).flight idx with
  | some p, some fl =>
    match fl.copy with
    | none => s
    | some cs =>
      if s.attemptRuns g then
        let x := copyCtxOf p g fl.eng (s.engCtx p g fl.entry fl.deferred)
        let (s, cs, out) := copyLoop x (fun _ a => accessFree x.die a) (8 * x.plan.total + 8) (may x) cs s
        let s := s.updCl g fun c => c.updFlight idx fun fl => { fl with copy := some cs }
        match out with
        | none => s
        | some (src, a) => s.faultPour g src stSlotCollision (BitVec.ofNat 18 fl.entry.pc) (s.boardAddr (untranslate p a))
      else s
  | _, _ => s

/-- Every copy of a cluster goes on as far as no access needs a phase or slot. -/
def advanceFree (g idx : Nat) (s : State) : State := advanceCopy g idx (fun x _ a => accessFree x.die a) s

end Sys2Proof.Machine
end

