-- ==== Sys2Proof/Machine/Collective.lean ====
section
/-! DEFINITION. Collectives: groups, checks, streams, and the parts that a chip performs (R283 to R301). -/

namespace Sys2Proof.Machine

/-! ### Groups (R283, R284) -/

/-- Numbers in ascending order of a key. -/
def sortByKey (key : Nat → Nat) (l : List Nat) : List Nat :=
  (l.foldl (fun (t : Tab Nat) r => Tab.insert (key r * 2 ^ 20 + r) r t) []).map (·.2)

/-- The ranks of the members of a group, in the order of their group ranks. `byslot` is the one-board exception. -/
def groupMembers (env : DescEnv) (group : Nat) (byslot : Bool) : List Nat :=
  let ranks := if group < 4 then
      (List.range (env.axes.getD group 1)).map fun c =>
        env.rank + c * axisPlace env.axes group - env.coords.getD group 0 * axisPlace env.axes group
    else List.range env.flaskN
  if byslot then sortByKey (fun r => (env.slotOf r).getD 8) ranks else ranks

/-- An operation's number in Table 15-5. -/
def opAllReduce : Nat := 1
def opReduceScatter : Nat := 2
def opAllGather : Nat := 3
def opAllToAll : Nat := 4
def opBroadcast : Nat := 5
def opSend : Nat := 6
def opRecv : Nat := 7

/-- What a COLL works with on this chip. -/
structure CollCtx where
  x       : EngCtx
  ls      : LsRec
  rec_    : CollRecord
  s       : Desc
  d       : Desc
  /-- descriptors named -/
  hasS    : Bool
  hasD    : Bool
  local_  : Bool
  members : List Nat
  q       : Nat
  size    : Nat

/-- The collective record of a COLL. -/
def collRecord (p : Pattern) (id : Nat) : CollRecord := (p.colls[id]?).getD ⟨0, 0, 0, 0, false, false, 0, 0, 0, 0, 0⟩

/-- The context of a COLL. -/
def collCtx (x : EngCtx) : CollCtx :=
  let ls := parseLs x.rec_
  let r := collRecord x.pat ls.collId
  let s := x.entry.desc ls.src
  let d := x.entry.desc ls.dst
  let hasS := ls.src != 0
  let hasD := ls.dst != 0
  let loc := (!hasS || !s.kind) && (!hasD || !d.kind)
  let ms := groupMembers x.env r.group (loc && !x.env.bigFlask && x.pat.sizes.foldl (· * ·) 1 != 1)
  ⟨x, ls, r, s, d, hasS, hasD, loc, ms, (ms.findIdx? (· = x.env.rank)).getD 0, ms.length⟩

/-- Whether the operation reads S here, and writes D here (Table 15-5). -/
def CollCtx.needsS (c : CollCtx) : Bool :=
  match c.rec_.op with
  | 5 => c.rec_.peer = c.q
  | 7 => false
  | _ => true
def CollCtx.needsD (c : CollCtx) : Bool := c.rec_.op != opSend

/-! ### The checks (Table 15-7) -/

/-- The formats of an operation (Table 15-5). -/
def collFormats (op fmt : Nat) : Bool := if op = 1 ∨ op = 2 then [0x0, 0x1, 0x9].contains fmt else fmt ≤ 0xE

/-- Extents of a descriptor within its rank. -/
def Desc.exts (d : Desc) : List Nat := d.ext.take d.rank

/-- Extents whose outermost is G times another's, the others equal. -/
def scaledShape (big small : Desc) (g : Nat) : Bool :=
  big.rank = small.rank && 1 ≤ big.rank && big.exts.dropLast == small.exts.dropLast
    && big.extent (big.rank - 1) = g * small.extent (small.rank - 1)

/-- Row 5: operands shaped as Table 15-5 requires, and PEER. -/
def collShape (c : CollCtx) : Bool :=
  let r := c.rec_
  (!c.needsS || c.hasS) && (!c.needsD || c.hasD) && r.peer < max 1 c.size &&
  match r.op with
  | 1 => c.s.rank = c.d.rank && c.s.exts == c.d.exts
  | 2 => scaledShape c.s c.d c.size
  | 3 => scaledShape c.d c.s c.size
  | 4 => c.s.rank = c.d.rank && c.s.exts == c.d.exts && c.s.extent (c.s.rank - 1) % max 1 c.size = 0
  | 5 => !c.hasS || (c.s.rank = c.d.rank && c.s.exts == c.d.exts)
  | 6 => r.peer != c.q
  | 7 => r.peer != c.q
  | _ => false

/-- Rows 1 to 7 of Table 15-7. -/
def collCheck (x : EngCtx) : Option (BitVec 16) :=
  let ls := parseLs x.rec_
  let c := collCtx x
  let op := c.rec_.op
  let own (d : Desc) : Bool := d.baseSlot = x.env.slot
  let fm := collFormats op
  let uses := groupUses (if c.hasS then [(⟨fm, false, false, true⟩, c.s)] else [])
    (if c.hasD then [(⟨fm, true, false, true⟩, c.d)] else [])
  let identical := op = 1 && c.s.sameAs c.d
  firstFail
    [ orElse (ls.opc = 2 && ls.reserved = 0 && ls.perm = 0 && ls.collId < x.pat.colls.length
        && (op = opRecv || op = opBroadcast || c.hasS) && (op != opRecv || !c.hasS)
        && (op = opSend || c.hasD) && (op != opSend || !c.hasD) && (op != opBroadcast || c.rec_.peer != c.q || c.hasS)) stMalformed
    , orElse (ls.descs.all fun a => goodDescAddr (fun a => (x.entry.desc a).kind) a) stMalformed
    , checkDescs x.env uses
    , orElse ((!c.hasS || c.s.fmt = c.rec_.fmt) && (!c.hasD || c.d.fmt = c.rec_.fmt)) stFormat
    , orElse (collShape c) stMalformed
    , orElse ((!c.hasS || own c.s) && (!c.hasD || own c.d)) stHbmExceeded
    , orElse (!(c.hasS && c.hasD) || !rangesOverlap (x.prints false c.s) (x.prints true c.d) || identical) stCopyOverlap ]

/-- R184 for S and D. -/
def collBuffers (x : EngCtx) : Option (BitVec 16) :=
  let c := collCtx x
  firstFail [ if c.hasS then checkBuffer x.env x.pat false false c.s else none
            , if c.hasD then checkBuffer x.env x.pat true false c.d else none ]

/-- The footprints of a COLL on this chip. -/
def collPrints (x : EngCtx) (_s : State) : Prints :=
  let c := collCtx x
  { Prints.none with
    rd := if c.hasS then x.prints false c.s else []
    wr := if c.hasD then x.prints true c.d else [] }

/-! ### Streams (R295, R298, R299) -/

/-- Stream kinds of a START. -/
def kindPartial : Nat := 0
def kindFinal : Nat := 1
def kindPart : Nat := 2

/-- A stream as the record fixes it: the peer's group rank, the kind, and the ranges of linear indices it carries, in
order (DEDUCED: ascending). -/
structure StreamSpec where
  peer   : Nat
  kind   : Nat
  ranges : List (Nat × Nat)
deriving DecidableEq, Repr

/-- The elements of S. -/
def CollCtx.elems (c : CollCtx) : Nat := if c.hasS then c.s.count else c.d.count

/-- Chunk c as first index and count (R299). -/
def CollCtx.chunk (c : CollCtx) (k : Nat) : Nat × Nat :=
  let e := c.elems
  let g := max 1 c.size
  (k * e / g, (k + 1) * e / g - k * e / g)

/-- The chunks, in order, that satisfy a condition. -/
def CollCtx.chunks (c : CollCtx) (f : Nat → Bool) : List (Nat × Nat) :=
  ((List.range c.size).filter f).map c.chunk

/-- The chunk of a linear index. -/
def CollCtx.chunkOf (c : CollCtx) (i : Nat) : Nat :=
  ((List.range c.size).find? fun k => let r := c.chunk k; r.1 ≤ i && i < r.1 + r.2).getD 0

/-- The place of this member in the chain of a chunk (R299). -/
def CollCtx.place (c : CollCtx) (k : Nat) : Nat :=
  if c.rec_.order then (c.q + c.size - k % max 1 c.size + c.size - 1) % max 1 c.size else c.q

/-- The neighbours in the ring. -/
def CollCtx.prev (c : CollCtx) : Nat := (c.q + c.size - 1) % max 1 c.size
def CollCtx.succ_ (c : CollCtx) : Nat := (c.q + 1) % max 1 c.size

/-- The streams this chip receives. -/
def CollCtx.recvSpecs (c : CollCtx) : List StreamSpec :=
  let g := c.size
  let others := (List.range g).filter (· != c.q)
  let e := c.elems
  if g ≤ 1 then []
  else
    match c.rec_.op, c.rec_.order with
    | 1, false =>
      (if 0 < c.q then [⟨c.q - 1, kindPartial, c.chunks fun _ => true⟩] else [])
        ++ (if c.q + 1 < g then [⟨c.q + 1, kindFinal, c.chunks fun _ => true⟩] else [])
    | 1, true =>
      [⟨c.prev, kindPartial, c.chunks fun k => (k + 1) % g != c.q⟩, ⟨c.prev, kindFinal, c.chunks fun k => k != c.q⟩]
    | 2, false =>
      (if 0 < c.q then [⟨c.q - 1, kindPartial, c.chunks fun _ => true⟩] else [])
        ++ (if c.q + 1 < g then [⟨g - 1, kindFinal, c.chunks fun k => k = c.q⟩] else [])
    | 2, true => [⟨c.prev, kindPartial, c.chunks fun k => (k + 1) % g != c.q⟩]
    | 3, _ => others.map fun p => ⟨p, kindPart, [(p * c.s.count, c.s.count)]⟩
    | 4, _ => others.map fun p => ⟨p, kindPart, [(p * (e / g), e / g)]⟩
    | 5, _ => if c.rec_.peer = c.q then [] else [⟨c.rec_.peer, kindPart, [(0, c.d.count)]⟩]
    | 7, _ => [⟨c.rec_.peer, kindPart, [(0, c.d.count)]⟩]
    | _, _ => []

/-- The streams this chip sends. -/
def CollCtx.sendSpecs (c : CollCtx) : List StreamSpec :=
  let g := c.size
  let others := (List.range g).filter (· != c.q)
  let e := c.elems
  if g ≤ 1 then []
  else
    match c.rec_.op, c.rec_.order with
    | 1, false =>
      (if c.q + 1 < g then [⟨c.q + 1, kindPartial, c.chunks fun _ => true⟩] else [])
        ++ (if 0 < c.q then [⟨c.q - 1, kindFinal, c.chunks fun _ => true⟩] else [])
    | 1, true =>
      [⟨c.succ_, kindPartial, c.chunks fun k => k != c.q⟩, ⟨c.succ_, kindFinal, c.chunks fun k => k != c.succ_⟩]
    | 2, false =>
      if c.q + 1 < g then [⟨c.q + 1, kindPartial, c.chunks fun _ => true⟩]
      else ((List.range g).filter (· != c.q)).map fun p => ⟨p, kindFinal, c.chunks fun k => k = p⟩
    | 2, true => [⟨c.succ_, kindPartial, c.chunks fun k => k != c.q⟩]
    | 3, _ => others.map fun p => ⟨p, kindPart, [(0, c.s.count)]⟩
    | 4, _ => others.map fun p => ⟨p, kindPart, [(p * (e / g), e / g)]⟩
    | 5, _ => if c.rec_.peer = c.q then others.map fun p => ⟨p, kindPart, [(0, c.s.count)]⟩ else []
    | 6, _ => [⟨c.rec_.peer, kindPart, [(0, c.s.count)]⟩]
    | _, _ => []

/-- Width of an element on the wire: partial sums of a BF16 SUM travel in FP32 (R298). -/
def CollCtx.wireBits (c : CollCtx) (kind : Nat) : Nat :=
  if kind = kindPartial ∧ c.rec_.fmt = 0x1 ∧ c.rec_.red = 0 then 32 else widthBits c.rec_.fmt

/-- Elements of a stream, and the most that one frame carries. -/
def StreamSpec.count (t : StreamSpec) : Nat := t.ranges.foldl (fun n r => n + r.2) 0
def CollCtx.perFrame (c : CollCtx) (t : StreamSpec) : Nat := 39 * 256 / max 1 (c.wireBits t.kind)

/-- With ORDER = 1 every chunk of a stream begins a frame (DEDUCED, log entry 31): each chunk is pipelined frame by frame (R299), and a
frame that held the ends of two chunks would let the members of the ring wait for one another. -/
def CollCtx.chunked (c : CollCtx) : Bool := c.rec_.order && (c.rec_.op = 1 || c.rec_.op = 2)

/-- The frames of a stream whose chunks each begin one: first linear index and count. -/
def CollCtx.cuts (c : CollCtx) (t : StreamSpec) : List (Nat × Nat) :=
  let per := max 1 (c.perFrame t)
  t.ranges.flatMap fun r => (List.range ((r.2 + per - 1) / per)).map fun j => (r.1 + j * per, min per (r.2 - j * per))

/-- The linear index of element k of a stream. -/
def streamIndex : List (Nat × Nat) → Nat → Nat
  | [], k => k
  | (f, n) :: t, k => if k < n then f + k else streamIndex t (k - n)

/-- The place of a linear index within a stream. -/
def streamPlace : List (Nat × Nat) → Nat → Nat → Option Nat
  | [], _, _ => none
  | (f, n) :: t, base, i => if f ≤ i ∧ i < f + n then some (base + (i - f)) else streamPlace t (base + n) i

/-- The linear indices of frame f. -/
def CollCtx.frameIdx (c : CollCtx) (t : StreamSpec) (f : Nat) : List Nat :=
  if c.chunked then
    match (c.cuts t)[f]? with
    | some (a, n) => (List.range n).map (a + ·)
    | none => []
  else
    let per := c.perFrame t
    (List.range (min per (t.count - f * per))).map fun k => streamIndex t.ranges (f * per + k)

/-- The frame of a stream that carries a linear index. -/
def CollCtx.frameOf (c : CollCtx) (t : StreamSpec) (i : Nat) : Option Nat :=
  if c.chunked then (c.cuts t).findIdx? fun r => r.1 ≤ i && i < r.1 + r.2
  else (streamPlace t.ranges 0 i).map (· / max 1 (c.perFrame t))

/-- The bytes of frame f, the number of frames of a stream, and its length in bytes: frame f lands at byte f × 1,248 (R298). A part of a
byte counts as one. -/
def CollCtx.frameBytes (c : CollCtx) (t : StreamSpec) (f : Nat) : Nat := ((c.frameIdx t f).length * c.wireBits t.kind + 7) / 8
def CollCtx.frames (c : CollCtx) (t : StreamSpec) : Nat :=
  if c.chunked then (c.cuts t).length else (t.count + c.perFrame t - 1) / max 1 (c.perFrame t)
def CollCtx.bytes (c : CollCtx) (t : StreamSpec) : Nat :=
  if c.frames t = 0 then 0 else 1248 * (c.frames t - 1) + c.frameBytes t (c.frames t - 1)

/-! ### Element access -/

/-- Bit addresses of S and D on this chip, translated (R183). -/
def CollCtx.sBits (c : CollCtx) : Array Nat := (c.s.bitAddrs.map (c.x.transBit false c.s)).toArray
def CollCtx.dBits (c : CollCtx) : Array Nat := (c.d.bitAddrs.map (c.x.transBit true c.d)).toArray

/-- The die of a stream engine: that of its port's physical port, else by its number (PRESUMED, log entry 31). -/
def State.engineDie (s : State) (p : Pattern) (e : Nat) : Nat :=
  match (Tab.get none p.engines e) with
  | some lp => ((s.serving lp).getD lp) % 2
  | none => e / 64

/-- A piece of an instance's work on its chip (R285): its number within the instance, the stream engine that does it, and for
each of its elements, in order, the index of S it reads and the index of D it writes. -/
structure CollWork where
  id  : Nat
  eng : Nat
  els : List (Option Nat × Option Nat)

/-- Numbers of the works: the part that crosses no port, the next frame of a stream received, the next frame of one sent. -/
def workBegin : Nat := 0
def workRecv (k : Nat) : Nat := 2 * k + 1
def workSend (k : Nat) : Nat := 2 * k + 2

/-- The accesses of a work in the order in which it forms them: the element's place, whether it writes, and the codeword. A
codeword just accessed is not accessed again. -/
def CollCtx.accesses (c : CollCtx) (wk : CollWork) : List (Nat × Bool × Nat) :=
  let w := widthBits c.rec_.fmt
  let (sb, db) := (c.sBits, c.dBits)
  let add (write : Bool) (k : Nat) (bits : Option Nat) (acc : List (Nat × Bool × Nat)) : List (Nat × Bool × Nat) :=
    match bits with
    | none => acc
    | some b => (codewordsOf w [b]).foldl (fun acc q =>
        if (acc.find? fun e => e.2.1 = write).any fun e => e.2.2 = q then acc else (k, write, q) :: acc) acc
  ((wk.els.mapIdx fun k e => (k, e)).foldl
    (fun acc e => add true e.1 (e.2.2.map fun i => db.getD i 0) (add false e.1 (e.2.1.map fun i => sb.getD i 0) acc)) []).reverse

/-- The first access of a work that its engine owns no slot or phase for (R91, R285): the element's place, the SOURCE and the
address. -/
def CollCtx.miss (c : CollCtx) (s : State) (wk : CollWork) : Option (Nat × Nat × Nat) :=
  let die := s.engineDie c.x.pat wk.eng
  (c.accesses wk).findSome? fun a => (unowned c.x.pat (.stream wk.eng) die a.2.1 (32 * a.2.2)).map fun src => (a.1, src, 32 * a.2.2)

/-- The next access of a work that waits for a phase or slot (R89): none when every access before an unowned one has started or
needs neither. -/
def CollCtx.waits (c : CollCtx) (s : State) (wk : CollWork) (n : CollInstance) : Option (Bool × Nat) :=
  let die := s.engineDie c.x.pat wk.eng
  let limit := ((c.miss s wk).map (·.1)).getD wk.els.length
  ((c.accesses wk).find? fun a =>
    a.1 < limit && !accessFree die (32 * a.2.2) && !n.started.contains (wk.id, a.2.1, a.2.2)).map (·.2)

/-- A fault of a stream's or an element's access: status, SOURCE and address. -/
abbrev CollFault := BitVec 16 × Nat × Nat

/-- The elements of a work that come before its first unowned access, and the fault that this access is (R91). -/
def CollCtx.reach (c : CollCtx) (s : State) (wk : CollWork) : Nat × Option CollFault :=
  match c.miss s wk with
  | some (k, src, a) => (k, some (stSlotCollision, src, a))
  | none => (wk.els.length, none)

/-- A work done: its accesses need not be remembered. -/
def CollInstance.done (n : CollInstance) (id : Nat) : CollInstance := { n with started := n.started.filter fun a => a.1 != id }

/-- HBM traffic of the codewords of elements. -/
def State.trafficOf (s : State) (w : Nat) (write : Bool) (bits : List Nat) : State :=
  (codewordsOf w bits).foldl (fun s k => s.hbmTraffic (32 * k) 32 write false) s

/-- S read by the combining member, which consumes it (R380): FMT bits. -/
def CollCtx.readS (c : CollCtx) (idx : List Nat) (s : State) : State × Except CollFault (List Nat) :=
  let sb := c.sBits
  let bits := idx.map fun i => sb.getD i 0
  let w := widthBits c.rec_.fmt
  match consume (s.trafficOf w false bits) bits w with
  | (s, .error (st, a)) => (s, .error (st, 0, a))
  | (s, .ok v) => (s, .ok v)

/-- Elements of S read by a carrier. -/
def CollCtx.carryS (c : CollCtx) (idx : List Nat) (s : State) : State × List (Nat × Bool) :=
  let sb := c.sBits
  let w := widthBits c.rec_.fmt
  let bits := idx.map fun i => sb.getD i 0
  let r := s.mem.readElems .chip w bits
  let s := ({ s with mem := r.mem }.noteAll s.runPour r.events).trafficOf w false bits
  (s, (bits.zip r.vals).map fun p => (p.2, (codewordsOf w [p.1]).any r.poisoned.contains))

/-- No two rows of a descriptor can share an address: each stride is at least as long as what lies within it. -/
def Desc.nested (d : Desc) : Bool :=
  ((d.dims.drop 1).foldl (fun (a : Bool × Int) j =>
    let st : Int := (d.strideOf j).natAbs
    (a.1 && (d.extent j ≤ 1 || a.2 ≤ st), a.2 + ((d.extent j : Int) - 1) * st)) (true, (d.extent 0 : Int))).1

/-- A codeword of a row of D that a row of greater linear indices holds too, so that the value of that row stands (R62). Rows
hold whole codewords (R58). -/
def CollCtx.covered (c : CollCtx) (db : Array Nat) (row q : Nat) : Bool :=
  let e := max 1 (c.d.extent 0)
  let n := e * widthBits c.rec_.fmt / 256
  !c.d.nested && (List.range (db.size / e - (row + 1))).any fun k =>
    let first := db.getD ((row + 1 + k) * e) 0 / 256
    first ≤ q && q < first + n

/-- Bits of an element of D laid into a patch, but for codewords in which a greater index stands. -/
def CollCtx.putElem (c : CollCtx) (db : Array Nat) (p : Patch) (i v : Nat) : Patch :=
  (Patch.write [] (db.getD i 0) (widthBits c.rec_.fmt) v).foldl
    (fun p t => if c.covered db (i / max 1 (c.d.extent 0)) t.1 then p else Patch.putCw t.1 t.2.1 t.2.2 p) p

/-- Values written to D by local index, each with whether it carries poison (R380). Parts of a codeword that come one after the
other are merged within the instruction (R382), and in whatever order they come, the greatest index stands (R62, R306). -/
def CollCtx.storeD (c : CollCtx) (vals : List (Nat × Nat × Bool)) (n : CollInstance) (s : State) : State × CollInstance :=
  let db := c.dBits
  let lay (l : List (Nat × Nat × Bool)) : Patch := l.foldl (fun p v => c.putElem db p v.1 v.2.1) []
  let s := match vals with
    | [] => s
    | v :: _ => s.markWritten c.x.pat (db.getD v.1 0 / 8)
  let (s, cr) := carryPatch (lay vals) ((lay (vals.filter (·.2.2))).map (·.1)) (n.part, n.bad) s
  (s, { n with part := cr.1, bad := cr.2 })

/-- An element widened (R299): BF16 to FP32, a NaN to the canonical one (R34); others as stored. -/
def widenColl (fmt v : Nat) : Nat := if fmt = 0x1 then roundRne 0x0 (decodeNum 0x1 v) else v

/-- combine of R299, and whether it saturated. -/
def combineColl (red fmt a b : Nat) : Nat × Bool :=
  if fmt = 0x9 then
    let (x, y) := (signedOf 32 a, signedOf 32 b)
    if red = 0 then
      let (v, sat) := saturate 32 (x + y)
      (bitsOfInt 32 v, sat)
    else (bitsOfInt 32 (if red = 1 then max x y else min x y), false)
  else if red = 0 then (fadd a b, false)
  else if red = 1 then (fpMax 0x0 a b, false)
  else (fpMin 0x0 a b, false)

/-- The last member's result in FMT (R300): a BF16 SUM narrows with RMODE. -/
def narrowColl (r : CollRecord) (key : SrKey) (v : Nat) : Conv :=
  if r.fmt = 0x1 then narrowTo 0x1 (if r.red = 0 then modeOf r.rmode else .rne) key (decodeNum 0x0 v) else ⟨v, false, false⟩

/-- The element of D that a linear index of S gives on the member that keeps it: its group rank and its local index. -/
def CollCtx.target (c : CollCtx) (i : Nat) : Nat × Nat :=
  if c.rec_.op = 2 then (c.chunkOf i, i - (c.chunk (c.chunkOf i)).1) else (c.q, i)

/-- The local index of D that this chip writes for a linear index of S, where the element is its own. -/
def CollCtx.mine (c : CollCtx) (i : Nat) : Option Nat := if (c.target i).1 = c.q then some (c.target i).2 else none

/-- The key of the draw for a linear index of S (R300): the index of R44 on the member that keeps the element. -/
def CollCtx.key (c : CollCtx) (i : Nat) : SrKey :=
  let (m, j) := c.target i
  let env := { c.x.env with coords := coordsOf c.x.env.axes (c.members.getD m c.x.env.rank) }
  ⟨c.x.entry.seed.toNat, c.d.tid, (c.d.keyIndices env).getD j 0⟩

/-- This member is the last of the chain of an element. -/
def CollCtx.isLast (c : CollCtx) (i : Nat) : Bool := c.place (c.chunkOf i) + 1 = c.size

/-- Sums of Table 15-6 added. -/
def addSums : List Nat → List Nat → List Nat
  | [], b => b
  | a, [] => a
  | x :: a, y :: b => (x + y) :: addSums a b

/-- Values of D written as infinity or NaN (word 2 of Table 15-6); an integer is neither. -/
def CollCtx.nonfinite (c : CollCtx) (vals : List Nat) : Nat :=
  if isIntCode c.rec_.fmt then 0 else (vals.filter (isNonfinite c.rec_.fmt)).length

/-- The cell of a linear index in the accumulators. -/
def accPut (m : Mem) (i v : Nat) : Mem := m.lay (4 * i) (leBytes 4 v)
def accGet (m : Mem) (i : Nat) : Nat := leNat (m.raw (4 * i) 4)

/-- Results of the last member of their chains, by linear index of S: narrowed, kept for the finals, and written where D is
this chip's. -/
def CollCtx.finish (c : CollCtx) (vals : List (Nat × Nat)) (n : CollInstance) (s : State) : State × CollInstance :=
  let fin := vals.map fun v => (v.1, narrowColl c.rec_ (c.key v.1) v.2)
  let out := fin.filterMap fun v => (c.mine v.1).map fun j => (j, v.2.bits, false)
  let n := { n with
    acc := fin.foldl (fun m v => accPut m v.1 v.2.bits) n.acc
    sums := addSums n.sums [(fin.filter (·.2.saturated)).length, (fin.filter (·.2.nanNarrowed)).length,
      c.nonfinite (out.map (·.2.1))] }
  c.storeD out n s

/-- Partial results that arrived are combined with this member's elements (R299). -/
def CollCtx.combineIn (c : CollCtx) (vals : List (Nat × Nat)) (n : CollInstance) (s : State) :
    State × CollInstance × Option CollFault :=
  match c.readS (vals.map (·.1)) s with
  | (s, .error f) => (s, n, some f)
  | (s, .ok own) =>
    let out := (vals.zip own).map fun v =>
      (v.1.1, combineColl c.rec_.red c.rec_.fmt v.1.2 (widenColl c.rec_.fmt v.2))
    let n := { n with
      acc := out.foldl (fun m v => accPut m v.1 v.2.1) n.acc
      sums := addSums n.sums [(out.filter (·.2.2)).length] }
    let (s, n) := c.finish ((out.filter fun v => c.isLast v.1).map fun v => (v.1, v.2.1)) n s
    (s, n, none)

/-- Elements moved to D as they are (R301). -/
def CollCtx.moveIn (c : CollCtx) (vals : List (Nat × Nat × Bool)) (n : CollInstance) (s : State) : State × CollInstance :=
  c.storeD vals { n with sums := addSums n.sums [0, 0, c.nonfinite (vals.map (·.2.1))] } s

/-- Values of a frame's payload: element ordinal k at bit k × width. -/
def payloadVals (w n : Nat) (data : List Byte) : List Nat :=
  let v := leNat data
  (List.range n).map fun k => v / 2 ^ (k * w) % 2 ^ w

/-- The work of taking frame f of stream k: combining reads S, and what this chip keeps is written to D. -/
def CollCtx.recvWork (c : CollCtx) (k e : Nat) (t : StreamSpec) (f : Nat) : CollWork :=
  ⟨workRecv k, e, (c.frameIdx t f).map fun i =>
    if t.kind = kindPart then (none, some i)
    else if t.kind = kindFinal then (none, c.mine i)
    else (some i, if c.isLast i then c.mine i else none)⟩

/-- The first `m` elements of a frame of a received stream taken, and the fault that stops it there. What is moved keeps its poison
(R380). -/
def CollCtx.takePart (c : CollCtx) (k : Nat) (t : StreamSpec) (f m : Nat) (out : Option CollFault) (data : List Byte)
    (poison : List Nat) (n : CollInstance) (s : State) : State × CollInstance × Option CollFault :=
  let idx := c.frameIdx t f
  let w := c.wireBits t.kind
  let bad (k : Nat) : Bool := (codewordsOf w [k * w]).any fun q => poison.contains (q + 1)
  let vals := ((idx.zip (payloadVals w idx.length data)).take m).mapIdx fun k v => (v.1, v.2, bad k)
  let n := { n.done (workRecv k) with sums := addSums n.sums [0, 0, 0, 0, (idx.length * w + 7) / 8] }
  if t.kind = kindPart then
    let (s, n) := c.moveIn vals n s
    (s, n, out)
  else if t.kind = kindFinal then
    let n := { n with
      acc := vals.foldl (fun m v => accPut m v.1 v.2.1) n.acc
      tainted := n.tainted ++ (vals.filter (·.2.2)).map (·.1) }
    let (s, n) := c.moveIn (vals.filterMap fun v => (c.mine v.1).map fun j => (j, v.2)) n s
    (s, n, out)
  else if (List.range idx.length).any bad then (s, n, some (stPoisonConsumed, 0, 0))
  else
    match c.combineIn (vals.map fun v => (v.1, if w = 16 then widenColl 0x1 v.2.1 else v.2.1)) n s with
    | (s, n, some f) => (s, n, some f)
    | (s, n, none) => (s, n, out)

/-- A frame of a received stream, taken in order. Elements before the first unowned access are done (R91). -/
def CollCtx.takeFrame (c : CollCtx) (k e : Nat) (t : StreamSpec) (f : Nat) (data : List Byte) (poison : List Nat)
    (n : CollInstance) (s : State) : State × CollInstance × Option CollFault :=
  let (m, out) := c.reach s (c.recvWork k e t f)
  c.takePart k t f m out data poison n s

/-- Frames of stream k taken in order, as far as they have come and their accesses may start. -/
def CollCtx.takeInOrder (c : CollCtx) (k : Nat) (t : StreamSpec) : Nat → CollInstance → State →
    State × CollInstance × Option CollFault
  | 0, n, s => (s, n, none)
  | fuel + 1, n, s =>
    match n.recvs[k]? with
    | none => (s, n, none)
    | some r =>
      match r.early.find? fun f => f.1 = r.taken with
      | none => (s, n, none)
      | some (f, e, data, poison) =>
        if (c.waits s (c.recvWork k e t f) n).isSome then (s, n, none)
        else
          match c.takeFrame k e t f data poison n s with
          | (s, n, some err) => (s, n, some err)
          | (s, n, none) =>
            let n := { n with recvs := n.recvs.modify k fun r =>
              { r with taken := r.taken + 1, early := r.early.filter fun g => g.1 != f } }
            CollCtx.takeInOrder c k t fuel n s

/-- Streams with their numbers. -/
def CollCtx.sendList (c : CollCtx) : List (Nat × StreamSpec) := c.sendSpecs.mapIdx fun k t => (k, t)
def CollCtx.recvList (c : CollCtx) : List (Nat × StreamSpec) := c.recvSpecs.mapIdx fun k t => (k, t)

/-- Every received stream goes as far as it may. -/
def CollCtx.takeAll (c : CollCtx) : List (Nat × StreamSpec) → CollInstance → State → State × CollInstance × Option CollFault
  | [], n, s => (s, n, none)
  | (k, t) :: ts, n, s =>
    match c.takeInOrder k t (c.frames t + 1) n s with
    | (s, n, some x) => (s, n, some x)
    | (s, n, none) => CollCtx.takeAll c ts n s

/-- Whether an element is ready in a stream to be sent: its partial or final result has come or begins here. -/
def CollCtx.ready (c : CollCtx) (n : CollInstance) (kind i : Nat) : Bool :=
  let got (knd : Nat) : Bool :=
    ((c.recvSpecs.zip n.recvs).any fun sr => sr.1.kind = knd &&
      match c.frameOf sr.1 i with
      | some f => f < sr.2.taken
      | none => false)
  if kind = kindPart then true
  else
    let pl := c.place (c.chunkOf i)
    if kind = kindPartial then pl = 0 || got kindPartial
    else if pl + 1 = c.size then got kindPartial else got kindFinal

/-- The engine and the physical port by which a member is reached: the engine of the logical port that the physical one stands for, which
of a pair is the other one while one of the two is out of service (R285, R287). -/
def CollCtx.wayTo (c : CollCtx) (s : State) (member f : Nat) : Option (Nat × Nat) :=
  (s.routePort c.x.pat (c.members.getD member 0) 1 f).map fun p =>
    ((c.x.pat.engineOf (s.rport p).standsFor.toNat).getD 0, p)

/-- ARG of a stream frame (Table 15-8). -/
def streamArg (index : Nat) (tag : BitVec 16) (dest : Nat) : BitVec 64 :=
  BitVec.ofNat 64 (index * 2 ^ 34 + tag.toNat * 2 ^ 18 + dest)

/-- An element of a stream to be sent is read from S: it is moved, or the chain of its chunk begins on this member. -/
def CollCtx.fromS (c : CollCtx) (kind i : Nat) : Bool :=
  kind = kindPart || (kind = kindPartial && c.place (c.chunkOf i) = 0)

/-- The work of sending frame f of stream k, by the engine of the port it leaves on (R285). -/
def CollCtx.sendWork (c : CollCtx) (k e : Nat) (t : StreamSpec) (f : Nat) : CollWork :=
  ⟨workSend k, e, (c.frameIdx t f).map fun i => (if c.fromS t.kind i then some i else none, none)⟩

/-- Elements packed for the wire into whole codewords. -/
def packElems (w : Nat) (vs : List Nat) : List Byte :=
  leBytes ((vs.length * w + 255) / 256 * 32) ((vs.mapIdx fun k v => v % 2 ^ w * 2 ^ (k * w)).foldl (· + ·) 0)

/-- Frame f of a stream: its bytes and its poisoned codewords. -/
def CollCtx.frameData (c : CollCtx) (k e : Nat) (t : StreamSpec) (f : Nat) (n : CollInstance) (s : State) :
    State × Except CollFault (List Byte × List Nat) :=
  let idx := c.frameIdx t f
  let w := c.wireBits t.kind
  let (m, out) := c.reach s (c.sendWork k e t f)
  let own := (idx.take m).filter (c.fromS t.kind)
  if t.kind = kindPart then
    let (s, vs) := c.carryS own s
    let bad := sortedSet ((vs.mapIdx fun k v => (k, v.2)).flatMap fun v =>
      if v.2 then (codewordsOf w [v.1 * w]).map (· + 1) else [])
    match out with
    | some x => (s, .error x)
    | none => (s, .ok (packElems w (vs.map (·.1)), bad))
  else
    match c.readS own s with
    | (s, .error x) => (s, .error x)
    | (s, .ok vs) =>
      match out with
      | some x => (s, .error x)
      | none =>
        let mine := (own.zip vs).foldl (fun m v => accPut m v.1 (widenColl c.rec_.fmt v.2)) n.acc
        let bad := if t.kind = kindFinal then sortedSet ((idx.mapIdx fun k i => (k, i)).flatMap fun e =>
            if n.tainted.contains e.2 then (codewordsOf w [e.1 * w]).map (· + 1) else []) else []
        (s, .ok (packElems w (idx.map fun i =>
          let v := accGet mine i
          if t.kind = kindPartial ∧ w = 16 then v / 2 ^ 16 else v), bad))

/-- The frames of send stream k that may go: its START is held, their data are ready, and their accesses may start. -/
def CollCtx.sendReady (c : CollCtx) (k : Nat) (t : StreamSpec) : Nat → CollInstance → State →
    State × CollInstance × Option CollFault
  | 0, n, s => (s, n, none)
  | fuel + 1, n, s =>
    match n.sends[k]? with
    | none => (s, n, none)
    | some d =>
      match d.tag, c.wayTo s t.peer d.sent with
      | some tag, some (e, p) =>
        if d.sent < c.frames t && (c.frameIdx t d.sent).all (c.ready n t.kind)
            && (c.waits s (c.sendWork k e t d.sent) n).isNone then
          match c.frameData k e t d.sent n s with
          | (s, .error x) => (s, n, some x)
          | (s, .ok (data, bad)) =>
            let fr := rawFrame 1 (data.length / 32) e (streamArg d.sent tag (c.members.getD t.peer 0)) data bad
            let len := c.frameBytes t d.sent
            let n := { n.done (workSend k) with
              sends := n.sends.modify k fun d => { d with sent := d.sent + 1 }
              sums := addSums n.sums [0, 0, 0, len] }
            CollCtx.sendReady c k t fuel n (s.xmit p fr)
        else (s, n, none)
      | _, _ => (s, n, none)

/-- Every send stream goes as far as it may. -/
def CollCtx.sendAll (c : CollCtx) : List (Nat × StreamSpec) → CollInstance → State → State × CollInstance × Option CollFault
  | [], n, s => (s, n, none)
  | (k, t) :: ts, n, s =>
    match c.sendReady k t (c.frames t + 1) n s with
    | (s, n, some x) => (s, n, some x)
    | (s, n, none) => CollCtx.sendAll c ts n s

/-- An instance put back into the running attempt. -/
def State.putColl (s : State) (n : CollInstance) : State :=
  { s with run := s.run.map fun r => { r with colls := r.colls.map fun m => if m.collId = n.collId then n else m } }

/-- The fault of a collective: of the issuing cluster, with the engine that issued it or the slot table as SOURCE. -/
def CollCtx.fail (c : CollCtx) (n : CollInstance) (f : CollFault) (s : State) : State :=
  let pc := BitVec.ofNat 18 c.x.entry.pc
  if f.1 = stSlotCollision then s.faultPour n.g f.2.1 f.1 pc (s.boardAddr (untranslate c.x.pat f.2.2))
  else s.faultPour n.g n.eng.toNat f.1 pc f.2.2

/-- The part of an operation that crosses no port, element by element as S and D: a member's own part of a move (R301), and
with G = 1 the whole reduction. -/
def CollCtx.ownPart (c : CollCtx) : List (Nat × Nat) :=
  let e := c.elems
  let g := max 1 c.size
  let part (s d n : Nat) : List (Nat × Nat) := (List.range n).map fun i => (s + i, d + i)
  match c.rec_.op with
  | 1 => if c.size ≤ 1 then part 0 0 e else []
  | 2 => if c.size ≤ 1 then part 0 0 e else []
  | 3 => part 0 (c.q * c.s.count) c.s.count
  | 4 => part (c.q * (e / g)) (c.q * (e / g)) (e / g)
  | 5 => if c.rec_.peer = c.q then part 0 0 c.s.count else []
  | _ => []

/-- The work of the own part, done by LOCAL_ENGINE. -/
def CollCtx.beginWork (c : CollCtx) : CollWork :=
  ⟨workBegin, c.rec_.localEngine, c.ownPart.map fun e => (some e.1, some e.2)⟩

/-- The first `m` elements of the own part done, and the fault that stops it there. -/
def CollCtx.beginPart (c : CollCtx) (m : Nat) (out : Option CollFault) (n : CollInstance) (s : State) :
    State × CollInstance × Option CollFault :=
  let part := c.ownPart.take m
  if c.rec_.op = 1 ∨ c.rec_.op = 2 then
    match c.readS (part.map (·.1)) s with
    | (s, .error f) => (s, n, some f)
    | (s, .ok vs) =>
      let (s, n) := c.finish ((part.zip vs).map fun v => (v.1.1, widenColl c.rec_.fmt v.2)) n s
      (s, n, out)
  else
    let (s, vs) := c.carryS (part.map (·.1)) s
    let (s, n) := c.moveIn ((part.zip vs).map fun v => (v.1.2, v.2)) n s
    (s, n, out)

/-- The own part done, once its accesses may start. -/
def CollCtx.begin_ (c : CollCtx) (n : CollInstance) (s : State) : State × CollInstance × Option CollFault :=
  if n.begun || (c.waits s c.beginWork n).isSome then (s, n, none)
  else
    let (m, out) := c.reach s c.beginWork
    c.beginPart m out { n.done workBegin with begun := true } s

/-- The elements of a work, from its first on, whose accesses have all been admitted. -/
def CollCtx.admitted (c : CollCtx) (s : State) (wk : CollWork) (n : CollInstance) : Nat :=
  let die := s.engineDie c.x.pat wk.eng
  let limit := ((c.miss s wk).map (·.1)).getD wk.els.length
  (((c.accesses wk).find? fun a =>
    a.1 < limit && !accessFree die (32 * a.2.2) && !n.started.contains (wk.id, a.2.1, a.2.2)).map (·.1)).getD limit

/-- What an instance that stops still writes: of the own part and of each frame that has come, the elements whose accesses have been
admitted (R92). -/
def CollCtx.land (c : CollCtx) (n : CollInstance) (s : State) : State :=
  let (s, n) := if n.begun then (s, n) else
    let (s, n, _) := c.beginPart (c.admitted s c.beginWork n) none n s
    (s, n)
  (c.recvSpecs.mapIdx fun k t => (k, t)).foldl
    (fun s kt => match n.recvs[kt.1]? with
      | none => s
      | some r => match r.early.find? fun f => f.1 = r.taken with
        | none => s
        | some (f, e, data, poison) =>
          (c.takePart kt.1 kt.2 f (c.admitted s (c.recvWork kt.1 e kt.2 f) n) none data poison n s).1) s

/-- An instance goes on as far as it may: its own part, what it has received, what it has to send. -/
def CollCtx.progress (c : CollCtx) (n : CollInstance) (s : State) : State × CollInstance × Option CollFault :=
  match c.begin_ n s with
  | (s, n, some f) => (s, n, some f)
  | (s, n, none) =>
    match c.takeAll c.recvList n s with
    | (s, n, some f) => (s, n, some f)
    | (s, n, none) => c.sendAll c.sendList n s

/-- An instance that has gone on, put back, and its fault raised. -/
def CollCtx.advance (c : CollCtx) (n : CollInstance) (s : State) : State :=
  match c.progress n s with
  | (s, n, some f) => c.fail n f (s.putColl n)
  | (s, n, none) => s.putColl n

/-- The works of an instance whose accesses may be waiting: the own part, the next frame of each stream that has come, and the
next frame of each stream that may go. -/
def CollCtx.works (c : CollCtx) (n : CollInstance) (s : State) : List CollWork :=
  (if n.begun then [] else [c.beginWork])
    ++ (c.recvList.filterMap fun t => n.recvs[t.1]?.bind fun r =>
      (r.early.find? fun f => f.1 = r.taken).map fun f => c.recvWork t.1 f.2.1 t.2 f.1)
    ++ c.sendList.filterMap fun t => n.sends[t.1]?.bind fun d =>
      match d.tag, c.wayTo s t.2.peer d.sent with
      | some _, some (e, _) =>
        if d.sent < c.frames t.2 && (c.frameIdx t.2 d.sent).all (c.ready n t.2.kind) then some (c.sendWork t.1 e t.2 d.sent) else none
      | _, _ => none

end Sys2Proof.Machine
end

