-- ==== Sys2Proof/Machine/CollOps.lean ====
section
/-! DEFINITION. The issue of COPY and of the collectives, STARTs and stream frames as they arrive (R290, R293 to R301). -/

namespace Sys2Proof.Machine

/-! ### STARTs (R295, Table 15-8) -/

/-- ORDER, RED, FMT and OP of a START. -/
def shapeOf (r : CollRecord) (op : Nat) : BitVec 11 :=
  BitVec.ofNat 11 ((if r.order then 1024 else 0) + r.red * 256 + r.fmt * 16 + op)

/-- ARG of a control frame. -/
def controlArg (tag : BitVec 16) (src dest kind : Nat) : BitVec 64 :=
  BitVec.ofNat 64 (tag.toNat * 2 ^ 44 + src * 2 ^ 26 + dest * 2 ^ 8 + kind)

/-- Codeword 1 of a START. -/
def startWord (bytes inst size kind : Nat) (loc : Bool) (shape : BitVec 11) (collId : Nat) : Nat :=
  bytes * 2 ^ 128 + inst * 2 ^ 64 + size * 2 ^ 32 + kind * 2 ^ 28 + (if loc then 2 ^ 27 else 0) + shape.toNat * 2 ^ 16 + collId

/-- The STARTs of an instance, one for each stream it receives. -/
def CollCtx.sendStarts (c : CollCtx) (n : CollInstance) (s : State) : State :=
  (c.recvSpecs.zip n.recvs).foldl
    (fun s t =>
      let dest := c.members.getD t.1.peer 0
      let w := startWord (c.bytes t.1) n.inst c.size t.1.kind c.local_ (shapeOf c.rec_ c.rec_.op) n.collId
      let f := rawFrame 5 1 0 (controlArg t.2.tag c.x.env.rank dest 1) (leBytes 32 w) []
      match s.routePort c.x.pat dest 5 0 with
      | some p => s.xmit p f
      | none => s) s

/-- A START read from its frame. -/
def parseStart (f : Frame) : HeldStart :=
  let a := f.arg.toNat
  let w := leNat (f.payload.take 32)
  { src := fieldOf a 26 18
    tag := BitVec.ofNat 16 (fieldOf a 44 16)
    collId := fieldOf w 0 16
    inst := fieldOf w 64 32
    size := fieldOf w 32 20
    bytes := fieldOf w 128 64
    kind := fieldOf w 28 2
    local_ := fieldOf w 27 1 = 1
    shape := BitVec.ofNat 11 (fieldOf w 16 11) }

/-- The send stream a START is for. -/
def CollCtx.startStream (c : CollCtx) (h : HeldStart) : Option (Nat × StreamSpec) :=
  c.sendList.find? fun t => c.members.getD t.2.peer 0 = h.src && t.2.kind = h.kind

/-- The sender's comparison of R295; a SEND is met by its RECV's START. -/
def CollCtx.startAgrees (c : CollCtx) (t : StreamSpec) (h : HeldStart) : Bool :=
  h.shape = shapeOf c.rec_ (if c.rec_.op = opSend then opRecv else c.rec_.op) && h.local_ == c.local_ && h.size = c.size
    && h.bytes = c.bytes t

/-- A START taken by the instance it names. -/
def CollCtx.takeStart (c : CollCtx) (h : HeldStart) (n : CollInstance) : Except Unit CollInstance :=
  match c.startStream h with
  | some (k, t) =>
    if c.startAgrees t h then .ok { n with sends := n.sends.modify k fun d => { d with tag := some h.tag } } else .error ()
  | none => .error ()

/-- The context of an instance in flight: its flight's entry on the cluster that issued it. -/
def State.collCtxOf (s : State) (n : CollInstance) : Option CollCtx :=
  match s.runPattern, (s.cl n.g).flight n.idx with
  | some p, some fl => some (collCtx (s.engCtx p n.g fl.entry false))
  | _, _ => none

/-! ### The stop of a faulted attempt (R92) -/

/-- A copy in flight that stops still writes the codewords whose write has been admitted. -/
def landCopy (g : Nat) (fl : Flight) (s : State) : State :=
  match s.runPattern, fl.copy with
  | some p, some cs =>
    let pl := (copyCtxOf p g fl.eng (s.engCtx p g fl.entry fl.deferred)).plan
    if cs.done || readWant pl cs != 0 || pl.dstPeer.isSome then s
    else
      let (vals, ev) := cs.group g pl.w pl.unit
      let s := s.noteAll s.runPour ev
      let els := vals.mapIdx fun k v => (pl.dst.getD (cs.next + k) 0, v)
      let new := (Patch.writeAll pl.w [] (els.map fun e => (e.1, e.2.1))).filter fun t => cs.started.contains t.1
      (carryPatch new (codewordsOf pl.w ((els.filter (·.2.2)).map (·.1))) ([], []) s).1
  | _, _ => s

/-- The accesses that have been admitted are completed, of every copy and every collective in flight. -/
def State.landAll (s : State) : State :=
  let s := s.clusters.foldl (fun t c => c.2.flights.foldl (fun t fl => landCopy c.1 fl t) t) s
  ((s.run.map (·.colls)).getD []).foldl (fun t n => match t.collCtxOf n with
    | some c => c.land n t
    | none => t) s

/-- The cycle of the attempt's first fault ends: every cluster stops, and what has been admitted completes. -/
def State.closeCycle (s : State) : State :=
  if (s.run.bind (·.stopAt)).isSome then
    { s.landAll.stopClusters with run := s.landAll.run.map fun (r : RunCtx) => { r with stopAt := none } }
  else s

/-- The running attempt ends for a reason that no cluster detects, and stops. -/
def State.stopAttempt (s : State) (status : BitVec 16) (replay : Bool) : State := (s.endAttempt status replay).closeCycle

/-- A START of this attempt for an instance in flight. -/
def State.startFor (s : State) (h : HeldStart) : Option CollInstance :=
  s.run.bind fun r =>
    if r.fault.isNone ∧ h.tag.toNat / 2 ^ 15 = r.attempt then r.colls.find? fun n => n.collId = h.collId && n.inst = h.inst
    else none

/-- A START that has arrived for this chip: taken by its instance, or held until that is reached (R295). -/
def takeStartFrame (f : Frame) (s : State) : State :=
  let h := parseStart f
  match s.startFor h with
  | none => { s with runner := { s.runner with held := s.runner.held ++ [h] } }
  | some n =>
    match s.collCtxOf n with
    | none => s
    | some c =>
      match c.takeStart h n with
      | .error _ => c.fail n (stTopology, 0, 0) s
      | .ok n => c.advance n s

/-- The STARTs held for an instance taken at its issue. -/
def CollCtx.takeHeld (c : CollCtx) : List HeldStart → CollInstance → Except Unit CollInstance
  | [], n => .ok n
  | h :: hs, n =>
    match c.takeStart h n with
    | .error e => .error e
    | .ok n => CollCtx.takeHeld c hs n

/-- What follows the issue of a COLL: its STARTs go out, held STARTs are taken, its own part is done, and what may be sent
is sent. -/
def collAfterIssue (g idx : Nat) (s : State) : State :=
  match s.run.bind fun r => r.colls.find? fun n => n.g = g && n.idx = idx with
  | none => s
  | some n =>
    match s.collCtxOf n with
    | none => s
    | some c =>
      let s := c.sendStarts n s
      let mine (h : HeldStart) : Bool := h.collId = n.collId && h.inst = n.inst && (s.startFor h).isSome
      let hs := s.runner.held.filter mine
      let s := { s with runner := { s.runner with held := s.runner.held.filter fun h => !mine h } }
      match c.takeHeld hs n with
      | .error _ => c.fail n (stTopology, 0, 0) s
      | .ok n => c.advance n s

/-! ### The COLL operation -/

/-- Rows 8 and 9 of Table 15-7. -/
def collLate (x : EngCtx) (s : State) : Option (BitVec 16) :=
  let c := collCtx x
  let peers := (c.sendSpecs ++ c.recvSpecs).map fun t => c.members.getD t.peer 0
  let bound := (s.run.map fun r => Tab.get 0 r.binding c.ls.collId).getD 0
  firstFail
    [ orElse (peers.all fun d => (x.pat.routeOf d).isSome) stTopology
    , orElse (bound = 0 || bound = x.g + 1) stSlotCollision ]

/-- Tags for a number of streams from a counter on, none of them in use, and the counter after them. -/
def takeTags (attempt : Nat) (used : List (BitVec 16)) : Nat → Nat → List (BitVec 16) × Nat
  | 0, n => ([], n)
  | k + 1, n =>
    let m := tagFrom attempt used n
    let (ts, e) := takeTags attempt used k (m + 1)
    (BitVec.ofNat 16 (attempt * 2 ^ 15 + m % 2 ^ 15) :: ts, e)

/-- A COLL as it issues: its instance, with a tag for each stream it will receive. -/
def collPerform (eng : Engine) (x : EngCtx) (s : State) : Performed :=
  let c := collCtx x
  match s.run with
  | none => (s, .ok (Done.plain (List.replicate 8 0) 0))
  | some r =>
    let (tags, next) := takeTags r.attempt s.tagsInUse c.recvSpecs.length r.nextTag
    let recvs := (c.recvSpecs.zip tags).map fun t =>
      (⟨c.members.getD t.1.peer 0, t.1.kind, t.2, c.bytes t.1, 0, []⟩ : RecvStream)
    let sends := c.sendSpecs.map fun t => (⟨c.members.getD t.peer 0, t.kind, none, c.bytes t, 0⟩ : SendStream)
    let n : CollInstance := ⟨c.ls.collId, Tab.get 0 r.instances c.ls.collId, x.g, eng, (s.cl x.g).issues, c.local_, c.q, c.size,
      recvs, sends, Mem.zeros, [], [], [], false, [], [0, 0, 0, 0, 0]⟩
    let r := { r with
      binding := Tab.put 0 r.binding c.ls.collId (x.g + 1)
      instances := Tab.put 0 r.instances c.ls.collId (n.inst + 1)
      colls := r.colls ++ [n]
      nextTag := next }
    ({ s with run := some r }, .ok { Done.plain (List.replicate 8 0) 0 with coll := some c.ls.collId })

/-- The COLL operation. -/
def collOp (eng : Engine) : EngineOp where
  descs x := (parseLs x.rec_).descs
  check := collCheck
  late := collLate
  buffers := collBuffers
  prints := collPrints
  time _ _ := 0
  permuting _ := false
  perform := collPerform eng

/-! ### The commands -/

/-- The OPCs LD and ST define. -/
def lsOpcs : List Nat := [1, 2]

/-- A COLL record whose collective record has an operation; a record whose OPC or operation is undefined answers to every
command of its engine, and check 1 refuses it. -/
def collIs (p : Option Pattern) (op : Nat) (rec_ : Nat) : Bool :=
  if rec_ % 256 = 2 then
    let o := (p.map fun p => (collRecord p (fieldOf rec_ 64 16)).op).getD 0
    o = op || o = 0 || 7 < o
  else rec_ % 256 != 1

/-- The queue head of LD or ST issues, and its accesses begin. -/
def issueMove (g : Nat) (eng : Engine) (isOp : Nat → Bool) (op : EngineOp) (s : State) : State :=
  let idx := (s.cl g).issues
  let s := issueHead g eng isOp op s
  match (s.cl g).flight idx with
  | none => s
  | some fl => if fl.coll.isSome then collAfterIssue g idx s else advanceFree g idx s

abbrev MoveOut := Host.Outcome State Fault Refusal

/-- COPY (R290). -/
def execCopy (g : Fin 128) (eng : MoveEngine) (s : State) : MoveOut :=
  .next (issueMove g eng.toEngine (fun r => r % 256 = 1 || !lsOpcs.contains (r % 256)) (copyOp eng.toEngine) s)
/-- ALL_REDUCE (R299). -/
def execAllReduce (g : Fin 128) (eng : MoveEngine) (s : State) : MoveOut :=
  .next (issueMove g eng.toEngine (collIs s.runPattern opAllReduce) (collOp eng.toEngine) s)
/-- REDUCE_SCATTER (R299). -/
def execReduceScatter (g : Fin 128) (eng : MoveEngine) (s : State) : MoveOut :=
  .next (issueMove g eng.toEngine (collIs s.runPattern opReduceScatter) (collOp eng.toEngine) s)
/-- ALL_GATHER (R301). -/
def execAllGather (g : Fin 128) (eng : MoveEngine) (s : State) : MoveOut :=
  .next (issueMove g eng.toEngine (collIs s.runPattern opAllGather) (collOp eng.toEngine) s)
/-- ALL_TO_ALL (R301). -/
def execAllToAll (g : Fin 128) (eng : MoveEngine) (s : State) : MoveOut :=
  .next (issueMove g eng.toEngine (collIs s.runPattern opAllToAll) (collOp eng.toEngine) s)
/-- BROADCAST (R301). -/
def execBroadcast (g : Fin 128) (eng : MoveEngine) (s : State) : MoveOut :=
  .next (issueMove g eng.toEngine (collIs s.runPattern opBroadcast) (collOp eng.toEngine) s)
/-- SEND (R293). -/
def execSend (g : Fin 128) (eng : MoveEngine) (s : State) : MoveOut :=
  .next (issueMove g eng.toEngine (collIs s.runPattern opSend) (collOp eng.toEngine) s)
/-- RECV (R293). -/
def execRecv (g : Fin 128) (eng : MoveEngine) (s : State) : MoveOut :=
  .next (issueMove g eng.toEngine (collIs s.runPattern opRecv) (collOp eng.toEngine) s)

/-- Lanes of a floor-link mask. -/
def laneCount (m : BitVec 400) : Nat := ((List.range 400).filter fun i => m.getLsbD i).length

/-- A floor-link direction has two or more lanes out, so that its slots stop (R319). -/
def State.floorStopped (s : State) (dir : Nat) : Bool :=
  let v := if dir = 0 then s.light.floorOut0 else s.light.floorOut1
  v &&& (v - 1) != 0

/-- An access crosses no floor-link direction that has stopped. -/
def State.floorRuns (s : State) (die : Nat) (write : Bool) (a : Nat) : Bool :=
  match floorDir die write a with
  | none => true
  | some d => !s.floorStopped d

/-- The waiting access of a copy in flight starts in a phase or slot its owner owns; one that owns neither this phase nor this
slot waits on. -/
def phaseCopy (g : Nat) (eng : Engine) (idx phase : Nat) (s : State) : State :=
  match (s.cl g).flight idx with
  | some fl =>
    if fl.eng = eng then advanceCopy g idx (fun x w a => accessIn x.pat x.q x.die w a phase && s.floorRuns x.die w a) s else s
  | none => s

/-- The work of an instance that a stream engine does and whose next access may start in a phase or slot: the instance with
that access started, and the access. -/
def CollCtx.startAccess (c : CollCtx) (e phase : Nat) (n : CollInstance) (s : State) : Option (CollInstance × Bool × Nat) :=
  let die := s.engineDie c.x.pat e
  (c.works n s).findSome? fun wk =>
    if wk.eng = e then
      (c.waits s wk n).bind fun a =>
        if accessIn c.x.pat (.stream e) die a.1 (32 * a.2) phase && s.floorRuns die a.1 (32 * a.2) then
          some ({ n with started := (wk.id, a.1, a.2) :: n.started }, a)
        else none
    else none

/-- The first waiting access of a stream engine that may start in a phase or slot starts, and its instance goes on. -/
def phaseStream (e phase : Nat) (s : State) : State :=
  let hit := s.run.bind fun r =>
    if r.fault.isSome then none
    else r.colls.findSome? fun n => (s.collCtxOf n).bind fun c => (c.startAccess e phase n s).map fun n => (c, n)
  match hit with
  | some (c, n, a) => c.advance n (s.floorCarry (s.engineDie c.x.pat e) a.1 (32 * a.2))
  | none => s

/-- HBM_PHASE_ACCESS (R89): in a phase or slot that has come, the waiting access of a requester starts: of a copy in flight, or
of a stream engine's work on a collective. -/
def execHbmPhaseAccess (unit : Fin 128) (eng : PhaseEngine) (idx : Nat) (phase : Nat) (s : State) : MoveOut :=
  match eng with
  | .move e => .next (phaseCopy unit e.toEngine idx phase s)
  | .stream => .next (phaseStream unit phase s)

/-! ### Stream frames -/

/-- TAG, INDEX and DEST_RANK of a stream frame (Table 15-8). -/
def frameTag (f : Frame) : BitVec 16 := BitVec.ofNat 16 (fieldOf f.arg.toNat 18 16)
def frameIndex (f : Frame) : Nat := fieldOf f.arg.toNat 34 30
def frameDest (f : Frame) : Nat := if f.type = 5 then fieldOf f.arg.toNat 8 18 else fieldOf f.arg.toNat 0 18

/-- The instance and the stream a tag was assigned to in the running attempt. -/
def State.streamOf (s : State) (tag : BitVec 16) : Option (CollInstance × Nat) :=
  s.run.bind fun r =>
    if r.fault.isSome then none
    else r.colls.findSome? fun n => (n.recvs.findIdx? fun t => t.tag = tag).map fun k => (n, k)

/-- A stream frame for this chip, on a logical port: combined, written or forwarded, or discarded as stale (R298). -/
def takeStreamFrame (p lp : Nat) (f : Frame) (s : State) : State :=
  match s.streamOf (frameTag f) with
  | none => s.count (ctrRunner (s.unitOf p) 7) 1
  | some (n, k) =>
    match s.collCtxOf n with
    | none => s.count (ctrRunner (s.unitOf p) 7) 1
    | some c =>
      let e := (c.x.pat.engineOf lp).getD 0
      let i := frameIndex f
      let n := { n with recvs := n.recvs.modify k fun r =>
          if i < r.taken ∨ r.early.any (fun g => g.1 = i) then r
          else { r with early := r.early ++ [(i, e, f.payload, f.poison)] } }
      c.advance n s

/-- Every stream of an instance has come and gone (R297). -/
def CollCtx.complete (c : CollCtx) (n : CollInstance) : Bool :=
  n.begun && (c.recvSpecs.zip n.recvs).all (fun t => t.2.taken = c.frames t.1) &&
    (c.sendSpecs.zip n.sends).all fun t => t.2.sent = c.frames t.1

end Sys2Proof.Machine
end

