-- ==== Sys2Proof/Machine/Matrix.lean ====
section
/-! DEFINITION. The matrix engine: WLOAD and MATMUL (chapter 5, R152 to R154, R158). -/

namespace Sys2Proof.Machine

/-- The MX command record (Table 5-1). -/
structure MxRec where
  reserved : Nat
  wsDesc : Nat
  wDesc  : Nat
  asDesc : Nat
  aDesc  : Nat
  m      : Nat
  asSkip : Nat
  tileCount : Nat
  tile   : Nat
  wFmt   : Nat
  aFmt   : Nat
  asOrder : Bool
  wMx    : Bool
  aMx    : Bool
  ladle  : Bool
  acc    : Bool
  preload : Bool
  bank   : Bool
  orient : Bool
  form   : Nat
  opc    : Nat
deriving DecidableEq, Repr

/-- The record read from its 512 bits. -/
def parseMx (v : Nat) : MxRec where
  reserved := fieldOf v 128 384 + fieldOf v 42 6
  wsDesc := fieldOf v 112 16
  wDesc := fieldOf v 96 16
  asDesc := fieldOf v 80 16
  aDesc := fieldOf v 64 16
  m := fieldOf v 48 16
  asSkip := fieldOf v 37 5
  tileCount := fieldOf v 32 5
  tile := fieldOf v 26 6
  wFmt := fieldOf v 22 4
  aFmt := fieldOf v 18 4
  asOrder := fieldOf v 17 1 = 1
  wMx := fieldOf v 16 1 = 1
  aMx := fieldOf v 15 1 = 1
  ladle := fieldOf v 14 1 = 1
  acc := fieldOf v 13 1 = 1
  preload := fieldOf v 12 1 = 1
  bank := fieldOf v 11 1 = 1
  orient := fieldOf v 10 1 = 1
  form := fieldOf v 8 2
  opc := fieldOf v 0 8

/-- The pairing groups of R32. -/
inductive MxGroup where
  | fp32 | half | eight | four | int8 | int4
deriving DecidableEq, Repr

/-- The group of a format, where the matrix engine accepts it. -/
def mxGroup : Nat → Option MxGroup
  | 0x0 => some .fp32
  | 0x1 => some .half
  | 0x2 => some .half
  | 0x3 => some .eight
  | 0x4 => some .eight
  | 0x5 => some .eight
  | 0x6 => some .eight
  | 0x7 => some .four
  | 0xB => some .int8
  | 0xC => some .int8
  | 0xD => some .int4
  | _ => none

/-- L of R95. -/
def MxGroup.lanes : MxGroup → Nat
  | .fp32 => 1
  | .half => 1
  | .eight => 2
  | .int8 => 2
  | .four => 4
  | .int4 => 4

/-- P of R96. -/
def MxGroup.passes : MxGroup → Nat
  | .fp32 => 3
  | _ => 1

/-- An integer group (R106). -/
def MxGroup.isInt : MxGroup → Bool
  | .int8 => true
  | .int4 => true
  | _ => false

/-- D and W of R94. -/
def formDepth (f : Nat) : Nat := 128 / 2 ^ f
def formWidth (f : Nat) : Nat := 128 * 2 ^ f

/-- N_out of R95 for a form and a format. -/
def nOut (form fmt : Nat) : Nat := formWidth form * ((mxGroup fmt).map MxGroup.lanes).getD 1

/-- H of R103. -/
def tileHeight (n : Nat) : Nat := 16384 / n

/-- A WLOAD, and a record that loads a bank. -/
def MxRec.isWload (r : MxRec) : Bool := r.opc = 2
def MxRec.loads (r : MxRec) : Bool := r.isWload || r.preload

/-- The tiles a MATMUL names. -/
def MxRec.tiles (r : MxRec) : List Nat := if r.isWload then [] else (List.range r.tileCount).map (r.tile + ·)

/-- The descriptor addresses a record names, in ascending bit position. -/
def MxRec.descs (r : MxRec) : List Nat := [r.aDesc, r.asDesc, r.wDesc, r.wsDesc].filter (· != 0)

/-- Check 1 of Table 5-2: the fields R100 requires to be zero, and the addresses it requires. -/
def mxCheck1 (r : MxRec) : Bool :=
  let wl := r.isWload
  (r.opc = 1 || r.opc = 2) && r.form != 3 && r.reserved = 0
    && (!wl || (r.aDesc = 0 && r.asDesc = 0 && r.m = 0 && r.asSkip = 0 && r.tileCount = 0 && r.tile = 0 && r.aFmt = 0
        && !r.asOrder && !r.aMx && !r.ladle && !r.acc && !r.preload && !r.orient))
    && (r.loads || (r.wDesc = 0 && r.wsDesc = 0 && r.wFmt = 0 && !r.wMx))
    && (r.aMx || (r.asDesc = 0 && r.asSkip = 0 && !r.asOrder)) && (r.wMx || r.wsDesc = 0)
    && (!r.asOrder || r.asSkip = 0)
    && (wl || r.aDesc != 0) && (!r.loads || r.wDesc != 0) && (!r.aMx || r.asDesc != 0) && (!r.wMx || r.wsDesc != 0)

/-- A matrix input format (R31). -/
def mxFormats (f : Nat) : Bool := (mxGroup f).isSome

/-- The descriptors a record names with their positions, in the order of R72: all are read. -/
def mxUses (x : EngCtx) (r : MxRec) : List (DescUse × Desc) :=
  let use (scale : Bool) (a : Nat) : List (DescUse × Desc) :=
    if a = 0 then [] else [(⟨if scale then scaleFormats else mxFormats, false, false, false⟩, x.entry.desc a)]
  use false r.aDesc ++ use true r.asDesc ++ use false r.wDesc ++ use true r.wsDesc

/-- Checks 1 to 8 of Table 5-2, with R158 directly after check 1 and R152 at checks 3 and 4. -/
def mxCheck (x : EngCtx) : Option (BitVec 16) :=
  let r := parseMx x.rec_
  let uses := mxUses x r
  firstFail
    [ orElse (mxCheck1 r) stMalformed
    , orElse (!x.deferred || (r.bank && !r.preload)) stMalformed
    , orElse (r.descs.all fun a => goodDescAddr (fun a => (x.entry.desc a).kind) a) stMalformed
    , orElse ((r.isWload || mxFormats r.aFmt) && (!r.loads || mxFormats r.wFmt) && (!r.aMx || isMxCode r.aFmt)
        && (!r.wMx || isMxCode r.wFmt) && (!r.ladle || ([0x0, 0x1, 0x2].contains r.aFmt && !r.aMx))) stFormat
    , orElse ((!r.orient && !r.ladle) || r.form = 0) stMalformed
    , orElse (r.isWload || (1 ≤ r.tileCount && r.tileCount ≤ 16)) stMalformed
    , orElse (r.tile + r.tileCount ≤ 64 && r.tiles.all (tileAllowed x.res x.deferred)) stTilesExceeded
    , checkDescs x.env uses
    , orElse ((r.isWload || (x.entry.desc r.aDesc).fmt = r.aFmt) && (!r.loads || (x.entry.desc r.wDesc).fmt = r.wFmt)) stFormat
    , orElse (uses.all fun u => inOwnWindow x.env x.g u.2) stClusterMemory ]

/-- Check 9 for a bank being loaded. -/
def mxLoadCheck (x : EngCtx) (r : MxRec) : Option (BitVec 16) :=
  let d := x.entry.desc r.wDesc
  let sc := x.entry.desc r.wsDesc
  firstFail
    [ orElse (!r.wMx || d.extent 1 % 32 = 0) stFormat
    , orElse (d.rank = 2 && d.extent 1 ≤ formDepth r.form && d.extent 0 ≤ nOut r.form r.wFmt) stMalformed
    , orElse (!r.wMx || (sc.rank = 2 && sc.extent 0 = d.extent 0 && sc.extent 1 = d.extent 1 / 32)) stMalformed ]

/-- The bank a cluster holds. -/
def Cluster.bank (c : Cluster) (second : Bool) : Bank := if second then c.bank1 else c.bank0

/-- K_red and N_used of R99. -/
def kRed (r : MxRec) (b : Bank) : Nat := if r.orient then b.nW else b.kW
def nUsed (r : MxRec) (b : Bank) : Nat := if r.orient then b.kW else b.nW

/-- Checks 9 and 10 of Table 5-2, made at every issue. -/
def mxLate (x : EngCtx) (s : State) : Option (BitVec 16) :=
  let r := parseMx x.rec_
  if r.isWload then mxLoadCheck x r
  else
    let b := (s.cl x.g).bank r.bank
    let a := x.entry.desc r.aDesc
    let sc := x.entry.desc r.asDesc
    let k := kRed r b
    let grp := mxGroup r.aFmt
    firstFail
      [ orElse (b.valid && b.form = r.form) stMalformed
      , orElse (!r.aMx || b.kW % 32 = 0) stFormat
      , if r.preload then mxLoadCheck x r else none
      , orElse (a.rank = 2 && (if r.ladle then a.extent 0 = r.m && a.extent 1 = k
          else a.extent 0 = k && a.extent 1 = r.m)) stMalformed
      , orElse (!r.aMx || (sc.rank = 2 && (if r.asOrder then sc.extent 0 = r.m && sc.extent 1 = k / 32
          else sc.extent 1 = r.m && r.asSkip + k / 32 ≤ sc.extent 0))) stMalformed
      , orElse (1 ≤ r.m && r.m ≤ tileHeight (nOut r.form r.aFmt) * r.tileCount) stMalformed
      , orElse (grp = mxGroup b.fmt && r.aMx = b.mx) stFormat
      , orElse (!r.orient || grp = some .half || grp = some .fp32) stFormat
      , orElse (!r.preload || (mxGroup r.wFmt = grp && r.wMx = r.aMx)) stFormat ]

/-- The footprints of R104. -/
def mxPrints (x : EngCtx) (_s : State) : Prints :=
  let r := parseMx x.rec_
  { Prints.none with
    rd := r.descs.flatMap fun a => x.prints false (x.entry.desc a)
    tilesR := if r.acc then r.tiles else []
    tilesW := r.tiles }

/-- WL of R109 for a number of weight rows and columns. -/
def loadCycles (fmt : Nat) (mx : Bool) (k n : Nat) : Nat :=
  (k * n * widthBits fmt / 8 + (if mx then k / 32 * n else 0) + 511) / 512 + 16

/-- Cycles of the load a record makes. -/
def mxLoadTime (x : EngCtx) (r : MxRec) : Nat :=
  let d := x.entry.desc r.wDesc
  loadCycles r.wFmt r.wMx (d.extent 1) (d.extent 0)

/-- Table 5-4. -/
def mxTime (x : EngCtx) (_s : State) : Nat :=
  let r := parseMx x.rec_
  if r.isWload then mxLoadTime x r
  else
    let p := ((mxGroup r.aFmt).map MxGroup.passes).getD 1
    let t := p * r.m + p * formDepth r.form + 136
    if r.preload then max t (mxLoadTime x r) else t

/-- The byte of a bank's memory at which its scales begin. -/
def bankScaleBase : Nat := 65536

/-- A bank's contents from the weights and scales that the load read (R98, R107). -/
def bankOf (x : EngCtx) (r : MxRec) (ws scales : List Nat) : Bank :=
  let d := x.entry.desc r.wDesc
  let w := widthBits r.wFmt
  let vals := if r.wFmt = 0 then ws.map fun v => splitHi v * 2 ^ 16 + splitLo v else ws
  let cells := Patch.writeAll w [] (vals.mapIdx fun i v => (i * w, v))
  let cells := Patch.writeAll 8 cells (scales.mapIdx fun i v => (8 * (bankScaleBase + i), v))
  ⟨true, r.form, r.wFmt, r.wMx, d.extent 1, d.extent 0, (Mem.zeros.apply (.priv x.g) cells).1⟩

/-- A bank loaded: its weights, then its scales, read from the cluster. -/
def loadBank (x : EngCtx) (r : MxRec) (s : State) : State × Except (BitVec 16 × Nat) Bank :=
  match consume s (x.entry.desc r.wDesc).bitAddrs (widthBits r.wFmt) with
  | (s, .error e) => (s, .error e)
  | (s, .ok ws) =>
    if r.wMx then
      match consume s (x.entry.desc r.wsDesc).bitAddrs 8 with
      | (s, .error e) => (s, .error e)
      | (s, .ok sc) => (s, .ok (bankOf x r ws sc))
    else (s, .ok (bankOf x r ws []))

/-- WLOAD (R100): the bank becomes valid with its contents at completion (R97). -/
def wloadPerform (x : EngCtx) (s : State) : Performed :=
  let r := parseMx x.rec_
  match loadBank x r s with
  | (s, .error e) => (s, .error e)
  | (s, .ok b) => (s, .ok { Done.plain (List.replicate 8 0) (mxTime x s) with bank := some (r.bank, b) })

/-- Activation values of a MATMUL by (m, k), row by row: the elements' bits and, with A_MX, the scale of each. -/
def aIndex (r : MxRec) (k m kk : Nat) : Nat := if r.ladle then kk * r.m + m else m * k + kk

/-- Index of the scale of (m, block) in the scale tensor's order. -/
def asIndex (r : MxRec) (sc : Desc) (m b : Nat) : Nat :=
  if r.asOrder then b * sc.extent 0 + m else m * sc.extent 0 + r.asSkip + b

/-- An operand value of the float groups, scaled exactly (R48, R105). -/
def mxOperand (fmt : Nat) (mx : Bool) (bits scale : Nat) : Num := if mx then mxValue fmt bits scale else decodeNum fmt bits

/-- What the inner loop leaves of one output element: the word, and the additions that saturated. -/
structure MacOut where
  word : Nat
  sats : Nat
deriving DecidableEq, Repr

/-- One step of R105, R106 or R107. -/
def mxStep (g : MxGroup) (aFmt wFmt : Nat) (aMx wMx : Bool) (o : MacOut) (a as w ws : Nat) : MacOut :=
  if g.isInt then
    let av := (match formOf aFmt with | some (.uint n) => ((a % 2 ^ n : Nat) : Int) | some (.sint n) => signedOf n a | _ => 0)
    let wv := (match formOf wFmt with | some (.uint n) => ((w % 2 ^ n : Nat) : Int) | some (.sint n) => signedOf n w | _ => 0)
    let (v, sat) := saturate 32 (signedOf 32 o.word + av * wv)
    ⟨bitsOfInt 32 v, o.sats + if sat then 1 else 0⟩
  else if g = .fp32 then
    ⟨macStep32 o.word (splitHi a) (splitLo a) (w / 2 ^ 16) (w % 2 ^ 16), o.sats⟩
  else ⟨macStep o.word (mxOperand aFmt aMx a as) (mxOperand wFmt wMx w ws), o.sats⟩

/-- The chain of one output element, k ascending (R105). -/
def mxChain (g : MxGroup) (r : MxRec) (b : Bank) (av sv wv wsv : Array Nat) (sc : Desc) (kr m n : Nat) (start : Nat) : MacOut :=
  (List.range kr).foldl
    (fun o k =>
      let wi := if r.orient then n * b.nW + k else k * b.nW + n
      let asv := if r.aMx then sv.getD (asIndex r sc m (k / 32)) 0 else 0
      let wss := if b.mx then wsv.getD (k / 32 * b.nW + n) 0 else 0
      mxStep g r.aFmt b.fmt r.aMx b.mx o (av.getD (aIndex r kr m k) 0) asv (wv.getD wi 0) wss)
    ⟨start, 0⟩

/-- Bit addresses of a bank's weights and scales. -/
def bankAddrs (b : Bank) : List Nat := (List.range (b.kW * b.nW)).map (· * widthBits b.fmt)
def bankScaleAddrs (b : Bank) : List Nat :=
  if b.mx then (List.range (b.kW / 32 * b.nW)).map fun i => 8 * (bankScaleBase + i) else []

/-- A bank's cells read as MX reads them. -/
def consumeBank (s : State) (g : Nat) (second : Bool) (addrs : List Nat) (w : Nat) :
    State × Except (BitVec 16 × Nat) (List Nat) :=
  let b := (s.cl g).bank second
  let r := b.cells.readElems (.priv g) w addrs
  let nb := { b with cells := r.mem }
  let s := (s.updCl g fun c => if second then { c with bank1 := nb } else { c with bank0 := nb }).noteAll s.runPour r.events
  match r.status with
  | some (st, _) => (s, .error (st, 0))
  | none => (s, .ok r.vals)

/-- The output positions of a MATMUL in row order (R103). -/
def outPlaces (r : MxRec) (n nu : Nat) : List (Nat × Nat × Nat × Nat) :=
  let h := tileHeight n
  (List.range r.m).flatMap fun m => (List.range nu).map fun c => (m, c, r.tile + m / h, m % h * n + c)

/-- Everything a MATMUL reads: activations, their scales, the bank's weights and scales, and with ACC the old words. -/
def matmulReads (x : EngCtx) (r : MxRec) (s : State) :
    State × Except (BitVec 16 × Nat) (List Nat × List Nat × List Nat × List Nat × List Nat) :=
  match consume s (x.entry.desc r.aDesc).bitAddrs (widthBits r.aFmt) with
  | (s, .error e) => (s, .error e)
  | (s, .ok a) =>
    let sc := x.entry.desc r.asDesc
    let b := (s.cl x.g).bank r.bank
    let kb := kRed r b / 32
    let scaleAddrs := if r.aMx then
        (List.range r.m).flatMap fun m => (List.range kb).map fun i => sc.bitAddrs.getD (asIndex r sc m i) 0
      else []
    match consume s scaleAddrs 8 with
    | (s, .error e) => (s, .error e)
    | (s, .ok ss) =>
      -- the scales read, put back at their places in the scale tensor
      let full : Array Nat := ((List.range r.m).flatMap fun m => (List.range kb).map fun i => asIndex r sc m i).zip ss
        |>.foldl (fun (t : Array Nat) e => if h : e.1 < t.size then t.set e.1 e.2 else t)
          (Array.replicate (if r.aMx then sc.count else 0) 0)
      match consumeBank s x.g r.bank (bankAddrs b) (widthBits b.fmt) with
      | (s, .error e) => (s, .error e)
      | (s, .ok w) =>
        match consumeBank s x.g r.bank (bankScaleAddrs b) 8 with
        | (s, .error e) => (s, .error e)
        | (s, .ok ws) =>
          let places := outPlaces r (nOut r.form r.aFmt) (nUsed r b)
          match consumeTiles s x.g (if r.acc then places.map fun p => tileBit p.2.2.1 p.2.2.2 else []) with
          | (s, .error e) => (s, .error e)
          | (s, .ok old) => (s, .ok (a, full.toList, w, ws, old))

/-- MATMUL (R105 to R107, R103), and with PRELOAD the load of the other bank. Its tiles and the bank become visible at its completion
(R109). -/
def matmulPerform (x : EngCtx) (s : State) : Performed :=
  let r := parseMx x.rec_
  match matmulReads x r s with
  | (s, .error e) => (s, .error e)
  | (s, .ok (a, sv, w, ws, old)) =>
    let loaded : State × Except (BitVec 16 × Nat) (Option (Bool × Bank)) :=
      if r.preload then
        match loadBank x r s with
        | (s, .error e) => (s, .error e)
        | (s, .ok b) => (s, .ok (some (!r.bank, b)))
      else (s, .ok none)
    match loaded with
    | (s, .error e) => (s, .error e)
    | (s, .ok nb) =>
      let c := s.cl x.g
      let b := c.bank r.bank
      let g := (mxGroup r.aFmt).getD .fp32
      let sc := x.entry.desc r.asDesc
      let places := outPlaces r (nOut r.form r.aFmt) (nUsed r b)
      let fresh := if g.isInt then 0 else 0x80000000
      let (aA, sA, wA, wsA, oA) := (a.toArray, sv.toArray, w.toArray, ws.toArray, old.toArray)
      let outs := places.mapIdx fun i p =>
        (p, mxChain g r b aA sA wA wsA sc (kRed r b) p.1 p.2.1 (if r.acc then oA.getD i 0 else fresh))
      let patch := Patch.writeAll 32 [] (outs.map fun o => (tileBit o.1.2.2.1 o.1.2.2.2, o.2.word))
      let nonf := if g.isInt then 0 else (outs.filter fun o => isNonfinite 0 o.2.word).length
      let satTiles := sortedSet ((outs.filter fun o => o.2.sats != 0).map fun o => o.1.2.2.1)
      let newTiles := satTiles.filter fun t => !c.satFlags.getLsbD t
      let flags : BitVec 64 := satTiles.foldl (fun f t => f ||| (1#64 <<< t)) 0
      let sum := [satWord nonf, satWord (outs.foldl (fun k o => k + o.2.sats) 0), satWord newTiles.length,
        BitVec.ofNat 64 r.m, 0, 0, 0, 0]
      (s, .ok { Done.plain sum (mxTime x s) with bank := nb, tiles := some (patch, flags) })

/-- The two matrix operations. -/
def mxOp (perform : EngCtx → State → Performed) : EngineOp where
  descs x := (parseMx x.rec_).descs
  check := mxCheck
  late := mxLate
  buffers _ := none
  prints := mxPrints
  time := mxTime
  permuting _ := false
  perform := perform

def wloadOp : EngineOp := mxOp wloadPerform
def matmulOp : EngineOp := mxOp matmulPerform

end Sys2Proof.Machine
end

