-- ==== Sys2Proof/Machine/Drain.lean ====
section
/-! DEFINITION. The drain engine: DRAIN and TCLR (chapter 6, R158). -/

namespace Sys2Proof.Machine

/-- The DR command record (Table 6-2). -/
structure DrRec where
  reserved : Nat
  scaleImm : Nat
  biasDesc : Nat
  scaleDesc : Nat
  dsDesc   : Nat
  dDesc    : Nat
  cols     : Nat
  rows     : Nat
  zero     : Bool
  biasMode : Nat
  scaleMode : Nat
  act      : Nat
  seedX    : Nat
  dsOrder  : Bool
  clrSat   : Bool
  rmode    : Nat
  outMx    : Bool
  outFmt   : Nat
  rowLog   : Nat
  srcInt   : Bool
  tileCount : Nat
  tile     : Nat
  opc      : Nat
deriving DecidableEq, Repr

/-- The record read from its 512 bits. -/
def parseDr (v : Nat) : DrRec where
  reserved := fieldOf v 176 336 + fieldOf v 46 2
  scaleImm := fieldOf v 144 32
  biasDesc := fieldOf v 128 16
  scaleDesc := fieldOf v 112 16
  dsDesc := fieldOf v 96 16
  dDesc := fieldOf v 80 16
  cols := fieldOf v 64 16
  rows := fieldOf v 48 16
  zero := fieldOf v 45 1 = 1
  biasMode := fieldOf v 43 2
  scaleMode := fieldOf v 41 2
  act := fieldOf v 37 4
  seedX := fieldOf v 32 5
  dsOrder := fieldOf v 31 1 = 1
  clrSat := fieldOf v 30 1 = 1
  rmode := fieldOf v 28 2
  outMx := fieldOf v 27 1 = 1
  outFmt := fieldOf v 23 4
  rowLog := fieldOf v 20 3
  srcInt := fieldOf v 19 1 = 1
  tileCount := fieldOf v 14 5
  tile := fieldOf v 8 6
  opc := fieldOf v 0 8

/-- A TCLR. -/
def DrRec.isTclr (r : DrRec) : Bool := r.opc = 2

/-- ROW_LEN and H of R113. -/
def rowLen (log : Nat) : Nat := 128 * 2 ^ log
def viewHeight (log : Nat) : Nat := 16384 / rowLen log

/-- The tiles a record names. -/
def DrRec.tiles (r : DrRec) : List Nat := (List.range r.tileCount).map (r.tile + ·)

/-- The drain's output formats (Table 2-2). -/
def drainFormats (f : Nat) : Bool := f ≤ 7 || [0x9, 0xB, 0xC, 0xD].contains f

/-- The integer path of R122. -/
def DrRec.integerPath (r : DrRec) : Bool :=
  r.srcInt && [0x9, 0xB, 0xC, 0xD].contains r.outFmt && r.scaleMode = 0 && r.biasMode = 0

/-- Check 1 of Table 6-3. -/
def drCheck1 (r : DrRec) : Bool :=
  (r.opc = 1 || r.opc = 2) && r.rowLog ≤ 4 && r.rmode != 3 && r.act ≤ 6 && r.biasMode != 3 && r.reserved = 0
    && (if r.isTclr then
          r.scaleImm = 0 && r.biasDesc = 0 && r.scaleDesc = 0 && r.dsDesc = 0 && r.dDesc = 0 && r.cols = 0 && r.rows = 0
          && r.biasMode = 0 && r.scaleMode = 0 && r.act = 0 && r.seedX = 0 && !r.dsOrder && !r.clrSat && r.rmode = 0
          && !r.outMx && r.outFmt = 0 && r.rowLog = 0 && !r.srcInt
        else
          !r.zero && (r.scaleMode = 1 || r.scaleImm = 0) && ((r.biasMode = 0) == (r.biasDesc = 0))
          && ((r.scaleMode = 2 || r.scaleMode = 3) == (r.scaleDesc != 0)) && (r.outMx == (r.dsDesc != 0)) && r.dDesc != 0)

/-- Descriptor addresses, those read first (R72). -/
def DrRec.descs (r : DrRec) : List Nat := [r.scaleDesc, r.biasDesc, r.dDesc, r.dsDesc].filter (· != 0)

/-- The descriptors of a DRAIN with their positions. DESIGN CHOICE (log entry 72): Table 2-2 has no column for scale and bias
tensors, and row 3 of Table 3-4 admits every element format there; check 9 of Table 6-3 then asks for FP32 or BF16. DESIGN CHOICE (log
entry 80): ACCUM = 1 in the destination scale descriptor is refused by its format (FORMAT_UNSUPPORTED), and not by R63's use. -/
def drUses (x : EngCtx) (r : DrRec) : List (DescUse × Desc) :=
  let use (f : Nat → Bool) (w : Bool) (a : Nat) : List (DescUse × Desc) :=
    if a = 0 then [] else [(⟨f, w, w, false⟩, x.entry.desc a)]
  groupUses (use elementFormats false r.scaleDesc ++ use elementFormats false r.biasDesc)
    (use drainFormats true r.dDesc ++ use scaleFormats true r.dsDesc)

/-- A tile view of R113 lies within its tiles and the cluster's (checks 3 and 4 of Table 6-3). -/
def viewTilesOk (res : ClusterRes) (deferred : Bool) (tile count : Nat) : Bool :=
  tile + count ≤ 64 && ((List.range count).map (tile + ·)).all (tileAllowed res deferred)

/-- Table 6-3. -/
def drCheck (x : EngCtx) : Option (BitVec 16) :=
  let r := parseDr x.rec_
  let uses := drUses x r
  let d := x.entry.desc r.dDesc
  let ds := x.entry.desc r.dsDesc
  let sc := x.entry.desc r.scaleDesc
  let bi := x.entry.desc r.biasDesc
  let small (f : Nat) : Bool := f = 0x0 || f = 0x1
  let early := firstFail
    [ orElse (drCheck1 r) stMalformed
    , orElse (r.descs.all fun a => goodDescAddr (fun a => (x.entry.desc a).kind) a) stMalformed
    , orElse (1 ≤ r.tileCount && r.tileCount ≤ 16) stMalformed
    , orElse (viewTilesOk x.res x.deferred r.tile r.tileCount) stTilesExceeded ]
  if r.isTclr then early
  else
    firstFail
      [ early
      , orElse (drainFormats r.outFmt && (!r.outMx || isMxCode r.outFmt) && (!r.integerPath || r.act ≤ 1)) stFormat
      , orElse (1 ≤ r.rows && r.rows ≤ viewHeight r.rowLog * r.tileCount && 1 ≤ r.cols && r.cols ≤ rowLen r.rowLog) stMalformed
      , orElse (!r.outMx || r.cols % 32 = 0) stFormat
      , checkDescs x.env uses
      , orElse (d.fmt = r.outFmt && (r.scaleDesc = 0 || small sc.fmt) && (r.biasDesc = 0 || small bi.fmt)) stFormat
      , orElse (d.rank = 2 && d.extent 0 = r.cols && d.extent 1 = r.rows
          && (r.scaleDesc = 0 || (sc.rank = 1 && (if r.scaleMode = 2 then r.cols else r.rows) ≤ sc.extent 0))
          && (r.biasDesc = 0 || (bi.rank = 1 && (if r.biasMode = 1 then r.cols else r.rows) ≤ bi.extent 0))
          && (!r.outMx || (ds.rank = 2 && (if r.dsOrder then ds.extent 0 = r.rows && ds.extent 1 = r.cols / 32
              else ds.extent 0 = r.cols / 32 && ds.extent 1 = r.rows)))) stMalformed
      , orElse (uses.all fun u => inOwnWindow x.env x.g u.2) stClusterMemory ]

/-- The footprints of R126. -/
def drPrints (x : EngCtx) (_s : State) : Prints :=
  let r := parseDr x.rec_
  if r.isTclr then { Prints.none with tilesW := r.tiles }
  else
    { Prints.none with
      rd := ([r.scaleDesc, r.biasDesc].filter (· != 0)).flatMap fun a => x.prints false (x.entry.desc a)
      wr := ([r.dDesc, r.dsDesc].filter (· != 0)).flatMap fun a => x.prints true (x.entry.desc a)
      tilesR := r.tiles
      tilesW := if r.clrSat then r.tiles else [] }

/-- Table 6-5. -/
def drTime (x : EngCtx) (_s : State) : Nat :=
  let r := parseDr x.rec_
  if r.isTclr then 4 + (if r.zero then 256 * r.tileCount else 0)
  else
    let per := if (x.entry.desc r.dDesc).accum then 32 else 64
    r.rows * ((r.cols + per - 1) / per) + 48

/-- SAT_FLAGS of Table 6-6, as the flags stand at issue. -/
def satFlagsOf (c : Cluster) (tile count : Nat) : Nat :=
  ((List.range count).filter fun i => c.satFlags.getLsbD (tile + i)).foldl (fun n i => n + 2 ^ i) 0

/-- Flags of tiles cleared. -/
def clearFlags (f : BitVec 64) (tiles : List Nat) : BitVec 64 := tiles.foldl (fun f t => f &&& ~~~(1#64 <<< t)) f

/-- TCLR (R118). -/
def tclrPerform (x : EngCtx) (s : State) : Performed :=
  let r := parseDr x.rec_
  let flags := satFlagsOf (s.cl x.g) r.tile r.tileCount
  let s := s.updCl x.g fun c =>
    { c with
      satFlags := clearFlags c.satFlags r.tiles
      crucible := if r.zero then c.crucible.clear (65536 * r.tile) (65536 * r.tileCount) else c.crucible }
  (s, .ok (Done.plain [0, 0, 0, satWord flags, 0, 0, 0, 0] (drTime x s)))

/-- The word of a tile view's element (R113), as a bit address. -/
def viewBit (tile log m n : Nat) : Nat :=
  let h := viewHeight log
  tileBit (tile + m / h) (m % h * rowLen log + n)

/-- drain_value of R120 on the floating-point path: FP32 bits. -/
def drainValue (r : DrRec) (sc bi : Nat) (w : Nat) : Nat :=
  let v := if r.srcInt then roundRne 0x0 (.ofInt (signedOf 32 w)) else w
  let v := if r.scaleMode = 1 then fmul v r.scaleImm else if r.scaleMode = 0 then v else fmul v sc
  let v := if r.biasMode = 0 then v else fadd v bi
  activation r.act v

/-- A scale or bias tensor's first elements read and widened to FP32. -/
def drainOperand (x : EngCtx) (a n : Nat) (s : State) : State × Except (BitVec 16 × Nat) (Array Nat) :=
  if a = 0 then (s, .ok #[])
  else
    let d := x.entry.desc a
    match consume s (d.bitAddrs.take n) (widthBits d.fmt) with
    | (s, .error e) => (s, .error e)
    | (s, .ok v) => (s, .ok (v.map fun b => roundRne 0x0 (decodeNum d.fmt b)).toArray)

/-- Largest magnitude among non-NaN FP32 values, as FP32 bits (AMAX of Table 6-6). -/
def amaxOf (vs : List Nat) : Nat :=
  vs.foldl (fun a v => if fIsNan v then a else max a (fMagnitude v)) 0

/-- What a DRAIN writes from the words it has read. -/
def drainStore (x : EngCtx) (r : DrRec) (words : List Nat) (sc bi : Array Nat) (base : Patch) (s : State) :
    State × Counts × Nat :=
  let d := x.entry.desc r.dDesc
  let mode := modeOf r.rmode
  let keys := d.keyIndices x.env
  let key (i : Nat) : SrKey := ⟨x.entry.seed.toNat, d.tid, i⟩
  let places := (d.bitAddrs.zip keys).zip words
  if r.integerPath then
    let vals := places.map fun e =>
      let i := signedOf 32 e.2
      (⟨e.1.1, key e.1.2, true, .ofInt (if r.act = 1 then max i 0 else i)⟩ : ToStore)
    let (p, k) := storeAll r.outFmt d.accum mode s.mem base Counts.zero vals
    (s.applyPatch p, k, 0)
  else
    let at_ (v : Array Nat) (perCol : Bool) (i : Nat) : Nat := v.getD (if perCol then i % r.cols else i / r.cols) 0
    let outs := words.mapIdx fun i w => drainValue r (at_ sc (r.scaleMode = 2) i) (at_ bi (r.biasMode = 1) i) w
    let amax := amaxOf outs
    let unchanged := !r.srcInt && r.scaleMode = 0 && r.biasMode = 0 && r.act = 0 && r.outFmt = 0 && !d.accum
    if unchanged then
      let p := Patch.writeAll 32 [] (d.bitAddrs.zip words)
      (s.applyPatch p, ⟨0, 0, (words.filter (isNonfinite 0x0)).length⟩, amax)
    else
      let vals := (places.zip outs).map fun e => (⟨e.1.1.1, key e.1.1.2, false, decodeNum 0x0 e.2⟩ : ToStore)
      if r.outMx then
        let ds := x.entry.desc r.dsDesc
        let sb := ds.bitAddrs.toArray
        let nb := r.cols / 32
        let (p, k, scs) := storeMx r.outFmt mode [] Counts.zero (blocks32 (vals.length / 32 + 1) vals)
        (s.applyPatch (writeScales sb r.rows nb r.dsOrder (scs.map some).toArray p), k, amax)
      else
        let (p, k) := storeAll r.outFmt d.accum mode s.mem base Counts.zero vals
        (s.applyPatch p, k, amax)

/-- DRAIN (R120, R121). -/
def drainPerform (x : EngCtx) (s : State) : Performed :=
  let r := parseDr x.rec_
  let d := x.entry.desc r.dDesc
  let flags := satFlagsOf (s.cl x.g) r.tile r.tileCount
  let addrs := (List.range r.rows).flatMap fun m => (List.range r.cols).map fun n => viewBit r.tile r.rowLog m n
  match consumeTiles s x.g addrs with
  | (s, .error e) => (s, .error e)
  | (s, .ok words) =>
    match drainOperand x r.scaleDesc (if r.scaleMode = 2 then r.cols else r.rows) s with
    | (s, .error e) => (s, .error e)
    | (s, .ok sc) =>
      match drainOperand x r.biasDesc (if r.biasMode = 1 then r.cols else r.rows) s with
      | (s, .error e) => (s, .error e)
      | (s, .ok bi) =>
        match accumBase s d.accum (widthBits d.fmt) d.bitAddrs with
        | (s, .error e) => (s, .error e)
        | (s, .ok base) =>
          let (s, k, amax) := drainStore x r words sc bi base s
          let s := s.updCl x.g fun c => if r.clrSat then { c with satFlags := clearFlags c.satFlags r.tiles } else c
          (s, .ok (Done.plain [satWord k.saturated, satWord k.nanNarrowed, satWord k.nonfinite, satWord flags,
            BitVec.ofNat 64 (r.rows * r.cols), BitVec.ofNat 64 amax, 0, 0] (drTime x s)))

/-- The two drain operations. -/
def drOp (perform : EngCtx → State → Performed) : EngineOp where
  descs x := (parseDr x.rec_).descs
  check := drCheck
  late _ _ := none
  buffers _ := none
  prints := drPrints
  time := drTime
  permuting _ := false
  perform := perform

def drainOp : EngineOp := drOp drainPerform
def tclrOp : EngineOp := drOp tclrPerform

end Sys2Proof.Machine
end

