-- ==== Sys2Proof/Machine/Vector.lean ====
section
/-! DEFINITION. The vector engine: the VX record, its checks, its operands and its writes (R134 to R150). -/

namespace Sys2Proof.Machine

/-! ### The record (Tables 7-1 and 7-2) -/

/-- An operand specifier: its KIND and its low 29 bits. -/
structure VxSpec where
  /-- bit position of the specifier in the record -/
  pos  : Nat
  kind : Nat
  low  : Nat
deriving DecidableEq, Repr

/-- A specifier read from its 32 bits. -/
def vxSpec (v pos : Nat) : VxSpec := ⟨pos, fieldOf v (pos + 29) 3, fieldOf v pos 29⟩

/-- The VX command record (Table 7-1). -/
structure VxRec where
  reserved : Nat
  cols     : Nat
  rows     : Nat
  ds       : VxSpec
  as_      : VxSpec
  x        : VxSpec
  m        : VxSpec
  c        : VxSpec
  b        : VxSpec
  a        : VxSpec
  d        : VxSpec
  rowDiv   : Nat
  rdims    : Nat
  seedX    : Nat
  dsOrder  : Bool
  asOrder  : Bool
  dMx      : Bool
  aMx      : Bool
  maskZero : Bool
  rmode    : Nat
  wf       : Nat
  opc      : Nat
deriving DecidableEq, Repr

/-- The record read from its 512 bits. -/
def parseVx (v : Nat) : VxRec where
  reserved := fieldOf v 320 192 + fieldOf v 19 1
  cols := fieldOf v 304 16
  rows := fieldOf v 288 16
  ds := vxSpec v 256
  as_ := vxSpec v 224
  x := vxSpec v 192
  m := vxSpec v 160
  c := vxSpec v 128
  b := vxSpec v 96
  a := vxSpec v 64
  d := vxSpec v 32
  rowDiv := fieldOf v 28 4
  rdims := fieldOf v 25 3
  seedX := fieldOf v 20 5
  dsOrder := fieldOf v 18 1 = 1
  asOrder := fieldOf v 17 1 = 1
  dMx := fieldOf v 16 1 = 1
  aMx := fieldOf v 15 1 = 1
  maskZero := fieldOf v 14 1 = 1
  rmode := fieldOf v 12 2
  wf := fieldOf v 8 4
  opc := fieldOf v 0 8

/-- Fields of a specifier (Table 7-2). -/
def VxSpec.desc (p : VxSpec) : Nat := p.low % 2 ^ 16
def VxSpec.reg (p : VxSpec) : Nat := p.low % 32
def VxSpec.tile (p : VxSpec) : Nat := p.low % 64
def VxSpec.tileCount (p : VxSpec) : Nat := fieldOf p.low 6 5
def VxSpec.rowLog (p : VxSpec) : Nat := fieldOf p.low 11 3
def VxSpec.srcInt (p : VxSpec) : Bool := p.low.testBit 14
def VxSpec.tiles (p : VxSpec) : List Nat := (List.range p.tileCount).map (p.tile + ·)

/-- The bits Table 7-2 uses in a KIND. -/
def vxUsedBits : Nat → Nat
  | 1 => 16
  | 2 => 15
  | 3 => 5
  | 4 => 5
  | 5 => 5
  | _ => 0

/-- The reserved bits of a specifier are zero. -/
def VxSpec.clean (p : VxSpec) : Bool := 5 < p.kind || p.low / 2 ^ vxUsedBits p.kind = 0

/-- The eight specifiers in ascending bit position. -/
def VxRec.specs (r : VxRec) : List VxSpec := [r.d, r.a, r.b, r.c, r.m, r.x, r.as_, r.ds]

/-- Lanes per group and elements per register of a working format (R134). -/
def vxLanes : Nat → Nat
  | 0x1 => 128
  | 0x2 => 128
  | 0xA => 128
  | 0xE => 16
  | _ => 64
def vxCap : Nat → Nat
  | 0x1 => 128
  | 0x2 => 128
  | 0xA => 128
  | 0xE => 32
  | _ => 64

/-- The formats F and I of R140. -/
def vxF : List Nat := [0x0, 0x1, 0x2, 0xE]
def vxI : List Nat := [0x9, 0xA]

/-- R137: the sources readable in a working format. -/
def vxReadable : Nat → List Nat
  | 0x0 => [0x0, 0x1, 0x2, 0x3, 0x4, 0x5, 0x6, 0x7, 0xA, 0xB, 0xC, 0xD]
  | 0x1 => [0x1]
  | 0x2 => [0x2]
  | 0x9 => [0x9, 0xA, 0xB, 0xC, 0xD]
  | 0xA => [0xA]
  | 0xE => [0xE, 0x0, 0x9]
  | _ => []

/-- R137: whether a tile view is readable in a working format. -/
def vxTileReadable (wf : Nat) (srcInt : Bool) : Bool :=
  match wf with
  | 0x0 => !srcInt
  | 0x9 => srcInt
  | 0xE => true
  | _ => false

/-! ### Operations as the checks see them -/

/-- The shapes of VX instruction that the checks distinguish. -/
inductive VxClass where
  | elem | cmp | count | reduce | compress | expand | normsq | update
deriving DecidableEq, Repr

/-- A row of Table 7-3: its class, the sources it uses, its working formats, and c of R149. -/
structure VxRow where
  opc  : Nat
  cls  : VxClass
  srcs : Nat
  wfs  : List Nat
  cost : Nat
deriving DecidableEq, Repr

/-- Table 7-3 with c of R149. -/
def vxRows : List VxRow :=
  [ ⟨0x01, .elem, 1, vxF ++ vxI, 1⟩, ⟨0x02, .elem, 2, vxF ++ vxI, 1⟩, ⟨0x03, .elem, 2, vxF ++ vxI, 1⟩
  , ⟨0x04, .elem, 2, vxF ++ vxI, 1⟩, ⟨0x05, .elem, 2, vxF, 4⟩, ⟨0x06, .elem, 2, vxF ++ vxI, 1⟩
  , ⟨0x07, .elem, 2, vxF ++ vxI, 1⟩, ⟨0x08, .elem, 3, vxF, 1⟩, ⟨0x09, .elem, 1, vxF ++ vxI, 1⟩
  , ⟨0x0A, .elem, 1, vxF ++ vxI, 1⟩, ⟨0x0B, .elem, 1, vxF, 4⟩, ⟨0x0C, .elem, 1, [0x0, 0x1, 0x2], 4⟩
  , ⟨0x0D, .elem, 1, [0x0, 0x1, 0x2], 4⟩, ⟨0x10, .elem, 1, [0x0], 12⟩, ⟨0x11, .elem, 1, [0x0], 12⟩
  , ⟨0x12, .elem, 1, vxF ++ vxI, 1⟩, ⟨0x13, .elem, 1, [0x0], 20⟩, ⟨0x14, .elem, 1, [0x0], 20⟩
  , ⟨0x15, .elem, 1, [0x0], 16⟩, ⟨0x16, .elem, 1, [0x0], 16⟩, ⟨0x17, .elem, 1, [0x0], 16⟩ ] ++
  [ ⟨0x20, .cmp, 2, vxF ++ vxI, 1⟩, ⟨0x21, .cmp, 2, vxF ++ vxI, 1⟩, ⟨0x22, .cmp, 2, vxF ++ vxI, 1⟩
  , ⟨0x23, .cmp, 2, vxF ++ vxI, 1⟩, ⟨0x28, .count, 1, vxF, 1⟩
  , ⟨0x30, .reduce, 1, [0x0, 0xE, 0x9], 1⟩, ⟨0x31, .reduce, 1, [0x0, 0xE], 1⟩, ⟨0x32, .reduce, 1, [0x0, 0xE, 0x9], 1⟩
  , ⟨0x33, .reduce, 1, [0x0, 0xE, 0x9], 1⟩, ⟨0x34, .reduce, 1, [0x0, 0xE, 0x9], 1⟩
  , ⟨0x40, .compress, 0, [0x0], 1⟩, ⟨0x41, .expand, 0, [0x0], 1⟩, ⟨0x50, .normsq, 0, [0x0], 1⟩
  , ⟨0x51, .update, 0, [0x0], 1⟩ ]

/-- The row of an OPC. -/
def vxRowOf (opc : Nat) : Option VxRow := vxRows.find? fun r => r.opc = opc

/-- The class of a record; the reserved codes never get past check 1. -/
def VxRec.cls (r : VxRec) : VxClass := ((vxRowOf r.opc).map (·.cls)).getD .elem

/-- c of R149: DIV and SQRT take 8 in FP64. -/
def VxRec.cost (r : VxRec) : Nat :=
  if r.wf = 0xE ∧ (r.opc = 0x05 ∨ r.opc = 0x0B) then 8 else ((vxRowOf r.opc).map (·.cost)).getD 1

/-- The value sources an operation uses, in record order. -/
def VxRec.srcs (r : VxRec) : List VxSpec :=
  match r.cls with
  | .compress => [r.a, r.b, r.c]
  | .expand => [r.a]
  | .normsq => [r.a, r.c]
  | .update => [r.a, r.c]
  | _ => [r.a, r.b, r.c].take (((vxRowOf r.opc).map (·.srcs)).getD 0)

/-- The descriptors of the record that are read (M, X of EXPAND and AS among them), in ascending bit position. -/
def VxRec.readDescs (r : VxRec) : List Nat :=
  ((([r.a, r.b, r.c, r.m] ++ (if r.cls = .expand then [r.x] else []) ++ [r.as_])).filter fun p => p.kind = 1).map (·.desc)

/-- The descriptors of the record that are written. -/
def VxRec.writeDescs (r : VxRec) : List Nat :=
  (([r.d] ++ (if r.cls = .expand then [] else [r.x]) ++ [r.ds]).filter fun p => p.kind = 1).map (·.desc)

/-- Every descriptor of the record. -/
def VxRec.descs (r : VxRec) : List Nat := (r.specs.filter fun p => p.kind = 1).map (·.desc)

/-! ### The update block (Table 9-1) -/

/-- The update block of an UPDATE. -/
structure UpdBlock where
  reserved : Nat
  momFmt   : Nat
  step     : Nat
  clip     : Nat
  stepSize : Nat
  decay    : Nat
  eps      : Nat
  beta2    : Nat
  beta1    : Nat
  wOut     : Nat
  vOut     : Nat
  mOut     : Nat
  wIn      : Nat
  vIn      : Nat
  mIn      : Nat
deriving DecidableEq, Repr

/-- The block read from its 512 bits. -/
def parseBlock (v : Nat) : UpdBlock where
  reserved := fieldOf v 356 156
  momFmt := fieldOf v 352 4
  step := fieldOf v 288 64
  clip := fieldOf v 256 32
  stepSize := fieldOf v 224 32
  decay := fieldOf v 192 32
  eps := fieldOf v 160 32
  beta2 := fieldOf v 128 32
  beta1 := fieldOf v 96 32
  wOut := fieldOf v 80 16
  vOut := fieldOf v 64 16
  mOut := fieldOf v 48 16
  wIn := fieldOf v 32 16
  vIn := fieldOf v 16 16
  mIn := fieldOf v 0 16

/-- Descriptors of a block, current copies and next copies, each in ascending position. -/
def UpdBlock.ins (b : UpdBlock) : List Nat := [b.mIn, b.vIn, b.wIn]
def UpdBlock.outs (b : UpdBlock) : List Nat := [b.mOut, b.vOut, b.wOut]

/-- The scalar of a KIND 5 operand, taken at enqueue (R135). -/
def QEntry.scalar (e : QEntry) (pos : Nat) : Nat := ((e.scalars.find? fun s => s.1 = pos).map (·.2.toNat)).getD 0

/-- The block of an entry: an entry of the queue has one, a record of an image has none yet. -/
def QEntry.block (e : QEntry) (r : VxRec) : Option UpdBlock :=
  if r.opc = 0x51 ∧ r.c.kind = 5 ∧ e.scalars.any (fun s => s.1 = r.c.pos) then
    some (parseBlock (e.line (e.scalar r.c.pos % 2 ^ 16)).toNat)
  else none

/-- Finite and not negative (−0 is not). -/
def finiteNonneg (v : Nat) : Bool :=
  match decodeNum 0x0 v with
  | .fin neg m _ => !neg || m = 0
  | _ => false

/-- The ranges of Table 9-1. -/
def UpdBlock.inRange (b : UpdBlock) : Bool :=
  [b.clip, b.stepSize, b.decay, b.eps, b.beta1, b.beta2].all finiteNonneg && fgt b.eps 0
    && fgt 0x3F800000 b.beta1 && fgt 0x3F800000 b.beta2

/-! ### The checks (Table 7-5, R172) -/

/-- Check 1. DESIGN CHOICE (log entry 80): R144 asks A_MX and D_MX to be 0 for COMPRESS; for EXPAND, NORMSQ and UPDATE, whose rules give
the flags no meaning, they must be 0 too. -/
def vxCheck1 (r : VxRec) : Bool :=
  let cls := r.cls
  let shaped := (cls = .elem || cls = .cmp || cls = .update) && r.d.kind = 1 || r.a.kind = 1
  (vxRowOf r.opc).isSome && r.rmode != 3 && r.reserved = 0 && r.specs.all VxSpec.clean
    && (r.rowDiv = 0 || cls = .compress || cls = .expand) && (r.rdims = 0 || cls = .reduce)
    && (!shaped || (r.rows = 0 && r.cols = 0))
    && (!(cls = .compress || cls = .expand || cls = .normsq || cls = .update) || (!r.aMx && !r.dMx))
    && (cls != .update || !r.maskZero)

/-- The KINDs a position allows. -/
def vxKindsOk (r : VxRec) : Bool :=
  let src (p : VxSpec) : Bool := 1 ≤ p.kind && p.kind ≤ 5
  let none_ (l : List VxSpec) : Bool := l.all fun p => p.kind = 0
  let mask := r.m.kind = 0 || r.m.kind = 1
  let n := ((vxRowOf r.opc).map (·.srcs)).getD 0
  let values := ([r.a, r.b, r.c].take n).all src && none_ ([r.a, r.b, r.c].drop n) && mask && none_ [r.x]
    && (r.aMx == (r.as_.kind = 1)) && (r.as_.kind ≤ 1) && (!r.aMx || r.a.kind = 1)
    && (r.dMx == (r.ds.kind = 1)) && (r.ds.kind ≤ 1) && (!r.dMx || r.d.kind = 1)
  match r.cls with
  | .elem => values && (r.d.kind = 1 || r.d.kind = 3)
  | .cmp => values && (r.d.kind = 1 || r.d.kind = 3)
  | .count => values && r.d.kind = 0
  | .reduce => values && (r.d.kind = 0 || r.d.kind = 1 || r.d.kind = 3)
  | .compress => [r.a, r.b, r.d, r.x].all (fun p => p.kind = 1) && r.c.kind = 5 && mask && none_ [r.as_, r.ds]
  | .expand => [r.a, r.d, r.x].all (fun p => p.kind = 1) && none_ [r.b, r.c, r.m, r.as_, r.ds]
  | .normsq => (r.a.kind = 1 || r.a.kind = 2) && r.c.kind = 5 && mask && r.d.kind ≤ 1 && none_ [r.b, r.x, r.as_, r.ds]
  | .update => r.a.kind = 1 && r.d.kind = 1 && r.c.kind = 5 && mask && none_ [r.b, r.x, r.as_, r.ds]

/-- A descriptor address of a VX record (check 2): non-zero. -/
def vxDescAddr (x : EngCtx) (a : Nat) : Bool := a != 0 && goodDescAddr (fun a => (x.entry.desc a).kind) a

/-- Check 2, with the block's part for an UPDATE. -/
def vxCheck2 (x : EngCtx) (r : VxRec) (blk : Option UpdBlock) : Bool :=
  vxKindsOk r && r.descs.all (vxDescAddr x) &&
    match blk with
    | none => true
    | some b =>
      let cv := x.entry.scalar r.c.pos
      fieldOf cv 16 16 = 0 && fieldOf cv 0 16 % 64 = 0 && fieldOf cv 0 16 ≤ 0xFFC0
        && (b.ins ++ b.outs).all (vxDescAddr x)

/-- Check 3. -/
def vxCheck3 (x : EngCtx) (r : VxRec) (blk : Option UpdBlock) : Bool :=
  let fmt (p : VxSpec) : Nat := (x.entry.desc p.desc).fmt
  let row := vxRowOf r.opc
  let wfOk := ((row.map (·.wfs)).getD []).contains r.wf
  let readable := r.srcs.all fun p =>
    (p.kind != 1 || (vxReadable r.wf).contains (fmt p)) && (p.kind != 2 || vxTileReadable r.wf p.srcInt)
  let maskOk := r.m.kind != 1 || fmt r.m = 0xC
  let mx := (!r.aMx || isMxCode (fmt r.a)) && (!r.dMx || isMxCode (fmt r.d))
  match r.cls with
  | .compress => wfOk && maskOk && elementFormats (fmt r.a) && fmt r.d = fmt r.a && fmt r.b = 0x9 && fmt r.x = 0x9
  | .expand => wfOk && elementFormats (fmt r.a) && fmt r.d = fmt r.a && fmt r.x = 0x9
  | .normsq => wfOk && readable && maskOk && (r.d.kind != 1 || fmt r.d = 0xE)
  | .update =>
    wfOk && maskOk && (fmt r.a = 0x0 || fmt r.a = 0x1) && fmt r.d = 0x1 &&
      match blk with
      | none => true
      | some b =>
        b.momFmt ≤ 1 && [b.mIn, b.vIn, b.mOut, b.vOut].all (fun a => (x.entry.desc a).fmt = b.momFmt)
          && [b.wIn, b.wOut].all fun a => (x.entry.desc a).fmt = 0x0
  | .cmp => wfOk && readable && maskOk && mx && (r.d.kind != 1 || fmt r.d = 0xC)
  | _ => wfOk && readable && maskOk && mx && (r.d.kind != 1 || elementFormats (fmt r.d))

/-- The descriptor that gives the iteration shape, if any (R136). -/
def VxRec.shapeDesc (r : VxRec) : Option Nat :=
  match r.cls with
  | .elem => if r.d.kind = 1 then some r.d.desc else if r.a.kind = 1 then some r.a.desc else none
  | .cmp => if r.d.kind = 1 then some r.d.desc else if r.a.kind = 1 then some r.a.desc else none
  | .update => some r.d.desc
  | _ => if r.a.kind = 1 then some r.a.desc else none

/-- The iteration shape (R136). -/
def vxShape (x : EngCtx) (r : VxRec) : List Nat :=
  match r.shapeDesc with
  | some a => let d := x.entry.desc a; d.ext.take d.rank
  | none => [r.cols, r.rows]

/-- Number of iterations. -/
def shapeCount (sh : List Nat) : Nat := sh.foldl (· * ·) 1

/-- Check 4 (R129): checks 3, 4 and 6 of Table 6-3 on each tile view. DESIGN CHOICE (log entry 80): a ROW_LOG of 5 to 7, which no check
that R129 names covers, is refused here with PATTERN_MALFORMED. -/
def vxCheck4 (x : EngCtx) (r : VxRec) : Option (BitVec 16) :=
  let sh := vxShape x r
  firstFail ((r.srcs.filter fun p => p.kind = 2).flatMap fun p =>
    [ orElse (p.rowLog ≤ 4 && 1 ≤ p.tileCount && p.tileCount ≤ 16) stMalformed
    , orElse (viewTilesOk x.res x.deferred p.tile p.tileCount) stTilesExceeded
    , orElse (sh.length = 2 && sh.getD 1 0 ≤ viewHeight p.rowLog * p.tileCount && sh.getD 0 0 ≤ rowLen p.rowLog)
        stMalformed ])

/-- The descriptors of an instruction with their positions, in the order of R72. DESIGN CHOICE (log entry 80): ACCUM = 1 in a destination
scale descriptor is refused by its format (FORMAT_UNSUPPORTED), and in the D of NORMSQ, an FP64 list of results, by its use
(PATTERN_MALFORMED); R63 does not say which of the two a vector store's destination either is. -/
def vxUses (x : EngCtx) (r : VxRec) (blk : Option UpdBlock) : List (DescUse × Desc) :=
  let fm (scale : Bool) : Nat → Bool := if scale then scaleFormats else elementFormats
  let use (w acc scale : Bool) (a : Nat) : DescUse × Desc := (⟨fm scale, w, acc, false⟩, x.entry.desc a)
  let specs (w acc : Bool) (scaleOf : VxSpec) (l : List VxSpec) : List (DescUse × Desc) :=
    (l.filter fun p => p.kind = 1).map fun p => use w acc (p.pos = scaleOf.pos) p.desc
  let cls := r.cls
  let reads := specs false false r.as_ ([r.a, r.b, r.c, r.m] ++ (if cls = .expand then [r.x] else []) ++ [r.as_])
  let writes := specs true (!(cls = .compress || cls = .update || cls = .normsq)) r.ds
    ([r.d] ++ (if cls = .expand then [] else [r.x]) ++ [r.ds])
  let ins := (blk.map fun b => b.ins.map (use false false false)).getD []
  let outs := (blk.map fun b => b.outs.map (use true false false)).getD []
  groupUses (reads ++ ins) (writes ++ outs)

/-- Extents agree with a shape. -/
def Desc.hasShape (d : Desc) (sh : List Nat) : Bool := d.rank = sh.length && d.ext.take d.rank == sh

/-- A scale descriptor laid out as in R124 for rows and columns. -/
def Desc.scaleShape (d : Desc) (order : Bool) (cols rows : Nat) : Bool :=
  d.hasShape (if order then [rows, cols / 32] else [cols / 32, rows])

/-- The outputs' shape of a reduction (R142). -/
def redShape (sh : List Nat) (q : Nat) : List Nat := if q = sh.length then [1] else sh.drop q

/-- The shape of the MX destination of a record. -/
def vxOutShape (x : EngCtx) (r : VxRec) : List Nat :=
  if r.cls = .reduce then redShape (vxShape x r) r.rdims else vxShape x r

/-- Check 6. DESIGN CHOICE (log entry 80): a reduction with ACCUM = 1 on D and MASK_MODE = 1 is refused, though R139 also says that
MASK_MODE has no effect in reductions. -/
def vxCheck6 (x : EngCtx) (r : VxRec) (blk : Option UpdBlock) : Option (BitVec 16) :=
  let e (p : VxSpec) : Desc := x.entry.desc p.desc
  let sh := vxShape x r
  let cap := vxCap r.wf
  let out := vxOutShape x r
  let srcOk (p : VxSpec) : Bool :=
    (p.kind != 1 || (e p).hasShape sh) && (p.kind != 2 || sh.length = 2) && (p.kind != 3 || sh.getD 0 0 ≤ cap)
  let maskOk := r.m.kind != 1 || (e r.m).hasShape sh
  let shape := orElse (r.shapeDesc.isSome || (1 ≤ r.rows && 1 ≤ r.cols)) stMalformed
  let accum := orElse (r.d.kind != 1 || !(e r.d).accum || !r.maskZero) stMalformed
  let mxA := firstFail
    [ orElse (!r.aMx || (sh.length = 2)) stMalformed
    , orElse (!r.aMx || sh.getD 0 0 % 32 = 0) stFormat
    , orElse (!r.aMx || (e r.as_).scaleShape r.asOrder (sh.getD 0 0) (sh.getD 1 0)) stMalformed ]
  let mxD := firstFail
    [ orElse (!r.dMx || out.length = 2) stMalformed
    , orElse (!r.dMx || out.getD 0 0 % 32 = 0) stFormat
    , orElse (!r.dMx || (e r.ds).scaleShape r.dsOrder (out.getD 0 0) (out.getD 1 0)) stMalformed ]
  match r.cls with
  | .reduce =>
    let q := r.rdims
    firstFail [ shape, orElse (r.srcs.all srcOk && maskOk) stMalformed, orElse (1 ≤ q && q ≤ sh.length) stMalformed
      , orElse ((r.d.kind != 1 || (e r.d).hasShape out) && (r.d.kind != 3 || shapeCount out ≤ cap)
          && (r.d.kind != 0 || q = sh.length)) stMalformed, mxA, mxD, accum ]
  | .compress =>
    let a := e r.a
    let na := a.extent 1 * r.rowDiv
    firstFail [ orElse (1 ≤ r.rowDiv && r.rowDiv ≤ 8) stMalformed
      , orElse (a.rank = 2 && (e r.b).hasShape [na] && (r.m.kind != 1 || (e r.m).hasShape [na]) && (e r.d).rank = 2
          && (e r.d).extent 0 = a.extent 0 && (e r.x).hasShape [(e r.d).extent 1]) stMalformed ]
  | .expand =>
    let a := e r.a
    firstFail [ orElse (1 ≤ r.rowDiv && r.rowDiv ≤ 8) stMalformed
      , orElse (a.rank = 2 && (e r.x).hasShape [a.extent 1] && (e r.d).rank = 2 && (e r.d).extent 0 = a.extent 0)
          stMalformed, accum ]
  | .normsq =>
    firstFail [ shape, orElse (srcOk r.a && maskOk) stMalformed
      , orElse (r.d.kind != 1 || ((e r.d).hasShape [4] && !(e r.d).kind)) stMalformed, accum ]
  | .update =>
    firstFail [ orElse ((e r.a).hasShape sh && maskOk) stMalformed
      , orElse ((blk.map fun b => (b.ins ++ b.outs).all fun a => (x.entry.desc a).hasShape sh).getD true) stMalformed ]
  | _ =>
    firstFail [ shape, orElse (r.srcs.all srcOk && maskOk) stMalformed
      , orElse (r.d.kind != 3 || ((sh.drop 1).all (· = 1) && sh.getD 0 0 ≤ cap)) stMalformed, mxA, mxD, accum ]

/-- No pair of a list overlaps. -/
def disjointAll : List (Nat × Nat) → Bool
  | [] => true
  | p :: t => t.all (fun q => !overlaps p q) && disjointAll t

/-- Check 8 (R138, R172): what is written against what is read, and the index of an EXPAND and the scales of a reduction's
source against its value sources. -/
def vxCheck8 (x : EngCtx) (r : VxRec) (blk : Option UpdBlock) : Bool :=
  let e (a : Nat) : Desc := x.entry.desc a
  let reads := (r.readDescs ++ (blk.map UpdBlock.ins).getD []).map e
  let writes := (r.writeDescs ++ (blk.map UpdBlock.outs).getD []).map e
  let may (w s : Desc) : Bool := (r.cls = .elem || r.cls = .cmp) && w.sameAs s
  let regs := (r.srcs.filter fun p => p.kind = 3 || p.kind = 4).map (·.reg)
  let values := ([r.a, r.b, r.c].filter fun p => p.kind = 1).map fun p => e p.desc
  let side := ((if r.cls = .expand then [r.x] else if r.cls = .reduce then [r.as_] else []).filter fun p => p.kind = 1).map
    fun p => e p.desc
  side.all (fun i => values.all fun v => !printsOverlap i v)
    && writes.all (fun w => reads.all fun s => !printsOverlap w s || may w s)
    && (r.cls != .update || disjointAll (writes.map Desc.boardPrint))
    && (r.cls != .reduce || r.d.kind != 3 || !regs.contains r.d.reg)

/-- Table 7-5, with R172's additions when the block is at hand and t is the committed step counter. -/
def vxTable (x : EngCtx) (t : Nat) : Option (BitVec 16) :=
  let r := parseVx x.rec_
  let blk := x.entry.block r
  let uses := vxUses x r blk
  let blkOk := match blk with
    | none => true
    | some b => b.reserved = 0 && b.inRange && b.step = t + 1
  firstFail
    [ orElse (vxCheck1 r && blkOk) stMalformed
    , orElse (vxCheck2 x r blk) stMalformed
    , orElse (vxCheck3 x r blk) stFormat
    , vxCheck4 x r
    , checkDescs x.env uses
    , vxCheck6 x r blk
    , orElse (uses.all fun u => inOwnWindow x.env x.g u.2) stClusterMemory
    , orElse (vxCheck8 x r blk) stCopyOverlap ]

/-- The part of Table 7-5 that a fixed record passes at PATTERN_LOAD. An UPDATE in a queue has its block's checks among
them, and is checked as a whole at issue (R172). -/
def vxCheck (x : EngCtx) : Option (BitVec 16) :=
  if (x.entry.block (parseVx x.rec_)).isSome then none else vxTable x 0

/-- The committed step counter of the running pour (R173). -/
def State.stepCounter (s : State) : Nat :=
  ((s.run.bind fun r => s.patternSlot r.handle).map fun c => c.t.toNat).getD 0

/-- The checks of an UPDATE, made at every issue. -/
def vxLate (x : EngCtx) (s : State) : Option (BitVec 16) :=
  if (x.entry.block (parseVx x.rec_)).isSome then vxTable x s.stepCounter else none

/-- R148 and R172. -/
def vxPrints (x : EngCtx) (_s : State) : Prints :=
  let r := parseVx x.rec_
  let blk := x.entry.block r
  let e (write : Bool) (a : Nat) : List (Nat × Nat) := x.prints write (x.entry.desc a)
  { rd := (r.readDescs ++ (blk.map UpdBlock.ins).getD []).flatMap (e false)
    wr := (r.writeDescs ++ (blk.map UpdBlock.outs).getD []).flatMap (e true)
    tilesR := (r.srcs.filter fun p => p.kind = 2).flatMap VxSpec.tiles
    tilesW := []
    regsR := (r.srcs.filter fun p => p.kind = 3 || p.kind = 4).map (·.reg)
    regsW := if r.d.kind = 3 then [r.d.reg] else [] }

/-- G of R149. -/
def vxGroups (sh : List Nat) (lanes : Nat) : Nat := shapeCount (sh.drop 1) * ((sh.getD 0 0 + lanes - 1) / lanes)

/-- Table 7-6, R167 and R172. -/
def vxTime (x : EngCtx) (_s : State) : Nat :=
  let r := parseVx x.rec_
  let e (p : VxSpec) : Desc := x.entry.desc p.desc
  let g := vxGroups (vxShape x r) (vxLanes r.wf)
  let rowUnits := ((e r.d).extent 0 * widthBits (e r.d).fmt / 8 + 255) / 256
  match r.cls with
  | .reduce => 56 + g
  | .compress => 32 + ((e r.a).extent 1 * r.rowDiv + 63) / 64 + (e r.d).extent 1 * rowUnits
  | .expand =>
    32 + (e r.a).extent 1 * rowUnits * (if (e r.d).accum then 2 else 1)
      + (if r.maskZero then (e r.d).extent 1 * rowUnits else 0)
  | .normsq => 56 + 4 * g
  | .update => 96 + 28 * g
  | _ => 32 + r.cost * g + (if r.d.kind = 1 ∧ (e r.d).accum then g else 0)

/-! ### Reading sources (R136, R137, R139) -/

/-- A value brought into the working format; the sources R137 admits convert exactly. -/
def toWf (wf : Nat) (v : Num) : Nat := roundRne wf v

/-- The bit address of element j of a register (R134). -/
def regBit (reg wf j : Nat) : Nat := 2048 * reg + widthBits wf * j

/-- Vector registers read by a consumer. -/
def consumeRegs (s : State) (g : Nat) (addrs : List Nat) (w : Nat) : State × Except (BitVec 16 × Nat) (List Nat) :=
  let r := (s.cl g).vregs.readElems (.priv g) w addrs
  let s := (s.updCl g fun c => { c with vregs := r.mem }).noteAll s.runPour r.events
  match r.status with
  | some (st, _) => (s, .error (st, 0))
  | none => (s, .ok r.vals)

/-- A patch written to a cluster's vector registers. -/
def State.applyRegs (s : State) (g : Nat) (p : Patch) : State :=
  let (m, ev) := (s.cl g).vregs.apply (.priv g) p
  (s.updCl g fun c => { c with vregs := m }).noteAll s.runPour ev

/-- Index of the scale of element i (R124 with AS_ORDER or DS_ORDER): columns, rows, order. -/
def scaleIndex (cols rows : Nat) (order : Bool) (i : Nat) : Nat :=
  let m := i / cols
  let b := i % cols / 32
  if order then b * rows + m else m * (cols / 32) + b

/-- A source descriptor's elements in the working format. -/
def readDescSource (x : EngCtx) (r : VxRec) (a : Nat) (mx : Bool) (s : State) :
    State × Except (BitVec 16 × Nat) (List Nat) :=
  let d := x.entry.desc a
  match consume s d.bitAddrs (widthBits d.fmt) with
  | (s, .error e) => (s, .error e)
  | (s, .ok v) =>
    if mx then
      let sc := x.entry.desc r.as_.desc
      match consume s sc.bitAddrs 8 with
      | (s, .error e) => (s, .error e)
      | (s, .ok sv) =>
        let sa := sv.toArray
        (s, .ok (v.mapIdx fun i b =>
          toWf r.wf (mxValue d.fmt b (sa.getD (scaleIndex (d.extent 0) (d.extent 1) r.asOrder i) 0))))
    else (s, .ok (v.map fun b => toWf r.wf (decodeNum d.fmt b)))

/-- A source's values at every iteration index, in ascending linear index, as bits of the working format. -/
def readSource (x : EngCtx) (r : VxRec) (p : VxSpec) (s : State) : State × Except (BitVec 16 × Nat) (Array Nat) :=
  let sh := vxShape x r
  let n := shapeCount sh
  let w := widthBits r.wf
  let got : State × Except (BitVec 16 × Nat) (List Nat) :=
    match p.kind with
    | 1 => readDescSource x r p.desc (r.aMx && p.pos = r.a.pos) s
    | 2 =>
      let addrs := (List.range n).map fun i =>
        viewBit p.tile p.rowLog (i / max 1 (sh.getD 0 0)) (i % max 1 (sh.getD 0 0))
      match consumeTiles s x.g addrs with
      | (s, .error e) => (s, .error e)
      | (s, .ok v) => (s, .ok (v.map fun b => toWf r.wf (if p.srcInt then .ofInt (signedOf 32 b) else decodeNum 0x0 b)))
    | 3 =>
      match consumeRegs s x.g ((List.range (sh.getD 0 0)).map (regBit p.reg r.wf)) w with
      | (s, .error e) => (s, .error e)
      | (s, .ok v) => let a := v.toArray; (s, .ok ((List.range n).map fun i => a.getD (i % max 1 (sh.getD 0 0)) 0))
    | 4 =>
      match consumeRegs s x.g [regBit p.reg r.wf 0] w with
      | (s, .error e) => (s, .error e)
      | (s, .ok v) => (s, .ok (List.replicate n (v.headD 0)))
    | 5 => (s, .ok (List.replicate n (x.entry.scalar p.pos % 2 ^ w)))
    | _ => (s, .ok [])
  match got with
  | (s, .error e) => (s, .error e)
  | (s, .ok v) => (s, .ok v.toArray)

/-- Several sources, one after the other. -/
def readSources (x : EngCtx) (r : VxRec) : List VxSpec → State → State × Except (BitVec 16 × Nat) (List (Array Nat))
  | [], s => (s, .ok [])
  | p :: ps, s =>
    match readSource x r p s with
    | (s, .error e) => (s, .error e)
    | (s, .ok v) =>
      match readSources x r ps s with
      | (s, .error e) => (s, .error e)
      | (s, .ok vs) => (s, .ok (v :: vs))

/-- The mask: whether each element is active (R139). -/
def readMask (x : EngCtx) (r : VxRec) (n : Nat) (s : State) : State × Except (BitVec 16 × Nat) (Array Bool) :=
  if r.m.kind = 1 then
    match consume s (x.entry.desc r.m.desc).bitAddrs 8 with
    | (s, .error e) => (s, .error e)
    | (s, .ok v) => (s, .ok (v.map (fun b => b != 0)).toArray)
  else (s, .ok (Array.replicate n true))

/-- The sources and the mask. -/
def readAll (x : EngCtx) (r : VxRec) (s : State) : State × Except (BitVec 16 × Nat) (List (Array Nat) × Array Bool) :=
  match readSources x r r.srcs s with
  | (s, .error e) => (s, .error e)
  | (s, .ok vs) =>
    match readMask x r (shapeCount (vxShape x r)) s with
    | (s, .error e) => (s, .error e)
    | (s, .ok m) => (s, .ok (vs, m))

/-! ### Writing results (R137) -/

/-- A value held in FP32 for a block of R52. A value of a wider working format is first rounded to FP32 (DEDUCED). -/
def heldFp32 (wf v : Nat) : Num := if wf = 0x0 then decodeNum 0x0 v else decodeNum 0x0 (roundRne 0x0 (decodeNum wf v))

/-- Blocks of R52 of which only the given elements are written, and each block's scale. DESIGN CHOICE (log entry 72): R139 says
only that a masked element is not written, and R52 forms a block from 32 values. A masked element that is kept is here no part
of its block: amax is taken over the active elements, the block's scale is written anew, and a block without an active element
keeps its scale. -/
def storeVxBlocks (fmt wf : Nat) (mode : RMode) (seed tid : Nat) (bits keys : Array Nat) :
    List (List (Nat × Nat)) → Patch → Counts → Patch × Counts × List (Option Nat)
  | [], p, k => (p, k, [])
  | blk :: rest, p, k =>
    match blk with
    | [] =>
      let (p, k, scs) := storeVxBlocks fmt wf mode seed tid bits keys rest p k
      (p, k, none :: scs)
    | _ :: _ =>
      let (sc, cs) := mxBlock fmt mode (blk.map fun e => (heldFp32 wf e.2, (⟨seed, tid, keys.getD e.1 0⟩ : SrKey)))
      let p := Patch.writeAll (widthBits fmt) p ((blk.zip cs).map fun e => (bits.getD e.1.1 0, e.2.bits))
      let k := cs.foldl (fun k c => k.add (storedOf fmt c).counts) k
      let (p, k, scs) := storeVxBlocks fmt wf mode seed tid bits keys rest p k
      (p, k, some sc :: scs)

/-- Values written to the destination descriptor, by linear index (R137, R138). -/
def storeVxDesc (x : EngCtx) (r : VxRec) (vals : List (Nat × Nat)) (s : State) :
    State × Except (BitVec 16 × Nat) Counts :=
  let d := x.entry.desc r.d.desc
  let bits := d.bitAddrs.toArray
  let keys := (d.keyIndices x.env).toArray
  let mode := modeOf r.rmode
  let seed := x.entry.seed.toNat
  let w := widthBits d.fmt
  if r.dMx ∧ !d.accum then
    let cols := d.extent 0
    let blks := (List.range (shapeCount (d.ext.take d.rank) / 32)).map fun b => vals.filter fun e => e.1 / 32 = b
    let sb := (x.entry.desc r.ds.desc).bitAddrs.toArray
    let (p, k, scs) := storeVxBlocks d.fmt r.wf mode seed d.tid bits keys blks [] Counts.zero
    (s.applyPatch (writeScales sb (d.extent 1) (cols / 32) r.dsOrder scs.toArray p), .ok k)
  else
    match accumBase s d.accum w (vals.map fun e => bits.getD e.1 0) with
    | (s, .error e) => (s, .error e)
    | (s, .ok base) =>
      let (p, k) := storeAll d.fmt d.accum mode s.mem base Counts.zero (vals.map fun e =>
        (⟨bits.getD e.1 0, ⟨seed, d.tid, keys.getD e.1 0⟩, isIntCode r.wf, decodeNum r.wf e.2⟩ : ToStore))
      (s.applyPatch p, .ok k)

/-- Values written to register elements in the working format. -/
def storeVxReg (x : EngCtx) (r : VxRec) (vals : List (Nat × Nat)) (s : State) : State × Counts :=
  let p := Patch.writeAll (widthBits r.wf) [] (vals.map fun e => (regBit r.d.reg r.wf e.1, e.2))
  (s.applyRegs x.g p, ⟨0, 0, (vals.filter fun e => isNonfinite r.wf e.2).length⟩)

/-- Values written to the destination of the record, whatever its KIND. -/
def storeVx (x : EngCtx) (r : VxRec) (vals : List (Nat × Nat)) (s : State) : State × Except (BitVec 16 × Nat) Counts :=
  match r.d.kind with
  | 1 => storeVxDesc x r vals s
  | 3 => let (s, k) := storeVxReg x r vals s; (s, .ok k)
  | _ => (s, .ok Counts.zero)

/-- Largest magnitude of the non-NaN FP32 values, as FP32 bits (word 4 of Table 7-7). -/
def vxAmax (wf : Nat) (vs : List Nat) : Nat :=
  if wf = 0x0 then vs.foldl (fun a v => if fIsNan v then a else max a (fMagnitude v)) 0 else 0

/-! ### Elementwise instructions -/

/-- What an operation gives for one element: bits of the working format, and whether it saturated (R141). -/
abbrev VxFn := Nat → Nat → Nat → Nat → Nat × Bool

/-- An elementwise instruction. DESIGN CHOICE (log entry 80): in place, with rows that share addresses, every element is read before any
is written; R138 says only that each element is read before it is written. -/
def elemPerform (fn : VxFn) (x : EngCtx) (s : State) : Performed :=
  let r := parseVx x.rec_
  let n := shapeCount (vxShape x r)
  match readAll x r s with
  | (s, .error e) => (s, .error e)
  | (s, .ok (vs, act)) =>
    let at_ (j i : Nat) : Nat := (vs.getD j #[]).getD i 0
    let outs := ((List.range n).filter fun i => act.getD i true).map fun i => (i, fn r.wf (at_ 0 i) (at_ 1 i) (at_ 2 i))
    let vals := if r.maskZero then
        let all := outs.foldl (fun (t : Array Nat) e => t.setIfInBounds e.1 e.2.1) (Array.replicate n (toWf r.wf Num.zero))
        all.toList.mapIdx fun i v => (i, v)
      else outs.map fun e => (e.1, e.2.1)
    match storeVx x r vals s with
    | (s, .error e) => (s, .error e)
    | (s, .ok k) =>
      (s, .ok (Done.plain [satWord k.saturated, satWord k.nanNarrowed, satWord k.nonfinite, satWord outs.length,
        BitVec.ofNat 64 (vxAmax r.wf (outs.map fun e => e.2.1)), satWord (outs.filter fun e => e.2.2).length, 0, 0]
        (vxTime x s)))

/-- A comparison (R141): 1 or 0 without conversion, to a UINT8 descriptor or a register. -/
def cmpPerform (fn : Num → Num → Bool) (x : EngCtx) (s : State) : Performed :=
  let r := parseVx x.rec_
  let n := shapeCount (vxShape x r)
  match readAll x r s with
  | (s, .error e) => (s, .error e)
  | (s, .ok (vs, act)) =>
    let at_ (j i : Nat) : Num := decodeNum r.wf ((vs.getD j #[]).getD i 0)
    let outs := ((List.range n).filter fun i => act.getD i true).map fun i => (i, if fn (at_ 0 i) (at_ 1 i) then 1 else 0)
    let vals := if r.maskZero then
        let all := outs.foldl (fun (t : Array Nat) e => t.setIfInBounds e.1 e.2) (Array.replicate n 0)
        all.toList.mapIdx fun i v => (i, v)
      else outs
    let s := if r.d.kind = 1 then
        let bits := (x.entry.desc r.d.desc).bitAddrs.toArray
        s.applyPatch (Patch.writeAll 8 [] (vals.map fun e => (bits.getD e.1 0, e.2)))
      else (storeVxReg x r vals s).1
    let amax := if r.wf = 0x0 ∧ outs.any (fun e => e.2 = 1) then 0x3F800000 else 0
    (s, .ok (Done.plain [0, 0, 0, satWord outs.length, BitVec.ofNat 64 amax, 0, 0, 0] (vxTime x s)))

/-- NFCOUNT: infinite and NaN elements of A among the active ones. -/
def nfcountPerform (x : EngCtx) (s : State) : Performed :=
  let r := parseVx x.rec_
  match readAll x r s with
  | (s, .error e) => (s, .error e)
  | (s, .ok (vs, act)) =>
    let on := (List.range (shapeCount (vxShape x r))).filter fun i => act.getD i true
    let nf := (on.filter fun i => isNonfinite r.wf ((vs.getD 0 #[]).getD i 0)).length
    (s, .ok (Done.plain [0, 0, satWord nf, satWord on.length, 0, 0, 0, 0] (vxTime x s)))

/-! ### Reductions (R142, R143) -/

/-- A reduction: the leaf of an element with whether it saturated, the combination of two, and the identity. -/
structure VxRed where
  leaf    : Nat → Nat → Nat × Bool
  combine : Nat → Nat → Nat → Nat × Bool
  ident   : Nat → Nat

/-- One output: its value, how often a leaf or combination saturated, and whether the tree was empty. -/
structure RedOut where
  val   : Nat
  sats  : Nat
  empty : Bool
deriving DecidableEq, Repr

/-- A NaN of a working format in its canonical form; any other value as it is (R34). -/
def canonical (wf v : Nat) : Nat := if (decodeNum wf v).isNan then canonicalNan wf else v

/-- The tree of R143 over the leaves of one output. A lone leaf that is NaN is written in the canonical form too (R34). -/
def redOne (f : VxRed) (wf : Nat) (leaves : List (Option Nat)) : RedOut :=
  let ls : List (Option (Nat × Nat)) := leaves.map fun o => o.map fun v =>
    let l := f.leaf wf v
    (l.1, if l.2 then 1 else 0)
  let t := treeFold (fun (a b : Nat × Nat) =>
    let c := f.combine wf a.1 b.1
    (c.1, a.2 + b.2 + if c.2 then 1 else 0)) (ls.length + 1) ls
  match t with
  | none => ⟨f.ident wf, 0, true⟩
  | some (v, n) => ⟨canonical wf v, n, false⟩

/-- Consecutive groups of n. -/
def groupsOf {α : Type} (n : Nat) : Nat → List α → List (List α)
  | 0, _ => []
  | k + 1, l => l.take n :: groupsOf n k (l.drop n)

/-- RESULT0 of Table 7-7. -/
def vxResult0 (wf v : Nat) : Word64 := if wf = 0x9 then BitVec.ofInt 64 (signedOf 32 v) else BitVec.ofNat 64 v

/-- A reduction. -/
def redPerform (f : VxRed) (x : EngCtx) (s : State) : Performed :=
  let r := parseVx x.rec_
  let sh := vxShape x r
  match readAll x r s with
  | (s, .error e) => (s, .error e)
  | (s, .ok (vs, act)) =>
    let leaves := ((vs.getD 0 #[]).toList).mapIdx fun i v => if act.getD i true then some v else none
    let nl := shapeCount (sh.take r.rdims)
    let outs := (groupsOf nl (shapeCount (sh.drop r.rdims)) leaves).map (redOne f r.wf)
    match storeVx x r (outs.mapIdx fun i o => (i, o.val)) s with
    | (s, .error e) => (s, .error e)
    | (s, .ok k) =>
      let nf := (outs.filter fun o => isNonfinite r.wf o.val).length
      (s, .ok (Done.plain [satWord k.saturated, satWord k.nanNarrowed, satWord nf,
        vxResult0 r.wf ((outs.map (·.val)).headD 0), satWord outs.length,
        satWord (outs.foldl (fun n o => n + o.sats) 0), satWord (outs.filter (·.empty)).length, 0] (vxTime x s)))

/-- A vector operation with the checks, footprints and time of its record. -/
def vxOp (perform : EngCtx → State → Performed) : EngineOp where
  descs x := (parseVx x.rec_).descs
  check := vxCheck
  late := vxLate
  buffers _ := none
  prints := vxPrints
  time := vxTime
  permuting _ := false
  perform := perform

end Sys2Proof.Machine
end

