-- ==== Sys2Proof/Machine/Update.lean ====
section
/-! DEFINITION. The parameter update: NORMSQ and UPDATE (R166 to R172). -/

namespace Sys2Proof.Machine

/-- The leaf of an FP32 element in FP64: x × x, exact. -/
def normLeaf (v : Nat) : Nat :=
  let x := decodeNum 0x0 v
  roundRne 0xE (x.mul x)

/-- NORMSQ (R166). -/
def normsqPerform (x : EngCtx) (s : State) : Performed :=
  let r := parseVx x.rec_
  match readSource x r r.a s with
  | (s, .error e) => (s, .error e)
  | (s, .ok va) =>
    match readMask x r va.size s with
    | (s, .error e) => (s, .error e)
    | (s, .ok act) =>
      let vals := va.toList
      let on := (vals.mapIdx fun i v => (i, v)).filter fun e => act.getD e.1 true
      let leaves := vals.mapIdx fun i v => if act.getD i true then some (normLeaf v) else none
      let tree := (treeFold (fpAdd 0xE) (leaves.length + 1) leaves).getD 0
      let sum := fpAdd 0xE (x.entry.scalar r.c.pos) tree
      let nf := (on.filter fun e => isNonfinite 0x0 e.2).length
      let s := if r.d.kind = 1 then
          let words := [sum, roundRne 0xE (.ofInt nf), roundRne 0xE (.ofInt on.length), 0]
          s.applyPatch (Patch.writeAll 64 [] ((x.entry.desc r.d.desc).bitAddrs.zip words))
        else s
      (s, .ok (Done.plain [0, 0, satWord nf, BitVec.ofNat 64 sum, satWord on.length, 0, 0, 0] (vxTime x s)))

/-- What UPDATE computes for one active element: new moments and master weight, FP32. -/
structure Updated where
  m : Nat
  v : Nat
  w : Nat
deriving DecidableEq, Repr

/-- The step of R170 for one element: every operation one FP32 operation. -/
def updateElem (b : UpdBlock) (omb1 omb2 c1 c2 grad mIn vIn wIn : Nat) : Updated :=
  let g := fmul grad b.clip
  let m := fadd (fmul b.beta1 mIn) (fmul omb1 g)
  let v := fadd (fmul b.beta2 vIn) (fmul omb2 (fmul g g))
  let u := fdiv (fdiv m c1) (fadd (fpSqrt 0x0 (fdiv v c2)) b.eps)
  let w := fsub wIn (fmul b.stepSize (fadd u (fmul b.decay wIn)))
  ⟨m, v, w⟩

/-- The bits of an element widened to FP32 (R35). -/
def widen32 (fmt v : Nat) : Nat := roundRne 0x0 (decodeNum fmt v)

/-- Several tensors read whole. -/
def readTensors (x : EngCtx) : List Nat → State → State × Except (BitVec 16 × Nat) (List (Array Nat))
  | [], s => (s, .ok [])
  | a :: as, s =>
    let d := x.entry.desc a
    match consume s d.bitAddrs (widthBits d.fmt) with
    | (s, .error e) => (s, .error e)
    | (s, .ok v) =>
      match readTensors x as s with
      | (s, .error e) => (s, .error e)
      | (s, .ok vs) => (s, .ok (v.toArray :: vs))

/-- One output of UPDATE: for each element either the bits that a masked element copies, or an FP32 value narrowed with
the record's rounding mode (R170). -/
def updateOut (x : EngCtx) (r : VxRec) (d : Desc) (vals : List (Nat × Bool)) : Patch × Counts :=
  let keys := d.keyIndices x.env
  let seed := x.entry.seed.toNat
  ((d.bitAddrs.zip keys).zip vals).foldl
    (fun (a : Patch × Counts) e =>
      if e.2.2 then
        let o := storePlain d.fmt (modeOf r.rmode) ⟨seed, d.tid, e.1.2⟩ (decodeNum 0x0 e.2.1)
        (a.1.write e.1.1 (widthBits d.fmt) o.bits, a.2.add o.counts)
      else (a.1.write e.1.1 (widthBits d.fmt) e.2.1, a.2))
    ([], Counts.zero)

/-- The elements of UPDATE from what it has read, in ascending linear index. -/
def updateAll (b : UpdBlock) (gFmt momFmt : Nat) (c1 c2 : Nat) (act : Array Bool) (g m v w : Array Nat) :
    List (Bool × Updated) :=
  let omb1 := fsub 0x3F800000 b.beta1
  let omb2 := fsub 0x3F800000 b.beta2
  (List.range w.size).map fun i =>
    if act.getD i true then
      (true, updateElem b omb1 omb2 c1 c2 (widen32 gFmt (g.getD i 0)) (widen32 momFmt (m.getD i 0))
        (widen32 momFmt (v.getD i 0)) (w.getD i 0))
    else (false, ⟨m.getD i 0, v.getD i 0, w.getD i 0⟩)

/-- UPDATE (R169, R170). -/
def updatePerform (x : EngCtx) (s : State) : Performed :=
  let r := parseVx x.rec_
  match x.entry.block r with
  | none => (s, .error (stMalformed, 0))
  | some b =>
    match readTensors x [r.a.desc, b.mIn, b.vIn, b.wIn] s with
    | (s, .error e) => (s, .error e)
    | (s, .ok ts) =>
      match readMask x r (ts.getD 3 #[]).size s with
      | (s, .error e) => (s, .error e)
      | (s, .ok act) =>
        let c1 := biasCorrection b.beta1 b.step
        let c2 := biasCorrection b.beta2 b.step
        let outs := updateAll b (x.entry.desc r.a.desc).fmt b.momFmt c1 c2 act (ts.getD 0 #[]) (ts.getD 1 #[])
          (ts.getD 2 #[]) (ts.getD 3 #[])
        let (pm, km) := updateOut x r (x.entry.desc b.mOut) (outs.map fun o => (o.2.m, o.1))
        let (pv, kv) := updateOut x r (x.entry.desc b.vOut) (outs.map fun o => (o.2.v, o.1))
        let pw := Patch.writeAll 32 [] ((x.entry.desc b.wOut).bitAddrs.zip (outs.map fun o => o.2.w))
        let (pd, kd) := updateOut x r (x.entry.desc r.d.desc) (outs.map fun o => (o.2.w, true))
        let k := (km.add kv).add kd
        let on := outs.filter (·.1)
        let nf := (on.filter fun o => isNonfinite 0x0 o.2.w).length
        let s := (((s.applyPatch pm).applyPatch pv).applyPatch pw).applyPatch pd
        (s, .ok { Done.plain [satWord k.saturated, satWord k.nanNarrowed, satWord nf, satWord on.length,
          BitVec.ofNat 64 c1, BitVec.ofNat 64 c2, 0, 0] (vxTime x s) with isUpdate := true })

def normsqOp : EngineOp := vxOp normsqPerform
def updateOp : EngineOp := vxOp updatePerform

end Sys2Proof.Machine
end

