-- ==== Sys2Proof/Machine/VectorOps.lean ====
section
/-! DEFINITION. The vector operations of Table 7-3 one by one, COMPRESS and EXPAND (R140 to R145). -/

namespace Sys2Proof.Machine

/-- A code of the integer working formats: its value as an integer. -/
def vxInt (wf v : Nat) : Int := signedOf (widthBits wf) v

/-- An integer result limited to the working format, and whether it was (R141). -/
def vxSat (wf : Nat) (i : Int) : Nat × Bool :=
  let (v, sat) := saturate (widthBits wf) i
  (bitsOfInt (widthBits wf) v, sat)

/-- An operation that has a floating-point and an integer form. -/
def bothForms (f : Nat → Nat → Nat → Nat) (i : Int → Int → Int) : VxFn := fun wf a b _ =>
  if isIntCode wf then vxSat wf (i (vxInt wf a) (vxInt wf b)) else (f wf a b, false)

/-- An operation that has a floating-point form only. -/
def floatOnly (f : Nat → Nat → Nat → Nat → Nat) : VxFn := fun wf a b c => (f wf a b c, false)

/-- MOV: A, its value unchanged; a NaN becomes the canonical one (R34). -/
def vxMov : VxFn := fun wf a _ _ => (toWf wf (decodeNum wf a), false)
/-- ADD: A + B. -/
def vxAdd : VxFn := bothForms fpAdd (· + ·)
/-- SUB: A − B. -/
def vxSub : VxFn := bothForms fpSub (· - ·)
/-- MUL: A × B. -/
def vxMul : VxFn := bothForms fpMul (· * ·)
/-- DIV: A ÷ B. -/
def vxDiv : VxFn := floatOnly fun wf a b _ => fpDiv wf a b
/-- MIN. -/
def vxMin : VxFn := bothForms fpMin min
/-- MAX. -/
def vxMax : VxFn := bothForms fpMax max
/-- FMA: A × B + C, one rounding. -/
def vxFma : VxFn := floatOnly fpFma
/-- ABS. -/
def vxAbs : VxFn := bothForms (fun wf a _ => fpAbs wf a) fun a _ => (a.natAbs : Int)
/-- NEG. -/
def vxNeg : VxFn := bothForms (fun wf a _ => fpNeg wf a) fun a _ => -a
/-- SQRT. -/
def vxSqrt : VxFn := floatOnly fun wf a _ _ => fpSqrt wf a
/-- RSQRT: 1 ÷ √A, rounded once. -/
def vxRsqrt : VxFn := floatOnly fun wf a _ _ => roundRne wf (decodeNum wf a).rsqrt
/-- RCP: 1 ÷ A, rounded once. -/
def vxRcp : VxFn := floatOnly fun wf a _ _ => roundRne wf ((Num.ofInt 1).div (decodeNum wf a))
/-- RELU: A where it is above zero, else +0; a NaN gives NaN. -/
def vxRelu : VxFn := bothForms
  (fun wf a _ => let v := decodeNum wf a; if v.isNan then canonicalNan wf else if Num.zero.lt v then a else 0)
  fun a _ => max a 0
/-- The FP32 functions of R151. -/
def vxExp : VxFn := floatOnly fun _ a _ _ => fnExp a
def vxLog : VxFn := floatOnly fun _ a _ _ => fnLog a
def vxGeluTanh : VxFn := floatOnly fun _ a _ _ => fnGeluTanh a
def vxGeluErf : VxFn := floatOnly fun _ a _ _ => fnGeluErf a
def vxSilu : VxFn := floatOnly fun _ a _ _ => fnSilu a
def vxSigmoid : VxFn := floatOnly fun _ a _ _ => fnSigmoid a
def vxTanh : VxFn := floatOnly fun _ a _ _ => fnTanh a

/-- The comparisons of R141. -/
def vxLt (a b : Num) : Bool := a.lt b
def vxLe (a b : Num) : Bool := a.lt b || a.eq b
def vxEq (a b : Num) : Bool := a.eq b
def vxNe (a b : Num) : Bool := !a.eq b

/-- A sum in the working format, saturating for integers (R142). -/
def redAdd (wf a b : Nat) : Nat × Bool := vxAdd wf a b 0

/-- The reductions of R142 and their identities (R143). -/
def rsumRed : VxRed where
  leaf _ v := (v, false)
  combine := redAdd
  ident _ := 0
def rsumsqRed : VxRed where
  leaf wf v := (fpMul wf v v, false)
  combine := redAdd
  ident _ := 0
def rmaxRed : VxRed where
  leaf _ v := (v, false)
  combine wf a b := vxMax wf a b 0
  ident wf := if wf = 0x9 then 0x80000000 else roundRne wf (.inf true)
def rminRed : VxRed where
  leaf _ v := (v, false)
  combine wf a b := vxMin wf a b 0
  ident wf := if wf = 0x9 then 0x7FFFFFFF else roundRne wf (.inf false)
def ramaxRed : VxRed where
  leaf wf v := vxAbs wf v 0 0
  combine wf a b := vxMax wf a b 0
  ident _ := 0

/-! ### COMPRESS and EXPAND (R144, R145) -/

/-- The elements of a row of a RANK 2 descriptor, as bit addresses. -/
def rowBits (d : Desc) (bits : Array Nat) (row : Nat) : List Nat :=
  (List.range (d.extent 0)).map fun i => bits.getD (row * d.extent 0 + i) 0

/-- Elements that a carrier reads: their bits, and the codewords that came poisoned (R380). -/
def carry (s : State) (addrs : List Nat) (w : Nat) : State × List Nat × List Nat :=
  let r := s.mem.readElems .chip w addrs
  ({ s with mem := r.mem }.noteAll s.runPour r.events, r.vals, r.poisoned)

/-- A write of a carrying instruction: the bit address, the width, the value, and whether a codeword of its source was poisoned. -/
abbrev Carry := Nat × Nat × Nat × Bool

/-- The writes of an instruction in their order: a later one to a bit stands (R62). -/
def carryAll (ws : List Carry) : Patch := ws.foldl (fun p e => p.write e.1 e.2.1 e.2.2.1) []

/-- The codewords in which a bit stands that came from a poisoned codeword (R380), in ascending order. -/
def poisonedDst (ws : List Carry) : List Nat :=
  if ws.any (·.2.2.2) then
    ((carryAll (ws.map fun e => (e.1, e.2.1, if e.2.2.2 then 2 ^ e.2.1 - 1 else 0, false))).reverse.filter fun t => t.2.2 != 0).map
      (·.1)
  else []

/-- Elements carried: where each goes, what it holds, and whether a codeword of it is among the poisoned ones. -/
def carried (w : Nat) (bad src dst vals : List Nat) : List Carry :=
  ((src.zip dst).zip vals).map fun e => (e.1.2, w, e.2, (codewordsOf w [e.1.1]).any bad.contains)

/-- Codewords written in poisoned form with the data they hold. -/
def State.poisonCws (s : State) (cws : List Nat) : State :=
  let go := cws.foldl (fun (a : Mem × List MemEvent) c =>
    let (m, ev) := a.1.carryCw .chip c (a.1.raw (32 * c) 32) true
    (m, a.2 ++ ev)) (s.mem, [])
  { s with mem := go.1 }.noteAll s.runPour go.2

/-- What COMPRESS decides from the keys: the assignments kept, how many were dropped and the first of them, and how many
were active. -/
structure Kept where
  kept     : List Nat
  overflow : Nat
  first    : Option Nat
  active   : Nat
deriving DecidableEq, Repr

/-- The loop of R144. -/
def keepRows (cap : Nat) (match_ : Nat → Bool) (na : Nat) : Kept :=
  let hits := (List.range na).filter match_
  let dropped := hits.drop cap
  ⟨hits.take cap, dropped.length, dropped.head?, hits.length⟩

/-- Lists of writes joined one from each in turn. -/
def interleave : List (List Carry) → List Carry → List Carry
  | r :: rs, x :: xs => r ++ x :: interleave rs xs
  | rs, xs => rs.flatten ++ xs

/-- COMPRESS (R144): row by row, and after each row its index. -/
def compressPerform (x : EngCtx) (s : State) : Performed :=
  let r := parseVx x.rec_
  let e (p : VxSpec) : Desc := x.entry.desc p.desc
  let (a, d, xd) := (e r.a, e r.d, e r.x)
  let w := widthBits a.fmt
  let na := a.extent 1 * r.rowDiv
  match consume s (e r.b).bitAddrs 32 with
  | (s, .error err) => (s, .error err)
  | (s, .ok keys) =>
    match readMask x r na s with
    | (s, .error err) => (s, .error err)
    | (s, .ok mask) =>
      let key := x.entry.scalar r.c.pos % 2 ^ 32
      let ka := keys.toArray
      let cap := d.extent 1
      let k := keepRows cap (fun i => ka.getD i 0 = key && mask.getD i true) na
      let (ab, db) := (a.bitAddrs.toArray, d.bitAddrs.toArray)
      let src := k.kept.flatMap fun i => rowBits a ab (i / max 1 r.rowDiv)
      let dst := (List.range k.kept.length).flatMap (rowBits d db)
      let rest := (List.range (cap - k.kept.length)).flatMap fun j => rowBits d db (k.kept.length + j)
      let (s, vals, bad) := carry s src w
      let xs := (List.range cap).map fun j => (k.kept[j]?).getD 0xFFFFFFFF
      let rows := groupsOf (d.extent 0) cap (carried w bad src dst vals ++ rest.map fun b => (b, w, 0, false))
      let ws := interleave rows ((xd.bitAddrs.zip xs).map fun e => (e.1, 32, e.2, false))
      let s := (s.applyPatch (carryAll ws)).poisonCws (poisonedDst ws)
      let first : Word64 := match k.first with
        | some i => BitVec.ofNat 64 i
        | none => BitVec.allOnes 64
      (s, .ok (Done.plain [0, 0, 0, satWord k.active, satWord k.kept.length,
        satWord k.overflow, first, 0] (vxTime x s)))

/-- The slots of an EXPAND that name a row: slot and row, in ascending slot; and how many indices are out of range. -/
def expandSlots (idx : List Nat) (t rowDiv : Nat) : List (Nat × Nat) × Nat :=
  let live := (idx.mapIdx fun j v => (j, signedOf 32 v)).filter fun e => e.2 != -1
  let ok := live.filter fun e => 0 ≤ e.2 && e.2 < ((t * rowDiv : Nat) : Int)
  (ok.map fun e => (e.1, e.2.toNat / max 1 rowDiv), live.length - ok.length)

/-- Rows with their slots in ascending order of the row, slots of one row in their own order (R62, R63, R145). DESIGN CHOICE (log entry
80): where rows of D share addresses, R145's slots one after the other give way to R62's and R63's ascending linear index; where the
elements of one row share addresses and several slots name it, they go slot by slot. -/
def byRow (l : List (Option Nat × Nat)) : List (Option Nat × Nat) :=
  (l.foldl (fun (t : Tab (List (Option Nat × Nat))) e => Tab.upd [] t e.2 (· ++ [e])) []).flatMap (·.2)

/-- The writes of an EXPAND that copies: of each row the elements carried to it, or zeros where no slot names it. -/
def expandWrites (rows : List (Bool × List Nat)) (w : Nat) : List Carry → List Carry :=
  match rows with
  | [] => fun _ => []
  | (true, bits) :: t => fun ws => ws.take bits.length ++ expandWrites t w (ws.drop bits.length)
  | (false, bits) :: t => fun ws => bits.map (fun b => (b, w, 0, false)) ++ expandWrites t w ws

/-- EXPAND (R145). With ACCUM = 1 it is a consumer of A and of D; otherwise it carries the rows. -/
def expandPerform (x : EngCtx) (s : State) : Performed :=
  let r := parseVx x.rec_
  let e (p : VxSpec) : Desc := x.entry.desc p.desc
  let (a, d) := (e r.a, e r.d)
  let w := widthBits a.fmt
  match consume s (e r.x).bitAddrs 32 with
  | (s, .error err) => (s, .error err)
  | (s, .ok idx) =>
    let (named, oor) := expandSlots idx (d.extent 1) r.rowDiv
    let clear := if r.maskZero then (List.range (d.extent 1)).filter fun row => !named.any fun p => p.2 = row else []
    let rows := byRow (clear.map (fun row => (none, row)) ++ named.map fun p => (some p.1, p.2))
    let slots := rows.filterMap fun p => p.1.map fun j => (j, p.2)
    let (ab, db) := (a.bitAddrs.toArray, d.bitAddrs.toArray)
    let src := slots.flatMap fun p => rowBits a ab p.1
    let dst := slots.flatMap fun p => rowBits d db p.2
    let sum (k : Counts) (s : State) : Performed :=
      (s, .ok (Done.plain [satWord k.saturated, satWord k.nanNarrowed, satWord k.nonfinite, satWord slots.length,
        satWord oor, 0, 0, 0] (vxTime x s)))
    if d.accum then
      match consume s src w with
      | (s, .error err) => (s, .error err)
      | (s, .ok vals) =>
        match accumBase s true w dst with
        | (s, .error err) => (s, .error err)
        | (s, .ok base) =>
          let keys := (d.keyIndices x.env).toArray
          let lin := slots.flatMap fun p => (List.range (d.extent 0)).map fun i => p.2 * d.extent 0 + i
          let vs := ((dst.zip lin).zip vals).map fun t =>
            (⟨t.1.1, ⟨x.entry.seed.toNat, d.tid, keys.getD t.1.2 0⟩, isIntCode a.fmt, decodeNum a.fmt t.2⟩ : ToStore)
          let (p, k) := storeAll d.fmt true (modeOf r.rmode) s.mem base Counts.zero vs
          sum k (s.applyPatch p)
    else
      let (s, vals, bad) := carry s src w
      let ws := expandWrites (rows.map fun p => (p.1.isSome, rowBits d db p.2)) w (carried w bad src dst vals)
      let s := (s.applyPatch (carryAll ws)).poisonCws (poisonedDst ws)
      sum ⟨0, 0, (vals.filter (isNonfinite d.fmt)).length⟩ s

/-! ### The operations with their records -/

def movOp : EngineOp := vxOp (elemPerform vxMov)
def vxAddOp : EngineOp := vxOp (elemPerform vxAdd)
def vxSubOp : EngineOp := vxOp (elemPerform vxSub)
def vxMulOp : EngineOp := vxOp (elemPerform vxMul)
def divOp : EngineOp := vxOp (elemPerform vxDiv)
def vxMinOp : EngineOp := vxOp (elemPerform vxMin)
def vxMaxOp : EngineOp := vxOp (elemPerform vxMax)
def fmaOp : EngineOp := vxOp (elemPerform vxFma)
def absOp : EngineOp := vxOp (elemPerform vxAbs)
def negOp : EngineOp := vxOp (elemPerform vxNeg)
def sqrtOp : EngineOp := vxOp (elemPerform vxSqrt)
def rsqrtOp : EngineOp := vxOp (elemPerform vxRsqrt)
def rcpOp : EngineOp := vxOp (elemPerform vxRcp)
def expOp : EngineOp := vxOp (elemPerform vxExp)
def logOp : EngineOp := vxOp (elemPerform vxLog)
def reluOp : EngineOp := vxOp (elemPerform vxRelu)
def geluTanhOp : EngineOp := vxOp (elemPerform vxGeluTanh)
def geluErfOp : EngineOp := vxOp (elemPerform vxGeluErf)
def siluOp : EngineOp := vxOp (elemPerform vxSilu)
def sigmoidOp : EngineOp := vxOp (elemPerform vxSigmoid)
def tanhOp : EngineOp := vxOp (elemPerform vxTanh)
def cmpltOp : EngineOp := vxOp (cmpPerform vxLt)
def cmpleOp : EngineOp := vxOp (cmpPerform vxLe)
def cmpeqOp : EngineOp := vxOp (cmpPerform vxEq)
def cmpneOp : EngineOp := vxOp (cmpPerform vxNe)
def nfcountOp : EngineOp := vxOp nfcountPerform
def rsumOp : EngineOp := vxOp (redPerform rsumRed)
def rsumsqOp : EngineOp := vxOp (redPerform rsumsqRed)
def rmaxOp : EngineOp := vxOp (redPerform rmaxRed)
def rminOp : EngineOp := vxOp (redPerform rminRed)
def ramaxOp : EngineOp := vxOp (redPerform ramaxRed)
def compressOp : EngineOp := vxOp compressPerform
def expandOp : EngineOp := vxOp expandPerform

end Sys2Proof.Machine
end

