-- ==== Sys2Proof/Machine/Compute.lean ====
section
/-! DEFINITION. The issue of MX, DR and VX instructions by queue heads (R76, R100, R118, R120, R140, R166, R169), and the
operation of a record for the checks that PATTERN_LOAD makes. -/

namespace Sys2Proof.Machine

/-- The OPCs the three computing engines define. -/
def mxOpcs : List Nat := [1, 2]
def drOpcs : List Nat := [1, 2]
def vxOpcs : List Nat := vxRows.map (·.opc)

/-- Every command of this file answers with the state after the head's issue. -/
abbrev Out := Host.Outcome State Fault Refusal

/-- WLOAD (R100): the MX head loads a weight bank. -/
def execWload (g : Fin 128) (s : State) : Out := .next (issueHead g .mx (opcIs mxOpcs 2) wloadOp s)
/-- MATMUL (R105 to R107). -/
def execMatmul (g : Fin 128) (s : State) : Out := .next (issueHead g .mx (opcIs mxOpcs 1) matmulOp s)
/-- DRAIN (R120). -/
def execDrain (g : Fin 128) (s : State) : Out := .next (issueHead g .dr (opcIs drOpcs 1) drainOp s)
/-- TCLR (R118). -/
def execTclr (g : Fin 128) (s : State) : Out := .next (issueHead g .dr (opcIs drOpcs 2) tclrOp s)
/-- MOV (R140). -/
def execMov (g : Fin 128) (s : State) : Out := .next (issueHead g .vx (opcIs vxOpcs 0x01) movOp s)
/-- ADD (R140). -/
def execVxAdd (g : Fin 128) (s : State) : Out := .next (issueHead g .vx (opcIs vxOpcs 0x02) vxAddOp s)
/-- SUB (R140). -/
def execVxSub (g : Fin 128) (s : State) : Out := .next (issueHead g .vx (opcIs vxOpcs 0x03) vxSubOp s)
/-- MUL (R140). -/
def execVxMul (g : Fin 128) (s : State) : Out := .next (issueHead g .vx (opcIs vxOpcs 0x04) vxMulOp s)
/-- DIV (R140). -/
def execDiv (g : Fin 128) (s : State) : Out := .next (issueHead g .vx (opcIs vxOpcs 0x05) divOp s)
/-- MIN (R140). -/
def execVxMin (g : Fin 128) (s : State) : Out := .next (issueHead g .vx (opcIs vxOpcs 0x06) vxMinOp s)
/-- MAX (R140). -/
def execVxMax (g : Fin 128) (s : State) : Out := .next (issueHead g .vx (opcIs vxOpcs 0x07) vxMaxOp s)
/-- FMA (R140). -/
def execFma (g : Fin 128) (s : State) : Out := .next (issueHead g .vx (opcIs vxOpcs 0x08) fmaOp s)
/-- ABS (R140). -/
def execAbs (g : Fin 128) (s : State) : Out := .next (issueHead g .vx (opcIs vxOpcs 0x09) absOp s)
/-- NEG (R140). -/
def execNeg (g : Fin 128) (s : State) : Out := .next (issueHead g .vx (opcIs vxOpcs 0x0A) negOp s)
/-- SQRT (R140). -/
def execSqrt (g : Fin 128) (s : State) : Out := .next (issueHead g .vx (opcIs vxOpcs 0x0B) sqrtOp s)
/-- RSQRT (R140). -/
def execRsqrt (g : Fin 128) (s : State) : Out := .next (issueHead g .vx (opcIs vxOpcs 0x0C) rsqrtOp s)
/-- RCP (R140). -/
def execRcp (g : Fin 128) (s : State) : Out := .next (issueHead g .vx (opcIs vxOpcs 0x0D) rcpOp s)
/-- EXP (R140). -/
def execExp (g : Fin 128) (s : State) : Out := .next (issueHead g .vx (opcIs vxOpcs 0x10) expOp s)
/-- LOG (R140). -/
def execLog (g : Fin 128) (s : State) : Out := .next (issueHead g .vx (opcIs vxOpcs 0x11) logOp s)
/-- RELU (R140). -/
def execRelu (g : Fin 128) (s : State) : Out := .next (issueHead g .vx (opcIs vxOpcs 0x12) reluOp s)
/-- GELU_TANH (R140). -/
def execGeluTanh (g : Fin 128) (s : State) : Out := .next (issueHead g .vx (opcIs vxOpcs 0x13) geluTanhOp s)
/-- GELU_ERF (R140). -/
def execGeluErf (g : Fin 128) (s : State) : Out := .next (issueHead g .vx (opcIs vxOpcs 0x14) geluErfOp s)
/-- SILU (R140). -/
def execSilu (g : Fin 128) (s : State) : Out := .next (issueHead g .vx (opcIs vxOpcs 0x15) siluOp s)
/-- SIGMOID (R140). -/
def execSigmoid (g : Fin 128) (s : State) : Out := .next (issueHead g .vx (opcIs vxOpcs 0x16) sigmoidOp s)
/-- TANH (R140). -/
def execTanh (g : Fin 128) (s : State) : Out := .next (issueHead g .vx (opcIs vxOpcs 0x17) tanhOp s)
/-- CMPLT (R140). -/
def execCmplt (g : Fin 128) (s : State) : Out := .next (issueHead g .vx (opcIs vxOpcs 0x20) cmpltOp s)
/-- CMPLE (R140). -/
def execCmple (g : Fin 128) (s : State) : Out := .next (issueHead g .vx (opcIs vxOpcs 0x21) cmpleOp s)
/-- CMPEQ (R140). -/
def execCmpeq (g : Fin 128) (s : State) : Out := .next (issueHead g .vx (opcIs vxOpcs 0x22) cmpeqOp s)
/-- CMPNE (R140). -/
def execCmpne (g : Fin 128) (s : State) : Out := .next (issueHead g .vx (opcIs vxOpcs 0x23) cmpneOp s)
/-- NFCOUNT (R140). -/
def execNfcount (g : Fin 128) (s : State) : Out := .next (issueHead g .vx (opcIs vxOpcs 0x28) nfcountOp s)
/-- RSUM (R140). -/
def execRsum (g : Fin 128) (s : State) : Out := .next (issueHead g .vx (opcIs vxOpcs 0x30) rsumOp s)
/-- RSUMSQ (R140). -/
def execRsumsq (g : Fin 128) (s : State) : Out := .next (issueHead g .vx (opcIs vxOpcs 0x31) rsumsqOp s)
/-- RMAX (R140). -/
def execRmax (g : Fin 128) (s : State) : Out := .next (issueHead g .vx (opcIs vxOpcs 0x32) rmaxOp s)
/-- RMIN (R140). -/
def execRmin (g : Fin 128) (s : State) : Out := .next (issueHead g .vx (opcIs vxOpcs 0x33) rminOp s)
/-- RAMAX (R140). -/
def execRamax (g : Fin 128) (s : State) : Out := .next (issueHead g .vx (opcIs vxOpcs 0x34) ramaxOp s)
/-- COMPRESS (R140, R144). -/
def execCompress (g : Fin 128) (s : State) : Out := .next (issueHead g .vx (opcIs vxOpcs 0x40) compressOp s)
/-- EXPAND (R140, R145). -/
def execExpand (g : Fin 128) (s : State) : Out := .next (issueHead g .vx (opcIs vxOpcs 0x41) expandOp s)
/-- NORMSQ (R140, R166). -/
def execNormsq (g : Fin 128) (s : State) : Out := .next (issueHead g .vx (opcIs vxOpcs 0x50) normsqOp s)
/-- UPDATE (R140, R169). -/
def execUpdate (g : Fin 128) (s : State) : Out := .next (issueHead g .vx (opcIs vxOpcs 0x51) updateOp s)

/-- The operation of an MX, DR or VX record by its OPC; an undefined OPC has any of them, whose check 1 refuses it. -/
def computeOp (eng : Engine) (opc : Nat) : EngineOp :=
  match eng, opc with
  | .mx, 2 => wloadOp
  | .mx, _ => matmulOp
  | .dr, 2 => tclrOp
  | .dr, _ => drainOp
  | _, 0x02 => vxAddOp
  | _, 0x03 => vxSubOp
  | _, 0x04 => vxMulOp
  | _, 0x05 => divOp
  | _, 0x06 => vxMinOp
  | _, 0x07 => vxMaxOp
  | _, 0x08 => fmaOp
  | _, 0x09 => absOp
  | _, 0x0A => negOp
  | _, 0x0B => sqrtOp
  | _, 0x0C => rsqrtOp
  | _, 0x0D => rcpOp
  | _, 0x10 => expOp
  | _, 0x11 => logOp
  | _, 0x12 => reluOp
  | _, 0x13 => geluTanhOp
  | _, 0x14 => geluErfOp
  | _, 0x15 => siluOp
  | _, 0x16 => sigmoidOp
  | _, 0x17 => tanhOp
  | _, 0x20 => cmpltOp
  | _, 0x21 => cmpleOp
  | _, 0x22 => cmpeqOp
  | _, 0x23 => cmpneOp
  | _, 0x28 => nfcountOp
  | _, 0x30 => rsumOp
  | _, 0x31 => rsumsqOp
  | _, 0x32 => rmaxOp
  | _, 0x33 => rminOp
  | _, 0x34 => ramaxOp
  | _, 0x40 => compressOp
  | _, 0x41 => expandOp
  | _, 0x50 => normsqOp
  | _, 0x51 => updateOp
  | _, _ => movOp

end Sys2Proof.Machine
end

