-- ==== Sys2Proof/Machine/CoreOps.lean ====
section
/-! DEFINITION. The control core: decoding (Tables 4-2, 4-3, 4-15), fetch and retirement, registers and scalar data memory,
ISSUE and DEFER (R74, R81 to R87, R156 to R164, R339, R434). -/

namespace Sys2Proof.Machine

/-! ### Decoding -/

/-- The instructions of Table 4-3 and its two lists of FN values; DEFER by its SUB. -/
inductive CoreOp where
  | add | sub | and | or | xor | shl | shr | sra | mul | mulhu | divu | remu | slt | sltu | min | max
  | addi | movk
  | fadd | fsub | fmul | fdiv | fsqrt | fmin | fmax | flt | feq | fcvtDS | fcvtSD | fcvtDL | fcvtLD
  | ld64 | ld32 | st64 | st32
  | beq | bne | blt | bge | bltu | bgeu | jmp | call | jr
  | waitt | sett | clrt | sumrd | issue | deferArm | deferSync | phaseHint | fence | halt
deriving DecidableEq, Repr

/-- The integer group by FN. -/
def intGroup : Nat → Option CoreOp
  | 0x000 => some .add
  | 0x001 => some .sub
  | 0x002 => some .and
  | 0x003 => some .or
  | 0x004 => some .xor
  | 0x005 => some .shl
  | 0x006 => some .shr
  | 0x007 => some .sra
  | 0x008 => some .mul
  | 0x009 => some .mulhu
  | 0x00A => some .divu
  | 0x00B => some .remu
  | 0x00C => some .slt
  | 0x00D => some .sltu
  | 0x00E => some .min
  | 0x00F => some .max
  | _ => none

/-- The floating-point group by FN; true where XB is used. -/
def fpGroup : Nat → Option (CoreOp × Bool)
  | 0x000 => some (.fadd, true)
  | 0x001 => some (.fsub, true)
  | 0x002 => some (.fmul, true)
  | 0x003 => some (.fdiv, true)
  | 0x004 => some (.fsqrt, false)
  | 0x005 => some (.fmin, true)
  | 0x006 => some (.fmax, true)
  | 0x008 => some (.flt, true)
  | 0x009 => some (.feq, true)
  | 0x00A => some (.fcvtDS, false)
  | 0x00B => some (.fcvtSD, false)
  | 0x00C => some (.fcvtDL, false)
  | 0x00D => some (.fcvtLD, false)
  | _ => none

/-- An operation whose reserved bits, given by a mask, are zero (R434). -/
def whenClear (w mask : Nat) (op : CoreOp) : Option CoreOp := if w &&& mask = 0 then some op else none

/-- The instruction of a word, by Table 4-3 and R434; none where the encoding is not in the table. -/
def coreDecode (w : Nat) : Option CoreOp :=
  match fieldOf w 26 6 with
  | 0x00 => intGroup (fieldOf w 0 11)
  | 0x01 => some .addi
  | 0x02 => whenClear w 0x001C0000 .movk
  | 0x03 => (fpGroup (fieldOf w 0 11)).bind fun e => if e.2 then some e.1 else whenClear w 0x0000F800 e.1
  | 0x08 => some .ld64
  | 0x09 => some .st64
  | 0x0A => some .ld32
  | 0x0B => some .st32
  | 0x10 => some .beq
  | 0x11 => some .bne
  | 0x12 => some .blt
  | 0x13 => some .bge
  | 0x14 => some .bltu
  | 0x15 => some .bgeu
  | 0x18 => some .jmp
  | 0x19 => some .call
  | 0x1A => whenClear w 0x03E0FFFF .jr
  | 0x20 => whenClear w 0x03FF7F00 .waitt
  | 0x21 => whenClear w 0x03FFFF00 .sett
  | 0x22 => whenClear w 0x03FFFF00 .clrt
  | 0x28 => whenClear w 0x001FF0F8 .sumrd
  | 0x30 => if fieldOf w 23 3 ≤ 4 then whenClear w 0x0060001F .issue else none
  | 0x31 =>
    match fieldOf w 21 5 with
    | 0 => whenClear w 0x00007F00 .deferArm
    | 1 => whenClear w 0x001FE0FF .deferSync
    | _ => none
  | 0x32 => if fieldOf w 8 5 ≤ 16 then whenClear w 0x03FFE000 .phaseHint else none
  | 0x3E => whenClear w 0x03FFFFFF .fence
  | 0x3F => whenClear w 0x03FFFFFF .halt
  | _ => none

/-- Word 0 of an ISSUE. -/
def isIssueWord (w : Nat) : Bool := fieldOf w 26 6 = 0x30

/-- R85: word 1 names no token twice among enabled waits, nor among enabled posts. -/
def issueWordsOk (w w1 : Nat) : Bool :=
  !(w.testBit 15 && w.testBit 13 && fieldOf w1 24 8 = fieldOf w1 16 8)
    && !(w.testBit 11 && w.testBit 10 && fieldOf w1 8 8 = fieldOf w1 0 8)

/-- The 32-bit words of a code section. -/
def codeWords (bs : List Byte) : List Nat := (List.range (bs.length / 4)).map fun i => leNat ((bs.drop (4 * i)).take 4)

/-- R83's sweep of a code section: every instruction is one of Table 4-3, and the section does not end within an ISSUE. -/
def sweepOk : List Nat → Bool
  | [] => true
  | [w] => !isIssueWord w && (coreDecode w).isSome
  | w :: x :: t =>
    (coreDecode w).isSome && if isIssueWord w then issueWordsOk w x && sweepOk t else sweepOk (x :: t)

/-- A word of a code section begins an instruction (R83). -/
def boundaryIn : List Nat → Nat → Bool
  | [], _ => false
  | _ :: _, 0 => true
  | [_], _ + 1 => false
  | w :: _ :: _, 1 => !isIssueWord w
  | w :: x :: t, n + 2 => if isIssueWord w then boundaryIn t n else boundaryIn (x :: t) (n + 1)

/-! ### Registers and scalar data memory -/

/-- A register; x0 reads as zero (R81). -/
def Cluster.reg (c : Cluster) (n : Nat) : Word64 := if n = 0 then 0 else Tab.get 0 c.regs n

/-- A register written; writes of x0 are ignored (R81). -/
def Cluster.setReg (c : Cluster) (n : Nat) (v : Word64) : Cluster :=
  if n = 0 then c else { c with regs := Tab.put 0 c.regs n v }

/-- Scalar data memory read by a consumer (R380). -/
def consumeScalar (s : State) (g a n : Nat) : State × Except (BitVec 16) (List Byte) :=
  let r := (s.cl g).dmem.readRange (.priv g) a n
  let s := (s.updCl g fun c => { c with dmem := r.mem }).noteAll s.runPour r.events
  match r.poisoned with
  | [] => (s, .ok r.data)
  | c :: _ => (s, .error (if r.bad.contains c then stUncorrectable else stPoisonConsumed))

/-- Instruction memory read by the fetch, a consumer (R380). -/
def consumeCode (s : State) (g a n : Nat) : State × Except (BitVec 16) (List Byte) :=
  let r := (s.cl g).imem.readRange (.priv g) a n
  let s := (s.updCl g fun c => { c with imem := r.mem }).noteAll s.runPour r.events
  match r.poisoned with
  | [] => (s, .ok r.data)
  | c :: _ => (s, .error (if r.bad.contains c then stUncorrectable else stPoisonConsumed))

/-! ### One instruction -/

/-- What an instruction has at hand: its cluster, its address and its words (word 1 of an ISSUE, else 0). -/
structure CoreArgs where
  g  : Nat
  pc : Nat
  w  : Nat
  w1 : Nat

/-- The fields of Table 4-2. -/
def CoreArgs.xd (a : CoreArgs) : Nat := fieldOf a.w 21 5
def CoreArgs.xa (a : CoreArgs) : Nat := fieldOf a.w 16 5
def CoreArgs.xb (a : CoreArgs) : Nat := fieldOf a.w 11 5
def CoreArgs.imm (a : CoreArgs) : Nat := fieldOf a.w 0 16
def CoreArgs.simm (a : CoreArgs) : Int := signedOf 16 a.w
def CoreArgs.off26 (a : CoreArgs) : Int := signedOf 26 a.w

/-- What an instruction comes to: it retires and names the next address, it stalls, or it faults the pour. -/
inductive CoreOut where
  | retire (s : State) (next : Nat)
  | stall (s : State) (why : Stall)
  | fault (s : State) (status : BitVec 16)
  /-- a fault that CLS_FAULT lays to an engine, at the ISSUE of its queue head (R76) -/
  | clash (s : State) (engine : Nat) (pc : Nat)

/-- A cluster's part of a pour has ended (R87, R165). -/
def Cluster.settle (c : Cluster) : Cluster :=
  if c.run = .halted ∧ Engine.all.all (fun e => (c.queue e).isEmpty) ∧ c.flights.isEmpty ∧ c.lending.items.all (·.finished) then
    { c with run := .ended }
  else c

/-- An instruction retires: it is within the skid of each crossing that fewer than 8 have followed (R401). -/
def Sampler.retired (m : Sampler) (pc : Nat) : Sampler :=
  { m with owed := m.owed.map fun (x : Crossing) => if x.more = 0 then x else ⟨x.cycle, x.pcs ++ [pc], x.more - 1⟩ }

/-- An instruction's outcome put into the state. -/
def CoreOut.apply (g pc : Nat) : CoreOut → State
  | .retire s next =>
    ((s.updCl g fun c => ({ c with
        pc := BitVec.ofNat 19 next, stall := none, asleep := false, idleCycles := 0, lastPc := some pc }).settle).updSampler g
      fun m => m.retired pc).count (ctrCluster g 14) 1
  | .stall s why => s.updCl g fun c => { c with stall := some why }
  | .fault s st => s.faultPour g srcCore st (BitVec.ofNat 18 pc) 0
  | .clash s e pc => s.faultPour g e stSlotCollision (BitVec.ofNat 18 pc) 0

/-- The words of an instruction fetched: word 0, and word 1 where word 0 begins an ISSUE. -/
def coreFetch (g pc : Nat) (s : State) : State × Except (BitVec 16) CoreArgs :=
  if (s.cl g).codeLen < pc + 4 then (s, .error stMalformed)
  else
    match consumeCode s g pc 4 with
    | (s, .error st) => (s, .error st)
    | (s, .ok b) =>
      let w := leNat b
      if isIssueWord w then
        match consumeCode s g (pc + 4) 4 with
        | (s, .error st) => (s, .error st)
        | (s, .ok b) => (s, .ok ⟨g, pc, w, leNat b⟩)
      else (s, .ok ⟨g, pc, w, 0⟩)

/-- The core of a cluster may execute its next instruction. -/
def State.coreReady (s : State) (g : Nat) : Bool :=
  s.attemptRuns g && (s.cl g).run = .running && (s.cl g).stall.isNone

/-- The instruction at the program counter executes, if it is the one the command names. A fetch that fails faults the
pour whichever instruction was to come (R84, R379, R380). -/
def coreRun (g : Nat) (op : CoreOp) (body : CoreArgs → State → CoreOut) (s : State) : State :=
  let pc := (s.cl g).pc.toNat
  if s.coreReady g then
    match coreFetch g pc s with
    | (s, .error st) => CoreOut.apply g pc (.fault s st)
    | (s', .ok a) => if coreDecode a.w = some op then CoreOut.apply g pc (body a s') else s
  else s

/-- A register result. -/
def CoreArgs.result (a : CoreArgs) (v : Word64) (s : State) : CoreOut :=
  .retire (s.updCl a.g fun c => c.setReg a.xd v) (a.pc + 4)

/-- xd := xa op xb. -/
def aluBody (f : Word64 → Word64 → Word64) (a : CoreArgs) (s : State) : CoreOut :=
  a.result (f ((s.cl a.g).reg a.xa) ((s.cl a.g).reg a.xb)) s

/-- An FP64 operation on register bits. -/
def fpBody (f : Nat → Nat → Nat) (a : CoreArgs) (s : State) : CoreOut :=
  aluBody (fun x y => BitVec.ofNat 64 (f x.toNat y.toNat)) a s

def b2w (b : Bool) : Word64 := if b then 1 else 0

def addBody : CoreArgs → State → CoreOut := aluBody (· + ·)
def subBody : CoreArgs → State → CoreOut := aluBody (· - ·)
def andBody : CoreArgs → State → CoreOut := aluBody (· &&& ·)
def orBody : CoreArgs → State → CoreOut := aluBody (· ||| ·)
def xorBody : CoreArgs → State → CoreOut := aluBody (· ^^^ ·)
def shlBody : CoreArgs → State → CoreOut := aluBody fun x y => x <<< (y.toNat % 64)
def shrBody : CoreArgs → State → CoreOut := aluBody fun x y => x >>> (y.toNat % 64)
def sraBody : CoreArgs → State → CoreOut := aluBody fun x y => x.sshiftRight (y.toNat % 64)
def mulBody : CoreArgs → State → CoreOut := aluBody (· * ·)
def mulhuBody : CoreArgs → State → CoreOut := aluBody fun x y => BitVec.ofNat 64 (x.toNat * y.toNat / 2 ^ 64)
def divuBody : CoreArgs → State → CoreOut := aluBody fun x y => if y = 0 then BitVec.allOnes 64 else x / y
def remuBody : CoreArgs → State → CoreOut := aluBody fun x y => if y = 0 then x else x % y
def sltBody : CoreArgs → State → CoreOut := aluBody fun x y => b2w (x.slt y)
def sltuBody : CoreArgs → State → CoreOut := aluBody fun x y => b2w (x.ult y)
def minBody : CoreArgs → State → CoreOut := aluBody fun x y => if x.slt y then x else y
def maxBody : CoreArgs → State → CoreOut := aluBody fun x y => if x.slt y then y else x
def addiBody (a : CoreArgs) (s : State) : CoreOut := a.result ((s.cl a.g).reg a.xa + BitVec.ofInt 64 a.simm) s

/-- Bits [16k+15:16k] of xd := IMM16. -/
def movkBody (a : CoreArgs) (s : State) : CoreOut :=
  let k := fieldOf a.w 16 2
  let old := (s.cl a.g).reg a.xd
  a.result ((old &&& ~~~(0xFFFF#64 <<< (16 * k))) ||| (BitVec.ofNat 64 a.imm <<< (16 * k))) s

def faddBody : CoreArgs → State → CoreOut := fpBody (fpAdd 0xE)
def fsubBody : CoreArgs → State → CoreOut := fpBody (fpSub 0xE)
def fmulBody : CoreArgs → State → CoreOut := fpBody (fpMul 0xE)
def fdivBody : CoreArgs → State → CoreOut := fpBody (fpDiv 0xE)
def fsqrtBody : CoreArgs → State → CoreOut := fpBody fun x _ => fpSqrt 0xE x
def fminBody : CoreArgs → State → CoreOut := fpBody (fpMin 0xE)
def fmaxBody : CoreArgs → State → CoreOut := fpBody (fpMax 0xE)
def fltBody : CoreArgs → State → CoreOut := fpBody fun x y => if (decodeNum 0xE x).lt (decodeNum 0xE y) then 1 else 0
def feqBody : CoreArgs → State → CoreOut := fpBody fun x y => if (decodeNum 0xE x).eq (decodeNum 0xE y) then 1 else 0
def fcvtDSBody : CoreArgs → State → CoreOut := fpBody fun x _ => roundRne 0xE (decodeNum 0x0 (x % 2 ^ 32))
def fcvtSDBody : CoreArgs → State → CoreOut := fpBody fun x _ => roundRne 0x0 (decodeNum 0xE x)
def fcvtDLBody : CoreArgs → State → CoreOut := fpBody fun x _ => roundRne 0xE (Num.ofInt (signedOf 64 x))
def fcvtLDBody : CoreArgs → State → CoreOut :=
  fpBody fun x _ => (narrowInt 64 (-(2 ^ 63 : Nat)) ((2 ^ 63 : Nat) - 1) .rtz .none (decodeNum 0xE x)).bits

/-! ### Loads, stores and control flow -/

/-- The address of a scalar access: xa + sign-extended IMM16. -/
def CoreArgs.dataAddr (a : CoreArgs) (s : State) : Nat := ((s.cl a.g).reg a.xa + BitVec.ofInt 64 a.simm).toNat

/-- R84: an access of n bytes within scalar data memory, aligned to its size. -/
def scalarOk (addr n : Nat) : Bool := addr % n = 0 && addr + n ≤ 0x10000

/-- A load of n bytes, zero-extended. -/
def loadBody (n : Nat) (a : CoreArgs) (s : State) : CoreOut :=
  let addr := a.dataAddr s
  if scalarOk addr n then
    match consumeScalar s a.g addr n with
    | (s, .error st) => .fault s st
    | (s, .ok b) => a.result (BitVec.ofNat 64 (leNat b)) s
  else .fault s stMalformed

/-- A store overlaps what an item armed in the lending period is made of (R163). -/
def Cluster.storeLent (c : Cluster) (addr : Nat) : Bool :=
  c.lending.active && c.lending.items.any fun i => i.lines.contains (addr / 64 * 64)

/-- A store of n bytes; the line is no longer fixed (R179). -/
def storeBody (n : Nat) (a : CoreArgs) (s : State) : CoreOut :=
  let addr := a.dataAddr s
  if !scalarOk addr n || (s.cl a.g).storeLent addr then .fault s stMalformed
  else
    let (m, ev) := (s.cl a.g).dmem.writeRange (.priv a.g) addr (leBytes n ((s.cl a.g).reg a.xd).toNat)
    let line := addr / 64 * 64
    .retire ((s.updCl a.g fun c => { c with
      dmem := m
      dirty := if c.dirty.contains line then c.dirty else line :: c.dirty }).noteAll s.runPour ev) (a.pc + 4)

def ld64Body : CoreArgs → State → CoreOut := loadBody 8
def ld32Body : CoreArgs → State → CoreOut := loadBody 4
def st64Body : CoreArgs → State → CoreOut := storeBody 8
def st32Body : CoreArgs → State → CoreOut := storeBody 4

/-- R84: an address at which an instruction of the cluster's code begins. -/
def State.isTarget (s : State) (g t : Nat) : Bool :=
  t % 4 = 0 && t < (s.cl g).codeLen && (s.runPattern.map fun p => boundaryIn (codeWords (Tab.get [] p.code g)) (t / 4)).getD false

/-- Control goes to an address; `link` writes x31. -/
def CoreArgs.goTo (a : CoreArgs) (t : Int) (link : Bool) (s : State) : CoreOut :=
  if 0 ≤ t ∧ s.isTarget a.g t.toNat then
    .retire (if link then s.updCl a.g fun c => c.setReg 31 (BitVec.ofNat 64 (a.pc + 4)) else s) t.toNat
  else .fault s stMalformed

/-- A conditional branch: xd compared with xa. -/
def branchBody (cond : Word64 → Word64 → Bool) (a : CoreArgs) (s : State) : CoreOut :=
  if cond ((s.cl a.g).reg a.xd) ((s.cl a.g).reg a.xa) then a.goTo (a.pc + 4 * a.simm) false s else .retire s (a.pc + 4)

def beqBody : CoreArgs → State → CoreOut := branchBody (· == ·)
def bneBody : CoreArgs → State → CoreOut := branchBody (· != ·)
def bltBody : CoreArgs → State → CoreOut := branchBody fun x y => x.slt y
def bgeBody : CoreArgs → State → CoreOut := branchBody fun x y => !x.slt y
def bltuBody : CoreArgs → State → CoreOut := branchBody fun x y => x.ult y
def bgeuBody : CoreArgs → State → CoreOut := branchBody fun x y => !x.ult y
def jmpBody (a : CoreArgs) (s : State) : CoreOut := a.goTo (a.pc + 4 * a.off26) false s
def callBody (a : CoreArgs) (s : State) : CoreOut := a.goTo (a.pc + 4 * a.off26) true s
def jrBody (a : CoreArgs) (s : State) : CoreOut := a.goTo ((s.cl a.g).reg a.xa).toNat false s

/-! ### Tokens, summaries, hints -/

/-- The token an instruction names. -/
def CoreArgs.token (a : CoreArgs) : Nat := fieldOf a.w 0 8

/-- WAITT. Where the token would be cleared in the cycle in which a ready queue head consumes it, the pour faults (R76). -/
def waittBody (a : CoreArgs) (s : State) : CoreOut :=
  let c := s.cl a.g
  if c.token a.token then
    if a.w.testBit 15 then
      match Engine.all.find? fun e => s.headReady a.g e && ((c.head e).map fun h => h.consumes.contains a.token).getD false with
      | some e => .clash s e.toNat (((c.head e).map (·.pc)).getD 0)
      | none => .retire (s.updCl a.g fun c => c.latchGuards.putToken a.token false) (a.pc + 4)
    else .retire s (a.pc + 4)
  else .stall s (.token a.token)

/-- SETT; on a set token it faults (R77). -/
def settBody (a : CoreArgs) (s : State) : CoreOut :=
  if (s.cl a.g).token a.token then .fault s stSlotCollision
  else .retire (s.updCl a.g fun c => c.putToken a.token true) (a.pc + 4)

/-- CLRT; on a clear token it faults (R77). -/
def clrtBody (a : CoreArgs) (s : State) : CoreOut :=
  if (s.cl a.g).token a.token then .retire (s.updCl a.g fun c => c.latchGuards.putToken a.token false) (a.pc + 4)
  else .fault s stSlotCollision

/-- A summary slot. -/
def Cluster.slot (c : Cluster) (n : Nat) : SumSlot := Tab.get SumSlot.init c.slots n

/-- A summary slot set. -/
def Cluster.setSlot (c : Cluster) (n : Nat) (v : SumSlot) : Cluster := { c with slots := Tab.put SumSlot.init c.slots n v }

/-- SUMRD (R86). -/
def sumrdBody (a : CoreArgs) (s : State) : CoreOut :=
  let n := fieldOf a.w 8 4
  let sl := (s.cl a.g).slot n
  if sl.valid then a.result (sl.words.getD (fieldOf a.w 0 3) 0) s else .stall s (.slot n)

/-- PHASE_HINT (R339). -/
def phaseHintBody (a : CoreArgs) (s : State) : CoreOut :=
  .retire (s.updCl a.g fun c => { c with gate := { c.gate with newHint := some (fieldOf a.w 8 5, fieldOf a.w 0 8) } }) (a.pc + 4)

/-- All five queues are empty and nothing is in flight. -/
def Cluster.drained (c : Cluster) : Bool := Engine.all.all (fun e => (c.queue e).isEmpty) && c.flights.isEmpty

/-- FENCE. -/
def fenceBody (a : CoreArgs) (s : State) : CoreOut :=
  if (s.cl a.g).drained then .retire s (a.pc + 4) else .stall s .drained

/-- HALT (R87). -/
def haltBody (a : CoreArgs) (s : State) : CoreOut := .retire (s.updCl a.g fun c => { c with run := .halted }) (a.pc + 4)

/-! ### ISSUE (R74, R85, R119, R135) -/

/-- The operation of a record of an engine. -/
def opOf (eng : Engine) (rec_ : Nat) : EngineOp :=
  match eng with
  | .ld => if rec_ % 256 = 2 then collOp .ld else copyOp .ld
  | .st => if rec_ % 256 = 2 then collOp .st else copyOp .st
  | _ => computeOp eng (rec_ % 256)

/-- The descriptors a record names. -/
def recDescs (eng : Engine) (rec_ : Nat) : List Nat :=
  match eng with
  | .mx => (parseMx rec_).descs
  | .dr => (parseDr rec_).descs
  | .vx => (parseVx rec_).descs
  | _ => (parseLs rec_).descs

/-- The register whose value seeds a record's draws (R119); x0 where the record has none. -/
def seedReg (eng : Engine) (rec_ : Nat) : Nat :=
  match eng with
  | .mx => 0
  | .dr => (parseDr rec_).seedX
  | .vx => (parseVx rec_).seedX
  | _ => (parseLs rec_).seedX

/-- A line address of scalar data memory. -/
def lineOk (a : Nat) : Bool := a % 64 = 0 && a ≤ 0xFFC0

/-- A 64-byte line read by the copy of R74, unless it has been read. -/
def copyLine (g a : Nat) (acc : List (Nat × BitVec 512)) (s : State) : State × Except (BitVec 16) (List (Nat × BitVec 512)) :=
  if !lineOk a || acc.any (fun l => l.1 = a) then (s, .ok acc)
  else
    match consumeScalar s g a 64 with
    | (s, .error st) => (s, .error st)
    | (s, .ok b) => (s, .ok (acc ++ [(a, BitVec.ofNat 512 (leNat b))]))

/-- Descriptors read: each one's first line, and the second of a global one. -/
def copyDescs (g : Nat) : List Nat → List (Nat × BitVec 512) → State → State × Except (BitVec 16) (List (Nat × BitVec 512))
  | [], acc, s => (s, .ok acc)
  | a :: as, acc, s =>
    match copyLine g a acc s with
    | (s, .error st) => (s, .error st)
    | (s, .ok acc) =>
      let global := acc.any fun l => l.1 = a && l.2.toNat.testBit 55
      match if global then copyLine g (a + 64) acc s else (s, .ok acc) with
      | (s, .error st) => (s, .error st)
      | (s, .ok acc) => copyDescs g as acc s

/-- The KIND 5 operands of a VX record: specifier position and register. -/
def scalarSpecs (eng : Engine) (rec_ : Nat) : List (Nat × Nat) :=
  if eng = .vx then ((parseVx rec_).specs.filter fun p => p.kind = 5).map fun p => (p.pos, p.low % 32) else []

/-- The update block an UPDATE names (R169): its scalar data address. -/
def blockAddr (c : Cluster) (eng : Engine) (rec_ : Nat) : Option Nat :=
  let r := parseVx rec_
  if eng = .vx ∧ r.opc = 0x51 ∧ r.c.kind = 5 then some ((c.reg (r.c.low % 32)).toNat % 2 ^ 16) else none

/-- A line among those read. -/
def lineIn (acc : List (Nat × BitVec 512)) (a : Nat) : BitVec 512 := ((acc.find? fun l => l.1 = a).map (·.2)).getD 0

/-- The lines an engine's record needs: its descriptors, and an update block with the descriptors it names. -/
def copyLines (g : Nat) (eng : Engine) (rec_ : Nat) (s : State) : State × Except (BitVec 16) (List (Nat × BitVec 512)) :=
  match copyDescs g (recDescs eng rec_) [] s with
  | (s, .error st) => (s, .error st)
  | (s, .ok acc) =>
    match blockAddr (s.cl g) eng rec_ with
    | none => (s, .ok acc)
    | some b =>
      match copyLine g b acc s with
      | (s, .error st) => (s, .error st)
      | (s, .ok acc) =>
        let blk := parseBlock (lineIn acc b).toNat
        copyDescs g ((blk.ins ++ blk.outs).filter (· != 0)) acc s

/-- A record that a pattern fixes for an engine in a role (R179): listed in RECORDS as a compiled instruction, or a step of a
DEFERRED block. A record fixed in one role only has been checked in that role only, so its checks are made in the other (R115,
R158). -/
def Pattern.fixedRecord (p : Pattern) (g : Nat) (eng : Engine) (deferred : Bool) (addr : Nat) : Bool :=
  if deferred then
    (Tab.get [] p.deferred g).any fun d =>
      let map := leNat ((d.2.2.drop 8).take 8)
      (List.range d.2.1).any fun j => d.1 + 64 + 64 * j = addr && (if map.testBit j then eng = .dr else eng = .mx)
  else (Tab.get [] p.records g).any fun e => e.1 = addr && e.2 = eng.toNat

/-- The scalar data addresses of a record's lines that are fixed and that the core has not stored to (R179). A descriptor's
second line counts where it has one. -/
def fixedLines (p : Pattern) (c : Cluster) (g : Nat) (eng : Engine) (deferred : Bool) (addr rec_ : Nat)
    (lines : List (Nat × BitVec 512)) : List Nat :=
  if p.fixedRecord g eng deferred addr && !c.dirty.contains addr then
    addr :: (recDescs eng rec_).filter fun a =>
      !c.dirty.contains a && !((lineIn lines a).toNat.testBit 55 && c.dirty.contains (a + 64))
  else []

/-- A queue entry made of a record in scalar data memory, without its tokens, as a compiled instruction or as a step. -/
def makeEntry (p : Pattern) (g : Nat) (eng : Engine) (deferred : Bool) (pc addr : Nat) (seed : Nat → Word64) (s : State) :
    State × Except (BitVec 16) QEntry :=
  match consumeScalar s g addr 64 with
  | (s, .error st) => (s, .error st)
  | (s, .ok b) =>
    let rec_ := leNat b
    match copyLines g eng rec_ s with
    | (s, .error st) => (s, .error st)
    | (s, .ok lines) =>
      let c := s.cl g
      (s, .ok ⟨pc, addr, BitVec.ofNat 512 rec_, lines, seed (seedReg eng rec_),
        (scalarSpecs eng rec_).map fun e => (e.1, c.reg e.2), fixedLines p c g eng deferred addr rec_ lines,
        none, none, none, none, none, c.cycle⟩)

/-- The footprints of an entry, whether or not its checks will pass when it issues (R162). -/
def entryPrints (p : Pattern) (g : Nat) (eng : Engine) (q : QEntry) (deferred : Bool) (s : State) : Prints :=
  (opOf eng q.record.toNat).prints (s.engCtx p g q deferred) s

/-- R161: a compiled MX record with BANK = 1, or a MATMUL with PRELOAD = 1. -/
def touchesBank1 (rec_ : Nat) : Bool :=
  let r := parseMx rec_
  r.bank || (r.opc = 1 && r.preload)

/-- The engine of an ISSUE. -/
def engineOf : Nat → Engine
  | 0 => .ld
  | 1 => .st
  | 2 => .mx
  | 3 => .dr
  | _ => .vx

/-- The tokens and the slot of an ISSUE (Table 4-4). -/
def withTokens (a : CoreArgs) (q : QEntry) : QEntry :=
  { q with
    wait0 := if a.w.testBit 15 then some (fieldOf a.w1 24 8, a.w.testBit 14) else none
    wait1 := if a.w.testBit 13 then some (fieldOf a.w1 16 8, a.w.testBit 12) else none
    post0 := if a.w.testBit 11 then some (fieldOf a.w1 8 8) else none
    post1 := if a.w.testBit 10 then some (fieldOf a.w1 0 8) else none
    slot := if a.w.testBit 9 then some (fieldOf a.w 5 4) else none }

/-- An entry enqueued; its slot is no longer valid (R86), and its footprints are remembered in a lending period (R162). -/
def Cluster.enqueue (c : Cluster) (eng : Engine) (q : QEntry) (pr : Prints) : Cluster :=
  let c := match q.slot with
    | some n => c.setSlot n { c.slot n with valid := false }
    | none => c
  let c := if c.lending.active then { c with lending := { c.lending with issued := c.lending.issued ++ [pr] } } else c
  c.setQueue eng (c.queue eng ++ [q])

/-- ISSUE. -/
def issueBody (a : CoreArgs) (s : State) : CoreOut :=
  let c := s.cl a.g
  let eng := engineOf (fieldOf a.w 23 3)
  let addr := (c.reg a.xa).toNat
  if !lineOk addr then .fault s stMalformed
  else if a.w.testBit 9 && !(c.slot (fieldOf a.w 5 4)).valid then .stall s (.sumSlot (fieldOf a.w 5 4))
  else if 16 ≤ (c.queue eng).length then .stall s (.queueFull eng)
  else
    match s.runPattern with
    | none => .retire s (a.pc + 8)
    | some p =>
      match makeEntry p a.g eng false a.pc addr c.reg s with
      | (s, .error st) => .fault s st
      | (s, .ok q) =>
        let pr := if c.lending.active then entryPrints p a.g eng q false s else Prints.none
        if c.lending.active && eng = .mx && touchesBank1 q.record.toNat then .fault s stSlotCollision
        else if c.lending.active && c.lending.items.any fun i => { pr with tilesR := [], tilesW := [] }.clash i.prints then
          .fault s stSlotCollision
        else .retire (s.updCl a.g fun c => c.enqueue eng (withTokens a q) pr) (a.pc + 8)

/-! ### DEFER (R156 to R164) -/

/-- An item header (Table 8-4). -/
structure ItemHeader where
  reserved : Nat
  drMap    : Nat
  steps    : Nat
  first    : Nat

/-- A header read from its 512 bits. -/
def parseHeader (v : Nat) : ItemHeader where
  reserved := fieldOf v 128 384 + fieldOf v 22 42
  drMap := fieldOf v 64 64
  steps := fieldOf v 16 6
  first := fieldOf v 0 16

/-- R157: reserved bits zero, at least one step, steps at aligned addresses within scalar data memory. -/
def ItemHeader.ok (h : ItemHeader) : Bool :=
  h.reserved = 0 && h.steps != 0 && h.first % 64 = 0 && h.first + 64 * h.steps ≤ 0x10000

/-- The engine of step j. -/
def stepEngine (drMap : Nat) (j : Nat) : Engine := if drMap.testBit j then .dr else .mx

/-- The steps of an item as entries, from step j on. -/
def itemEntries (p : Pattern) (g pc drMap first : Nat) (seed : Nat → Nat → Word64) :
    Nat → Nat → List QEntry → State → State × Except (BitVec 16) (List QEntry)
  | 0, _, acc, s => (s, .ok acc)
  | n + 1, j, acc, s =>
    match makeEntry p g (stepEngine drMap j) true pc (first + 64 * j) (seed j) s with
    | (s, .error st) => (s, .error st)
    | (s, .ok q) => itemEntries p g pc drMap first seed n (j + 1) (acc ++ [q]) s

/-- Footprints joined. -/
def Prints.union (a b : Prints) : Prints :=
  ⟨a.rd ++ b.rd, a.wr ++ b.wr, a.tilesR ++ b.tilesR, a.tilesW ++ b.tilesW, a.regsR ++ b.regsR, a.regsW ++ b.regsW⟩

/-- Items that have not completed. -/
def Lending.open_ (l : Lending) : List ArmedItem := l.items.filter fun i => !i.finished

/-- An item appended; the first of a period opens it (R161). -/
def Cluster.arm (c : Cluster) (i : ArmedItem) : Cluster :=
  let l := if c.lending.active then c.lending
    else { Lending.none with
      active := true
      mxAhead := c.qMx.length + ((c.inFlight .mx).filter fun f => !f.deferred).length }
  { c with lending := { l with items := l.items ++ [i] } }

/-- DEFER ARM. -/
def deferArmBody (a : CoreArgs) (s : State) : CoreOut :=
  let c := s.cl a.g
  let addr := (c.reg a.xa).toNat
  if !lineOk addr then .fault s stMalformed
  else if 16 ≤ c.lending.open_.length then .stall s .listFull
  else
    match s.runPattern, consumeScalar s a.g addr 64 with
    | none, _ => .retire s (a.pc + 4)
    | some _, (s, .error st) => .fault s st
    | some p, (s, .ok b) =>
      let h := parseHeader (leNat b)
      if !h.ok then .fault s stMalformed
      else
        match itemEntries p a.g a.pc h.drMap h.first (fun _ => c.reg) h.steps 0 [] s with
        | (s, .error st) => .fault s st
        | (s, .ok qs) =>
          let pr := (qs.mapIdx fun j q => entryPrints p a.g (stepEngine h.drMap j) q true s).foldl Prints.union Prints.none
          let pr := { pr with tilesR := [], tilesW := [] }
          if c.lending.active && c.lending.issued.any fun q => pr.clash { q with tilesR := [], tilesW := [] } then
            .fault s stSlotCollision
          else
            let item : ArmedItem := ⟨a.pc, addr, h.steps, BitVec.ofNat 64 h.drMap, h.first,
              if a.w.testBit 15 then some (fieldOf a.w 0 8) else none, false, 0, false, false,
              qs.map (·.seed), pr,
              addr :: qs.flatMap (fun q => q.addr :: q.lines.map (·.1)), c.cycle⟩
            .retire (s.updCl a.g fun c => c.arm item) (a.pc + 4)

/-- The lending period closes, and bank 1 is invalid (R161, R164). -/
def Cluster.closeLending (c : Cluster) : Cluster :=
  { c with lending := Lending.none, bank1 := { c.bank1 with valid := false } }

/-- DEFER SYNC. -/
def deferSyncBody (a : CoreArgs) (s : State) : CoreOut :=
  let c := s.cl a.g
  let n := fieldOf a.w 8 4
  if !c.lending.open_.isEmpty then .stall s .sync
  else if a.w.testBit 12 then
    if (c.slot n).valid then
      .retire (s.updCl a.g fun c => (c.setSlot n ⟨true, c.lending.sums.map satWord⟩).closeLending) (a.pc + 4)
    else .stall s (.sumSlot n)
  else .retire (s.updCl a.g fun c => c.closeLending) (a.pc + 4)

/-! ### Dispatch and the end of a stall -/

/-- What each instruction does. -/
def coreBody : CoreOp → CoreArgs → State → CoreOut
  | .add => addBody
  | .sub => subBody
  | .and => andBody
  | .or => orBody
  | .xor => xorBody
  | .shl => shlBody
  | .shr => shrBody
  | .sra => sraBody
  | .mul => mulBody
  | .mulhu => mulhuBody
  | .divu => divuBody
  | .remu => remuBody
  | .slt => sltBody
  | .sltu => sltuBody
  | .min => minBody
  | .max => maxBody
  | .addi => addiBody
  | .movk => movkBody
  | .fadd => faddBody
  | .fsub => fsubBody
  | .fmul => fmulBody
  | .fdiv => fdivBody
  | .fsqrt => fsqrtBody
  | .fmin => fminBody
  | .fmax => fmaxBody
  | .flt => fltBody
  | .feq => feqBody
  | .fcvtDS => fcvtDSBody
  | .fcvtSD => fcvtSDBody
  | .fcvtDL => fcvtDLBody
  | .fcvtLD => fcvtLDBody
  | .ld64 => ld64Body
  | .ld32 => ld32Body
  | .st64 => st64Body
  | .st32 => st32Body
  | .beq => beqBody
  | .bne => bneBody
  | .blt => bltBody
  | .bge => bgeBody
  | .bltu => bltuBody
  | .bgeu => bgeuBody
  | .jmp => jmpBody
  | .call => callBody
  | .jr => jrBody
  | .waitt => waittBody
  | .sett => settBody
  | .clrt => clrtBody
  | .sumrd => sumrdBody
  | .issue => issueBody
  | .deferArm => deferArmBody
  | .deferSync => deferSyncBody
  | .phaseHint => phaseHintBody
  | .fence => fenceBody
  | .halt => haltBody

/-- The words of the stalled instruction, which were fetched before it stalled. -/
def stalledArgs (g pc : Nat) (s : State) : CoreArgs :=
  let word (a : Nat) : Nat := leNat ((s.cl g).imem.readRange (.priv g) a 4).data
  ⟨g, pc, word pc, if isIssueWord (word pc) then word (pc + 4) else 0⟩

/-- A stalled instruction tried again: it retires, faults, or waits on for what is then missing (Table 4-8). -/
def coreRetry (g : Nat) (s : State) : State :=
  let a := stalledArgs g (s.cl g).pc.toNat s
  if s.attemptRuns g && (s.cl g).run = .running && (s.cl g).stall.isSome then
    match coreDecode a.w with
    | none => s
    | some op =>
      match coreBody op a s with
      | .stall _ why => s.updCl g fun c => { c with stall := some why }
      | r => CoreOut.apply g a.pc r
  else s

end Sys2Proof.Machine
end

