-- ==== Sys2Proof/Machine/Image.lean ====
section
/-! DEFINITION. Pattern images: the sections (R176 to R180), the pattern they describe, and the checks of Table 10-9. -/

namespace Sys2Proof.Machine

/-! ### Reading the image -/

/-- A number of `n` bytes at an offset of a byte string. -/
def natAt (bs : List Byte) (off n : Nat) : Nat := leNat ((bs.drop off).take n)

/-- A section entry (Table 10-2) with the section's bytes. -/
structure Section where
  type     : Nat
  index    : Nat
  off      : Nat
  len      : Nat
  reserved : Nat
  data     : List Byte

/-- Entry i of the section table. -/
def sectionAt (img : List Byte) (i : Nat) : Section :=
  let v := natAt img (128 + 16 * i) 16
  let off := fieldOf v 64 32
  let len := fieldOf v 32 32
  { type := fieldOf v 0 8
    index := fieldOf v 16 8
    off := off
    len := len
    reserved := fieldOf v 96 32 + fieldOf v 24 8 + fieldOf v 8 8
    data := (img.drop off).take len }

/-- SECTION_COUNT. -/
def sectionCount (img : List Byte) : Nat := natAt img 6 2

/-- The sections of an image. -/
def sections (img : List Byte) : List Section := (List.range (min 1024 (sectionCount img))).map (sectionAt img)

/-- A section's bytes; none where it is absent. -/
def secData (secs : List Section) (t i : Nat) : Option (List Byte) :=
  (secs.find? fun e => e.type = t && e.index = i).map (·.data)

/-- The bytes of a section, empty where it is absent. -/
def secBytes (secs : List Section) (t i : Nat) : List Byte := (secData secs t i).getD []

/-- The blocks of a DEFERRED section: address, steps, reserved bits of the prefix, and the block's bytes. -/
def deferBlocks : Nat → List Byte → List (Nat × Nat × Nat × List Byte)
  | 0, _ => []
  | _, [] => []
  | n + 1, bs =>
    let v := natAt bs 0 4
    let steps := fieldOf v 16 6
    let len := 64 * (steps + 1)
    (fieldOf v 0 16, steps, fieldOf v 22 10, (bs.drop 4).take len) :: deferBlocks n (bs.drop (4 + len))

/-- Every block of a section. -/
def blocksOf (bs : List Byte) : List (Nat × Nat × Nat × List Byte) := deferBlocks (bs.length / 132 + 1) bs

/-- Items of a table of fixed-size entries as numbers. -/
def entriesOf (bs : List Byte) (size : Nat) : List Nat :=
  (List.range (bs.length / size)).map fun i => natAt bs (size * i) size

/-! ### The pattern an image describes -/

/-- The global part of the resource manifest (Table 10-4) as a number. -/
def resGlobal (secs : List Section) : Nat := natAt (secBytes secs 0x01 0) 0 64

/-- The entry of a cluster (Table 10-5) as a number. -/
def resEntry (secs : List Section) (g : Nat) : Nat := natAt (secBytes secs 0x01 0) (64 + 8 * g) 8

/-- The clusters a pattern uses. -/
def usedClusters (secs : List Section) : List Nat := (List.range 128).filter fun g => (resGlobal secs).testBit g

/-- A cluster entry read. -/
def parseRes (v : Nat) : ClusterRes :=
  ⟨fieldOf v 0 18, fieldOf v 18 9, fieldOf v 27 7, fieldOf v 34 7, fieldOf v 41 7⟩

/-- A buffer table entry read (Table 10-6). -/
def parseBuf (v : Nat) : BufEntry := ⟨fieldOf v 0 3, fieldOf v 64 48, fieldOf v 128 48, fieldOf v 192 48⟩

/-- A port entry of the topology manifest read (Table 10-8). -/
def parseTopo (v : Nat) : TopoPort := ⟨v.testBit 0, v.testBit 1, fieldOf v 8 5, fieldOf v 16 18⟩

/-- A route entry read (Table 15-1). -/
def parseRoute (v : Nat) : RouteEntry := ⟨v.testBit 41, fieldOf v 36 5, fieldOf v 0 18, fieldOf v 18 18⟩

/-- A collective record read (Table 15-4). -/
def parseColl (v : Nat) : CollRecord where
  op := fieldOf v 0 4
  red := fieldOf v 4 2
  fmt := fieldOf v 6 4
  rmode := fieldOf v 10 2
  order := v.testBit 12
  notifyEn := v.testBit 13
  group := fieldOf v 16 4
  notifyToken := fieldOf v 24 8
  peer := fieldOf v 32 18
  localEngine := fieldOf v 50 7
  notifyMask := BitVec.ofNat 128 (fieldOf v 64 128)

/-- ROUTE_COUNT and COLL_COUNT. -/
def routeCount (sd : List Byte) : Nat := natAt sd 2 2
def collCount (sd : List Byte) : Nat := natAt sd 0 2

/-- The engine entries, routes and collective records of a STREAMS section as numbers. -/
def engineWords (sd : List Byte) : List Nat := entriesOf ((sd.drop 64).take 1024) 8
def routeWords (sd : List Byte) : List Nat := entriesOf ((sd.drop 1088).take (8 * routeCount sd)) 8
def collWords (sd : List Byte) : List Nat := entriesOf ((sd.drop (1088 + 8 * routeCount sd)).take (64 * collCount sd)) 64

/-- A table over the used clusters. -/
def perCluster {α : Type} (secs : List Section) (f : Nat → Option α) : Tab α :=
  (usedClusters secs).filterMap fun g => (f g).map fun v => (g, v)

/-- The pattern of an image loaded on a channel with an initial step counter. -/
def readPattern (chan : Nat) (t : Word64) (img : List Byte) : Pattern :=
  let secs := sections img
  let rg := resGlobal secs
  let topo := natAt (secBytes secs 0x02 0) 0 16
  let sd := secBytes secs 0x23 0
  let save := fieldOf rg 192 16
  { chan := chan
    digest := sha384 img
    initialT := t
    used := BitVec.ofNat 128 rg
    ports := BitVec.ofNat 32 (fieldOf rg 128 32)
    tundishMin := fieldOf rg 172 4
    riserReserve := fieldOf rg 176 11
    gradMode := rg.testBit 168
    saveBuffer := if save = 0xFFFF then none else some save
    res := perCluster secs fun g => some (parseRes (resEntry secs g))
    bufs := (entriesOf (secBytes secs 0x03 0) 32).map parseBuf
    steps := (entriesOf (secBytes secs 0x04 0) 4).map (BitVec.ofNat 32)
    code := perCluster secs fun g => secData secs 0x10 g
    scalar := perCluster secs fun g => secData secs 0x11 g
    tokens := perCluster secs fun g => (secData secs 0x12 g).map fun b => BitVec.ofNat 256 (leNat b)
    records := perCluster secs fun g => (secData secs 0x13 g).map fun b =>
      (entriesOf b 4).map fun v => (fieldOf v 0 16, fieldOf v 16 3)
    deferred := perCluster secs fun g => (secData secs 0x14 g).map fun b =>
      (blocksOf b).map fun e => (e.1, e.2.1, e.2.2.2)
    mesh := [0, 1].filterMap fun d => (secData secs 0x20 d).map fun b => (d, b)
    floor := [0, 1].filterMap fun d => (secData secs 0x21 d).map fun b => (d, b)
    hbm := secBytes secs 0x22 0
    sizes := (List.range 4).map fun a => max 1 (fieldOf topo (32 + 20 * a) 20)
    topo := (entriesOf ((secBytes secs 0x02 0).drop 16) 8).map parseTopo
    engines := ((engineWords sd).mapIdx fun e v => (e, v)).filterMap fun e =>
      if e.2.testBit 7 then some (e.1, some (fieldOf e.2 0 5)) else none
    routes := (routeWords sd).map parseRoute
    colls := (collWords sd).map parseColl }

/-- The copies of a buffer as base and length. -/
def BufEntry.copies (b : BufEntry) : List (Nat × Nat) :=
  if b.kind = 3 then [(b.base, b.length), (b.copy1, b.length)] else [(b.base, b.length)]

/-- Every copy of every buffer of a pattern. -/
def Pattern.copies (p : Pattern) : List (Nat × Nat) := p.bufs.flatMap BufEntry.copies

/-- Two ranges, by base and length, meet. -/
def rangesMeet (a b : Nat × Nat) : Bool := a.1 < b.1 + b.2 && b.1 < a.1 + a.2

/-- The loaded patterns, by handle. -/
def State.loaded (s : State) : List (Nat × Pattern) := s.patterns.filterMap fun e => e.2.map fun p => (e.1, p)

/-! ### Table 10-9, checks 3 to 5 -/

/-- Check 3. -/
def imageHeaderOk (img : List Byte) (len : Nat) : Bool :=
  let h := natAt img 0 128
  img.length = len && 128 ≤ len && len % 64 = 0 && fieldOf h 0 32 = 0x58504C4E && fieldOf h 32 16 = 1
    && fieldOf h 64 64 = len && fieldOf h 160 352 = 0 && fieldOf h 896 128 = 0
    && leBytes 48 (fieldOf h 512 384) == sha384 (img.drop 128)

/-- The highest INDEX a section type may have; none where the type is not in Table 10-3. -/
def sectionIndexes : Nat → Option Nat
  | 0x01 => some 0
  | 0x02 => some 0
  | 0x03 => some 0
  | 0x04 => some 0
  | 0x10 => some 127
  | 0x11 => some 127
  | 0x12 => some 127
  | 0x13 => some 127
  | 0x14 => some 127
  | 0x20 => some 1
  | 0x21 => some 1
  | 0x22 => some 0
  | 0x23 => some 0
  | _ => none

/-- The length Table 10-3 gives a type; a STREAMS section's is check 17's. -/
def sectionLenOk (t len bufs : Nat) : Bool :=
  match t with
  | 0x01 => len = 1088
  | 0x02 => len = 272
  | 0x03 => len = 32 * bufs
  | 0x04 => len % 4 = 0 && 4 ≤ len && len ≤ 4 * 65536
  | 0x10 => len % 4 = 0 && 4 ≤ len && len ≤ 262144
  | 0x11 => 1 ≤ len && len ≤ 65536
  | 0x12 => len = 32
  | 0x13 => len % 4 = 0 && len ≤ 4096
  | 0x20 => len = 16384
  | 0x21 => len = 128
  | 0x22 => len = 65536
  | _ => true

/-- The form of a RECORDS entry. -/
def recordEntryOk (v : Nat) : Bool :=
  fieldOf v 0 16 % 64 = 0 && fieldOf v 16 3 ≤ 4 && fieldOf v 19 13 = 0

/-- The form of a DEFERRED section. -/
def deferredOk (bs : List Byte) : Bool :=
  let bl := blocksOf bs
  let spans := bl.map fun b => (b.1, 64 * (b.2.1 + 1))
  (bl.map fun b => 4 + 64 * (b.2.1 + 1)).foldl (· + ·) 0 = bs.length
    && bl.all (fun b =>
      let h := parseHeader (natAt b.2.2.2 0 64)
      b.1 % 64 = 0 && 1 ≤ b.2.1 && b.2.2.1 = 0 && h.first = b.1 + 64 && h.steps = b.2.1 && b.1 + 64 * (b.2.1 + 1) ≤ 0x10000)
    && (List.range spans.length).all fun i => (List.range i).all fun j =>
      !rangesMeet (spans.getD i (0, 0)) (spans.getD j (0, 0))

/-- Check 4. -/
def sectionTableOk (img : List Byte) (secs : List Section) : Bool :=
  let n := sectionCount img
  let used := usedClusters secs
  1 ≤ n && n ≤ 1024 && 128 + 16 * n ≤ img.length
    && secs.all (fun e =>
      (match sectionIndexes e.type with | some k => e.index ≤ k | none => false)
        && e.reserved = 0 && e.off % 64 = 0 && 128 + 16 * n ≤ e.off && e.off + e.len ≤ img.length
        && sectionLenOk e.type e.len (fieldOf (resGlobal secs) 208 16)
        && (!(0x10 ≤ e.type && e.type ≤ 0x14) || used.contains e.index)
        && (e.type != 0x13 || (entriesOf e.data 4).all recordEntryOk)
        && (e.type != 0x14 || deferredOk e.data)
        && (secs.filter fun f => f.type = e.type && f.index = e.index).length = 1)
    && [0x01, 0x02, 0x03].all (fun t => (secData secs t 0).isSome)
    && used.all (fun g => (secData secs 0x10 g).isSome)
    && (List.range secs.length).all fun i => (List.range i).all fun j =>
      match secs[i]?, secs[j]? with
      | some a, some b => a.len = 0 || b.len = 0 || !rangesMeet (a.off, a.len) (b.off, b.len)
      | _, _ => true

/-- Check 5. -/
def resourceOk (secs : List Section) : Bool :=
  let v := resGlobal secs
  let used := usedClusters secs
  let kept := used.any fun g => (parseRes (resEntry secs g)).nK != 0
  let save := fieldOf v 192 16
  fieldOf v 224 288 = 0 && fieldOf v 187 5 = 0 && fieldOf v 169 3 = 0
    && 1 ≤ fieldOf v 208 16 && fieldOf v 208 16 ≤ 4096 && fieldOf v 176 11 ≤ 1024 && fieldOf v 172 4 ≤ 8
    && fieldOf v 160 8 ≤ 128 && fieldOf v 158 2 = 0
    && ((save = 0xFFFF) == !kept) && (save = 0xFFFF || save < fieldOf v 208 16)
    && (List.range 128).all fun g =>
      let e := resEntry secs g
      if used.contains g then
        let pc := (parseRes e).entryPc
        fieldOf e 48 16 = 0 && pc % 4 = 0 && boundaryIn (codeWords (secBytes secs 0x10 g)) (pc / 4)
      else e = 0

/-! ### Checks 6 to 14 -/

/-- Check 7 (R114). -/
def tilesOk (r : ClusterRes) : Bool := r.nT ≤ 64 && r.nK + r.nD ≤ r.nT

/-- Bytes of a save buffer (R132). -/
def Pattern.saveBytes (p : Pattern) : Nat := (p.res.map fun e => e.2.nK * 65536 + 32).foldl (· + ·) 0

/-- Check 8 (R182). -/
def buffersOk (p : Pattern) (secs : List Section) : Bool :=
  let ws := entriesOf (secBytes secs 0x03 0) 32
  let cs := p.copies
  ws.all (fun v =>
    let b := parseBuf v
    fieldOf v 3 61 = 0 && fieldOf v 112 16 = 0 && fieldOf v 176 16 = 0 && fieldOf v 240 16 = 0 && b.kind ≤ 4
      && b.length % 32 = 0 && 32 ≤ b.length && b.base % 32 = 0 && b.copy1 % 32 = 0 && (b.kind = 3 || b.copy1 = 0))
    && (List.range cs.length).all (fun i => (List.range i).all fun j => !rangesMeet (cs.getD i (0, 0)) (cs.getD j (0, 0)))
    && match p.saveBuffer with
      | none => true
      | some i => match p.bufs[i]? with
        | some b => b.kind = 3 && b.length = p.saveBytes
        | none => false

/-- Check 9: every copy in the pattern-usable part of one stack, apart from the buffers of loaded patterns. -/
def placementOk (s : State) (p : Pattern) : Bool :=
  p.copies.all fun c => usableRange c.1 c.2 && s.loaded.all fun l => l.2.copies.all fun d => !rangesMeet c d

/-- N of a pattern: the product of its sizes. -/
def Pattern.ranks (p : Pattern) : Nat := p.sizes.foldl (· * ·) 1

/-- Check 11 (R187). -/
def topologyOk (p : Pattern) (secs : List Section) : Bool :=
  let td := secBytes secs 0x02 0
  let v := natAt td 0 16
  let axes := fieldOf v 0 3
  let ws := entriesOf (td.drop 16) 8
  fieldOf v 3 29 = 0 && fieldOf v 112 16 = 0 && axes ≤ 4
    && (List.range 4).all (fun a =>
      let z := fieldOf v (32 + 20 * a) 20
      if a < axes then 1 ≤ z && z ≤ 262144 else z = 0)
    && p.ranks ≤ 262144
    && (ws.mapIdx fun i w => (i, w)).all fun e =>
      let (i, w) := e
      fieldOf w 2 6 = 0 && fieldOf w 13 3 = 0 && fieldOf w 34 30 = 0 && (w.testBit 0 == p.ports.getLsbD i)
        && (if w.testBit 0 then fieldOf w 8 5 ≤ 29 && (!w.testBit 1 || i < 14) else w = 0) && (i < 30 || w = 0)

/-- Across a used port stands the chip of the peer rank, with the peer port or, with PAIR_OK, its pair's other port. -/
def State.peerFits (s : State) (lp : Nat) (t : TopoPort) : Bool :=
  match s.serving lp with
  | none => false
  | some q =>
    let f := (s.rport q).found
    let other := if t.peerPort % 2 = 0 then t.peerPort + 1 else t.peerPort - 1
    f.rank.toNat = t.peerRank
      && (f.standsFor.toNat = t.peerPort || (t.pairOk && f.standsFor.toNat = other))

/-- Check 12 (R188). -/
def topologyFits (s : State) (p : Pattern) : Bool :=
  p.ranks = s.flaskN && (p.topo.mapIdx fun i t => (i, t)).all fun e => !e.2.used || s.peerFits e.1 e.2

/-- RISER_RESERVE of the patterns loaded on a channel. -/
def State.reserved (s : State) (chan : Nat) : Nat :=
  ((s.loaded.filter fun l => l.2.chan = chan).map fun l => l.2.riserReserve).foldl (· + ·) 0

/-! ### Checks 16 and 17 -/

/-- An owner word that R90 admits. DESIGN CHOICE (log entry 72): an idle word (KIND 00) with a non-zero ID is refused, though
Table 4-6 does not call ID reserved there. -/
def ownerOk (p : Pattern) (last : Bool) (w : Nat) : Bool :=
  match w / 2 ^ 14 with
  | 0 => w = 0
  | 1 => !last && fieldOf w 8 6 = 0 && p.used.getLsbD (w % 128)
  | 2 => !last && fieldOf w 7 7 = 0 && (Tab.get none p.engines (w % 128)).isSome
  | _ => false

/-- One slot of a mesh table (R90). -/
def meshSlotOk (p : Pattern) (die : Nat) (slot : List Byte) : Bool :=
  let es := (slot.mapIdx fun c b => (c, b.toNat)).filter fun e => 128 ≤ e.2
  slot.all (fun b => !b.toNat.testBit 6)
    && es.all fun e => e.2 % 64 != e.1 && p.used.getLsbD (64 * die + e.2 % 64)
      && es.all fun f => f.1 = e.1 || f.2 % 64 != e.2 % 64

/-- Check 16. -/
def tablesOk (p : Pattern) : Bool :=
  p.mesh.all (fun e => (List.range 256).all fun t => meshSlotOk p e.1 ((e.2.drop (64 * t)).take 64))
    && p.floor.all (fun e => ((entriesOf e.2 2).mapIdx fun i w => (i, w)).all fun e => ownerOk p (e.1 = 63) e.2)
    && ((entriesOf p.hbm 2).mapIdx fun i w => (i, w)).all fun e => ownerOk p (e.1 % 64 = 63) e.2

/-- Fields of a collective record within Table 15-4. -/
def collFieldsOk (v : Nat) : Bool :=
  let r := parseColl v
  let reduces := r.op = 1 || r.op = 2
  let peered := r.op = 5 || r.op = 6 || r.op = 7
  fieldOf v 14 2 = 0 && fieldOf v 20 4 = 0 && fieldOf v 57 7 = 0 && fieldOf v 192 320 = 0
    && 1 ≤ r.op && r.op ≤ 7 && r.red ≤ 2 && (reduces || (r.red = 0 && !r.order))
    && (r.group < 4 || r.group = 0xF) && (peered || r.peer = 0)
    && (if r.fmt = 1 && r.red = 0 && reduces then r.rmode != 3 else r.rmode = 0)
    && (r.notifyEn || (r.notifyToken = 0 && r.notifyMask = 0))

/-- Check 17 (Table 15-2). -/
def streamsCheck (p : Pattern) (secs : List Section) : Option (BitVec 16) :=
  let declared := fieldOf (resGlobal secs) 160 8
  match secData secs 0x23 0 with
  | none => orElse (declared = 0 && p.ports = 0) stMalformed
  | some sd =>
    let ews := engineWords sd
    let rws := routeWords sd
    let cws := collWords sd
    let portOk (k : Nat) : Bool := k < 32 && p.ports.getLsbD k
    firstFail
      [ orElse (sd.length = 1088 + 8 * routeCount sd + 64 * collCount sd && routeCount sd ≤ 1024 && collCount sd ≤ 4096
          && (natAt sd 0 64) / 2 ^ 32 = 0 && ews.all (fun v => fieldOf v 5 2 = 0 && fieldOf v 8 56 = 0)
          && rws.all fun v => fieldOf v 42 22 = 0) stMalformed
      , orElse (p.engines.length = declared
          && p.engines.all (fun e => match e.2 with | some k => k = 31 || portOk k | none => false)
          && (List.range 32).all fun k => !p.ports.getLsbD k || (p.engines.filter fun e => e.2 = some k).length = 1) stMalformed
      , orElse (p.routes.all fun r => r.lo ≤ r.hi && r.hi < p.ranks && portOk r.port
          && (!r.pair || (r.port % 2 = 0 && r.port < 14 && portOk (r.port + 1)))) stMalformed
      , orElse (cws.all collFieldsOk) stMalformed
      , orElse (p.colls.all fun c => collFormats c.op c.fmt) stFormat
      , orElse (p.colls.all fun c => (Tab.get none p.engines c.localEngine).isSome && c.notifyMask &&& ~~~p.used = 0) stMalformed ]

/-! ### Checks 18 to 20 -/

/-- Scalar data memory as a pour starts (R181 step 2). -/
def Pattern.scalarImage (p : Pattern) (g : Nat) : Mem :=
  (Tab.get [] p.deferred g).foldl (fun m b => m.lay b.1 b.2.2) (Mem.zeros.lay 0 (Tab.get [] p.scalar g))

/-- The lines of a fixed record's descriptors. -/
def imageLines (m : Mem) (descs : List Nat) : List (Nat × BitVec 512) :=
  let line (a : Nat) : BitVec 512 := BitVec.ofNat 512 (leNat (m.raw a 64))
  (descs.filter lineOk).flatMap fun a =>
    if (line a).toNat.testBit 55 && lineOk (a + 64) then [(a, line a), (a + 64, line (a + 64))] else [(a, line a)]

/-- A fixed record as an entry. -/
def imageEntry (m : Mem) (eng : Engine) (addr : Nat) : QEntry :=
  let v := leNat (m.raw addr 64)
  ⟨0, addr, BitVec.ofNat 512 v, imageLines m (recDescs eng v), 0, [], [], none, none, none, none, none, 0⟩

/-- What check 19 examines: an item header by its 512 bits (R157), or a fixed record by cluster, engine, address, and whether it
is a step (R179). -/
inductive FixedItem where
  | header (v : Nat)
  | record (g : Nat) (eng : Engine) (addr : Nat) (step : Bool)

/-- The fixed items in section order, then by address (R190). -/
def fixedItems (secs : List Section) : List FixedItem :=
  secs.flatMap fun e =>
    match e.type with
    | 0x13 =>
      let es := (entriesOf e.data 4).foldl (fun (t : Tab Nat) v => Tab.insert (fieldOf v 0 16 * 8 + fieldOf v 16 3) (fieldOf v 16 3) t) []
      es.map fun x => .record e.index (engineOf x.2) (x.1 / 8) false
    | 0x14 =>
      let bs := (blocksOf e.data).foldl
        (fun (t : Tab (Nat × List Byte)) b => Tab.insert b.1 (b.2.1, b.2.2.2) t) []
      bs.flatMap fun b => .header (natAt b.2.2 0 64) :: (List.range b.2.1).map fun j =>
        .record e.index (stepEngine (natAt b.2.2 8 8) j) (b.1 + 64 * (j + 1)) true
    | _ => []

/-- The fixed records among them. -/
def fixedRecords (secs : List Section) : List (Nat × Engine × Nat × Bool) :=
  (fixedItems secs).filterMap fun i =>
    match i with
    | .header _ => none
    | .record g eng addr step => some (g, eng, addr, step)

/-- The context of a fixed record at load. -/
def State.loadCtx (s : State) (p : Pattern) (r : Nat × Engine × Nat × Bool) : EngCtx :=
  ⟨r.1, imageEntry (p.scalarImage r.1) r.2.1 r.2.2.1, p.resOf r.1, s.descEnv p.sizes, r.2.2.2, p, 0⟩

/-- Check 19 of one item. -/
def State.fixedItemCheck (s : State) (p : Pattern) : FixedItem → Option (BitVec 16)
  | .header v => orElse (parseHeader v).ok stMalformed
  | .record g eng addr step =>
    let x := s.loadCtx p (g, eng, addr, step)
    (opOf eng x.rec_).check x

/-- Check 19: item headers and fixed records, the first failing item in their order deciding (R190). -/
def fixedCheck (s : State) (p : Pattern) (secs : List Section) : Option (BitVec 16) :=
  firstFail ((fixedItems secs).map (s.fixedItemCheck p))

/-- Check 20. -/
def fixedBuffers (s : State) (p : Pattern) (secs : List Section) : Option (BitVec 16) :=
  firstFail ((fixedRecords secs).map fun r =>
    let x := s.loadCtx p r
    (opOf r.2.1 x.rec_).buffers x)

/-- Check 18: a step size is finite and not negative (R175). −0 is not negative. -/
def stepSizeOk (v : Nat) : Bool := finiteNonneg v

/-! ### Table 10-9 -/

/-- Checks 1 and 2, before the image is read. -/
def stagingCheck (s : State) (addr len : Nat) : Option (BitVec 16) :=
  firstFail
    [ orElse (addr / 2 ^ 45 = s.slot && len ≤ 0x8000000 && usableRange (addr % 2 ^ 45) len
        && s.loaded.all fun l => l.2.copies.all fun c => !rangesMeet c (addr % 2 ^ 45, len)) stHbmExceeded
    , orElse (s.loaded.length < 16) stHbmExceeded ]

/-- Checks 3 to 20 of an image for a channel. -/
def imageCheck (s : State) (p : Pattern) (img : List Byte) (len : Nat) : Option (BitVec 16) :=
  let secs := sections img
  let c := s.chan p.chan
  firstFail
    [ orElse (imageHeaderOk img len) stMalformed
    , orElse (sectionTableOk img secs) stMalformed
    , orElse (resourceOk secs) stMalformed
    , orElse ((usedClusters secs).all fun g => s.mapped g && (p.resOf g).nTokens ≤ 256) stClusterMemory
    , orElse (p.res.all fun e => tilesOk e.2) stTilesExceeded
    , orElse (buffersOk p secs) stMalformed
    , orElse (placementOk s p) stHbmExceeded
    , orElse (c.bestEffort || p.bufs.all fun b => b.kind != 4) stVersioning
    , orElse (topologyOk p secs) stMalformed
    , orElse (topologyFits s p) stTopology
    , orElse (p.tundishMin ≤ c.tundishRes) stTundishExhausted
    , orElse (s.reserved p.chan + p.riserReserve ≤ c.quota) stQuotaOver
    , orElse (p.code.all fun e => sweepOk (codeWords e.2)) stMalformed
    , orElse (tablesOk p) stMalformed
    , streamsCheck p secs
    , orElse (p.steps.all fun v => stepSizeOk v.toNat) stFormat
    , fixedCheck s p secs
    , fixedBuffers s p secs ]

end Sys2Proof.Machine
end

