-- ==== Sys2Proof/Machine/Replies.lean ====
section
/-! DEFINITION. Packets, replies and rings: the header, the reply, what a channel's ring takes, and refusals
(R202 to R214, R237). -/

namespace Sys2Proof.Machine

abbrev PourOut := Host.Outcome State Fault Refusal

/-! ### Opcodes (Table 12-1) -/

def opChannelOpen : Nat := 0x01
def opChannelClose : Nat := 0x02
def opChannelAdopt : Nat := 0x03
def opPatternLoad : Nat := 0x10
def opPatternUnload : Nat := 0x11
def opRun : Nat := 0x20
def opSetStepSize : Nat := 0x22
def opCopyIn : Nat := 0x30
def opCopyOut : Nat := 0x31
def opFill : Nat := 0x32
def opQuery : Nat := 0x40
def opEnergyRead : Nat := 0x41
def opFlaskJoin : Nat := 0x50
def opFlaskLeave : Nat := 0x51
def opMarginTest : Nat := 0x52
def opAttest : Nat := 0x60
def opFirmwareStage : Nat := 0x61
def opFirmwareActivate : Nat := 0x62
def opNop : Nat := 0x7F

/-- The payload length of an opcode, and whether HANDLE is used: 0 no, 1 yes, 2 where the payload's byte 8 is 1. -/
def opcodeForm : Nat → Option (Nat × Nat)
  | 0x01 => some (32, 0)
  | 0x02 => some (0, 0)
  | 0x03 => some (16, 0)
  | 0x10 => some (32, 0)
  | 0x11 => some (0, 1)
  | 0x20 => some (128, 1)
  | 0x22 => some (16, 1)
  | 0x30 => some (32, 0)
  | 0x31 => some (32, 0)
  | 0x32 => some (48, 0)
  | 0x40 => some (16, 2)
  | 0x41 => some (0, 0)
  | 0x50 => some (544, 0)
  | 0x51 => some (0, 0)
  | 0x52 => some (16, 0)
  | 0x60 => some (64, 2)
  | 0x61 => some (32, 0)
  | 0x62 => some (0, 0)
  | 0x7F => some (0, 0)
  | _ => none

/-- The opcodes whose commits advance the commit epoch (R244). -/
def isEpochOp (op : Nat) : Bool := op = opPatternLoad || op = opPatternUnload || op = opRun || op = opSetStepSize

/-! ### Packets (Tables 11-3 and 11-4) -/

/-- A field of a packet's header. -/
def Packet.hdr (p : Packet) (lo n : Nat) : Nat := fieldOf p.header.toNat lo n
def Packet.opcode (p : Packet) : Nat := p.hdr 8 8
def Packet.restartable (p : Packet) : Bool := p.hdr 16 1 = 1
def Packet.channel (p : Packet) : Nat := p.hdr 32 8
def Packet.handle (p : Packet) : Nat := p.hdr 48 16
def Packet.len (p : Packet) : Nat := p.hdr 64 32
def Packet.crc (p : Packet) : Nat := p.hdr 96 32
def Packet.pour (p : Packet) : Nat := p.hdr 128 64
def Packet.ack (p : Packet) : Nat := p.hdr 192 64

/-- A payload as a number. -/
def Packet.pay (p : Packet) : Nat := leNat p.payload

/-- CRC-32C over the header with CRC zero, then the payload. -/
def Packet.crcOk (p : Packet) : Bool :=
  let h := leBytes 64 p.header.toNat
  crc32c (h.take 12 ++ [0, 0, 0, 0] ++ h.drop 16 ++ p.payload) = p.crc

/-! ### Replies -/

/-- The commit epoch of a channel; zero on a CLOSED one. -/
def State.epochOf (s : State) (c : Nat) : Word32 :=
  if (s.chan c).state = .closed then 0 else ((s.curSlot c).map fun e => e.2.epoch).getD 0

/-- The final reply of an entry (R241). -/
def replyOf (e : Entry) : Reply where
  status := e.status
  origStatus := 0
  opcode := e.opcode
  chan := e.chan.setWidth 8
  handle := e.handle.setWidth 16
  epoch := e.epoch
  pour := e.pour
  detail := e.detail
  energy := e.energy
  tsAccept := e.tsAccept
  tsStart := e.tsStart
  tsDone := e.tsDone
  refused := false
  adopted := e.adopted
  replayed := e.replayed
  final := true

/-- A reply as it is written (Table 11-7). -/
def Reply.bytes (r : Reply) (phase : Bool) : List Byte :=
  let b (c : Bool) (n : Nat) : Nat := if c then 2 ^ n else 0
  leBytes 64 (b phase 0 + b r.replayed 1 + b r.adopted 2 + b r.refused 3 + r.status.toNat * 2 ^ 16 + r.opcode.toNat * 2 ^ 32
    + r.chan.toNat * 2 ^ 40 + r.handle.toNat * 2 ^ 48 + r.origStatus.toNat * 2 ^ 80 + r.epoch.toNat * 2 ^ 96
    + r.pour.toNat * 2 ^ 128 + r.detail.toNat * 2 ^ 192 + r.energy.toNat * 2 ^ 256 + r.tsAccept.toNat * 2 ^ 320
    + r.tsStart.toNat * 2 ^ 384 + r.tsDone.toNat * 2 ^ 448)

/-- The copy of a final reply that answers a duplicate (R209). -/
def Reply.duplicate (r : Reply) : Reply := { r with status := stDuplicate, origStatus := r.status, final := false }

/-- The refusal of a packet (R237). -/
def State.refusalReply (s : State) (p : Packet) (st : BitVec 16) : Reply where
  status := st
  origStatus := 0
  opcode := BitVec.ofNat 8 p.opcode
  chan := BitVec.ofNat 8 p.channel
  handle := BitVec.ofNat 16 p.handle
  epoch := s.epochOf p.chan
  pour := BitVec.ofNat 64 p.pour
  detail := 0
  energy := 0
  tsAccept := s.cnt.regs.time
  tsStart := 0
  tsDone := 0
  refused := true
  adopted := false
  replayed := false
  final := false

/-- The ring of a channel has a free slot, with `n` replies waiting for it (R211). -/
def State.ringRoom (s : State) (c n : Nat) : Bool :=
  let v := s.vchan c
  (v.rtail + BitVec.ofNat 32 n - v.rhead).toNat < 2 ^ (s.chan c).ringLog

/-- A reply that joins those waiting for the ring. -/
def State.queueReply (s : State) (c : Nat) (r : Reply) : State :=
  s.updVchan c fun v => { v with replyQ := v.replyQ ++ [r] }

/-- A final reply formed, and after it the copies for the duplicates that wait for it (R209, R213). -/
def State.queueFinal (s : State) (c : Nat) (e : Entry) : State :=
  let r := replyOf e
  let n := ((s.vchan c).dups.filter fun d => d = e.pour).length
  (s.noteChan c fun ch => { ch with last := some e }).updVchan c fun v => { v with
    replyQ := v.replyQ ++ r :: List.replicate n r.duplicate
    dups := v.dups.filter fun d => d ≠ e.pour }

/-- The address and the phase of the ring's next reply (R211). -/
def State.ringSlot (s : State) (c : Nat) : Word64 × Bool :=
  let k := (s.vchan c).rtail.toNat
  let e := 2 ^ (s.chan c).ringLog
  ((s.chan c).ringBase + BitVec.ofNat 64 (64 * (k % e)), k / e % 2 = 0)

/-- A reply written to its ring, with its MSI-X message (R211, R214); a final reply advances Rp. -/
def State.writeReply (s : State) (c : Nat) (r : Reply) : State :=
  let s := s.linesDone
  let ch := s.chan c
  let (a, phase) := s.ringSlot c
  let s := (s.hostWrite ch.owner a (r.bytes phase)).count (ctrHost ch.owner.toNat 3) 1
  let s := s.updVchan c fun v => { v with rtail := v.rtail + 1 }
  let s := if r.final then s.noteChan c fun ch => { ch with replied := r.pour } else s
  if ch.msixEn then s.msix ch.owner c else s

/-- The next reply of a channel may be written now. -/
def State.replyReady (s : State) (c : Nat) : Bool :=
  (s.chan c).state != .closed && s.ringRoom c 0 && (s.port (s.chan c).owner).mayWrite

/-- The next waiting reply of a channel written. -/
def State.pumpReply (s : State) (c : Nat) : State :=
  match (s.vchan c).replyQ with
  | [] => s
  | r :: t => if s.replyReady c then (s.updVchan c fun v => { v with replyQ := t }).writeReply c r else s

/-- Waiting replies of a channel written while there is room, at most `n`. -/
def State.pumpReplies : Nat → Nat → State → State
  | 0, _, s => s
  | n + 1, c, s => State.pumpReplies n c (s.pumpReply c)

/-- What waited for a port goes out in order once the port may write: refusals that had no channel, the replies of its
channels, and its pending messages (R196). -/
def State.flushPort (s : State) (p : HostPort) : State :=
  if (s.port p).mayWrite then
    let s := (s.port p).late.foldl (fun s e =>
      let s := (s.hostWrite p e.1 e.2.1).count (ctrHost p.toNat 3) 1
      match e.2.2 with
      | some v => s.msix p v
      | none => s) (s.updPort p fun h => { h with late := [] })
    let s := (List.range 64).foldl (fun s c =>
      if (s.chan c).state ≠ .closed ∧ (s.chan c).owner = p then State.pumpReplies (s.vchan c).replyQ.length c s else s) s
    let pend := (s.port p).pending
    (List.range 65).foldl (fun s v => if pend.getLsbD v then s.msix p v else s) (s.updPort p fun h => { h with pending := 0 })
  else s

/-! ### Refusals (R213) -/

/-- A Tundish buffer freed. -/
def State.freeBuffer (s : State) (b : Option Bool) : State :=
  match b with
  | none => s
  | some true => { s with intake := { s.intake with free1 := s.intake.free1 + 1 } }
  | some false => { s with intake := { s.intake with free0 := s.intake.free0 + 1 } }

/-- RING_BASE and RING_LOG of a CHANNEL_OPEN's payload pass R198. -/
def ringParamsOk (pay : Nat) : Bool :=
  fieldOf pay 0 64 % 4096 = 0 && 6 ≤ fieldOf pay 88 5 && fieldOf pay 88 5 ≤ 16 && fieldOf pay 64 11 ≤ 2 ^ fieldOf pay 88 5

/-- Where the refusal of a packet is written. -/
def State.routeRefusal (s : State) (p : Packet) (st : BitVec 16) : State :=
  let c := p.chan
  let ch := s.chan c
  let r := s.refusalReply p st
  if ch.state = .closed then
    if p.opcode = opChannelOpen ∧ p.buffer.isSome ∧ p.len = 32 ∧ ringParamsOk p.pay then
      (s.updPort p.port fun h => { h with late := h.late ++
        [(BitVec.ofNat 64 (fieldOf p.pay 0 64), r.bytes true, if fieldOf p.pay 97 1 = 1 then some c else none)] }).flushPort p.port
    else s
  else if ch.owner = p.port then
    if s.ringRoom c (s.vchan c).replyQ.length then s.queueReply c r
    else s.updVchan c fun v => { v with dropped := v.dropped.add 1 }
  else s

/-- The copy that answers a duplicate, now or after the reply it copies (R209). -/
def State.answerDuplicate (s : State) (p : Packet) : State :=
  let c := p.chan
  match (s.chan c).last with
  | some e =>
    if e.pour.toNat = p.pour then s.queueReply c (replyOf e).duplicate
    else s.updVchan c fun v => { v with dups := v.dups ++ [BitVec.ofNat 64 p.pour] }
  | none => s.updVchan c fun v => { v with dups := v.dups ++ [BitVec.ofNat 64 p.pour] }

/-- A packet refused: recorded, counted, its buffer freed, and answered. -/
def State.refuse (s : State) (p : Packet) (st : BitVec 16) : State :=
  let s := (s.updVchan p.chan fun v => { v with
    refusal := ⟨true, p.port, BitVec.ofNat 8 p.opcode, st, BitVec.ofNat 64 p.pour⟩ }).count (ctrHost p.port.toNat 2) 1
  let s := if st = stDuplicate then s.answerDuplicate p else s.routeRefusal p st
  s.freeBuffer p.buffer

end Sys2Proof.Machine
end

