-- ==== Sys2Proof/Machine/Power.lean ====
section
/-! DEFINITION. Power domains and their sequencers, sleep, the issue gate, the cap, temperature, the Chill trip and energy
(R329 to R349), and the loss of everything volatile in the Nelhan that a reset or a stop brings. -/

namespace Sys2Proof.Machine

abbrev PowerOut := Host.Outcome State Fault Refusal

/-! ### Sequencers (R330 to R333) -/

/-- The sequencer of domain k. -/
def State.seq (s : State) (k : Nat) : Sequencer := Tab.get Sequencer.init s.power.seq k

/-- The sequencer of domain k changed. -/
def State.updSeq (s : State) (k : Nat) (f : Sequencer → Sequencer) : State :=
  { s with power := { s.power with seq := Tab.upd Sequencer.init s.power.seq k f } }

/-- An enable (Table 17-1). -/
def Sequencer.enable (q : Sequencer) : Sequencer :=
  match q.state with
  | .off => if q.minOff then { q with state := .rising, latch := .none } else { q with latch := .enable }
  | .rising => { q with latch := .none }
  | .on => q
  | .falling => { q with latch := .enable }

/-- A disable (Table 17-1). -/
def Sequencer.disable (q : Sequencer) : Sequencer :=
  match q.state with
  | .off => { q with latch := .none }
  | .rising => { q with latch := .disable }
  | .on => { q with state := .falling, latch := .none }
  | .falling => { q with latch := .none }

/-- The end of RISING. -/
def Sequencer.rise (q : Sequencer) : Sequencer :=
  if q.latch = .disable then { q with state := .falling, latch := .none } else { q with state := .on, latch := .none }

/-- The end of FALLING: OFF, with a latched enable kept until the minimum off time has passed. -/
def Sequencer.fall (q : Sequencer) : Sequencer := { q with state := .off, minOff := false }

/-- The end of the minimum off time. -/
def Sequencer.offEnd (q : Sequencer) : Sequencer :=
  if q.latch = .enable then { q with state := .rising, latch := .none, minOff := true } else { q with minOff := true }

/-- The domain of a logical cluster's group; none for an unmapped one (R330). -/
def State.domainOf (s : State) (g : Nat) : Option Nat :=
  (Tab.get none s.ident.clmap g).map fun pos => 9 * (g / 64) + pos / 8

/-- The logical clusters whose group is domain k. -/
def State.groupOf (s : State) (k : Nat) : List Nat := (List.range 128).filter fun g => s.domainOf g = some k

/-- The domain of a stack, and of a Runner port. -/
def stackDomain (st : Nat) : Nat := 18 + st
def portDomain (p : Nat) : Nat := 26 + p

/-- A cluster's gate is open to work: its group is ON. -/
def State.clusterOn (s : State) (g : Nat) : Bool :=
  match s.domainOf g with
  | some k => (s.seq k).state = .on
  | none => false

/-- Domains requested on. -/
def State.enableAll (s : State) (ks : List Nat) : State := ks.foldl (fun s k => s.updSeq k Sequencer.enable) s

/-- Domains that a pour needs are ON (R332). -/
def State.allOn (s : State) (ks : List Nat) : Bool := ks.all fun k => (s.seq k).state = .on

/-- Every HBM stack. -/
def allStacks : List Nat := (List.range 8).map stackDomain

/-- A sample buffer set to zero, and what its status shows (R402, R403). -/
def State.resetSamples (s : State) (g : Nat) (f : Sampler → Sampler) : State :=
  let samp := Tab.upd Sampler.init s.cnt.regs.samp g fun sm => f { sm with next := 0, count := 0 }
  { s with cnt := { s.cnt with slots := cellsOut s.cnt.slots (256 * g) 256, regs := { s.cnt.regs with samp := samp } } }

/-- The clusters of a group that reaches ON: gate 1 and credit 0 (R335, R336). -/
def State.openGates (s : State) (k : Nat) : State :=
  (s.groupOf k).foldl (fun s g => s.updCl g fun c => { c with gate := { Gate.init with g := 1 } }) s

/-- A spare of the group is under BIST (R10). -/
def State.groupTested (s : State) (k : Nat) : Bool :=
  [false, true].any fun die => ((s.ident.bist die).map fun pos => (if die then 9 else 0) + pos / 8) = some k

/-- A sample buffer whose records are lost (R403). -/
def State.loseSamples (s : State) (g : Nat) : State := s.resetSamples g fun sm => { sm with lost := true, owed := [] }

/-- The sample buffers of the groups that have returned to ON set to zero, once no BIST and no Fettle test of the group runs (R403). -/
def State.settleSamples (s : State) : State :=
  let held := fun k => s.groupTested k || s.err.offTest = some k
  let now := s.power.samplesDue.filter fun k => !held k
  now.foldl (fun s k => (s.groupOf k).foldl State.loseSamples s)
    { s with power := { s.power with samplesDue := s.power.samplesDue.filter held } }

/-- Every buffer that is still to be set to zero, before a pour is served (R403). -/
def State.freshSamples (s : State) : State :=
  s.power.samplesDue.foldl (fun s k => (s.groupOf k).foldl State.loseSamples s) { s with power := { s.power with samplesDue := [] } }

/-- A cluster's memories lost (R333). -/
def Cluster.lose (c : Cluster) : Cluster :=
  { c with
    gate := Gate.init
    dmem := Mem.zeros
    imem := Mem.zeros
    codeLen := 0
    bank0 := Bank.empty
    bank1 := Bank.empty
    crucible := Mem.zeros
    satFlags := 0
    flagPoison := false
    vregs := Mem.zeros }

/-- The clusters of a group that has become OFF: gate 0, memories lost, and kept tiles restored by the next pour. -/
def State.loseGroup (s : State) (k : Nat) : State :=
  let gs := s.groupOf k
  let used := fun h => match s.pattern h with
    | some p => gs.any fun g => p.used.getLsbD g
    | none => false
  let s := gs.foldl (fun s g => { s.updCl g Cluster.lose with
    mem := s.mem.clear (windowBase + windowSize * g) windowSize
    cnt := { s.cnt with slots := cellsOut s.cnt.slots (256 * g) 256 } }) s
  let s := { s with power := { s.power with samplesDue := s.power.samplesDue.filter fun j => j ≠ k } }
  { s with kept := s.kept.map fun (k : KeptContext) => if used k.handle then { k with clean := false } else k }

/-- RISING_END. -/
def execRisingEnd (k : Fin 58) (s : State) : PowerOut :=
  if (s.seq k.val).state = .rising then
    let s := s.updSeq k.val Sequencer.rise
    .next (if k.val < 18 ∧ (s.seq k.val).state = .on then
      ({ s.openGates k.val with power := { s.power with samplesDue := s.power.samplesDue ++ [k.val] } }).settleSamples
    else s)
  else .next s

/-- FALLING_END. A stack that reaches OFF has entered self-refresh. -/
def execFallingEnd (k : Fin 58) (s : State) : PowerOut :=
  if (s.seq k.val).state = .falling then
    let s := s.updSeq k.val Sequencer.fall
    .next (if k.val < 18 then s.loseGroup k.val
      else if k.val < 26 then s.count (ctrHbm (k.val - 18) 5) 1
      else s)
  else .next s

/-- MINIMUM_OFF_EXPIRY. -/
def execMinimumOffExpiry (k : Fin 58) (s : State) : PowerOut :=
  let q := s.seq k.val
  .next (if q.state = .off ∧ !q.minOff then s.updSeq k.val Sequencer.offEnd else s)

/-- A pour that runs uses a group. -/
def State.groupBusy (s : State) (k : Nat) : Bool :=
  match s.run with
  | none => false
  | some r =>
    match s.pattern r.handle with
    | none => false
    | some p => (s.groupOf k).any fun g => p.used.getLsbD g

/-- A disable of a domain; the gates of a group that is no longer ON are 0 (R335). -/
def State.disableDomain (s : State) (k : Nat) : State :=
  let t := s.updSeq k Sequencer.disable
  if k < 18 ∧ (t.seq k).state ≠ .on then
    (t.groupOf k).foldl (fun t g => t.updCl g fun c => { c with gate := { c.gate with g := 0 } }) t
  else t

/-- An access to the stack of an address requests it on (Table 17-2); its wait is time, which the model leaves out (log entry 78). -/
def State.wake (s : State) (a : Nat) : State := if a < hbmEnd then s.updSeq (stackDomain (a / 2 ^ 37)) Sequencer.enable else s

/-- IDLE_HOLDOFF_EXPIRY (Table 17-2): the time has passed, and what else the disabling asks for holds. -/
def execIdleHoldoffExpiry (k : Fin 58) (s : State) : PowerOut :=
  let quiet :=
    if k.val < 18 then
      !s.groupBusy k.val && !s.groupTested k.val && s.err.offTest != some k.val && (s.groupOf k.val).all fun g => (s.cl g).gate.g ≤ 1
    else if k.val < 26 then s.run.isNone
    else false
  .next (if quiet && decide ((s.seq k.val).state = .on) then s.disableDomain k.val else s)

/-- A running RUN uses the cluster, whether or not its attempt has faulted: it runs until it commits, ends or is replayed (R338). -/
def State.pourUses (s : State) (g : Nat) : Bool := s.run.isSome && !(s.cl g).unused && (s.cl g).run != .idle

/-- Ballast cycles of a period of AON_CLK (R338): those that bring the busy cycles of the step up to the floor. -/
def State.ballastCycles (s : State) (g : Nat) : Nat :=
  let c := s.cl g
  let recent := match c.gate.ended with
    | some t => decide (s.cnt.regs.time.toNat < t + 25000)
    | none => false
  if (s.pourUses g || recent) && (c.inFlight .mx).isEmpty then
    let e := (s.cnt.regs.time.toNat % 1600 + 1) * 60
    min 60 (((c.gate.g - 1) * e + 15) / 16 - (c.gate.busy + c.gate.ballast))
  else 0

/-- The control core stalls, or has halted (R334). -/
def Cluster.coreWaits (c : Cluster) : Bool := c.run = .halted || c.run = .ended || (c.run = .running && c.stall.isSome)

/-- CLUSTER_SLEEP (R334): a cluster of a running pour whose core waits or has halted, whose engines are idle, and which runs no ballast. -/
def execClusterSleep (g : Fin 128) (s : State) : PowerOut :=
  let c := s.cl g.val
  .next (if s.pourUses g.val ∧ c.flights.isEmpty ∧ c.coreWaits ∧ s.ballastCycles g.val = 0 then
    s.updCl g.val fun c => { c with asleep := true, idleCycles := 64 } else s)

/-! ### The gate step (R337 to R346) -/

/-- The clusters whose group is ON. -/
def State.onClusters (s : State) : List Nat := (List.range 128).filter s.clusterOn

/-- G_max. -/
def State.gateMax (s : State) : Nat := ((s.onClusters).map fun g => (s.cl g).gate.g).foldl max 0

/-- P in mW: the estimate, or the estimate and Δ while it is distrusted (R342). -/
def Power.chipPower (w : Power) (estimate : Nat) : Int :=
  if w.distrust then (estimate : Int) + 1100 * (w.meas.toNat : Int) - 1000 * (w.avg.toNat : Int) else estimate

/-- The cap in force at a boundary (R340). -/
def Power.takeCap (w : Power) : Power := { w with cap := w.newCap.getD w.cap, newCap := none }

/-- L_cap, CAP_UNMET and its count (R340, R343). -/
def Power.capStep (w : Power) (p : Int) (gmax : Nat) : Power :=
  let cap : Int := 1000 * (w.cap.toNat : Int)
  if cap < p then
    { w with
      lCap := gmax - 1
      capUnmet := w.capUnmet || decide (w.lCap = 0)
      capUnmetCtr := if w.lCap = 0 then w.capUnmetCtr.add 1 else w.capUnmetCtr }
  else
    { w with lCap := if p ≤ cap - 40000 then min 16 (w.lCap + 1) else w.lCap, capUnmet := false }

/-- L_therm (R344); sensors read in 1/64 °C. -/
def Power.thermStep (w : Power) (gmax : Nat) : Power :=
  let t := max w.baseMax.toInt w.computeMax.toInt
  if 6400 ≤ t then { w with lTherm := gmax - 1 }
  else if t ≤ 6272 then { w with lTherm := min 16 (w.lTherm + 1) }
  else w

/-- r of R346 applied to an energy: the ratio of the latest measured interval, held between a half and 2. -/
def Power.scaleEnergy (w : Power) (e : Nat) : Nat :=
  if !w.measured ∨ (w.meas = 0 ∧ w.avg = 0) then e
  else if 2 * w.avg.toNat ≤ w.meas.toNat then 2 * e
  else if 2 * w.meas.toNat ≤ w.avg.toNat then e / 2
  else e * w.meas.toNat / w.avg.toNat

/-- The energy of a step in nJ added to the chip's total. -/
def Power.addEnergy (w : Power) (nj : Nat) : Power :=
  let t := w.energyRest + nj
  { w with energy := w.energy + BitVec.ofNat 64 (t / 1000000), energyRest := t % 1000000 }

/-- The attempt of the running RUN goes on: some cluster of it has not ended, and none has faulted it. -/
def State.runOn (s : State) : Bool :=
  match s.run with
  | none => false
  | some r => r.fault.isNone && (List.range 128).any fun g =>
      !(s.cl g).unused && ((s.cl g).run = .running || (s.cl g).run = .halted)

/-- The pours whose attempts run now, by channel and pour number. -/
def State.poursOn (s : State) : List (Nat × Word64) :=
  s.running.filterMap fun e => e.2.bind fun r =>
    if r.outcome.isNone && (r.cls != .run || s.runOn) then some (e.1, (s.entry r.entry).pour) else none

/-- The pour of a channel that runs. -/
def State.pourOf (s : State) (c : Nat) : Option Word64 := (s.runningOf c).map fun r => (s.entry r.entry).pour

/-- A step's energy shared equally among the pours whose attempts ran in it (R346). The share of one that has ended stays in the chip's
total: its reply's ENERGY stands since ENDING (DEDUCED, log entry 78). -/
def State.shareEnergy (s : State) (nj : Nat) : State :=
  let n := s.power.ran.length
  { s with power := { s.power with
      pours := s.power.ran.foldl (fun t e => if s.pourOf e.1 = some e.2 then Tab.upd 0 t e.1 (· + nj / n) else t) s.power.pours
      ran := s.poursOn } }

/-- Events of a counter in the step just ended. -/
def State.stepCount (s : State) (off : Nat) (c : Ctr48) : Nat := (c.n - (Tab.get Ctr48.zero s.power.seen off).n).toNat

/-- Ballast cycles of the step that no counter has: those outside an attempt (R338, R397). -/
def State.freeBallast (s : State) (g : Nat) : Nat :=
  (s.cl g).gate.ballast - s.stepCount (ctrCluster g 2) (Tab.get Ctr48.zero s.cnt.regs.ctr (ctrCluster g 2))

/-- The events of a step: those of Table 20-2 by the offset of their counter in the CNT block (the collective table describes an attempt,
not a step), ballast outside an attempt, and the transfers of the meshes and the base-die networks, from 0x30000 on. -/
def State.stepEvents (s : State) : List (Nat × Nat) :=
  ((s.cnt.regs.ctr.filter fun e => decide (e.1 < 0x20000)).map fun e => (e.1, s.stepCount e.1 e.2))
    ++ (s.onClusters.map fun g => (ctrCluster g 2, s.freeBallast g)) ++ s.power.fabric.map fun e => (0x30000 + e.1, e.2)

/-- The activity estimate of the step just ended in mW (R341): the energy of its events over 64 µs, and leakage (DEDUCED, log
entry 78). -/
def State.activityEstimate (s : State) (temps : List (BitVec 16)) : Nat :=
  ((s.stepEvents.map fun e => Config.eventEnergy e.1 * e.2).foldl (· + ·) 0) / 64 + Config.leakage temps

/-- The highest of some sensors (R344). -/
def hottest (temps : List (BitVec 16)) : BitVec 16 := temps.foldl (fun m t => if m.toInt < t.toInt then t else m) 0x8000

/-- A hint at a boundary (R339). -/
def Gate.hintStep (q : Gate) : Gate :=
  match q.newHint with
  | some (level, hold) => { q with hint := if hold = 0 then 0 else level, hold := hold, newHint := none }
  | none =>
    if q.hold ≤ 1 then { q with hint := 0, hold := 0 } else { q with hold := q.hold - 1 }

/-- G_g at a boundary (R337). -/
def Gate.step (q : Gate) (lOwn ceiling : Nat) : Gate :=
  let q := q.hintStep
  let a := (q.busy + 5999) / 6000
  let t := min lOwn (min ceiling (max (a + 1) q.hint))
  { q with
    g := if q.g < t then q.g + 1 else if t < q.g then q.g - 1 else q.g
    activity := a
    busy := 0
    ballast := 0 }

/-- The pace ceiling of R305, and the paces of the step ended. -/
def State.paceStep (s : State) : State :=
  let adopt := (s.runner.flask.map (·.paceAdopt)).getD false
  let least := ((s.runner.ports.filter fun p => p.state.inService).map (·.pace)).foldl min 16
  { s with
    power := { s.power with ceiling := if adopt then least else 16 }
    runner := { s.runner with ports := s.runner.ports.map fun p => { p with pace := 16 } } }

/-- What a gate-step boundary does (R337, R340 to R346). The estimate is in mW. -/
def State.gateStep (s : State) (estimate : Nat) (baseMax computeMax : BitVec 16) : State :=
  let gmax := s.gateMax
  let nj := s.power.scaleEnergy (64 * estimate)
  let w := { s.power with
    est := BitVec.ofNat 16 (estimate / 1000)
    estSum := s.power.estSum + estimate
    estCount := s.power.estCount + 1
    baseMax := baseMax
    computeMax := computeMax }
  let w := (((w.takeCap.capStep (w.chipPower estimate) gmax)).thermStep gmax).addEnergy nj
  let s := ({ s with power := w }.shareEnergy nj).paceStep
  let lOwn := min w.lCap w.lTherm
  s.onClusters.foldl (fun s g => s.updCl g fun c => { c with gate := c.gate.step lOwn s.power.ceiling }) s

/-- A gate-step boundary is due: the chip-local counter is a multiple of 1,600, and this instant has had none (R335). -/
def State.stepDue (s : State) : Bool :=
  s.boot.phase = .ready && s.cnt.regs.time.toNat % 1600 = 0 && s.power.stepAt != some s.cnt.regs.time

/-- The boundary taken: the next step's events are counted from here. -/
def State.stepTaken (s : State) : State :=
  { s with power := { s.power with stepAt := some s.cnt.regs.time, seen := s.cnt.regs.ctr, fabric := [] } }

/-- GATE_STEP, with the readings of the compute dies' and the base dies' sensors. -/
def execGateStep (compute0 compute1 base : List (BitVec 16)) (s : State) : PowerOut :=
  .next (if s.stepDue then
    (s.gateStep (s.activityEstimate (compute0 ++ compute1 ++ base)) (hottest base) (hottest (compute0 ++ compute1))).stepTaken
  else s)

/-! ### Measured power (R341, R342) -/

/-- Distrust at the end of a measured interval of `n` gate steps: 5 ms are more than 78 steps, 1 s is 15,625. -/
def State.trustStep (s : State) (n : Nat) : State :=
  let w := s.power
  let d := ((w.avg.toNat : Int) - (w.meas.toNat : Int)).natAbs
  let above := if w.cap.toNat < 5 * d then w.above + n else 0
  let below := if 10 * d ≤ w.cap.toNat then w.below + n else 0
  if !w.distrust ∧ 78 < above then
    ({ s with power := { w with above := 0, below := 0, distrust := true, distrustCtr := w.distrustCtr.add 1 } }.logStatus
      stDistrust unitPower 0 0 false none).addLocal 50
  else if w.distrust ∧ 15625 ≤ below then { s with power := { w with above := 0, below := 0, distrust := false } }
  else { s with power := { w with above := above, below := below } }

/-- P_meas in W: the sum of voltage and current over every rail, in mV and mA; none where a rail did not answer (R341, R422). -/
def measuredPower (rails : List (Option (Nat × Nat))) : Option Nat :=
  if rails.any Option.isNone then none
  else some ((rails.map fun r => (r.map fun v => v.1 * v.2).getD 0).foldl (· + ·) 0 / 1000000)

/-- AVS_READING: voltage and current of each rail, or none where it did not answer. -/
def execAvsReading (rails : List (Option (Nat × Nat))) (s : State) : PowerOut :=
  if s.boot.phase ≠ .ready then .next s
  else
    let w := s.power
    let cleared := { w with estSum := 0, estCount := 0 }
    match measuredPower rails with
    | none => .next { s with power := cleared }
    | some v =>
      if w.estCount = 0 then .next s
      else
        let w := { cleared with
          measured := true
          meas := BitVec.ofNat 16 v
          avg := BitVec.ofNat 16 (w.estSum / w.estCount / 1000) }
        .next ({ s with power := w }.trustStep s.power.estCount)

/-- PWR_CAP_WATTS as its home takes it (R2, R340). -/
def State.writeCap (s : State) (value : Word32) : State :=
  if value.toNat % 2048 < 500 ∨ 1500 < value.toNat % 2048 then s.rsvdWrite
  else
    let s := s.rsvdIf (value.toNat / 2048 != 0)
    { s with power := { s.power with newCap := some (value.setWidth 11) } }

/-- PWR_CAP_WATTS written. -/
def execPwrCapWatts (value : Word32) (s : State) : PowerOut := .next (if s.barOpen then s.anyWrite.writeCap value else s)

/-- PWR_STATUS as its home takes it: TRIPPED is cleared by a 1, with the trip record (R349). -/
def State.writeStatus (s : State) (value : Word32) : State :=
  let s := s.rsvdIf (value.toNat / 32 != 0)
  if value.getLsbD 4 ∧ s.power.tripped then
    { s with power := { s.power with tripped := false } }.updLedger .trip fun l => { l with trip := none }
  else s

/-- PWR_STATUS written. -/
def execTrippedClear (value : Word32) (s : State) : PowerOut := .next (if s.barOpen then s.anyWrite.writeStatus value else s)

/-! ### What stops with the Nelhan -/

/-- A port without light: its code and what it found last stay (R282). -/
def Port.darkened (o : Port) (p : Nat) : Port := { Port.init p with code := o.code, found := o.found, sent := o.sent }

/-- A Runner port that goes dark: its electronics are disabled (R268). -/
def State.darkPort (s : State) (p : Nat) : State :=
  { (s.updSeq (portDomain p) Sequencer.disable) with
    runner := { s.runner with ports := s.runner.ports.modify p fun o => o.darkened p } }

/-- Everything volatile that the Nelhan held of its work: pours that ran, waiting packets and replies, the patterns' runs
(R252, R371, R405, R412). Ledger, patterns and memories stay, and the registers of the channels. -/
def State.dropWork (s : State) : State :=
  { s.stopClusters with
    running := []
    run := none
    kept := s.kept.map fun (k : KeptContext) => { k with clean := false }
    intake := { Intake.init with stray := s.intake.stray }
    accepted := []
    chans := s.chans.map fun e => (e.1, { e.2 with replyQ := [], dups := [] })
    err := { s.err with intakeStall := 0 }
    cope := { s.cope with pending := 0, late := [] }
    drag := { s.drag with pending := 0, late := [] } }

/-- The optics without a clock: what the always-on islands hold of eye safety stays. -/
def Light.warm (l : Light) : Light :=
  { Light.init with
    ports := l.ports.map fun (p : PortLight) => { PortLight.init with eye := p.eye, eyeCause := p.eyeCause }
    mislock := l.mislock.clearCount
    detection := l.detection
    unconfirmed := l.unconfirmed }

/-- Every Runner port loses its clock: it carries and takes no frame, and no port is found down (R345). -/
def State.stopPorts (s : State) : State :=
  { s with
    runner := { s.runner with ports := s.runner.ports.mapIdx fun p (o : Port) => o.darkened p }
    light := { s.light with ports := s.light.ports.map fun (l : PortLight) => { PortLight.init with
      eye := l.eye, eyeCause := l.eyeCause, probes := l.probes, passes := l.passes, probing := l.probing } } }

/-- CHILL_TRIP (R345): every PLL stops, THERMTRIP_N and LSHUT_N go low, and the trip record is written. HBM refresh stops, and the ports. -/
def execChillTrip (sensor : BitVec 8) (temp : Nat) (s : State) : PowerOut :=
  if !s.pins.vddAon || !s.pins.pwrgdMain || s.power.stopped then .next s
  else
    let s := s.dropWork.stopPorts.updLedger .trip fun l => { l with trip := some ⟨sensor, temp, s.cnt.regs.time⟩ }
    .next { s with
      power := { s.power with stopped := true }
      pins := { s.pins with thermtrip := true }
      boot := { s.boot with phase := .off, ready := false, zeroHbm := true }
      light := { s.light with enabled := false }
      cope := { s.cope with linkUp := false }
      drag := { s.drag with linkUp := false } }

end Sys2Proof.Machine
end

