-- ==== Sys2Proof/Machine/Faults.lean ====
section
/-! DEFINITION. Cluster faults: retired positions, spares under BIST, and the map of clusters to positions (R10 to R13). -/

namespace Sys2Proof.Machine

/-- The clusters a pattern uses. -/
def Pattern.usedList (p : Pattern) : List Nat := (List.range 128).filter fun g => p.used.getLsbD g

/-! ### Positions -/

/-- The die of a logical cluster: true B1. -/
def onB1 (g : Nat) : Bool := decide (64 ≤ g)

/-- The free spares of a die replaced. -/
def State.setSpares (s : State) (die : Bool) (l : List Nat) : State :=
  { s with ident := if die then { s.ident with spares1 := l } else { s.ident with spares0 := l } }

/-- The spare under BIST of a die replaced. -/
def State.setBist (s : State) (die : Bool) (b : Option Nat) : State :=
  { s with ident := if die then { s.ident with bist1 := b } else { s.ident with bist0 := b } }

/-- A position added to its die's retired list (R13), with the points of R388. -/
def State.retire (s : State) (die : Bool) (pos : Nat) : State :=
  ((s.updLedger .retired fun l =>
    if die then { l with retired1 := l.retired1 ||| (1#66 <<< pos) } else { l with retired0 := l.retired0 ||| (1#66 <<< pos) }).setSpares
      die ((s.ident.spares die).filter (· ≠ pos))).addLocal 150

/-- A position is on its die's retired list. -/
def State.isRetired (s : State) (die : Bool) (pos : Nat) : Bool :=
  if die then s.ledger.retired1.getLsbD pos else s.ledger.retired0.getLsbD pos

/-- The logical cluster that a position of a die is mapped to. -/
def State.clusterAt (s : State) (die : Bool) (pos : Nat) : Option Nat :=
  ((List.range 64).find? fun c => Tab.get none s.ident.clmap ((if die then 64 else 0) + c) = some pos).map fun c =>
    (if die then 64 else 0) + c

/-- A logical cluster that no spare is left for (R12). A fault that ended a pour then faults it. -/
def State.unmap (s : State) (g : Nat) (status : BitVec 16) (ended : Bool) : State :=
  let s := { s with ident := { s.ident with
    clmap := Tab.put none s.ident.clmap g none
    short0 := s.ident.short0 || !onB1 g
    short1 := s.ident.short1 || onB1 g } }
  if ended then { s with run := s.run.map fun (r : RunCtx) => { r with fault := some (status, false) } } else s

/-- A logical cluster moved to a position that has passed BIST: its memories are those of that position, and its sample buffer is lost
(R403). -/
def State.mapTo (s : State) (g pos : Nat) : State :=
  let s := { s with ident := { s.ident with clmap := Tab.put none s.ident.clmap g (some pos) } }
  let on := s.clusterOn g
  let s := s.updCl g fun c =>
    let c := c.lose
    { c with gate := if on then { Gate.init with g := 1 } else Gate.init }
  { s with mem := s.mem.clear (windowBase + windowSize * g) windowSize }.staleKept.loseSamples g

/-! ### Waiting faults -/

/-- A pour runs on a die: an attempt of a RUN that uses clusters of it and has not ended (R10). -/
def State.dieBusy (s : State) (die : Bool) : Bool :=
  match s.runPattern with
  | none => false
  | some p => (s.run.map fun r => r.fault.isNone).getD false && p.usedList.any fun g => onB1 g == die

/-- A fault's turn has come: it ended the pour, or no pour runs on its die. -/
def State.faultDue (s : State) (w : WaitingFault) : Bool := w.ended || !s.dieBusy (onB1 w.g)

/-- Step 1 of R10 for every waiting fault whose turn has come. One whose cluster has moved since has nothing left to do. -/
def State.retireWaiting (s : State) : State :=
  let live := s.ident.waiting.filter fun w => Tab.get none s.ident.clmap w.g = some w.pos
  let t := (live.filter fun w => !w.retired && s.faultDue w).foldl (fun t w => t.retire (onB1 w.g) w.pos) s
  { t with ident := { t.ident with
      waiting := live.map fun (w : WaitingFault) => { w with retired := w.retired || s.faultDue w } } }

/-- The fault of a die that is handled next: the least logical cluster (R11). -/
def State.leastWaiting (s : State) (die : Bool) : Option WaitingFault :=
  (s.ident.waiting.filter fun w => w.retired && onB1 w.g == die).foldl (fun m w =>
    match m with
    | none => some w
    | some v => if w.g < v.g then some w else m) none

/-- The fault of a cluster is no longer waiting. -/
def State.dropWaiting (s : State) (g : Nat) : State :=
  { s with ident := { s.ident with waiting := s.ident.waiting.filter fun w => w.g ≠ g } }

/-- Steps 2 and 3 of R10 for a die, or R12 for the faults that find no spare; at most `n` of them. -/
def State.startSpare : Nat → Bool → State → State
  | 0, _, s => s
  | n + 1, die, s =>
    if (s.ident.bist die).isSome then s
    else
      match s.leastWaiting die with
      | none => s
      | some w =>
        match s.ident.spares die with
        | [] => State.startSpare n die ((s.unmap w.g w.status w.ended).dropWaiting w.g)
        | sp :: rest =>
          ((s.updSeq ((if die then 9 else 0) + sp / 8) Sequencer.enable).setSpares die rest).setBist die (some sp)

/-- Waiting faults handled as far as they can be now, on each die by itself (R10, R11). A spare whose BIST runs is no longer a
free one, and SPARES_FREE does not count it (R27: DESIGN CHOICE, log entry 71). -/
def State.handleFaults (s : State) : State := State.startSpare 65 true (State.startSpare 65 false s.retireWaiting)

/-- The pour that faults may have ended is over: no fault acts on it any longer, and those that waited for its end are handled. -/
def State.pourOver (s : State) : State :=
  { s with ident := { s.ident with
      waiting := s.ident.waiting.map fun (w : WaitingFault) => { w with ended := false } } }.handleFaults

/-- A fault that is handled when its turn comes. -/
def State.queueFault (s : State) (g pos : Nat) (status : BitVec 16) (ended : Bool) : State :=
  if s.ident.waiting.any fun w => w.g = g then s
  else { s with ident := { s.ident with waiting := s.ident.waiting ++ [(⟨g, pos, status, ended, false⟩ : WaitingFault)] } }.handleFaults

/-- A spare that has failed its BIST, or has faulted under it, is retired as well, and the next one is tried (R11). DESIGN CHOICE (log
entry 81): it is not logged, and where no spare is left the pour is faulted with the status of the fault of the cluster. -/
def State.spareFails (s : State) (die : Bool) (pos : Nat) : State := ((s.setBist die none).retire die pos).handleFaults.settleSamples

/-- Step 4 of R10: the least waiting cluster of the die is mapped to the spare that has passed. -/
def State.sparePasses (s : State) (die : Bool) (pos : Nat) : State :=
  let s := s.setBist die none
  match s.leastWaiting die with
  | none => (s.setSpares die (sortedSet (pos :: s.ident.spares die))).settleSamples
  | some w => ((s.mapTo w.g pos).dropWaiting w.g).handleFaults.settleSamples

end Sys2Proof.Machine
end

