-- ==== Sys2Proof/Machine/Crypto.lean ====
section
/-! DEFINITION. The Assay's signature algorithms as their public standards give them (R350, R356, R358, R367): SHA-256 (FIPS 180-4), HKDF
(RFC 5869), ECDSA on P-384 (FIPS 186-5), and LM-OTS, LMS and HSS (RFC 8554). PRESUMED, log entry 40. -/

namespace Sys2Proof.Machine

/-! ### SHA-256 -/

/-- Round constants 0 to 31 of SHA-256. -/
def sha256K0 : List Nat :=
  [0x428A2F98, 0x71374491, 0xB5C0FBCF, 0xE9B5DBA5, 0x3956C25B, 0x59F111F1, 0x923F82A4, 0xAB1C5ED5,
   0xD807AA98, 0x12835B01, 0x243185BE, 0x550C7DC3, 0x72BE5D74, 0x80DEB1FE, 0x9BDC06A7, 0xC19BF174,
   0xE49B69C1, 0xEFBE4786, 0x0FC19DC6, 0x240CA1CC, 0x2DE92C6F, 0x4A7484AA, 0x5CB0A9DC, 0x76F988DA,
   0x983E5152, 0xA831C66D, 0xB00327C8, 0xBF597FC7, 0xC6E00BF3, 0xD5A79147, 0x06CA6351, 0x14292967]

/-- Round constants 32 to 63. -/
def sha256K1 : List Nat :=
  [0x27B70A85, 0x2E1B2138, 0x4D2C6DFC, 0x53380D13, 0x650A7354, 0x766A0ABB, 0x81C2C92E, 0x92722C85,
   0xA2BFE8A1, 0xA81A664B, 0xC24B8B70, 0xC76C51A3, 0xD192E819, 0xD6990624, 0xF40E3585, 0x106AA070,
   0x19A4C116, 0x1E376C08, 0x2748774C, 0x34B0BCB5, 0x391C0CB3, 0x4ED8AA4A, 0x5B9CCA4F, 0x682E6FF3,
   0x748F82EE, 0x78A5636F, 0x84C87814, 0x8CC70208, 0x90BEFFFA, 0xA4506CEB, 0xBEF9A3F7, 0xC67178F2]

/-- The initial hash value of SHA-256. -/
def sha256Init : List Nat :=
  [0x6A09E667, 0xBB67AE85, 0x3C6EF372, 0xA54FF53A, 0x510E527F, 0x9B05688C, 0x1F83D9AB, 0x5BE0CD19]

/-- A 32-bit number rotated right. -/
def rotr32 (n x : Nat) : Nat := x / 2 ^ n + x % 2 ^ n * 2 ^ (32 - n)

/-- The message schedule of SHA-256: `n` further words, each from the sixteen before it (oldest first). -/
def sha256Schedule : Nat → List Nat → List Nat
  | 0, _ => []
  | n + 1, w =>
    let g (i : Nat) : Nat := w.getD i 0
    let s0 := rotr32 7 (g 1) ^^^ rotr32 18 (g 1) ^^^ g 1 / 2 ^ 3
    let s1 := rotr32 17 (g 14) ^^^ rotr32 19 (g 14) ^^^ g 14 / 2 ^ 10
    g 0 :: sha256Schedule n (w.drop 1 ++ [(s1 + g 9 + s0 + g 0) % 2 ^ 32])

/-- One round of SHA-256 on the eight working variables. -/
def sha256Round (v : List Nat) (kw : Nat × Nat) : List Nat :=
  let g (i : Nat) : Nat := v.getD i 0
  let e := g 4
  let ch := (e &&& g 5) ^^^ ((2 ^ 32 - 1 - e) &&& g 6)
  let maj := (g 0 &&& g 1) ^^^ (g 0 &&& g 2) ^^^ (g 1 &&& g 2)
  let t1 := g 7 + (rotr32 6 e ^^^ rotr32 11 e ^^^ rotr32 25 e) + ch + kw.1 + kw.2
  let t2 := (rotr32 2 (g 0) ^^^ rotr32 13 (g 0) ^^^ rotr32 22 (g 0)) + maj
  [(t1 + t2) % 2 ^ 32, g 0, g 1, g 2, (g 3 + t1) % 2 ^ 32, g 4, g 5, g 6]

/-- One block of 64 bytes. -/
def sha256Block (h : List Nat) (blk : List Byte) : List Nat :=
  let w := (List.range 16).map fun i => beNat ((blk.drop (4 * i)).take 4)
  let v := ((sha256K0 ++ sha256K1).zip (sha256Schedule 64 w)).foldl sha256Round h
  (h.zip v).map fun e => (e.1 + e.2) % 2 ^ 32

/-- Blocks of a padded message, at most `n`. -/
def sha256Blocks : Nat → List Nat → List Byte → List Nat
  | 0, h, _ => h
  | n + 1, h, bs => if bs.isEmpty then h else sha256Blocks n (sha256Block h (bs.take 64)) (bs.drop 64)

/-- SHA-256. -/
def sha256 (m : List Byte) : List Byte :=
  let n := m.length
  let pad := (119 - n % 64) % 64
  let bs := m ++ [0x80#8] ++ List.replicate pad 0 ++ beBytes 8 (8 * n)
  (sha256Blocks (bs.length / 64) sha256Init bs).flatMap (beBytes 4)

/-! ### HKDF with SHA-384 -/

/-- Extract. -/
def hkdfExtract (salt ikm : List Byte) : List Byte := hmac384 salt ikm

/-- Blocks of HKDF's expand, from block i on. -/
def hkdfBlocks (prk info : List Byte) : Nat → Nat → List Byte → List Byte
  | 0, _, _ => []
  | n + 1, i, prev =>
    let t := hmac384 prk (prev ++ info ++ [BitVec.ofNat 8 i])
    t ++ hkdfBlocks prk info n (i + 1) t

/-- Expand to `len` bytes. -/
def hkdfExpand (prk info : List Byte) (len : Nat) : List Byte := (hkdfBlocks prk info ((len + 47) / 48) 1 []).take len

/-- An ASCII label. -/
def label (t : String) : List Byte := t.toList.map fun c => BitVec.ofNat 8 c.toNat

/-! ### P-384 -/

/-- The prime of the field, the order of the base point, and the coefficient b. -/
def p384P : Nat := 2 ^ 384 - 2 ^ 128 - 2 ^ 96 + 2 ^ 32 - 1
def p384N : Nat :=
  0xFFFFFFFFFFFFFFFFFFFFFFFFFFFFFFFFFFFFFFFFFFFFFFFFC7634D81F4372DDF581A0DB248B0A77AECEC196ACCC52973
def p384B : Nat :=
  0xB3312FA7E23EE7E4988E056BE3F82D19181D9C6EFE8141120314088F5013875AC656398D8A2ED19D2A85C8EDD3EC2AEF

/-- The base point. -/
def p384G : Nat × Nat :=
  (0xAA87CA22BE8B05378EB1C71EF320AD746E1D3B628BA79B9859F741E082542A385502F25DBF55296C3A545E3872760AB7,
   0x3617DE4A96262C6F5D9E98BF9292DC29F8F41DBD289A147CE9DA3113B5F0B8C00A60B1CE1D7E819D7A431D7C90EA0E5F)

/-- a^e modulo m, for exponents of at most the given number of bits. -/
def powMod (m : Nat) : Nat → Nat → Nat → Nat
  | 0, _, _ => 1
  | k + 1, a, e => (if e % 2 = 1 then a else 1) * powMod m k (a * a % m) (e / 2) % m

/-- The inverse modulo a prime of at most 384 bits. -/
def invMod (m a : Nat) : Nat := powMod m 384 (a % m) (m - 2)

/-- A point of the curve; none is the point at infinity. -/
abbrev EcPoint := Option (Nat × Nat)

/-- The sum of two points. -/
def ecAdd (a b : EcPoint) : EcPoint :=
  match a, b with
  | none, q => q
  | q, none => q
  | some (x1, y1), some (x2, y2) =>
    let p := p384P
    if x1 = x2 ∧ (y1 + y2) % p = 0 then none
    else
      let l := if x1 = x2 then (3 * x1 * x1 + (p - 3)) * invMod p (2 * y1) % p
        else (y2 + (p - y1)) * invMod p (x2 + (p - x1)) % p
      let x := (l * l + (p - x1) + (p - x2)) % p
      some (x, (l * (x1 + (p - x)) + (p - y1)) % p)

/-- A multiple of a point, for factors of at most the given number of bits. -/
def ecMul : Nat → Nat → EcPoint → EcPoint
  | 0, _, _ => none
  | k + 1, n, a =>
    let r := ecMul k (n / 2) (ecAdd a a)
    if n % 2 = 1 then ecAdd a r else r

/-- A point lies on the curve. -/
def onCurve (q : Nat × Nat) : Bool :=
  q.1 < p384P && q.2 < p384P && (q.2 * q.2) % p384P == (q.1 ^ 3 + (p384P - 3) * q.1 + p384B) % p384P

/-- A point as X and Y (R350). -/
def pointBytes (q : EcPoint) : List Byte :=
  match q with
  | none => List.replicate 96 0
  | some (x, y) => beBytes 48 x ++ beBytes 48 y

/-- The public key of a private key. -/
def p384Public (d : Nat) : List Byte := pointBytes (ecMul 384 d (some p384G))

/-- The private key that 56 bytes give (R356). -/
def p384KeyFrom (c : List Byte) : Nat := beNat c % (p384N - 1) + 1

/-- An ECDSA signature with SHA-384 verifies: 96 bytes of public key, the message, 96 bytes of signature. -/
def ecdsaVerify (pub msg sig : List Byte) : Bool :=
  let q := (beNat (pub.take 48), beNat ((pub.drop 48).take 48))
  let r := beNat (sig.take 48)
  let t := beNat ((sig.drop 48).take 48)
  let n := p384N
  if onCurve q && 1 ≤ r && r < n && 1 ≤ t && t < n then
    let w := invMod n t
    match ecAdd (ecMul 384 (beNat (sha384 msg) * w % n) (some p384G)) (ecMul 384 (r * w % n) (some q)) with
    | none => false
    | some (x, _) => x % n == r
  else false

/-- The ECDSA signature of a message under private key d with the secret number k. -/
def ecdsaSign (d k : Nat) (msg : List Byte) : List Byte :=
  match ecMul 384 k (some p384G) with
  | none => List.replicate 96 0
  | some (x, _) =>
    let n := p384N
    let r := x % n
    beBytes 48 r ++ beBytes 48 (invMod n k * (beNat (sha384 msg) + r * d) % n)

/-! ### LM-OTS with SHA256_N32_W4, and LMS -/

/-- The key identifier I and a number of a key or node, as every hash of RFC 8554 starts. -/
def lmsHead (ident : List Byte) (q : Nat) : List Byte := ident ++ beBytes 4 q

/-- A Winternitz chain from step `i` on, `n` steps. -/
def otsChain (ident : List Byte) (q j : Nat) : Nat → Nat → List Byte → List Byte
  | 0, _, t => t
  | n + 1, i, t => otsChain ident q j n (i + 1) (sha256 (lmsHead ident q ++ beBytes 2 j ++ [BitVec.ofNat 8 i] ++ t))

/-- The 4-bit digits of a string. -/
def nibbles (bs : List Byte) : List Nat := bs.flatMap fun b => [b.toNat / 16, b.toNat % 16]

/-- The 67 digits that a message signs: its hash, and the checksum. -/
def otsDigits (ident : List Byte) (q : Nat) (c msg : List Byte) : List Nat :=
  let d := nibbles (sha256 (lmsHead ident q ++ [0x81, 0x81] ++ c ++ msg))
  d ++ (nibbles (beBytes 2 ((d.map fun a => 15 - a).foldl (· + ·) 0 * 16))).take 3

/-- Element j of the one-time private key of leaf q (RFC 8554, Appendix A). -/
def otsSecret (ident seed : List Byte) (q j : Nat) : List Byte :=
  sha256 (lmsHead ident q ++ beBytes 2 j ++ [0xFF#8] ++ seed)

/-- The hash of a one-time public key from the ends of its chains. -/
def otsKeyHash (ident : List Byte) (q : Nat) (ends : List (List Byte)) : List Byte :=
  sha256 (lmsHead ident q ++ [0x80, 0x80] ++ ends.flatten)

/-- The one-time public key of a leaf. -/
def otsPublic (ident seed : List Byte) (q : Nat) : List Byte :=
  otsKeyHash ident q ((List.range 67).map fun j => otsChain ident q j 15 0 (otsSecret ident seed q j))

/-- A one-time signature, with its type: 2,180 bytes. -/
def otsSign (ident seed : List Byte) (q : Nat) (c msg : List Byte) : List Byte :=
  beBytes 4 3 ++ c ++ ((otsDigits ident q c msg).zipIdx.map fun e =>
    otsChain ident q e.2 e.1 0 (otsSecret ident seed q e.2)).flatten

/-- The one-time public key that a signature of a message leads to. -/
def otsCandidate (ident : List Byte) (q : Nat) (msg sig : List Byte) : List Byte :=
  let c := (sig.drop 4).take 32
  otsKeyHash ident q ((otsDigits ident q c msg).zipIdx.map fun e =>
    otsChain ident q e.2 (15 - e.1) e.1 ((sig.drop (36 + 32 * e.2)).take 32))

/-- A leaf of a tree of height h, and an inner node from its children. -/
def lmsLeaf (ident : List Byte) (r : Nat) (key : List Byte) : List Byte := sha256 (lmsHead ident r ++ [0x82, 0x82] ++ key)
def lmsInner (ident : List Byte) (r : Nat) (left right : List Byte) : List Byte :=
  sha256 (lmsHead ident r ++ [0x83, 0x83] ++ left ++ right)

/-- Node r of the tree of a seed, `k` levels above its leaves, in a tree of height h. -/
def lmsNode (ident seed : List Byte) (h : Nat) : Nat → Nat → List Byte
  | 0, r => lmsLeaf ident r (otsPublic ident seed (r - 2 ^ h))
  | k + 1, r => lmsInner ident r (lmsNode ident seed h k (2 * r)) (lmsNode ident seed h k (2 * r + 1))

/-- The path of leaf q from the bottom up: `k` levels are left, at level `i`. -/
def lmsPath (ident seed : List Byte) (h q : Nat) : Nat → Nat → List Byte
  | 0, _ => []
  | k + 1, i => lmsNode ident seed h i (((2 ^ h + q) / 2 ^ i) ^^^ 1) ++ lmsPath ident seed h q k (i + 1)

/-- The root that a path leads to from node r. -/
def lmsClimb (ident : List Byte) : Nat → Nat → List Byte → List Byte → List Byte
  | 0, _, t, _ => t
  | k + 1, r, t, path =>
    let other := path.take 32
    lmsClimb ident k (r / 2) (if r % 2 = 1 then lmsInner ident (r / 2) other t else lmsInner ident (r / 2) t other) (path.drop 32)

/-- The LMS public key of a tree: its type, the one-time type, I and the root. -/
def lmsPublic (type h : Nat) (ident seed : List Byte) : List Byte :=
  beBytes 4 type ++ beBytes 4 3 ++ ident ++ lmsNode ident seed h h 1

/-- An LMS signature with leaf q. -/
def lmsSign (type h : Nat) (ident seed : List Byte) (q : Nat) (c msg : List Byte) : List Byte :=
  beBytes 4 q ++ otsSign ident seed q c msg ++ beBytes 4 type ++ lmsPath ident seed h q h 0

/-- An LMS signature verifies under a public key of 56 bytes, for a type of height h. -/
def lmsVerify (type h : Nat) (pub msg sig : List Byte) : Bool :=
  let ident := (pub.drop 8).take 16
  let q := beNat (sig.take 4)
  let ots := (sig.drop 4).take 2180
  pub.length = 56 && beNat (pub.take 4) = type && beNat ((pub.drop 4).take 4) = 3 && sig.length = 2188 + 32 * h && q < 2 ^ h
    && beNat (ots.take 4) = 3 && beNat ((sig.drop 2184).take 4) = type
    && lmsClimb ident h (2 ^ h + q) (lmsLeaf ident (2 ^ h + q) (otsCandidate ident q msg ots)) (sig.drop 2188) == pub.drop 24

/-- The types of the vendor's trees, of height 20, and of the device's two levels, of height 15. -/
def lmsH20 : Nat := 8
def lmsH15 : Nat := 7

end Sys2Proof.Machine
end

