-- ==== Sys2Proof/Machine/Cipher.lean ====
section
/-! DEFINITION. The Assay's other approved algorithms as their public standards give them (R367): AES-256 (FIPS 197), AES-256-GCM
(SP 800-38D), CTR_DRBG with AES-256 and no derivation function (SP 800-90A), and KAS-ECC on P-384 (SP 800-56A). PRESUMED, log
entry 40. -/

namespace Sys2Proof.Machine

/-! ### AES-256 -/

/-- A byte times x in the field of AES. -/
def aesDouble (a : Nat) : Nat := if a < 128 then 2 * a else (2 * a) ^^^ 0x11B

/-- A product in the field of AES, for a second factor of at most `k` bits. -/
def aesMul : Nat → Nat → Nat → Nat
  | 0, _, _ => 0
  | k + 1, a, b => (if b % 2 = 1 then a else 0) ^^^ aesMul k (aesDouble a) (b / 2)

/-- The product of a^2, a^4, … of `k` squarings: the inverse of a for k = 7. -/
def aesSquares : Nat → Nat → Nat
  | 0, _ => 1
  | k + 1, a => aesMul 8 (aesMul 8 a a) (aesSquares k (aesMul 8 a a))

/-- The substitution of a byte. -/
def aesSub (x : Nat) : Nat :=
  let i := if x = 0 then 0 else aesSquares 7 x
  let rot (n : Nat) : Nat := (i * 2 ^ n) % 256 + i / 2 ^ (8 - n)
  i ^^^ rot 1 ^^^ rot 2 ^^^ rot 3 ^^^ rot 4 ^^^ 0x63

/-- Bytes combined by exclusive or. -/
def xorBytes (a b : List Nat) : List Nat := List.zipWith (· ^^^ ·) a b

/-- The words of the key schedule, newest first: `n` more from word `i` on. -/
def aesExpand : Nat → Nat → List (List Nat) → List (List Nat)
  | 0, _, w => w
  | n + 1, i, w =>
    let t := w.headD []
    let t := if i % 8 = 0 then xorBytes ((t.drop 1 ++ t.take 1).map aesSub) [2 ^ (i / 8 - 1), 0, 0, 0]
      else if i % 8 = 4 then t.map aesSub else t
    aesExpand n (i + 1) (xorBytes (w.getD 7 []) t :: w)

/-- The fifteen round keys of a key of 32 bytes. -/
def aesKeys (key : List Byte) : List (List Nat) :=
  let k := key.map (·.toNat)
  let w := (aesExpand 52 8 ((List.range 8).map fun i => (k.drop (28 - 4 * i)).take 4)).reverse
  (List.range 15).map fun r => ((w.drop (4 * r)).take 4).flatten

/-- The rows of a block of columns shifted. -/
def aesShift (s : List Nat) : List Nat := (List.range 16).map fun i => s.getD ((i + 4 * (i % 4)) % 16) 0

/-- The columns of a block mixed. -/
def aesMix (s : List Nat) : List Nat :=
  (List.range 16).map fun i =>
    let g (k : Nat) : Nat := s.getD (i / 4 * 4 + (i + k) % 4) 0
    aesMul 2 (g 0) 2 ^^^ aesMul 2 (g 1) 3 ^^^ g 2 ^^^ g 3

/-- A block under a key. -/
def aesBlock (keys : List (List Nat)) (blk : List Nat) : List Nat :=
  let first := xorBytes blk (keys.getD 0 [])
  let mid := ((keys.drop 1).take 13).foldl (fun s k => xorBytes (aesMix (aesShift (s.map aesSub))) k) first
  xorBytes (aesShift (mid.map aesSub)) (keys.getD 14 [])

/-- AES-256 of a 128-bit number, its first byte the highest. -/
def aes256 (key : List Byte) (v : Nat) : List Byte :=
  (aesBlock (aesKeys key) ((beBytes 16 v).map (·.toNat))).map (BitVec.ofNat 8)

/-! ### AES-256-GCM -/

/-- A product in the field of GHASH: `n` bits of x are left, from bit n − 1 down. -/
def ghashMul : Nat → Nat → Nat → Nat
  | 0, _, _ => 0
  | n + 1, x, v => (if x.testBit n then v else 0) ^^^ ghashMul n x (v / 2 ^^^ (if v % 2 = 1 then 0xE1 * 2 ^ 120 else 0))

/-- The blocks of a string, the last one filled with zeros. -/
def blocks16 (bs : List Byte) : List Nat :=
  (List.range ((bs.length + 15) / 16)).map fun i => beNat (fitBytes 16 ((bs.drop (16 * i)).take 16))

/-- GHASH. -/
def ghash (h : Nat) (xs : List Nat) : Nat := xs.foldl (fun y x => ghashMul 128 (y ^^^ x) h) 0

/-- A text under the key stream of a counter. -/
def gcmCtr (key : List Byte) (iv : List Byte) (text : List Byte) : List Byte :=
  let stream := (List.range ((text.length + 15) / 16)).flatMap fun i => aes256 key (beNat iv * 2 ^ 32 + 2 + i)
  List.zipWith (· ^^^ ·) text stream

/-- AES-256-GCM with an IV of 12 bytes: the text encrypted, and its tag of 16 bytes. -/
def gcmSeal (key iv aad text : List Byte) : List Byte :=
  let c := gcmCtr key iv text
  let h := beNat (aes256 key 0)
  let y := ghash h (blocks16 aad ++ blocks16 c ++ [aad.length * 8 * 2 ^ 64 + c.length * 8])
  c ++ List.zipWith (· ^^^ ·) (beBytes 16 y) (aes256 key (beNat iv * 2 ^ 32 + 1))

/-! ### CTR_DRBG -/

/-- `n` blocks of output after the counter v. -/
def drbgBlocks (key : List Byte) (v n : Nat) : List Byte := (List.range n).flatMap fun i => aes256 key ((v + 1 + i) % 2 ^ 128)

/-- The state updated with 48 bytes. -/
def Drbg.update (d : Drbg) (seed : List Byte) : Drbg :=
  let t := List.zipWith (· ^^^ ·) (drbgBlocks (leBytes 32 d.key.toNat) d.v.toNat 3) (fitBytes 48 seed)
  { d with key := BitVec.ofNat 256 (leNat (t.take 32)), v := BitVec.ofNat 128 (beNat (t.drop 32)) }

/-- Seeded with 384 bits of entropy, as at the start and every 2^20 requests. -/
def Drbg.seed (d : Drbg) (entropy : List Byte) : Drbg := { d.update entropy with requests := 0 }

/-- A request of `n` bytes. -/
def Drbg.generate (d : Drbg) (n : Nat) : List Byte × Drbg :=
  let blocks := (n + 15) / 16
  let out := (drbgBlocks (leBytes 32 d.key.toNat) d.v.toNat blocks).take n
  (out, { ({ d with v := d.v + BitVec.ofNat 128 blocks }).update [] with requests := d.requests + 1 })

/-! ### KAS-ECC -/

/-- The shared secret of a private key and a public key of 96 bytes; none where the public key is not a point of the curve. -/
def kasEcc (d : Nat) (pub : List Byte) : Option (List Byte) :=
  let q := (beNat (pub.take 48), beNat ((pub.drop 48).take 48))
  if pub.length = 96 && onCurve q then (ecMul 384 d (some q)).map fun p => beBytes 48 p.1 else none

end Sys2Proof.Machine
end

