-- ==== Sys2Proof/Machine/Certs.lean ====
section
/-! DEFINITION. The certificates of R357 in their DER form: X.509 v3 (RFC 5280), keys and signatures on P-384 (RFC 5480, RFC 5758), the
Keaginor dual-signature extension, and TCG's DiceTcbInfo. What the spec names no value for (names, dates, the Keaginor object
identifier) is free. PRESUMED, log entry 41. -/

namespace Sys2Proof.Machine

/-! ### DER -/

/-- A length. -/
def derLen (n : Nat) : List Byte :=
  if n < 128 then [BitVec.ofNat 8 n]
  else if n < 256 then [0x81, BitVec.ofNat 8 n]
  else 0x82 :: beBytes 2 n

/-- A value with its tag. -/
def der (tag : Byte) (content : List Byte) : List Byte := tag :: (derLen content.length ++ content)

/-- A sequence, an octet string, a bit string of whole bytes, an object identifier. -/
def derSeq (parts : List (List Byte)) : List Byte := der 0x30 parts.flatten
def derOctets (bs : List Byte) : List Byte := der 0x04 bs
def derBits (bs : List Byte) : List Byte := der 0x03 (0 :: bs)
def derOid (bs : List Byte) : List Byte := der 0x06 bs

/-- The bytes of an integer that is not negative, from its bytes with the highest first. -/
def derUnsigned (bs : List Byte) : List Byte :=
  let t := bs.dropWhile (· == 0)
  if (t.headD 0x80).getLsbD 7 then 0 :: t else t

/-- An integer. -/
def derInt (bs : List Byte) : List Byte := der 0x02 (derUnsigned bs)

/-! ### What both certificates share -/

/-- The object identifiers of ECDSA with SHA-384, of SHA-384, and of DiceTcbInfo. -/
def oidEcdsaSha384 : List Byte := [0x2A, 0x86, 0x48, 0xCE, 0x3D, 0x04, 0x03, 0x03]
def oidSha384 : List Byte := [0x60, 0x86, 0x48, 0x01, 0x65, 0x03, 0x04, 0x02, 0x02]
def oidDiceTcbInfo : List Byte := [0x67, 0x81, 0x05, 0x05, 0x04, 0x01]

/-- A P-384 public key's subject public key info (RFC 5480). -/
def subjectKeyInfo (pub : List Byte) : List Byte :=
  derSeq [derSeq [derOid [0x2A, 0x86, 0x48, 0xCE, 0x3D, 0x02, 0x01], derOid [0x2B, 0x81, 0x04, 0x00, 0x22]], derBits (0x04 :: pub)]

/-- A signature of 96 bytes as X.509 carries it. -/
def derSignature (sig : List Byte) : List Byte := derSeq [derInt (sig.take 48), derInt (sig.drop 48)]

/-- The part of a certificate that is signed: serial number, names of issuer and subject, the subject's key, and one non-critical
extension by its object identifier and its value. -/
def tbsCertificate (serial : List Byte) (issuer subject : Nat) (pub oid value : List Byte) : List Byte :=
  derSeq [der 0xA0 (derInt [2]), derInt serial, derSeq [derOid oidEcdsaSha384], Config.certName issuer, Config.certValidity subject,
    Config.certName subject, subjectKeyInfo pub, der 0xA3 (derSeq [derSeq [derOid oid, derOctets value]])]

/-- A certificate from its signed part and its signature. -/
def signedCertificate (tbs sig : List Byte) : List Byte :=
  derSeq [tbs, derSeq [derOid oidEcdsaSha384], derBits (derSignature sig)]

/-! ### The identity certificate -/

/-- The dual-signature extension: the HSS public key, the chip ID, and the vendor's LMS signature. -/
def certDual (c : IdCert) : List Byte :=
  derSeq [derOctets c.hssKey, derInt (beBytes 3 c.chipId.toNat), derOctets c.vendorLms]

/-- The part of it that the device CA signs, which covers the extension. -/
def certTbs (c : IdCert) : List Byte := tbsCertificate c.serial 0 1 c.deviceKey Config.dualSignatureOid (certDual c)

/-- The identity certificate. -/
def certEncoded (c : IdCert) : List Byte := signedCertificate (certTbs c) c.caSig

/-- What the vendor's LMS signature covers. -/
def vendorSigned (c : IdCert) : List Byte := sha384 (subjectKeyInfo c.deviceKey ++ c.hssKey ++ c.serial)

/-- Both of the vendor's signatures hold, of the device CA's key and of its LMS key. -/
def certGenuine (c : IdCert) (caKey vendorKey : List Byte) : Bool :=
  ecdsaVerify caKey (certTbs c) c.caSig && lmsVerify lmsH20 20 vendorKey (vendorSigned c) c.vendorLms

/-! ### The alias certificate -/

/-- DiceTcbInfo: the SVN, M_FW as the digest of the firmware, and LIFECYCLE as a byte of the vendor's. -/
def diceTcbInfo (mFw : List Byte) (svn : BitVec 16) (lifecycle : Byte) : List Byte :=
  derSeq [der 0x83 (derUnsigned (beBytes 2 svn.toNat)), der 0xA6 (derSeq [derOid oidSha384, derOctets (fitBytes 48 mFw)]),
    der 0x88 [lifecycle]]

/-- The part of it that the DeviceID key signs; its serial number is drawn from the key. -/
def aliasTbs (pub mFw : List Byte) (svn : BitVec 16) (lifecycle : Byte) : List Byte :=
  tbsCertificate ((sha384 pub).take 8) 1 2 pub oidDiceTcbInfo (diceTcbInfo mFw svn lifecycle)

end Sys2Proof.Machine
end

