-- ==== Sys2Proof/Machine/AssayOps.lean ====
section
/-! DEFINITION. What the Assay does for other blocks: image checks (R352, R353), keys (R356), top leaves and signatures
(R358, R359), evidence (R360, R361) and receipts (R362, R363). -/

namespace Sys2Proof.Machine

/-! ### The boot flash and its slots -/

/-- Bytes of the boot flash; an erased byte reads FFH. -/
def State.flashRead (s : State) (a n : Nat) : List Byte := (List.range n).map fun i => Tab.get 0xFF s.assay.flash (a + i)

/-- Bytes written to the boot flash. -/
def State.flashWrite (s : State) (a : Nat) (bs : List Byte) : State :=
  { s with assay := { s.assay with
      flash := (bs.mapIdx fun i b => (i, b)).foldl (fun t e => Tab.put 0xFF t (a + e.1) e.2) s.assay.flash } }

/-- Where a slot starts. -/
def slotBase (b : Bool) : Nat := if b then 0x2000000 else 0

/-- A component entry (R352): OFFSET, LENGTH, KIND, the reserved bytes and DIGEST. -/
structure Component where
  off    : Nat
  len    : Nat
  kind   : Nat
  rsvd   : Nat
  digest : List Byte

/-- The component table of a header. -/
def components (h : List Byte) : List Component :=
  (List.range 16).map fun i =>
    let e := (h.drop (256 + 64 * i)).take 64
    ⟨natAt e 0 4, natAt e 4 4, natAt e 8 2, natAt e 10 6, e.drop 16⟩

/-- Check 1 of Table 18-3. -/
def imageForm (h : List Byte) : Bool :=
  let n := natAt h 14 2
  let size := natAt h 16 4
  let cs := components h
  let used := cs.take n
  natAt h 0 4 = 0x4657474B && natAt h 4 2 = 1 && 1 ≤ n && n ≤ 16 && size ≤ 0x2000000
    && natAt h 6 1 < 4 && natAt h 7 1 < 2 && (h.drop 28).take 228 == List.replicate 228 0
    && (h.drop 4356).take 3836 == List.replicate 3836 0
    && (cs.drop n).all (fun c => c.off = 0 && c.len = 0 && c.kind = 0 && c.rsvd = 0 && c.digest == List.replicate 48 0)
    && used.all (fun c => c.off % 4096 = 0 && 8192 ≤ c.off && c.off + c.len ≤ size && 1 ≤ c.kind && c.kind ≤ 5 && c.rsvd = 0)
    && (List.range n).all fun i => (List.range i).all fun j =>
      match used[i]?, used[j]? with
      | some a, some b => !rangesMeet (a.off, a.len) (b.off, b.len)
      | _, _ => true

/-- Check 2: the keys are the vendor's and not revoked. -/
def Otp.keysOk (o : Otp) (h : List Byte) : Bool :=
  let e := natAt h 6 1 % 2
  let l := natAt h 6 1 / 2 % 2
  sha384 ((h.drop 1280).take 96) == o.keyDigests.getD e [] && sha384 ((h.drop 1376).take 56) == o.keyDigests.getD (2 + l) []
    && !o.revoked.getLsbD e && !o.revoked.getLsbD (2 + l)

/-- A component of a slot whose digest does not match (check 6). -/
def State.slotSpoilt (s : State) (slot : Bool) : Bool :=
  let base := slotBase slot
  let h := s.flashRead base 8192
  ((components h).take (natAt h 14 2)).any fun c => sha384 (s.flashRead (base + c.off) c.len) != c.digest

/-- The SVN of a slot's header. -/
def State.slotSvn (s : State) (slot : Bool) : Nat := natAt (s.flashRead (slotBase slot) 16) 12 2

/-- The first reason of Table 18-3 that rejects a slot, for a value of the anti-rollback counter. -/
def State.slotRejectAt (s : State) (counter : Nat) (slot : Bool) : Option Nat :=
  let base := slotBase slot
  let h := s.flashRead base 8192
  let msg := h.take 1280
  if !imageForm h then some 1
  else if !s.assay.otp.keysOk h then some 2
  else if !ecdsaVerify ((h.drop 1280).take 96) msg ((h.drop 1432).take 96) then some 3
  else if !lmsVerify lmsH20 20 ((h.drop 1376).take 56) msg ((h.drop 1528).take 2828) then some 4
  else if natAt h 12 2 < counter then some 5
  else if s.slotSpoilt slot then some 6
  else none

/-- The first reason of Table 18-3 that rejects a slot. -/
def State.slotReject (s : State) (slot : Bool) : Option Nat := s.slotRejectAt s.ledger.rollback.toNat slot

/-- The image of a slot as it runs. -/
def State.slotImage (s : State) (slot : Bool) : Image :=
  let h := s.flashRead (slotBase slot) 1280
  { slot := slot
    version := BitVec.ofNat 32 (natAt h 8 4)
    svn := BitVec.ofNat 16 (natAt h 12 2)
    arithFp := BitVec.ofNat 64 (natAt h 20 8)
    mFw := sha384 h
    keySlot := BitVec.ofNat 2 (natAt h 6 1)
    revokeOther := natAt h 7 1 % 2 = 1 }

/-! ### Keys and signatures -/

/-- The key that every other is derived from (R356). -/
def Assay.prk (a : Assay) : List Byte := hkdfExtract (List.replicate 48 0) (leBytes 48 a.otp.uds.toNat)

/-- The DeviceID key, and the MRAM key (R356). -/
def Assay.deviceKey (a : Assay) : Nat := p384KeyFrom (hkdfExpand a.prk (label "DEVICEID") 56)
def Assay.mramKey (a : Assay) : List Byte := hkdfExpand a.prk (label "MRAM-MAC") 48

/-- LIFECYCLE as a byte. -/
def Otp.lifecycle (o : Otp) : Byte := if o.engineering then 1 else 0

/-- The alias key: a function of the device, the firmware and the lifecycle (R356). -/
def Assay.aliasKey (a : Assay) : Nat :=
  let cdi0 := hkdfExpand a.prk (label "CDI0") 48
  let cdiFw := hmac384 cdi0 (a.image.mFw ++ leBytes 2 a.image.svn.toNat ++ [a.otp.lifecycle])
  p384KeyFrom (hkdfExpand cdiFw (label "ALIAS") 56)

/-- What follows a line's content in the Assay's regions of the Riser: an HMAC under the MRAM key, cut to 16 bytes (R354, R358). A line
whose HMAC fails is a bad line of its copy. -/
def Assay.lineMac (a : Assay) (content : List Byte) : List Byte := (hmac384 a.mramKey content).take 16

/-! ### The HSS key (R358) -/

/-- I and the seed of the top tree, and of the bottom tree that top leaf q certifies. -/
def Assay.topIdent (a : Assay) : List Byte := hkdfExpand a.prk (label "HSS-TOP-I") 16
def Assay.topSeed (a : Assay) : List Byte := hkdfExpand a.prk (label "HSS-TOP") 32
def Assay.bottomIdent (a : Assay) (q : Nat) : List Byte := hkdfExpand a.prk (label "HSS-BOT-I" ++ leBytes 4 q) 16
def Assay.bottomSeed (a : Assay) (q : Nat) : List Byte := hkdfExpand a.prk (label "HSS-BOT" ++ leBytes 4 q) 32

/-- The device's HSS public key, of two levels: 60 bytes. -/
def Assay.hssPublic (a : Assay) : List Byte := beBytes 4 2 ++ lmsPublic lmsH15 15 a.topIdent a.topSeed

/-- Node r of the top tree, at height `k`. -/
def Assay.topNode (a : Assay) (k r : Nat) : List Byte := lmsNode a.topIdent a.topSeed 15 k r

/-- The 255 nodes of heights 8 to 15, the root first. -/
def Assay.topNodes (a : Assay) : List Byte := (List.range 255).flatMap fun j => a.topNode (15 - Nat.log2 (j + 1)) (j + 1)

/-- Node r of a cache, formed from the nodes of height 8, `k` levels up. -/
def cachedNode (ident cache : List Byte) : Nat → Nat → List Byte
  | 0, r => (cache.drop (32 * (r - 1))).take 32
  | k + 1, r => lmsInner ident r (cachedNode ident cache k (2 * r)) (cachedNode ident cache k (2 * r + 1))

/-- Bits of the entropy source: free values from an index on. -/
def freeBytes (i n : Nat) : List Byte := ((List.range ((n + 7) / 8)).flatMap fun j => leBytes 8 (Config.freeValue (i + j)).toNat).take n

/-- The DRBG seeded with 384 bits of entropy (R367). -/
def State.seedDrbg (s : State) : State :=
  { s with free := s.free + 6, assay := { s.assay with drbg := s.assay.drbg.seed (freeBytes s.free 48) } }

/-- Bytes of the DRBG drawn in one request; every 2^20 requests it is seeded again (R367). -/
def State.drawBytes (s : State) (n : Nat) : List Byte × State :=
  let s := if 2 ^ 20 ≤ s.assay.drbg.requests then s.seedDrbg else s
  let x := s.assay.drbg.generate n
  (x.1, { s with assay := { s.assay with drbg := x.2 } })

/-- An HSS signature: the bottom tree's public key signed with its top leaf, that key, and the message signed with a leaf of the bottom
tree. -/
def Assay.hssSign (a : Assay) (b : BottomTree) (c msg : List Byte) : List Byte :=
  let pub := lmsPublic lmsH15 15 (a.bottomIdent b.top) (a.bottomSeed b.top)
  beBytes 4 1 ++ lmsSign lmsH15 15 a.topIdent a.topSeed b.top b.salt pub ++ pub
    ++ lmsSign lmsH15 15 (a.bottomIdent b.top) (a.bottomSeed b.top) b.next c msg

/-- A top leaf spent (R359): Q advances first, the watermark follows, the bottom tree starts, the cache of the top tree is regenerated
where its root is not the HSS public key's, and the leaf signs the bottom tree's public key. -/
def State.spendLeaf (s : State) : State :=
  let q := s.ledger.lmsQ
  if !s.riser.readable .lms ∨ 32768 ≤ q then s
  else
    let s := s.updLedger .lms fun l => { l with lmsQ := q + 1 }
    let s := s.updLedger .lmsNodes fun l => { l with
      topNodes := if cachedNode s.assay.topIdent l.topNodes 7 1 = s.assay.topNode 15 1 then l.topNodes else s.assay.topNodes }
    let (c, s) := s.drawBytes 32
    let otp := s.assay.otp
    { s with
      assay := { s.assay with
        bottom := some ⟨q, 0, c⟩
        exhausted := s.assay.exhausted || decide (32768 ≤ q + 1)
        otp := if q ≠ 0 ∧ q % 1024 = 0 then { otp with watermark := otp.watermark ||| (1#32 <<< (q / 1024 - 1)) } else otp } }

/-- A bottom leaf is at hand for the next signature. -/
def State.readyLeaf (s : State) : State :=
  match s.assay.bottom with
  | some b => if b.next < 32768 then s else s.spendLeaf
  | none => s.spendLeaf

/-- BOOT of a block. -/
def State.topLeaf (s : State) : Nat := (s.assay.bottom.map (·.top)).getD 0

/-- The part runs in approved mode (R369). -/
def State.approved (s : State) : Bool := s.assay.mode = .operational && !s.assay.otp.engineering && !s.assay.exhausted

/-- A message signed with the alias key; the secret number of the signature comes from the DRBG. -/
def State.aliasSign (s : State) (msg : List Byte) : List Byte × State :=
  let (k, s) := s.drawBytes 56
  (ecdsaSign s.assay.aliasKey (p384KeyFrom k) msg, s)

/-- Both signatures of a block (R360). The bottom leaf's index advances before it signs; once the top tree is used up the
HSS field is zero. -/
def State.sign (s : State) (msg : List Byte) : List Byte × State :=
  let (e, s) := s.aliasSign msg
  match s.assay.exhausted, s.assay.bottom with
  | false, some b =>
    let (c, s) := s.drawBytes 32
    (fitBytes 96 e ++ fitBytes 5396 (s.assay.hssSign b c msg),
      { s with assay := { s.assay with bottom := some { b with next := b.next + 1 } } })
  | _, _ => (fitBytes 96 e ++ List.replicate 5396 0, s)

/-- MODE of a block (Table 18-4). -/
def State.modeByte (s : State) : Nat :=
  (if s.approved then 1 else 0) + (if s.assay.otp.engineering then 2 else 0) + (if s.assay.exhausted then 4 else 0)

/-- A service completed (R369). -/
def State.service (s : State) (n : Nat) : State :=
  { s with assay := { s.assay with service := BitVec.ofNat 8 n, serviceOk := s.approved } }

/-! ### Evidence (Table 18-4) -/

/-- IDENT_PART and IDENT_STEPPING (Tables 1-10, 1-11). -/
def identPart : Nat := 0x50080000
def identStepping : Nat := 0x0100

/-- PORTS_ADMITTED (Table 12-7): a named port itself or a spare for it; a spare port by its own state. -/
def State.portsAdmitted (s : State) : Nat :=
  ((List.range 32).map fun p =>
    if (if p < 30 then (s.serving p).isSome else (s.rport p).state.inService) then 2 ^ p else 0).foldl (· + ·) 0

/-- Positions set in a retired list. -/
def retiredCount (b : BitVec 66) : Nat := ((List.range 66).filter fun i => b.getLsbD i).length

/-- The pattern record of a handle (R360). -/
def State.patternRecord (s : State) (h : Nat) : List Byte :=
  match s.pattern h with
  | none => List.replicate 80 0
  | some p =>
    fitBytes 48 p.digest ++ leBytes 8 p.initialT.toNat ++ leBytes 8 (((s.patternSlot h).map fun c => c.t.toNat).getD 0)
      ++ leBytes 4 (s.epochOf p.chan).toNat ++ leBytes 2 h ++ leBytes 1 p.chan ++ [1] ++ List.replicate 8 0

/-- The record of the loaded patterns: those in ascending handle, then zeros. -/
def State.patternRecords (s : State) : List Byte :=
  fitBytes 1280 ((s.loaded.map (·.1)).flatMap s.patternRecord)

/-- IDE of the evidence. -/
def State.ideByte (s : State) : Nat :=
  let b (i : IdeState) (k : Nat) : Nat := if i = .secure then k else 0
  b s.cope.linkIde 1 + b s.cope.selIde 2 + b s.drag.linkIde 4 + b s.drag.selIde 8

/-- Bytes 192 to 255 of the evidence. -/
def State.evidenceFlask (s : State) : List Byte :=
  leBytes 2 s.flaskId.toNat ++ leBytes 2 s.power.cap.toNat ++ leBytes 4 s.rank ++ leBytes 4 s.flaskN
    ++ leBytes 4 s.portsAdmitted ++ leBytes 1 s.ideByte ++ leBytes 1 (retiredCount s.ledger.retired0)
    ++ leBytes 1 (retiredCount s.ledger.retired1) ++ List.replicate 45 0

/-- Bytes 0 to 1,535 of the evidence. -/
def State.evidence (s : State) (nonce : List Byte) : List Byte :=
  leBytes 4 0x5645474B ++ leBytes 2 1 ++ [0] ++ leBytes 1 s.modeByte ++ leBytes 4 s.ident.chipId.toNat
    ++ leBytes 4 identStepping ++ leBytes 4 s.assay.image.version.toNat ++ leBytes 2 s.assay.image.svn.toNat
    ++ [if s.assay.image.slot then 1 else 0] ++ leBytes 1 s.loaded.length ++ leBytes 8 s.topLeaf
    ++ leBytes 8 s.cnt.regs.time.toNat ++ List.replicate 8 0 ++ fitBytes 48 nonce ++ fitBytes 48 s.assay.otp.romDigest
    ++ fitBytes 48 s.assay.image.mFw ++ s.evidenceFlask ++ s.patternRecords

/-- The alias certificate of this boot (R357), signed by the DeviceID key, at most 1,024 bytes. -/
def Assay.aliasCertificate (a : Assay) : List Byte :=
  let tbs := aliasTbs (p384Public a.aliasKey) a.image.mFw a.image.svn a.otp.lifecycle
  (signedCertificate tbs (ecdsaSign a.deviceKey (Config.aliasNonce tbs % (p384N - 1) + 1) tbs)).take 1024

/-- The identity certificate as OTP holds it, at most 4,096 bytes (Table 18-1). -/
def Assay.identityCertificate (a : Assay) : List Byte := (certEncoded a.otp.certificate).take 4096

/-- The part is the vendor's: its certificate names the keys that the device derives, and the vendor has signed them (R357). -/
def Assay.genuine (a : Assay) (caKey vendorKey : List Byte) : Bool :=
  let c := a.otp.certificate
  c.deviceKey == p384Public a.deviceKey && c.hssKey == a.hssPublic && certGenuine c caKey vendorKey

/-- The output of ATTEST before its padding (R361): the block and both certificates. -/
def State.attestOutput (s : State) (block : List Byte) : List Byte :=
  let alias_ := s.assay.aliasCertificate
  let ident := s.assay.identityCertificate
  block ++ leBytes 4 alias_.length ++ alias_ ++ leBytes 4 ident.length ++ ident

/-- Device evidence (R360): the output and the state that has signed it. -/
def State.attestDevice (s : State) (nonce : List Byte) : List Byte × State :=
  let s := s.readyLeaf
  let body := s.evidence nonce
  let (sig, s) := s.sign body
  (s.attestOutput (body ++ sig), s.service 5)

/-! ### Receipts (Table 18-5) -/

/-- A buffer's prefix (R362). -/
def receiptPrefix (p : Pattern) (b : Nat) : List Byte :=
  leBytes 2 b ++ List.replicate 6 0 ++ leBytes 8 ((p.bufs[b]?.map (·.length)).getD 0)

/-- The copy of a buffer that a map makes current. -/
def Pattern.copyBase (p : Pattern) (map : BitVec 4096) (b : Nat) : Nat × Nat :=
  match p.bufs[b]? with
  | none => (0, 0)
  | some e => (if e.kind = 3 ∧ map.getLsbD b then e.copy1 else e.base, e.length)

/-- The bytes that a receipt's digest covers, over the copies that the commit makes current: each buffer's prefix and what reading it
gives. -/
def State.receiptBytes (s : State) (p : Pattern) (map : BitVec 4096) (bufs : List Nat) : List Byte × State :=
  bufs.foldl (fun x b =>
    let c := p.copyBase map b
    let (r, s) := x.2.readMem x.2.runPour true c.1 c.2
    (x.1 ++ receiptPrefix p b ++ r.data, s)) ([], s)

/-- The receipt record of a commit (bytes 0 to 399, without MODE, BOOT, TIME and NONCE). -/
def State.receiptRecord (s : State) (p : Pattern) (c h : Nat) (pour t : Word64) (epoch : Word32)
    (bufs : List Nat) (digest : List Byte) : List Byte :=
  leBytes 4 0x5645474B ++ leBytes 2 1 ++ [1, 0] ++ leBytes 4 s.ident.chipId.toNat ++ leBytes 4 s.assay.image.version.toNat
    ++ leBytes 2 s.assay.image.svn.toNat ++ leBytes 1 bufs.length ++ leBytes 1 c ++ leBytes 2 h ++ leBytes 2 s.flaskId.toNat
    ++ leBytes 8 pour.toNat ++ leBytes 8 p.initialT.toNat ++ leBytes 8 t.toNat ++ leBytes 4 epoch.toNat
    ++ leBytes 4 s.rank ++ leBytes 4 s.flaskN ++ List.replicate 4 0 ++ List.replicate 64 0 ++ fitBytes 48 s.assay.image.mFw
    ++ fitBytes 48 p.digest ++ digest ++ fitBytes 128 (bufs.flatMap (receiptPrefix p))

/-- A receipt stored in place of an earlier one of its channel and handle (R362). -/
def State.storeReceipt (s : State) (r : Receipt) : State :=
  { s with assay := { s.assay with
      receipts := (s.assay.receipts.filter fun x => !(x.chan = r.chan && x.handle = r.handle)) ++ [r] } }

/-- Receipts of a handle on a channel removed. -/
def State.dropReceipts (s : State) (c h : Nat) : State :=
  { s with assay := { s.assay with receipts := s.assay.receipts.filter fun x => !(x.chan = c && x.handle = h) } }

/-- The receipt of a handle on a channel. -/
def State.receiptOf (s : State) (c h : Nat) : Option Receipt := s.assay.receipts.find? fun x => x.chan = c && x.handle = h

/-- A stored record completed with MODE, BOOT, TIME and NONCE, and signed (R363). -/
def State.attestReceiptOf (s : State) (r : Receipt) (nonce : List Byte) : List Byte × State :=
  let s := s.readyLeaf
  let body := r.record.take 7 ++ leBytes 1 s.modeByte ++ (r.record.drop 8).take 56 ++ leBytes 8 s.topLeaf
    ++ leBytes 8 s.cnt.regs.time.toNat ++ fitBytes 48 nonce ++ r.record.drop 128
  let (sig, s) := s.sign body
  (s.attestOutput (body ++ sig), s.service 5)

end Sys2Proof.Machine
end

