-- ==== Sys2Proof/Machine/Intake.lean ====
section
/-! DEFINITION. Intake: the windows and the Tundish (R202 to R204), the acceptance checks of Table 11-5, acceptance and
what CHANNEL_OPEN, CHANNEL_ADOPT and CHANNEL_CLOSE do at it (R198 to R209, R221, R242, R243, R254). -/

namespace Sys2Proof.Machine

/-! ### Windows (R202 to R204) -/

/-- The stream that carries an access to the port's BARs: the Selective one, whose address association covers them, once it is set up, else
the Link stream (R365). Requests to configuration space, DOE among them, are outside it (DESIGN CHOICE, log entry 85). -/
def HostPortState.stream (h : HostPortState) : IdeState := if h.selIde = .off then h.linkIde else h.selIde

/-- Configuration requests reach the function and are no longer answered with CRS: the port's link is up, it is out of reset and FLR, and
the Nelhan is ready or its boot has stopped (R408, R410). -/
def State.portOpen (s : State) (p : HostPort) : Bool :=
  let h := s.port p
  h.linkUp && !h.perst && !h.flr && s.barOpen

/-- An access to a BAR of the port reaches the part: the port is open, and the access's IDE stream is not insecure (R365). -/
def State.hostReach (s : State) (p : HostPort) : Bool := s.portOpen p && (s.port p).stream != .insecure

/-- A TLP that a port does not take; one that an insecure IDE stream drops is counted (R365, Table 20-2). -/
def State.notReached (s : State) (p : HostPort) : State :=
  let h := s.port p
  if h.linkUp && !h.perst && h.stream = .insecure then s.count (ctrHost p.toNat 7) 1 else s

/-- Tundish buffers a channel holds (R203): those of packets that are being written, wait for their decision, or are bound. -/
def State.tundishHeld (s : State) (c : Nat) : Nat :=
  ((HostPort.all.filter fun p => (s.window p c).buffer.isSome).length)
    + (s.intake.received.filter fun p => p.chan = c && p.buffer.isSome).length
    + (s.intake.bound.filter fun b => b.packet.chan = c && b.packet.buffer.isSome).length

/-- Buffers that channels below their reservation may still claim. -/
def State.tundishOwed (s : State) : Nat :=
  ((List.range 64).map fun d => (s.chan d).tundishRes - s.tundishHeld d).foldl (· + ·) 0

/-- The half that gives the buffer of a packet that arrives on a port; none where R203 gives no buffer. -/
def State.assignBuffer (s : State) (p : HostPort) (c : Nat) : Option Bool :=
  if s.tundishHeld c < (s.chan c).tundishRes ∨ s.tundishOwed < s.intake.free0 + s.intake.free1 then
    let own := p = .drag
    let n := if own then s.intake.free1 else s.intake.free0
    if n ≠ 0 then some own else if s.intake.free0 + s.intake.free1 = 0 then none else some !own
  else none

/-- A buffer taken. -/
def State.takeBuffer (s : State) (b : Option Bool) : State :=
  match b with
  | none => s
  | some true => { s with intake := { s.intake with free1 := s.intake.free1 - 1 } }
  | some false => { s with intake := { s.intake with free0 := s.intake.free0 - 1 } }

/-- The last byte of the packet in a window by its header copy (R204). -/
def Window.lastByte (w : Window) : Nat :=
  let len := leNat (w.bytes.raw 8 4)
  if len ≤ 16304 then 0x40 + len + 15 else 0x3FFF

/-- The packet a window holds. -/
def Window.packet (w : Window) (p : HostPort) (c : Nat) (time : Word64) : Packet :=
  let len := min 16304 (leNat (w.bytes.raw 8 4))
  { port := p
    chan := c
    buffer := w.buffer
    header := BitVec.ofNat 512 (leNat (w.bytes.raw 0 64))
    trailer := BitVec.ofNat 128 (leNat (w.bytes.raw (0x40 + len) 16))
    payload := w.bytes.raw 0x40 len
    time := time
    chk := if w.buffer.isSome then w.bytes.chk else [] }

/-- A packet as it lies in its buffer: header, payload and trailer. -/
def Packet.cells (k : Packet) : Mem :=
  { (Mem.zeros.lay 0 (leBytes 64 k.header.toNat ++ k.payload ++ leBytes 16 k.trailer.toNat)) with chk := k.chk }

/-- A packet with what a buffer holds of it. -/
def Packet.ofCells (k : Packet) (bytes chk : Mem) : Packet :=
  { k with
    header := BitVec.ofNat 512 (leNat (bytes.raw 0 64))
    payload := bytes.raw 64 k.payload.length
    trailer := BitVec.ofNat 128 (leNat (bytes.raw (64 + k.payload.length) 16))
    chk := chk.chk }

/-- A packet read from its buffer: its codewords decoded, those that stay poisoned, and what ERR counts (R377, R379). What is decided of a
packet is decided on the data that the code gives, of a poisoned codeword too (DESIGN CHOICE, log entry 22). -/
def Packet.decode (k : Packet) : Packet × List MemEvent :=
  if k.chk = [] then (k, [])
  else
    let n := 80 + k.payload.length
    let r := k.cells.readRange .tundish 0 n
    (k.ofCells (Mem.zeros.lay 0 r.data) (r.poisoned.foldl (fun m c => m.setChk c poisonMark) Mem.zeros), r.events)

/-- A receipt completed (R204): the packet waits for its decision. After a stopped boot it only counts as stray (R408). -/
def State.receive (s : State) (k : Packet) : State :=
  let s := s.count (ctrHost k.port.toNat 0) 1
  if s.boot.phase = .ready then { s with intake := { s.intake with received := s.intake.received ++ [k] } }
  else s.addStray.freeBuffer k.buffer

/-- The bytes of a host write taken into a window. -/
def State.windowWrite (s : State) (p : HostPort) (c off : Nat) (data : List Byte) : State :=
  let w := s.window p c
  let (w, s) :=
    if w.active then (w, s)
    else
      let b := s.assignBuffer p c
      (⟨true, b, Mem.zeros⟩, s.takeBuffer b)
  let (m, ev) :=
    if w.buffer.isSome then w.bytes.writeRange .tundish off (data.take (0x4000 - off))
    else (w.bytes.lay off (data.take (0x4000 - off)), [])
  let w := { w with bytes := m }
  let s := s.noteAll none ev
  let last := w.lastByte
  if off ≤ last ∧ last < off + data.length then
    let s := (s.setWindow p c Window.idle).receive (w.packet p c s.cnt.regs.time)
    if last + 1 < off + data.length then s.addStray else s
  else
    let s := s.setWindow p c w
    if 0x4000 < off + data.length then s.addStray else s

/-- INTAKE_WRITE. R202 to R204. -/
def execIntakeWrite (p : HostPort) (c : Fin 64) (off : Nat) (data : List Byte) (s : State) : PourOut :=
  if !s.hostReach p then .next (s.notReached p)
  else if data.isEmpty || decide (0x10000 < off + data.length) then .next s
  else
    let s := s.hostTlp p false data.length
    .next (if 0x4000 ≤ off then s.addStray else s.windowWrite p c.val off data)

/-! ### The ledger's room (R243) -/

/-- An entry or a packet bound, as row 11 counts it: its pour, opcode and handle. -/
abbrev HeldPour := Nat × Nat × Nat

/-- The entries of a channel in use, by index. -/
def State.heldEntries (s : State) (c : Nat) : List (Nat × Entry) :=
  s.ledger.entries.filter fun e => e.2.state != .free && e.2.chan.toNat = c

/-- What a channel holds: its entries, and its packets bound for acceptance. -/
def State.heldPours (s : State) (c : Nat) : List HeldPour :=
  ((s.heldEntries c).map fun e => (e.2.pour.toNat, e.2.opcode.toNat, e.2.handle.toNat))
    ++ ((s.intake.bound.filter fun b => b.packet.chan = c).map fun b => (b.packet.pour, b.packet.opcode, b.packet.handle))

/-- The handles loaded on a channel with their reserves. -/
def State.reserves (s : State) (c : Nat) : List (Nat × Nat) :=
  (s.loaded.filter fun e => e.2.chan = c).map fun e => (e.1, e.2.riserReserve)

/-- Entries among those held that are RUNs of a handle. -/
def runsOf (held : List HeldPour) (h : Nat) : Nat := (held.filter fun e => e.2.1 = opRun && e.2.2 = h).length

/-- The occupied count of R243. -/
def occupied (reserves : List (Nat × Nat)) (held : List HeldPour) : Nat :=
  (reserves.map fun e => max e.2 (runsOf held e.1)).foldl (· + ·) 0
    + (held.filter fun e => !(e.2.1 = opRun && (reserves.map (·.1)).contains e.2.2)).length

/-- RSR_CHAN_OCCUPIED. -/
def State.occupiedOf (s : State) (c : Nat) : Nat :=
  occupied (s.reserves c) ((s.heldEntries c).map fun e => (e.2.pour.toNat, e.2.opcode.toNat, e.2.handle.toNat))

/-- Row 11 admits a packet. -/
def State.admits (s : State) (k : Packet) : Bool :=
  let open_ := k.opcode = opChannelOpen
  let held := if open_ then [] else (s.heldPours k.chan).filter fun e => k.ack < e.1
  let quota := if open_ then fieldOf k.pay 64 11 else (s.chan k.chan).quota
  (k.opcode = opRun && (s.reserves k.chan).any fun e => e.1 = k.handle && runsOf held e.1 < e.2)
    || occupied (s.reserves k.chan) (held ++ [(k.pour, k.opcode, k.handle)]) ≤ quota

/-- The entry R242 allocates: the lowest FREE one above the last, or from 0 again. -/
def State.allocEntry (s : State) : Option Nat :=
  let used := s.intake.bound.map (·.entry)
  let ok := fun i => (s.entry i).state = .free && !used.contains i
  let order := (List.range 1024).map fun j => (s.riser.lastAlloc + 1 + j) % 1024
  order.find? ok

/-! ### Row 10 (R198, R216, R217, R222 to R234) -/

/-- Bits [lo, lo + n) of a payload are zero. -/
def zeroBits (v lo n : Nat) : Bool := fieldOf v lo n = 0

/-- The quotas and the reservations of every other channel, packets bound to open one counted. -/
def State.promised (s : State) (c : Nat) : Nat × Nat :=
  let opens := (s.intake.bound.filter fun b => b.packet.opcode = opChannelOpen && b.packet.chan != c).map fun b => b.packet.pay
  let others := (List.range 64).filter fun d => d ≠ c
  ((others.map fun d => (s.chan d).quota).foldl (· + ·) 0 + (opens.map fun v => fieldOf v 64 11).foldl (· + ·) 0,
    (others.map fun d => (s.chan d).tundishRes).foldl (· + ·) 0 + (opens.map fun v => fieldOf v 80 4).foldl (· + ·) 0)

/-- The ring parameters of a payload against a quota (R198). -/
def ringRefusal (v quota : Nat) : Option (BitVec 16) :=
  let rl := fieldOf v 88 5
  if fieldOf v 0 64 % 4096 ≠ 0 ∨ rl < 6 ∨ 16 < rl then some stBadHeader
  else if 2 ^ rl < quota then some stQuotaOver
  else none

/-- The channel parameters of R198 and R200. -/
def State.paramRefusal (s : State) (k : Packet) : Option (BitVec 16) :=
  let v := k.pay
  if k.opcode = opChannelOpen then
    let q := fieldOf v 64 11
    let r := fieldOf v 80 4
    let sums := s.promised k.chan
    if q < 2 ∨ 1024 < q ∨ 1024 < sums.1 + q then some stQuotaOver
    else if r < 1 ∨ 8 < r ∨ 512 < sums.2 + r then some stTundishExhausted
    else ringRefusal v q
  else if k.opcode = opChannelAdopt then ringRefusal v (s.chan k.chan).quota
  else none

/-- A port entry of FLASK_JOIN (R230). -/
def joinEntryOk (v n p : Nat) : Bool :=
  let e := fieldOf v (256 + 128 * p) 128
  let partner := fieldOf v (256 + 128 * (if p % 2 = 0 then p + 1 else p - 1)) 128
  let mode := fieldOf e 72 2
  if 30 ≤ p ∨ mode = 0 then e = 0
  else
    mode != 3 && zeroBits e 74 54 && zeroBits e 69 3 && zeroBits e 50 14 && zeroBits e 18 14
      && fieldOf e 64 5 ≤ 29 && fieldOf e 32 18 < n
      && (mode != 2 || (p < 14 && fieldOf partner 72 2 = 2))

/-- Reserved payload bits and the fields marked row 10, by opcode. -/
def payloadOk (op v : Nat) : Bool :=
  match op with
  | 0x01 => zeroBits v 98 158 && zeroBits v 93 3 && zeroBits v 84 4 && zeroBits v 75 5
  | 0x03 => zeroBits v 64 24 && zeroBits v 93 4 && zeroBits v 98 30
  | 0x10 =>
    let len := fieldOf v 64 32
    zeroBits v 192 64 && zeroBits v 96 32 && zeroBits v 48 16
      && 64 ≤ len && len ≤ 2 ^ 27 && len % 64 = 0 && fieldOf v 0 48 % 64 = 0
  | 0x20 =>
    zeroBits v 896 128 && zeroBits v 44 84 && zeroBits v 33 7 && fieldOf v 40 4 ≤ 8 && (v.testBit 32 || zeroBits v 0 32)
  | 0x22 => zeroBits v 32 96
  | 0x30 =>
    let len := fieldOf v 128 64
    zeroBits v 192 64 && zeroBits v 112 16
      && 32 ≤ len && len ≤ 2 ^ 32 && len % 32 = 0 && fieldOf v 64 48 % 32 = 0 && fieldOf v 0 64 % 4 = 0
  | 0x31 =>
    let len := fieldOf v 128 64
    zeroBits v 192 64 && zeroBits v 112 16
      && 32 ≤ len && len ≤ 2 ^ 32 && len % 32 = 0 && fieldOf v 64 48 % 32 = 0 && fieldOf v 0 64 % 4 = 0
  | 0x32 =>
    let len := fieldOf v 64 64
    zeroBits v 48 16 && 32 ≤ len && len ≤ 2 ^ 37 && len % 32 = 0 && fieldOf v 0 48 % 32 = 0
  | 0x40 => zeroBits v 72 56 && fieldOf v 0 64 % 64 = 0 && fieldOf v 64 8 ≤ 1
  | 0x50 =>
    let n := fieldOf v 64 20
    zeroBits v 97 159 && zeroBits v 84 12 && zeroBits v 50 14 && zeroBits v 16 16
      && 1 ≤ n && n ≤ 262144 && fieldOf v 32 18 < n && 1 ≤ fieldOf v 0 16 && (List.range 32).all (joinEntryOk v n)
  | 0x52 => zeroBits v 30 98 && fieldOf v 0 30 != 0
  | 0x60 => zeroBits v 72 56 && fieldOf v 0 64 % 64 = 0 && fieldOf v 64 8 ≤ 1
  | 0x61 =>
    let off := fieldOf v 64 32
    let len := fieldOf v 96 32
    zeroBits v 129 127 && fieldOf v 0 64 % 4 = 0 && off % 4096 = 0 && 4096 ≤ len && len ≤ 2 ^ 24 && len % 4096 = 0
      && off + len ≤ 2 ^ 25
  | _ => true

/-- HANDLE is zero where it is unused and in range where it is used. -/
def Packet.handleOk (k : Packet) (use : Nat) : Bool :=
  if use = 1 ∨ (use = 2 ∧ fieldOf k.pay 64 8 = 1) then 1 ≤ k.handle && k.handle ≤ 16 else k.handle = 0

/-- RESTARTABLE is 1 but for a RUN on a best-effort channel (R217). -/
def State.restartOk (s : State) (k : Packet) : Bool :=
  k.restartable || (k.opcode = opRun && (s.chan k.chan).bestEffort)

/-- Row 10 in the order of R216. -/
def State.row10 (s : State) (k : Packet) : Option (BitVec 16) :=
  match opcodeForm k.opcode with
  | none => some stBadHeader
  | some (len, use) =>
    if k.len ≠ len then some stBadHeader
    else
      match s.paramRefusal k with
      | some st => some st
      | none =>
        if s.restartOk k ∧ k.ack ≤ (s.chan k.chan).replied.toNat ∧ payloadOk k.opcode k.pay ∧ k.handleOk use then none
        else some stBadHeader

/-! ### The checks of Table 11-5 -/

/-- Row 1. -/
def Packet.formOk (k : Packet) : Bool :=
  let t := k.trailer.toNat
  k.hdr 0 8 = 1 && (opcodeForm k.opcode).isSome && k.channel = k.chan
    && k.len ≤ 16304 && k.len % 16 = 0
    && k.hdr 256 256 = 0 && k.hdr 40 8 = 0 && k.hdr 17 15 = 0 && fieldOf t 96 32 = 0
    && fieldOf t 64 32 = k.len && fieldOf t 0 64 = k.pour
    && (if k.opcode = opNop then k.pour = 0 && k.len = 0 else k.pour != 0)

/-- The last pour number a later packet's sequence check counts as accepted (R206). -/
def State.lastPour (s : State) (c : Nat) : Nat :=
  ((s.intake.bound.filter fun b => b.packet.chan = c).map fun b => b.packet.pour).foldl Nat.max (s.chan c).accepted.toNat

/-- The opcode of that pour. -/
def State.lastOpcode (s : State) (c : Nat) : Nat :=
  match (s.intake.bound.filter fun b => b.packet.chan = c).getLast? with
  | some b => b.packet.opcode
  | none => (s.chan c).lastOp.toNat

/-- A duplicate of the last accepted pour, one bound for acceptance counted as accepted (R206, R209). -/
def State.isDuplicate (s : State) (k : Packet) : Bool :=
  let ch := s.chan k.chan
  ch.state != .closed && k.port = ch.owner && k.pour = s.lastPour k.chan && k.opcode = s.lastOpcode k.chan && k.pour != 0

/-- Rows 6 to 8: the channel's state and its owner. -/
def State.ownerRefusal (s : State) (k : Packet) : Option (BitVec 16) :=
  let ch := s.chan k.chan
  if k.opcode = opChannelOpen then
    match ch.state with
    | .closed => none
    | .opened => some stTableFull
    | .closing => some stChannelClosing
  else
    match ch.state with
    | .closed => some stChannelClosed
    | .closing => some stChannelClosing
    | .opened =>
      if (k.opcode = opChannelAdopt) = (k.port = ch.owner) then some stNotOwner else none

/-- An ACK applied (R208). -/
def State.applyAck (s : State) (c p : Nat) : State :=
  let gone := ((s.heldEntries c).filter fun e => e.2.pour.toNat ≤ p).map (·.1)
  let s := gone.foldl (fun s i => s.updEntry i fun e => { e with state := .free }) s
  let s := { s with accepted := s.accepted.filter fun i => !gone.contains i }
  if (s.chan c).acked.toNat < p then s.updChan c fun ch => { ch with acked := BitVec.ofNat 64 p } else s

/-- The first row that fails (Table 11-5), row 11 with the entries that the packet's ACK releases; none for a packet that is bound, or a
NOP that is taken. -/
def State.refusalOf (s : State) (k : Packet) : Option (BitVec 16) :=
  if !k.formOk then some stBadHeader
  else if k.buffer.isNone then some stTundishExhausted
  else if !k.crcOk then some stBadDigest
  else if s.riser.lost ∧ k.opcode ≠ opNop then some stRiserLost
  else if s.isDuplicate k then some stDuplicate
  else
    match s.ownerRefusal k with
    | some st => some st
    | none =>
      if k.opcode ≠ opNop ∧ k.pour ≠ s.lastPour k.chan + 1 then some stOutOfSequence
      else
        match s.row10 k with
        | some st => some st
        | none =>
          if k.opcode ≠ opNop ∧ !(s.admits k && (s.applyAck k.chan k.ack).allocEntry.isSome) then some stQuotaExhausted
          else none

/-! ### Binding -/

/-- A packet that passed row 11 bound for acceptance: its ACK applied and its entry allocated. -/
def State.bind (s : State) (k : Packet) : State :=
  let s := s.applyAck k.chan k.ack
  match s.allocEntry with
  | none => s
  | some i => { s with
      riser := { s.riser with lastAlloc := i }
      intake := { s.intake with bound := s.intake.bound ++ [⟨k, i⟩] } }

/-- A packet decided (R206, R207). -/
def State.decide_ (s : State) (k : Packet) : State :=
  match s.refusalOf k with
  | some st => s.refuse k st
  | none => if k.opcode = opNop then (s.applyAck k.chan k.ack).freeBuffer k.buffer else s.bind k

/-- An opcode whose acceptance changes what rows 6 to 8 test. -/
def isChannelOp (op : Nat) : Bool := op = opChannelOpen || op = opChannelAdopt || op = opChannelClose

/-- The first received packet of a channel and those left. -/
def takeFirst (c : Nat) : List Packet → Option (Packet × List Packet)
  | [] => none
  | k :: t => if k.chan = c then some (k, t) else (takeFirst c t).map fun r => (r.1, k :: r.2)

/-- A decision of a channel may be made now. -/
def State.mayDecide (s : State) (c : Nat) : Bool :=
  s.boot.phase = .ready && s.intake.bound.length < 16
    && !(s.intake.bound.any fun b => b.packet.chan = c && isChannelOp b.packet.opcode)

/-- The packet whose turn it is (R204, R206): of those whose channel admits a decision, the one whose receipt completed first. -/
def State.nextDecision (s : State) : Option Packet := s.intake.received.find? fun k => s.mayDecide k.chan

/-- PACKET_DECISION: the packet whose turn it is decided, if it is of this channel. -/
def execPacketDecision (c : Fin 64) (s : State) : PourOut :=
  match s.nextDecision, takeFirst c.val s.intake.received with
  | some turn, some (k, rest) =>
    .next (if turn.chan = c.val then
      ({ s with intake := { s.intake with received := rest } }.noteAll none k.decode.2).decide_ k.decode.1 else s)
  | _, _ => .next s

/-! ### The intake store -/

/-- The address of an entry's body on S0 (`false`) or S4 (R242). -/
def bodyAddr (i : Nat) (s4 : Bool) : Nat := (if s4 then 0x009FC0000000 else 0x001FC0000000) + 16384 * i

/-- Both copies of a body taken together: each codeword from S0 or, where that fails, from S4; none where both fail (R379). -/
def bothCopies (i : Nat) (r0 r4 : RangeRead) : Option (List Byte) :=
  let bad0 := r0.poisoned.map fun c => c - bodyAddr i false / 32
  let bad4 := r4.poisoned.map fun c => c - bodyAddr i true / 32
  if bad0.any bad4.contains then none
  else some (r0.data.mapIdx fun j b => if bad0.contains (j / 32) then (r4.data[j]?).getD 0 else b)

/-- The first `n` bytes of an entry's body as they decode (R254, R379); none where no copy can be read. -/
def State.bodyBytes (s : State) (i n : Nat) : Option (List Byte) :=
  let one := Tab.get 0 s.intake.oneCopy i
  let r := s.mem.readRange .chip (bodyAddr i (one = 2)) n
  if r.poisoned.isEmpty then some r.data
  else if one ≠ 0 then none
  else bothCopies i r (s.mem.readRange .chip (bodyAddr i true) n)

/-- The packet of a body's bytes. -/
def packetOf (bs : List Byte) : Packet :=
  let h := leNat (bs.take 64)
  { port := .cope
    chan := fieldOf h 32 8
    buffer := none
    header := BitVec.ofNat 512 h
    trailer := 0
    payload := bs.drop 64
    time := 0
    chk := [] }

/-- What an entry tells of its packet's header (Table 13-2). -/
def Entry.header (e : Entry) : Nat :=
  1 + e.opcode.toNat * 2 ^ 8 + (if e.restartable then 2 ^ 16 else 0) + e.chan.toNat * 2 ^ 32 + e.handle.toNat * 2 ^ 48
    + e.pour.toNat * 2 ^ 128

/-- The packet of an entry as its body holds it (R242, R254); where the body cannot be read, what the entry tells. -/
def State.bodyOf (s : State) (i : Nat) : Packet :=
  match (s.bodyBytes i 64).bind fun h => s.bodyBytes i (64 + fieldOf (leNat h) 64 32) with
  | some bs => packetOf bs
  | none => packetOf (leBytes 64 (s.entry i).header)

/-- A codeword of HBM poisoned as a carrier delivers it (R380). -/
def State.carryPoison (s : State) (c : Nat) : State :=
  let (m, ev) := s.mem.carryCw .chip c (s.mem.raw (32 * c) 32) true
  { s with mem := m }.noteAll none ev

/-- A body written to S0 and S4 (R254), with the poison that its codewords have in the Tundish. -/
def State.writeBody (s : State) (i : Nat) (k : Packet) (s0 s4 : Bool) : State :=
  let (k, seen) := k.decode
  let s := s.noteAll none seen
  let body := leBytes 64 k.header.toNat ++ k.payload
  let bad := (k.chk.map (·.1)).filter fun c => 32 * c < body.length
  let put (on : Bool) (a : Nat) (s : State) : State :=
    if on then bad.foldl (fun (s : State) c => s.carryPoison (a / 32 + c)) ((s.wake a).writeMem none true a body) else s
  let s := put s4 (bodyAddr i true) (put s0 (bodyAddr i false) s)
  let one := if s0 && s4 then 0 else if s0 then 1 else 2
  let s := { s with intake := { s.intake with oneCopy := Tab.put 0 s.intake.oneCopy i one } }
  if s0 && s4 then s
  else s.logStatus stUncorrectable unitHbm (if s0 then 4 else 0) (s.boardAddr (bodyAddr i s0)) false none

/-! ### Channels at acceptance -/

/-- CHANNEL_OPEN at acceptance (R198, R211, R245). -/
def State.openChannel (s : State) (k : Packet) : State :=
  let c := k.chan
  let v := k.pay
  let s := s.updLedger (.chan c) fun l => { l with
    chans := Tab.put ChanRec.closed l.chans c
      { state := .opened
        owner := k.port
        ringBase := BitVec.ofNat 64 (fieldOf v 0 64)
        ringLog := fieldOf v 88 5
        quota := fieldOf v 64 11
        tundishRes := fieldOf v 80 4
        bestEffort := v.testBit 96
        msixEn := v.testBit 97
        accepted := 0
        replied := 0
        acked := 0
        lastOp := 0
        last := none
        energy := 0 } }
  let put (j : Nat) (sl : Option CommitSlot) (s : State) : State :=
    s.updLedger (.slot j) fun l => { l with slots := Tab.put none l.slots j sl }
  let s := put (2 * c) (some ⟨BitVec.ofNat 64 k.pour, 0, 0, 0, false, false, false, 0⟩) (put (2 * c + 1) none s)
  s.updVchan c fun v => { v with rhead := 0, rtail := 0, replyQ := [], dups := [], adoptCopies := 0 }

/-- The host read that a running transfer waits for, asked again from where it stands (R220). -/
def State.askHost (s : State) (c : Nat) : State :=
  match s.runningOf c with
  | none => s
  | some r =>
    match r.transfer with
    | none => s
    | some t =>
      let k := r.body
      let p := (s.chan c).owner
      if (k.opcode = opCopyIn ∨ k.opcode = opFirmwareStage) ∧ t.done < t.total ∧ (s.port p).mayWrite then
        s.updPort p fun h => { h with out := h.out ++
          [.readReq c (BitVec.ofNat 64 (fieldOf k.pay 0 64 + t.done)) (t.total - t.done)] }
      else s

/-- A transfer that starts again from its first byte (R220). -/
def State.restartTransfer (s : State) (c : Nat) : State :=
  match s.runningOf c with
  | none => s
  | some r =>
    match r.transfer, r.outcome with
    | some t, none => (s.setRunning c (some { r with transfer := some { t with done := 0, rest := [] } })).askHost c
    | _, _ => s

/-- The pours of a channel whose final reply has been written and whose entry is held, in pour order. -/
def State.repliedHeld (s : State) (c : Nat) : List Entry :=
  let es := ((s.heldEntries c).map (·.2)).filter fun e => e.pour.toNat ≤ (s.chan c).replied.toNat
  (es.foldl (fun (t : Tab Entry) e => Tab.insert e.pour.toNat e t) []).map (·.2)

/-- CHANNEL_ADOPT at acceptance (R200, R213, R220). What the old owner's port may still write has been written by then: only what waits for
that port, or for its ring, is left. -/
def State.adoptChannel (s : State) (k : Packet) (own : Nat) : State :=
  let c := k.chan
  let v := k.pay
  let s := State.pumpReplies (s.vchan c).replyQ.length c s
  let s := (s.heldEntries c).foldl (fun s e =>
    if e.1 = own then s else s.updEntry e.1 fun e => { e with adopted := true }) s
  let copies := (s.repliedHeld c).map fun e => { replyOf e with final := false }
  let q := (s.vchan c).replyQ
  let keep := (q.filter fun r => !r.refused).map fun r => { r with adopted := true }
  let s := s.updChan c fun ch => { ch with
    owner := k.port
    ringBase := BitVec.ofNat 64 (fieldOf v 0 64)
    ringLog := fieldOf v 88 5
    msixEn := v.testBit 97
    last := ch.last.map fun e => { e with adopted := true } }
  (s.updVchan c fun v => { v with
    rhead := 0
    rtail := 0
    replyQ := copies ++ keep
    adoptCopies := copies.length
    dropped := v.dropped.add (q.length - keep.length) }).restartTransfer c

/-- What the acceptance of a channel opcode changes. -/
def State.channelEffect (s : State) (k : Packet) (i : Nat) : State :=
  if k.opcode = opChannelOpen then s.openChannel k
  else if k.opcode = opChannelAdopt then s.adoptChannel k i
  else if k.opcode = opChannelClose then s.updChan k.chan fun ch => { ch with state := .closing }
  else s

/-! ### Acceptance -/

/-- The entry of a packet as step 4 of R206 commits it. -/
def Packet.entry (k : Packet) (time : Word64) : Entry :=
  { Entry.free with
    state := .accepted
    pour := BitVec.ofNat 64 k.pour
    opcode := BitVec.ofNat 8 k.opcode
    chan := BitVec.ofNat 6 k.chan
    handle := BitVec.ofNat 5 k.handle
    restartable := k.restartable
    tsAccept := time }

/-- The entry committed: the packet is accepted and its buffer freed. -/
def State.commitAccept (s : State) (b : Bound) : State :=
  let k := b.packet
  let s := s.updEntry b.entry fun _ => k.entry s.cnt.regs.time
  let s := s.channelEffect k b.entry
  let s := s.noteChan k.chan fun ch => { ch with
    accepted := BitVec.ofNat 64 k.pour
    lastOp := BitVec.ofNat 8 k.opcode }
  ({ s with accepted := s.accepted ++ [b.entry] }.count (ctrHost k.port.toNat 1) 1).freeBuffer k.buffer

/-- Steps 3 and 4 of R206 for a channel's first bound packet (R254). -/
def State.acceptWith (s : State) (c : Nat) (s0 s4 : Bool) : State :=
  match s.intake.bound.find? fun b => b.packet.chan = c with
  | none => s
  | some b =>
    let drop := fun (s : State) => { s with
      err := { s.err with intakeStall := s.err.intakeStall &&& ~~~(1#64 <<< c) }
      intake := { s.intake with
      bound := s.intake.bound.filter fun x => x.entry ≠ b.entry
      held := s.intake.held &&& ~~~(1#64 <<< c) } }
    if s.riser.lost then (drop s).refuse b.packet stRiserLost
    else if !s0 && !s4 then { s with intake := { s.intake with held := s.intake.held ||| (1#64 <<< c) } }
    else (drop (s.writeBody b.entry b.packet s0 s4)).commitAccept b

/-- PACKET_ACCEPT. -/
def execPacketAccept (c : Fin 64) (s0ok s4ok : Bool) (s : State) : PourOut :=
  .next (if s.boot.phase ≠ .ready ∨ s.intake.held.getLsbD c.val then s else s.acceptWith c.val s0ok s4ok)

/-- INTAKE_BODY_RETRY. -/
def execIntakeBodyRetry (c : Fin 64) (s0ok s4ok : Bool) (s : State) : PourOut :=
  .next (if s.boot.phase = .ready ∧ s.intake.held.getLsbD c.val then s.acceptWith c.val s0ok s4ok else s)

/-- INTAKE_STALL_TIMEOUT. ERR_FAULT.INTAKE_STALL holds FAULT_N low (R254, R387). -/
def execIntakeStallTimeout (c : Fin 64) (s : State) : PourOut :=
  .next (if s.intake.held.getLsbD c.val then { s with err := { s.err with intakeStall := s.err.intakeStall ||| (1#64 <<< c.val) } } else s)

/-- SPR_CHAN_RHEAD as its home takes it (R211, R215). -/
def State.writeRhead (s : State) (port : HostPort) (c : Nat) (value : Word32) : State :=
  let v := s.vchan c
  let ch := s.chan c
  if ch.state = .closed ∨ ch.owner ≠ port ∨ (v.rtail - v.rhead).toNat < (value - v.rhead).toNat then s.addStray
  else s.updVchan c fun v => { v with rhead := value }

/-- SPR_CHAN_RHEAD written. -/
def execSprChanRhead (port : HostPort) (c : Fin 64) (value : Word32) (s : State) : PourOut :=
  .next (if !s.hostReach port then s.notReached port
    else (s.hostTlp port false 4).writeRhead port c.val value)

end Sys2Proof.Machine
end

