-- ==== Sys2Proof/Machine/Pours.lean ====
section
/-! DEFINITION. The life of a pour: when it starts (R219), its attempts (R241, R248), its outcome (R218) and its commit
(R244 to R246). -/

namespace Sys2Proof.Machine

/-! ### Start conditions (R219) -/

/-- The class of an opcode (Table 12-1). -/
def opClass (op : Nat) : PourClass :=
  if op = opPatternLoad ∨ op = opPatternUnload ∨ op = opFlaskJoin ∨ op = opFlaskLeave ∨ op = opMarginTest then .exclusive
  else if op = opRun then .run
  else if op = opCopyIn ∨ op = opCopyOut ∨ op = opFill then .memory
  else if op = opFirmwareStage ∨ op = opFirmwareActivate then .firmware
  else .any

/-- The board address and the length of a Memory pour. -/
def Packet.devRange (k : Packet) : Nat × Nat :=
  if k.opcode = opFill then (fieldOf k.pay 0 48, fieldOf k.pay 64 64) else (fieldOf k.pay 64 48, fieldOf k.pay 128 64)

/-- A Memory pour touches a buffer of the pattern a RUN names (R186). -/
def State.touches (s : State) (run mem : Packet) : Bool :=
  match s.pattern run.handle with
  | none => false
  | some p => mem.devRange.1 / 2 ^ 45 = s.slot && p.copies.any fun c => rangesMeet c (mem.devRange.1 % 2 ^ 45, mem.devRange.2)

/-- Two pours may not run together. -/
def State.conflict (s : State) (a b : Packet) : Bool :=
  match opClass a.opcode, opClass b.opcode with
  | .exclusive, .exclusive => true
  | .exclusive, .run => true
  | .exclusive, .memory => true
  | .run, .exclusive => true
  | .memory, .exclusive => true
  | .run, .run => true
  | .run, .memory => s.touches a b
  | .memory, .run => s.touches b a
  | .firmware, .firmware => true
  | _, _ => false

/-- An entry whose pour has still to run, or to run again. -/
def Entry.waits (e : Entry) : Bool := e.state = .accepted || e.state = .running

/-- The head pour of a channel: its first entry in order of acceptance that waits. -/
def State.headOf (s : State) (c : Nat) : Option Nat :=
  if (s.runningOf c).isSome then none
  else s.accepted.find? fun i => (s.entry i).chan.toNat = c && (s.entry i).waits

/-- Head pours of all channels that were accepted before an entry. -/
def State.earlierHeads (s : State) (i : Nat) : List Nat :=
  (s.accepted.takeWhile (· ≠ i)).filter fun j => s.headOf (s.entry j).chan.toNat = some j

/-- The pours that run. -/
def State.runningPours (s : State) : List Running := s.running.filterMap (·.2)

/-- The head pour of a channel may start: no running pour and no earlier head pour stands against it. -/
def State.mayStart (s : State) (i : Nat) : Bool :=
  let k := s.bodyOf i
  s.boot.phase = .ready && !s.riser.lost
    && s.runningPours.all (fun r => !s.conflict k r.body)
    && (s.earlierHeads i).all fun j => !s.conflict k (s.bodyOf j)

/-! ### Attempts -/

/-- The first codeword of a range that a consumer may not read, with its status. -/
def firstBad (r : RangeRead) : Option (BitVec 16 × Nat) :=
  let least (l : List Nat) : Option Nat := l.foldl (fun m x => some (match m with | none => x | some y => min x y)) none
  match least r.bad, least r.poisoned with
  | none, none => none
  | some b, none => some (stUncorrectable, b)
  | none, some p => some (stPoisonConsumed, p)
  | some b, some p => if p < b then some (stPoisonConsumed, p) else some (stUncorrectable, b)

/-- A range read in ascending order in phase 63, up to the first codeword that a consumer may not read (R190, R227). -/
def State.readUpTo (s : State) (pour : Option (Nat × Word64)) (a n : Nat) : Option (BitVec 16 × Nat) × RangeRead × State :=
  let f := firstBad (s.mem.readRange .chip a n)
  let m := match f with
    | none => n
    | some (_, cw) => 32 * (cw + 1) - a
  (f, s.readMem pour true a m)

/-- A pour faulted with UNCORRECTABLE_DATA by a codeword that was poisoned already: its status is logged, as no read has logged it
(R386). -/
def State.poisonFaults (s : State) (pour : Option (Nat × Word64)) (r : RangeRead) : State :=
  if !r.bad.isEmpty then s
  else
    let a := 32 * r.poisoned.foldl min (r.poisoned.headD 0)
    s.logStatus stUncorrectable unitHbm (a / 2 ^ 37) (s.boardAddr a) false pour

/-- The codewords of a body, from S0 or, where those fail, from S4 (R254, R379). -/
def State.readBody (s : State) (i : Nat) : State × Option Packet :=
  let one := Tab.get 0 s.intake.oneCopy i
  let e := s.entry i
  let pour := some (e.chan.toNat, e.pour)
  let n := 64 + (s.bodyOf i).payload.length
  let (r0, s) := s.readMem pour true (bodyAddr i (one = 2)) n
  if r0.poisoned.isEmpty then (s, some (packetOf r0.data))
  else if one ≠ 0 then (s.poisonFaults pour r0, none)
  else
    let (r4, s) := (s.wake (bodyAddr i true)).readMem pour true (bodyAddr i true) n
    match bothCopies i r0 r4 with
    | some bs => (s, some (packetOf bs))
    | none => (s.poisonFaults pour r4, none)

/-- The stack that a body is read from first (R254). -/
def State.bodyStack (s : State) (i : Nat) : Nat := stackDomain (if Tab.get 0 s.intake.oneCopy i = 2 then 4 else 0)

/-- A pour's attempt runs in the gate step that lasts (R346). -/
def State.noteRan (s : State) (c i : Nat) : State :=
  let e := (c, (s.entry i).pour)
  if s.power.ran.contains e then s else { s with power := { s.power with ran := s.power.ran ++ [e] } }

/-- An attempt of a pour begins: the entry is written RUNNING (R241). One that had begun before is replayed (R248). -/
def State.beginAttempt (s : State) (c i : Nat) (k : Packet) : State :=
  let again := (s.entry i).state = .running
  let s := s.linesDone.updEntry i fun e => { e with
    state := .running
    started := true
    attempts := min 7 (e.attempts + 1)
    replayed := e.replayed || again
    tsStart := if e.started then e.tsStart else s.cnt.regs.time }
  let s := if again then { s with riser := { s.riser with replays := s.riser.replays.add 1 } } else s
  (s.setRunning c (some ⟨i, k, opClass k.opcode, none, none, 0, [], [], none⟩)).noteRan c i

/-- A running pour of a channel changed. -/
def State.updRunning (s : State) (c : Nat) (f : Running → Running) : State :=
  s.setRunning c ((s.runningOf c).map f)

/-- An outcome fixed (R218). -/
def State.fix (s : State) (c : Nat) (o : PourOutcome) : State := s.updRunning c fun r => { r with outcome := some o }

/-- Outcomes of the three forms. -/
def completed (st : BitVec 16) (detail : Nat) (e : CommitEffect) : PourOutcome := ⟨st, BitVec.ofNat 64 detail, true, e⟩
def refusedAt (st : BitVec 16) (detail : Nat) : PourOutcome := ⟨st, BitVec.ofNat 64 detail, false, .nothing⟩
def faultedWith (st : BitVec 16) : PourOutcome := ⟨st, 0, false, .nothing⟩

/-- The head pour of a channel starts if it is of the opcode, and the domains it needs are ON, the stack
that holds its body among them, or are requested on. The body
of the pour then does its part. -/
def State.startPour (s : State) (c op : Nat) (needs : State → Packet → List Nat) (body : Nat → Packet → State → State) :
    State :=
  match s.headOf c with
  | none => s
  | some i =>
    let k := s.bodyOf i
    if k.opcode = op ∧ s.mayStart i then
      let ks := s.bodyStack i :: needs s k
      let s := s.enableAll ks
      if s.allOn ks then
        match s.readBody i with
        | (s, some k) => body i k (s.beginAttempt c i k)
        | (s, none) => (s.beginAttempt c i k).fix c (faultedWith stUncorrectable)
      else s
    else s

/-- A pour that needs no domain. -/
def noNeeds (_ : State) (_ : Packet) : List Nat := []

/-- Host writes of a pour in 64-byte pieces from an address. -/
def hostPieces (a : Word64) (bs : List Byte) : List (Word64 × List Byte) :=
  (List.range ((bs.length + 63) / 64)).map fun i => (a + BitVec.ofNat 64 (64 * i), (bs.drop (64 * i)).take 64)

/-- The host writes of a pour made through its owner's port, if the port may write; its outcome then stands. -/
def State.flushPour (s : State) (c : Nat) : State :=
  match s.runningOf c with
  | none => s
  | some r =>
    let p := (s.chan c).owner
    match r.planned with
    | none => s
    | some o =>
      if (s.port p).mayWrite then
        (r.out.foldl (fun s w => s.hostWrite p w.1 w.2) s).updRunning c fun r => { r with out := [], planned := none, outcome := some o }
      else s

/-- A pour that writes a block to host memory and then has its outcome (R228). -/
def State.answerWith (s : State) (c : Nat) (a : Word64) (bs : List Byte) (o : PourOutcome) : State :=
  (s.updRunning c fun r => { r with out := hostPieces a bs, planned := some o }).flushPour c

/-- A running pour of the opcode whose writes wait goes on, or the head pour starts. -/
def State.resumeOr (s : State) (c op : Nat) (start : State) : State :=
  match s.runningOf c with
  | some r => if r.body.opcode = op then s.flushPour c else s
  | none => start

/-! ### Commit (R244 to R246) -/

/-- The slot of a handle's pattern record that a fold writes: the one with the lower EPOCH, an invalid one first. -/
def State.foldIndex (s : State) (h : Nat) : Nat :=
  let i := 2 * (h - 1)
  match Tab.get none s.ledger.precs i, Tab.get none s.ledger.precs (i + 1) with
  | none, _ => i
  | some _, none => i + 1
  | some x, some y => if y.epoch.toNat < x.epoch.toNat then i + 1 else i

/-- Step 2 of R246. -/
def State.foldSlot (s : State) (c : Nat) : State :=
  match s.curSlot c with
  | none => s
  | some (_, sl) =>
    let h := sl.handle.toNat
    let here := match s.pattern h with
      | some p => decide (p.chan = c)
      | none => false
    if h != 0 && !sl.removed && here then
      let j := s.foldIndex h
      s.updLedger (.record j) fun l => { l with precs := Tab.put none l.precs j (some { sl with pour := 0 }) }
    else s

/-- Step 3: the new slot over the one that is not current. -/
def State.putSlot (s : State) (c : Nat) (sl : CommitSlot) : State :=
  let k := match s.curSlot c with
    | some (0, _) => 1
    | _ => 0
  s.updLedger (.slot (2 * c + k)) fun l => { l with slots := Tab.put none l.slots (2 * c + k) (some sl) }

/-- Both record slots of a handle written invalid. -/
def State.dropRecords (s : State) (h : Nat) : State :=
  let drop (k : Nat) (s : State) : State := s.updLedger (.record k) fun l => { l with precs := Tab.put none l.precs k none }
  drop (2 * (h - 1) + 1) (drop (2 * (h - 1)) s)

/-- A pattern unloaded (R193): its handle, metadata, reserve, epoch state, receipts and kept state. -/
def State.unload (s : State) (h : Nat) : State :=
  match s.pattern h with
  | none => s
  | some p =>
    let s := ({ s with patterns := Tab.put none s.patterns h none }.dropRecords h).dropReceipts p.chan h
    { s with kept := match s.kept with
        | some k => if k.handle = h then none else some k
        | none => none }

/-- The energy of a pour in mJ, rounded to the nearest (R347). -/
def State.pourEnergy (s : State) (c : Nat) : Nat := (Tab.get 0 s.power.pours c + 500000) / 1000000

/-- The reply fields written at ENDING. -/
def State.endEntry (s : State) (c i : Nat) (o : PourOutcome) (epoch : Word32) : State :=
  s.updEntry i fun e => { e with
    state := .ending
    status := o.status
    detail := o.detail
    epoch := epoch
    energy := BitVec.ofNat 64 (s.pourEnergy c)
    tsDone := s.cnt.regs.time }

/-- Step 4: DONE, the channel's energy (R347), and the final reply formed. -/
def State.doneEntry (s : State) (c i : Nat) : State :=
  let s := s.updEntry i fun e => { e with state := .done }
  let e := s.entry i
  let s := s.noteChan c fun ch => { ch with energy := ch.energy + e.energy }
  let s := { (s.setRunning c none) with power := { s.power with pours := Tab.put 0 s.power.pours c 0 } }
  s.queueFinal c e

/-- What a pour's outcome changes besides its entry: the new commit slot of an epoch opcode, and what follows the commit
point. -/
def State.effectSlot (s : State) (pour : Word64) (epoch : Word32) : CommitEffect → Option CommitSlot
  | .load h p _ => some ⟨pour, p.initialT, epoch, 0, false, false, false, BitVec.ofNat 5 h⟩
  | .unload h => some ⟨pour, ((s.patternSlot h).map (·.t)).getD 0, epoch, 0, false, false, true, BitVec.ofNat 5 h⟩
  | .stepSize h v =>
    (s.patternSlot h).map fun x => { x with pour := pour, epoch := epoch, pendingSs := v, pending := true, handle := BitVec.ofNat 5 h }
  | _ => none

/-- What holds before the commit point of a load: both map copies zero and the save buffer's copy 0 zero (R191). -/
def State.beforeCommit (s : State) : CommitEffect → State
  | .load h p _ =>
    let zero (k : Nat) (s : State) : State := s.updLedger (.map k) fun l => { l with maps := Tab.put 0 l.maps k 0 }
    let s := zero (2 * (h - 1) + 1) (zero (2 * (h - 1)) s)
    match p.saveBuffer.bind fun b => p.bufs[b]? with
    | some b => (s.wake b.base).writeMem none true b.base (List.replicate b.length 0)
    | none => s
  | _ => s

/-- What follows the commit point. -/
def State.afterCommit (s : State) : CommitEffect → State
  | .load h p _ => { s with patterns := Tab.put none s.patterns h (some p) }.service 3
  | .unload h => s.unload h
  | _ => s

/-- A pour with a fixed outcome commits (R246). -/
def State.commitFixed (s : State) (c : Nat) (r : Running) (o : PourOutcome) : State :=
  let i := r.entry
  let pour := (s.entry i).pour
  let advance := o.ok && isEpochOp (s.entry i).opcode.toNat
  let epoch := if advance then s.epochOf c + 1 else s.epochOf c
  if advance then
    let s := (s.beforeCommit o.effect).endEntry c i o epoch
    match s.effectSlot pour epoch o.effect with
    | none => s.doneEntry c i
    | some sl => (((s.foldSlot c).putSlot c sl).afterCommit o.effect).doneEntry c i
  else (s.endEntry c i o epoch).doneEntry c i

end Sys2Proof.Machine
end

