-- ==== Sys2Proof/Machine/Opcodes.lean ====
section
/-! DEFINITION. What the opcodes do at execution, but for RUN and the flask's: channels (R198 to R201), patterns (R190 to
R193, R222), step sizes (R175), memory (R186, R226, R227), queries (R228), evidence (R229) and firmware (R234). -/

namespace Sys2Proof.Machine

/-! ### Channels -/

/-- A channel opcode at the head of the channel's bound packets accepted. -/
def State.acceptOp (s : State) (c op : Nat) : State :=
  match s.intake.bound.find? fun b => b.packet.chan = c with
  | some b =>
    if b.packet.opcode = op ∧ s.boot.phase = .ready ∧ !s.intake.held.getLsbD c then s.acceptWith c true true else s
  | none => s

/-- CHANNEL_OPEN: accepted, and executed as the channel's first pour (R198, R221). -/
def execChannelOpen (c : Fin 64) (s : State) : PourOut :=
  .next ((s.acceptOp c.val opChannelOpen).startPour c.val opChannelOpen noNeeds fun _ _ s =>
    s.fix c.val (completed stOk 0 .nothing))

/-- CHANNEL_ADOPT (R200): DETAIL is the number of copies that step 4 writes. -/
def execChannelAdopt (c : Fin 64) (s : State) : PourOut :=
  .next ((s.acceptOp c.val opChannelAdopt).startPour c.val opChannelAdopt noNeeds fun _ _ s =>
    s.fix c.val (completed stOk (s.vchan c.val).adoptCopies .nothing))

/-- CHANNEL_CLOSE (R201): the channel is CLOSING from acceptance; the pour's outcome is fixed by the teardown. -/
def execChannelClose (c : Fin 64) (s : State) : PourOut :=
  .next ((s.acceptOp c.val opChannelClose).startPour c.val opChannelClose noNeeds fun _ _ s => s)

/-- The handles loaded on a channel, in ascending order. -/
def State.handlesOf (s : State) (c : Nat) : List Nat := (s.loaded.filter fun e => e.2.chan = c).map (·.1)

/-- A pour of a class that an unload waits for runs (R190). -/
def State.memoryBusy (s : State) : Bool :=
  s.runningPours.any fun r => r.cls = .exclusive || r.cls = .run || r.cls = .memory

/-- Steps 2 to 6 of R201 may be made. -/
def State.teardownReady (s : State) (c : Nat) : Bool :=
  (match s.runningOf c with
    | some r => r.body.opcode = opChannelClose
    | none => false)
    && (s.vchan c).replyQ.isEmpty && s.replyReady c && ((s.handlesOf c).isEmpty || !s.memoryBusy)

/-- A channel's record as its close leaves it (R201, Table 11-10): quota, reservation, pour numbers and energy are zero; the
owner and the ring that it had still show. -/
def ChanRec.close (ch : ChanRec) : ChanRec :=
  { ChanRec.closed with
    owner := ch.owner
    ringBase := ch.ringBase
    ringLog := ch.ringLog
    bestEffort := ch.bestEffort
    msixEn := ch.msixEn }

/-- Every entry of a channel released, and the channel CLOSED. -/
def State.closeChannel (s : State) (c : Nat) : State :=
  let held := (s.heldEntries c).map (·.1)
  let s := held.foldl (fun s i => s.updEntry i fun e => { e with state := .free }) s
  let s := s.updChan c ChanRec.close
  ({ s with accepted := s.accepted.filter fun i => !held.contains i }).updVchan c fun v => { v with replyQ := [], dups := [] }

/-- CLOSE_TEARDOWN. A close that a loss of power has surrendered (R253) still ends with the channel CLOSED. Copies of the final reply that
wait for a slot of the ring are never dropped (R213): the channel is CLOSED once they are written. -/
def execCloseTeardown (c : Fin 64) (s : State) : PourOut :=
  let s := s.startPour c.val opChannelClose noNeeds fun _ _ s => s
  match s.runningOf c.val with
  | none =>
    .next (if (s.chan c.val).state = .closing ∧ (s.vchan c.val).replyQ.isEmpty ∧ (s.heldEntries c.val).all (fun e => e.2.state = .done)
        ∧ (s.chan c.val).replied = (s.chan c.val).accepted then s.closeChannel c.val else s)
  | some r =>
    if s.teardownReady c.val then
      let s := (s.handlesOf c.val).foldl State.unload s
      let s := s.commitFixed c.val r (completed stOk 0 .nothing)
      let s := State.pumpReplies (s.vchan c.val).replyQ.length c.val s
      .next (if (s.vchan c.val).replyQ.isEmpty then s.closeChannel c.val else s)
    else .next s

/-! ### Patterns -/

/-- The stack of a board address of this chip. -/
def stackNeed (a : Nat) : List Nat := if isUsable (a % 2 ^ 45) then [stackDomain (a % 2 ^ 45 / 2 ^ 37)] else []

/-- The lowest handle that no loaded pattern holds (R191). -/
def State.freeHandle (s : State) : Nat :=
  (((List.range 16).map (· + 1)).find? fun h => (s.pattern h).isNone).getD 0

/-- Where a handle's metadata lie in the pattern metadata regions (R15, R191): two handles in each stack, 224 MiB apart (DESIGN CHOICE,
log entry 75). -/
def metadataBase (h : Nat) : Nat := 2 ^ 37 * ((h - 1) / 2) + 0x1FA4000000 + 0xE000000 * ((h - 1) % 2)

/-- PATTERN_LOAD at execution: Table 10-9 in its order, on the image as the load reads it. A load that passes copies the image into the
pattern metadata region of the handle it assigns (R191). -/
def State.loadPattern (s : State) (c : Nat) (k : Packet) : State :=
  let a := fieldOf k.pay 0 48
  let len := fieldOf k.pay 64 32
  match stagingCheck s a len with
  | some st => s.fix c (refusedAt st 0)
  | none =>
    let pour := some (c, BitVec.ofNat 64 k.pour)
    match s.readUpTo pour (a % 2 ^ 45) len with
    | (some _, r, s) => (s.poisonFaults pour r).fix c (faultedWith stUncorrectable)
    | (none, r, s) =>
      let p := readPattern c (BitVec.ofNat 64 (fieldOf k.pay 128 64)) r.data
      match imageCheck s p r.data len with
      | some st => s.fix c (refusedAt st 0)
      | none =>
        let h := s.freeHandle
        ((s.wake (metadataBase h)).writeMem none true (metadataBase h) r.data).fix c (completed stOk h (.load h p p.digest))

/-- PATTERN_LOAD. -/
def execPatternLoad (c : Fin 64) (s : State) : PourOut :=
  .next (s.startPour c.val opPatternLoad (fun _ k => stackNeed (fieldOf k.pay 0 48)) fun _ k s => s.loadPattern c.val k)

/-- The pattern of a handle, if it is loaded on the channel. -/
def State.patternOn (s : State) (c h : Nat) : Option Pattern := (s.pattern h).filter fun p => p.chan = c

/-- PATTERN_UNLOAD (R193). -/
def execPatternUnload (c : Fin 64) (s : State) : PourOut :=
  .next (s.startPour c.val opPatternUnload noNeeds fun _ k s =>
    s.fix c.val (if (s.patternOn c.val k.handle).isSome then completed stOk 0 (.unload k.handle) else refusedAt stMalformed 0))

/-- The step counter of a handle. -/
def State.stepOf (s : State) (h : Nat) : Word64 := ((s.patternSlot h).map (·.t)).getD 0

/-- SET_STEP_SIZE (R175, R225). -/
def execSetStepSize (c : Fin 64) (s : State) : PourOut :=
  .next (s.startPour c.val opSetStepSize noNeeds fun _ k s =>
    let v := fieldOf k.pay 0 32
    let t := (s.stepOf k.handle).toNat
    s.fix c.val (
      if (s.patternOn c.val k.handle).isNone then refusedAt stMalformed 0
      else if stepSizeOk v then completed stOk t (.stepSize k.handle (BitVec.ofNat 32 v))
      else refusedAt stFormat t))

/-! ### Memory (R18, R186) -/

/-- A buffer of a loaded pattern, as host commands meet it: kind, both copies, length, whether it is a save buffer, and the
copy in force. -/
structure HostBuf where
  base  : Nat
  copy1 : Nat
  len   : Nat
  save  : Bool
  cur   : Nat

/-- The STATE buffers of every loaded pattern. -/
def State.stateBufs (s : State) : List HostBuf :=
  s.loaded.flatMap fun e =>
    let map := s.currentMap e.1
    (e.2.bufs.mapIdx fun i b => (i, b)).filterMap fun ib =>
      if ib.2.kind = 3 then
        some ⟨ib.2.base, ib.2.copy1, ib.2.length, decide (e.2.saveBuffer = some ib.1), if map.getLsbD ib.1 then ib.2.copy1 else ib.2.base⟩
      else none

/-- Where a host command's range lies in HBM: itself, or the current copy of a STATE buffer; none where it is refused. -/
def State.hostTarget (s : State) (a n : Nat) : Option Nat :=
  let l := a % 2 ^ 45
  if a / 2 ^ 45 ≠ s.slot ∨ !usableRange l n then none
  else
    let bs := s.stateBufs
    if bs.any fun b => rangesMeet (b.copy1, b.len) (l, n) || (b.save && rangesMeet (b.base, b.len) (l, n)) then none
    else
      match bs.find? fun b => rangesMeet (b.base, b.len) (l, n) with
      | none => some l
      | some b => if b.base ≤ l ∧ l + n ≤ b.base + b.len then some (b.cur + (l - b.base)) else none

/-- COPY_IN (R226): the transfer's host reads go out; the data arrive by completions. -/
def execCopyIn (c : Fin 64) (s : State) : PourOut :=
  .next (s.startPour c.val opCopyIn (fun _ k => stackNeed k.devRange.1) fun _ k s =>
    match s.hostTarget k.devRange.1 k.devRange.2 with
    | none => s.fix c.val (refusedAt stHbmExceeded 0)
    | some _ => (s.updRunning c.val fun r => { r with transfer := some ⟨0, k.devRange.2, []⟩ }).askHost c.val)

/-- FILL (R226). -/
def execFill (c : Fin 64) (s : State) : PourOut :=
  .next (s.startPour c.val opFill (fun _ k => stackNeed k.devRange.1) fun _ k s =>
    let n := k.devRange.2
    match s.hostTarget k.devRange.1 n with
    | none => s.fix c.val (refusedAt stHbmExceeded 0)
    | some a =>
      let v := leBytes 32 (fieldOf k.pay 128 256)
      (s.writeMem none true a ((List.replicate (n / 32) v).flatten)).fix c.val (completed stOk n .nothing))

/-- The transfer of a COPY_OUT (R226, R227): in ascending order, up to the first codeword that fails. -/
def State.copyOut (s : State) (c : Nat) (k : Packet) : State :=
  let p := (s.chan c).owner
  let n := k.devRange.2
  let host := BitVec.ofNat 64 (fieldOf k.pay 0 64)
  match s.hostTarget k.devRange.1 n with
  | none => s.fix c (refusedAt stHbmExceeded 0)
  | some a =>
    if !(s.port p).mayWrite then s.updRunning c fun r => { r with transfer := some ⟨0, n, []⟩ }
    else
      let pour := some (c, BitVec.ofNat 64 k.pour)
      match (s.wake a).readUpTo pour a n with
      | (none, r, s) => (s.hostWrite p host r.data).fix c (completed stOk n .nothing)
      | (some (st, cw), r, s) =>
        let good := 32 * (cw - a / 32)
        let s := if good = 0 then s else s.hostWrite p host (r.data.take good)
        let s :=
          if st = stPoisonConsumed then
            { s with err := { s.err with poisonConsumed := s.err.poisonConsumed.add 1 } }.logStatus stPoisonConsumed unitHbm
              (a / 2 ^ 37) (s.boardAddr (32 * cw)) false pour
          else s
        s.fix c (faultedWith st)

/-- COPY_OUT. One that waits for its port goes on from the first byte. -/
def execCopyOut (c : Fin 64) (s : State) : PourOut :=
  match s.runningOf c.val with
  | some r =>
    .next (if r.body.opcode = opCopyOut ∧ r.outcome.isNone ∧ r.transfer.isSome then s.copyOut c.val r.body else s)
  | none =>
    .next (s.startPour c.val opCopyOut (fun _ k => stackNeed k.devRange.1) fun _ k s => s.copyOut c.val k)

/-! ### Firmware (R234, R353, R354) -/

/-- The code a rejected slot's reply carries. -/
def rejectCode (reason : Nat) : BitVec 16 := if reason = 5 then stRollback else stSignature

/-- The slot that FIRMWARE_STAGE writes and FIRMWARE_ACTIVATE activates: the one not last confirmed. -/
def State.stagedSlot (s : State) : Bool := !s.ledger.bootActive

/-- A slot verified by Table 18-3; a rejection is noted, and logged. -/
def State.verifySlot (s : State) (c pour : Nat) : Option Nat × State :=
  let slot := s.stagedSlot
  match s.slotReject slot with
  | none => (none, s)
  | some r =>
    let s := { s with assay :=
      if slot then { s.assay with reasonB := BitVec.ofNat 4 r } else { s.assay with reasonA := BitVec.ofNat 4 r } }
    (some r, s.logStatus (rejectCode r) unitAssay 0 0 false (some (c, BitVec.ofNat 64 pour)))

/-- DETAIL of a firmware pour: the slot, and the image's version where it was verified. -/
def State.firmwareDetail (s : State) (verified : Bool) : Nat :=
  (if s.stagedSlot then 1 else 0) + (if verified then (s.slotImage s.stagedSlot).version.toNat * 2 ^ 32 else 0)

/-- FIRMWARE_STAGE: a write of the slot clears PENDING; the bytes arrive by completions. -/
def execFirmwareStage (c : Fin 64) (s : State) : PourOut :=
  .next (s.startPour c.val opFirmwareStage noNeeds fun _ k s =>
    ((s.updLedger .bootRecord fun l => { l with bootPending := false }).updRunning c.val fun r =>
      { r with transfer := some ⟨0, fieldOf k.pay 96 32, []⟩ }).askHost c.val)

/-- FIRMWARE_ACTIVATE. It waits while the flash is released to the board (R429). -/
def execFirmwareActivate (c : Fin 64) (s : State) : PourOut :=
  if s.pins.qspiHold then .next s
  else .next (s.startPour c.val opFirmwareActivate noNeeds fun _ k s =>
    match s.verifySlot c.val k.pour with
    | (none, s) => ((s.service 2).updLedger .bootRecord fun l => { l with bootPending := true }).fix c.val
        (completed stOk (s.firmwareDetail true) .nothing)
    | (some r, s) => (s.service 2).fix c.val (refusedAt (rejectCode r) (s.firmwareDetail true)))

/-! ### Host completions (R220, R227) -/

/-- A transfer with more bytes come: those of a COPY_IN that do not fill a codeword are kept, and those of a FIRMWARE_STAGE while the flash
is released to the board (R429). -/
def Transfer.take (t : Transfer) (k : Packet) (hold : Bool) (bs : List Byte) : Transfer :=
  let all := t.rest ++ bs
  { t with
    done := t.done + bs.length
    rest := if k.opcode = opFirmwareStage then (if hold then all else []) else all.drop (all.length / 32 * 32) }

/-- Staged bytes written to the flash, those that have waited first. -/
def State.stageBytes (s : State) (k : Packet) (t : Transfer) (bs : List Byte) : State :=
  s.flashWrite (slotBase s.stagedSlot + fieldOf k.pay 64 32 + (t.done - t.rest.length)) (t.rest ++ bs)

/-- A transfer's bytes put where they belong: a COPY_IN writes each codeword whole, in one access (R382), and a FIRMWARE_STAGE the flash,
unless it is released to the board (R429). -/
def State.takeBytes (s : State) (k : Packet) (t : Transfer) (bs : List Byte) : State :=
  if k.opcode = opFirmwareStage then (if s.pins.qspiHold then s else s.stageBytes k t bs)
  else
    match s.hostTarget k.devRange.1 k.devRange.2 with
    | none => s
    | some a =>
      let all := t.rest ++ bs
      let a := a + (t.done - t.rest.length)
      (s.wake a).writeMem none true a (all.take (all.length / 32 * 32))

/-- A transfer whose last byte has arrived. -/
def State.endTransfer (s : State) (c : Nat) (k : Packet) (total : Nat) : State :=
  if k.opcode = opFirmwareStage then
    if fieldOf k.pay 128 1 = 1 then
      match s.verifySlot c k.pour with
      | (none, s) => s.fix c (completed stOk (s.firmwareDetail true) .nothing)
      | (some r, s) => s.fix c (refusedAt (rejectCode r) (s.firmwareDetail true))
    else s.fix c (completed stOk (s.firmwareDetail false) .nothing)
  else s.fix c (completed stOk total .nothing)

/-- A transfer of host reads waits for data on a port. -/
def State.awaitsData (s : State) (port : HostPort) (c : Nat) : Option (Running × Transfer) :=
  match s.runningOf c with
  | none => none
  | some r =>
    match r.transfer with
    | none => none
    | some t =>
      if r.outcome.isNone ∧ t.done < t.total ∧ (s.chan c).owner = port ∧ (s.port port).mayWrite ∧ s.boot.phase = .ready
          ∧ (r.body.opcode = opCopyIn ∨ r.body.opcode = opFirmwareStage) then some (r, t)
      else none

/-- A completion's data taken. A FIRMWARE_STAGE whose last byte waits for the flash goes on when the flash is back (R429). -/
def State.takeData (s : State) (port : HostPort) (c : Nat) (r : Running) (t : Transfer) (data : List Byte) : State :=
  let bs := data.take (t.total - t.done)
  let hold := r.body.opcode = opFirmwareStage ∧ s.pins.qspiHold
  let s := ((s.takeBytes r.body t bs).count (ctrHost port.toNat 5) bs.length).hostTlp port false bs.length
  let s := s.updRunning c fun r => { r with transfer := some (t.take r.body s.pins.qspiHold bs) }
  if t.done + bs.length = t.total ∧ ¬hold then s.endTransfer c r.body t.total else s

/-- A poisoned completion as AER notes it: bit 12 of its Uncorrectable Error Status (PRESUMED, log entry 85). -/
def State.notePoisoned (s : State) (port : HostPort) : State := s.updPort port fun h => { h with aerUncor := h.aerUncor ||| 0x1000 }

/-- A read that failed: a COPY_IN faults (R227); a FIRMWARE_STAGE, whose final reply has no status for it (R236), asks again (DESIGN CHOICE,
log entry 83). -/
def State.failedRead (s : State) (c : Nat) (r : Running) : State :=
  if r.body.opcode = opFirmwareStage then s.askHost c
  else (s.logStatus stUncorrectable unitIntake 0 0 false (some (c, BitVec.ofNat 64 r.body.pour))).fix c (faultedWith stUncorrectable)

/-- HOST_DMA_COMPLETION. -/
def execHostDmaCompletion (port : HostPort) (c : Fin 64) (data : List Byte) (err : TlpStatus) (s : State) : PourOut :=
  match s.awaitsData port c.val with
  | none => .next s
  | some (r, t) =>
    .next (if !s.hostReach port then s.notReached port
    else
      match err with
      | .good => s.takeData port c.val r t data
      | .error => s.failedRead c.val r
      | .poisoned => (s.notePoisoned port).failedRead c.val r)

/-- A FIRMWARE_STAGE whose bytes have waited for the flash writes them (R429). -/
def State.resumeStage (s : State) (c : Nat) : State :=
  match s.runningOf c with
  | none => s
  | some r =>
    match r.transfer with
    | none => s
    | some t =>
      if r.outcome.isNone ∧ r.body.opcode = opFirmwareStage ∧ t.rest ≠ [] then
        let s := (s.stageBytes r.body t []).updRunning c fun r => { r with transfer := some { t with rest := [] } }
        if t.done = t.total then s.endTransfer c r.body t.total else s
      else s

/-! ### Information -/

/-- The device result (Table 12-7). -/
def State.deviceBlock (s : State) : List Byte :=
  let loaded := ((s.loaded.map fun e => 2 ^ (e.1 - 1))).foldl (· + ·) 0
  leBytes 128 (identPart + identStepping * 2 ^ 32 + s.ident.chipId.toNat * 2 ^ 64 + s.assay.image.version.toNat * 2 ^ 96
    + s.flaskId.toNat * 2 ^ 128 + s.rank * 2 ^ 160 + s.flaskN * 2 ^ 192 + loaded * 2 ^ 224
    + s.err.health.health % 1024 * 2 ^ 240 + s.portsAdmitted * 2 ^ 256)

/-- The pattern result (Table 12-8). -/
def State.patternBlock (s : State) (h : Nat) (p : Pattern) : List Byte :=
  let map := s.currentMap h
  let state := (p.bufs.mapIdx fun i b => (i, b)).filter fun e => e.2.kind = 3
  let cur := (state.map fun e => if map.getLsbD e.1 then 2 ^ e.1 else 0).foldl (· + ·) 0
  let sl := s.patternSlot h
  fitBytes 48 p.digest ++ leBytes 8 (s.stepOf h).toNat ++ leBytes 4 (if (sl.map (·.pending)).getD false then 1 else 0)
    ++ leBytes 4 (if (sl.map (·.pending)).getD false then ((sl.map fun x => x.pendingSs.toNat).getD 0) else 0)
    ++ leBytes 2 p.bufs.length ++ List.replicate 62 0 ++ leBytes 512 cur

/-- QUERY with SELECT 0. -/
def execQueryDevice (c : Fin 64) (s : State) : PourOut :=
  .next (s.resumeOr c.val opQuery (s.startPour c.val opQuery noNeeds fun _ k t =>
    if fieldOf k.pay 64 8 = 0 then
      t.answerWith c.val (BitVec.ofNat 64 (fieldOf k.pay 0 64)) t.deviceBlock (completed stOk 128 .nothing)
    else s))

/-- QUERY with SELECT 1. -/
def execQueryPattern (c : Fin 64) (s : State) : PourOut :=
  .next (s.resumeOr c.val opQuery (s.startPour c.val opQuery noNeeds fun _ k t =>
    if fieldOf k.pay 64 8 = 1 then
      match t.patternOn c.val k.handle with
      | none => t.fix c.val (refusedAt stMalformed 0)
      | some p => t.answerWith c.val (BitVec.ofNat 64 (fieldOf k.pay 0 64)) (t.patternBlock k.handle p) (completed stOk 640 .nothing)
    else s))

/-- ENERGY_READ (R347). -/
def execEnergyRead (c : Fin 64) (s : State) : PourOut :=
  .next (s.startPour c.val opEnergyRead noNeeds fun _ _ s => s.fix c.val ⟨stOk, (s.chan c.val).energy, true, .nothing⟩)

/-- Evidence padded to whole 64-byte writes (R361). -/
def padded (bs : List Byte) : List Byte := fitBytes ((bs.length + 63) / 64 * 64) bs

/-- ATTEST with KIND 0. -/
def execAttestDeviceEvidence (c : Fin 64) (s : State) : PourOut :=
  .next (s.resumeOr c.val opAttest (s.startPour c.val opAttest noNeeds fun _ k t =>
    if fieldOf k.pay 64 8 = 0 then
      let (bs, t) := t.attestDevice ((k.payload.drop 16).take 48)
      t.answerWith c.val (BitVec.ofNat 64 (fieldOf k.pay 0 64)) (padded bs) (completed stOk bs.length .nothing)
    else s))

/-- ATTEST with KIND 1. -/
def execAttestReceipt (c : Fin 64) (s : State) : PourOut :=
  .next (s.resumeOr c.val opAttest (s.startPour c.val opAttest noNeeds fun _ k t =>
    if fieldOf k.pay 64 8 = 1 then
      match (t.patternOn c.val k.handle).bind fun _ => t.receiptOf c.val k.handle with
      | none => t.fix c.val (refusedAt stMalformed 0)
      | some r =>
        let (bs, t) := t.attestReceiptOf r ((k.payload.drop 16).take 48)
        t.answerWith c.val (BitVec.ofNat 64 (fieldOf k.pay 0 64)) (padded bs) (completed stOk bs.length .nothing)
    else s))

/-- FINAL_REPLY (R213): the next reply that waits is written if the ring and the port take it. -/
def execFinalReply (c : Fin 64) (s : State) : PourOut := .next (if s.boot.phase = .ready then s.pumpReply c.val else s)

end Sys2Proof.Machine
end

