-- ==== Sys2Proof/Machine/Relay.lean ====
section
/-! DEFINITION. Frames that the chip relays for its flask (R274, R287). -/

namespace Sys2Proof.Machine

/-- A RUN of a pattern of the chip's flask runs. -/
def State.mayRelay (s : State) : Bool := s.run.isSome && s.runner.flask.isSome

/-- A frame for another rank leaves by the chip's own routes; without a route, or back where it came from, the pour faults. -/
def State.relayOut (s : State) (p : Nat) (f : Frame) : State :=
  match s.runPattern with
  | none => s
  | some pat =>
    match s.routePort pat (frameDest f) f.type.toNat (frameIndex f) with
    | none => s.stopAttempt stTopology false
    | some q =>
      if q = p then s.stopAttempt stTopology false
      else s.xmit q (rawFrame f.type.toNat f.count f.stream.toNat f.arg f.payload f.poison)

/-- A frame for another rank that has arrived on a port: relayed, or kept until a RUN runs. -/
def State.relay (s : State) (p : Nat) (f : Frame) : State :=
  if s.mayRelay then s.relayOut p f else s.updRport p fun o => { o with relays := o.relays ++ [f] }

/-- The frames a port keeps to be relayed, relayed. -/
def State.releasePort (s : State) (p : Nat) : State :=
  let fs := (s.rport p).relays
  fs.foldl (fun (t : State) f => t.relayOut p f) (s.updRport p fun o => { o with relays := [] })

/-- Every frame that waits to be relayed, relayed once a RUN runs. -/
def State.releaseRelays (s : State) : State :=
  if s.mayRelay then (List.range 32).foldl State.releasePort s else s

end Sys2Proof.Machine
end

