-- ==== Sys2Proof/Machine/Runs.lean ====
section
/-! DEFINITION. RUN: its checks (R223), the set-up of a cluster (R75, R81, R86, R97, R116, R131, R134, R181, R224), the end
vote (R250, R302), replay (R248), and the commit of a RUN (R130, R185, R225, R246). -/

namespace Sys2Proof.Machine

/-! ### The set-up of a cluster -/

/-- Bytes of a used cluster's kept tiles, and of its part of a save buffer (R132). -/
def Pattern.keptBytes (p : Pattern) (g : Nat) : Nat := 65536 * (p.resOf g).nK
def Pattern.savePart (p : Pattern) (g : Nat) : Nat := p.keptBytes g + 32

/-- Where a cluster's part lies in the save buffer. -/
def Pattern.saveOffset (p : Pattern) (g : Nat) : Nat :=
  ((p.usedList.filter fun h => h < g).map p.savePart).foldl (· + ·) 0

/-- The pattern keeps tiles. -/
def Pattern.keeps (p : Pattern) : Bool := p.saveBuffer.isSome

/-- Kept tiles of a cluster: their words, their saturation flags, and whether the flags' record was poisoned. -/
structure Tiles where
  words  : Mem
  flags  : BitVec 64
  poison : Bool

/-- Kept tiles and their flags read from the current copy of the save buffer, in phase 63 (R131 to R133). A restore is a
carrier: a poisoned codeword comes back poisoned (R380). Of a poisoned flag record the flags are its bits as read, and the record is
saved poisoned again (DESIGN CHOICE, log entry 82). -/
def State.restoreTiles (s : State) (p : Pattern) (map : BitVec 4096) (g : Nat) : State × Tiles :=
  let n := p.keptBytes g
  let a := (p.copyBase map (p.saveBuffer.getD 0)).1 + p.saveOffset g
  let (r, s) := s.readMem s.runPour true a n
  let (f, s) := s.readMem s.runPour true (a + n) 32
  (s.noteAll s.runPour (r.poisoned.map fun _ => .poisonWritten),
    ⟨r.poisoned.foldl (fun m c => m.setChk (c - a / 32) poisonMark) (Mem.zeros.lay 0 r.data),
      BitVec.ofNat 64 (leNat (f.data.take 8)), !f.poisoned.isEmpty⟩)

/-- A Crucible as a pour starts: kept tiles as they are, or as the save buffer's current copy has them, and every other tile
clear (R116, R131). -/
def State.startTiles (s : State) (p : Pattern) (map : BitVec 4096) (restore : Bool) (g : Nat) : State × Tiles :=
  let n := p.keptBytes g
  let flags := BitVec.ofNat 64 (2 ^ (p.resOf g).nK - 1)
  if restore then
    let (s, t) := s.restoreTiles p map g
    (s, { t with flags := t.flags &&& flags })
  else
    let c := s.cl g
    (s, ⟨⟨cellsIn c.crucible.bytes 0 n, cellsIn c.crucible.chk 0 (n / 32)⟩, c.satFlags &&& flags, c.flagPoison⟩)

/-- The register values of R224. -/
def startRegs (t : Word64) (eta : Word32) (rank n g : Nat) (args : List Word64) : Tab Word64 :=
  let vs := [t, eta.setWidth 64, BitVec.ofNat 64 rank, BitVec.ofNat 64 n, BitVec.ofNat 64 g] ++ args
  (vs.mapIdx fun i v => (i + 1, v)).foldl (fun r e => Tab.put 0 r e.1 e.2) []

/-- CLS_FAULT as a pour starts: STATUS and VALID cleared (R93, Table 4-12). -/
def ClsFault.cleared (f : ClsFault) : ClsFault := { f with valid := false, status := 0 }

/-- A used cluster as an attempt starts. -/
def State.setupCluster (s : State) (p : Pattern) (map : BitVec 4096) (restore : Bool) (regs : Nat → Tab Word64) (g : Nat) : State :=
  let (s, tiles) := if p.keeps then s.startTiles p map restore g else (s, ⟨Mem.zeros, 0, false⟩)
  let code := Tab.get [] p.code g
  { s.updCl g fun c => { Cluster.init with
      run := .running
      pc := BitVec.ofNat 19 (p.resOf g).entryPc
      regs := regs g
      dmem := p.scalarImage g
      imem := Mem.zeros.lay 0 code
      codeLen := code.length
      tokens := Tab.get 0 p.tokens g
      crucible := tiles.words
      satFlags := tiles.flags
      flagPoison := tiles.poison
      fault := c.fault.cleared
      gate := c.gate } with
    mem := s.mem.clear (windowBase + windowSize * g) windowUsable }

/-- Every cluster as an attempt starts; those the pattern does not use show so (Table 4-8), and their registers too take what
they are cleared to at pour start (R93). -/
def State.setupClusters (s : State) (p : Pattern) (map : BitVec 4096) (restore : Bool) (regs : Nat → Tab Word64) : State :=
  (List.range 128).foldl (fun s g =>
    if p.used.getLsbD g then s.setupCluster p map restore regs g
    else s.updCl g fun c => { c with
      run := .ended, unused := true, pc := 0, fault := c.fault.cleared, flights := [], stall := none, lending := Lending.none }) s

/-! ### Starting an attempt of a RUN -/

/-- η of R174: the packet's, the pending one, or the table's entry. -/
def State.resolveStep (s : State) (k : Packet) (p : Pattern) : Option Nat :=
  let sl := s.patternSlot k.handle
  if fieldOf k.pay 32 1 = 1 then some (fieldOf k.pay 0 32)
  else if (sl.map (·.pending)).getD false then sl.map fun x => x.pendingSs.toNat
  else if p.steps.isEmpty then none
  else (p.steps[min (s.stepOf k.handle).toNat (p.steps.length - 1)]?).map (·.toNat)

/-- The receipt buffers a RUN names. -/
def Packet.receipts (k : Packet) : List Nat := (List.range (fieldOf k.pay 40 4)).map fun i => fieldOf k.pay (768 + 16 * i) 16

/-- A buffer a receipt may name. -/
def Pattern.receiptOk (p : Pattern) (b : Nat) : Bool :=
  match p.bufs[b]? with
  | some e => e.kind = 1 || e.kind = 3
  | none => false

/-- Checks 2 to 6 of R223. -/
def State.runRefusal (s : State) (k : Packet) (p : Pattern) : Option (BitVec 16) :=
  firstFail
    [ orElse (!k.restartable || p.bufs.all fun b => b.kind != 4) stVersioning
    , orElse (topologyFits s p) stTopology
    , orElse (p.usedList.all s.mapped) stClusterMemory
    , match s.resolveStep k p with
      | none => some stMalformed
      | some v => orElse (stepSizeOk v) stFormat
    , orElse (k.receipts.all p.receiptOk) stMalformed ]

/-- The counters of the collective table set to zero (R398). -/
def State.clearColl (s : State) : State :=
  { s with cnt := { s.cnt with regs := { s.cnt.regs with
      ctr := s.cnt.regs.ctr.filter fun e => !(0x20000 ≤ e.1 && e.1 < 0x30000) } } }

/-- An attempt of a RUN set going: every cluster set up, and the attempt's own records empty. -/
def State.startAttempt (s : State) (r : RunCtx) (p : Pattern) (k : Packet) : State :=
  let s := s.linesDone.freshSamples
  let map := s.currentMap r.handle
  let restore := match s.kept with
    | some c => !(c.chan = r.chan && c.handle = r.handle && c.clean)
    | none => true
  let args := (List.range 10).map fun i => BitVec.ofNat 64 (fieldOf k.pay (128 + 64 * i) 64)
  let s := { s with run := some r }.setupClusters p map restore fun g => startRegs r.t r.eta s.rank s.flaskN g args
  let s := p.usedList.foldl (fun (s : State) g => s.updSampler g fun sm =>
    { sm with base := s.cnt.regs.time, seen := 0, marked := [], owed := [] }) s
  { s.clearColl with
    kept := if p.keeps then some ⟨r.chan, r.handle, false⟩ else none
    run := some { r with
      written := 0
      updated := false
      fault := none
      stopAt := none
      votes := []
      votedUp := false
      verdict := none
      binding := []
      instances := []
      colls := []
      nextTag := 0 }
    runner := { s.runner with
      held := s.runner.held.filter fun h => decide (h.tag.toNat / 2 ^ 15 = r.attempt) } }.releaseRelays

/-- A RUN of a pattern with N > 1 counts in RUN_SEQ at its first attempt, once (R302). -/
def Runner.countRun (r : Runner) (c : Nat) (pour : Word64) : Runner :=
  if r.counted = some (c, pour) then r
  else { r with runSeq := r.runSeq + 1, isle0 := r.runSeq + 1, isle1 := r.runSeq + 1, counted := some (c, pour) }

/-- A vote with another RUN_SEQ faults the RUN (R302); this outranks a fault that would be replayed. -/
def RunCtx.mismatch (r : RunCtx) : RunCtx :=
  match r.fault with
  | some (_, false) => r
  | _ => { r with fault := some (stTopology, false) }

/-- The running RUN faulted at once by a vote with another RUN_SEQ. -/
def State.mismatched (s : State) : State :=
  let s := s.stopAttempt stTopology false
  { s with run := s.run.map RunCtx.mismatch }

/-- A RUN that passed its checks starts its first attempt; with N > 1 it counts in RUN_SEQ, and a vote that came before it with another
RUN_SEQ faults it (R302). -/
def State.firstAttempt (s : State) (c i : Nat) (k : Packet) (p : Pattern) : State :=
  let s := if 1 < p.ranks then { s with runner := s.runner.countRun c (s.entry i).pour } else s
  let eta := BitVec.ofNat 32 ((s.resolveStep k p).getD 0)
  let s := s.startAttempt ⟨c, i, k.handle, s.stepOf k.handle, eta, k.receipts, (s.entry i).attempts % 2, s.runner.runSeq, 0, false,
    none, none, [], false, none, [], [], [], 0⟩ p k
  if 1 < p.ranks ∧ s.runner.votes.any (fun h => h.1 && h.2.2.1 != s.runner.runSeq) then s.mismatched else s

/-- The domains a RUN needs: the groups of its clusters and every stack (Table 17-2). -/
def runNeeds (s : State) (k : Packet) : List Nat :=
  match s.pattern k.handle with
  | none => []
  | some p => (p.usedList.filterMap s.domainOf) ++ allStacks

/-- R413: no port that the pattern uses is still training or waits for a spare. -/
def State.portsSettled (s : State) (p : Pattern) : Bool :=
  ((p.topo.mapIdx fun i t => (i, t)).filter fun e => e.2.used).all fun e =>
    (s.serving e.1).isSome
      || (!s.runner.awaiting.contains e.1
          && s.runner.ports.all fun o => !(o.state = .training && o.standsFor.toNat = e.1))

/-- Nothing of R10 is in progress on a die: no spare under BIST, and no fault that waits. -/
def State.dieSettled (s : State) (die : Bool) : Bool :=
  (s.ident.bist die).isNone && s.ident.waiting.all fun w => onB1 w.g != die

/-- A RUN may start or start again: nothing of R10 is in progress on a die it uses, and the ports have settled. -/
def State.runClear (s : State) (h : Nat) : Bool :=
  match s.pattern h with
  | some p => (p.usedList.all fun g => s.dieSettled (onB1 g)) && s.portsSettled p
  | none => true

/-- RUN at its start (R223). -/
def State.startRun (s : State) (c i : Nat) (k : Packet) : State :=
  match s.patternOn c k.handle with
  | none => s.fix c (refusedAt stMalformed 0)
  | some p =>
    match s.runRefusal k p with
    | some st => s.fix c (refusedAt st (s.stepOf k.handle).toNat)
    | none => s.firstAttempt c i k p

/-! ### How an attempt ends (R248, R250, R302) -/

/-- Every cluster of the attempt has ended its part. -/
def State.allEnded (s : State) (p : Pattern) : Bool := p.usedList.all fun g => (s.cl g).run = .ended

/-- What the end of an attempt comes to. -/
inductive RunEnd where
  | going
  | commit
  | replay
  | faulted (status : BitVec 16)
deriving DecidableEq, Repr

/-- The end of an attempt on a chip: with N = 1 its own, else the flask's vote. -/
def RunCtx.ending (r : RunCtx) (n : Nat) (ended restartable : Bool) : RunEnd :=
  if n ≤ 1 then
    match r.fault with
    | none => if ended then .commit else .going
    | some (_, true) => .replay
    | some (st, false) => .faulted st
  else
    match r.verdict with
    | none => .going
    | some v => if v.cls = 2 then .commit else if v.cls = 1 && restartable then .replay else .faulted v.status

/-- The end of the running attempt. -/
def State.runEnding (s : State) : RunEnd :=
  match s.run, s.runPattern with
  | some r, some p => r.ending p.ranks (s.allEnded p) (s.entry r.entry).restartable
  | _, _ => .going

/-- This rank's own outcome (R302). -/
def RunCtx.ownVote (r : RunCtx) (rank : Nat) : Vote :=
  match r.fault with
  | none => ⟨2, rank, stOk⟩
  | some (st, replay) => ⟨if replay then 1 else 0, rank, st⟩

/-- The outcome with the lesser key (CLASS, ORIGIN). -/
def Vote.least (a b : Vote) : Vote :=
  if b.cls < a.cls ∨ (b.cls = a.cls ∧ b.origin < a.origin) then b else a

/-- Codeword 1 of a vote. -/
def voteWord (v : Vote) (seq : Word32) : Nat := seq.toNat + v.status.toNat * 2 ^ 32 + v.cls * 2 ^ 48 + v.origin * 2 ^ 50

/-- A vote frame sent to a rank: KIND 2 up, 3 down. -/
def State.sendVote (s : State) (p : Pattern) (dest kind : Nat) (v : Vote) (seq : Word32) : State :=
  match s.routePort p dest 5 0 with
  | some q => s.xmit q (rawFrame 5 1 0 (controlArg 0 s.rank dest kind) (leBytes 32 (voteWord v seq)) [])
  | none => s

/-- The children of a rank in the vote's tree. -/
def voteChildren (rank n : Nat) : List Nat := [2 * rank + 1, 2 * rank + 2].filter (· < n)

/-- The verdict taken and passed on to the children. -/
def State.takeVerdict (s : State) (p : Pattern) (r : RunCtx) (v : Vote) : State :=
  let s := { s with run := some { r with verdict := some v, votedUp := true } }
  (voteChildren s.rank p.ranks).foldl (fun s d => s.sendVote p d 3 v r.runSeq) s

/-- A child's vote noted; a later one replaces it. -/
def RunCtx.noteVote (r : RunCtx) (child : Nat) (v : Vote) : RunCtx :=
  { r with votes := (r.votes.filter fun x => x.1 ≠ child) ++ [(child, v)] }

/-- Votes held for the attempt that has come to its end, taken. One with another RUN_SEQ faults the RUN, and the rank waits for that
child no longer (DESIGN CHOICE, log entry 77). -/
def RunCtx.takeHeld (held : List (Bool × Nat × Word32 × Vote)) (r : RunCtx) : RunCtx :=
  (held.filter (·.1)).foldl (fun r h =>
    if h.2.2.1 = r.runSeq then r.noteVote h.2.1 h.2.2.2 else r.mismatch.noteVote h.2.1 ⟨0, h.2.1, stTopology⟩) r

/-- The ranks next to a rank in the vote's tree: its parent and its children. -/
def voteNeighbours (rank n : Nat) : List Nat := (if rank = 0 then [] else [(rank - 1) / 2]) ++ voteChildren rank n

/-- Every neighbour of the vote's tree can be reached now. -/
def State.voteReach (s : State) (p : Pattern) : Bool :=
  (voteNeighbours s.rank p.ranks).all fun d => (s.routePort p d 5 0).isSome

/-- This rank's part of the vote: once its children have voted, the least outcome goes to its parent, or, at rank 0, down
the tree. -/
def State.castVote (s : State) (p : Pattern) (r : RunCtx) : State :=
  let r := RunCtx.takeHeld s.runner.votes r
  let s := { s with run := some r, runner := { s.runner with votes := s.runner.votes.filter fun h => !h.1 } }
  if (voteChildren s.rank p.ranks).all fun d => r.votes.any fun x => x.1 = d then
    let v := (r.votes.map (·.2)).foldl Vote.least (r.ownVote s.rank)
    if s.rank = 0 then s.takeVerdict p r v
    else { s.sendVote p ((s.rank - 1) / 2) 2 v r.runSeq with run := some { r with votedUp := true } }
  else s

/-- PEER_LOST logged where the RUN ends faulted with it (R386): no one port's, so INDEX reads 0 (DESIGN CHOICE, log entry 46). -/
def State.logLost (s : State) : State := s.logStatus stPeerLost unitRunner 0 0 true s.runPour

/-- The step of the end vote that this rank can make now, its attempt having ended. While a neighbour cannot be reached, it
waits for the port (R413); once no port is to come, the RUN ends faulted with PEER_LOST (R250). -/
def State.voteStep (s : State) : State :=
  match s.run, s.runPattern with
  | some r, some p =>
    if p.ranks ≤ 1 ∨ r.verdict.isSome ∨ !(r.fault.isSome || s.allEnded p) then s
    else if s.voteReach p then (if r.votedUp then s else s.castVote p r)
    else if s.portsSettled p then
      let v : Vote := ⟨0, s.rank, stPeerLost⟩
      let s := if s.rank ≠ 0 ∧ !r.votedUp then s.sendVote p ((s.rank - 1) / 2) 2 v r.runSeq else s
      s.logLost.takeVerdict p r v
    else s
  | _, _ => s

/-- A vote read from its frame. -/
def parseVote (f : Frame) : Nat × Word32 × Vote :=
  let w := leNat (f.payload.take 32)
  (fieldOf f.arg.toNat 26 18, BitVec.ofNat 32 (fieldOf w 0 32), ⟨fieldOf w 48 2, fieldOf w 50 18, BitVec.ofNat 16 (fieldOf w 32 16)⟩)

/-- A vote of a RUN that is over: of the attempt whose outcome is known, when that is no replay, or of the RUN counted last, once it has
ended. It changes nothing (DESIGN CHOICE, log entry 77). -/
def State.staleVote (s : State) (seq : Word32) : Bool :=
  match s.run with
  | some r =>
    match r.verdict with
    | some v => v.cls != 1 && seq = r.runSeq
    | none => false
  | none => s.runner.counted.isNone && seq = s.runner.runSeq

/-- The running RUN of more than one rank still votes, and this RUN_SEQ is not its own. -/
def State.otherSeq (s : State) (seq : Word32) : Bool :=
  match s.run, s.runPattern with
  | some r, some p => decide (1 < p.ranks) && r.verdict.isNone && seq != r.runSeq
  | _, _ => false

/-- A VOTE_UP that has arrived: one with another RUN_SEQ faults the RUN at once (R302). It is held until this rank's attempt has come to
its end. -/
def State.takeVoteUp (s : State) (f : Frame) : State :=
  let v := parseVote f
  if s.staleVote v.2.1 then s
  else
    let s := if s.otherSeq v.2.1 then s.mismatched else s
    { s with runner := { s.runner with votes := s.runner.votes ++ [(true, v)] } }.voteStep

/-- A VOTE_DOWN that has arrived (R302). -/
def State.takeVoteDown (s : State) (f : Frame) : State :=
  let (_, seq, v) := parseVote f
  match s.run, s.runPattern with
  | some r, some p =>
    if 1 < p.ranks ∧ r.verdict.isNone then
      if seq = r.runSeq then s.takeVerdict p r v
      else s.takeVerdict p r ⟨0, s.rank, stTopology⟩
    else s
  | _, _ => s

/-- An event of Table 13-5 ends the running attempt (R248, R258). A Runner or cluster event counts in CHARGED; past its
limit, and for a RUN that is not restartable, the RUN ends faulted with the event's status. -/
def State.eventEnds (s : State) (status : BitVec 16) (charge : Bool) : State :=
  match s.run with
  | none => s
  | some r =>
    if r.fault.isSome then s
    else
      let e := s.entry r.entry
      if !e.restartable then
        (if charge then s.updEntry r.entry fun e => { e with charged := min 4 (e.charged + 1) } else s).stopAttempt status false
      else if charge then
        (s.updEntry r.entry fun e => { e with charged := min 4 (e.charged + 1) }).stopAttempt status (decide (e.charged < 3))
      else s.stopAttempt status true

/-! ### Replay and commit -/

/-- The status of a replay that finds a cluster it uses unmapped (R12): of the fault that retired its last position, which BIST
reports as UNCORRECTABLE_DATA where a warm boot found it (R10). -/
def RunCtx.unmappedStatus (r : RunCtx) : BitVec 16 :=
  match r.fault with
  | some (st, false) => st
  | _ => stUncorrectable

/-- A new attempt of the running RUN (R242, R248): from the same epoch state and the same body, which it reads again. One that no spare is
left for ends at once (R12), and the flask, which has voted a replay, votes again. -/
def State.replayRun (s : State) (c : Nat) (run : Running) (r : RunCtx) (p : Pattern) : State :=
  let s := s.updEntry run.entry fun e => { e with state := .running, attempts := min 7 (e.attempts + 1), replayed := true }
  let s := { s with riser := { s.riser with replays := s.riser.replays.add 1 } }
  let (s, body) := s.readBody run.entry
  let k := body.getD run.body
  let s := (s.setRunning c (some { run with body := k, outcome := none })).noteRan c run.entry
  let t := s.startAttempt { r with attempt := 1 - r.attempt } p k
  if body.isNone then t.stopAttempt stUncorrectable false
  else if p.usedList.all s.mapped then t
  else t.stopAttempt r.unmappedStatus false

/-- RUN: the channel's head pour starts, or the running attempt that is to be replayed starts again. -/
def execRun (c : Fin 64) (s : State) : PourOut :=
  match s.runningOf c.val with
  | some run =>
    let s := s.voteStep.handleFaults
    match s.run, s.runPattern with
    | some r, some p =>
      let ks := runNeeds s run.body
      if r.chan = c.val ∧ s.runEnding = .replay ∧ s.boot.phase = .ready ∧ !s.riser.lost ∧ s.runClear r.handle then
        let s := s.enableAll ks
        .next (if s.allOn ks then s.closeCycle.replayRun c.val run r p else s)
      else .next s
    | _, _ => .next s
  | none =>
    match s.headOf c.val with
    | none => .next s
    | some i =>
      let s := s.handleFaults
      .next (if s.runClear (s.bodyOf i).handle then s.startPour c.val opRun runNeeds fun i k s => s.startRun c.val i k else s)

/-- Bytes written by a save in phase 63, and the codewords of them that arrive poisoned (R133, R380). -/
def State.carryIn (s : State) (a : Nat) (bs : List Byte) (bad : List Nat) : State :=
  bad.foldl (fun s k =>
    let (m, ev) := s.mem.carryCw .chip (a / 32 + k) ((bs.drop (32 * k)).take 32) true
    { s with mem := m }.noteAll s.runPour ev) (s.writeMem s.runPour true a bs)

/-- Kept tiles written to the next copy of the save buffer (R130). A save is a carrier: it decodes what it reads, and a poisoned
codeword is saved poisoned (R376, R380). -/
def State.saveKept (s : State) (p : Pattern) (map : BitVec 4096) : State :=
  match p.saveBuffer with
  | none => s
  | some b =>
    let base := (p.copyBase (map ^^^ (1#4096 <<< b)) b).1
    p.usedList.foldl (fun s g =>
      let n := p.keptBytes g
      let a := base + p.saveOffset g
      let flags := (s.cl g).satFlags.toNat % 2 ^ (p.resOf g).nK
      let r := (s.cl g).crucible.readRange (.priv g) 0 n
      let s := (s.updCl g fun c => { c with crucible := r.mem }).noteAll s.runPour r.events
      (s.carryIn a r.data r.poisoned).carryIn (a + n) (leBytes 32 flags) (if (s.cl g).flagPoison then [0] else [])) s

/-- The clusters of a pour that has ended keep their floor for 1 ms (R338). -/
def State.markEnded (s : State) (p : Pattern) : State :=
  p.usedList.foldl (fun s g => s.updCl g fun c => { c with gate := { c.gate with ended := some s.cnt.regs.time.toNat } }) s

/-- The RUN counted in RUN_SEQ has ended. -/
def State.runOver (s : State) : State := { s with runner := { s.runner with counted := none } }

/-- The commit of a RUN: kept tiles saved, the map that is not in force written, receipts digested, then R246. -/
def State.commitRun (s : State) (c : Nat) (run : Running) (r : RunCtx) (p : Pattern) : State :=
  let h := r.handle
  let cur := s.currentMap h
  let s := s.saveKept p cur
  let save := match p.saveBuffer with
    | some b => 1#4096 <<< b
    | none => 0
  let map := cur ^^^ (r.written ||| save)
  let sel := !((s.patternSlot h).map (·.mapSel)).getD false
  let t := if r.updated then r.t + 1 else r.t
  let pour := (s.entry run.entry).pour
  let epoch := s.epochOf c + 1
  let s := s.updLedger (.map (2 * (h - 1) + (if sel then 1 else 0))) fun l =>
    { l with maps := Tab.put 0 l.maps (2 * (h - 1) + (if sel then 1 else 0)) map }
  let (bs, s) := if r.receipts.isEmpty then ([], s) else s.receiptBytes p map r.receipts
  let s := (s.endEntry c run.entry ⟨stOk, t, true, .run⟩ epoch).foldSlot c
  let s := s.putSlot c ⟨pour, t, epoch, 0, false, sel, false, BitVec.ofNat 5 h⟩
  let s := if r.receipts.isEmpty then s
    else (s.storeReceipt ⟨c, h, s.receiptRecord p c h pour t epoch r.receipts (sha384 bs)⟩).service 4
  let s := ((s.markEnded p).doneEntry c run.entry).runOver
  { s with run := none, kept := s.kept.map fun (k : KeptContext) => { k with clean := true } }

/-- A RUN that ends faulted: it changes no epoch state (R173, R185). -/
def State.faultRun (s : State) (c : Nat) (run : Running) (p : Pattern) (st : BitVec 16) : State :=
  { ((s.markEnded p).commitFixed c run (faultedWith st)).runOver with run := none }

/-- POUR_COMMIT (R246): a pour whose outcome is fixed commits; a RUN commits or ends faulted once its attempt has ended on
this chip and, with N > 1, the flask has voted. -/
def execPourCommit (c : Fin 64) (s : State) : PourOut :=
  if s.boot.phase ≠ .ready ∨ s.riser.lost then .next s
  else
    match s.runningOf c.val with
    | none => .next s
    | some run =>
      match run.outcome with
      | some o => .next (if run.body.opcode = opChannelClose then s else s.commitFixed c.val run o)
      | none =>
        let s := s.voteStep
        match s.run, s.runPattern with
        | some r, some p =>
          if r.chan = c.val then
            match s.runEnding with
            | .commit => .next (s.commitRun c.val run r p).pourOver
            | .faulted st => .next (s.closeCycle.faultRun c.val run p st).pourOver
            | _ => .next s
          else .next s
        | _, _ => .next s

end Sys2Proof.Machine
end

