-- ==== Sys2Proof/Machine/Ports.lean ====
section
/-! DEFINITION. Runner ports: laser outputs, training, identity, admission, the loss of a port and its spare, and the pours
FLASK_JOIN, FLASK_LEAVE and MARGIN_TEST (R230 to R233, R268 to R273, R279 to R281, R321, R326). -/

namespace Sys2Proof.Machine

abbrev PortOut := Host.Outcome State Fault Refusal

/-! ### The optics of a port -/

/-- The laser source of a port, as a mask of the four (R322). -/
def sourceBit (p : Nat) : BitVec 4 := 1#4 <<< (p / 8)

/-- Source output p switched over the laser bus; the write waits to be confirmed (R326, R327). -/
def State.setOut (s : State) (p : Nat) (on : Bool) : State :=
  if s.light.outEn.getLsbD p = on then s
  else
    { s with light := { s.light with
        outEn := if on then s.light.outEn ||| (1#32 <<< p) else s.light.outEn &&& ~~~(1#32 <<< p)
        writing := s.light.writing ||| sourceBit p
        enabling := if on then s.light.enabling ||| (1#32 <<< p) else s.light.enabling &&& ~~~(1#32 <<< p)
        disabling := if on then s.light.disabling else s.light.disabling ||| sourceBit p } }

/-- Optics that carry no lane. The detuning and heater settings, the eye-safety state, the coefficients and the sensors stay. -/
def PortLight.noLanes (o : PortLight) : PortLight :=
  { o with
    txLocked := 0
    rxLocked := 0
    txLanes := 0
    rxLanes := 0
    rxWant := 0
    rxAsked := none
    asks := 0
    agreed := 0
    lastRx := 0
    resweeps := []
    tagRuns := []
    history := []
    sweeping := 0
    lost := 0 }

/-- A port that goes dark: no light, no electronics (R268). -/
def State.goDark (s : State) (p : Nat) : State := ((s.darkPort p).setOut p false).updLight p PortLight.noLanes

/-- RUN_PORT_STATE.LANES: lanes in service in both directions. -/
def PortLight.lanes (o : PortLight) : BitVec 16 := o.txLanes &&& o.rxLanes

/-- A port that is out of every use of its light: dark, or failed and dark (R268, R271). -/
def PortState.isDark : PortState → Bool
  | .dark => true
  | .failed => true
  | _ => false

/-! ### Records sent in training frames (Tables 14-4 and 16-4) -/

/-- The identity record a port sends. -/
def State.ownRecord (s : State) (p : Nat) (status : BitVec 16) : IdRecord where
  flaskId := s.flaskId
  chipId := s.ident.chipId
  port := BitVec.ofNat 5 p
  standsFor := (s.rport p).standsFor
  minor := 0
  major := 1
  fwVersion := s.assay.image.version
  arithFp := s.assay.image.arithFp
  rank := BitVec.ofNat 18 s.rank
  verdict := (s.rport p).sentVerdict
  verdictStatus := status

/-- An identity record as a codeword. -/
def idBytes (r : IdRecord) : List Byte :=
  leBytes 32 (r.flaskId.toNat + r.chipId.toNat * 2 ^ 16 + r.port.toNat * 2 ^ 34 + r.standsFor.toNat * 2 ^ 39
    + r.minor.toNat * 2 ^ 48 + r.major.toNat * 2 ^ 56 + r.fwVersion.toNat * 2 ^ 64 + r.arithFp.toNat * 2 ^ 96
    + r.rank.toNat * 2 ^ 160 + r.verdict.toNat * 2 ^ 178 + r.verdictStatus.toNat * 2 ^ 180)

/-- A lane record as a codeword. -/
def laneBytes (r : LaneRecord) : List Byte :=
  leBytes 32 (r.change.toNat * 2 ^ 8 + r.txLanes.toNat * 2 ^ 16 + r.resweep.toNat * 2 ^ 32 + r.rxLanes.toNat * 2 ^ 48)

/-- A training frame sent over a set of lanes. It takes no SEQ and does not enter the replay buffer. -/
def State.emitTraining (s : State) (p : Nat) (lanes : BitVec 16) (words : List Byte) : State :=
  let f := s.stamp p (rawFrame 6 (words.length / 32) 0 0 words [])
  (s.putLine p lanes f).countTx p f

/-- The port's identity record sent with its verdict. -/
def State.sendIdentity (s : State) (p : Nat) (status : BitVec 16) : State :=
  s.emitTraining p (s.lport p).txLanes (idBytes (s.ownRecord p status))

/-! ### Training (R269) -/

/-- Training of a port for a logical port starts from stage 1, with its electronics and its laser output on. The code and the record
of the last training stay until this one gives others (Table 14-7). -/
def State.startTraining (s : State) (p lp : Nat) : State :=
  let s := (s.updSeq (portDomain p) Sequencer.enable).setOut p true
  (s.updRport p fun o => { o.darkened p with state := .training, standsFor := BitVec.ofNat 5 lp, stage := 1 }).updLight
    p PortLight.noLanes

/-- A running RUN that has found no spare ends faulted with PEER_LOST (R280, R281). -/
def State.endRunLost (s : State) : State :=
  match s.run with
  | none => s
  | some r =>
    match r.fault with
    | none => s.logLost.stopAttempt stPeerLost false
    | some (_, true) => if r.votedUp then s else { s.logLost with run := some { r with fault := some (stPeerLost, false) } }
    | some (_, false) => s

/-- A logical port that no spare is awaited for any longer. -/
def State.stopAwaiting (s : State) (lp : Nat) : State :=
  { s with runner := { s.runner with awaiting := s.runner.awaiting.filter fun x => x ≠ lp } }

/-- A spare that is free, in the order of R280 for the physical port p that went down. -/
def State.freeSpare (s : State) (p : Nat) : Option Nat :=
  (if p % 2 = 0 then [30, 31] else [31, 30]).find? fun q =>
    s.runner.spares.getLsbD (q - 30) && !s.runner.spareOut.getLsbD (q - 30) && (s.lport q).eye != .shut

/-- No spare is left for a logical port: the running RUN ends faulted with PEER_LOST (R281); but for a port whose training a warm boot has
begun, the RUN waits at its start, where R223 then applies (R413). -/
def State.noSpare (s : State) (lp : Nat) : State :=
  if s.runner.retrains.contains lp then
    { s with runner := { s.runner with retrains := s.runner.retrains.filter fun x => x ≠ lp } }
  else s.endRunLost

/-- A spare brought in for a logical port, where one is free (R280, R281). -/
def State.bringSpare (s : State) (p lp : Nat) : State :=
  let s := s.stopAwaiting lp
  match s.freeSpare p with
  | some q =>
    { s with runner := { s.runner with
        spares := s.runner.spares &&& ~~~(1#2 <<< (q - 30))
        awaiting := s.runner.awaiting ++ [lp] } }.startTraining q lp
  | none => s.noSpare lp

/-! ### Pours that wait for ports -/

/-- What a pour that waits for ports comes to when the last has ended: OK, or the code of the lowest-numbered failed port,
reported (R231, R233). A port noted with OK has passed. -/
def waitOutcome (failures : List (Nat × BitVec 16)) (detail : Nat) : PourOutcome :=
  let bad := failures.filter fun f => f.2 ≠ stOk
  let least := bad.foldl (fun m f => match m with
    | none => some f
    | some g => if f.1 < g.1 then some f else m) none
  completed ((least.map (·.2)).getD stOk) detail .nothing

/-- A mask of ports. -/
def portMask (ps : List Nat) : Nat := (ps.map fun p => 2 ^ p).foldl (· + ·) 0

/-- DETAIL of FLASK_JOIN: ports and spares in service, and FLASK_ID. -/
def State.joinDetail (s : State) : Nat :=
  portMask ((List.range 32).filter fun p => (s.rport p).state.inService) + s.flaskId.toNat * 2 ^ 32

/-- DETAIL of MARGIN_TEST: ports that passed, and ports that failed. -/
def marginDetail (results : List (Nat × BitVec 16)) : Nat :=
  portMask ((results.filter fun f => f.2 = stOk).map (·.1)) + portMask ((results.filter fun f => f.2 ≠ stOk).map (·.1)) * 2 ^ 32

/-- The pour of a channel ends once no port is waited for. -/
def State.settleWait (s : State) (c : Nat) : State :=
  match s.runningOf c with
  | none => s
  | some r =>
    if r.waiting = 0 ∧ r.outcome.isNone then
      if r.body.opcode = opFlaskJoin then s.fix c (waitOutcome r.failures s.joinDetail)
      else if r.body.opcode = opMarginTest then s.fix c (waitOutcome r.failures (marginDetail r.failures))
      else s
    else s

/-- A port has ended what a pour of this opcode waits for. -/
def State.portEnded (s : State) (op bit : Nat) (st : BitVec 16) : State :=
  (List.range 64).foldl (fun (s : State) c =>
    match s.runningOf c with
    | none => s
    | some r =>
      if r.body.opcode = op ∧ r.waiting.getLsbD bit then
        (s.setRunning c (some { r with
          waiting := r.waiting &&& ~~~(1#32 <<< bit)
          failures := r.failures ++ [(bit, st)] })).settleWait c
      else s) s

/-! ### The end of a training -/

/-- A port that has not been admitted: its code, its log entry and points; it goes dark (R271). A spare is then out until
the next join, and the other one is tried (R281); for a port that a warm boot trained, a spare is brought in too (R413). -/
def State.failPort (s : State) (p : Nat) (st : BitVec 16) : State :=
  let o := s.rport p
  let lp := o.standsFor.toNat
  let s := if st = stEyeSafety then s else s.logStatus st unitRunner p 0 (decide (st = stMarginLow)) none
  let s := if st = stMarginLow then s.addLink p 50 else s
  let s := (s.goDark p).updRport p fun n => { n with
    state := .failed, standsFor := o.standsFor, code := st, found := o.found, sent := o.sent }
  let s := (s.portEnded opFlaskJoin p st).portEnded opMarginTest lp st
  if 30 ≤ p then
    { s with runner := { s.runner with spareOut := s.runner.spareOut ||| (1#2 <<< (p - 30)) } }.bringSpare p lp
  else if s.runner.retrains.contains lp then s.bringSpare p lp
  else s

/-- A port admitted: SEQ starts at 0 and the port enters service (R269). Its eye-safety state becomes CLEAR (R328). -/
def State.letIn (s : State) (p : Nat) : State :=
  let lp := (s.rport p).standsFor.toNat
  let full := (s.lport p).lanes = 0xFFFF
  let s := s.updRport p fun o => { o with
    state := if full then .admitted else .degraded
    stage := 0
    code := stOk
    txSeq := 0
    rxSeq := 0
    nextAck := 0
    nakOut := false
    nakCount := 0
    heardNaks := 0
    replay := []
    txQ := []
    sinceIdle := 0
    pace := 16 }
  let s := s.updLight p fun o => { o with
    eye := .clear
    changeTx := 0
    changeRx := 0
    rxWant := o.rxLanes
    rxAsked := none
    asks := 0
    resweeps := []
    tagRuns := []
    history := []
    sweeping := 0
    lost := 0 }
  ({ s with runner := { s.runner with retrains := s.runner.retrains.filter fun x => x ≠ lp } }.stopAwaiting lp).portEnded opFlaskJoin p stOk

/-! ### Identity (R271, R272) -/

/-- A board port whose pair has MODE 2 on both ports. -/
def State.crossable (s : State) (lp : Nat) : Bool := lp < 14 && (s.joinEntry lp).1 = 2 && (s.joinEntry (lp ^^^ 1)).1 = 2

/-- The checks of Table 14-5 for a port that serves lp: the logical port it is to serve, or the code. -/
def State.checkIdentity (s : State) (p lp : Nat) (r : IdRecord) : Except (BitVec 16) Nat :=
  let e := s.joinEntry lp
  let partner := s.joinEntry (lp ^^^ 1)
  let straight := r.standsFor.toNat = e.2.1
  let crossed := p < 30 ∧ s.crossable lp ∧ r.standsFor.toNat = partner.2.1
  if r.flaskId ≠ s.flaskId then .error stPeerIdentity
  else if r.chipId.toNat ≠ e.2.2.2 ∨ r.rank.toNat ≠ e.2.2.1 then .error stPeerIdentity
  else if ¬straight ∧ ¬crossed then .error stPeerIdentity
  else if r.major ≠ 1 ∨ r.arithFp ≠ s.assay.image.arithFp then .error stPeerFirmware
  else .ok (if straight then lp else lp ^^^ 1)

/-- A record taken: checked if no verdict has been sent yet, and the peer's verdict noted. -/
def State.takeRecord (s : State) (p : Nat) (r : IdRecord) : State :=
  let s := s.updRport p fun o => { o with found := r }
  if r.verdict = 2 then s.failPort p r.verdictStatus
  else
    let s := s.updRport p fun o => { o with gotVerdict := if r.verdict = 1 then 1 else o.gotVerdict }
    if (s.rport p).sentVerdict = 1 then s
    else
      match s.checkIdentity p (s.rport p).standsFor.toNat r with
      | .error st => ((s.updRport p fun o => { o with sentVerdict := 2 }).sendIdentity p st).failPort p st
      | .ok lp =>
        (s.updRport p fun o => { o with sentVerdict := 1, standsFor := BitVec.ofNat 5 lp }).sendIdentity p 0

/-- IDENTITY_RECORD: a record taken in stages 4 to 6, 8 consecutive ones having agreed. -/
def execIdentityRecord (p : Fin 32) (rec : IdRecord) (s : State) : PortOut :=
  let o := s.rport p
  .next (if o.state = .training ∧ 4 ≤ o.stage then s.takeRecord p rec else s)

/-! ### Stages -/

/-- A ring's coefficient in kHz per mK as a lock acquisition calibrates it: within 5 % of 9 GHz per °C (R309). -/
def ringCoef (n : Nat) : Nat := 8550 + Config.ringCalibration n % 901

/-- Stage 1 ended well: every ring has acquired its lock. A source that does not confirm the enabling write holds it (R321). -/
def State.stageOne (s : State) (p : Nat) : State :=
  if !s.light.srcPresent.getLsbD (p / 8) then s.failPort p stMarginLow
  else if s.light.enabling.getLsbD p then s
  else
    let n := s.free
    { ((s.updRport p fun o => { o with stage := 2 }).updLight p fun o => { o with
        txLocked := 0xFFFF
        rxLocked := 0xFFFF
        detune := []
        lag := []
        calib := o.heater
        coef := (List.range 32).map fun k => (k, ringCoef (n + k)) }) with free := n + 32 }

/-- Stage 2 ended: the lanes that passed are the lanes the port uses; fewer than 14 in a direction fail it (R320). Those this chip
sends are as the peer found them. -/
def State.stageTwo (s : State) (p : Nat) (tx : BitVec 16) (scans : List LaneScan) : State :=
  let rx := passMask scans
  let s := s.updLight p fun o => { o with
    pass := rx, worst := worstMargin scans, thresholds := thresholdsOf scans, txLanes := tx, rxLanes := rx, rxWant := rx }
  if (lanesOf tx).length < 14 ∨ (lanesOf rx).length < 14 then s.failPort p stMarginLow
  else (s.updRport p fun o => { o with stage := 3 }).portEnded opMarginTest (s.rport p).standsFor.toNat stOk

/-- The code of a stage that failed: stages 1 and 2 are the margin's, the others lose the peer. -/
def stageCode (stage : Nat) : BitVec 16 := if stage ≤ 2 then stMarginLow else stPeerLost

/-- TRAINING_STAGE_DONE: the stage in progress ends (R269). -/
def execTrainingStageDone (p : Fin 32) (stage : Nat) (result : StageResult) (s : State) : PortOut :=
  let o := s.rport p
  if o.state ≠ .training ∨ o.stage ≠ stage ∨ (s.seq (portDomain p)).state ≠ .on then .next s
  else
    match result with
    | .failed => .next (s.failPort p (stageCode stage))
    | .margins tx rx => .next (if stage = 2 then s.stageTwo p tx rx else s)
    | .ok =>
      match stage with
      | 1 => .next (s.stageOne p)
      | 3 => .next ((s.updRport p fun o => { o with stage := 4 }).sendIdentity p 0)
      | 4 => .next (if o.sentVerdict = 1 then s.updRport p fun o => { o with stage := 5 } else s)
      | 5 => .next (if o.sentVerdict = 1 then s.updRport p fun o => { o with stage := 6 } else s)
      | 6 => .next (if o.sentVerdict = 1 ∧ o.gotVerdict = 1 then s.letIn p else s)
      | _ => .next s

/-- JOIN_PORT_TIMEOUT: the join counts the port as failed; the port trains on (R231). -/
def execJoinPortTimeout (p : Fin 32) (s : State) : PortOut :=
  let waits := s.running.any fun e => match e.2 with
    | some r => decide (r.body.opcode = opFlaskJoin) && r.waiting.getLsbD p
    | none => false
  .next (if waits ∧ (s.rport p).state = .training then
    ((s.updRport p fun o => { o with code := stPeerLost }).logStatus stPeerLost unitRunner p.val 0 true none).portEnded
      opFlaskJoin p stPeerLost
  else s)

/-! ### Ports down (R279 to R281) -/

/-- A port in service goes down: the running RUN's attempt ends, and a spare is brought in. -/
def State.portDown (s : State) (p : Nat) (st : BitVec 16) : State :=
  let o := s.rport p
  if o.state.inService then
    let lp := o.standsFor.toNat
    let s := if st = stEyeSafety then s else (s.logStatus st unitRunner p 0 true none).addLink p 100
    let s := s.updRport p fun o => { o with
      state := .down, code := st, replay := [], txQ := [], nakOut := false, nakCount := 0, heardNaks := 0, boards := [], relays := [] }
    let s := s.eventEnds stPeerLost true
    let s := if 30 ≤ p then { s with runner := { s.runner with spareOut := s.runner.spareOut ||| (1#2 <<< (p - 30)) } } else s
    s.bringSpare p lp
  else s

/-- PORT_SILENCE_TIMEOUT: no error-free frame for 10 µs. -/
def execPortSilenceTimeout (p : Fin 32) (s : State) : PortOut := .next (s.portDown p stPeerLost)

/-- SPARE_TIMEOUT: the spare, or the one that trains for logical port p, is free again and the RUN ends faulted (R280). -/
def execSpareTimeout (p : Fin 32) (s : State) : PortOut :=
  let late := [30, 31].find? fun q => decide ((s.rport q).state = .training) && (q = p.val || (s.rport q).standsFor.toNat = p.val)
  match late with
  | none => .next s
  | some q =>
    let lp := (s.rport q).standsFor.toNat
    let s := (s.goDark q).stopAwaiting lp
    let s := { s with runner := { s.runner with spares := s.runner.spares ||| (1#2 <<< (q - 30)) } }
    .next (s.noSpare lp)

/-! ### FLASK_JOIN (R230, R231, R273, R413) -/

/-- The flask record of a FLASK_JOIN's payload. -/
def joinRecord (pay : Nat) : FlaskRecord where
  flaskId := BitVec.ofNat 16 (fieldOf pay 0 16)
  n := fieldOf pay 64 20
  rank := fieldOf pay 32 18
  paceAdopt := fieldOf pay 96 1 = 1
  ports := (List.range 32).map fun p =>
    let b := 256 + 128 * p
    (fieldOf pay (b + 72) 2, fieldOf pay (b + 64) 5, fieldOf pay (b + 32) 18, fieldOf pay b 18)

/-- A port entry. -/
def FlaskRecord.port (f : FlaskRecord) (p : Nat) : Nat × Nat × Nat × Nat := (f.ports[p]?).getD (0, 0, 0, 0)

/-- The live ports of a join. -/
def FlaskRecord.live (f : FlaskRecord) : List Nat := (List.range 30).filter fun p => (f.port p).1 ≠ 0

/-- The no-transit rule of R273 for a live port. -/
def transitOk (chip p : Nat) (e : Nat × Nat × Nat × Nat) : Bool :=
  if p < 14 then
    let slot := chip % 8
    let k := p / 2
    let sk := if k < slot then k else k + 1
    let j := if slot < sk then slot else slot - 1
    e.2.2.2 = chip / 8 * 8 + sk && (e.2.1 = 2 * j || e.2.1 = 2 * j + 1)
  else e.2.2.2 != chip && 14 ≤ e.2.1 && e.2.1 ≤ 29

/-- A port at the acceptance of a join or a leave: of what it found, the flask and the protocol stay (Table 14-7). -/
def Port.rejoined (o : Port) (p : Nat) : Port :=
  { Port.init p with found := { IdRecord.zero with major := o.found.major, flaskId := o.found.flaskId }, sent := o.sent }

/-- The Runner as the acceptance of a join or a leave makes it; the frames sent and the count of foreign ones stay. -/
def Runner.rejoin (r : Runner) (f : Option FlaskRecord) : Runner :=
  { Runner.init with
    ports := r.ports.mapIdx fun p o => o.rejoined p
    flask := f
    foreign := r.foreign }

/-- Every live port trains; one that is shut fails at once (R321). -/
def State.trainLive (s : State) (ps : List Nat) : State :=
  ps.foldl (fun s p => if (s.lport p).eye = .shut then s.failPort p stEyeSafety else s.startTraining p p) s

/-- A join accepted. -/
def State.acceptJoin (s : State) (c : Nat) (f : FlaskRecord) : State :=
  let s := (List.range 32).foldl State.goDark s
  let s := { s with
    runner := s.runner.rejoin (some f)
    err := { s.err with portShared := [] } }.updLedger .flask fun l => { l with flask := some f }
  let s := s.updRunning c fun r => { r with waiting := BitVec.ofNat 32 (portMask f.live) }
  (s.trainLive f.live).settleWait c

/-- A join that a reset interrupted after its acceptance goes on with its ports as they stand. -/
def State.resumeJoin (s : State) (c : Nat) (f : FlaskRecord) : State :=
  let training := f.live.filter fun p => (s.rport p).state = .training
  let failed := (f.live.filter fun p => (s.rport p).state = .failed).map fun p => (p, (s.rport p).code)
  (s.updRunning c fun r => { r with waiting := BitVec.ofNat 32 (portMask training), failures := failed }).settleWait c

/-- The body of FLASK_JOIN. -/
def State.joinBody (s : State) (c i : Nat) (k : Packet) : State :=
  let f := joinRecord k.pay
  if s.runner.flask.isSome then
    if (s.entry i).replayed ∧ s.runner.flask = some f then s.resumeJoin c f
    else s.fix c (refusedAt stTopology s.joinDetail)
  else if f.live.all fun p => transitOk s.ident.chipId.toNat p (f.port p) then s.acceptJoin c f
  else s.fix c (refusedAt stTransit s.joinDetail)

/-- FLASK_JOIN. -/
def execFlaskJoin (c : Fin 64) (s : State) : PortOut :=
  .next (s.resumeOr c opFlaskJoin (s.startPour c opFlaskJoin noNeeds fun i k s => s.joinBody c i k))

/-! ### FLASK_LEAVE and MARGIN_TEST (R232, R233, R321) -/

/-- The body of FLASK_LEAVE, which is a reset of its own kind: kept tiles are restored before their next use (R131, R405). -/
def State.leaveBody (s : State) (c : Nat) : State :=
  match s.runner.flask with
  | none => s.fix c (completed stOk 0 .nothing)
  | some f =>
    let s := (List.range 32).foldl State.goDark s
    let s := { s with runner := s.runner.rejoin none }.updLedger .flask fun l => { l with flask := none }
    s.staleKept.fix c (completed stOk f.flaskId.toNat .nothing)

/-- FLASK_LEAVE. -/
def execFlaskLeave (c : Fin 64) (s : State) : PortOut :=
  .next (s.resumeOr c opFlaskLeave (s.startPour c opFlaskLeave noNeeds fun _ _ s => s.leaveBody c))

/-- The physical port of a logical port for a margin test: the one in service for it, one that stood for it and is down,
failed or in training, or its own. -/
def State.testedPort (s : State) (lp : Nat) : Nat :=
  ((s.serving lp).orElse fun _ =>
    ((List.range 32).find? fun q => (s.rport q).state != .dark && (s.rport q).standsFor.toNat = lp)).getD lp

/-- One named port of a margin test: a dark one is left out, a shut one fails, any other is retrained. -/
def State.testPort (s : State) (c lp : Nat) : State :=
  let q := s.testedPort lp
  if (s.rport q).state = .dark then s.updRunning c fun r => { r with waiting := r.waiting &&& ~~~(1#32 <<< lp) }
  else if (s.lport q).eye = .shut then s.portEnded opMarginTest lp stEyeSafety
  else s.startTraining q lp

/-- The body of MARGIN_TEST. -/
def State.marginBody (s : State) (c : Nat) (k : Packet) : State :=
  let named := (List.range 30).filter fun p => k.pay.testBit p
  let s := s.updRunning c fun r => { r with waiting := BitVec.ofNat 32 (portMask named) }
  (named.foldl (fun s lp => s.testPort c lp) s).settleWait c

/-- MARGIN_TEST. -/
def execMarginTest (c : Fin 64) (s : State) : PortOut :=
  .next (s.resumeOr c opMarginTest (s.startPour c opMarginTest noNeeds fun _ k s => s.marginBody c k))

end Sys2Proof.Machine
end

