-- ==== Sys2Proof/Machine/Light.lean ====
section
/-! DEFINITION. The optics: lock, feed-forward, tags, lane changes and returns, the floor link's lanes, eye safety, the laser
bus and the monitors (R307 to R328). -/

namespace Sys2Proof.Machine

abbrev LightOut := Host.Outcome State Fault Refusal

/-- The rings of a port are held on their carriers: it is neither dark nor failed. -/
def State.portLit (s : State) (p : Nat) : Bool := !(s.rport p).state.isDark

/-! ### LSHUT_N (R326) -/

/-- LSHUT_N[n] is driven low. A port that is probed needs its group's light (R325). -/
def State.lshut (s : State) (n : Nat) : Bool :=
  let group := (List.range 8).map (8 * n + ·)
  !s.pins.vddAon || !s.light.enabled || s.power.stopped || s.light.detection.getLsbD n || s.light.unconfirmed.getLsbD n
    || group.all fun p => (s.rport p).state.isDark && !(s.lport p).probing

/-! ### Lane changes (R316) -/

/-- The frame of a SEQ that is sent again: as the replay buffer holds it, or, of an idle frame sent while the buffer was full, an idle frame
(DESIGN CHOICE, log entry 79). -/
def Port.resent (o : Port) (seq : BitVec 48) : Frame :=
  ((o.replay.find? fun x => x.seq = seq).map (·.frame)).getD (rawFrame 0 0 0 0 [] [])

/-- Frames sent again in order from the first that is not acknowledged (R266, R316). -/
def State.resend (s : State) (p : Nat) : State :=
  let o := s.rport p
  let n := (o.txSeq - o.nextAck).toNat
  if n = 0 then s
  else
    let s := (List.range n).foldl (fun s k =>
      let q := o.nextAck + BitVec.ofNat 48 k
      s.putLine p (s.lport p).txLanes { s.stamp p (o.resent q) with seq := q }) s
    ((s.count (ctrRunner (s.unitOf p) 0) n).count (ctrRunner (s.unitOf p) 6) n).keepTag p

/-- A lane record sent over a set of lanes, with the identity record, in `n` frames of TYPE 6. -/
def State.sendLanes (s : State) (p : Nat) (lanes : BitVec 16) (rec : LaneRecord) : Nat → State
  | 0 => s
  | n + 1 => State.sendLanes (s.emitTraining p lanes (idBytes (s.ownRecord p 0) ++ laneBytes rec)) p lanes rec n

/-- A port that stays in service shows whether it has all its lanes (Table 14-7). A change restarts the counts of NAKs. -/
def State.settleLanes (s : State) (p : Nat) : State :=
  let full := (s.lport p).lanes = 0xFFFF
  s.updRport p fun o => { o with
    state := if o.state.inService then (if full then .admitted else .degraded) else o.state
    nakCount := 0
    heardNaks := 0 }

/-- Step 1 of a change: the receiving side asks for the set it wants, and the peer to resweep modulators, unless a change it has
asked for is not confirmed yet. -/
def State.askLanes (s : State) (p : Nat) : State :=
  let o := s.lport p
  if o.rxAsked.isSome ∨ o.rxWant = o.rxLanes then s
  else
    let s := s.updLight p fun o => { o with rxAsked := some o.rxWant, asks := 0 }
    State.sendLanes s p o.txLanes ⟨o.changeRx + 1, o.txLanes, o.asks, o.rxWant⟩ 4

/-- The receiving side wants another set of lanes, and the peer's modulators `resweep` resweept. A third lane out takes the port down
(R279). -/
def State.changeRx (s : State) (p : Nat) (lanes resweep : BitVec 16) : State :=
  if (lanesOf lanes).length < 14 then s.portDown p stPeerLost
  else (s.updLight p fun o => { o with rxWant := lanes, asks := o.asks ||| resweep }).askLanes p

/-- Step 3 of a change: the receiving side takes the set the peer has confirmed, and asks for what it has come to want since. -/
def State.confirmRx (s : State) (p : Nat) (lanes : BitVec 16) : State :=
  ((s.updLight p fun o => { o with rxLanes := lanes, rxAsked := none, changeRx := o.changeRx + 1 }).settleLanes p).askLanes p

/-- Rings of a port that have acquired their lock anew: they are calibrated again (R309). -/
def State.acquire (s : State) (p : Nat) (rings : List Nat) : State :=
  rings.foldl (fun s k => { (s.updLight p fun o => { o with
    coef := Tab.put 0 o.coef k (ringCoef s.free)
    calib := Tab.put (0 : Int) o.calib k (Tab.get (0 : Int) o.heater k) }) with free := s.free + 1 }) s

/-- A ring of this chip found on a wrong carrier (R315, R388). -/
def State.mislock (s : State) (p : Nat) : State :=
  { s with light := { s.light with mislock := s.light.mislock.add 1 } }.logStatus stMislock unitLight p 0 false none
    |>.addLocal 10

/-- Receive lanes that leave service: of them `own` have this chip's drop filter on a wrong carrier, `plain` no ring on a wrong
carrier, and `ask` are those whose modulator the peer is to resweep (R315, R388). -/
def State.lanesLeave (s : State) (p : Nat) (out own plain ask : BitVec 16) : State :=
  let s := (lanesOf own).foldl (fun (s : State) _ => s.mislock p) s
  let s := (lanesOf plain).foldl (fun (s : State) _ => s.addLink p 10) s
  let s := s.updLight p fun o => { o with
    rxLocked := o.rxLocked &&& ~~~own
    sweeping := o.sweeping ||| own.setWidth 32 }
  s.changeRx p ((s.lport p).rxWant &&& ~~~out) ask

/-! ### What every frame tells of its lanes (R315) -/

/-- Whether a lane fails by symbols: more than 1 % of those it carried in the last 64 frames. -/
def PortLight.badSymbols (o : PortLight) (lane : Nat) : Bool :=
  let n := (o.history.map fun f => (f.filter (· = lane)).length).foldl (· + ·) 0
  64 * 1440 < n * 100 * max 1 (lanesOf o.rxLanes).length

/-- A lane's run of failed tag checks after a frame; one without zero payload codewords checks nothing. -/
def PortLight.tagRun (o : PortLight) (f : Frame) (lane : Nat) : Nat :=
  let r := Tab.get 0 o.tagRuns lane
  if !checksTags f then r else if tagFails f o.rxLanes lane then r + 1 else 0

/-- A mask of lanes. -/
def laneMask (ls : List Nat) : BitVec 16 := ls.foldl (fun m i => m ||| (1#16 <<< i)) 0

/-- A whole frame's lanes checked. A lane that leaves is tried under the keys of its neighbours: under one of them this chip's filter
is on a wrong carrier, and otherwise the peer is asked to resweep its modulator (R315). -/
def State.checkLanes (s : State) (p : Nat) (f : Frame) : State :=
  let n := f.fixed.length
  let s := if n = 0 then s else s.count (ctrRunner (s.unitOf p) 4) n
  let s := s.updLight p fun o => { o with
    history := fixedLanes f o.rxLanes :: o.history.take 63
    tagRuns := (List.range 16).foldl (fun t i => Tab.put 0 t i (o.tagRun f i)) []
    serErr := o.serErr + n
    serTotal := o.serTotal + 1440 }
  let o := s.lport p
  let kept := lanesOf (o.rxLanes &&& o.rxWant)
  let tag := laneMask (kept.filter fun i => 4 ≤ Tab.get 0 o.tagRuns i)
  let err := laneMask (kept.filter o.badSymbols)
  let out := tag ||| err
  if out = 0 then s
  else
    let own := laneMask ((lanesOf out).filter (onNeighbour f o.rxLanes))
    let s := s.updLight p fun o => { o with tagRuns := o.tagRuns.filter fun e => !out.getLsbD e.1 }
    s.lanesLeave p out own (out &&& ~~~tag &&& ~~~own) (out &&& ~~~own)

/-! ### Lane records (R316) -/

/-- Transmit lanes that return to service need their resweeps counted no longer (R317). -/
def PortLight.txBack (o : PortLight) (lanes : BitVec 16) : PortLight :=
  let back := lanes &&& ~~~o.txLanes
  { o with
    resweeps := o.resweeps.filter fun e => !(decide (16 ≤ e.1) && back.getLsbD (e.1 - 16))
    lost := o.lost &&& ~~~(back.setWidth 32 <<< 16) }

/-- Step 2 of a change: the sending side, after two agreeing records, confirms the set over the lanes common to the old and the new
one, and sends again on the new one what is not acknowledged. -/
def State.changeTx (s : State) (p : Nat) (rec : LaneRecord) : State :=
  let s := (lanesOf rec.resweep).foldl (fun (s : State) _ => s.mislock p) s
  let s := s.updLight p fun o => { o with
    agreed := 0
    txLocked := o.txLocked &&& ~~~rec.resweep
    sweeping := o.sweeping ||| (rec.resweep.setWidth 32 <<< 16) }
  if (lanesOf rec.rxLanes).length < 14 then s.portDown p stPeerLost
  else
    let o := s.lport p
    let s := State.sendLanes s p (o.txLanes &&& rec.rxLanes) ⟨rec.change, rec.rxLanes, 0, o.rxLanes⟩ 4
    let s := (s.updLight p fun o => { o.txBack rec.rxLanes with txLanes := rec.rxLanes, changeTx := rec.change }).settleLanes p
    s.resend p

/-- A record asks for the next change of the direction this chip sends: it names another set than the one in force. -/
def PortLight.isRequest (o : PortLight) (rec : LaneRecord) : Bool :=
  rec.change = o.changeTx + 1 && rec.rxLanes != o.txLanes

/-- A record confirms the change that this chip has asked for in the direction it receives. -/
def PortLight.isConfirmation (o : PortLight) (rec : LaneRecord) : Bool :=
  rec.change = o.changeRx + 1 && o.rxAsked = some rec.txLanes

/-- LANE_RECORD: a confirmation makes the change of the direction this chip receives. A request is counted, and the second that agrees
makes the change of the direction it sends. -/
def execLaneRecord (p : Fin 32) (rec : LaneRecord) (s : State) : LightOut :=
  let o := s.lport p
  if !(s.rport p).state.inService then .next s
  else if o.isConfirmation rec then .next (s.confirmRx p rec.txLanes)
  else if !o.isRequest rec then .next s
  else if o.agreed = 1 ∧ o.lastRx = rec.rxLanes then .next (s.changeTx p rec)
  else .next (s.updLight p fun o => { o with agreed := 1, lastRx := rec.rxLanes })

/-! ### Resweeps and returns (R317, R319) -/

/-- The number of a ring among a port's 32: drop filters 0 to 15, modulators 16 to 31. -/
def ringOf (dir : LaneDir) (lane : Nat) : Nat :=
  match dir with
  | .rx => lane
  | .tx => 16 + lane

/-- Ring bits of a port changed for one ring. -/
def PortLight.setLocked (o : PortLight) (dir : LaneDir) (lane : Nat) (on : Bool) : PortLight :=
  let set (m : BitVec 16) : BitVec 16 := if on then m ||| (1#16 <<< lane) else m &&& ~~~(1#16 <<< lane)
  match dir with
  | .rx => { o with rxLocked := set o.rxLocked }
  | .tx => { o with txLocked := set o.txLocked }

/-- A ring of a port is in lock. -/
def PortLight.ringLocked (o : PortLight) (dir : LaneDir) (lane : Nat) : Bool :=
  match dir with
  | .rx => o.rxLocked.getLsbD lane
  | .tx => o.txLocked.getLsbD lane

/-- The resonances of a sweep in the order in which they are tried: by their distance from the calibrated point, of two as far the one
toward lower frequency first (DESIGN CHOICE, log entry 79), each within ±300 GHz. -/
def candidatesOf (w : RingSweep) : List Int :=
  (List.range 301).filterMap fun j =>
    let v : Int := if j % 2 = 1 then -((j + 1) / 2 : Nat) else (j / 2 : Nat)
    if w.resonances.contains v then some v else none

/-- The candidate that is accepted, as a shift in MHz from the calibrated point: the first that passes the tag check (R317). -/
def acceptedOf (w : RingSweep) : Option Int := ((candidatesOf w).find? fun v => w.passing.contains v).map (2000 * ·)

/-- A resweep of a port's ring has ended: the heater stands at the candidate accepted, or, with none, at the calibrated point. A lane that
three have not brought back stays out until the next admission. -/
def PortLight.swept (o : PortLight) (dir : LaneDir) (lane : Nat) (found : Option Int) : PortLight :=
  let k := ringOf dir lane
  let n := Tab.get 0 o.resweeps k + 1
  let ok := found.isSome
  let o := { o with
    heater := Tab.put (0 : Int) o.heater k (Tab.get (0 : Int) o.calib k + found.getD 0)
    resweeps := Tab.put 0 o.resweeps k n
    sweeping := if ok ∨ 3 ≤ n then o.sweeping &&& ~~~(1#32 <<< k) else o.sweeping
    lost := if !ok ∧ 3 ≤ n then o.lost ||| (1#32 <<< k) else o.lost
    detune := if ok then Tab.put (0 : Int) o.detune k 0 else o.detune
    lag := if ok then Tab.put (0 : Int) o.lag k 0 else o.lag }
  o.setLocked dir lane ok

/-- A return check that a receive lane has failed: its ring is resweept again, unless it has been three times (R317). -/
def PortLight.failedCheck (o : PortLight) (lane : Nat) : PortLight :=
  if 3 ≤ Tab.get 0 o.resweeps lane then { o with lost := o.lost ||| (1#32 <<< lane) }
  else { (o.setLocked .rx lane false) with sweeping := o.sweeping ||| (1#32 <<< lane) }

/-- A floor-link lane of a direction as a bit of the 800. -/
def floorKey (dir lane : Nat) : Nat := 400 * dir + lane

/-- The lanes out of a floor-link direction. -/
def Light.out (l : Light) (dir : Nat) : BitVec 400 := if dir = 0 then l.floorOut0 else l.floorOut1

/-- The lanes out of a floor-link direction set. -/
def Light.setFloor (l : Light) (dir : Nat) (v : BitVec 400) : Light :=
  if dir = 0 then { l with floorOut0 := v } else { l with floorOut1 := v }

/-- The number of a floor-link ring: its modulator, and 800 above it its drop filter. -/
def floorRing (dir : Nat) (side : LaneDir) (lane : Nat) : Nat := floorKey dir lane + (if side = .tx then 0 else 800)

/-- A ring of the floor link is in lock. -/
def Light.floorLock (l : Light) (k : Nat) : Bool := l.floorLocked.getLsbD k

/-- Both rings of a floor-link lane are in lock. -/
def Light.floorHeld (l : Light) (dir lane : Nat) : Bool := l.floorLock (floorRing dir .tx lane) && l.floorLock (floorRing dir .rx lane)

/-- A ring of the floor link out of lock: it is to be resweept. -/
def Light.floorUnlock (l : Light) (k : Nat) : Light := { l with floorLocked := l.floorLocked &&& ~~~(1#1600 <<< k) }

/-- A ring of the floor link that has acquired its lock anew (R309). -/
def State.acquireFloor (s : State) (k : Nat) : State :=
  { s with
    light := { s.light with
      floorLocked := s.light.floorLocked ||| (1#1600 <<< k)
      floorDetune := Tab.put (0 : Int) s.light.floorDetune k 0
      floorLag := Tab.put (0 : Int) s.light.floorLag k 0
      floorCoef := Tab.put 0 s.light.floorCoef k (ringCoef s.free)
      floorCalib := Tab.put (0 : Int) s.light.floorCalib k (Tab.get (0 : Int) s.light.floorHeater k) }
    free := s.free + 1 }

/-- RESWEEP_DONE. -/
def execResweepDone (place : RingPlace) (sweep : RingSweep) (s : State) : LightOut :=
  let found := acceptedOf sweep
  match place with
  | .runner p dir lane =>
    .next (if (s.lport p).sweeping.getLsbD (ringOf dir lane) then
      (s.updLight p fun o => o.swept dir lane found).acquire p (if found.isSome then [ringOf dir lane] else [])
    else s)
  | .floor dir side lane =>
    let k := floorRing dir side lane
    let n := Tab.get 0 s.light.floorSweeps k
    .next (if (s.light.out dir).getLsbD lane ∧ !s.light.floorLock k ∧ n < 3 then
      let s := { s with light := { s.light with
          floorSweeps := Tab.put 0 s.light.floorSweeps k (n + 1)
          floorHeater := Tab.put (0 : Int) s.light.floorHeater k (Tab.get (0 : Int) s.light.floorCalib k + found.getD 0) } }
      if found.isSome then s.acquireFloor k else s
    else s)

/-- A floor-link lane back in service. -/
def State.floorReturn (s : State) (dir lane : Nat) : State :=
  let l := s.light.setFloor dir (s.light.out dir &&& ~~~(1#400 <<< lane))
  let s := { s with light := { l with
    floorSweeps := Tab.put 0 (Tab.put 0 l.floorSweeps (floorRing dir .tx lane) 0) (floorRing dir .rx lane) 0 } }
  if s.floorStopped dir then s else { s with light := { s.light with floorStall := s.light.floorStall &&& ~~~(1#2 <<< dir) } }

/-- LANE_RETURN: a receive lane whose filter is in lock and whose return check leaves at least 1.5 dB returns by a change. A transmit
lane returns by the peer's record. -/
def execLaneReturn (check : ReturnCheck) (s : State) : LightOut :=
  match check.place with
  | .runner _ .tx _ => .next s
  | .runner p .rx lane =>
    let o := s.lport p
    let back := (s.rport p).state.inService && !o.rxWant.getLsbD lane && o.pass.getLsbD lane && o.rxLocked.getLsbD lane
      && !o.sweeping.getLsbD lane && !o.lost.getLsbD lane
    if !back then .next s
    else if 150 ≤ laneMargin check.scan then
      .next ((s.updLight p fun o => { o with resweeps := Tab.put 0 o.resweeps lane 0 }).changeRx p (o.rxWant ||| (1#16 <<< lane.val)) 0)
    else .next (s.updLight p fun o => o.failedCheck lane)
  | .floor dir lane =>
    if !((s.light.out dir).getLsbD lane && s.light.floorHeld dir lane) then .next s
    else if 150 ≤ laneMargin check.scan then .next (s.floorReturn dir lane)
    else .next { s with light := s.light.floorUnlock (floorRing dir .rx lane) }

/-! ### The floor link loses a lane (R319) -/

/-- The carriers are held on the floor link: the boot has tested its lanes, and the dies run. -/
def State.floorLit (s : State) : Bool := s.boot.done.getLsbD 5 && s.clocked

/-- A floor-link lane leaves service. -/
def State.floorLeave (s : State) (dir lane : Nat) : State :=
  { s with light := s.light.setFloor dir (s.light.out dir ||| (1#400 <<< lane)) }.count (ctrFloor dir 3) 1 |>.addLocal 20

/-- A ring of the floor link found on a wrong carrier (R315, R388). -/
def State.floorMislock (s : State) (dir : Nat) : State :=
  { s with light := { s.light with mislock := s.light.mislock.add 1 } }.logStatus stMislock unitFloor dir 0 false none
    |>.addLocal 10

/-- Codewords on their way over a direction in the slot in which its second lane failed: slot position, where each is written, and its
bytes. One that has lost more than one symbol is written poisoned. -/
def State.floorSpoil (s : State) (dir : Nat) (carried : List (Nat × Nat × List Byte)) : State :=
  (carried.filter fun x => floorDamaged (s.light.out dir) x.1).foldl (fun (s : State) x =>
    let (m, ev) := s.mem.carryCw .chip x.2.1 x.2.2 true
    ({ s with mem := m }.noteAll s.runPour ev).logStatus stUncorrectable unitFloor dir (s.boardAddr (32 * x.2.1)) false s.runPour
      |>.addLocal 100) s

/-- A floor-link lane out of service while its direction carries codewords: with the second lane out, those that lose more than one
symbol are spoilt (R319). -/
def State.floorLose (s : State) (dir lane : Nat) (carried : List (Nat × Nat × List Byte)) : State :=
  if (s.light.out dir).getLsbD lane then s
  else
    let ran := !s.floorStopped dir
    let s := s.floorLeave dir lane
    if ran && s.floorStopped dir then s.floorSpoil dir carried else s

/-- FLOOR_LANE_REMOVAL: `loss.tag` is what the lane carried in the slot, as its receiver took it. A drop filter on a wrong carrier is
resweept, and else the modulator (R315). -/
def execFloorLaneRemoval (dir : Fin 2) (loss : FloorLoss) (s : State) : LightOut :=
  if !s.floorLit || (s.light.out dir).getLsbD loss.lane then .next s
  else
    let own := floorMislocked loss.lane loss.tag
    let s := if own then s.floorMislock dir else s
    .next ({ s with light := s.light.floorUnlock (floorRing dir (if own then .rx else .tx) loss.lane) }.floorLose dir loss.lane loss.carried)

/-! ### Lock loops and feed-forward (R308 to R310) -/

/-- An integer held within ±n. -/
def stepWithin (n v : Int) : Int := clampInt (-n) n v

/-- What feed-forward moves a heater by, in MHz, for a change of its bank's sensor in mK: at most 400 mK of it, by the ring's own
coefficient. -/
def fedForward (coef : Nat) (delta : Int) : Int := (coef : Int) * stepWithin 400 delta / 1000

/-- The lag that grows in one step of feed-forward: 9 GHz per °C of what it does not follow (Table 16-3). -/
def lagOf (delta : Int) : Int := 9 * (delta - stepWithin 400 delta)


/-- One update of a ring's loop: the estimate that is left after it, and the heater's step. -/
def PortLight.looped (o : PortLight) (k : Nat) (estimate : Int) : PortLight :=
  { o with
    detune := Tab.put (0 : Int) o.detune k (estimate - stepWithin 6000 estimate)
    lag := Tab.put (0 : Int) o.lag k 0
    heater := Tab.upd (0 : Int) o.heater k (fun (v : Int) => v - stepWithin 6000 estimate) }

/-- A receive lane whose filter has left its lock leaves service, with no ring on a wrong carrier; its filter is resweept (R310). -/
def State.unlocked (s : State) (p lane : Nat) : State :=
  if (s.rport p).state.inService && (s.lport p).rxLanes.getLsbD lane && (s.lport p).rxWant.getLsbD lane then
    (s.updLight p fun o => { o with sweeping := o.sweeping ||| (1#32 <<< lane) }).lanesLeave p (1#16 <<< lane) 0 (1#16 <<< lane) 0
  else s

/-- A ring of a port in lock or out of it, as its estimate says. -/
def State.settleRing (s : State) (p : Nat) (dir : LaneDir) (lane : Nat) (estimate : Int) : State :=
  let lock := decide (estimate.natAbs ≤ 20000)
  let was := (s.lport p).ringLocked dir lane
  let s := s.updLight p fun o => o.setLocked dir lane lock
  if lock then (if was then s else s.acquire p [ringOf dir lane]) else if dir = .rx then s.unlocked p lane else s

/-- A ring of the floor link in lock or out of it; a lane with a ring out of lock leaves service. -/
def State.settleFloor (s : State) (dir : Nat) (lane k : Nat) (estimate : Int) (carried : List (Nat × Nat × List Byte)) : State :=
  if estimate.natAbs ≤ 20000 then s else { s with light := s.light.floorUnlock k }.floorLose dir lane carried

/-- LOCK_LOOP_UPDATE: one update of a ring; `estimate` is its detuning from the carrier in MHz. A ring that is resweept has none. -/
def execLockLoopUpdate (link : RingLink) (side : LaneDir) (lane : Fin 400) (estimate : Int) (s : State) : LightOut :=
  match link with
  | .runner p =>
    let i := lane.val % 16
    let k := ringOf side i
    .next (if s.portLit p && !(s.lport p).sweeping.getLsbD k then (s.updLight p fun o => o.looped k estimate).settleRing p side i estimate
      else s)
  | .floor dir carried =>
    let k := floorRing dir side lane
    .next (if s.floorLit && s.light.floorLock k then
      { s with light := { s.light with
        floorDetune := Tab.put (0 : Int) s.light.floorDetune k (estimate - stepWithin 6000 estimate)
        floorLag := Tab.put (0 : Int) s.light.floorLag k 0
        floorHeater := Tab.upd (0 : Int) s.light.floorHeater k (fun (v : Int) => v - stepWithin 6000 estimate) } }.settleFloor dir lane k estimate carried
    else s)

/-- A ring's share of a step of feed-forward. -/
def PortLight.fed (o : PortLight) (k : Nat) (delta : Int) : PortLight :=
  { o with
    heater := Tab.upd (0 : Int) o.heater k (fun (v : Int) => v - fedForward (Tab.get 0 o.coef k) delta)
    lag := Tab.upd (0 : Int) o.lag k (fun (v : Int) => v + lagOf delta) }

/-- The rings of a bank follow its sensor, and one whose lag takes it beyond 20 GHz leaves its lock (Table 16-3). -/
def State.feedBank (s : State) (p : Nat) (dir : LaneDir) (delta : Int) : State :=
  (List.range 16).foldl (fun (s : State) i =>
    let k := ringOf dir i
    if (s.lport p).sweeping.getLsbD k then s
    else
      let s := s.updLight p fun o => o.fed k delta
      let o := s.lport p
      let e : Int := Tab.get (0 : Int) o.detune k + Tab.get (0 : Int) o.lag k
      if o.ringLocked dir i && decide (20000 < e.natAbs) then s.settleRing p dir i e else s) s

/-- The same on a waveguide of the floor link. -/
def State.feedFloor (s : State) (dir : Nat) (side : LaneDir) (waveguide : Nat) (delta : Int) (carried : List (Nat × Nat × List Byte)) :
    State :=
  (List.range 16).foldl (fun (s : State) i =>
    let lane := 16 * waveguide + i
    let k := floorRing dir side lane
    if !s.light.floorLock k then s
    else
      let s := { s with light := { s.light with
        floorHeater := Tab.upd (0 : Int) s.light.floorHeater k (fun (v : Int) => v - fedForward (Tab.get 0 s.light.floorCoef k) delta)
        floorLag := Tab.upd (0 : Int) s.light.floorLag k (fun (v : Int) => v + lagOf delta) } }
      let e : Int := Tab.get (0 : Int) s.light.floorDetune k + Tab.get (0 : Int) s.light.floorLag k
      s.settleFloor dir lane k e carried) s

/-- The number of a floor-link bank's sensor. -/
def floorBank (dir : Nat) (side : LaneDir) (waveguide : Nat) : Nat := 25 * dir + waveguide + (if side = .tx then 0 else 50)

/-- FEED_FORWARD: a bank's sensor has changed by `delta` mK in 10 µs; at most 400 mK of it is fed forward. -/
def execFeedForward (bank : RingBank) (side : LaneDir) (delta : Int) (s : State) : LightOut :=
  match bank with
  | .runner p =>
    let s := s.updLight p fun o =>
      { o with temp := if side = .tx then o.temp + delta else o.temp, dropTemp := if side = .rx then o.dropTemp + delta else o.dropTemp }
    .next (if s.portLit p then s.feedBank p side delta else s)
  | .floor dir waveguide carried =>
    let s := { s with light := { s.light with
      floorTemps := Tab.upd (0 : Int) s.light.floorTemps (floorBank dir side waveguide) (fun (v : Int) => v + delta) } }
    .next (if s.floorLit then s.feedFloor dir side waveguide delta carried else s)

/-! ### The floor link stopped (R319) -/

/-- FLOOR_STALL_TIMEOUT. -/
def execFloorStallTimeout (dir : Fin 2) (s : State) : LightOut :=
  .next (if s.floorLit ∧ s.floorStopped dir ∧ !s.light.floorStall.getLsbD dir then
    { s with light := { s.light with floorStall := s.light.floorStall ||| (1#2 <<< dir.val) } }.addLocal 200
  else s)

/-! ### Eye safety (R323 to R325) -/

/-- The port of an open fibre shut (Table 16-5). -/
def State.shutPort (s : State) (p : Nat) (cause : BitVec 2) : State :=
  let s := s.updLight p fun o => { o with
    eye := .shut, eyeCause := cause, probes := 0, passes := 0, probing := false, txLocked := 0 }
  let s := { s with light := { s.light with detection := s.light.detection ||| sourceBit p } }.setOut p false
  let s := s.logStatus stEyeSafety unitLight p 0 false none
  if (s.rport p).state = .training then s.failPort p stEyeSafety else s.portDown p stEyeSafety

/-- The causes of a detection that hold: the loss of laser input only where the output is enabled and the group is not shut, so that the
source emits; back-reflection in every state (R323, R324). -/
def State.openCause (s : State) (p : Nat) (cause : BitVec 2) : BitVec 2 :=
  if s.light.outEn.getLsbD p && !s.lshut (p / 8) then cause else cause &&& 2

/-- OPEN_FIBRE_DETECT: the monitors act wherever the floor is powered. -/
def execOpenFibreDetect (p : Fin 32) (cause : BitVec 2) (s : State) : LightOut :=
  let c := s.openCause p cause
  .next (if c ≠ 0 ∧ (s.lport p).eye ≠ .shut ∧ s.pins.vddAon then s.shutPort p c else s)

/-- A port's probe power switched; the write waits to be confirmed. -/
def State.setProbe (s : State) (p : Nat) (on : Bool) : State :=
  { s with light := { s.light with
      probe := if on then s.light.probe ||| (1#32 <<< p) else s.light.probe &&& ~~~(1#32 <<< p)
      writing := s.light.writing ||| sourceBit p
      disabling := if on then s.light.disabling else s.light.disabling ||| sourceBit p } }

/-- EYE_PROBE. -/
def execEyeProbe (p : Fin 32) (s : State) : LightOut :=
  .next (if (s.lport p).eye = .shut ∧ !(s.lport p).probing ∧ s.pins.vddAon then
    (s.updLight p fun o => { o with probing := true, probes := BitVec.ofNat 16 (min 65535 (o.probes.toNat + 1)) }).setProbe p true
  else s)

/-- EYE_PROBE_DONE: two passes in a row make the port CLOSED. -/
def execEyeProbeDone (p : Fin 32) (pass : Bool) (s : State) : LightOut :=
  .next (if (s.lport p).probing then
    (s.updLight p fun o => { o with
      probing := false
      passes := if pass then o.passes + 1 else 0
      eye := if pass ∧ o.passes = 1 then .closed else o.eye }).setProbe p false
  else s)

/-! ### The laser bus (R327) -/

/-- What source n is set to emit. -/
def Light.outputs (l : Light) (n : Nat) : BitVec 8 := ((l.outEn ||| l.probe) >>> (8 * n)).setWidth 8

/-- A write to source n confirmed. -/
def Light.confirm (l : Light) (n : Nat) : Light :=
  let keep := ~~~(1#4 <<< n)
  { l with
    writing := l.writing &&& keep
    disabling := l.disabling &&& keep
    enabling := l.enabling &&& ~~~(0xFF#32 <<< (8 * n))
    unconfirmed := l.unconfirmed &&& keep
    detection := l.detection &&& keep }

/-- LASER_BUS_CONFIRM: EMIT and FAULT of source n read. A write is confirmed when the outputs that emit are those that are
set, or, while LSHUT_N[n] is low, when none emits that is not set. -/
def execLaserBusConfirm (n : Fin 4) (emit fault : BitVec 8) (s : State) : LightOut :=
  let out := s.light.outputs n
  if fault ≠ 0 then
    .next { s with light := { s.light with
      lbusErr := s.light.lbusErr ||| (1#4 <<< n.val)
      unconfirmed := s.light.unconfirmed ||| (1#4 <<< n.val) } }
  else .next (if emit = out ∨ (s.lshut n ∧ emit &&& ~~~out = 0) then { s with light := s.light.confirm n } else s)

/-- LASER_BUS_TIMEOUT: a write not confirmed within 1 ms. Ports whose output it was to enable fail stage 1 (R321). -/
def execLaserBusTimeout (n : Fin 4) (s : State) : LightOut :=
  if !s.light.writing.getLsbD n then .next s
  else
    let bit := 1#4 <<< n.val
    let dis := s.light.disabling.getLsbD n
    let late := ((List.range 8).map (8 * n.val + ·)).filter fun p =>
      s.light.enabling.getLsbD p && decide ((s.rport p).state = .training) && decide ((s.rport p).stage = 1)
    let s := { s with light := { s.light with
      lbusErr := s.light.lbusErr ||| bit
      writing := s.light.writing &&& ~~~bit
      disabling := s.light.disabling &&& ~~~bit
      enabling := s.light.enabling &&& ~~~(0xFF#32 <<< (8 * n.val))
      unconfirmed := if dis then s.light.unconfirmed ||| bit else s.light.unconfirmed } }
    .next (late.foldl (fun (s : State) p => s.failPort p stMarginLow) s)

/-! ### The monitors (R311, R328) -/

/-- LGT_MON_CTRL as its home takes it (R328). -/
def State.writeMonitor (s : State) (value : Word32) : State :=
  let v := value.toNat
  if 10 < fieldOf v 27 4 then s.rsvdWrite
  else
    let s := s.rsvdIf (fieldOf v 20 5 != 0 || fieldOf v 5 11 != 0)
    let go := value.getLsbD 31
    { s with light := { s.light with
      monCtrl := value &&& 0x7E0F001F
      monBusy := s.light.monBusy || go
      monValid := s.light.monValid && !go } }

/-- LGT_MON_CTRL written. -/
def execMonitorReading (value : Word32) (s : State) : LightOut :=
  .next (if s.barOpen then s.anyWrite.writeMonitor value else s)

/-- The reading of a running measurement placed in LGT_MON_DATA. -/
def execMonitorReadingDone (value : BitVec 12) (s : State) : LightOut :=
  .next (if s.light.monBusy then
    { s with light := { s.light with monBusy := false, monValid := true, monValue := value } }
  else s)

end Sys2Proof.Machine
end

