-- ==== Sys2Proof/Machine/Tick.lean ====
section
/-! DEFINITION. What one 40 ns period of AON_CLK does while no command waits (DESIGN CHOICE, log entry 2): the chip-local
time, the gate credit, and the cycle counters of chapter 20 (R336, R338, R394, R397, R398). -/

namespace Sys2Proof.Machine

/-- A running attempt uses the cluster (R397). -/
def State.attemptUses (s : State) (g : Nat) : Bool :=
  match s.run with
  | none => false
  | some r => r.fault.isNone && !(s.cl g).unused
      && ((s.cl g).run = .running || (s.cl g).run = .halted || (s.cl g).run = .ended)

/-- CLS_STATE.CORE_STALL (Table 4-8). -/
def Cluster.coreStalled (c : Cluster) : Bool :=
  match c.stall with
  | some (.token _) => true
  | some (.slot _) => true
  | some (.queueFull _) => true
  | some .drained => true
  | _ => false

/-- The head of an engine is held by a clear wait token. -/
def Cluster.heldByToken (c : Cluster) (e : Engine) : Bool := ((c.head e).map fun q => !c.tokensReady q).getD false

/-- The head of MX meets conditions 1 and 2 of R76 and not 3. -/
def State.heldByGate (s : State) (g : Nat) : Bool :=
  let c := s.cl g
  ((c.head .mx).map fun q => c.tokensReady q && s.hasRoom g .mx q && !c.gateOpen .mx).getD false

/-- The cluster counters that a period adds 60 cycles to (Table 20-2). -/
def State.cycleCounters (s : State) (g : Nat) : List Nat :=
  let c := s.cl g
  let on (n : Nat) (b : Bool) : List Nat := if b then [n] else []
  let busy (e : Engine) : Bool := !(c.inFlight e).isEmpty
  [0] ++ on 1 (busy .mx) ++ on 3 (s.heldByGate g) ++ on 4 (busy .dr) ++ on 5 (busy .vx) ++ on 6 (busy .ld)
    ++ on 7 (busy .st) ++ on 8 (c.heldByToken .ld) ++ on 9 (c.heldByToken .st) ++ on 10 (c.heldByToken .mx)
    ++ on 11 (c.heldByToken .dr) ++ on 12 (c.heldByToken .vx) ++ on 13 c.coreStalled ++ on 16 c.asleep

/-- A cluster whose ballast falls due runs its clock again (R334). -/
def State.wakeForBallast (s : State) (g : Nat) : State :=
  if (s.cl g).asleep && s.ballastCycles g != 0 then s.updCl g fun c => { c with asleep := false, idleCycles := 0 } else s

/-- A cluster's part of a period. -/
def State.tickCluster (s : State) (g : Nat) : State :=
  let s := s.wakeForBallast g
  let b := s.ballastCycles g
  let mx := !((s.cl g).inFlight .mx).isEmpty
  let s' :=
    if s.attemptUses g then
      let s1 := (s.cycleCounters g).foldl (fun t n => t.count (ctrCluster g n) 60) s
      (if b = 0 then s1 else s1.count (ctrCluster g 2) b).updCl g fun c => { c with cycle := c.cycle + 60 }
    else s
  s'.updCl g fun c => { c with gate := { c.gate with
    credit := min 0 (c.gate.credit + 60 * (c.gate.g : Int))
    busy := c.gate.busy + (if mx then 60 else 0)
    ballast := c.gate.ballast + b } }

/-- An instance's part of a period in the collective table (R398): 40 base-die cycles. -/
def State.tickColl (s : State) (n : CollInstance) : State :=
  if n.sends.any fun x => x.tag.isNone then s.count (ctrColl n.collId 0) 40
  else if n.recvs.any fun x => x.taken * 1248 < x.bytes then s.count (ctrColl n.collId 1) 40
  else s

/-- The instances that wait: those of the attempt, until a fault has ended it (R92, R398). -/
def State.waitingColls (s : State) : List CollInstance :=
  match s.run with
  | some r => if r.fault.isSome then [] else r.colls
  | none => []

/-- Events that the spec leaves to refresh, to symbol errors or to the cycle: a free number of them in the period (R397, log entry 5). -/
def State.countFree (s : State) (off : Nat) : State := s.count off (Config.events off s.cnt.regs.time.toNat)

/-- A floor-link direction's part of a period: STALL counts while its slot counter is stopped (R319, R397); else the link carries the
Nelhan's own traffic of slot 63 and corrects symbols. -/
def State.tickFloor (s : State) (d : Nat) : State :=
  if s.floorStopped d then s.count (ctrFloor d 2) 40
  else if s.floorLit then (s.countFree (ctrFloor d 0)).countFree (ctrFloor d 1)
  else s

/-- A stack's part of a period: refresh while it is ON, and, while an attempt runs, owned phases without an access and accesses that do not
fit in one (R89, R397). -/
def State.tickStack (s : State) (st : Nat) : State :=
  if (s.seq (stackDomain st)).state = .on then
    let s := s.countFree (ctrHbm st 3)
    if (s.run.map fun r => r.fault.isNone).getD false then (s.countFree (ctrHbm st 4)).countFree (ctrHbm st 6) else s
  else s

/-- Frame times of Table 14-1, in sixteenths of a nanosecond. -/
def frameTime (lanes : Nat) : Nat := if 16 ≤ lanes then 90 else if lanes = 15 then 96 else 103

/-- Frames that a direction with so many lanes carries in the period of 40 ns after a chip-local time. -/
def framesIn (lanes : Nat) (time : Word64) : Nat :=
  640 * (time.toNat + 1) / frameTime lanes - 640 * time.toNat / frameTime lanes

/-- A port sends TYPE 6 frames with its identity record (R269). -/
def Port.trains (o : Port) : Bool := decide (o.state = .training) && decide (3 ≤ o.stage)

/-- A Runner port's part of a period: a port in service that has nothing else to send sends idle frames (R264), and a port in stages 3 to 6
of its training sends its identity record (R269). The frames that commands send take no time in the model (DESIGN CHOICE, log entry 6). -/
def State.tickPort (s : State) (p : Nat) : State :=
  let n := framesIn (lanesOf (s.lport p).txLanes).length s.cnt.regs.time
  if (s.rport p).state.inService then (List.range n).foldl (fun s _ => s.emitIdle p) s
  else if (s.rport p).trains then (List.range n).foldl (fun s _ => s.sendIdentity p 0) s
  else s

/-- One period of AON_CLK, as which the cycle of a fault ends (R92). -/
def idleTick (s : State) : State :=
  if s.pins.vddAon && s.pins.aonClk then
    let s := s.closeCycle
    let s1 :=
      if s.boot.phase = .ready then
        let t := ((List.range 128).filter fun g => s.clusterOn g).foldl (fun t g => t.tickCluster g) s
        (List.range 32).foldl State.tickPort
          ((List.range 8).foldl State.tickStack ([0, 1].foldl State.tickFloor (s.waitingColls.foldl State.tickColl t)))
      else s
    { s1 with cnt := { s1.cnt with regs := { s1.cnt.regs with time := s1.cnt.regs.time + 1 } } }
  else s

end Sys2Proof.Machine
end

