-- ==== Sys2Proof/Machine/Recovery.lean ====
section
/-! DEFINITION. Channel resets (R249), the recovery of the ledger (R251 to R253), lost Riser copies (R255 to R257), the
Sprue's takeover (R247), and cluster faults (R10 to R12). -/

namespace Sys2Proof.Machine

/-! ### Channel resets (R249, R258) -/

/-- The running pour that a channel reset acts on. -/
def State.resettable (s : State) (port : HostPort) (c : Nat) : Option Running :=
  match s.runningOf c with
  | none => none
  | some r => if (s.chan c).owner = port ∧ !isChannelOp r.body.opcode then some r else none

/-- The attempt of a RUN that a channel reset ends. Once this rank has voted, the reset finds nothing to end. -/
def State.resetRun (s : State) (abandon : Bool) : State :=
  match s.run with
  | none => s
  | some r =>
    if r.votedUp then s
    else
      let replay := !abandon && (s.entry r.entry).restartable
      match r.fault with
      | none => s.stopAttempt stSlotCollision replay
      | some (_, true) => { s with run := some { r with fault := some (stSlotCollision, replay) } }
      | some (_, false) => s

/-- A channel reset on its pour. Another pour than a RUN is set to start again, or ends at once, as does a RUN that is not
restartable (R258); its writes that wait for the host are dropped. -/
def State.channelReset (s : State) (c : Nat) (r : Running) (abandon : Bool) : State :=
  if r.cls = .run ∧ r.outcome.isNone ∧ (s.run.map fun (x : RunCtx) => decide (x.chan = c)).getD false then s.resetRun abandon
  else if abandon || (r.cls == .run && !(s.entry r.entry).restartable) then
    (s.updRunning c fun r => { r with out := [], planned := none }).fix c (faultedWith stSlotCollision)
  else s.setRunning c none

/-- A channel reset as its home takes it (R249, R260). -/
def State.writeReset (s : State) (port : HostPort) (c : Nat) (abandon : Bool) : State :=
  match s.resettable port c with
  | none => s.addStray
  | some r => s.staleKept.channelReset c r abandon

/-- RSR_CHAN_RESET written with ABANDON 0. -/
def execChannelReset (port : HostPort) (c : Fin 64) (s : State) : PourOut :=
  .next (if !s.hostReach port then s.notReached port
    else (s.hostTlp port false 4).writeReset port c.val false)

/-- RSR_CHAN_RESET written with ABANDON 1. -/
def execChannelResetAbandon (port : HostPort) (c : Fin 64) (s : State) : PourOut :=
  .next (if !s.hostReach port then s.notReached port
    else (s.hostTlp port false 4).writeReset port c.val true)

/-! ### The line rule of R253 -/

/-- An entry's version is greater in the order (POUR, state, ATTEMPTS, CHARGED). -/
def Entry.above (a b : Entry) : Bool :=
  let key (e : Entry) : Nat := ((e.pour.toNat * 8 + e.state.rank) * 8 + e.attempts % 8) * 8 + e.charged % 8
  key b < key a

/-- The version of an entry that recovery keeps. -/
def mergeEntry (a b : Entry) : Entry :=
  if a = b then a
  else if a.state = .accepted ∧ a.pour ≠ b.pour then b
  else if b.state = .accepted ∧ a.pour ≠ b.pour then a
  else if b.above a then b else a

/-- The version of a commit slot that recovery keeps: a valid one, of two the one of the later EPOCH modulo 2^32 (R245). -/
def mergeSlot (a b : Option CommitSlot) : Option CommitSlot :=
  match a, b with
  | some x, some y => if 0 < (y.epoch - x.epoch).toInt then some y else some x
  | some x, none => some x
  | none, y => y

/-- The version of a pattern record slot that recovery keeps: a valid one, of two the one of the greater EPOCH (R245). -/
def mergeRecord (a b : Option CommitSlot) : Option CommitSlot :=
  match a, b with
  | some x, some y => if x.epoch.toNat < y.epoch.toNat then some y else some x
  | some x, none => some x
  | none, y => y

/-- What two copies have of a line: the version that `merge` keeps of two valid ones, the valid one, or `lost`. -/
def linePick {α : Type} (a b : RiserCopy) (l : RLine) (lost : α) (merge : α → α → α) (f : Ledger → α) : α :=
  match a.valid l, b.valid l with
  | true, true => merge (f a.data) (f b.data)
  | true, false => f a.data
  | false, true => f b.data
  | false, false => lost

/-- What two copies have of an entry. An ACCEPTED version whose other copy is torn is present in one copy only, and discarded. -/
def entryPick (a b : RiserCopy) (i : Nat) : Entry :=
  let e := linePick a b (.entry i) Entry.free mergeEntry fun l => Tab.get Entry.free l.entries i
  if a.valid (.entry i) = b.valid (.entry i) ∨ e.state ≠ .accepted then e else Entry.free

/-- Of two versions that R253 does not choose between, the one of copy 0 (DESIGN CHOICE, log entry 73). -/
def firstOf {α : Type} (a _ : α) : α := a

/-- COUNTER, ACTIVE and PENDING of the boot record. -/
def Ledger.bootRecord (l : Ledger) : BitVec 16 × Bool × Bool := (l.rollback, l.bootActive, l.bootPending)

/-- Of two versions of the boot record the one of the greater COUNTER, which never decreases (R354: DESIGN CHOICE, log entry 73). -/
def laterRecord (a b : BitVec 16 × Bool × Bool) : BitVec 16 × Bool × Bool := if a.1.toNat < b.1.toNat then b else a

/-- The boot record that two copies have. -/
def bootPick (a b : RiserCopy) : BitVec 16 × Bool × Bool := linePick a b .bootRecord Ledger.fresh.bootRecord laterRecord Ledger.bootRecord

/-- Of two versions of a channel's record the one of copy 0, with the energy of the pours that either shows as DONE (R347). -/
def mergeChan (a b : ChanRec) : ChanRec :=
  if a.state = .closed then a else { a with energy := if a.energy.toNat < b.energy.toNat then b.energy else a.energy }

/-- Two copies of the ledger line by line (R239, R253). -/
def mergeLedger (a b : RiserCopy) : Ledger :=
  let z := Ledger.fresh
  { entries := (List.range 1024).foldl (fun t i => Tab.put Entry.free t i (entryPick a b i)) []
    chans := (List.range 64).foldl (fun t c => Tab.put ChanRec.closed t c
      (linePick a b (.chan c) ChanRec.closed mergeChan fun l => Tab.get ChanRec.closed l.chans c)) []
    slots := (List.range 128).foldl (fun t k => Tab.put none t k
      (linePick a b (.slot k) none mergeSlot fun l => Tab.get none l.slots k)) []
    precs := (List.range 32).foldl (fun t k => Tab.put none t k
      (linePick a b (.record k) none mergeRecord fun l => Tab.get none l.precs k)) []
    maps := (List.range 32).foldl (fun t k => Tab.put 0 t k (linePick a b (.map k) 0 firstOf fun l => Tab.get 0 l.maps k)) []
    rollback := (bootPick a b).1
    bootActive := (bootPick a b).2.1
    bootPending := (bootPick a b).2.2
    lmsQ := linePick a b .lms z.lmsQ max Ledger.lmsQ
    topNodes := linePick a b .lmsNodes z.topNodes firstOf Ledger.topNodes
    retired0 := linePick a b .retired z.retired0 firstOf Ledger.retired0
    retired1 := linePick a b .retired z.retired1 firstOf Ledger.retired1
    health := linePick a b .health z.health firstOf Ledger.health
    trip := linePick a b .trip z.trip firstOf Ledger.trip
    flask := linePick a b .flask z.flask firstOf Ledger.flask }

/-- The lines of a copy that the model holds. -/
def allLines : List RLine :=
  (List.range 1024).map .entry ++ (List.range 64).map .chan ++ (List.range 128).map .slot ++ (List.range 32).map .record
    ++ (List.range 32).map .map ++ [.bootRecord, .lms, .lmsNodes, .retired, .health, .trip, .flask]

/-- Two ledgers say the same in a line. -/
def Ledger.sameLine (a b : Ledger) : RLine → Bool
  | .entry i => Tab.get Entry.free a.entries i = Tab.get Entry.free b.entries i
  | .chan c => Tab.get ChanRec.closed a.chans c = Tab.get ChanRec.closed b.chans c
  | .slot k => Tab.get none a.slots k = Tab.get none b.slots k
  | .record k => Tab.get none a.precs k = Tab.get none b.precs k
  | .map k => Tab.get 0 a.maps k = Tab.get 0 b.maps k
  | .bootRecord => a.bootRecord = b.bootRecord
  | .lms => a.lmsQ = b.lmsQ
  | .lmsNodes => a.topNodes = b.topNodes
  | .retired => a.retired0 = b.retired0 ∧ a.retired1 = b.retired1
  | .health => a.health = b.health
  | .trip => a.trip = b.trip
  | .flask => a.flask = b.flask

/-- Line writes that recovery makes to a copy: the lines in which the copies differ, and those that are not valid in it (R253, R255). -/
def RiserCopy.mergeWrites (c o : RiserCopy) : Nat :=
  ((allLines.filter fun l => !c.valid l || (o.valid l && !Ledger.sameLine c.data o.data l)).map lineSize).foldl (· + ·) 0

/-- Both copies in service take the chosen lines; a line that was invalid in one of them is counted (R255). -/
def State.mergeCopies (s : State) : State :=
  let a := s.riser.copy0
  let b := s.riser.copy1
  if a.state = .inService ∧ b.state = .inService then
    let l := mergeLedger a b
    { s with riser := { s.riser with
        copy0 := RiserCopy.whole a.die a.spare l
        copy1 := RiserCopy.whole b.die b.spare l
        writes := b.countWrites (b.mergeWrites a) (a.countWrites (a.mergeWrites b) s.riser.writes)
        repaired := s.riser.repaired + (a.bad ++ b.bad).length } }
  else s

/-! ### A reset between two line writes (R240, R412, R415) -/

/-- The ledger as its first `k` copy writes of this period have left it: of each line the copy on the die of the Sprue in service first,
then the other. The patterns, the receipts and the energies of the pours are those that the Nelhan held then. `tear`: the write that was
being made is torn. -/
def State.cut (s : State) (k : Nat) (tear : Bool) : State :=
  let ms := s.trail.filter fun m => m.time = s.cnt.regs.time
  let r := s.riser
  let before (i : Nat) : LineMark :=
    (ms[i]?).getD ⟨s.cnt.regs.time, .health, r.copy0.data, r.copy1.data, s.patterns, s.assay.receipts, s.power.pours⟩
  if 2 * ms.length ≤ k then s
  else
    let b := before (k / 2)
    let half := decide (k % 2 = 1)
    let a := if half then before (k / 2 + 1) else b
    let first0 := decide (r.current s.sprue.activeB1 = r.copy0)
    let back (c : RiserCopy) (l : Ledger) (writing : Bool) : RiserCopy :=
      if c.state = .inService then { c with data := l, bad := if tear && writing then b.line :: c.bad else c.bad } else c
    { s with
      riser := { r with
        copy0 := back r.copy0 (if first0 then a.copy0 else b.copy0) (first0 != half)
        copy1 := back r.copy1 (if first0 then b.copy1 else a.copy1) (first0 == half) }
      patterns := a.patterns
      power := { s.power with pours := a.pours }
      assay := { s.assay with receipts := a.receipts } }

/-- A reset that finds the ledger writes of this period anywhere between their first and their last; how far they have come is open.
`tears`: the supplies may leave their ranges before the write being made completes (R415). -/
def State.cutShort (s : State) (tears : Bool) : State :=
  match s.trail.filter fun m => m.time = s.cnt.regs.time with
  | [] => s.linesDone
  | m :: ms =>
    let (v, s) := s.drawFree
    (s.cut (v.toNat / 2 % (2 * (m :: ms).length + 1)) (tears && v.getLsbD 0)).linesDone

/-! ### Recovery (R251 to R253) -/

/-- The entries of a channel in use in pour order, with their index. -/
def State.heldInOrder (s : State) (c : Nat) : List (Nat × Entry) :=
  ((s.heldEntries c).foldl (fun (t : Tab (Nat × Entry)) e => Tab.insert e.2.pour.toNat e t) []).map (·.2)

/-- An entry surrendered (R253). -/
def Entry.surrender (e : Entry) (epoch : Word32) (now : Word64) : Entry :=
  { e with
    status := stSurrendered
    detail := if e.started then 1 else 0
    epoch := epoch
    replayed := false
    energy := 0
    tsStart := 0
    tsDone := now
    state := .done }

/-- An entry as a loss of power leaves it. -/
def State.recoverEntry (s : State) (c : Nat) (e : Entry) : Entry :=
  let cur := (s.curSlot c).map fun x => x.2.pour
  if e.state = .ending ∧ isEpochOp e.opcode.toNat ∧ cur ≠ some e.pour then e.surrender (s.epochOf c) s.cnt.regs.time
  else if e.state = .ending ∨ e.state = .done then { e with state := .done }
  else e.surrender (s.epochOf c) s.cnt.regs.time

/-- An entry as a warm reset leaves it (Table 13-6). -/
def State.warmEntry (s : State) (c : Nat) (e : Entry) : Entry :=
  if e.state = .ending then
    if isEpochOp e.opcode.toNat ∧ ((s.curSlot c).map fun x => x.2.pour) ≠ some e.pour then { e with state := .running }
    else { e with state := .done }
  else e

/-- The RUN whose commit a warm reset has cut off, and that may not be replayed: it ends faulted (R258). -/
def State.cutRun (s : State) (c : Nat) (e : Nat × Entry) : State :=
  let x := s.entry e.1
  if x.opcode.toNat = opRun ∧ !x.restartable ∧ x.state = .running ∧ (s.runningOf c).isNone then
    s.setRunning c (some ⟨e.1, s.bodyOf e.1, .run, some (faultedWith stSlotCollision), none, 0, [], [], none⟩)
  else s

/-- An entry as recovery leaves it, with the channel's energy where it becomes DONE (R347). -/
def State.recoverOne (s : State) (cold : Bool) (c : Nat) (e : Nat × Entry) : State :=
  let x := if cold then s.recoverEntry c e.2 else s.warmEntry c e.2
  let s := if x = e.2 then s else s.updEntry e.1 fun _ => x
  if e.2.state ≠ .done ∧ x.state = .done then s.noteChan c fun ch => { ch with energy := ch.energy + x.energy }
  else if cold then s else s.cutRun c e

/-- A channel's last accepted pour and its opcode from its entries (R253). -/
def State.recoverCount (s : State) (c : Nat) : State :=
  match (s.heldInOrder c).getLast? with
  | some (_, e) => s.noteChan c fun ch => { ch with accepted := e.pour, lastOp := e.opcode }
  | none => s.noteChan c fun ch => { ch with accepted := ch.acked }

/-- The replies that a channel's ring takes after a reset (R252): copies of the final replies written before it, then the
final replies not written yet. -/
def State.requeue (s : State) (c : Nat) : State :=
  let es := ((s.heldInOrder c).map (·.2)).filter fun e => e.state = .done
  let old := es.filter fun e => e.pour.toNat ≤ (s.chan c).replied.toNat
  let s := old.foldl (fun s e => s.queueReply c { replyOf e with final := false }) s
  (es.filter fun e => (s.chan c).replied.toNat < e.pour.toNat).foldl (fun s e => s.queueFinal c e) s

/-- The order of acceptance as the entries tell it. -/
def State.recoverOrder (s : State) : State :=
  let held := s.ledger.entries.filter fun e => e.2.state != .free
  let t := held.foldl (fun (t : Tab Nat) e =>
    Tab.insert ((e.2.tsAccept.toNat * 2 ^ 64 + e.2.pour.toNat) * 1024 + e.1) e.1 t) []
  { s with accepted := t.map (·.2) }

/-- The writes after the commit point that a pour in ENDING had not made, but for its DONE: an unload's (R246). -/
def State.completeWrites (s : State) (c : Nat) (e : Entry) : State :=
  match s.curSlot c with
  | some (_, sl) =>
    if e.state = .ending ∧ e.opcode.toNat = opPatternUnload ∧ sl.pour = e.pour then
      (s.unload sl.handle.toNat).dropRecords sl.handle.toNat
    else s
  | none => s

/-- A channel recovered after a loss of power, or by a warm boot. -/
def State.recoverChannel (s : State) (cold : Bool) (c : Nat) : State :=
  if (s.chan c).state = .closed then s
  else
    let es := s.heldInOrder c
    let s := es.foldl (fun (t : State) (e : Nat × Entry) => t.completeWrites c e.2) s
    let s := es.foldl (fun (t : State) (e : Nat × Entry) => t.recoverOne cold c e) s
    (s.recoverCount c).requeue c

/-! ### PROVEN (R256) -/

/-- The final outcome of a pour stands: DONE, or ENDING past its commit point. -/
def State.outcomeFixed (s : State) (c : Nat) (e : Entry) : Bool :=
  e.state = .done
    || (e.state = .ending && !(isEpochOp e.opcode.toNat && ((s.curSlot c).map fun x => x.2.pour) != some e.pour))

/-- PROVEN of a channel: the greatest pour number up to which every outcome can be shown. -/
def State.provenOf (s : State) (c : Nat) : Word64 :=
  (s.heldInOrder c).foldl (fun p e => if e.2.pour = p + 1 ∧ s.outcomeFixed c e.2 then p + 1 else p) (s.chan c).acked

/-- What the lines still readable show after a loss of power in the RISER_LOST state: PROVEN is computed from them alone. -/
def State.recoverLost (s : State) : State :=
  let s := { s with
    riser := { s.riser with work := mergeLedger s.riser.copy0 s.riser.copy1 }
    patterns := []
    kept := none }
  { s with riser := { s.riser with
      proven := s.riser.unknown.foldl (fun t e => Tab.put 0 t e.1 (s.provenOf e.1)) [] } }

/-- The ledger recovered at stage 3 of a boot. After a loss of power every pattern is unloaded, with its record slots. -/
def State.recover (s : State) (cold : Bool) : State :=
  let s := { s with chans := s.chans.map fun (e : Nat × Chan) => (e.1, { e.2 with rhead := 0, rtail := 0, replyQ := [], dups := [] }) }
  if s.riser.lost then (if cold then s.recoverLost else s)
  else
    let s := s.mergeCopies
    let s := if cold then
        { (List.range 16).foldl (fun (s : State) h => s.dropRecords (h + 1)) s with patterns := [], kept := none }
      else s
    ((List.range 64).foldl (fun (s : State) (c : Nat) => s.recoverChannel cold c) s).recoverOrder

/-! ### Riser copies (R255, R256) -/

/-- A copy by its number. -/
def Riser.copy (r : Riser) (n : Fin 2) : RiserCopy := if n = 0 then r.copy0 else r.copy1
def Riser.otherCopy (r : Riser) (n : Fin 2) : RiserCopy := if n = 0 then r.copy1 else r.copy0

/-- A copy replaced. -/
def Riser.setCopy (r : Riser) (n : Fin 2) (c : RiserCopy) : Riser :=
  if n = 0 then { r with copy0 := c } else { r with copy1 := c }

/-- The RISER_LOST state entered (R256): pours stop, bound packets are refused, and nothing further commits. -/
def State.loseRiser (s : State) : State :=
  let open_ := (List.range 64).filter fun c => (s.chan c).state ≠ .closed
  let proven := open_.foldl (fun t c => Tab.put 0 t c (s.provenOf c)) []
  let unknown := open_.foldl (fun t c => Tab.put 0 t c (s.chan c).accepted) []
  let bound := s.intake.bound
  let s := match s.runPattern with
    | some p => s.markEnded p
    | none => s
  let s := { s.stopClusters.linesDone with
    running := []
    run := none
    riser := { s.riser with proven := proven, unknown := unknown }
    intake := { s.intake with bound := [], held := 0 }
    chans := s.chans.map fun (e : Nat × Chan) => (e.1, { e.2 with replyQ := e.2.replyQ.filter (·.refused), dups := [] })
    err := { s.err with intakeStall := 0 } }
  (bound.foldl (fun s b => s.refuse b.packet stRiserLost) s).pourOver

/-- A rebuild of a copy started in a spare region: that of its own die while the die answers, else that of the other; none
that has failed or is in use (R255). -/
def Riser.startRebuild (r : Riser) (n : Fin 2) (now : Word64) : Riser :=
  let c := r.copy n
  let o := r.otherCopy n
  let usable (die : Bool) : Bool := !r.failed.getLsbD (mramRegion die true) && !(o.die == die && o.spare)
  let target := if usable c.die then some c.die else if usable (!c.die) then some (!c.die) else none
  match target with
  | some die => { (r.setCopy n { c with state := .rebuilding, die := die, spare := true }) with rebuildAt := now }
  | none => r

/-- Lines that the rebuild in progress has copied (R255: 2,048 within 25 ms). -/
def Riser.linesCopied (r : Riser) (now : Word64) : Nat :=
  min 2048 ((now - r.rebuildAt).toNat * (2048 + Config.rebuildPace) / 625000)

/-- A copy lost: a write of one of its lines has failed, or (none) its die's MRAM has stopped answering. -/
def Riser.loseCopy (r : Riser) (line : Option RLine) (n : Fin 2) : Riser :=
  let c := r.copy n
  let gone := match line with
    | some _ => 1#4 <<< mramRegion c.die c.spare
    | none => 3#4 <<< mramRegion c.die false
  { r.setCopy n { c with
      state := .lost
      bad := line.toList ++ c.bad
      held := if line.isNone then 0 else c.held } with failed := r.failed ||| gone }

/-- A rebuild cut off: its target holds the lines that had been copied. -/
def Riser.cutRebuild (r : Riser) (now : Word64) : Riser :=
  let back (c o : RiserCopy) : RiserCopy :=
    if c.state = .rebuilding then { c with state := .lost, data := o.data, bad := [], held := min o.held (r.linesCopied now) } else c
  let made (c : RiserCopy) (t : Tab Nat) : Tab Nat := if c.state = .rebuilding then c.countWrites (r.linesCopied now) t else t
  { r with
    copy0 := back r.copy0 r.copy1
    copy1 := back r.copy1 r.copy0
    writes := made r.copy1 (made r.copy0 r.writes) }

/-- RISER_WRITE_FAIL: a line write to a copy has failed verification three times, or (no line) the MRAM of its die has stopped answering,
and what lies on that die is lost with it. With no copy left in service the RISER_LOST state begins (R255, R256). With PWRGD_MAIN low no
line is written (R424). -/
def execRiserWriteFail (copy : Fin 2) (line : Option RLine) (s : State) : PourOut :=
  let r := s.riser
  if !s.clocked ∨ r.lost ∨ (r.copy copy).state = .lost then .next s
  else
    let o : Fin 2 := 1 - copy
    let both := decide (line = none ∧ (r.copy o).state ≠ .lost ∧ (r.copy o).die = (r.copy copy).die)
    let lost := copy :: (if both then [o] else [])
    let r' := lost.foldl (fun r n => r.loseCopy line n) r
    let left := decide (r'.copy0.state = .inService ∨ r'.copy1.state = .inService)
    let s := { s with riser :=
      if left then lost.foldl (fun r n => r.startRebuild n s.cnt.regs.time) r'
      else { r'.cutRebuild s.cnt.regs.time with lost := true, work := s.ledger } }
    let s := lost.foldl (fun (s : State) n => (s.logStatus stMirrorLost unitRiser n.val 0 false none).addLocal 300) s
    .next (if left then s else (s.logStatus stRiserLost unitRiser copy.val 0 false none).loseRiser)

/-- RISER_REBUILD_DONE: the target holds what the surviving copy does, and returns to service; its 2,048 lines have been written (R259).
With PWRGD_MAIN low no line is written (R424). -/
def execRiserRebuildDone (s : State) : PourOut :=
  let r := s.riser
  if !s.clocked then .next s
  else if r.copy0.state = .rebuilding then
    .next { s with riser := { r with
      copy0 := RiserCopy.whole r.copy0.die r.copy0.spare r.copy1.data
      writes := r.copy0.countWrites 2048 r.writes } }
  else if r.copy1.state = .rebuilding then
    .next { s with riser := { r with
      copy1 := RiserCopy.whole r.copy1.die r.copy1.spare r.copy0.data
      writes := r.copy1.countWrites 2048 r.writes } }
  else .next s

/-- A position is out of use: on the retired list where it can be read, or retired with a fault that waits, or neither mapped
nor a spare that is free or under BIST. -/
def State.outOfUse (s : State) (die : Bool) (pos : Nat) : Bool :=
  s.isRetired die pos || (s.ident.waiting.any fun w => w.retired && onB1 w.g == die && w.pos == pos)
    || ((s.clusterAt die pos).isNone && !(s.ident.spares die).contains pos && s.ident.bist die != some pos)

/-- The retired list of a die as the working map tells it (R13, R257). -/
def State.workingRetired (s : State) (die : Bool) : BitVec 66 :=
  BitVec.ofNat 66 (((List.range 66).map fun p => if s.outOfUse die p then 2 ^ p else 0).foldl (· + ·) 0)

/-- The ledger that RSR_REINIT writes (R257, R366). -/
def State.freshLedger (s : State) : Ledger :=
  let burnt := ((List.range 32).filter fun i => s.assay.otp.watermark.getLsbD i).length
  { Ledger.fresh with
    rollback := s.assay.image.svn
    bootActive := s.assay.image.slot
    lmsQ := 1024 * (burnt + 1)
    retired0 := s.workingRetired false
    retired1 := s.workingRetired true
    health := s.err.health
    trip := linePick s.riser.copy0 s.riser.copy1 .trip none firstOf Ledger.trip
    flask := s.runner.flask }

/-- The regions for two fresh copies, of those that pass. -/
def reinitRegions (pass : BitVec 4) : Option (Nat × Nat) :=
  match [0, 1, 2, 3].find? fun i => pass.getLsbD i with
  | none => none
  | some a => ([2, 3, 1, 0].find? fun i => pass.getLsbD i && i != a).map fun b => (a, b)

/-- Two fresh copies in the regions that pass (R257); with fewer than two the RISER_LOST state stays. -/
def State.reinit (s : State) (pass : BitVec 4) : State :=
  match reinitRegions pass with
  | none => { s with riser := { s.riser with failed := ~~~pass } }
  | some (a, b) =>
    let l := s.freshLedger
    let mk (i : Nat) : RiserCopy := RiserCopy.whole (decide (2 ≤ i)) (decide (i % 2 = 1)) l
    { s with
      riser := { s.riser with
        copy0 := mk a
        copy1 := mk b
        lost := false
        work := Ledger.fresh
        failed := ~~~pass
        proven := []
        unknown := []
        writes := [a, b].foldl (fun t i => Tab.upd 0 t i (· + 2048)) s.riser.writes }
      patterns := []
      kept := none
      accepted := []
      chans := s.chans.map fun (e : Nat × Chan) => (e.1, { e.2 with replyQ := [], dups := [] })
      assay := { s.assay with receipts := [], exhausted := s.assay.exhausted || decide (32768 ≤ l.lmsQ) }
      power := { s.power with pours := [] } }

/-- RSR_REINIT as its home takes it (R256, R260); `pass`: the regions that pass the test. A stopped Nelhan, which may have no image to
take COUNTER from, does not act on it (DESIGN CHOICE, log entry 71). -/
def State.writeReinit (s : State) (value : Word32) (pass : BitVec 4) : State :=
  let s := s.rsvdIf (fieldOf value.toNat 1 15 != 0)
  if s.boot.phase ≠ .ready then s
  else if !s.riser.lost ∨ fieldOf value.toNat 16 16 ≠ 0x5249 ∨ !value.getLsbD 0 then s.addStray else s.reinit pass

/-- RSR_REINIT written. -/
def execRsrReinit (port : HostPort) (value : Word32) (pass : BitVec 4) (s : State) : PourOut :=
  .next (if !s.hostReach port then s.notReached port
    else (s.hostTlp port false 4).writeReinit value pass)

/-! ### The Sprue pairs (R215, R247) -/

/-- A Sprue pair noted as failed. -/
def Sprue.fail (u : Sprue) (b1 : Bool) : Sprue := { u with failed0 := u.failed0 || !b1, failed1 := u.failed1 || b1 }

/-- SPRUE_TAKEOVER: the standby serves from then on, with the state it already holds. -/
def execSprueTakeover (s : State) : PourOut :=
  .next (if s.sprue.standbyReady && s.clocked then
    ({ s with sprue := { s.sprue.fail s.sprue.activeB1 with activeB1 := !s.sprue.activeB1, standbyReady := false } }).addLocal 300
  else s)

/-- STANDBY_SPRUE_FAILURE. -/
def execStandbySprueFailure (s : State) : PourOut :=
  .next { s with sprue := { s.sprue.fail (!s.sprue.activeB1) with standbyReady := false } }

/-- The Sprue at a cold boot (R247): both pairs, unless the one that had failed is not found working. -/
def Sprue.boot (u : Sprue) (works : Bool) : Sprue :=
  if works ∨ (!u.failed0 ∧ !u.failed1) then ⟨false, true, false, false⟩
  else if u.failed0 ∧ !u.failed1 then ⟨true, false, true, false⟩
  else ⟨false, false, false, true⟩

/-! ### Cluster faults (R10 to R12) -/

/-- The fault of the cluster at a mapped position: of a running pour, or of none (R10). -/
def State.clusterFault (s : State) (g pos : Nat) (status : BitVec 16) : State :=
  let hit := s.attemptUses g || (match s.run with
    | some r => (match r.fault with | some (_, true) => true | _ => false) && !(s.cl g).unused
    | none => false)
  if hit then
    let s := if isLogStatus status then s.logStatus status unitCluster g 0 false s.runPour else s
    let s := s.eventEnds status true
    let s := s.updCl g fun c => { c with fault := ⟨true, BitVec.ofNat 4 srcCore, status, c.pc.setWidth 18, 0⟩ }
    s.queueFault g pos status true
  else (s.logStatus stUncorrectable unitCluster g 0 false none).queueFault g pos status false

/-- The status of the fault that a die's next cluster to be mapped would fault its pour with (R12). -/
def State.restatus (s : State) (die : Bool) (status : BitVec 16) : State :=
  match s.leastWaiting die with
  | none => s
  | some v => { s with ident := { s.ident with
      waiting := s.ident.waiting.map fun (w : WaitingFault) => if w.g = v.g then { w with status := status } else w } }

/-- The fault of a position: of the cluster mapped to it, of a spare under BIST, or of a free spare, which is only retired; a
position out of use has none. The log gives a spare's fault INDEX 0, since no logical cluster stands at it (R10: DESIGN CHOICE,
log entry 71). -/
def State.positionFault (s : State) (die : Bool) (pos : Nat) (status : BitVec 16) : State :=
  let logged := s.logStatus stUncorrectable unitCluster 0 0 false none
  match s.clusterAt die pos with
  | some g => s.clusterFault g pos status
  | none =>
    if s.ident.bist die = some pos then (logged.restatus die status).spareFails die pos
    else if (s.ident.spares die).contains pos then logged.retire die pos
    else s

/-- CLUSTER_FAULT. -/
def execClusterFault (die : Fin 2) (pos : Fin 66) (fault : DataFault) (s : State) : PourOut :=
  .next (if s.boot.phase = .ready then s.positionFault (die.val = 1) pos.val fault.status else s)

/-- SPARE_BIST_DONE (R10 step 4, R11). The replay is the RUN that starts again. -/
def execSpareBistDone (die : Fin 2) (pos : Fin 66) (pass : Bool) (s : State) : PourOut :=
  .next (if s.ident.bist (die.val = 1) = some pos.val then
    (if pass then s.sparePasses (die.val = 1) pos.val else s.spareFails (die.val = 1) pos.val)
  else s)

end Sys2Proof.Machine
end

