-- ==== Sys2Proof/Machine/Health.lean ====
section
/-! DEFINITION. Fettle (R383), the health score (R389, R390), the counter shadow (R395), bandwidth windows (R399) and
CNT_SAMPLE_CTRL (R402, R404). -/

namespace Sys2Proof.Machine

abbrev HealthOut := Host.Outcome State Fault Refusal

/-! ### The CNT registers that a host writes -/

/-- A loaded pattern has a collective of this number (R398). -/
def State.usesColl (s : State) (i : Nat) : Bool :=
  s.patterns.any fun e => (e.2.map fun p => decide (i < p.colls.length)).getD false

/-- The counters as they read: those of unmapped logical clusters and of collectives that no pattern uses are zero
(R396, R398). -/
def State.shownCounters (s : State) : CntRegs :=
  { s.cnt.regs with ctr := s.cnt.regs.ctr.filter fun e =>
      if e.1 < 0x10000 then true
      else if e.1 < 0x20000 then s.mapped ((e.1 - 0x10000) / 0x200)
      else s.usesColl ((e.1 - 0x20000) / 0x10) }

/-- CNT_SNAP as its home takes it. -/
def State.writeSnap (s : State) (value : Word32) : State :=
  let s := s.rsvdIf (value.toNat / 2 != 0)
  if value.getLsbD 0 then { s with cnt := { s.cnt with shadow := s.shownCounters } } else s

/-- CNT_SNAP written. -/
def execCntSnap (port : HostPort) (value : Word32) (s : State) : HealthOut :=
  .next (if !s.hostReach port then s.notReached port
    else (s.hostTlp port false 4).writeSnap value)

/-- A window unit changed. -/
def State.updBw (s : State) (u : Nat) (f : BwUnit → BwUnit) : State :=
  { s with cnt := { s.cnt with regs := { s.cnt.regs with bw := Tab.upd BwUnit.init s.cnt.regs.bw u f } } }

/-- CNT_BW_CTRL as its home takes it: the new length waits for its next boundary. -/
def State.writeBw (s : State) (u : Nat) (value : Word32) : State :=
  if 24 < value.toNat % 32 then s.rsvdWrite
  else (s.rsvdIf (value.toNat / 32 != 0)).updBw u fun b => { b with newW := some (value.setWidth 5) }

/-- CNT_BW_CTRL written. -/
def execCntBwCtrl (u : Fin 42) (value : Word32) (s : State) : HealthOut :=
  .next (if s.barOpen then s.anyWrite.writeBw u.val value else s)

/-- The reasons for which a write of CNT_SAMPLE_CTRL has no effect (R404). -/
def sampleCtrlBad (v : Nat) : Bool :=
  (fieldOf v 0 16 = 0 && fieldOf v 30 2 != 0) || fieldOf v 30 2 = 3 || decide (16 < fieldOf v 24 5)

/-- CNT_SAMPLE_CTRL as its home takes it: the buffer and CNT_SAMPLE_STATUS are cleared. -/
def State.writeSampling (s : State) (g : Nat) (value : Word32) : State :=
  if sampleCtrlBad value.toNat then s.rsvdWrite
  else (s.rsvdIf (fieldOf value.toNat 21 3 != 0)).resetSamples g fun sm =>
    { sm with ctrl := value &&& 0xFF1FFFFF, dropped := 0, lost := false, seen := 0, marked := [], owed := [] }

/-- CNT_SAMPLE_CTRL written. -/
def execCntSampleCtrl (g : Fin 128) (value : Word32) (s : State) : HealthOut :=
  .next (if s.barOpen then s.anyWrite.writeSampling g.val value else s)

/-! ### Bandwidth windows (R399) -/

/-- A unit at a boundary: of a length that waits to take effect, or of its own. -/
def BwUnit.boundary (b : BwUnit) (time : Nat) : BwUnit :=
  let own : BwUnit :=
    if time % (25 * 2 ^ b.w.toNat) = 0 then
      { b with
        windows := BitVec.ofNat 32 (min (2 ^ 32 - 1) (b.windows.toNat + 1))
        last0 := b.now0
        last1 := b.now1
        peak0 := if b.peak0.toNat < b.now0.toNat then b.now0 else b.peak0
        peak1 := if b.peak1.toNat < b.now1.toNat then b.now1 else b.peak1
        now0 := 0
        now1 := 0 }
    else b
  match b.newW with
  | some w => if time % (25 * 2 ^ w.toNat) = 0 then { BwUnit.init with w := w } else own
  | none => own

/-- BANDWIDTH_WINDOW_END. -/
def execBandwidthWindowEnd (u : Fin 42) (s : State) : HealthOut :=
  .next (if s.boot.phase = .ready then s.updBw u.val fun b => b.boundary s.cnt.regs.time.toNat else s)

/-! ### The health score -/

/-- The score as HEALTH follows raw (R389). -/
def Health.evaluate (h : Health) : Health :=
  let raw := 1000 - min 1000 (h.dLocal + min 500 (h.dLink / 2))
  let n := if h.health + 50 ≤ raw then h.above + 1 else 0
  let h := { h with loc := 1000 - min 1000 h.dLocal }
  if raw < h.health then { h with health := raw, above := 0 }
  else if 3600 ≤ n then { h with health := raw, above := 0 }
  else { h with above := n }

/-- The symbol error ratio of a port in the second that ended (Table 19-6). -/
def State.serPoint (s : State) (p : Nat) : State :=
  match s.light.ports[p]? with
  | none => s
  | some l =>
    let s := { s with light := { s.light with ports := s.light.ports.set p { l with serErr := 0, serTotal := 0 } } }
    if l.serTotal < l.serErr * 100000 then s.addLink p 1 else s

/-- HEALTH_EVALUATION: due at each second of chip-local time while the chip is powered (R389, R390). -/
def execHealthEvaluation (s : State) : HealthOut :=
  .next (if s.clocked ∧ s.cnt.regs.time.toNat % 25000000 = 0 then
    let s := (List.range 32).foldl (fun (s : State) p => s.serPoint p) s
    { s with err := { s.err with health := s.err.health.evaluate } }
  else s)

/-- A decayed accumulator. -/
def decayed (d : Nat) : Nat := d - (d + 15) / 16

/-- Points for the stacks that corrected more than 1,024 codewords in the hour that ended. -/
def State.hourPoints (s : State) : State :=
  let n := ((List.range 8).filter fun st => decide (1024 < Tab.get 0 s.err.hourCorr st)).length
  let s := { s with err := { s.err with hourCorr := [] } }
  if n = 0 then s else s.addLocal (10 * n)

/-- HEALTH_DECAY: due at each hour of chip-local time while the chip is powered. The ended hour's points come first. -/
def execHealthDecay (s : State) : HealthOut :=
  .next (if s.clocked ∧ s.cnt.regs.time.toNat % 90000000000 = 0 then
    let s := s.hourPoints
    { s with err := { s.err with health := { s.err.health with
        dLocal := decayed s.err.health.dLocal
        dLink := decayed s.err.health.dLink } } }.saveHealth
  else s)

/-! ### Fettle -/

/-- One codeword scrubbed: a corrected word is written back, a poisoned one stays, and an uncorrectable one is R379's. -/
def Mem.scrubFix (k : MemKind) (m : Mem) (c : Nat) : Mem × List MemEvent × Bool :=
  let r := m.readCw k c
  if r.poisoned then (r.mem, r.events, false)
  else (r.mem.putCw c r.data 0, r.events, decide (Tab.get 0 m.chk c ≠ 0))

/-- Codewords scrubbed one after the other, and how many were written back. -/
def Mem.scrubAll (k : MemKind) : Mem → List Nat → Mem × List MemEvent × Nat
  | m, [] => (m, [], 0)
  | m, c :: cs =>
    let (m, ev, fixed) := m.scrubFix k c
    let (m, evs, n) := Mem.scrubAll k m cs
    (m, ev ++ evs, n + if fixed then 1 else 0)

/-- Bytes of a burst, and bursts of a pass over one stack. -/
def burstBytes : Nat := 2 ^ 26
def burstsPerPass : Nat := 2048

/-- Where a stack's next burst begins. -/
def State.burstBase (s : State) (st : Nat) : Nat := st * 2 ^ 37 + Tab.get 0 s.err.burst st * burstBytes

/-- The codewords of a burst that may not read clean. -/
def State.burstSuspects (s : State) (base : Nat) : List Nat := s.mem.suspects .chip (base / 32) (burstBytes / 32)

/-- The bytes a burst from `base` on reads, and the `n` codewords it writes back, counted in phase 63. -/
def State.burstTraffic (s : State) (base n : Nat) : State :=
  (s.hbmTraffic base burstBytes false true).hbmTraffic base (32 * n) true true

/-- A stack's next burst scrubbed, in phase 63. -/
def State.scrubBurst (s : State) (st : Nat) : State :=
  let base := s.burstBase st
  let r := s.mem.scrubAll .chip (s.burstSuspects base)
  ({ s with mem := r.1 }.noteAll none r.2.1).burstTraffic base r.2.2

/-- The pass counters after a burst: a pass over HBM is complete when every stack has made it (R392). -/
def Err.burstDone (e : Err) (st : Nat) : Err :=
  let b := Tab.get 0 e.burst st + 1
  if b < burstsPerPass then { e with burst := Tab.put 0 e.burst st b }
  else
    let passes := Tab.upd 0 e.stackPasses st (· + 1)
    { e with
      burst := Tab.put 0 e.burst st 0
      stackPasses := passes
      hbmPasses := BitVec.ofNat 16 (min 65535 (((List.range 8).map fun i => Tab.get 0 passes i).foldl min 65535)) }

/-- FETTLE_HBM_BURST. A stack in self-refresh is woken for it, and the burst is made once it is ON; it falls back as Table 17-2 has it. -/
def execFettleHbmBurst (stack : Fin 8) (s : State) : HealthOut :=
  .next (if s.boot.phase = .ready then
    let s := s.updSeq (stackDomain stack.val) Sequencer.enable
    if (s.seq (stackDomain stack.val)).state = .on then
      let s := s.scrubBurst stack.val
      { s with err := s.err.burstDone stack.val }
    else s
  else s)

/-- A memory of a cluster scrubbed at one codeword. -/
def State.scrubPriv (s : State) (g cw : Nat) (get : Cluster → Mem) (set : Cluster → Mem → Cluster) : State :=
  if s.clusterOn g then
    let (m, ev, _) := (get (s.cl g)).scrubFix (.priv g) cw
    (s.updCl g fun c => set c m).noteAll none ev
  else s

/-- One codeword of cluster memory or under-store scrubbed, by its number in the chip-local space. -/
def State.scrubWindow (s : State) (cw : Nat) : State :=
  let a := 32 * cw
  let g := (a - windowBase) / windowSize
  if decide (windowBase ≤ a) && decide (g < 128) && decide ((a - windowBase) % windowSize < windowUsable) && s.clusterOn g then
    let (m, ev, _) := s.mem.scrubFix .chip cw
    { s with mem := m }.noteAll none ev
  else s

/-- A packet in its buffer scrubbed at one codeword. -/
def Packet.scrub (k : Packet) (cw : Nat) : Packet × List MemEvent :=
  if k.buffer.isNone then (k, [])
  else
    let (m, ev, _) := k.cells.scrubFix .tundish cw
    (k.ofCells m m, ev)

/-- A buffer of the Tundish scrubbed at one codeword. -/
def State.scrubTundish (s : State) (cw : Nat) : TundishSlot → State
  | .window p c =>
    let w := s.window p c
    if w.buffer.isNone then s
    else
      let (m, ev, _) := w.bytes.scrubFix .tundish cw
      (s.setWindow p c { w with bytes := m }).noteAll none ev
  | .received n =>
    match s.intake.received[n]? with
    | none => s
    | some k => { s with intake := { s.intake with received := s.intake.received.set n (k.scrub cw).1 } }.noteAll none (k.scrub cw).2
  | .bound n =>
    match s.intake.bound[n]? with
    | none => s
    | some b => { s with intake := { s.intake with
        bound := s.intake.bound.set n { b with packet := (b.packet.scrub cw).1 } } }.noteAll none (b.packet.scrub cw).2

/-- A codeword of the Ladle scrubbed in a copy. -/
def CopyState.scrub (cs : CopyState) (g w cw : Nat) : CopyState × List MemEvent :=
  let d := Tab.get 0 cs.ladle cw
  let fix (vals : List (Nat × Bool)) : List (Nat × Bool) × List MemEvent := ladleRead g w cw d vals
  let x := fix (if cs.whole then cs.buffer else cs.got)
  if d = 0 then (cs, [])
  else
    ({ cs with
      buffer := if cs.whole then x.1 else cs.buffer
      got := if cs.whole then cs.got else x.1
      ladle := Tab.put 0 cs.ladle cw 0 }, x.2)

/-- The Ladle of a cluster scrubbed at one codeword, where a permuting copy of the engine is in flight. -/
def State.scrubLadle (s : State) (g cw : Nat) (eng : MoveEngine) : State :=
  match (s.cl g).flights.find? fun fl => fl.eng = eng.toEngine && fl.permuting, s.runPattern with
  | some fl, some p =>
    match fl.copy with
    | some cs =>
      let w := (copyCtxOf p g fl.eng (s.engCtx p g fl.entry fl.deferred)).plan.w
      let (cs, ev) := cs.scrub g w cw
      (s.updCl g fun c => c.updFlight fl.idx fun f => { f with copy := some cs }).noteAll none ev
    | none => s
  | _, _ => s

/-- What Fettle does in one slot. -/
def State.scrubSlot (s : State) : SramTarget → State
  | .window cw => s.scrubWindow cw
  | .scalar g cw => s.scrubPriv g cw (·.dmem) fun c m => { c with dmem := m }
  | .code g cw => s.scrubPriv g cw (·.imem) fun c m => { c with imem := m }
  | .vregs g cw => s.scrubPriv g cw (·.vregs) fun c m => { c with vregs := m }
  | .crucible g cw => s.scrubPriv g cw (·.crucible) fun c m => { c with crucible := m }
  | .bank g false cw => s.scrubPriv g cw (·.bank0.cells) fun c m => { c with bank0 := { c.bank0 with cells := m } }
  | .bank g true cw => s.scrubPriv g cw (·.bank1.cells) fun c m => { c with bank1 := { c.bank1 with cells := m } }
  | .tundish slot cw => s.scrubTundish cw slot
  | .ladle g eng cw => s.scrubLadle g cw eng
  | .passEnd => { s with err := { s.err with sramPasses := BitVec.ofNat 16 (min 65535 (s.err.sramPasses.toNat + 1)) } }

/-- FETTLE_SRAM_SLOT. -/
def execFettleSramSlot (target : SramTarget) (s : State) : HealthOut :=
  .next (if s.boot.phase = .ready then s.scrubSlot target else s)

/-- The test of an OFF group ends: the positions that failed it are retired (R383), and the group is disabled. -/
def State.endOffTest (s : State) (die group : Nat) (failing : BitVec 66) : State :=
  (((List.range 66).filter fun p => decide (p / 8 = group) && failing.getLsbD p).foldl
    (fun (s : State) p => s.positionFault (die = 1) p stUncorrectable)
    { s with err := { s.err with offTest := none } }).settleSamples.disableDomain (9 * die + group)

/-- FETTLE_OFF_GROUP_TEST: a group that is OFF is enabled for the test; once it is ON, the test gives its failing positions. A pour that
has come to use the group meanwhile ends the test without a result. -/
def execFettleOffGroupTest (die : Fin 2) (group : Fin 9) (failing : BitVec 66) (s : State) : HealthOut :=
  let k := 9 * die.val + group.val
  .next (
    if s.boot.phase ≠ .ready then s
    else if s.err.offTest = some k then
      if (s.seq k).state ≠ .on then s
      else if s.groupBusy k then { s with err := { s.err with offTest := none } }.settleSamples
      else s.endOffTest die.val group.val failing
    else if s.err.offTest.isNone ∧ (s.seq k).state = .off then
      { s with err := { s.err with offTest := some k } }.updSeq k Sequencer.enable
    else s)

end Sys2Proof.Machine
end

