-- ==== Sys2Proof/Machine/HostPorts.lean ====
section
/-! DEFINITION. Events of the host ports (R194 to R196, R410, R414), SPDM and IDE (R364, R365). -/

namespace Sys2Proof.Machine

abbrev HostOut' := Host.Outcome State Fault Refusal

/-- What waited for a port goes out once it may write: replies and messages, the writes of running pours, and the reads that
running transfers ask for (R196, R220). -/
def State.portBack (s : State) (p : HostPort) : State :=
  if (s.port p).mayWrite then
    (List.range 64).foldl (fun (s : State) c =>
      if (s.chan c).owner = p then (s.flushPour c).restartTransfer c else s) (s.flushPort p)
  else s

/-- A port's IDE keys zeroised (R365). -/
def HostPortState.dropKeys (h : HostPortState) : HostPortState := { h with linkIde := .off, selIde := .off, linkKey := [], selKey := [] }

/-- Every intake window of a port cleared, with its Tundish buffers freed (R414). -/
def State.clearWindows (s : State) (p : HostPort) : State :=
  (List.range 64).foldl (fun (s : State) c => (s.freeBuffer (s.window p c).buffer).setWindow p c Window.idle) s

/-- A port's configuration space at its reset values, with its keys and sessions gone (R405, R411, R414). -/
def HostPortState.unconfigured (h : HostPortState) : HostPortState :=
  { h.dropKeys with
    busMaster := false
    msixConfig := MsixConfig.masked
    sessions := []
    setup := PcieSetup.reset
    aerUncor := 0
    aerCor := 0 }

/-- A port as PERST_N and FLR leave it (R405, R414). As after any reset, kept tiles are restored before their next use (R131). -/
def State.resetPort (s : State) (p : HostPort) : State := ((s.clearWindows p).updPort p HostPortState.unconfigured).staleKept

/-- HOST_LINK_DOWN. -/
def execHostLinkDown (port : HostPort) (s : State) : HostOut' :=
  .next (s.updPort port fun h => { h.dropKeys with linkUp := false })

/-- HOST_LINK_UP. -/
def execHostLinkUp (port : HostPort) (s : State) : HostOut' :=
  let h := s.port port
  .next (if s.pins.pwrgdMain ∧ !h.perst ∧ !h.linkUp ∧ s.boot.phase ≠ .warmEntry ∧ s.boot.phase ≠ .off then
    (s.updPort port fun h => { h with linkUp := true }).portBack port
  else s)

/-- BUS_MASTER_ENABLE, a configuration write, which CRS holds off before readiness (R410). With Bus Master Enable it carries the port's
MSI-X configuration and the configuration registers as they then stand (DESIGN CHOICE, log entry 76). -/
def execBusMasterEnable (enable : PortEnable) (s : State) : HostOut' :=
  .next (if s.portOpen enable.port then
    ((s.hostTlp enable.port false 4).updPort enable.port fun h =>
      { h with busMaster := true, msixConfig := enable.msix, setup := enable.setup }).portBack enable.port
  else s)

/-- PERST_N low. -/
def execPerstN (port : HostPort) (s : State) : HostOut' :=
  .next ((s.resetPort port).updPort port fun h => { h with perst := true, flr := false, linkUp := false })

/-- PERST_N high. -/
def execPerstNRelease (port : HostPort) (s : State) : HostOut' :=
  .next (s.updPort port fun h => { h with perst := false })

/-- FLR: it acts in a boot too, which goes on (R415). -/
def execFlr (port : HostPort) (s : State) : HostOut' :=
  let h := s.port port
  .next (if h.linkUp && !h.perst && !h.flr then
    ((s.hostTlp port false 4).resetPort port).updPort port fun h => { h with flr := true }
  else s)

/-- FLR complete. -/
def execFlrComplete (port : HostPort) (s : State) : HostOut' :=
  .next (if (s.port port).flr then (s.updPort port fun h => { h with flr := false }).portBack port else s)

/-! ### SPDM and IDE -/

/-- The number of an SPDM request, for the responder's answer; 10 is an error. -/
def spdmNumber : SpdmRequest → Nat
  | .certificate => 0
  | .challenge _ => 1
  | .measurements _ => 2
  | .keyExchange _ => 3
  | .endSession => 4
  | .keyUpdate => 5
  | .ideKeys _ _ => 6
  | .version => 7
  | .capabilities => 8
  | .algorithms => 9

/-- The versions 1.2 and 1.3, the flags CERT, CHAL, MEAS with signature, ENCRYPT, MAC, KEY_EX and KEY_UPD, and the algorithms ECDSA P-384,
SHA-384, secp384r1 and AES-256-GCM (R364). The codes are DSP0274's (PRESUMED, log entry 41). -/
def spdmVersions : List Byte := leBytes 2 0x1200 ++ leBytes 2 0x1300
def spdmFlags : List Byte := leBytes 4 0x42D6
def spdmAlgorithms : List Byte := leBytes 4 0x80 ++ leBytes 4 2 ++ leBytes 2 0x10 ++ leBytes 2 2

/-- The certificates of slot 0: of the device CA, the identity and the alias (R364). -/
def Assay.certChain (a : Assay) : List Byte := Config.caCertificate ++ a.identityCertificate ++ a.aliasCertificate

/-- Measurement block n: M_ROM, M_FW, bytes 192 to 255 of the evidence, and the digests of the loaded patterns in ascending handle
(R364). -/
def State.measurement (s : State) : Nat → List Byte
  | 1 => s.assay.otp.romDigest
  | 2 => s.assay.image.mFw
  | 3 => s.evidenceFlask
  | 4 => s.loaded.flatMap fun e => fitBytes 48 e.2.digest
  | _ => []

/-- The four measurement blocks in order. -/
def State.measurements (s : State) : List Byte := [1, 2, 3, 4].flatMap s.measurement

/-- What the answer to a request carries, and whether the alias key signs it. -/
def State.spdmContent (s : State) : SpdmRequest → List Byte × Bool
  | .version => (spdmVersions, false)
  | .capabilities => (spdmFlags, false)
  | .algorithms => (spdmAlgorithms, false)
  | .certificate => (sha384 Config.rootCertificate ++ s.assay.certChain, false)
  | .challenge nonce => (sha384 s.assay.certChain ++ sha384 s.measurements ++ leBytes 32 nonce.toNat, true)
  | .measurements nonce => (s.measurements ++ leBytes 32 nonce.toNat, true)
  | .keyExchange _ => ([], false)
  | .endSession => ([], false)
  | .keyUpdate => ([], false)
  | .ideKeys _ _ => ([], false)

/-- A message of the responder with its content, and, if asked, the alias key's signature over it. -/
def State.spdmMessage (s : State) (number : Nat) (content : List Byte) (signed : Bool) : List Byte × State :=
  let bs := Config.spdmMessage number content s.free
  let s := { s with free := s.free + 1 }
  if signed then
    let (sig, s) := s.aliasSign bs
    (bs ++ sig, s)
  else (bs, s)

/-- An error in answer. -/
def State.spdmError (s : State) : List Byte × State := s.spdmMessage 10 [] false

/-- The key and the IV of a session's responder, or its next ones after a KEY_UPDATE, from the shared secret or the key in force. The
derivation is HKDF with SHA-384; its labels, and what it covers of the messages, are DSP0274's (PRESUMED, log entry 41). -/
def sessionKeys (secret transcript : List Byte) : List Byte × List Byte :=
  let prk := hkdfExtract (List.replicate 48 0) secret
  (hkdfExpand prk (label "key" ++ transcript) 32, hkdfExpand prk (label "iv" ++ transcript) 12)

/-- The least session number that is free. -/
def HostPortState.freeSession (h : HostPortState) : Nat :=
  ((List.range 4).find? fun n => h.sessions.all fun x => x.id ≠ n).getD 0

/-- KEY_EXCHANGE: an ECDHE key is made, the keys of both sides come from the shared secret, and the session stands; a fifth one, or a public
key that is no point of the curve, is answered with an error (R364, R367). -/
def State.keyExchange (s : State) (p : HostPort) (pub : List Byte) : List Byte × State :=
  if 4 ≤ (s.port p).sessions.length then s.spdmError
  else
    let (d, s) := s.drawBytes 56
    match kasEcc (p384KeyFrom d) pub with
    | none => s.spdmError
    | some z =>
      let own := p384Public (p384KeyFrom d)
      let (bs, s) := s.spdmMessage 3 own true
      let (key, iv) := sessionKeys z (sha384 (pub ++ own))
      (bs, s.updPort p fun h => { h with sessions := h.sessions ++ [⟨h.freeSession, key, iv, 0⟩] })

/-- A session changed. -/
def HostPortState.updSession (h : HostPortState) (n : Nat) (f : SpdmSession → SpdmSession) : HostPortState :=
  { h with sessions := h.sessions.map fun x => if x.id = n then f x else x }

/-- What a request does in its session: it ends, its key is renewed, or an IDE stream takes the key that IDE_KM brings and is secure from
then on (R364, R365). -/
def HostPortState.inSession (h : HostPortState) (n : Nat) : SpdmRequest → HostPortState
  | .endSession => { h with sessions := h.sessions.filter fun x => x.id ≠ n }
  | .keyUpdate => h.updSession n fun x => { x with key := (sessionKeys x.key []).1, iv := (sessionKeys x.key []).2, sent := 0 }
  | .ideKeys true k => { h with selIde := .secure, selKey := leBytes 32 k.toNat }
  | .ideKeys false k => { h with linkIde := .secure, linkKey := leBytes 32 k.toNat }
  | _ => h

/-- An answer sealed in its session: AES-256-GCM under its key, with its IV moved on by the number of answers before (PRESUMED, log
entry 41). -/
def SpdmSession.seal (x : SpdmSession) (bs : List Byte) : List Byte :=
  gcmSeal x.key (beBytes 12 (beNat x.iv ^^^ x.sent)) (leBytes 4 x.id ++ leBytes 2 bs.length) bs

/-- A request that only a session may carry. -/
def needsSession : SpdmRequest → Bool
  | .endSession => true
  | .keyUpdate => true
  | .ideKeys _ _ => true
  | _ => false

/-- The answer to a request (R364), and what the request does: in the clear, or in a session that stands; any other is an error. -/
def State.spdmAnswer (s : State) (p : HostPort) (m : SpdmMessage) : List Byte × State :=
  let (content, signed) := s.spdmContent m.req
  match m.session, m.req with
  | none, .keyExchange pub => s.keyExchange p pub
  | none, req => if needsSession req then s.spdmError else s.spdmMessage (spdmNumber req) content signed
  | some n, req =>
    match (s.port p).sessions.find? fun x => x.id = n with
    | none => s.spdmError
    | some x =>
      let (bs, s) := s.spdmMessage (spdmNumber req) content signed
      (x.seal bs, s.updPort p fun h => (h.updSession n fun x => { x with sent := x.sent + 1 }).inSession n req)

/-- SPDM_REQUEST over DOE in configuration space: an answer, while the Assay may give one (R371). -/
def execSpdmRequest (port : HostPort) (req : SpdmMessage) (s : State) : HostOut' :=
  if !s.portOpen port then .next s
  else
    let s := s.hostTlp port false req.size
    if s.assay.mode ≠ .operational then .next s
    else
      let (bs, s) := s.spdmAnswer port req
      .next (((s.updPort port fun h => { h with out := h.out ++ [.doe bs] }).hostTlp port true bs.length).service 6)

/-- IDE_INTEGRITY_FAILURE: the stream is insecure from now on, and the TLP that failed is the first not delivered; AER notes it, in bit 28
of its Uncorrectable Error Status (PRESUMED, log entry 85). -/
def execIdeIntegrityFailure (port : HostPort) (selective : Bool) (s : State) : HostOut' :=
  let h := s.port port
  .next (if (if selective then h.selIde else h.linkIde) = .secure then
    (s.updPort port fun h =>
      let h := { h with aerUncor := h.aerUncor ||| 0x10000000 }
      if selective then { h with selIde := .insecure } else { h with linkIde := .insecure }).count (ctrHost port.toNat 7) 1
  else s)

end Sys2Proof.Machine
end

