-- ==== Sys2Proof/Machine/Service.lean ====
section
/-! DEFINITION. The Assay's errors and its register services (R370 to R373), BOOT_STATUS and ERR_LOG_SEQ over MCTP (R409,
R428), the boot flash's hold (R429). -/

namespace Sys2Proof.Machine

abbrev ServiceOut := Host.Outcome State Fault Refusal

/-! ### The stopped Nelhan (R371, R408) -/

/-- Received and bound packets dropped: neither accepted nor refused. What is partly written stays. -/
def State.dropPackets (s : State) : State :=
  let bs := (s.intake.received.map fun p => p.buffer) ++ s.intake.bound.map fun b => b.packet.buffer
  let s := bs.foldl (fun (s : State) b => s.freeBuffer b) s
  { s with intake := { s.intake with received := [], bound := [], held := 0 } }

/-- The Nelhan stops: pours stop and nothing further commits, is written, accepted or refused; the lasers are shut. -/
def State.haltNelhan (s : State) : State :=
  { s.dropWork with
    intake := s.dropPackets.intake
    cope := { s.cope with late := [] }
    drag := { s.drag with late := [] }
    boot := { s.boot with phase := .stopped, ready := false }
    light := { s.light with enabled := false } }

/-- A boot that stops (Table 21-3). -/
def State.stopBoot (s : State) (cause index : BitVec 8) : State :=
  let s := s.haltNelhan
  { s with boot := { s.boot with stopped := true, cause := cause, causeIndex := index } }

/-- Every SSP outside OTP zeroised: the bottom tree, the DRBG's state, sessions and IDE keys; the receipts go with them (R362). -/
def State.zeroiseSsps (s : State) : State :=
  { s with
    assay := { s.assay with bottom := none, drbg := Drbg.init, receipts := [] }
    cope := { s.cope.dropKeys with sessions := [] }
    drag := { s.drag.dropKeys with sessions := [] } }

/-- The Assay's error state, or ZEROISED, entered. Before readiness the boot stops. -/
def State.assayStop (s : State) (mode : AssayMode) (cause : BitVec 8) : State :=
  let s := s.zeroiseSsps
  let s := { s with assay := { s.assay with mode := mode, cause := cause } }
  if s.boot.phase = .booting then s.stopBoot 1 cause else s.haltNelhan

/-- The Assay provides services: it is not in an error state, ZEROISED or DECOMMISSIONED (R371, R372). -/
def Assay.serves (a : Assay) : Bool := a.mode = .selfTest || a.mode = .operational

/-- ASSAY_ERROR: a self-test of Table 18-7 has failed. -/
def execAssayError (cause : BitVec 8) (s : State) : ServiceOut :=
  let runs := s.boot.phase = .booting ∨ s.boot.phase = .ready ∨ s.boot.phase = .stopped
  .next (if runs ∧ s.assay.serves ∧ 1 ≤ cause.toNat ∧ cause.toNat ≤ 6 then s.assayStop .error cause else s)

/-! ### ASY registers -/

/-- ASY_SELFTEST as its home takes it; `pass`: the known-answer tests pass. An Assay that has stopped runs none (R371). -/
def State.writeSelftest (s : State) (value : Word32) (pass : Bool) : State :=
  let s := s.rsvdIf (value.toNat / 2 != 0)
  if value.getLsbD 0 && s.assay.serves then (if pass then s.service 8 else s.assayStop .error 2) else s

/-- ASY_SELFTEST written. -/
def execAsySelftest (value : Word32) (pass : Bool) (s : State) : ServiceOut :=
  .next (if s.barOpen then s.anyWrite.writeSelftest value pass else s)

/-- Every UDS bit and DECOMMISSIONED burnt (R372). -/
def State.burnUds (s : State) : State :=
  { s with assay := { s.assay with otp := { s.assay.otp with uds := BitVec.allOnes 384, decommissioned := true } } }

/-- ASY_ZEROISE as its home takes it (R372, R373). An Assay that has stopped already does nothing further (R371: DESIGN CHOICE, log
entry 71). -/
def State.writeZeroise (s : State) (value : Word32) : State :=
  let v := value.toNat
  let t := s.rsvdIf (fieldOf v 2 14 != 0)
  if v % 4 = 1 ∧ v / 2 ^ 16 = 0x5A45 then
    (if s.assay.serves then (t.service 9).assayStop .zeroised 7 else t)
  else if v % 4 = 3 ∧ v / 2 ^ 16 = 0x4443 then
    (if s.assay.serves then ((t.service 10).burnUds).assayStop .zeroised 7 else t)
  else s.rsvdWrite

/-- ASY_ZEROISE written to zeroise. -/
def execZeroise (value : Word32) (s : State) : ServiceOut :=
  .next (if s.barOpen then s.anyWrite.writeZeroise value else s)

/-- ASY_ZEROISE written to decommission. -/
def execDecommission (value : Word32) (s : State) : ServiceOut :=
  .next (if s.barOpen then s.anyWrite.writeZeroise value else s)

/-! ### MCTP (R409, R428) -/

/-- The address at which the board controller reaches the Nelhan (R428). -/
def State.smbusAddress (s : State) : BitVec 7 := 0x30 + (s.ident.chipId &&& 7).setWidth 7

/-- A word sent to the board controller. -/
def State.mctpAnswer (s : State) (w : Word32) : State := { s with mctpOut := s.mctpOut ++ [⟨s.smbusAddress, Config.endpointId, w⟩] }

/-- BOOT_STATUS (Table 21-4). -/
def Boot.status (b : Boot) : Word32 :=
  BitVec.ofNat 32 (b.done.toNat + b.causeIndex.toNat * 2 ^ 8 + b.cause.toNat * 2 ^ 16 + b.kind.toNat * 2 ^ 28
    + (if b.stopped then 2 ^ 30 else 0) + (if b.ready then 2 ^ 31 else 0))

/-- MCTP_BOOT_STATUS: the word goes to the board controller. -/
def execMctpBootStatus (s : State) : ServiceOut :=
  .next (if s.pins.vddAon && s.pins.pwrgdAon then s.mctpAnswer s.boot.status else s)

/-- ERR_LOG_SEQ_READ: SMB_ALERT_N is released. -/
def execErrLogSeqRead (s : State) : ServiceOut :=
  .next (if s.pins.vddAon && s.pins.pwrgdAon then
    { s.mctpAnswer s.err.seq with pins := { s.pins with smbAlert := false } } else s)

/-! ### The boot flash (R429) -/

/-- QSPI_BUSY is high (R428, R429): boot stages 2 and 8 and FIRMWARE_STAGE use the flash, and the hold is not asserted. A command of the
model is whole, so that none is in progress when the hold falls (DESIGN CHOICE, log entry 87). -/
def State.qspiBusy (s : State) : Bool :=
  let done (n : Nat) : Bool := s.boot.done.getLsbD n
  let boots := s.boot.phase = .booting && ((done 0 && !done 1) || (done 3 && !done 7))
  let stages := s.running.any fun e => (e.2.map fun r => r.body.opcode = opFirmwareStage && r.outcome.isNone).getD false
  s.pins.pwrgdMain && !s.pins.qspiHold && (boots || stages)

/-- QSPI_HOLD: the pin's new level, and the bytes that the board has written while it and QSPI_BUSY were low. Flash writes that have waited
are made when the hold ends. -/
def execQspiHold (level : Bool) (writes : List (Nat × Byte)) (s : State) : ServiceOut :=
  let held := { s with pins := { s.pins with qspiHold := s.pins.qspiHold || !level } }
  let mine := if held.pins.qspiHold && !held.qspiBusy then writes.filter fun e => e.1 < 2 ^ 26 else []
  let s := mine.foldl (fun (s : State) e => s.flashWrite e.1 [e.2]) { s with pins := { s.pins with qspiHold := !level } }
  .next (if level then (List.range 64).foldl State.resumeStage s else s)

end Sys2Proof.Machine
end

