-- ==== Sys2Proof/Machine/Boot.lean ====
section
/-! DEFINITION. Resets, boot, power and clock events (chapter 21; R423 to R425). -/

namespace Sys2Proof.Machine

abbrev BootOut := Host.Outcome State Fault Refusal

/-! ### Cold reset (Table 21-1) -/

/-- A host port as a cold or warm reset leaves it: its PERST_N level stays. -/
def HostPortState.restart (h : HostPortState) : HostPortState :=
  { HostPortState.init with perst := h.perst, out := h.out }

/-- The Assay as a cold reset leaves it: OTP and flash stay, retention SRAM is lost. -/
def Assay.coldStart (a : Assay) : Assay := { Assay.init with otp := a.otp, flash := a.flash }

/-- What a cold reset loses, and what it sets for the boot that follows. MRAM, CNT_TIME, OTP, flash and pins stay. -/
def State.coldLoss (s : State) : State :=
  { s with
    boot := { s.boot with phase := .off, ready := false, zeroHbm := true, recoverCold := true, buildMap := true }
    ident := Ident.init
    mem := Mem.zeros
    sprue := { s.sprue with activeB1 := false, standbyReady := false }
    riser := { s.riser with
      replays := Ctr48.zero
      work := if s.riser.lost then mergeLedger s.riser.copy0 s.riser.copy1 else s.riser.work }
    trail := []
    chans := []
    accepted := []
    intake := Intake.init
    cope := s.cope.restart
    drag := s.drag.restart
    patterns := []
    running := []
    run := none
    kept := none
    clusters := []
    power := { Power.init with stopped := s.power.stopped }
    runner := Runner.init
    light := Light.init
    assay := s.assay.coldStart
    err := { Err.init with health := s.ledger.health }
    cnt := ⟨{ CntRegs.init with time := s.cnt.regs.time }, CntRegs.init, []⟩ }

/-- A cold reset. It may find a ledger write under way, and tear it where the supplies leave their ranges (R415); with the rails held as
R424 requires, none tears, and none starts: the flask record is deleted by stage 3 of the boot that follows (R413, R424: DEDUCED, log
entry 57). -/
def State.coldReset (s : State) (tears : Bool) : State := (s.cutShort tears).coldLoss

/-- COLD_RESET: PWRGD_MAIN falls. -/
def execColdReset (s : State) : BootOut :=
  .next (if s.pins.pwrgdMain then { s.coldReset false with pins := { s.pins with pwrgdMain := false } } else s)

/-- RAIL_OUT_OF_RANGE: a cold reset with PWRGD_MAIN still high (Table 22-7). -/
def execRailOutOfRange (s : State) : BootOut := .next (if s.pins.pwrgdMain then s.coldReset true else s)

/-- AON_CLK_LOSS: a cold reset, and CNT_TIME stands until the clock is back. -/
def execAonClkLoss (s : State) : BootOut :=
  let t := if s.pins.pwrgdMain then s.coldReset false else s
  .next (if s.pins.vddAon then { t with pins := { t.pins with aonClk := false } } else s)

/-- A loss of VDD_AON: everything but MRAM, OTP and the boot flash (R415). -/
def State.aonLoss (s : State) : State :=
  let s := if s.pins.pwrgdMain then s.coldReset true else s.coldLoss
  { s with
    boot := Boot.init
    cnt := ⟨CntRegs.init, CntRegs.init, []⟩
    jtag := Jtag.reset s.jtag.trstN
    pins := { s.pins with pwrgdAon := false, thermtrip := false, smbAlert := false, lateAon := false } }

/-- VDD_AON_LOSS. -/
def execVddAonLoss (s : State) : BootOut :=
  let t := s.aonLoss
  .next (if s.pins.vddAon then { t with pins := { t.pins with vddAon := false, aonClk := false } } else s)

/-- PWRGD_AON_FALL: a loss of VDD_AON while PWRGD_MAIN is high; else the end of an orderly power-down (R424). -/
def execPwrgdAonFall (s : State) : BootOut :=
  .next (if s.pins.pwrgdAon then
    (if s.pins.pwrgdMain then s.aonLoss else { s with pins := { s.pins with pwrgdAon := false } }) else s)

/-- VDD_AON_APPLIED: CNT_TIME starts from zero (R394). -/
def execVddAonApplied (s : State) : BootOut :=
  .next (if s.pins.vddAon then s
    else { s with
      pins := { s.pins with vddAon := true, aonClk := true }
      cnt := { s.cnt with regs := { s.cnt.regs with time := 0 } } })

/-- BOOT_STATUS cleared. -/
def Boot.clearStatus (b : Boot) : Boot :=
  { b with ready := false, stopped := false, kind := 0, cause := 0, causeIndex := 0, done := 0 }

/-- PWRGD_AON_RISE. With PWRGD_MAIN high already no boot starts. -/
def execPwrgdAonRise (s : State) : BootOut :=
  .next (if s.pins.vddAon && !s.pins.pwrgdAon then
    { s with
      pins := { s.pins with pwrgdAon := true, aonClk := true, lateAon := s.pins.pwrgdMain }
      boot := s.boot.clearStatus }
  else s)

/-! ### The start of a boot (R406, R407) -/

/-- A boot of a kind starts: BOOT_STATUS is cleared and KIND set, and what verified boot sets is not set yet. -/
def State.startBoot (s : State) (kind : BitVec 2) : State :=
  { s with
    boot := { s.boot.clearStatus with phase := .booting, kind := kind }
    assay := { s.assay with reasonA := 0, reasonB := 0, fallback := false, trial := false } }

/-- BOOT_START: PWRGD_MAIN rises. The straps are sampled; THERMTRIP_N is released, and a trip waits to be reported at
stage 3; with PWRGD_AON high a cold boot starts. -/
def execBootStart (slot : BitVec 3) (board : BitVec 15) (s : State) : BootOut :=
  if s.pins.pwrgdMain || !s.pins.vddAon then .next s
  else
    let s := { s with
      pins := { s.pins with pwrgdMain := true, thermtrip := false, aonClk := true }
      power := { s.power with stopped := false, tripped := s.power.stopped }
      ident := { s.ident with chipId := BitVec.ofNat 18 (board.toNat * 8 + slot.toNat) } }
    .next (if s.pins.pwrgdAon then { s.startBoot 1 with pins := { s.pins with lateAon := false } } else s)

/-! ### Warm reset (R412, R413) -/

/-- The running RUN as a warm reset ends it: replayed after readiness, or faulted where it is not restartable (R258). What
this rank had voted is void (R413). -/
def State.warmRun (s : State) : State :=
  match s.run with
  | none => s
  | some r =>
    let again := (s.entry r.entry).restartable
    { s with run := some { r with
        fault := some (stSlotCollision, again)
        votedUp := false
        verdict := none
        colls := [] } }

/-- A running pour as a warm reset leaves it: the RUN, without an outcome; a RUN that is not restartable and had no attempt, ended
(R258). Others start again from their entries. -/
def State.warmPour (s : State) (c : Nat) (x : Running) : Option Running :=
  let x := { x with planned := none, out := [] }
  if (s.run.map fun (r : RunCtx) => decide (r.chan = c)).getD false then some { x with outcome := none }
  else if x.cls = .run ∧ !(s.entry x.entry).restartable then some { x with outcome := some (faultedWith stSlotCollision) }
  else none

/-- The running pours that a warm reset leaves. -/
def State.warmRunning (s : State) : Tab (Option Running) :=
  (List.range 64).foldl (fun t c => Tab.put none t c ((s.runningOf c).bind fun x => s.warmPour c x)) []

/-- Counters whose count is cleared and whose OVF stays; those of the collective table stay (R393, R398). -/
def warmCounters (t : Tab Ctr48) : Tab Ctr48 :=
  (t.map fun (e : Nat × Ctr48) => if 0x20000 ≤ e.1 then e else (e.1, e.2.clearCount)).filter fun e => e.2 != Ctr48.zero

/-- The counters block after a warm reset: CNT_SAMPLE_CTRL and CNT_SAMPLE_STATUS stay (R404). -/
def Counters.warm (c : Counters) : Counters :=
  ⟨{ CntRegs.init with
      time := c.regs.time
      ctr := warmCounters c.regs.ctr
      samp := (c.regs.samp.map fun (e : Nat × Sampler) =>
        (e.1, { e.2 with base := 0, seen := 0, marked := [] })).filter fun e => e.2 != Sampler.init },
    CntRegs.init, []⟩

/-- The ERR block after a warm reset: the log stays (R386). -/
def Err.warm (e : Err) : Err :=
  let clear (t : Tab Ctr48) : Tab Ctr48 :=
    (t.map fun (x : Nat × Ctr48) => (x.1, x.2.clearCount)).filter fun x => x.2 != Ctr48.zero
  { Err.init with
    seq := e.seq
    log := e.log
    rsvd := e.rsvd.clearCount
    corrSram := e.corrSram.clearCount
    uncorrSram := e.uncorrSram.clearCount
    poisonWritten := e.poisonWritten.clearCount
    poisonConsumed := e.poisonConsumed.clearCount
    corrHbm := clear e.corrHbm
    uncorrHbm := clear e.uncorrHbm
    hourCorr := e.hourCorr
    health := e.health }

/-- Power after a warm reset: the cap, TRIPPED and the energies stay (R346, R349). -/
def Power.warm (w : Power) : Power :=
  { Power.init with
    cap := w.cap
    newCap := w.newCap
    tripped := w.tripped
    energy := w.energy
    energyRest := w.energyRest
    pours := w.pours
    stepAt := w.stepAt
    ran := w.ran
    capUnmetCtr := w.capUnmetCtr.clearCount
    distrustCtr := w.distrustCtr.clearCount }

/-- Identity after a warm reset: the map stays, a spare under BIST is free again, and stage 5 remaps what is retired. A fault whose
turn has not come still waits (R10). -/
def Ident.warm (i : Ident) : Ident :=
  { i with
    spares0 := sortedSet (i.bist0.toList ++ i.spares0)
    spares1 := sortedSet (i.bist1.toList ++ i.spares1)
    trained := 0
    bist0 := none
    bist1 := none
    waiting := i.waiting.filter fun w => !w.retired }

/-- The Assay after a warm reset: the error states and the bottom tree stay. -/
def Assay.warm (a : Assay) : Assay :=
  { a with
    mode := if a.mode = .operational then .selfTest else a.mode
    service := 0
    serviceOk := false }

/-- The volatile side of the channels after a warm reset. -/
def warmChans (t : Tab Chan) : Tab Chan :=
  (t.map fun (e : Nat × Chan) => (e.1, { Chan.init with dropped := e.2.dropped.clearCount })).filter fun e => e.2 != Chan.init

/-- The entry of a warm reset. A ledger write that has started completes, and no other is made (R412). -/
def State.warmReset (s : State) : State :=
  let s := (s.cutShort false).warmRun
  { s with
    boot := { s.boot with phase := .warmEntry, ready := false }
    ident := s.ident.warm
    mem := s.mem.clear windowBase (128 * windowSize)
    riser := { s.riser with replays := s.riser.replays.clearCount }
    chans := warmChans s.chans
    accepted := []
    intake := { Intake.init with stray := s.intake.stray.clearCount, oneCopy := s.intake.oneCopy }
    cope := s.cope.restart
    drag := s.drag.restart
    running := s.warmRunning
    kept := s.kept.map fun (k : KeptContext) => { k with clean := false }
    clusters := []
    power := s.power.warm
    runner := { Runner.init with
      runSeq := s.runner.runSeq, isle0 := s.runner.isle0, isle1 := s.runner.isle1, counted := s.runner.counted, foreign := s.runner.foreign.clearCount }
    light := s.light.warm
    assay := s.assay.warm
    err := s.err.warm
    cnt := s.cnt.warm }

/-- WARM_RESET: two low samples. During the entry of another one they change nothing more. -/
def execWarmReset (s : State) : BootOut :=
  if !s.pins.vddAon || !s.pins.pwrgdAon || !s.pins.pwrgdMain || s.power.stopped then .next s
  else
    let t := if s.boot.phase = .off ∨ s.boot.phase = .warmEntry then s else s.warmReset
    .next { t with pins := { t.pins with warmResetN := false } }

/-- WARM_BOOT_START: WARM_RESET_N is high and the entry is complete. -/
def execWarmBootStart (s : State) : BootOut :=
  .next (if s.boot.phase = .warmEntry then { s.startBoot 2 with pins := { s.pins with warmResetN := true } } else s)

/-! ### Stages 1 to 3 -/

/-- Stage 1: the self-tests of R370, after which the DRBG is seeded (R367). A part that is decommissioned stops at every boot (R372), and
an error state that a warm reset has not ended stops the boot again. -/
def State.stage1 (s : State) (r : BootResult) : State :=
  let a := s.assay
  if a.mode = .decommissioned then s.stopBoot 1 a.cause
  else if a.otp.decommissioned then s.assayStop .decommissioned 6
  else if a.mode = .error ∨ a.mode = .zeroised then s.stopBoot 1 a.cause
  else
    match r with
    | .selfTest cause => s.assayStop .error cause
    | _ => { s with assay := { a with mode := .operational } }.seedDrbg

/-- The slot that boots. -/
structure BootChoice where
  /-- none: neither slot passes -/
  slot     : Option Bool
  trial    : Bool
  fallback : Bool
  reasonA  : Nat
  reasonB  : Nat

/-- Reasons recorded for a slot that was rejected. -/
def BootChoice.reject (c : BootChoice) (slot : Bool) (r : Nat) : BootChoice :=
  if slot then { c with reasonB := r } else { c with reasonA := r }

/-- A first slot and, where it is rejected, the other one (R354, R355). -/
def State.tryBoth (s : State) (counter : Nat) (first trial fallback : Bool) : BootChoice :=
  let c : BootChoice := ⟨none, false, false, 0, 0⟩
  match s.slotRejectAt counter first with
  | none => { c with slot := some first, trial := trial }
  | some r =>
    let c := c.reject first r
    match s.slotRejectAt counter !first with
    | none => { c with slot := some !first, fallback := fallback }
    | some r => c.reject (!first) r

/-- The choice while COUNTER cannot be read: the higher SVN of the slots that pass the other checks (R366). -/
def State.chooseBlind (s : State) : BootChoice :=
  let a := s.slotRejectAt 0 false
  let b := s.slotRejectAt 0 true
  let pick := match a, b with
    | none, none => some (decide (s.slotSvn false < s.slotSvn true))
    | none, some _ => some false
    | some _, none => some true
    | some _, some _ => none
  ⟨pick, false, false, a.getD 0, b.getD 0⟩

/-- COUNTER, ACTIVE and PENDING as stage 2 reads them: a line whose HMAC fails is none (R354, R366). -/
def State.bootRecord (s : State) : Option (BitVec 16 × Bool × Bool) :=
  if s.riser.readable .bootRecord then some (bootPick (s.riser.usable s.riser.copy0) (s.riser.usable s.riser.copy1)) else none

/-- The slot chosen at stage 2. -/
def State.chooseSlot (s : State) : BootChoice :=
  match s.bootRecord with
  | none => s.chooseBlind
  | some (counter, active, true) => s.tryBoth counter.toNat (!active) true false
  | some (counter, active, false) => s.tryBoth counter.toNat active false true

/-- A reason of this boot, kept where the slot is not rejected again. -/
def newReason (old : BitVec 4) (r : Nat) : BitVec 4 := if r = 0 then old else BitVec.ofNat 4 r

/-- Stage 2: verified boot. PENDING is cleared before any component runs. -/
def State.stage2 (s : State) : State :=
  let c := s.chooseSlot
  let s := match s.bootRecord with
    | some (counter, active, _) => s.updLedger .bootRecord fun l =>
        { l with rollback := counter, bootActive := active, bootPending := false }
    | none => s
  let s := { s with assay := { s.assay with
      reasonA := newReason s.assay.reasonA c.reasonA
      reasonB := newReason s.assay.reasonB c.reasonB
      trial := c.trial
      fallback := c.fallback } }
  match c.slot with
  | none => s.stopBoot 2 0
  | some b =>
    { s with assay := { s.assay with
        image := s.slotImage b
        exhausted := s.riser.readable .lms
          && decide (32768 ≤ linePick (s.riser.usable s.riser.copy0) (s.riser.usable s.riser.copy1) .lms 0 max Ledger.lmsQ) } }.service 1

/-- The Chill trip that ended the last power-on reported (R345). -/
def State.reportTrip (s : State) : State :=
  if s.power.tripped then (s.logStatus stThermalTrip unitPower 0 0 false none).addLocal 250 else s

/-- Stage 3: the Sprue starts and the ledger is recovered; a warm boot finds its flask, and takes the greater of the counts that the islands
hold (R413). -/
def State.stage3 (s : State) (r : BootResult) : State :=
  let works := match r with
    | .sprue w => w
    | _ => true
  let cold := s.boot.recoverCold
  let s := s.recover cold
  let s := if cold then
      { s with
        sprue := s.sprue.boot works
        err := { s.err with health := s.ledger.health } }.updLedger .flask fun l => { l with flask := none }
    else { s with runner := { s.runner with
        flask := s.ledger.flask
        runSeq := if s.runner.isle0.toNat < s.runner.isle1.toNat then s.runner.isle1 else s.runner.isle0 } }
  let s := if cold then s.reportTrip else s
  let s := { s with boot := { s.boot with recoverCold := false } }
  { s with power := { s.power with tripped := s.ledger.trip.isSome } }

/-! ### Stages 4 to 8 -/

/-- Stage 4: the stacks are trained, and in a cold boot zeroed. -/
def State.stage4 (s : State) (r : BootResult) : State :=
  match r with
  | .stackFailed st => s.stopBoot 3 (st.setWidth 8)
  | _ =>
    { s with
      mem := if s.boot.zeroHbm then s.mem.clear 0 hbmEnd else s.mem
      power := { s.power with seq := allStacks.foldl (fun t k => Tab.put Sequencer.init t k ⟨.on, .none, true⟩) s.power.seq }
      boot := { s.boot with zeroHbm := false } }

/-- The map of a die by R7, from the positions that are not retired in ascending order. -/
def State.buildDie (s : State) (die : Bool) (bad : BitVec 66) : State :=
  let good := (List.range 66).filter fun p => !bad.getLsbD p
  let base := if die then 64 else 0
  let map := (good.take 64).zipIdx.foldl (fun t e => Tab.put none t (base + e.2) (some e.1)) s.ident.clmap
  let short := decide (good.length < 64)
  { s with ident :=
    if die then { s.ident with clmap := map, spares1 := good.drop 64, short1 := short }
    else { s.ident with clmap := map, spares0 := good.drop 64, short0 := short } }

/-- Both dies' maps built. -/
def State.buildMaps (s : State) (fail0 fail1 : BitVec 66) : State :=
  let bad0 := s.ledger.retired0 ||| fail0
  let bad1 := s.ledger.retired1 ||| fail1
  let s := if fail0 = 0 ∧ fail1 = 0 then s else s.updLedger .retired fun l => { l with retired0 := bad0, retired1 := bad1 }
  ({ s with ident := { s.ident with clmap := [] } }.buildDie false bad0).buildDie true bad1

/-- A position retired because its BIST failed while no pour runs (R10). -/
def State.retireLogged (s : State) (die : Bool) (g pos : Nat) : State :=
  if s.isRetired die pos then s else (s.logStatus stUncorrectable unitCluster g 0 false none).retire die pos

/-- A logical cluster whose position is retired takes the next free spare, or is left unmapped (R12). -/
def State.remap (s : State) (die : Bool) (g : Nat) : State :=
  match (if die then s.ident.spares1 else s.ident.spares0) with
  | [] => s.unmap g stUncorrectable false
  | sp :: rest =>
    { s with ident := { s.ident with
        spares0 := if die then s.ident.spares0 else rest
        spares1 := if die then rest else s.ident.spares1 } }.mapTo g sp

/-- A die after the BIST of a warm boot: failing spares first, then clusters in ascending order. -/
def State.warmDie (s : State) (die : Bool) (fail : BitVec 66) : State :=
  let base := if die then 64 else 0
  let spares := if die then s.ident.spares1 else s.ident.spares0
  let s := (spares.filter fun p => fail.getLsbD p).foldl (fun (s : State) p => s.retireLogged die 0 p) s
  (List.range 64).foldl (fun (s : State) c =>
    match Tab.get none s.ident.clmap (base + c) with
    | none => s
    | some pos =>
      if fail.getLsbD pos || s.isRetired die pos then (s.retireLogged die (base + c) pos).remap die (base + c) else s) s

/-- Stage 5: BIST. -/
def State.stage5 (s : State) (r : BootResult) : State :=
  let (f0, f1) := match r with
    | .bist a b => (a, b)
    | _ => (0, 0)
  if s.boot.buildMap then { s with boot := { s.boot with buildMap := false } }.buildMaps f0 f1
  else (s.warmDie false f0).warmDie true f1

/-- The lanes of the floor link that fail the margin test leave service (R319, R388, R397). -/
def State.floorFails (s : State) (b0 b1 : BitVec 400) : State :=
  let one (d : Nat) (b : BitVec 400) (s : State) : State :=
    ((List.range 400).filter fun k => b.getLsbD k).foldl (fun (s : State) k => s.floorLeave d k) s
  one 1 b1 (one 0 b0 { s with light := { s.light with floorOut0 := 0, floorOut1 := 0 } })

/-- Stage 6: the floor link and the laser sources. -/
def State.stage6 (s : State) (r : BootResult) : State :=
  let (b0, b1, scans, src) := match r with
    | .optics a b c => (failMask a, failMask b, a ++ b, c)
    | _ => (0, 0, [], 15)
  if 1 < laneCount b0 then s.stopBoot 4 0
  else if 1 < laneCount b1 then s.stopBoot 4 1
  else
    let n := s.free
    let held : BitVec 800 := ~~~b1 ++ ~~~b0
    let s := s.floorFails b0 b1
    { s with
      light := { s.light with
        srcPresent := src
        floorStall := 0
        floorSweeps := []
        floorLocked := held ++ held
        floorDetune := []
        floorLag := []
        floorCalib := s.light.floorHeater
        floorThresholds := thresholdsOf scans
        floorCoef := (List.range 1600).map fun k => (k, ringCoef (n + k)) }
      free := n + 1600 }

/-- Stage 7: a top leaf is spent where no bottom tree is held. -/
def State.stage7 (s : State) : State := if s.assay.bottom.isNone then s.spendLeaf else s

/-- The running image's bytes in the firmware copy of every stack (R15, Table 1-4). -/
def State.loadFirmware (s : State) : State :=
  let base := slotBase s.assay.image.slot
  let image := s.flashRead base (natAt (s.flashRead base 20) 16 4)
  { s with mem := (List.range 8).foldl (fun m st => (m.writeRange .chip (2 ^ 37 * st + 0x1FA0000000) image).1) s.mem }

/-- Stage 8: the firmware copies are loaded and checked. A mismatch rejects the slot, and stage 2 runs again. -/
def State.stage8 (s : State) : State :=
  let b := s.assay.image.slot
  if s.slotSpoilt b then
    { s with
      assay := if b then { s.assay with reasonB := 6 } else { s.assay with reasonA := 6 }
      boot := { s.boot with done := 1 } }
  else { s.loadFirmware with boot := { s.boot with done := s.boot.done ||| 0x80 } }

/-! ### Stages and readiness -/

/-- The stages that have to be done before a stage starts, as a mask of DONE. -/
def stageNeeds : Nat → BitVec 8
  | 1 => 0
  | 2 => 1
  | 3 => 3
  | 4 => 7
  | 5 => 7
  | 6 => 7
  | 7 => 7
  | _ => 15

/-- A stage is running: it has started, is not done, and does not wait for the flash (R429). -/
def State.stageRuns (s : State) (stage : Nat) : Bool :=
  let b := s.boot
  b.phase = .booting && decide (1 ≤ stage) && decide (stage ≤ 8) && !b.done.getLsbD (stage - 1)
    && b.done &&& stageNeeds stage == stageNeeds stage && !(s.pins.qspiHold && (stage = 2 || stage = 8))

/-- What a stage does. -/
def State.runStage (s : State) (r : BootResult) : Nat → State
  | 1 => s.stage1 r
  | 2 => s.stage2
  | 3 => s.stage3 r
  | 4 => s.stage4 r
  | 5 => s.stage5 r
  | 6 => s.stage6 r
  | 7 => s.stage7
  | _ => s.stage8

/-- Key slots that an image does not use. -/
def Image.unusedKeys (i : Image) : BitVec 4 :=
  (if i.keySlot.getLsbD 0 then 1 else 2) ||| (if i.keySlot.getLsbD 1 then 4 else 8)

/-- A trial confirmed, or a fallback made ACTIVE (R354, R355). -/
def State.confirmBoot (s : State) : State :=
  let i := s.assay.image
  if s.assay.trial then
    let s := s.updLedger .bootRecord fun l => { l with
      bootActive := i.slot
      rollback := if l.rollback.toNat < i.svn.toNat then i.svn else l.rollback }
    let otp := s.assay.otp
    { s with assay := { s.assay with
        trial := false
        otp := if i.revokeOther then { otp with revoked := otp.revoked ||| i.unusedKeys } else otp } }
  else if s.assay.fallback then s.updLedger .bootRecord fun l => { l with bootActive := i.slot }
  else s

/-- Readiness. The live ports of a restored flask train (R413). -/
def State.becomeReady (s : State) : State :=
  let s := s.confirmBoot
  let s := { s with
    boot := { s.boot with phase := .ready, ready := true }
    ident := { s.ident with trained := 0xFF }
    light := { s.light with enabled := true } }
  match s.runner.flask with
  | some f => { s with runner := { s.runner with retrains := f.live } }.trainLive f.live
  | none => s

/-- BOOT_STAGE_DONE. -/
def execBootStageDone (stage : Nat) (result : BootResult) (s : State) : BootOut :=
  if !s.stageRuns stage then .next s
  else
    let s := s.runStage result stage
    let s := if s.boot.phase = .booting ∧ stage ≠ 8 then
        { s with boot := { s.boot with done := s.boot.done ||| (1#8 <<< (stage - 1)) } }
      else s
    .next (if s.boot.phase = .booting ∧ s.boot.done = 0xFF then s.becomeReady else s)

end Sys2Proof.Machine
end

