-- ==== Sys2Proof/Machine/Complete.lean ====
section
/-! DEFINITION. The completion of an instruction, the guards and steps of the deferred list, and sample records
(R77, R86, R97, R111, R128, R159, R160, R297, R400 to R402). -/

namespace Sys2Proof.Machine

abbrev DoneOut := Host.Outcome State Fault Refusal

/-! ### Sample records (Table 20-3) -/

/-- A record placed in the sample buffer, or dropped (R402). -/
def State.writeSample (s : State) (g : Nat) (r : BitVec 128) : State :=
  let sm := Tab.get Sampler.init s.cnt.regs.samp g
  if !sm.ctrl.toNat.testBit 29 && 256 ≤ sm.count then
    s.updSampler g fun sm => { sm with dropped := min 4095 (sm.dropped + 1) }
  else
    let s := { s with cnt := { s.cnt with slots := Tab.put 0 s.cnt.slots (256 * g + sm.next) r } }
    s.updSampler g fun sm => { sm with next := (sm.next + 1) % 256, count := min 256 (sm.count + 1) }

/-- The fields of a record. -/
def sampleWord (exec queue issue kind engine pc : Nat) : BitVec 128 :=
  BitVec.ofNat 128 (exec % 2 ^ 32 * 2 ^ 96 + queue % 2 ^ 32 * 2 ^ 64 + issue % 2 ^ 40 * 2 ^ 24 + 2 ^ 23 + kind % 4 * 2 ^ 21
    + engine % 8 * 2 ^ 18 + pc % 2 ^ 18)

/-- The record of a sampled instruction that completes. -/
def State.sampleDone (s : State) (g : Nat) (fl : Flight) : State :=
  let sm := Tab.get Sampler.init s.cnt.regs.samp g
  if sm.marked.contains fl.idx then
    let exec := if fl.eng = .ld ∨ fl.eng = .st then (s.cl g).cycle - fl.cycle else fl.cycles
    (s.updSampler g fun sm => { sm with marked := sm.marked.filter (· != fl.idx) }).writeSample g
      (sampleWord exec (fl.cycle - fl.entry.cycle) fl.cycle (if fl.deferred then 1 else 0) fl.eng.toNat fl.entry.pc)
  else s

/-! ### Completion -/

/-- A token set by a completion; set already, the pour faults and it stays set (R77). None is set after a fault (R92). -/
def postToken (g eng pc target t : Nat) (s : State) : State :=
  if (s.cl target).token t then s.faultPour g eng stSlotCollision (BitVec.ofNat 18 pc) 0
  else if s.faultFree then s.updCl target fun c => c.putToken t true
  else s

/-- Tokens set one after the other. -/
def postAll (g eng pc : Nat) : List (Nat × Nat) → State → State
  | [], s => s
  | (c, t) :: ts, s => postAll g eng pc ts (postToken g eng pc c t s)

/-- The tokens a COLL's NOTIFY sets: cluster and token (R297). -/
def notifyTokens (r : CollRecord) : List (Nat × Nat) :=
  if r.notifyEn then ((List.range 128).filter fun g => r.notifyMask.getLsbD g).map fun g => (g, r.notifyToken) else []

/-- What a step adds to the deferred summary (Table 8-5). -/
def stepSums (eng : Engine) (w : List Word64) (sums : List Nat) : List Nat :=
  let v (i : Nat) : Nat := (w.getD i 0).toNat
  let t (i : Nat) : Nat := sums.getD i 0
  if eng = .dr then [t 0 + v 0, t 1 + v 1, t 2 + v 2, t 3, t 4, max (t 5) (v 5 % 2 ^ 31), t 6, 0]
  else [t 0, t 1, t 2 + v 0, t 3 + v 1, t 4 + v 2, t 5, t 6, 0]

/-- The item whose step runs goes on to its next step, or completes. -/
def advanceItem : List ArmedItem → List ArmedItem
  | [] => []
  | i :: is =>
    if i.running then { i with running := false, next := i.next + 1, finished := i.next + 1 = i.steps } :: is
    else i :: advanceItem is

/-- A step of the deferred list has completed. -/
def Lending.stepDone (l : Lending) (eng : Engine) (w : List Word64) : Lending :=
  let items := advanceItem l.items
  let sums := stepSums eng w l.sums
  let n := (items.filter (·.finished)).length
  { l with items := items, sums := sums.set 6 n }

/-- What an instruction's completion does in its cluster beyond its tokens: it leaves the engine, its summary is written,
its bank becomes valid, and the deferred list goes on. -/
def Cluster.complete (c : Cluster) (fl : Flight) (words : List Word64) : Cluster :=
  let c := { c with flights := c.flights.filter fun f => f.idx != fl.idx, asleep := false, idleCycles := 0 }
  let c := match fl.entry.slot with
    | some n => c.setSlot n ⟨true, words⟩
    | none => c
  let c := match fl.bank with
    | some (true, b) => { c with bank1 := b }
    | some (false, b) => { c with bank0 := b }
    | none => c
  let c := if fl.deferred then { c with lending := c.lending.stepDone fl.eng words }
    else if fl.eng = .mx then { c with lending := { c.lending with mxAhead := c.lending.mxAhead - 1 } }
    else c
  c

/-- The tile words and saturation flags of a MATMUL become visible (R109). -/
def State.landTiles (s : State) (g : Nat) (fl : Flight) : State :=
  match fl.tiles with
  | some (p, sat) => (s.applyTiles g p).updCl g fun c => { c with satFlags := c.satFlags ||| sat }
  | none => s

/-- An instruction in flight has nothing left to do. -/
def State.flightDone (s : State) (fl : Flight) (n : Option CollInstance) : Bool :=
  match fl.coll, fl.copy with
  | some _, _ => (n.bind fun n => (s.collCtxOf n).map fun c => c.complete n).getD false
  | none, some cs => cs.done
  | none, none => true

/-- What a completion does in the attempt: a COLL's instance is gone, an UPDATE has completed (R173). -/
def RunCtx.afterDone (r : RunCtx) (g idx : Nat) (fl : Flight) : RunCtx :=
  { r with updated := r.updated || fl.isUpdate, colls := r.colls.filter fun i => !(i.g = g && i.idx = idx) }

/-- An instruction completes. -/
def completeFlight (g idx : Nat) (fl : Flight) (n : Option CollInstance) (s : State) : State :=
  let notify := (n.bind fun n => s.runPattern.map fun p => notifyTokens (collRecord p n.collId)).getD []
  let words := (n.map fun n => n.sums.map satWord ++ [0, 0, 0]).getD fl.summary
  let s := postAll g fl.eng.toNat fl.entry.pc (fl.entry.posts.map (fun t => (g, t)) ++ notify) (s.landTiles g fl)
  if s.faultFree then
    let s := s.updCl g fun c => (c.complete fl words).settle
    let s := { s with run := s.run.map fun (r : RunCtx) => r.afterDone g idx fl }
    s.sampleDone g fl
  else s

/-- INSTRUCTION_COMPLETE (R77, R297). -/
def execInstructionComplete (g : Fin 128) (eng : Engine) (idx : Nat) (s : State) : DoneOut :=
  match (s.cl g).flight idx with
  | none => .next s
  | some fl =>
    let n := s.run.bind fun r => r.colls.find? fun n => n.g = g.val && n.idx = idx
    if fl.eng = eng ∧ s.attemptRuns g ∧ s.flightDone fl n then .next (completeFlight g idx fl n s) else .next s

/-! ### The filler (R159, R160) -/

/-- GUARD_LATCH (R159). -/
def execGuardLatch (g : Fin 128) (s : State) : DoneOut :=
  if s.attemptRuns g then .next (s.updCl g fun c => c.latchGuards) else .next s

/-- R160's conditions for the next step of an item. -/
def State.stepReady (s : State) (g : Nat) (i : ArmedItem) : Bool :=
  let c := s.cl g
  let e := stepEngine i.drMap.toNat i.next
  (i.next != 0 || i.latched || i.guard.isNone)
    && (c.inFlight e).isEmpty
    && (match c.head e with | none => true | some q => !c.tokensReady q)
    && (e != .mx || (c.gateOpen .mx && c.lending.mxAhead = 0))

/-- The oldest open item is marked as running a step. -/
def markRunning : List ArmedItem → List ArmedItem
  | [] => []
  | i :: is => if i.finished then i :: markRunning is else { i with running := true } :: is

/-- FILLER_STEP_ISSUE (R160): the next step of the oldest armed item issues. -/
def execFillerStepIssue (g : Fin 128) (s : State) : DoneOut :=
  match s.runPattern, (s.cl g).lending.open_ with
  | some p, i :: _ =>
    if s.attemptRuns g && !i.running && s.stepReady g i then
      let e := stepEngine i.drMap.toNat i.next
      match makeEntry p g e true i.pc (i.first + 64 * i.next) (fun _ => i.seeds.getD i.next 0) s with
      | (s, .error st) => .next (s.faultPour g e.toNat st (BitVec.ofNat 18 i.pc) 0)
      | (s, .ok q) =>
        let n := (s.cl g).issues
        let s := startOp (opOf e q.record.toNat) (s.engCtx p g { q with cycle := i.cycle } true) e id s
        if (s.cl g).issues != n then
          .next ((s.updCl g fun c => { c with lending := { c.lending with items := markRunning c.lending.items } }).count
            (ctrCluster g 15) 1)
        else .next s
    else .next s
  | _, _ => .next s

/-- COUNTER_SAMPLE (R401): the record of the oldest crossing of the counter EVENT, with an address that the skid allows; any other address
is none of its record. -/
def execCounterSample (g : Fin 128) (pc : BitVec 18) (s : State) : DoneOut :=
  let sm := Tab.get Sampler.init s.cnt.regs.samp g
  match sm.owed with
  | [] => .next s
  | x :: rest =>
    .next (if x.pcs.contains pc.toNat then
      (s.updSampler g fun sm => { sm with owed := rest }).writeSample g
        (sampleWord 0 (fieldOf sm.ctrl.toNat 24 5) x.cycle 2 7 pc.toNat)
    else s)

end Sys2Proof.Machine
end

