-- ==== Sys2Proof/Machine/Control.lean ====
section
/-! DEFINITION. The commands of the control core: each executes the instruction at the cluster's program counter if it is
the one named (R82, R83), and CORE_STALL_END retries a stalled one. -/

namespace Sys2Proof.Machine

abbrev CoreNext := Host.Outcome State Fault Refusal

/-- ADD (R83). -/
def execAdd (g : Fin 128) (s : State) : CoreNext := .next (coreRun g .add addBody s)
/-- SUB (R83). -/
def execSub (g : Fin 128) (s : State) : CoreNext := .next (coreRun g .sub subBody s)
/-- AND (R83). -/
def execAnd (g : Fin 128) (s : State) : CoreNext := .next (coreRun g .and andBody s)
/-- OR (R83). -/
def execOr (g : Fin 128) (s : State) : CoreNext := .next (coreRun g .or orBody s)
/-- XOR (R83). -/
def execXor (g : Fin 128) (s : State) : CoreNext := .next (coreRun g .xor xorBody s)
/-- SHL (R83). -/
def execShl (g : Fin 128) (s : State) : CoreNext := .next (coreRun g .shl shlBody s)
/-- SHR (R83). -/
def execShr (g : Fin 128) (s : State) : CoreNext := .next (coreRun g .shr shrBody s)
/-- SRA (R83). -/
def execSra (g : Fin 128) (s : State) : CoreNext := .next (coreRun g .sra sraBody s)
/-- MUL (R83). -/
def execMul (g : Fin 128) (s : State) : CoreNext := .next (coreRun g .mul mulBody s)
/-- MULHU (R83). -/
def execMulhu (g : Fin 128) (s : State) : CoreNext := .next (coreRun g .mulhu mulhuBody s)
/-- DIVU (R83). -/
def execDivu (g : Fin 128) (s : State) : CoreNext := .next (coreRun g .divu divuBody s)
/-- REMU (R83). -/
def execRemu (g : Fin 128) (s : State) : CoreNext := .next (coreRun g .remu remuBody s)
/-- SLT (R83). -/
def execSlt (g : Fin 128) (s : State) : CoreNext := .next (coreRun g .slt sltBody s)
/-- SLTU (R83). -/
def execSltu (g : Fin 128) (s : State) : CoreNext := .next (coreRun g .sltu sltuBody s)
/-- MIN (R83). -/
def execMin (g : Fin 128) (s : State) : CoreNext := .next (coreRun g .min minBody s)
/-- MAX (R83). -/
def execMax (g : Fin 128) (s : State) : CoreNext := .next (coreRun g .max maxBody s)
/-- ADDI (R83). -/
def execAddi (g : Fin 128) (s : State) : CoreNext := .next (coreRun g .addi addiBody s)
/-- MOVK (R83). -/
def execMovk (g : Fin 128) (s : State) : CoreNext := .next (coreRun g .movk movkBody s)
/-- FADD (R83). -/
def execFadd (g : Fin 128) (s : State) : CoreNext := .next (coreRun g .fadd faddBody s)
/-- FSUB (R83). -/
def execFsub (g : Fin 128) (s : State) : CoreNext := .next (coreRun g .fsub fsubBody s)
/-- FMUL (R83). -/
def execFmul (g : Fin 128) (s : State) : CoreNext := .next (coreRun g .fmul fmulBody s)
/-- FDIV (R83). -/
def execFdiv (g : Fin 128) (s : State) : CoreNext := .next (coreRun g .fdiv fdivBody s)
/-- FSQRT (R83). -/
def execFsqrt (g : Fin 128) (s : State) : CoreNext := .next (coreRun g .fsqrt fsqrtBody s)
/-- FMIN (R83). -/
def execFmin (g : Fin 128) (s : State) : CoreNext := .next (coreRun g .fmin fminBody s)
/-- FMAX (R83). -/
def execFmax (g : Fin 128) (s : State) : CoreNext := .next (coreRun g .fmax fmaxBody s)
/-- FLT (R83). -/
def execFlt (g : Fin 128) (s : State) : CoreNext := .next (coreRun g .flt fltBody s)
/-- FEQ (R83). -/
def execFeq (g : Fin 128) (s : State) : CoreNext := .next (coreRun g .feq feqBody s)
/-- FCVT_D_S (R83). -/
def execFcvtDS (g : Fin 128) (s : State) : CoreNext := .next (coreRun g .fcvtDS fcvtDSBody s)
/-- FCVT_S_D (R83). -/
def execFcvtSD (g : Fin 128) (s : State) : CoreNext := .next (coreRun g .fcvtSD fcvtSDBody s)
/-- FCVT_D_L (R83). -/
def execFcvtDL (g : Fin 128) (s : State) : CoreNext := .next (coreRun g .fcvtDL fcvtDLBody s)
/-- FCVT_L_D (R83). -/
def execFcvtLD (g : Fin 128) (s : State) : CoreNext := .next (coreRun g .fcvtLD fcvtLDBody s)
/-- LD64 (R84). -/
def execLd64 (g : Fin 128) (s : State) : CoreNext := .next (coreRun g .ld64 ld64Body s)
/-- LD32 (R84). -/
def execLd32 (g : Fin 128) (s : State) : CoreNext := .next (coreRun g .ld32 ld32Body s)
/-- ST64 (R84). -/
def execSt64 (g : Fin 128) (s : State) : CoreNext := .next (coreRun g .st64 st64Body s)
/-- ST32 (R84). -/
def execSt32 (g : Fin 128) (s : State) : CoreNext := .next (coreRun g .st32 st32Body s)
/-- BEQ (R83). -/
def execBeq (g : Fin 128) (s : State) : CoreNext := .next (coreRun g .beq beqBody s)
/-- BNE (R83). -/
def execBne (g : Fin 128) (s : State) : CoreNext := .next (coreRun g .bne bneBody s)
/-- BLT (R83). -/
def execBlt (g : Fin 128) (s : State) : CoreNext := .next (coreRun g .blt bltBody s)
/-- BGE (R83). -/
def execBge (g : Fin 128) (s : State) : CoreNext := .next (coreRun g .bge bgeBody s)
/-- BLTU (R83). -/
def execBltu (g : Fin 128) (s : State) : CoreNext := .next (coreRun g .bltu bltuBody s)
/-- BGEU (R83). -/
def execBgeu (g : Fin 128) (s : State) : CoreNext := .next (coreRun g .bgeu bgeuBody s)
/-- JMP (R83). -/
def execJmp (g : Fin 128) (s : State) : CoreNext := .next (coreRun g .jmp jmpBody s)
/-- CALL (R83). -/
def execCall (g : Fin 128) (s : State) : CoreNext := .next (coreRun g .call callBody s)
/-- JR (R84). -/
def execJr (g : Fin 128) (s : State) : CoreNext := .next (coreRun g .jr jrBody s)
/-- WAITT (R83). -/
def execWaitt (g : Fin 128) (s : State) : CoreNext := .next (coreRun g .waitt waittBody s)
/-- SETT (R77). -/
def execSett (g : Fin 128) (s : State) : CoreNext := .next (coreRun g .sett settBody s)
/-- CLRT (R77). -/
def execClrt (g : Fin 128) (s : State) : CoreNext := .next (coreRun g .clrt clrtBody s)
/-- SUMRD (R86). -/
def execSumrd (g : Fin 128) (s : State) : CoreNext := .next (coreRun g .sumrd sumrdBody s)
/-- ISSUE (R74, R85). -/
def execIssue (g : Fin 128) (s : State) : CoreNext := .next (coreRun g .issue issueBody s)
/-- DEFER_ARM (R159). -/
def execDeferArm (g : Fin 128) (s : State) : CoreNext := .next (coreRun g .deferArm deferArmBody s)
/-- DEFER_SYNC (R164). -/
def execDeferSync (g : Fin 128) (s : State) : CoreNext := .next (coreRun g .deferSync deferSyncBody s)
/-- PHASE_HINT (R339). -/
def execPhaseHint (g : Fin 128) (s : State) : CoreNext := .next (coreRun g .phaseHint phaseHintBody s)
/-- FENCE (R83). -/
def execFence (g : Fin 128) (s : State) : CoreNext := .next (coreRun g .fence fenceBody s)
/-- HALT (R87). -/
def execHalt (g : Fin 128) (s : State) : CoreNext := .next (coreRun g .halt haltBody s)
/-- CORE_STALL_END (R86). -/
def execCoreStallEnd (g : Fin 128) (s : State) : CoreNext := .next (coreRetry g s)

end Sys2Proof.Machine
end

