-- ==== Sys2Proof/Machine/RegMap.lean ====
section
/-! DEFINITION. What every register of BAR0 reads as, and which of its bits are reserved (R22, R23 and the register tables
of chapters 1, 4, 11, 13, 14 and 16 to 20). -/

namespace Sys2Proof.Machine

/-! ### Reserved bits: none at a reserved offset -/

/-- Reserved bits of a counter's pair of registers. -/
def ctrMask (hi : Bool) : Nat := if hi then 0x7FFF0000 else 0

/-- IDENT (Tables 1-9 to 1-16). -/
def identMask (o : Nat) : Option Nat :=
  if o = 0 then some 0xFF
  else if o = 4 then some 0xFFFF0000
  else if o = 8 then some 0xFFFC0000
  else if o = 0x10 ∨ o = 0x14 then some 0xFFFE00FC
  else if o = 0x20 ∨ o = 0x24 ∨ o = 0x30 ∨ o = 0x34 then some 0
  else if o = 0x28 ∨ o = 0x38 then some 0xFFFFFFFC
  else if 0x40 ≤ o ∧ o < 0x60 then some 0xFFFE0000
  else if 0x100 ≤ o ∧ o < 0x300 then some 0x7FFFFF80
  else none

/-- SPR (Tables 11-8 to 11-10). -/
def sprMask (o : Nat) : Option Nat :=
  if o = 0 then some 0xFFFFFFFC
  else if o = 4 then some 0xFC00FC00
  else if o = 8 ∨ o = 0xC then some 0
  else if o = 0x10 ∨ o = 0x14 then some (ctrMask (o = 0x14))
  else if 0x1000 ≤ o ∧ o < 0x2000 then
    match o % 0x40 with
    | 0 => some 0xFFF2E0FC
    | 4 => some 0xFC000000
    | 0x28 => some 0xFC
    | 0x38 => some (ctrMask true)
    | 0x3C => some 0xFFFFFC00
    | _ => some 0
  else none

/-- RSR (Tables 13-8 to 13-10). -/
def rsrMask (o : Nat) : Option Nat :=
  if o = 0 then some 0xFF00FE00
  else if o = 4 then some 0xFFFFFEC0
  else if o = 8 then some 0xFFFE
  else if o = 0xC then some 0xFFFFC000
  else if o = 0x10 ∨ o = 0x14 then some (ctrMask (o = 0x14))
  else if 0x1000 ≤ o ∧ o < 0x1800 ∧ o % 0x20 < 0x18 then some (if o % 0x20 = 4 then 0xFFFFF800 else 0)
  else none

/-- PWR (Tables 17-5 and 17-6). -/
def pwrMask (o : Nat) : Option Nat :=
  if o = 0 then some 0xFFFFF800
  else if o = 4 then some 0xFFFFFFE0
  else if o = 8 then some 0xE0E0E0E0
  else if o = 0x10 then some 0xFFFF0000
  else if o = 0x24 ∨ o = 0x2C then some (ctrMask true)
  else if o < 0x2C then some 0
  else if 0x100 ≤ o ∧ o < 0x300 then some 0xE0E000E0
  else if 0x400 ≤ o ∧ o < 0x4E8 then some 0xFFFFFFF0
  else if 0x800 ≤ o ∧ o < 0xA00 then some 0
  else none

/-- LGT (Tables 16-7 and 16-8). -/
def lgtMask (o : Nat) : Option Nat :=
  if o = 0 then some 0xFFFFF000
  else if o = 8 ∨ o = 0xC then some (ctrMask (o = 0xC))
  else if o = 0x10 then some 0x7E007E00
  else if o = 0x20 then some 0x01F0FFE0
  else if o = 0x24 then some 0x7FFFF000
  else if 0x100 ≤ o ∧ o < 0x300 then
    match o % 0x10 with
    | 4 => some 0xF000
    | 8 => some 0x0FFF0000
    | 0xC => some 0xFFFF0000
    | _ => some 0
  else none

/-- RUN (Tables 14-6 and 14-7). -/
def runMask (o : Nat) : Option Nat :=
  if o < 0x80 then some 0x00FF0000
  else if o < 0x100 then some 0xFFFF
  else if o < 0x200 then some (if o % 8 = 0 then 0xFF800000 else 0xFF000000)
  else if o = 0x200 then some 0x3FFF0000
  else if o = 0x204 then some 0xFFFC0000
  else if o = 0x208 then some 0xFFF00000
  else if o = 0x20C then some 0xFFFF0000
  else if o = 0x210 ∨ o = 0x214 then some 0
  else if o = 0x218 ∨ o = 0x21C then some (ctrMask (o = 0x21C))
  else if o = 0x220 then some 0xFFFFFFFC
  else none

/-- ASY (Tables 18-8 and 18-9). -/
def asyMask (o : Nat) : Option Nat :=
  if o = 0 then some 0xFF00FF08
  else if o = 4 then some 0xFC1F00FF
  else if o = 8 ∨ o = 0xC ∨ o = 0x10 then some 0
  else if o = 0x14 then some 0x00FEFFFF
  else if o = 0x18 then some 0xFFFFFFFE
  else if o = 0x1C then some 0xFFFC
  else none

/-- ERR (Tables 19-7 and 19-8). -/
def errMask (o : Nat) : Option Nat :=
  if o = 0 then some 0xFFFFFF80
  else if o = 4 then some 0xFC00FC00
  else if o = 8 ∨ o = 0xC ∨ o = 0x38 then some 0
  else if 0x10 ≤ o ∧ o < 0x38 then some (ctrMask (o % 8 = 4))
  else if 0x100 ≤ o ∧ o < 0x180 then some (ctrMask (o % 8 = 4))
  else if 0x200 ≤ o ∧ o < 0x280 then some 0xFFFF0000
  else if 0x1000 ≤ o ∧ o < 0x3000 then some 0
  else none

/-- CNT below its shadow (Tables 20-1 and 20-4). -/
def cntLiveMask (o : Nat) : Option Nat :=
  if o = 0 ∨ o = 4 then some 0
  else if o = 8 then some 0xFFFFFFFE
  else if 0x100 ≤ o ∧ o < 0x980 then some (ctrMask (o % 8 = 4))
  else if 0xA00 ≤ o ∧ o < 0xC40 then some (ctrMask (o % 8 = 4))
  else if 0x1000 ≤ o ∧ o < 0x1A80 ∧ o % 0x40 < 0x28 then
    some (if o % 0x40 = 0 then 0xFFFFFFE0 else if 0xC ≤ o % 0x40 ∧ o % 8 = 4 then 0xFFFF0000 else 0)
  else if 0x10000 ≤ o ∧ o < 0x20000 then
    let r := o % 0x200
    if r < 0x88 then some (ctrMask (r % 8 = 4))
    else if r = 0x100 then some 0x00E00000
    else if r = 0x104 then some 0xC00
    else if r = 0x108 ∨ r = 0x10C then some 0
    else none
  else if 0x20000 ≤ o ∧ o < 0x30000 then some (ctrMask (o % 8 = 4))
  else none

/-- CNT. -/
def cntMask (o : Nat) : Option Nat := cntLiveMask (o % 0x80000)

/-- A window of CLS (Tables 4-7 to 4-13). -/
def clsMask (o : Nat) : Option Nat :=
  if o = 0 then some 0xFFFFFEF0
  else if o = 4 ∨ o = 0x14 then some 0xFFFC0000
  else if o = 8 then some 0xFE000000
  else if o = 0xC then some 0xFE00FFE0
  else if o = 0x10 then some 0xFFE
  else if o = 0x18 then some 0
  else if o = 0x1C then some 0xFFFF0000
  else if 0x40 ≤ o ∧ o < 0x60 then some 0
  else if 0x8000 ≤ o ∧ o < 0x9000 then some 0
  else none

/-- The reserved bits of the register at an aligned offset of BAR0; none where the offset is reserved. -/
def regMask (off : Nat) : Option Nat :=
  let o := off % 0x100000
  if 0x1800000 ≤ off ∨ off % 4 ≠ 0 then none
  else if 0x1000000 ≤ off then clsMask (off % 0x10000)
  else
    match off / 0x100000 with
    | 0 => identMask o
    | 1 => sprMask o
    | 2 => rsrMask o
    | 3 => pwrMask o
    | 4 => lgtMask o
    | 5 => runMask o
    | 6 => asyMask o
    | 7 => errMask o
    | 8 => cntMask o
    | _ => none

/-! ### Values -/

/-- One of the two halves of a 64-bit value. -/
def halfOf (v : Nat) (hi : Bool) : Nat := if hi then v / 2 ^ 32 % 2 ^ 32 else v % 2 ^ 32

/-- A counter's register. -/
def Ctr48.half (c : Ctr48) (hi : Bool) : Nat := if hi then c.hi.toNat else c.lo.toNat

/-- A bit as a number. -/
def bit (b : Bool) : Nat := if b then 1 else 0

/-- IDENT. -/
def State.identReg (s : State) (o : Nat) : Nat :=
  let spare (short : Bool) (retired : BitVec 66) (free : List Nat) : Nat :=
    bit short * 2 ^ 16 + retiredCount retired * 2 ^ 8 + min 3 free.length
  if o = 0 then identPart
  else if o = 4 then identStepping
  else if o = 8 then s.ident.chipId.toNat
  else if o = 0x10 then spare s.ident.short0 s.ledger.retired0 s.ident.spares0
  else if o = 0x14 then spare s.ident.short1 s.ledger.retired1 s.ident.spares1
  else if o < 0x2C then s.ledger.retired0.toNat / 2 ^ (8 * (o - 0x20)) % 2 ^ 32
  else if o < 0x3C then s.ledger.retired1.toNat / 2 ^ (8 * (o - 0x30)) % 2 ^ 32
  else if o < 0x60 then bit (s.ident.trained.getLsbD ((o - 0x40) / 4)) * 2 ^ 16 + 0x4080
  else
    match Tab.get none s.ident.clmap ((o - 0x100) / 4) with
    | some p => 2 ^ 31 + p
    | none => 0

/-- SPR of one channel. -/
def State.chanReg (s : State) (c o : Nat) : Nat :=
  let ch := s.chan c
  let v := s.vchan c
  if o = 0 then bit ch.msixEn * 2 ^ 19 + bit ch.bestEffort * 2 ^ 18 + ch.owner.toNat * 2 ^ 16 + ch.ringLog % 32 * 2 ^ 8
    + ch.state.toNat
  else if o = 4 then ch.tundishRes * 2 ^ 22 + (s.heldEntries c).length * 2 ^ 11 + ch.quota
  else if o < 0x10 then halfOf ch.accepted.toNat (o = 0xC)
  else if o < 0x18 then halfOf ch.replied.toNat (o = 0x14)
  else if o < 0x20 then halfOf ch.acked.toNat (o = 0x1C)
  else if o = 0x20 then v.rhead.toNat
  else if o = 0x24 then v.rtail.toNat
  else if o = 0x28 then v.refusal.status.toNat * 2 ^ 16 + v.refusal.opcode.toNat * 2 ^ 8 + v.refusal.port.toNat * 2
    + bit v.refusal.valid
  else if o < 0x34 then halfOf v.refusal.pour.toNat (o = 0x30)
  else if o < 0x3C then v.dropped.half (o = 0x38)
  else s.tundishHeld c

/-- SPR. -/
def State.sprReg (s : State) (o : Nat) : Nat :=
  if o = 0 then bit (s.sprue.standbyReady && s.boot.done == 0xFF) * 2 + bit s.sprue.activeB1
  else if o = 4 then ((List.range 64).map fun c => (s.chan c).tundishRes).foldl (· + ·) 0 * 2 ^ 16
    + s.intake.free0 + s.intake.free1
  else if o < 0x10 then
    ((List.range 32).map fun i => bit ((s.chan (8 * (o - 8) + i)).state = .closed) * 2 ^ i).foldl (· + ·) 0
  else if o < 0x18 then s.intake.stray.half (o = 0x14)
  else s.chanReg ((o - 0x1000) / 0x40) (o % 0x40)

/-- RSR_STATE.REBUILD (Table 13-9). -/
def State.rebuildPercent (s : State) : Nat :=
  if s.riser.copy0.state = .rebuilding ∨ s.riser.copy1.state = .rebuilding then s.riser.linesCopied s.cnt.regs.time * 100 / 2048 else 0

/-- Writes that the most-written physical line of a region has received after n writes to the region: at least the average over its
4,096 lines, and at most 1.1 times that (R259). -/
def wornLine (n : Nat) : Nat :=
  let low := (n + 4095) / 4096
  low + Config.wear n % (11 * n / 40960 - low + 1)

/-- RSR_WEAR.USED: in units of 0.01 % of 10^12 writes (R259). -/
def Riser.wearUsed (r : Riser) : Nat :=
  min 10000 (((List.range 4).map fun i => wornLine (Tab.get 0 r.writes i)).foldl max 0 / 10 ^ 8)

/-- RSR. -/
def State.rsrReg (s : State) (o : Nat) : Nat :=
  let copy (c : RiserCopy) : Nat := c.state.toNat * 4 + bit c.die * 2 + bit c.spare
  if o = 0 then s.rebuildPercent * 2 ^ 16 + bit s.riser.lost * 2 ^ 8 + copy s.riser.copy1 * 16 + copy s.riser.copy0
  else if o < 0xC then 0
  else if o = 0xC then s.riser.wearUsed
  else if o < 0x18 then s.riser.replays.half (o = 0x14)
  else
    let c := (o - 0x1000) / 0x20
    let r := o % 0x20
    if r = 0 then (s.epochOf c).toNat
    else if r = 4 then s.occupiedOf c
    else if !s.riser.lost then 0
    else if r < 0x10 then halfOf (Tab.get 0 s.riser.proven c).toNat (r = 0xC)
    else halfOf (Tab.get 0 s.riser.unknown c).toNat (r = 0x14)

/-- PWR. PWR_CAP_WATTS reads as the cap in force, until the boundary at which the one written comes into force (R5, R342: DESIGN
CHOICE, log entry 71). -/
def State.pwrReg (s : State) (o : Nat) : Nat :=
  let w := s.power
  if o = 0 then w.cap.toNat
  else if o = 4 then bit w.tripped * 16 + bit w.capUnmet * 8 + bit w.distrust * 4 + bit (w.lTherm < 16) * 2 + bit (w.lCap < 16)
  else if o = 8 then s.pace * 2 ^ 24 + (if (s.runner.flask.map (·.paceAdopt)).getD false then w.ceiling else 16) * 2 ^ 16 + w.lTherm * 2 ^ 8 + w.lCap
  else if o = 0xC then w.avg.toNat * 2 ^ 16 + w.est.toNat
  else if o = 0x10 then w.meas.toNat
  else if o = 0x14 then w.baseMax.toNat * 2 ^ 16 + w.computeMax.toNat
  else if o < 0x20 then halfOf w.energy.toNat (o = 0x1C)
  else if o < 0x28 then w.capUnmetCtr.half (o = 0x24)
  else if o < 0x30 then w.distrustCtr.half (o = 0x2C)
  else if o < 0x300 then
    let g := (o - 0x100) / 4
    let q := (s.cl g).gate
    if s.mapped g then q.g * 2 ^ 24 + q.hint * 2 ^ 16 + q.hold * 2 ^ 8 + q.activity else 0
  else if o < 0x800 then (s.seq ((o - 0x400) / 4)).latch.toNat * 4 + (s.seq ((o - 0x400) / 4)).state.toNat
  else halfOf (s.chan ((o - 0x800) / 8)).energy.toNat (o % 8 = 4)

/-- LGT. -/
def State.lgtReg (s : State) (o : Nat) : Nat :=
  let l := s.light
  if o = 0 then l.lbusErr.toNat * 2 ^ 8 + ((List.range 4).map fun n => bit (s.lshut n) * 2 ^ (4 + n)).foldl (· + ·) 0
    + l.srcPresent.toNat
  else if o < 0x10 then l.mislock.half (o = 0xC)
  else if o = 0x10 then bit (s.floorStopped 1) * 2 ^ 31 + laneCount l.floorOut1 * 2 ^ 16 + bit (s.floorStopped 0) * 2 ^ 15
    + laneCount l.floorOut0
  else if o = 0x20 then l.monCtrl.toNat
  else if o = 0x24 then bit l.monValid * 2 ^ 31 + l.monValue.toNat
  else
    let p := s.lport ((o - 0x100) / 0x10)
    match o % 0x10 with
    | 0 => p.txLocked.toNat * 2 ^ 16 + p.rxLocked.toNat
    | 4 => p.pass.toNat * 2 ^ 16 + p.worst.toNat
    | 8 => p.eye.toNat * 2 ^ 30 + p.eyeCause.toNat * 2 ^ 28 + p.probes.toNat
    | _ => (BitVec.ofInt 16 (p.temp * 8 / 125)).toNat

/-- RUN. -/
def State.runReg (s : State) (o : Nat) : Nat :=
  if o < 0x80 then
    let p := s.rport (o / 4)
    p.state.toNat * 2 ^ 29 + p.standsFor.toNat * 2 ^ 24 + (s.lport (o / 4)).lanes.toNat
  else if o < 0x100 then (s.rport ((o - 0x80) / 4)).code.toNat * 2 ^ 16
  else if o < 0x200 then
    let r := (s.rport ((o - 0x100) / 8)).found
    if o % 8 = 0 then r.standsFor.toNat * 2 ^ 18 + r.chipId.toNat else r.major.toNat * 2 ^ 16 + r.flaskId.toNat
  else if o = 0x200 then
    match s.runner.flask with
    | some f => 2 ^ 31 + bit f.paceAdopt * 2 ^ 30 + f.flaskId.toNat
    | none => 0
  else if o = 0x204 then s.rank
  else if o = 0x208 then s.flaskN
  else if o = 0x20C then 0x0100
  else if o < 0x218 then halfOf s.assay.image.arithFp.toNat (o = 0x214)
  else if o < 0x220 then s.runner.foreign.half (o = 0x21C)
  else s.runner.spares.toNat

/-- ASY. -/
def State.asyReg (s : State) (o : Nat) : Nat :=
  let a := s.assay
  if o = 0 then a.cause.toNat * 2 ^ 16 + bit a.otp.engineering * (2 ^ 7 + 2 ^ 6) + bit a.exhausted * 2 ^ 5
    + bit s.approved * 2 ^ 4 + a.mode.toNat
  else if o = 4 then bit a.image.slot * 2 ^ 25 + bit a.fallback * 2 ^ 24 + bit a.trial * 2 ^ 23
    + bit s.ledger.bootPending * 2 ^ 22 + bit (s.ledger.bootPending && !s.ledger.bootActive) * 2 ^ 21
    + a.reasonA.toNat * 2 ^ 12 + a.reasonB.toNat * 2 ^ 8
  else if o = 8 then a.image.svn.toNat * 2 ^ 16 + s.ledger.rollback.toNat
  else if o = 0xC then a.image.version.toNat
  else if o = 0x10 then (32768 - s.ledger.lmsQ) * 2 ^ 16 + (a.bottom.map fun b => 32768 - b.next).getD 0
  else if o = 0x14 then a.service.toNat * 2 ^ 24 + bit a.serviceOk * 2 ^ 16
  else 0

/-- ERR_FAULT (Table 19-8): each bit follows its condition (R387). -/
def State.faultBits (s : State) : Nat :=
  let a := s.assay.mode
  bit (s.err.health.health < 200) * 64 + bit (s.boot.stopped && s.boot.cause != 1) * 32
    + bit (a = .error || a = .zeroised || a = .decommissioned) * 16 + bit (s.light.floorStall != 0) * 8
    + bit s.riser.lost * 4 + bit (s.err.intakeStall != 0) * 2 + bit (s.ident.short0 || s.ident.short1)

/-- FAULT_N is low: a bit of ERR_FAULT, or PWRGD_MAIN rose too early (Table 22-7). -/
def State.faultLow (s : State) : Bool := s.pins.vddAon && s.pins.pwrgdAon && (s.faultBits != 0 || s.pins.lateAon)

/-- ERR. -/
def State.errReg (s : State) (o : Nat) : Nat :=
  let e := s.err
  if o = 0 then s.faultBits
  else if o = 4 then e.health.loc * 2 ^ 16 + e.health.health
  else if o = 8 then e.health.dLink * 2 ^ 16 + e.health.dLocal
  else if o = 0xC then e.seq.toNat
  else if o < 0x18 then e.rsvd.half (o = 0x14)
  else if o < 0x20 then e.corrSram.half (o = 0x1C)
  else if o < 0x28 then e.uncorrSram.half (o = 0x24)
  else if o < 0x30 then e.poisonWritten.half (o = 0x2C)
  else if o < 0x38 then e.poisonConsumed.half (o = 0x34)
  else if o = 0x38 then e.hbmPasses.toNat * 2 ^ 16 + e.sramPasses.toNat
  else if o < 0x180 then
    let st := (o - 0x100) / 16
    (if o % 16 < 8 then Tab.get Ctr48.zero e.corrHbm st else Tab.get Ctr48.zero e.uncorrHbm st).half (o % 8 = 4)
  else if o < 0x280 then (Tab.get 0 e.portShared ((o - 0x200) / 4)).toNat
  else (Tab.get 0 e.log ((o - 0x1000) / 32)).toNat / 2 ^ (8 * (o % 32)) % 2 ^ 32

/-- A bandwidth window unit (Table 20-4). CNT_BW_CTRL reads as the length in force, until the boundary at which the one written
comes into force (R5, R399: DESIGN CHOICE, log entry 71). -/
def BwUnit.reg (b : BwUnit) (o : Nat) : Nat :=
  if o = 0 then b.w.toNat
  else if o = 4 then b.windows.toNat
  else if o < 0x10 then halfOf b.last0.toNat (o = 0xC)
  else if o < 0x18 then halfOf b.last1.toNat (o = 0x14)
  else if o < 0x20 then halfOf b.peak0.toNat (o = 0x1C)
  else halfOf b.peak1.toNat (o = 0x24)

/-- The sampling registers (Table 20-4). -/
def Sampler.reg (m : Sampler) (o : Nat) : Nat :=
  if o = 0x100 then m.ctrl.toNat
  else if o = 0x104 then m.dropped * 2 ^ 20 + m.next * 2 ^ 12 + bit m.lost * 2 ^ 9 + m.count
  else halfOf m.base.toNat (o = 0x10C)

/-- CNT below its shadow. -/
def CntRegs.reg (r : CntRegs) (o : Nat) : Nat :=
  if o < 8 then halfOf r.time.toNat (o = 4)
  else if o = 8 then 0
  else if 0x1000 ≤ o ∧ o < 0x2000 then (Tab.get BwUnit.init r.bw ((o - 0x1000) / 0x40)).reg (o % 0x40)
  else if 0x10000 ≤ o ∧ o < 0x20000 ∧ 0x100 ≤ o % 0x200 then
    (Tab.get Sampler.init r.samp ((o - 0x10000) / 0x200)).reg (o % 0x200)
  else (Tab.get Ctr48.zero r.ctr (o / 8 * 8)).half (o % 8 = 4)

/-- A window of CLS: zero for an unmapped cluster (R93), and zero in the sample buffer of a group that is not ON (R403). -/
def State.clsReg (s : State) (g o : Nat) : Nat :=
  let c := s.cl g
  if !s.mapped g then 0
  else if o = 0 then bit c.coreStalled * 2 ^ 8 + bit c.unused * 8 + c.run.toNat
  else if o = 4 then c.pc.toNat % 2 ^ 18
  else if o = 8 then c.qVx.length * 2 ^ 20 + c.qDr.length * 2 ^ 15 + c.qMx.length * 2 ^ 10 + c.qSt.length * 2 ^ 5 + c.qLd.length
  else if o = 0xC then
    (match c.stall with
      | some (.token t) => 2 ^ 24 + t % 256 * 2 ^ 16
      | _ => 0) + ([Engine.ld, .st, .mx, .dr, .vx].map fun e => bit (c.heldByToken e) * 2 ^ e.toNat).foldl (· + ·) 0
  else if o = 0x10 then c.fault.status.toNat * 2 ^ 16 + c.fault.source.toNat * 2 ^ 12 + bit c.fault.valid
  else if o = 0x14 then c.fault.pc.toNat
  else if o < 0x20 then halfOf c.fault.addr.toNat (o = 0x1C)
  else if o < 0x60 then c.tokens.toNat / 2 ^ (8 * (o - 0x40)) % 2 ^ 32
  else if s.clusterOn g then
    (Tab.get 0 s.cnt.slots (256 * g + (o - 0x8000) / 16)).toNat / 2 ^ (8 * (o % 16)) % 2 ^ 32
  else 0

/-- The register at an aligned offset of BAR0; a reserved offset reads zero (R23). -/
def State.readReg (s : State) (off : Nat) : Word32 :=
  let o := off % 0x100000
  if (regMask off).isNone then 0
  else if 0x1000000 ≤ off then BitVec.ofNat 32 (s.clsReg ((off - 0x1000000) / 0x10000) (off % 0x10000))
  else BitVec.ofNat 32 (
    match off / 0x100000 with
    | 0 => s.identReg o
    | 1 => s.sprReg o
    | 2 => s.rsrReg o
    | 3 => s.pwrReg o
    | 4 => s.lgtReg o
    | 5 => s.runReg o
    | 6 => s.asyReg o
    | 7 => s.errReg o
    | _ => if o < 0x80000 then s.shownCounters.reg o else s.cnt.shadow.reg (o - 0x80000))

/-- An access of `width` bits at an offset of BAR0: 64 bits cover two registers, the lower address in the lower half. -/
def State.readBar (s : State) (off width : Nat) : Word64 :=
  if width = 32 ∧ off % 4 = 0 then (s.readReg off).setWidth 64
  else if width = 64 ∧ off % 8 = 0 then (s.readReg (off + 4)) ++ (s.readReg off)
  else 0

/-! ### What a port shows of itself (R194, R195) -/

/-- The Device ID and the class code of a port. -/
def deviceId : HostPort → BitVec 16
  | .cope => 0x0800
  | .drag => 0x0801
def classCode : BitVec 24 := 0x120000

/-- A dword of BAR4: the MSI-X table, four dwords a vector, and from 0x8000 the pending bits, 32 a dword. -/
def HostPortState.bar4 (h : HostPortState) (off : Nat) : Word32 :=
  if off < 0x8000 then BitVec.ofNat 32 (((h.msixConfig.table[off / 16]?).getD 0).toNat / 2 ^ (8 * (off % 16)))
  else BitVec.ofNat 32 (h.pending.toNat / 2 ^ (8 * (off - 0x8000)))

/-- A dword of a port's memory by the BAR it lies in: BAR0 is the same on both ports, and BAR2 reads as zero (Table 11-1). -/
def State.readPort (s : State) (p : HostPort) (bar off : Nat) : Word32 :=
  match bar with
  | 0 => s.readReg off
  | 4 => (s.port p).bar4 off
  | _ => 0

/-- A host's read of a BAR: the value, and what the read leaves: its bytes counted (R399), and, in the Assay's block, the service that shows
status (R368). -/
def State.hostRead (s : State) (p : HostPort) (bar off width : Nat) : Word64 × State :=
  if !s.hostReach p then (0, s.notReached p)
  else
    let v := if bar = 0 then s.readBar off width else (s.readPort p bar off).setWidth 64
    let s := s.hostTlp p true (width / 8)
    (v, if bar = 0 ∧ off / 0x100000 = 6 ∧ s.assay.serves then s.service 7 else s)

/-! ### Configuration space (R194, R195, R409, R410) -/

/-- What configuration space holds: the IDs, Command, the class code with the revision, the BARs by number, Device Control, MSI-X's
Message Control, AER's registers, the time that Readiness Time Reporting states, and the dwords of the Keaginor DVSEC from offset 0x08 on.
The places of the standard registers are the base specification's. -/
inductive ConfigReg where
  | ids | command | classCode
  | bar (n : Fin 6)
  | deviceControl | msixControl
  | aerUncorStatus | aerUncorMask | aerUncorSeverity | aerCorStatus | aerCorMask
  | readiness
  | dvsec (off : Nat)
deriving DecidableEq, Repr

/-- How a port answers a configuration read: not at all, with CRS, or with a dword (R410). -/
inductive ConfigAnswer where
  | silent
  | crs
  | value (w : Word32)
deriving DecidableEq, Repr

/-- The two dwords of a 64-bit BAR: its address bits above its size, and its type bits (Table 11-1). -/
def barDword (v : BitVec 64) (size type : Nat) (high : Bool) : Nat :=
  let w := v.toNat / size * size + type
  if high then w / 2 ^ 32 else w

/-- The time of Readiness Time Reporting, in milliseconds: 12 s (R410). -/
def readinessMs : Nat := 12000

/-- A configuration register as it reads. -/
def State.configReg (s : State) (p : HostPort) (r : ConfigReg) : Word32 :=
  let h := s.port p
  let bit (b : Bool) (n : Nat) : Nat := if b then 2 ^ n else 0
  match r with
  | .ids => deviceId p ++ Config.vendorId
  | .command => BitVec.ofNat 32 ((h.setup.command &&& 0xFFFB).toNat + bit h.busMaster 2)
  | .classCode => classCode ++ Config.revisionId
  | .bar n => BitVec.ofNat 32 (
      if n.val < 2 then barDword h.setup.bar0 (2 ^ 26) 4 (n.val % 2 = 1)
      else if n.val < 4 then barDword h.setup.bar2 (2 ^ 22) 12 (n.val % 2 = 1)
      else barDword h.setup.bar4 (2 ^ 16) 4 (n.val % 2 = 1))
  | .deviceControl => h.setup.deviceControl.setWidth 32
  | .msixControl => BitVec.ofNat 32 ((64 + bit h.msixConfig.functionMask 14 + bit h.msixConfig.enable 15) * 2 ^ 16)
  | .aerUncorStatus => h.aerUncor
  | .aerUncorMask => h.setup.uncorMask
  | .aerUncorSeverity => h.setup.uncorSeverity
  | .aerCorStatus => h.aerCor
  | .aerCorMask => h.setup.corMask
  | .readiness => BitVec.ofNat 32 readinessMs
  | .dvsec off => if off = 8 then 1 else if off = 12 then s.boot.status else 0

/-- A port's answer to a configuration read (R409, R410, R414). -/
def State.readConfig (s : State) (p : HostPort) (r : ConfigReg) : ConfigAnswer :=
  let h := s.port p
  if !h.linkUp || h.perst || h.flr then .silent
  else if s.barOpen then .value (s.configReg p r)
  else .crs

end Sys2Proof.Machine
end

