-- ==== Sys2Proof/Machine/Jtag.lean ====
section
/-! DEFINITION. JTAG (R369, R430): instructions, the data registers, and the boundary register over the lands of Table 22-8. -/

namespace Sys2Proof.Machine

/-! ### The lands (Table 22-8)

In the table's order without the JTAG lands, AON_CLK, PWRGD_AON and PWRGD_MAIN, which makes 44: SLOT_ID 0 to 2, BOARD_ID 3 to 17,
WARM_RESET_N 18, THERMTRIP_N 19, FAULT_N 20, LSHUT_N 21 to 24, LBUS 25 and 26, SMB_CLK and SMB_DAT 27 and 28, SMB_ALERT_N 29, AVS0 and AVS1
30 to 35, QSPI 36 to 41, QSPI_HOLD_N 42, QSPI_BUSY 43. That order of the cells is the model's (DESIGN CHOICE, log entry 44). -/

/-- A land that is an input only. -/
def landInput (n : Nat) : Bool := decide (n < 19) || n = 32 || n = 35 || n = 42

/-- The levels that the Nelhan and the board give the lands; those of a bus are free. -/
def State.ownLands (s : State) : List Bool :=
  let free (lo n : Nat) : List Bool := (List.range n).map fun i => (Config.freeValue s.free).getLsbD (lo + i)
  ((List.range 18).map fun i => s.ident.chipId.getLsbD i) ++ [s.pins.warmResetN, !s.pins.thermtrip, !s.faultLow]
    ++ ((List.range 4).map fun n => !s.lshut n) ++ free 0 4 ++ [!s.pins.smbAlert] ++ free 4 12 ++ [!s.pins.qspiHold, s.qspiBusy]

/-- EXTEST drives the lands: only while PWRGD_MAIN is low. -/
def State.extestOn (s : State) : Bool := s.jtag.trstN && s.jtag.ir = .extest && !s.pins.pwrgdMain

/-- The levels of the lands: what EXTEST drives, on lands that are not inputs, else their own. -/
def State.lands (s : State) : List Bool :=
  s.ownLands.mapIdx fun n b => if s.extestOn && !landInput n then s.jtag.latch.getD n false else b

/-! ### Instructions and data registers -/

/-- What an instruction code stands for on this part: all ones is BYPASS, as IEEE 1149.1 has it. -/
def jtagIr (engineering : Bool) (code : BitVec 8) : JtagIr :=
  if code = 0xFF then .bypass
  else
    match Config.jtagCode code with
    | 0 => .bypass
    | 1 => .idcode
    | 2 => .sample
    | 3 => .extest
    | _ => if engineering then .other else .bypass

/-- IDCODE. -/
def jtagIdcode : BitVec 32 := 0x10800A5F

/-- A register, its captured bits the nearest to TDO first, with bits shifted through it: what it holds then, and what came out. -/
def shiftBits (reg bits : List Bool) : List Bool × List Bool := ((reg ++ bits).drop bits.length, (reg ++ bits).take bits.length)

/-- A register captured and shifted. -/
def Jtag.scan (j : Jtag) (reg bits : List Bool) : Jtag := { j with dr := (shiftBits reg bits).1, out := (shiftBits reg bits).2 }

/-- The boundary register scanned: it captures the lands, and its update stage takes what it holds then. -/
def State.scanLands (s : State) (bits : List Bool) : State :=
  { s with free := s.free + 1, jtag := { s.jtag.scan s.lands bits with latch := (shiftBits s.lands bits).1 } }

/-- Bits through the data register that the instruction in force selects. What a private register gives is free. -/
def State.shiftDr (s : State) (bits : List Bool) : State :=
  let bypass := { s with jtag := s.jtag.scan [false] bits }
  match s.jtag.ir with
  | .bypass => bypass
  | .idcode => { s with jtag := s.jtag.scan ((List.range 32).map jtagIdcode.getLsbD) bits }
  | .sample => s.scanLands bits
  | .extest => if s.pins.pwrgdMain then bypass else s.scanLands bits
  | .other => { s with
      free := s.free + bits.length
      jtag := { s.jtag with dr := [], out := bits.mapIdx fun i _ => (Config.freeValue (s.free + i)).getLsbD 0 } }

/-- JTAG. While TRST_N is low the TAP stays in Test-Logic-Reset. -/
def execJtagInstruction (op : JtagOp) (s : State) : ServiceOut :=
  .next (match op with
  | .trst level => { s with jtag := { s.jtag with trstN := level, ir := if level then s.jtag.ir else .idcode } }
  | .loadIr code => if s.jtag.trstN then { s with jtag := { s.jtag with ir := jtagIr s.assay.otp.engineering code } } else s
  | .shiftDr bits => if s.jtag.trstN then s.shiftDr bits else s)

end Sys2Proof.Machine
end

