-- ==== Sys2Proof/Machine/Links.lean ====
section
/-! DEFINITION. Frames that arrive on a Runner port: numbering, replay, the fence, and what each type does (R263 to R267,
R274 to R277, R287, R295, R298, R302). -/

namespace Sys2Proof.Machine

abbrev FrameOut := Host.Outcome State Fault Refusal

/-! ### The line (R264 to R267) -/

/-- A frame of the replay buffer that an ACK_SEQ acknowledges, modulo 2^48. -/
def ackCovers (ack : BitVec 48) (x : SentFrame) : Bool := decide ((ack - x.seq).toNat < 2 ^ 47)

/-- A NAK is a new one of its frame once the frames sent again for the last could have arrived: 72 periods of AON_CLK are the 2.88 µs
of the replay buffer (R266, DESIGN CHOICE, log entry 79). -/
def Port.newNak (o : Port) (ack : BitVec 48) (now : Word64) : Bool :=
  decide (o.heardNaks = 0) || decide (o.heardFor ≠ ack) || decide (72 ≤ (now - o.heardAt).toNat)

/-- A NAK heard. -/
def Port.hearNak (o : Port) (ack : BitVec 48) (now : Word64) : Port :=
  { o with heardNaks := if o.heardNaks ≠ 0 ∧ o.heardFor = ack then o.heardNaks + 1 else 1, heardFor := ack, heardAt := now }

/-- A NAK taken by the sender: what is not acknowledged is sent again, and the eighth NAK in a row of one frame takes the port down. -/
def State.nakIn (s : State) (p : Nat) (ack : BitVec 48) : State :=
  let now := s.cnt.regs.time
  if (s.rport p).newNak ack now then
    let s := s.updRport p fun o => o.hearNak ack now
    if 8 ≤ (s.rport p).heardNaks then s.portDown p stPeerLost else s.resend p
  else s

/-- What a whole frame's header tells the sender: acknowledged frames leave the replay buffer, a NAK has the rest sent
again, and frames that waited for room are sent (R266); its PACE is noted (R305). -/
def State.headerIn (s : State) (p : Nat) (f : Frame) : State :=
  let s := s.updRport p fun o => { o with
    replay := o.replay.dropWhile (ackCovers f.ackSeq)
    nextAck := if (f.ackSeq + 1 - o.nextAck).toNat ≤ (o.txSeq - o.nextAck).toNat then f.ackSeq + 1 else o.nextAck
    pace := min o.pace f.pace.toNat
    heardNaks := if f.nak then o.heardNaks else 0 }
  let s := if f.nak then s.nakIn p f.ackSeq else s
  State.pumpTx (s.rport p).txQ.length p s

/-- A frame dropped by R267. -/
def State.foreignFrame (s : State) : State :=
  { s with runner := { s.runner with foreign := s.runner.foreign.add 1 } }

/-- A frame delivered and counted. -/
def State.countRx (s : State) (p : Nat) (f : Frame) : State :=
  let u := s.unitOf p
  let s := s.count (ctrRunner u 1) 1
  if 1 ≤ f.type.toNat ∧ f.type.toNat ≤ 4 then (s.count (ctrRunner u 3) (32 * f.count)).bwCount u true (32 * f.count) else s

/-- A frame that arrives whole on port p, and whether it is delivered: in SEQ order, once, and of the chip's own flask. A
dark port decodes nothing (R268). -/
def State.arrive (s : State) (p : Nat) (f : Frame) : State × Bool :=
  if (s.rport p).state.isDark then (s, false)
  else if !(s.rport p).state.inService then (s.foreignFrame, false)
  else
    let s := s.checkLanes p f
    if !(s.rport p).state.inService then (s, false)
    else
      let own := f.flaskId = s.flaskId
      let s := if own then s.headerIn p f else s
      if !(s.rport p).state.inService then (s, false)
      else if f.seq ≠ (s.rport p).rxSeq then (s.count (ctrRunner (s.unitOf p) 5) 1, false)
      else
        let s := s.updRport p fun o => { o with rxSeq := o.rxSeq + 1, nakOut := false, nakCount := 0 }
        if ¬own ∨ 7 ≤ f.type.toNat then (s.foreignFrame, false) else (s.countRx p f, true)

/-- A frame that arrives, and what it does when it is delivered. `kind` says which frames the command stands for; a frame of
a reserved type may come by any. -/
def State.deliver (s : State) (p : Nat) (f : Frame) (kind : Bool) (body : State → State) : State :=
  if kind || 7 ≤ f.type.toNat then
    match s.arrive p f with
    | (s, true) => body s
    | (s, false) => s
  else s

/-- KIND of a control frame. -/
def frameKind (f : Frame) : Nat := fieldOf f.arg.toNat 0 8

/-- A control or stream frame for this rank, or relayed. -/
def State.toRank (s : State) (p : Nat) (f : Frame) (body : State → State) : State :=
  if frameDest f = s.rank then body s else s.relay p f

/-- IDLE_FRAME (R264). -/
def execIdleFrame (p : Fin 32) (frame : Frame) (s : State) : FrameOut :=
  .next (s.deliver p frame (frame.type = 0) id)

/-- DAMAGED_FRAME (R265, R266): the frame awaited is NAKed, and the eighth NAK in a row takes the port down. Its lanes are checked as those
of a whole frame are, its COUNT taken as the operand tells it (R315: DEDUCED, log entry 79). On a port that is not admitted a training frame
is no foreign one (R267). -/
def execDamagedFrame (p : Fin 32) (frame : Frame) (s : State) : FrameOut :=
  let o := s.rport p
  if o.state.isDark then .next s
  else if !o.state.inService then .next (if frame.type = 6 then s else s.foreignFrame)
  else
    let s := (s.count (ctrRunner (s.unitOf p) 5) 1).checkLanes p frame
    if !(s.rport p).state.inService ∨ frame.seq ≠ o.rxSeq then .next s
    else
      let s := s.updRport p fun o => { o with nakOut := true, nakCount := o.nakCount + 1 }
      .next (if 8 ≤ (s.rport p).nakCount then s.portDown p stPeerLost else s)

/-- STREAM_DATA (R298). -/
def execStreamData (p : Fin 32) (frame : Frame) (s : State) : FrameOut :=
  .next (s.deliver p frame (frame.type = 1) fun s =>
    s.toRank p frame fun s => takeStreamFrame p (s.rport p).standsFor.toNat frame s)

/-- START (R295). A control frame of a reserved KIND has no effect beyond its delivery. -/
def execStart (p : Fin 32) (frame : Frame) (s : State) : FrameOut :=
  .next (s.deliver p frame (frame.type = 5 && frameKind frame != 2 && frameKind frame != 3) fun s =>
    s.toRank p frame fun s => if frameKind frame = 1 then takeStartFrame frame s else s)

/-- VOTE_UP (R302). -/
def execVoteUp (p : Fin 32) (frame : Frame) (s : State) : FrameOut :=
  .next (s.deliver p frame (frame.type = 5 && frameKind frame = 2) fun s =>
    s.toRank p frame fun s => s.takeVoteUp frame)

/-- VOTE_DOWN (R302). -/
def execVoteDown (p : Fin 32) (frame : Frame) (s : State) : FrameOut :=
  .next (s.deliver p frame (frame.type = 5 && frameKind frame = 3) fun s =>
    s.toRank p frame fun s => s.takeVoteDown frame)

/-! ### Board accesses (R276, R277) -/

/-- ARG of a board frame: the chip-local address and the transfer tag. -/
def frameAddr (f : Frame) : Nat := fieldOf f.arg.toNat 0 45
def frameXfer (f : Frame) : BitVec 16 := BitVec.ofNat 16 (fieldOf f.arg.toNat 48 16)

/-- A board access that has arrived waits its turn. -/
def State.queueBoard (s : State) (p : Nat) (f : Frame) (write : Bool) : State :=
  s.updRport p fun o => { o with boards := o.boards ++ [⟨write, frameAddr f, frameXfer f, f.count, f.payload, f.poison⟩] }

/-- R184 for a range that a peer reads or writes. -/
def boardBuffer (pat : Pattern) (write : Bool) (a n : Nat) : Option (BitVec 16) :=
  match (pat.bufs.mapIdx fun i b => (i, b)).find? fun e =>
      e.2.base ≤ a && a + n ≤ e.2.base + e.2.length && pat.saveBuffer != some e.1 with
  | none => some stHbmExceeded
  | some (_, b) => if (write && b.kind = 0) || (!write && b.kind = 1) then some stVersioning else none

/-- The stream engine that serves a port's board accesses. -/
def State.boardEngine (s : State) (pat : Pattern) (p : Nat) : Option Nat := pat.engineOf (s.rport p).standsFor.toNat

/-- What is wrong with a board access: its buffer, or a phase that the port's engine does not own. -/
def State.boardCode (s : State) (pat : Pattern) (p : Nat) (b : BoardAccess) (a : Nat) : Option (BitVec 16) :=
  (boardBuffer pat b.write b.addr (32 * b.length)).orElse fun _ =>
    match s.boardEngine pat p with
    | none => some stSlotCollision
    | some e => (unowned pat (.stream e) (p % 2) b.write a).map fun _ => stSlotCollision

/-- ARG of a response that carries a code: bit 45, which the address does not reach, tells it from one that carries data (R276: DEDUCED, log
entry 28). -/
def failArg (b : BoardAccess) : BitVec 64 := boardArg b.tag b.addr ||| (1#64 <<< 45)

/-- A response that carries a code, in bits [15:0] of its one payload codeword. -/
def State.boardFailure (s : State) (p : Nat) (b : BoardAccess) (st : BitVec 16) : State :=
  s.xmit p (rawFrame 4 1 0 (failArg b) (leBytes 32 st.toNat) [])

/-- A response to a board read: its data. -/
def State.boardReply (s : State) (p : Nat) (b : BoardAccess) (n : Nat) (data : List Byte) (poison : List Nat) : State :=
  s.xmit p (rawFrame 4 n 0 (boardArg b.tag b.addr) data poison)

/-- A board access made. -/
def State.makeBoard (s : State) (pat : Pattern) (p : Nat) (b : BoardAccess) (a : Nat) : State :=
  if b.write then
    carryWrite (s.markWritten pat a) a b.data (b.poison.map (· - 1)) 0 b.length
  else
    let (r, s) := s.readMem s.runPour false a (32 * b.length)
    s.boardReply p b b.length r.data (r.poisoned.map fun c => c - a / 32 + 1)

/-- The first board access that waits on a port served in a phase, once a RUN of the flask runs. -/
def State.serveBoard (s : State) (p : Nat) (write : Bool) (phase : Nat) : State :=
  match (s.rport p).boards, s.runPattern with
  | b :: rest, some pat =>
    if b.write = write ∧ s.mayRelay then
      let map := (s.run.map fun r => s.currentMap r.handle).getD 0
      let a := translateAddr pat map write b.addr
      let popped := s.updRport p fun o => { o with boards := rest }
      match s.boardCode pat p b a with
      | some st => popped.boardFailure p b st
      | none =>
        let e := (s.boardEngine pat p).getD 0
        if accessIn pat (.stream e) (p % 2) write a phase && s.floorRuns (p % 2) write a then 
          (List.range b.length).foldl (fun s k => s.floorCarry (p % 2) write (a + 32 * k)) (popped.makeBoard pat p b a) else s
    else s
  | _, _ => s

/-- A board frame that arrives, then the access that waits first. -/
def State.boardFrame (s : State) (p : Nat) (frame : Option Frame) (write : Bool) (phase : Nat) : State :=
  let s := match frame with
    | none => s
    | some f => s.deliver p f (f.type = if write then 3 else 2) fun s => s.queueBoard p f write
  s.serveBoard p write phase

/-- BOARD_READ_REQUEST: a frame that arrives, if any, and the phase that has come. -/
def execBoardReadRequest (p : Fin 32) (frame : Option Frame) (phase : Nat) (s : State) : FrameOut :=
  .next (s.boardFrame p frame false phase)

/-- BOARD_WRITE. -/
def execBoardWrite (p : Fin 32) (frame : Option Frame) (phase : Nat) (s : State) : FrameOut :=
  .next (s.boardFrame p frame true phase)

/-- The cluster and the copy that await a tag. -/
def State.askedBy (s : State) (tag : BitVec 16) : Option (Nat × Flight) :=
  (List.range 128).findSome? fun g =>
    ((s.cl g).flights.find? fun fl => (fl.copy.bind fun c => c.asked) = some tag).map fun fl => (g, fl)

/-- The codewords of a response: number, bytes, poison. -/
def responseCws (f : Frame) : List (Nat × List Byte × Bool) :=
  (List.range f.count).map fun k =>
    (frameAddr f / 32 + k, (f.payload.drop (32 * k)).take 32, f.poison.contains (k + 1))

/-- A response's data taken by the copy that awaits it, which goes on. -/
def State.takeResponse (s : State) (g : Nat) (fl : Flight) (f : Frame) : State :=
  match fl.copy with
  | some cs =>
    let cs := { cs with come := cs.come ++ responseCws f, asked := none }
    advanceFree g fl.idx (s.updCl g fun c => c.updFlight fl.idx fun x => { x with copy := some cs })
  | none => s

/-- The board address a response is about: its port's neighbour and ARG. -/
def State.peerAddr (s : State) (p : Nat) (f : Frame) : Nat :=
  let k := (s.rport p).standsFor.toNat / 2
  (if k < s.slot then k else k + 1) * 2 ^ 45 + frameAddr f

/-- A response of the running attempt: its data, or the code that faults the pour. -/
def State.boardResponse (s : State) (p : Nat) (f : Frame) : State :=
  let tag := frameXfer f
  match s.run with
  | none => s
  | some r =>
    if r.fault.isSome ∨ tag.toNat / 2 ^ 15 ≠ r.attempt then s
    else if f.arg.getLsbD 45 then
      let st := BitVec.ofNat 16 (fieldOf (leNat (f.payload.take 32)) 0 16)
      match s.askedBy tag with
      | some (g, fl) => s.faultPour g fl.eng.toNat st (BitVec.ofNat 18 fl.entry.pc) (s.peerAddr p f)
      | none => s.stopAttempt st false
    else
      match s.askedBy tag with
      | some (g, fl) => s.takeResponse g fl f
      | none => s

/-- BOARD_READ_RESPONSE. -/
def execBoardReadResponse (p : Fin 32) (frame : Frame) (s : State) : FrameOut :=
  .next (s.deliver p frame (frame.type = 4) fun s => s.boardResponse p frame)

end Sys2Proof.Machine
end

