-- ==== Sys2Proof/Machine/Regs.lean ====
section
/-! DEFINITION. REGISTER_WRITE: a host write anywhere in BAR0 (R2, R5, R22, R23). -/

namespace Sys2Proof.Machine

/-- SPR_CHAN_REFUSAL as its home takes it: VALID is cleared by a 1 from the owner's port (R215). -/
def State.writeRefusal (s : State) (port : HostPort) (c : Nat) (value : Word32) : State :=
  let s := s.rsvdIf (fieldOf value.toNat 2 6 != 0)
  if (s.chan c).state = .closed ∨ (s.chan c).owner ≠ port then s.addStray
  else if value.getLsbD 0 then s.updVchan c fun v => { v with refusal := { v.refusal with valid := false } }
  else s

/-- LGT_STATE as its home takes it: LBUS_ERR is cleared by ones. -/
def State.writeLgtState (s : State) (value : Word32) : State :=
  let s := s.rsvdIf (value.toNat / 2 ^ 12 != 0)
  { s with light := { s.light with lbusErr := s.light.lbusErr &&& ~~~BitVec.ofNat 4 (fieldOf value.toNat 8 4) } }

/-- RSR_CHAN_RESET as its home takes it. -/
def State.writeChanReset (s : State) (port : HostPort) (value : Word32) : State :=
  let v := value.toNat
  (s.rsvdIf (fieldOf v 6 2 != 0 || v / 2 ^ 9 != 0)).writeReset port (v % 64) (value.getLsbD 8)

/-- A register that only reads, or a reserved offset, written (R2, R23). -/
def State.writeOther (s : State) (off : Nat) (value : Word32) : State :=
  match regMask off with
  | none => s.rsvdWrite
  | some m => s.rsvdIf (value.toNat &&& m != 0)

/-- A register of the SPR block written. -/
def State.writeSpr (s : State) (port : HostPort) (off : Nat) (value : Word32) : State :=
  let o := off % 0x100000
  if 0x1000 ≤ o ∧ o < 0x2000 ∧ o % 0x40 = 0x20 then s.writeRhead port ((o - 0x1000) / 0x40) value
  else if 0x1000 ≤ o ∧ o < 0x2000 ∧ o % 0x40 = 0x28 then s.writeRefusal port ((o - 0x1000) / 0x40) value
  else s.writeOther off value

/-- A register of the CNT block written. -/
def State.writeCnt (s : State) (off : Nat) (value : Word32) : State :=
  let o := off % 0x100000
  if o = 8 then s.writeSnap value
  else if 0x1000 ≤ o ∧ o < 0x1A80 ∧ o % 0x40 = 0 then s.writeBw ((o - 0x1000) / 0x40) value
  else if 0x10000 ≤ o ∧ o < 0x20000 ∧ o % 0x200 = 0x100 then s.writeSampling ((o - 0x10000) / 0x200) value
  else s.writeOther off value

/-- One register written. What the tests of MRAM regions and of the Assay find is free here: the commands RSR_REINIT and
ASY_SELFTEST carry it. -/
def State.writeReg (s : State) (port : HostPort) (off : Nat) (value : Word32) : State :=
  if off = 0x200004 then s.writeChanReset port value
  else if off = 0x200008 then s.drawFree.2.writeReinit value (s.drawFree.1.setWidth 4)
  else if off = 0x300000 then s.writeCap value
  else if off = 0x300004 then s.writeStatus value
  else if off = 0x400000 then s.writeLgtState value
  else if off = 0x400020 then s.writeMonitor value
  else if off = 0x600018 then s.drawFree.2.writeSelftest value (s.drawFree.1.getLsbD 0)
  else if off = 0x60001C then s.writeZeroise value
  else if off / 0x100000 = 1 then s.writeSpr port off value
  else if off / 0x100000 = 8 then s.writeCnt off value
  else s.writeOther off value

/-- A write of `width` bits at an offset of BAR0. A 64-bit write is a write of each of its two registers, and counts in
ERR_RSVD_WRITES once for each that it would count for by itself (R2, R23: DESIGN CHOICE, log entry 71). -/
def State.writeBar (s : State) (port : HostPort) (off width : Nat) (value : Word64) : State :=
  if width = 32 ∧ off % 4 = 0 then s.writeReg port off (value.setWidth 32)
  else if width = 64 ∧ off % 8 = 0 then
    (s.writeReg port off (value.setWidth 32)).writeReg port (off + 4) ((value >>> 32).setWidth 32)
  else s.rsvdWrite

/-- REGISTER_WRITE. -/
def execRegisterWrite (port : HostPort) (off width : Nat) (value : Word64) (s : State) : ServiceOut :=
  .next (if !s.hostReach port then s.notReached port
    else (s.hostTlp port false (width / 8)).writeBar port off width value)

end Sys2Proof.Machine
end

