-- ==== Sys2Proof/Machine/Dispatch.lean ====
section
/-! DEFINITION. One arm per command of the block. -/

namespace Sys2Proof.Machine

/-- The effect of a command on everything but the queue. -/
def exec (i : Instr) (s : State) : Host.Outcome State Fault Refusal :=
  match i with
  | .intakeWrite port c off data => Sys2Proof.Machine.execIntakeWrite port c off data s
  | .packetDecision c => Sys2Proof.Machine.execPacketDecision c s
  | .packetAccept c s0ok s4ok => Sys2Proof.Machine.execPacketAccept c s0ok s4ok s
  | .intakeBodyRetry c s0ok s4ok => Sys2Proof.Machine.execIntakeBodyRetry c s0ok s4ok s
  | .intakeStallTimeout c => Sys2Proof.Machine.execIntakeStallTimeout c s
  | .channelOpen c => Sys2Proof.Machine.execChannelOpen c s
  | .channelAdopt c => Sys2Proof.Machine.execChannelAdopt c s
  | .channelClose c => Sys2Proof.Machine.execChannelClose c s
  | .closeTeardown c => Sys2Proof.Machine.execCloseTeardown c s
  | .patternLoad c => Sys2Proof.Machine.execPatternLoad c s
  | .patternUnload c => Sys2Proof.Machine.execPatternUnload c s
  | .run c => Sys2Proof.Machine.execRun c s
  | .setStepSize c => Sys2Proof.Machine.execSetStepSize c s
  | .copyIn c => Sys2Proof.Machine.execCopyIn c s
  | .copyOut c => Sys2Proof.Machine.execCopyOut c s
  | .fill c => Sys2Proof.Machine.execFill c s
  | .queryDevice c => Sys2Proof.Machine.execQueryDevice c s
  | .queryPattern c => Sys2Proof.Machine.execQueryPattern c s
  | .energyRead c => Sys2Proof.Machine.execEnergyRead c s
  | .flaskJoin c => Sys2Proof.Machine.execFlaskJoin c s
  | .flaskLeave c => Sys2Proof.Machine.execFlaskLeave c s
  | .marginTest c => Sys2Proof.Machine.execMarginTest c s
  | .attestDeviceEvidence c => Sys2Proof.Machine.execAttestDeviceEvidence c s
  | .attestReceipt c => Sys2Proof.Machine.execAttestReceipt c s
  | .firmwareStage c => Sys2Proof.Machine.execFirmwareStage c s
  | .firmwareActivate c => Sys2Proof.Machine.execFirmwareActivate c s
  | .pourCommit c => Sys2Proof.Machine.execPourCommit c s
  | .finalReply c => Sys2Proof.Machine.execFinalReply c s
  | .sprChanRhead port c value => Sys2Proof.Machine.execSprChanRhead port c value s
  | .channelReset port c => Sys2Proof.Machine.execChannelReset port c s
  | .channelResetAbandon port c => Sys2Proof.Machine.execChannelResetAbandon port c s
  | .rsrReinit port value pass => Sys2Proof.Machine.execRsrReinit port value pass s
  | .registerWrite port off width value => Sys2Proof.Machine.execRegisterWrite port off width value s
  | .cntSnap port value => Sys2Proof.Machine.execCntSnap port value s
  | .cntBwCtrl u value => Sys2Proof.Machine.execCntBwCtrl u value s
  | .cntSampleCtrl g value => Sys2Proof.Machine.execCntSampleCtrl g value s
  | .asySelftest value pass => Sys2Proof.Machine.execAsySelftest value pass s
  | .zeroise value => Sys2Proof.Machine.execZeroise value s
  | .decommission value => Sys2Proof.Machine.execDecommission value s
  | .pwrCapWatts value => Sys2Proof.Machine.execPwrCapWatts value s
  | .trippedClear value => Sys2Proof.Machine.execTrippedClear value s
  | .monitorReading value => Sys2Proof.Machine.execMonitorReading value s
  | .monitorReadingDone value => Sys2Proof.Machine.execMonitorReadingDone value s
  | .add g => Sys2Proof.Machine.execAdd g s
  | .sub g => Sys2Proof.Machine.execSub g s
  | .and g => Sys2Proof.Machine.execAnd g s
  | .or g => Sys2Proof.Machine.execOr g s
  | .xor g => Sys2Proof.Machine.execXor g s
  | .shl g => Sys2Proof.Machine.execShl g s
  | .shr g => Sys2Proof.Machine.execShr g s
  | .sra g => Sys2Proof.Machine.execSra g s
  | .mul g => Sys2Proof.Machine.execMul g s
  | .mulhu g => Sys2Proof.Machine.execMulhu g s
  | .divu g => Sys2Proof.Machine.execDivu g s
  | .remu g => Sys2Proof.Machine.execRemu g s
  | .slt g => Sys2Proof.Machine.execSlt g s
  | .sltu g => Sys2Proof.Machine.execSltu g s
  | .min g => Sys2Proof.Machine.execMin g s
  | .max g => Sys2Proof.Machine.execMax g s
  | .addi g => Sys2Proof.Machine.execAddi g s
  | .movk g => Sys2Proof.Machine.execMovk g s
  | .fadd g => Sys2Proof.Machine.execFadd g s
  | .fsub g => Sys2Proof.Machine.execFsub g s
  | .fmul g => Sys2Proof.Machine.execFmul g s
  | .fdiv g => Sys2Proof.Machine.execFdiv g s
  | .fsqrt g => Sys2Proof.Machine.execFsqrt g s
  | .fmin g => Sys2Proof.Machine.execFmin g s
  | .fmax g => Sys2Proof.Machine.execFmax g s
  | .flt g => Sys2Proof.Machine.execFlt g s
  | .feq g => Sys2Proof.Machine.execFeq g s
  | .fcvtDS g => Sys2Proof.Machine.execFcvtDS g s
  | .fcvtSD g => Sys2Proof.Machine.execFcvtSD g s
  | .fcvtDL g => Sys2Proof.Machine.execFcvtDL g s
  | .fcvtLD g => Sys2Proof.Machine.execFcvtLD g s
  | .ld64 g => Sys2Proof.Machine.execLd64 g s
  | .ld32 g => Sys2Proof.Machine.execLd32 g s
  | .st64 g => Sys2Proof.Machine.execSt64 g s
  | .st32 g => Sys2Proof.Machine.execSt32 g s
  | .beq g => Sys2Proof.Machine.execBeq g s
  | .bne g => Sys2Proof.Machine.execBne g s
  | .blt g => Sys2Proof.Machine.execBlt g s
  | .bge g => Sys2Proof.Machine.execBge g s
  | .bltu g => Sys2Proof.Machine.execBltu g s
  | .bgeu g => Sys2Proof.Machine.execBgeu g s
  | .jmp g => Sys2Proof.Machine.execJmp g s
  | .call g => Sys2Proof.Machine.execCall g s
  | .jr g => Sys2Proof.Machine.execJr g s
  | .waitt g => Sys2Proof.Machine.execWaitt g s
  | .sett g => Sys2Proof.Machine.execSett g s
  | .clrt g => Sys2Proof.Machine.execClrt g s
  | .sumrd g => Sys2Proof.Machine.execSumrd g s
  | .issue g => Sys2Proof.Machine.execIssue g s
  | .deferArm g => Sys2Proof.Machine.execDeferArm g s
  | .deferSync g => Sys2Proof.Machine.execDeferSync g s
  | .phaseHint g => Sys2Proof.Machine.execPhaseHint g s
  | .fence g => Sys2Proof.Machine.execFence g s
  | .halt g => Sys2Proof.Machine.execHalt g s
  | .coreStallEnd g => Sys2Proof.Machine.execCoreStallEnd g s
  | .wload g => Sys2Proof.Machine.execWload g s
  | .matmul g => Sys2Proof.Machine.execMatmul g s
  | .drain g => Sys2Proof.Machine.execDrain g s
  | .tclr g => Sys2Proof.Machine.execTclr g s
  | .mov g => Sys2Proof.Machine.execMov g s
  | .vxAdd g => Sys2Proof.Machine.execVxAdd g s
  | .vxSub g => Sys2Proof.Machine.execVxSub g s
  | .vxMul g => Sys2Proof.Machine.execVxMul g s
  | .div g => Sys2Proof.Machine.execDiv g s
  | .vxMin g => Sys2Proof.Machine.execVxMin g s
  | .vxMax g => Sys2Proof.Machine.execVxMax g s
  | .fma g => Sys2Proof.Machine.execFma g s
  | .abs g => Sys2Proof.Machine.execAbs g s
  | .neg g => Sys2Proof.Machine.execNeg g s
  | .sqrt g => Sys2Proof.Machine.execSqrt g s
  | .rsqrt g => Sys2Proof.Machine.execRsqrt g s
  | .rcp g => Sys2Proof.Machine.execRcp g s
  | .exp g => Sys2Proof.Machine.execExp g s
  | .log g => Sys2Proof.Machine.execLog g s
  | .relu g => Sys2Proof.Machine.execRelu g s
  | .geluTanh g => Sys2Proof.Machine.execGeluTanh g s
  | .geluErf g => Sys2Proof.Machine.execGeluErf g s
  | .silu g => Sys2Proof.Machine.execSilu g s
  | .sigmoid g => Sys2Proof.Machine.execSigmoid g s
  | .tanh g => Sys2Proof.Machine.execTanh g s
  | .cmplt g => Sys2Proof.Machine.execCmplt g s
  | .cmple g => Sys2Proof.Machine.execCmple g s
  | .cmpeq g => Sys2Proof.Machine.execCmpeq g s
  | .cmpne g => Sys2Proof.Machine.execCmpne g s
  | .nfcount g => Sys2Proof.Machine.execNfcount g s
  | .rsum g => Sys2Proof.Machine.execRsum g s
  | .rsumsq g => Sys2Proof.Machine.execRsumsq g s
  | .rmax g => Sys2Proof.Machine.execRmax g s
  | .rmin g => Sys2Proof.Machine.execRmin g s
  | .ramax g => Sys2Proof.Machine.execRamax g s
  | .compress g => Sys2Proof.Machine.execCompress g s
  | .expand g => Sys2Proof.Machine.execExpand g s
  | .normsq g => Sys2Proof.Machine.execNormsq g s
  | .update g => Sys2Proof.Machine.execUpdate g s
  | .copy g eng => Sys2Proof.Machine.execCopy g eng s
  | .allReduce g eng => Sys2Proof.Machine.execAllReduce g eng s
  | .reduceScatter g eng => Sys2Proof.Machine.execReduceScatter g eng s
  | .allGather g eng => Sys2Proof.Machine.execAllGather g eng s
  | .allToAll g eng => Sys2Proof.Machine.execAllToAll g eng s
  | .broadcast g eng => Sys2Proof.Machine.execBroadcast g eng s
  | .send g eng => Sys2Proof.Machine.execSend g eng s
  | .recv g eng => Sys2Proof.Machine.execRecv g eng s
  | .instructionComplete g eng idx => Sys2Proof.Machine.execInstructionComplete g eng idx s
  | .guardLatch g => Sys2Proof.Machine.execGuardLatch g s
  | .fillerStepIssue g => Sys2Proof.Machine.execFillerStepIssue g s
  | .hbmPhaseAccess unit eng idx phase => Sys2Proof.Machine.execHbmPhaseAccess unit eng idx phase s
  | .clusterFault die pos fault => Sys2Proof.Machine.execClusterFault die pos fault s
  | .spareBistDone die pos pass => Sys2Proof.Machine.execSpareBistDone die pos pass s
  | .idleFrame p frame => Sys2Proof.Machine.execIdleFrame p frame s
  | .damagedFrame p frame => Sys2Proof.Machine.execDamagedFrame p frame s
  | .streamData p frame => Sys2Proof.Machine.execStreamData p frame s
  | .start p frame => Sys2Proof.Machine.execStart p frame s
  | .voteUp p frame => Sys2Proof.Machine.execVoteUp p frame s
  | .voteDown p frame => Sys2Proof.Machine.execVoteDown p frame s
  | .boardReadRequest p frame phase => Sys2Proof.Machine.execBoardReadRequest p frame phase s
  | .boardWrite p frame phase => Sys2Proof.Machine.execBoardWrite p frame phase s
  | .boardReadResponse p frame => Sys2Proof.Machine.execBoardReadResponse p frame s
  | .identityRecord p rec => Sys2Proof.Machine.execIdentityRecord p rec s
  | .trainingStageDone p stage result => Sys2Proof.Machine.execTrainingStageDone p stage result s
  | .joinPortTimeout p => Sys2Proof.Machine.execJoinPortTimeout p s
  | .laneRecord p rec => Sys2Proof.Machine.execLaneRecord p rec s
  | .resweepDone place ok => Sys2Proof.Machine.execResweepDone place ok s
  | .laneReturn check => Sys2Proof.Machine.execLaneReturn check s
  | .lockLoopUpdate link side lane estimate => Sys2Proof.Machine.execLockLoopUpdate link side lane estimate s
  | .feedForward bank side delta => Sys2Proof.Machine.execFeedForward bank side delta s
  | .portSilenceTimeout p => Sys2Proof.Machine.execPortSilenceTimeout p s
  | .spareTimeout p => Sys2Proof.Machine.execSpareTimeout p s
  | .floorLaneRemoval dir loss => Sys2Proof.Machine.execFloorLaneRemoval dir loss s
  | .floorStallTimeout dir => Sys2Proof.Machine.execFloorStallTimeout dir s
  | .openFibreDetect p cause => Sys2Proof.Machine.execOpenFibreDetect p cause s
  | .laserBusConfirm n emit fault => Sys2Proof.Machine.execLaserBusConfirm n emit fault s
  | .laserBusTimeout n => Sys2Proof.Machine.execLaserBusTimeout n s
  | .eyeProbe p => Sys2Proof.Machine.execEyeProbe p s
  | .eyeProbeDone p pass => Sys2Proof.Machine.execEyeProbeDone p pass s
  | .gateStep compute0 compute1 base => Sys2Proof.Machine.execGateStep compute0 compute1 base s
  | .clusterSleep g => Sys2Proof.Machine.execClusterSleep g s
  | .avsReading rails => Sys2Proof.Machine.execAvsReading rails s
  | .chillTrip sensor temp => Sys2Proof.Machine.execChillTrip sensor temp s
  | .idleHoldoffExpiry k => Sys2Proof.Machine.execIdleHoldoffExpiry k s
  | .risingEnd k => Sys2Proof.Machine.execRisingEnd k s
  | .fallingEnd k => Sys2Proof.Machine.execFallingEnd k s
  | .minimumOffExpiry k => Sys2Proof.Machine.execMinimumOffExpiry k s
  | .counterSample g pc => Sys2Proof.Machine.execCounterSample g pc s
  | .bandwidthWindowEnd u => Sys2Proof.Machine.execBandwidthWindowEnd u s
  | .healthEvaluation => Sys2Proof.Machine.execHealthEvaluation s
  | .healthDecay => Sys2Proof.Machine.execHealthDecay s
  | .fettleHbmBurst stack => Sys2Proof.Machine.execFettleHbmBurst stack s
  | .fettleSramSlot target => Sys2Proof.Machine.execFettleSramSlot target s
  | .fettleOffGroupTest die group failing => Sys2Proof.Machine.execFettleOffGroupTest die group failing s
  | .riserWriteFail copy line => Sys2Proof.Machine.execRiserWriteFail copy line s
  | .riserRebuildDone => Sys2Proof.Machine.execRiserRebuildDone s
  | .sprueTakeover => Sys2Proof.Machine.execSprueTakeover s
  | .assayError cause => Sys2Proof.Machine.execAssayError cause s
  | .spdmRequest port req => Sys2Proof.Machine.execSpdmRequest port req s
  | .ideIntegrityFailure port selective => Sys2Proof.Machine.execIdeIntegrityFailure port selective s
  | .hostDmaCompletion port c data err => Sys2Proof.Machine.execHostDmaCompletion port c data err s
  | .hostLinkDown port => Sys2Proof.Machine.execHostLinkDown port s
  | .busMasterEnable enable => Sys2Proof.Machine.execBusMasterEnable enable s
  | .perstN port => Sys2Proof.Machine.execPerstN port s
  | .flr port => Sys2Proof.Machine.execFlr port s
  | .coldReset => Sys2Proof.Machine.execColdReset s
  | .bootStart slot board => Sys2Proof.Machine.execBootStart slot board s
  | .warmReset => Sys2Proof.Machine.execWarmReset s
  | .warmBootStart => Sys2Proof.Machine.execWarmBootStart s
  | .bootStageDone stage result => Sys2Proof.Machine.execBootStageDone stage result s
  | .pwrgdAonRise => Sys2Proof.Machine.execPwrgdAonRise s
  | .pwrgdAonFall => Sys2Proof.Machine.execPwrgdAonFall s
  | .aonClkLoss => Sys2Proof.Machine.execAonClkLoss s
  | .railOutOfRange => Sys2Proof.Machine.execRailOutOfRange s
  | .vddAonLoss => Sys2Proof.Machine.execVddAonLoss s
  | .mctpBootStatus => Sys2Proof.Machine.execMctpBootStatus s
  | .errLogSeqRead => Sys2Proof.Machine.execErrLogSeqRead s
  | .qspiHold level writes => Sys2Proof.Machine.execQspiHold level writes s
  | .jtagInstruction op => Sys2Proof.Machine.execJtagInstruction op s
  | .vddAonApplied => Sys2Proof.Machine.execVddAonApplied s
  | .perstNRelease port => Sys2Proof.Machine.execPerstNRelease port s
  | .hostLinkUp port => Sys2Proof.Machine.execHostLinkUp port s
  | .flrComplete port => Sys2Proof.Machine.execFlrComplete port s
  | .standbySprueFailure => Sys2Proof.Machine.execStandbySprueFailure s

end Sys2Proof.Machine
end

