-- ==== Sys2Proof/Safety.lean ====
section
/-! DEFINITION. What holds of every state a run can reach, and the terms the statements use: where a command stands ready
to take effect, and what its effect leaves alone. -/

namespace Sys2Proof.Machine

/-- The Nelhan's standing between a reset and readiness agrees with the pins, the Assay and the lasers: a boot runs, or
has run, only under power (R407, R423); it is ready only after every stage (R407), with the Assay operational and the part
not decommissioned (R371, R372); READY says so (R409); and the laser groups are enabled only then (R326, R408). -/
def State.bootInv (s : State) : Prop :=
  (s.boot.phase ≠ .off → s.pins.vddAon = true ∧ s.pins.pwrgdAon = true ∧ s.pins.pwrgdMain = true)
    ∧ (s.boot.ready = true ↔ s.boot.phase = .ready)
    ∧ (s.boot.phase = .ready → s.boot.done = 0xFF ∧ s.assay.mode = .operational ∧ s.assay.otp.decommissioned = false)
    ∧ (s.light.enabled = true → s.boot.phase = .ready)

/-! ### The control core -/

/-- `n` bytes of a memory read clean: as they are stored, with nothing corrected, poisoned or written back. -/
def Mem.readsClean (k : MemKind) (m : Mem) (a n : Nat) (bs : List Byte) : Prop :=
  m.readRange k a n = ⟨bs, [], [], m, []⟩

/-- The word `w` stands at address `a` of a cluster's code and reads clean. -/
def Cluster.wordAt (g : Nat) (c : Cluster) (a w : Nat) : Prop :=
  a + 4 ≤ c.codeLen ∧ w < 2 ^ 32 ∧ c.imem.readsClean (.priv g) a 4 (leBytes 4 w)

/-- The core of cluster `g` executes the instruction word `w` next (R81, R83): its attempt runs, it is neither halted nor
stalled, and `w` stands at the program counter. -/
def State.runsWord (s : State) (g w : Nat) : Prop :=
  s.coreReady g = true ∧ (s.cl g).wordAt g (s.cl g).pc.toNat w

/-- A cluster whose instruction has retired, with the program counter at `next`. -/
def Cluster.retired (c : Cluster) (next : Nat) : Cluster :=
  { c with pc := BitVec.ofNat 19 next, stall := none, asleep := false, idleCycles := 0, lastPc := some c.pc.toNat }

/-- The state `t` is `s` but for cluster `g`, which is `c`. -/
def State.onlyCluster (s t : State) (g : Nat) (c : Cluster) : Prop :=
  t = { s with clusters := t.clusters, cnt := t.cnt } ∧ t.cl g = c ∧ ∀ h, h ≠ g → t.cl h = s.cl h

/-- What the retirement at the program counter of cluster `g` does to its sampling (R401): the instruction is within the skid of the
crossings whose records are due, and its own count may cross. -/
def State.sampledRetire (s : State) (g : Nat) (m : Sampler) : Sampler :=
  let pc := (s.cl g).pc.toNat
  (m.retired pc).passed 14 (Tab.get Ctr48.zero s.cnt.regs.ctr (ctrCluster g 14)).n.toNat 1 (s.cl g).cycle (some pc)

/-- An instruction of cluster `g` retires: the cluster becomes `c`, its count of retired instructions moves on (R397), and
every other cluster, every other counter and everything else stay as they were. -/
def State.retiresAs (s t : State) (g : Nat) (c : Cluster) : Prop :=
  s.onlyCluster t g c
    ∧ (∀ o, Tab.get Ctr48.zero t.cnt.regs.ctr o
        = if o = ctrCluster g 14 then (Tab.get Ctr48.zero s.cnt.regs.ctr o).add 1 else Tab.get Ctr48.zero s.cnt.regs.ctr o)
    ∧ t.cnt = { s.cnt with regs := { s.cnt.regs with ctr := t.cnt.regs.ctr, samp := t.cnt.regs.samp } }
    ∧ ∀ h, Tab.get Sampler.init t.cnt.regs.samp h
        = if h = g then s.sampledRetire g (Tab.get Sampler.init s.cnt.regs.samp g) else Tab.get Sampler.init s.cnt.regs.samp h

/-- A fault of the running pour by cluster `g` (R92): the attempt ends with a status, and CLS_FAULT of the cluster holds the
source, the status and the program counter. -/
def State.faultsBy (t : State) (g source : Nat) (status : BitVec 16) (pc : BitVec 19) : Prop :=
  (∃ r, t.run = some r ∧ r.fault = some (status, false)) ∧ (t.cl g).fault = ⟨true, BitVec.ofNat 4 source, status, BitVec.ofNat 18 pc.toNat, 0⟩

/-- The integer group of Table 4-3: FN and the result for the values of xa and xb (R83). -/
def integerTable : List ((Fin 128 → Instr) × Nat × (Word64 → Word64 → Word64)) :=
  [(.add, 0x000, fun a b => a + b),
   (.sub, 0x001, fun a b => a - b),
   (.and, 0x002, fun a b => a &&& b),
   (.or, 0x003, fun a b => a ||| b),
   (.xor, 0x004, fun a b => a ^^^ b),
   (.shl, 0x005, fun a b => a <<< (b.toNat % 64)),
   (.shr, 0x006, fun a b => a >>> (b.toNat % 64)),
   (.sra, 0x007, fun a b => a.sshiftRight (b.toNat % 64)),
   (.mul, 0x008, fun a b => a * b),
   (.mulhu, 0x009, fun a b => BitVec.ofNat 64 (a.toNat * b.toNat / 2 ^ 64)),
   (.divu, 0x00A, fun a b => if b = 0 then 0xFFFFFFFFFFFFFFFF else a / b),
   (.remu, 0x00B, fun a b => if b = 0 then a else a % b),
   (.slt, 0x00C, fun a b => if a.toInt < b.toInt then 1 else 0),
   (.sltu, 0x00D, fun a b => if a.toNat < b.toNat then 1 else 0),
   (.min, 0x00E, fun a b => if a.toInt ≤ b.toInt then a else b),
   (.max, 0x00F, fun a b => if a.toInt ≤ b.toInt then b else a)]

/-- The floating-point group: FN, whether XB is used, and the result for the bits of xa and xb, on FP64 (R33, R34, R83). -/
def floatTable : List ((Fin 128 → Instr) × Nat × Bool × (Nat → Nat → Nat)) :=
  [(.fadd, 0x000, true, fpAdd 0xE),
   (.fsub, 0x001, true, fpSub 0xE),
   (.fmul, 0x002, true, fpMul 0xE),
   (.fdiv, 0x003, true, fpDiv 0xE),
   (.fsqrt, 0x004, false, fun a _ => fpSqrt 0xE a),
   (.fmin, 0x005, true, fpMin 0xE),
   (.fmax, 0x006, true, fpMax 0xE),
   (.flt, 0x008, true, fun a b => if (decodeNum 0xE a).lt (decodeNum 0xE b) then 1 else 0),
   (.feq, 0x009, true, fun a b => if (decodeNum 0xE a).eq (decodeNum 0xE b) then 1 else 0),
   (.fcvtDS, 0x00A, false, fun a _ => roundRne 0xE (decodeNum 0x0 (a % 2 ^ 32))),
   (.fcvtSD, 0x00B, false, fun a _ => roundRne 0x0 (decodeNum 0xE a)),
   (.fcvtDL, 0x00C, false, fun a _ => roundRne 0xE (Num.ofInt (BitVec.ofNat 64 a).toInt)),
   (.fcvtLD, 0x00D, false, fun a _ => (narrowInt 64 (-2 ^ 63) (2 ^ 63 - 1) .rtz .none (decodeNum 0xE a)).bits)]

/-- The conditional branches: OP and what xd and xa must satisfy (R83). -/
def branchTable : List ((Fin 128 → Instr) × Nat × (Word64 → Word64 → Prop)) :=
  [(.beq, 0x10, fun d a => d = a),
   (.bne, 0x11, fun d a => d ≠ a),
   (.blt, 0x12, fun d a => d.toInt < a.toInt),
   (.bge, 0x13, fun d a => a.toInt ≤ d.toInt),
   (.bltu, 0x14, fun d a => d.toNat < a.toNat),
   (.bgeu, 0x15, fun d a => a.toNat ≤ d.toNat)]

/-- The queue head of an engine issues and is performed without a fault (R76): the attempt runs, the head `q` meets every
condition and clashes with no other consumer, no check of its record finds a fault, it conflicts with nothing in flight
(R64), and its effect answers with the state `s'` and the record `d` of what is then in flight. -/
def State.headStarts (s : State) (g : Nat) (eng : Engine) (op : EngineOp) (q : QEntry) (s' : State) (d : Done) : Prop :=
  ∃ p, s.runPattern = some p ∧ (s.cl g).head eng = some q ∧ s.attemptRuns g = true ∧ s.headReady g eng = true
    ∧ s.consumeClash g eng q = []
    ∧ (let x := s.engCtx p g q false
       op.check x = none ∧ op.late x s = none ∧ op.buffers x = none
         ∧ ((s.cl g).flights.any fun f => (op.prints x s).clash f.prints) = false
         ∧ op.perform x (s.updCl g fun c => c.takeHead eng q) = (s', .ok d))

/-- The state after an issue: the instruction is in flight on the state its effect left. -/
def State.issuedTo (s : State) (g : Nat) (eng : Engine) (op : EngineOp) (q : QEntry) (s' : State) (d : Done) : State :=
  let p := s.runPattern
  let pr := (p.map fun p => op.prints (s.engCtx p g q false) s).getD Prints.none
  (s'.updSampler g fun sm => sm.issue eng.toNat (s'.cl g).issues).updCl g fun c => c.launch eng q false pr d

/-- The entry that an ISSUE of words `w` and `w1` at `pc` makes of the record at `a` (Table 4-4). -/
def QEntry.fromIssue (q : QEntry) (c : Cluster) (pc a w w1 : Nat) : Prop :=
  q.pc = pc ∧ q.addr = a ∧ q.record = BitVec.ofNat 512 (leNat (c.dmem.raw a 64))
    ∧ (q.wait0 = if w.testBit 15 then some (w1 / 2 ^ 24 % 256, w.testBit 14) else none)
    ∧ (q.wait1 = if w.testBit 13 then some (w1 / 2 ^ 16 % 256, w.testBit 12) else none)
    ∧ (q.post0 = if w.testBit 11 then some (w1 / 2 ^ 8 % 256) else none)
    ∧ (q.post1 = if w.testBit 10 then some (w1 % 256) else none)
    ∧ (q.slot = if w.testBit 9 then some (w / 2 ^ 5 % 16) else none)

/-- Word 0 of an ISSUE with its reserved bits zero (Table 4-4, R434). -/
def issueWord (w : Nat) : Prop := w / 2 ^ 26 = 0x30 ∧ w / 2 ^ 23 % 8 ≤ 4 ∧ w / 2 ^ 21 % 4 = 0 ∧ w % 2 ^ 5 = 0

/-- The instructions of MX and DR by engine and OPC (Tables 5-1, 6-2). -/
def tileTable : List ((Fin 128 → Instr) × Engine × Nat) :=
  [(Instr.matmul, Engine.mx, 1), (Instr.wload, Engine.mx, 2), (Instr.drain, Engine.dr, 1),
    (Instr.tclr, Engine.dr, 2)]

/-- The instructions of VX with OPC below 0x10 (Table 7-3). -/
def vxPlainTable : List ((Fin 128 → Instr) × Engine × Nat) :=
  [(Instr.mov, Engine.vx, 0x01), (Instr.vxAdd, Engine.vx, 0x02), (Instr.vxSub, Engine.vx, 0x03),
    (Instr.vxMul, Engine.vx, 0x04), (Instr.div, Engine.vx, 0x05), (Instr.vxMin, Engine.vx, 0x06),
    (Instr.vxMax, Engine.vx, 0x07), (Instr.fma, Engine.vx, 0x08), (Instr.abs, Engine.vx, 0x09),
    (Instr.neg, Engine.vx, 0x0A), (Instr.sqrt, Engine.vx, 0x0B), (Instr.rsqrt, Engine.vx, 0x0C),
    (Instr.rcp, Engine.vx, 0x0D)]

/-- Those from 0x10 (Table 7-3). -/
def vxCurveTable : List ((Fin 128 → Instr) × Engine × Nat) :=
  [(Instr.exp, Engine.vx, 0x10), (Instr.log, Engine.vx, 0x11), (Instr.relu, Engine.vx, 0x12),
    (Instr.geluTanh, Engine.vx, 0x13), (Instr.geluErf, Engine.vx, 0x14), (Instr.silu, Engine.vx, 0x15),
    (Instr.sigmoid, Engine.vx, 0x16), (Instr.tanh, Engine.vx, 0x17)]

/-- Those from 0x20: comparisons, reductions, permutations, and those of chapter 9 (Table 7-3). -/
def vxOtherTable : List ((Fin 128 → Instr) × Engine × Nat) :=
  [(Instr.cmplt, Engine.vx, 0x20), (Instr.cmple, Engine.vx, 0x21), (Instr.cmpeq, Engine.vx, 0x22),
    (Instr.cmpne, Engine.vx, 0x23), (Instr.nfcount, Engine.vx, 0x28), (Instr.rsum, Engine.vx, 0x30),
    (Instr.rsumsq, Engine.vx, 0x31), (Instr.rmax, Engine.vx, 0x32), (Instr.rmin, Engine.vx, 0x33),
    (Instr.ramax, Engine.vx, 0x34), (Instr.compress, Engine.vx, 0x40), (Instr.expand, Engine.vx, 0x41),
    (Instr.normsq, Engine.vx, 0x50), (Instr.update, Engine.vx, 0x51)]

/-- The instructions of MX, DR and VX. -/
def computeTable : List ((Fin 128 → Instr) × Engine × Nat) := tileTable ++ vxPlainTable ++ vxCurveTable ++ vxOtherTable

/-! ### What the engines compute -/

/-- An operation of Table 7-3 with a floating-point form, rounded once to the working format, and an integer form, limited to it (R141). -/
def vxBoth (f : Num → Num → Num) (i : Int → Int → Int) (wf a b _c : Nat) : Nat :=
  let w := widthBits wf
  if isIntCode wf then bitsOfInt w (max (-(2 ^ (w - 1) : Nat)) (min ((2 ^ (w - 1) : Nat) - 1) (i (signedOf w a) (signedOf w b))))
  else roundRne wf (f (decodeNum wf a) (decodeNum wf b))

/-- An operation of Table 7-3 with a floating-point form only. -/
def vxFloat (f : Num → Num → Num → Num) (wf a b c : Nat) : Nat := roundRne wf (f (decodeNum wf a) (decodeNum wf b) (decodeNum wf c))

/-- The elementwise operations of Table 7-3 and the result at an index, for the working format and the bits of A, B and C (R140, R141);
those from EXP on are the procedures of R151. -/
def vxValueTable : List (EngineOp × (Nat → Nat → Nat → Nat → Nat)) :=
  [(movOp, fun wf a _ _ => roundRne wf (decodeNum wf a)),
    (vxAddOp, vxBoth (fun a b => a.add b) fun a b => a + b),
    (vxSubOp, vxBoth (fun a b => a.sub b) fun a b => a - b),
    (vxMulOp, vxBoth (fun a b => a.mul b) fun a b => a * b),
    (divOp, vxFloat fun a b _ => a.div b),
    (vxMinOp, vxBoth (fun a b => a.min b) fun a b => if a ≤ b then a else b),
    (vxMaxOp, vxBoth (fun a b => a.max b) fun a b => if a ≤ b then b else a),
    (fmaOp, vxFloat fun a b c => (a.mul b).add c),
    (absOp, vxBoth (fun a _ => a.abs) fun a _ => if a < 0 then -a else a),
    (negOp, vxBoth (fun a _ => a.neg) fun a _ => -a),
    (sqrtOp, vxFloat fun a _ _ => a.sqrt),
    (rsqrtOp, vxFloat fun a _ _ => a.rsqrt),
    (rcpOp, vxFloat fun a _ _ => (Num.ofInt 1).div a),
    (reluOp, fun wf a _ _ =>
      if isIntCode wf then bitsOfInt (widthBits wf) (if signedOf (widthBits wf) a < 0 then 0 else signedOf (widthBits wf) a)
      else if (decodeNum wf a).isNan then canonicalNan wf else if Num.zero.lt (decodeNum wf a) then a else 0),
    (expOp, fun _ a _ _ => fnExp a), (logOp, fun _ a _ _ => fnLog a), (geluTanhOp, fun _ a _ _ => fnGeluTanh a),
    (geluErfOp, fun _ a _ _ => fnGeluErf a), (siluOp, fun _ a _ _ => fnSilu a), (sigmoidOp, fun _ a _ _ => fnSigmoid a),
    (tanhOp, fun _ a _ _ => fnTanh a)]

/-- The comparisons of Table 7-3. -/
def vxTestTable : List (EngineOp × (Num → Num → Bool)) :=
  [(cmpltOp, fun a b => a.lt b), (cmpleOp, fun a b => a.lt b || a.eq b), (cmpeqOp, fun a b => a.eq b), (cmpneOp, fun a b => !a.eq b)]

/-- Two results of R143's tree combined: an empty one gives way to the other. -/
def joinLeaves (f : Nat → Nat → Nat) : Option Nat → Option Nat → Option Nat
  | none, b => b
  | a, none => a
  | some a, some b => some (f a b)

/-- The value of R143's tree over leaves: the first half of a node has the largest power of two below the number of its leaves. -/
inductive TreeVal (f : Nat → Nat → Nat) : List (Option Nat) → Option Nat → Prop
  | leaf (o : Option Nat) : TreeVal f [o] o
  | node (l : List (Option Nat)) (k : Nat) (a b : Option Nat) : 2 ^ k < l.length → l.length ≤ 2 * 2 ^ k → TreeVal f (l.take (2 ^ k)) a →
      TreeVal f (l.drop (2 ^ k)) b → TreeVal f l (joinLeaves f a b)

/-- The reductions of Table 7-3: the leaf of an element, the combination, and the identity, in a working format (R142, R143). -/
def vxTreeTable : List (EngineOp × (Nat → Nat → Nat) × (Nat → Nat → Nat → Nat) × (Nat → Nat)) :=
  let sum (wf a b : Nat) : Nat := vxBoth (fun a b => a.add b) (fun a b => a + b) wf a b 0
  let least (wf a b : Nat) : Nat := vxBoth (fun a b => a.min b) (fun a b => if a ≤ b then a else b) wf a b 0
  let most (wf a b : Nat) : Nat := vxBoth (fun a b => a.max b) (fun a b => if a ≤ b then b else a) wf a b 0
  [(rsumOp, fun _ v => v, sum, fun _ => 0),
    (rsumsqOp, fun wf v => vxFloat (fun a _ _ => a.mul a) wf v 0 0, sum, fun _ => 0),
    (rmaxOp, fun _ v => v, most, fun wf => if wf = 0x9 then 0x80000000 else roundRne wf (.inf true)),
    (rminOp, fun _ v => v, least, fun wf => if wf = 0x9 then 0x7FFFFFFF else roundRne wf (.inf false)),
    (ramaxOp, fun wf v => vxBoth (fun a _ => a.abs) (fun a _ => if a < 0 then -a else a) wf v 0 0, most, fun _ => 0)]

/-- The state after the values of a vector instruction are written, by index: to the elements of a descriptor without ACCUM and without MX,
each narrowed to its format with the record's rounding mode and seed (R40, R137), or to the elements of a register (R134). -/
def State.vxWritten (s : State) (x : EngCtx) (r : VxRec) (els : List (Nat × Nat)) : State :=
  let d := x.entry.desc r.d.desc
  if r.d.kind = 1 then
    s.applyPatch (Patch.writeAll (widthBits d.fmt) [] (els.map fun e => (d.bitAddrs.getD e.1 0,
      (narrowTo d.fmt (modeOf r.rmode) ⟨x.entry.seed.toNat, d.tid, (d.keyIndices x.env).getD e.1 0⟩ (decodeNum r.wf e.2)).bits)))
  else if r.d.kind = 3 then
    s.applyRegs x.g (Patch.writeAll (widthBits r.wf) [] (els.map fun e => (2048 * r.d.reg + widthBits r.wf * e.1, e.2)))
  else s

/-- The elements that an elementwise instruction writes (R139): the active ones with their values, and with MASK_MODE 1 the others with a
zero. -/
def vxEls (n : Nat) (zeros : Bool) (z : Nat) (act : Nat → Bool) (val : Nat → Nat) : List (Nat × Nat) :=
  if zeros then (List.range n).map fun i => (i, if act i then val i else z)
  else ((List.range n).filter act).map fun i => (i, val i)

/-- combine of R299 on the bits of two elements. -/
def reduceStep (red fmt a b : Nat) : Nat :=
  if fmt = 0x9 then
    bitsOfInt 32 (if red = 0 then max (-2 ^ 31) (min (2 ^ 31 - 1) (signedOf 32 a + signedOf 32 b))
      else if red = 1 then max (signedOf 32 a) (signedOf 32 b) else min (signedOf 32 a) (signedOf 32 b))
  else roundRne 0x0 (if red = 0 then (decodeNum 0x0 a).add (decodeNum 0x0 b)
    else if red = 1 then (decodeNum 0x0 a).max (decodeNum 0x0 b) else (decodeNum 0x0 a).min (decodeNum 0x0 b))

/-- The collective instructions by the OP of their collective record (Table 15-5). -/
def collectiveTable : List ((Fin 128 → MoveEngine → Instr) × Nat) :=
  [(Instr.allReduce, 1), (Instr.reduceScatter, 2), (Instr.allGather, 3), (Instr.allToAll, 4), (Instr.broadcast, 5),
    (Instr.send, 6), (Instr.recv, 7)]

/-! ### Pours -/

/-- Reads of the ledger see what is written to it: the copy they come from is not lost (R240, R255), or all is in the working state
(R256). -/
def State.ledgerKept (s : State) : Prop := s.riser.lost = true ∨ (s.riser.current s.sprue.activeB1).state ≠ .lost

/-- The opcodes with the payload length that Table 12-1 gives them. -/
def opcodeTable : List (Nat × Nat) :=
  [(0x01, 32), (0x02, 0), (0x03, 16), (0x10, 32), (0x11, 0), (0x20, 128), (0x22, 16), (0x30, 32), (0x31, 32), (0x32, 48), (0x40, 16),
    (0x41, 0), (0x50, 544), (0x51, 0), (0x52, 16), (0x60, 64), (0x61, 32), (0x62, 0), (0x7F, 0)]

/-- The rows of Table 11-5 in their order for a packet: whether it passes, and the code where it does not (R198 to R200, R206, R209,
R216). -/
def State.acceptRows (s : State) (k : Packet) : List (Bool × BitVec 16) :=
  let h := k.header.toNat
  let t := k.trailer.toNat
  let ch := s.chan k.chan
  let op := h / 2 ^ 8 % 2 ^ 8
  let len := h / 2 ^ 64 % 2 ^ 32
  let pour := h / 2 ^ 128 % 2 ^ 64
  let nop := op = 0x7F
  let opens := op = 0x01
  let ring := opens ∨ op = 0x03
  let quota := if opens then fieldOf k.pay 64 11 else ch.quota
  [ -- row 1
    (h % 2 ^ 8 = 1 && (opcodeTable.any fun e => e.1 = op) && h / 2 ^ 32 % 2 ^ 8 = k.chan && len ≤ 16304 && len % 16 = 0
      && h / 2 ^ 256 = 0 && h / 2 ^ 40 % 2 ^ 8 = 0 && h / 2 ^ 17 % 2 ^ 15 = 0 && t / 2 ^ 96 = 0 && t / 2 ^ 64 % 2 ^ 32 = len
      && t % 2 ^ 64 = pour && (if nop then pour = 0 && len = 0 else pour ≠ 0), 0x0101),
    -- rows 2 to 5
    (k.buffer.isSome, 0x0108),
    (crc32c ((leBytes 64 h).take 12 ++ [0, 0, 0, 0] ++ (leBytes 64 h).drop 16 ++ k.payload) = h / 2 ^ 96 % 2 ^ 32, 0x0102),
    (!s.riser.lost || nop, 0x0702),
    (!(ch.state ≠ .closed && k.port = ch.owner && pour = s.lastPour k.chan && op = s.lastOpcode k.chan && pour ≠ 0), 0x0104),
    -- rows 6 to 9
    (!(opens && ch.state = .opened), 0x0106),
    (opens || ch.state ≠ .closed, 0x0105),
    (ch.state ≠ .closing, 0x010A),
    (opens || (decide (op = 0x03) != decide (k.port = ch.owner)), 0x0109),
    (nop || pour = s.lastPour k.chan + 1, 0x0103),
    -- row 10, in the order of R216
    (opcodeTable.any fun e => e.1 = op && e.2 = len, 0x0101),
    (!opens || (2 ≤ quota && quota ≤ 1024 && (s.promised k.chan).1 + quota ≤ 1024), 0x020A),
    (!opens || (1 ≤ fieldOf k.pay 80 4 && fieldOf k.pay 80 4 ≤ 8 && (s.promised k.chan).2 + fieldOf k.pay 80 4 ≤ 512), 0x0108),
    (!ring || (fieldOf k.pay 0 64 % 4096 = 0 && 6 ≤ fieldOf k.pay 88 5 && fieldOf k.pay 88 5 ≤ 16), 0x0101),
    (!ring || quota ≤ 2 ^ fieldOf k.pay 88 5, 0x020A),
    (h / 2 ^ 16 % 2 = 1 || (op = 0x20 && ch.bestEffort), 0x0101),
    (h / 2 ^ 192 % 2 ^ 64 ≤ ch.replied.toNat, 0x0101),
    (payloadOk op k.pay && ((opcodeForm op).map fun f => k.handleOk f.2).getD false, 0x0101),
    -- row 11
    (nop || (s.admits k && (s.applyAck k.chan k.ack).allocEntry.isSome), 0x0107) ]

/-- The code of the first row that fails. -/
def firstFailing (rows : List (Bool × BitVec 16)) : Option (BitVec 16) := (rows.find? fun r => !r.1).map (·.2)

/-- A row whose codes are its own: it passes where it answers none. -/
def ownRow (o : Option (BitVec 16)) : Bool × BitVec 16 := (o.isNone, o.getD 0)

/-- Rows 3 to 20 of Table 10-9 in their order for an image. -/
def State.imageRows (s : State) (p : Pattern) (img : List Byte) (len : Nat) : List (Bool × BitVec 16) :=
  [ (imageHeaderOk img len, 0x0201),
    (sectionTableOk img (sections img), 0x0201),
    (resourceOk (sections img), 0x0201),
    ((usedClusters (sections img)).all fun g => s.mapped g && (p.resOf g).nTokens ≤ 256, 0x0202),
    (p.res.all fun e => tilesOk e.2, 0x0203),
    (buffersOk p (sections img), 0x0201),
    (placementOk s p, 0x0204),
    ((s.chan p.chan).bestEffort || p.bufs.all fun b => b.kind ≠ 4, 0x020C),
    (topologyOk p (sections img), 0x0201),
    (topologyFits s p, 0x0205),
    (p.tundishMin ≤ (s.chan p.chan).tundishRes, 0x0108),
    (s.reserved p.chan + p.riserReserve ≤ (s.chan p.chan).quota, 0x020A),
    (p.code.all fun e => sweepOk (codeWords e.2), 0x0201),
    (tablesOk p, 0x0201),
    ownRow (streamsCheck p (sections img)),
    (p.steps.all fun v => finiteNonneg v.toNat, 0x0209),
    ownRow (fixedCheck s p (sections img)),
    ownRow (fixedBuffers s p (sections img)) ]

/-- Checks 2 to 6 of R223 in their order for a RUN, the step size resolved by R174 being there and then finite and not negative by R175. -/
def State.runRows (s : State) (k : Packet) (p : Pattern) : List (Bool × BitVec 16) :=
  [ (!k.restartable || p.bufs.all fun b => b.kind ≠ 4, 0x020C),
    (topologyFits s p, 0x0205),
    (p.usedList.all s.mapped, 0x0202),
    ((s.resolveStep k p).isSome, 0x0201),
    (finiteNonneg ((s.resolveStep k p).getD 0), 0x0209),
    (k.receipts.all fun b => (p.bufs[b]?).any fun e => e.kind = 1 || e.kind = 3, 0x0201) ]

/-- The pour in entry `i` stands at the head of channel `c` with an opcode, and starts now (R219): nothing stands against it, the domains
`ks` that it needs and the stack of its body are ON, and its body reads clean as the packet `k`; `s1` is the state after that read, which
differs in counters of traffic only. -/
def State.startsNow (s s1 : State) (c op i : Nat) (ks : List Nat) (k : Packet) : Prop :=
  s.headOf c = some i ∧ (s.bodyOf i).opcode = op ∧ k.opcode = op ∧ s.mayStart i = true ∧ s.allOn (s.bodyStack i :: ks) = true
    ∧ s.ledgerKept ∧ (s.enableAll (s.bodyStack i :: ks)).readBody i = (s1, some k)
    ∧ s1 = { s.enableAll (s.bodyStack i :: ks) with
        cnt := s1.cnt
        power := { (s.enableAll (s.bodyStack i :: ks)).power with fabric := s1.power.fabric } }

/-- The pour in entry `i` runs on channel `c` as the packet `k`, with its outcome where it is fixed: the entry is RUNNING, with
one attempt more (R241). -/
def State.runsWith (t s : State) (c i : Nat) (k : Packet) (o : Option PourOutcome) : Prop :=
  (∃ r, t.runningOf c = some r ∧ r.entry = i ∧ r.body = k ∧ r.outcome = o)
    ∧ (t.entry i).state = .running ∧ (t.entry i).attempts = min 7 ((s.entry i).attempts + 1)

/-- What goes out of the owner's port for replies written to a channel's ring one after another from count `n` on (R211, R214): each in its
slot with its PHASE, and after it MSI-X vector `c` where MSIX_EN asks for it and MSI-X lets it out. -/
def State.ringWrites (s : State) (c : Nat) : Word32 → List Reply → List HostOut
  | _, [] => []
  | n, r :: rest =>
    let ch := s.chan c
    HostOut.write (ch.ringBase + BitVec.ofNat 64 (64 * (n.toNat % 2 ^ ch.ringLog))) (r.bytes (n.toNat / 2 ^ ch.ringLog % 2 = 0))
      :: ((if ch.msixEn && (s.port ch.owner).maySend c then [HostOut.msix c] else []) ++ s.ringWrites c (n + 1) rest)

/-- The writes to host memory that carry a block in 64-byte pieces. -/
def blockWrites (a : Word64) (bs : List Byte) : List HostOut := (hostPieces a bs).map fun w => .write w.1 w.2

/-- No packet of a channel is bound for acceptance. -/
def State.noneBound (s : State) (c : Nat) : Prop := (s.intake.bound.find? fun b => b.packet.chan = c) = none

/-- The first packet bound on a channel is `b`, and acceptance may go on (R206, R254). -/
def State.boundFirst (s : State) (c : Nat) (b : Bound) : Prop :=
  (s.intake.bound.find? fun b => b.packet.chan = c) = some b ∧ s.boot.phase = .ready ∧ s.riser.lost = false ∧ s.ledgerKept

/-- The channel table entry that a CHANNEL_OPEN's payload gives (R198). -/
def ChanRec.opens (ch : ChanRec) (k : Packet) : Prop :=
  ch.state = .opened ∧ ch.owner = k.port ∧ ch.ringBase = BitVec.ofNat 64 (fieldOf k.pay 0 64) ∧ ch.ringLog = fieldOf k.pay 88 5
    ∧ ch.quota = fieldOf k.pay 64 11 ∧ ch.tundishRes = fieldOf k.pay 80 4 ∧ ch.bestEffort = k.pay.testBit 96
    ∧ ch.msixEn = k.pay.testBit 97 ∧ ch.accepted = BitVec.ofNat 64 k.pour ∧ ch.replied = 0 ∧ ch.acked = 0

/-! ### Runner ports -/

/-- What a port's optics hold of a whole frame's symbols and tags after it (R315). -/
def PortLight.after (o : PortLight) (f : Frame) : PortLight := { o with history := fixedLanes f o.rxLanes :: o.history.take 63 }

/-- No lane leaves service by a whole frame: none fails its fourth tag check in a row, and none has too many corrected
symbols (R315). -/
def State.lanesHold (s : State) (p : Nat) (f : Frame) : Prop :=
  ∀ i ∈ lanesOf ((s.lport p).rxLanes &&& (s.lport p).rxWant), ((s.lport p).after f).badSymbols i = false ∧ (s.lport p).tagRun f i < 4

/-- The first SEQ that is not acknowledged once an ACK_SEQ has come: the one after it, if that SEQ has been sent (R266). -/
def Port.ackedUpTo (o : Port) (ack : BitVec 48) : BitVec 48 :=
  if (ack + 1 - o.nextAck).toNat ≤ (o.txSeq - o.nextAck).toNat then ack + 1 else o.nextAck

/-- A frame is delivered on a port with its own effect still to come, in the state `s1` (R266, R267). -/
def State.takesFrame (s s1 : State) (p : Nat) (f : Frame) : Prop :=
  s.arrive p f = (s1, true) ∧ f.type.toNat < 7

/-- A port that trains has ended a stage: its domain is ON (R269). -/
def State.atStage (s : State) (p stage : Nat) : Prop :=
  (s.rport p).state = .training ∧ (s.rport p).stage = stage ∧ (s.seq (portDomain p)).state = .on

/-- A port's configuration space as PERST_N and FLR leave it, with its keys and sessions gone (R405, R411, R414). -/
def HostPortState.unset (h : HostPortState) : Prop :=
  h.busMaster = false ∧ h.msixConfig = MsixConfig.masked ∧ h.setup = PcieSetup.reset ∧ h.aerUncor = 0 ∧ h.aerCor = 0 ∧ h.sessions = []
    ∧ h.linkIde = .off ∧ h.selIde = .off ∧ h.linkKey = [] ∧ h.selKey = []

/-! ### Resets -/

/-- The copy of the ledger `b` keeps the entries, the commit slots and the rollback counter of `a`. -/
def RiserCopy.keeps (b a : RiserCopy) : Prop :=
  b.state = a.state ∧ b.data.entries = a.data.entries ∧ b.data.slots = a.data.slots ∧ b.data.rollback = a.data.rollback

/-- No ledger write of this period can still be cut short: a reset finds them all made (R240). -/
def State.linesQuiet (s : State) : Prop := ∀ m ∈ s.trail, m.time ≠ s.cnt.regs.time

/-- The two copies before each ledger write of this period, and after the last (R240, R412). -/
def State.ledgers (s : State) : List (Ledger × Ledger) :=
  ((s.trail.filter fun m => m.time = s.cnt.regs.time).map fun m => (m.copy0, m.copy1)) ++ [(s.riser.copy0.data, s.riser.copy1.data)]

/-- A copy in service holds the entries, the commit slots and the rollback counter of a ledger. -/
def RiserCopy.has (c : RiserCopy) (l : Ledger) : Prop :=
  c.state = .inService → c.data.entries = l.entries ∧ c.data.slots = l.slots ∧ c.data.rollback = l.rollback

/-- The copies of `t` stand where the writes of this period in `s` had come to between two copy writes: of each line the copy on the die
of the Sprue in service is written first, then the other (R240). -/
def State.cutFrom (t s : State) : Prop :=
  ∃ i j a b, (i = j ∨ i = j + 1) ∧ s.ledgers[i]? = some a ∧ s.ledgers[j]? = some b
    ∧ (if s.riser.current s.sprue.activeB1 = s.riser.copy0 then t.riser.copy0.has a.1 ∧ t.riser.copy1.has b.2
        else t.riser.copy1.has a.2 ∧ t.riser.copy0.has b.1)

/-- What a cold reset leaves of `s`: HBM, clusters, patterns, pours, intake and the Runner are as after a reset, and the MRAM, OTP and
the boot flash keep what they held (Table 21-1). -/
def State.coldFrom (t s : State) : Prop :=
  t.boot.phase = .off ∧ t.boot.ready = false ∧ t.mem = Mem.zeros ∧ t.clusters = [] ∧ t.patterns = [] ∧ t.running = [] ∧ t.run = none
    ∧ t.intake = Intake.init ∧ t.runner = Runner.init ∧ t.light.enabled = false ∧ t.err.log = [] ∧ t.assay.otp = s.assay.otp
    ∧ t.assay.flash = s.assay.flash ∧ t.assay.bottom = none ∧ t.riser.copy0.keeps s.riser.copy0 ∧ t.riser.copy1.keeps s.riser.copy1

end Sys2Proof.Machine
end

