-- ==== Sys2Proof/Certificates/Slice0/Obligations.lean ====
section
/-! DEFINITION. The statements. -/

open Sys2Proof Sys2Proof.Machine

/-! ### The machine -/

/-- A step takes the command at the front of the queue and runs it on the state with the queue's rest (the model's own
convention for a block, log entry 1). -/
def Obligations.StepRunsFront : Prop :=
  ∀ (c : Instr) (rest : List Instr) (s : State),
    step { s with pending := c :: rest } = exec c { s with pending := rest }

/-- No command stops the model: every one of them answers a next state, from every state (no fault, no refusal), and leaves the
queue of waiting commands alone. This is the model's choice: the queue is its own (log entry 1), and a command that the spec gives no
occasion for leaves the state as it is (log entry 3). -/
def Obligations.EveryCommandCompletes : Prop :=
  ∀ (c : Instr) (s : State), ∃ t, exec c s = .next t ∧ t.pending = s.pending

/-- Every step keeps the canonical form of memory: addresses strictly rising, and nothing listed that an unlisted address
reads as. -/
def Obligations.StepKeepsMemoryForm : Prop :=
  ∀ (s t : State), s.mem.wf = true → step s = .next t → t.mem.wf = true

/-- The state after reset meets what every step keeps: its memory has the canonical form, and the boot invariant holds. -/
def Obligations.ResetInvariants : Prop :=
  (State.reset.mem.wf = true)
  ∧ (State.reset.bootInv)

/-- Every step keeps the boot invariant (R407, R409, R423, R371, R372, R326, R408): a boot runs or has run only under
power, READY says when it is ready, it is ready only after all eight stages with the Assay OPERATIONAL and the part not
decommissioned, and the lasers are enabled only then. -/
def Obligations.StepKeepsBootInv : Prop :=
  ∀ (s t : State), s.bootInv → step s = .next t → t.bootInv

/-- On an empty queue a step is one period of AON_CLK (the model's choice, log entry 2), here one in which no fault's cycle ends (R92, log
entry 21): CNT_TIME counts it while the clock is there (R394), the credit of a cluster that is ON moves on by 60 times its gate, up to 0
(R336), every Runner port in service sends idle frames, each with the next SEQ, as many as its lanes carry in 40 ns (R264, Table 14-1; that
they are the idle ones is the model's choice, log entry 6), a port that neither serves nor trains sends none, and memory, the ledger, the
channels, the host ports, the clusters' memories and the queue stay as they were. -/
def Obligations.IdleStepTicks : Prop :=
  ∀ (s : State), s.pending = [] → s.run.bind (·.stopAt) = none →
    ∃ t, step s = .next t ∧ t.pending = [] ∧ t.mem = s.mem ∧ t.riser = s.riser ∧ t.chans = s.chans
      ∧ t.cope = s.cope ∧ t.drag = s.drag ∧ t.running = s.running ∧ t.run = s.run ∧ t.boot = s.boot
      ∧ t.cnt.regs.time = (if s.pins.vddAon && s.pins.aonClk then s.cnt.regs.time + 1 else s.cnt.regs.time)
      ∧ (∀ g < 128, s.boot.phase = .ready → s.pins.vddAon = true → s.pins.aonClk = true → s.clusterOn g = true →
          (t.cl g).gate.credit = min 0 ((s.cl g).gate.credit + 60 * ((s.cl g).gate.g : Int)))
      ∧ (∀ p < 32, s.boot.phase = .ready → s.pins.vddAon = true → s.pins.aonClk = true →
          ((s.rport p).state.inService = true →
            (t.rport p).sent = (s.rport p).sent
              ++ (List.range (framesIn (lanesOf (s.lport p).txLanes).length s.cnt.regs.time)).map fun k =>
                ⟨(s.lport p).txLanes, { s.stamp p (rawFrame 0 0 0 0 [] []) with seq := (s.rport p).txSeq + BitVec.ofNat 48 k }⟩)
          ∧ ((s.rport p).state.inService = false → (s.rport p).trains = false → (t.rport p).sent = (s.rport p).sent))
      ∧ (∀ g, (t.cl g).regs = (s.cl g).regs ∧ (t.cl g).dmem = (s.cl g).dmem ∧ (t.cl g).crucible = (s.cl g).crucible)

/-! ### The control core -/

/-- ADD to MAX of the integer group (Table 4-3): xd := xa op xb on 64 bits, where x0 reads as zero and ignores writes (R81),
shifts are by xb mod 64, DIVU by zero gives all ones and REMU by zero gives xa (R83). ADDI adds the sign-extended IMM16; MOVK replaces
bits [16k+15:16k] of xd by IMM16 and keeps the others. The program counter moves on by 4, and nothing else of the cluster and nothing
of the rest of the part changes, but for the count of retired instructions. -/
def Obligations.IntegerResult : Prop :=
  (∀ x ∈ integerTable, ∀ (g : Fin 128) (s : State) (w : Nat),
    s.runsWord g.val w → w / 2 ^ 26 = 0 → w % 2 ^ 11 = x.2.1 →
    ∃ t, exec (x.1 g) s = .next t
      ∧ s.retiresAs t g.val (((s.cl g.val).setReg (w / 2 ^ 21 % 32)
          (x.2.2 ((s.cl g.val).reg (w / 2 ^ 16 % 32)) ((s.cl g.val).reg (w / 2 ^ 11 % 32)))).retired ((s.cl g.val).pc.toNat + 4)))
  ∧ (∀ (g : Fin 128) (s : State) (w : Nat), s.runsWord g.val w →
    let c := s.cl g.val
    let d := w / 2 ^ 21 % 32
    (w / 2 ^ 26 = 1 → ∃ t, exec (.addi g) s = .next t
      ∧ s.retiresAs t g.val ((c.setReg d (c.reg (w / 2 ^ 16 % 32) + (BitVec.ofNat 16 w).signExtend 64)).retired (c.pc.toNat + 4)))
    ∧ (w / 2 ^ 26 = 2 → w / 2 ^ 18 % 8 = 0 → ∃ t v, exec (.movk g) s = .next t
      ∧ s.retiresAs t g.val ((c.setReg d v).retired (c.pc.toNat + 4))
      ∧ ∀ i < 64, v.getLsbD i = if i / 16 = w / 2 ^ 16 % 4 then w.testBit (i % 16) else (c.reg d).getLsbD i))

/-- FADD to FCVT.L.D (Table 4-3): xd takes the FP64 result on the bits of xa and xb; where XB is not used its field is zero
(R434). Nothing else changes but the program counter and the count of retired instructions. -/
def Obligations.FloatGroupResult : Prop :=
  ∀ x ∈ floatTable, ∀ (g : Fin 128) (s : State) (w : Nat),
    s.runsWord g.val w → w / 2 ^ 26 = 3 → w % 2 ^ 11 = x.2.1 → (x.2.2.1 = false → w / 2 ^ 11 % 32 = 0) →
    ∃ t, exec (x.1 g) s = .next t
      ∧ s.retiresAs t g.val (((s.cl g.val).setReg (w / 2 ^ 21 % 32)
          (BitVec.ofNat 64 (x.2.2.2 ((s.cl g.val).reg (w / 2 ^ 16 % 32)).toNat ((s.cl g.val).reg (w / 2 ^ 11 % 32)).toNat))).retired
            ((s.cl g.val).pc.toNat + 4))

/-- LD64, LD32, ST64 and ST32 (Table 4-3), aligned and within scalar data memory. A load that reads clean gives xd the bytes at xa +
sign-extended IMM16, lowest first, LD32 zero-extended. A store, to a codeword whose check bits match and to no line of an armed item,
writes the low bytes of xd at xa + sign-extended IMM16; every other byte of the cluster's scalar data memory reads as before, and so
does everything else but the program counter, the record of stored lines and the count of retired instructions. -/
def Obligations.ScalarAccessResult : Prop :=
  (∀ (g : Fin 128) (s : State) (w : Nat) (bs : List Byte), s.runsWord g.val w →
    let c := s.cl g.val
    let a := (c.reg (w / 2 ^ 16 % 32) + (BitVec.ofNat 16 w).signExtend 64).toNat
    ∀ x ∈ [(Instr.ld64 g, 0x08, 8), (Instr.ld32 g, 0x0A, 4)],
      w / 2 ^ 26 = x.2.1 → a % x.2.2 = 0 → a + x.2.2 ≤ 0x10000 → c.dmem.readsClean (.priv g.val) a x.2.2 bs →
      ∃ t, exec x.1 s = .next t
        ∧ s.retiresAs t g.val ((c.setReg (w / 2 ^ 21 % 32) (BitVec.ofNat 64 (leNat bs))).retired (c.pc.toNat + 4)))
  ∧ (∀ (g : Fin 128) (s : State) (w : Nat), s.runsWord g.val w →
    let c := s.cl g.val
    let a := (c.reg (w / 2 ^ 16 % 32) + (BitVec.ofNat 16 w).signExtend 64).toNat
    ∀ x ∈ [(Instr.st64 g, 0x09, 8), (Instr.st32 g, 0x0B, 4)],
      w / 2 ^ 26 = x.2.1 → a % x.2.2 = 0 → a + x.2.2 ≤ 0x10000 → Tab.get 0 c.dmem.chk (a / 32) = 0 → c.storeLent a = false →
      ∃ t, exec x.1 s = .next t
        ∧ s.retiresAs t g.val { c.retired (c.pc.toNat + 4) with dmem := (t.cl g.val).dmem, dirty := (t.cl g.val).dirty }
        ∧ ∀ b, (t.cl g.val).dmem.byte b =
            if a ≤ b ∧ b < a + x.2.2 then BitVec.ofNat 8 ((c.reg (w / 2 ^ 21 % 32)).toNat / 256 ^ (b - a))
            else c.dmem.byte b)

/-- A load or store that leaves 0x0000 to 0xFFFF or is not aligned to its size faults the pour with PATTERN_MALFORMED
(0x0201) and does not take effect: no register and no byte of scalar data memory changes (R84), in an attempt that no fault has ended yet
(R92). A branch that is taken, JMP or CALL to
no instruction boundary of the code section faults in the same way, and no register changes. -/
def Obligations.MalformedFaults : Prop :=
  (∀ (g : Fin 128) (s : State) (w : Nat), s.runsWord g.val w →
    let c := s.cl g.val
    let a := (c.reg (w / 2 ^ 16 % 32) + (BitVec.ofNat 16 w).signExtend 64).toNat
    ∀ x ∈ [(Instr.ld64 g, 0x08, 8), (Instr.ld32 g, 0x0A, 4), (Instr.st64 g, 0x09, 8), (Instr.st32 g, 0x0B, 4)],
      w / 2 ^ 26 = x.2.1 → (a % x.2.2 ≠ 0 ∨ 0x10000 < a + x.2.2) → s.faultFree = true →
      ∃ t, exec x.1 s = .next t ∧ t.faultsBy g.val 5 0x0201 c.pc
        ∧ (t.cl g.val).regs = c.regs ∧ (t.cl g.val).dmem = c.dmem ∧ t.mem = s.mem)
  ∧ (∀ (g : Fin 128) (s : State) (w : Nat), s.runsWord g.val w →
    let c := s.cl g.val
    let far := (c.pc.toNat : Int) + 4 * (BitVec.ofNat 26 w).toInt
    let near := (c.pc.toNat : Int) + 4 * (BitVec.ofNat 16 w).toInt
    (∀ x ∈ [(Instr.jmp g, 0x18), (Instr.call g, 0x19)], w / 2 ^ 26 = x.2 → (far < 0 ∨ s.isTarget g.val far.toNat = false) →
      s.faultFree = true →
      ∃ t, exec x.1 s = .next t ∧ t.faultsBy g.val 5 0x0201 c.pc ∧ (t.cl g.val).regs = c.regs)
    ∧ ∀ x ∈ branchTable, w / 2 ^ 26 = x.2.1 → x.2.2 (c.reg (w / 2 ^ 21 % 32)) (c.reg (w / 2 ^ 16 % 32)) →
      (near < 0 ∨ s.isTarget g.val near.toNat = false) → s.faultFree = true →
      ∃ t, exec (x.1 g) s = .next t ∧ t.faultsBy g.val 5 0x0201 c.pc ∧ (t.cl g.val).regs = c.regs)

/-- BEQ to BGEU, JMP, CALL and JR (Table 4-3). A branch whose xd compares with xa as named goes to its own address plus 4 × the
sign-extended IMM16, an instruction boundary of the code section (R83), and one whose does not goes to the next word. JMP and CALL go to
their own address plus 4 × the sign-extended OFF26, CALL leaving the address of the next instruction in x31; JR goes to xa. -/
def Obligations.ControlTransfer : Prop :=
  (∀ x ∈ branchTable, ∀ (g : Fin 128) (s : State) (w : Nat), s.runsWord g.val w → w / 2 ^ 26 = x.2.1 →
    let c := s.cl g.val
    let dest := (c.pc.toNat : Int) + 4 * (BitVec.ofNat 16 w).toInt
    (x.2.2 (c.reg (w / 2 ^ 21 % 32)) (c.reg (w / 2 ^ 16 % 32)) → 0 ≤ dest → s.isTarget g.val dest.toNat = true →
      ∃ t, exec (x.1 g) s = .next t ∧ s.retiresAs t g.val (c.retired dest.toNat))
    ∧ (¬x.2.2 (c.reg (w / 2 ^ 21 % 32)) (c.reg (w / 2 ^ 16 % 32)) →
      ∃ t, exec (x.1 g) s = .next t ∧ s.retiresAs t g.val (c.retired (c.pc.toNat + 4))))
  ∧ (∀ (g : Fin 128) (s : State) (w : Nat), s.runsWord g.val w →
    let c := s.cl g.val
    let dest := (c.pc.toNat : Int) + 4 * (BitVec.ofNat 26 w).toInt
    let ra := (c.reg (w / 2 ^ 16 % 32)).toNat
    (w / 2 ^ 26 = 0x18 → 0 ≤ dest → s.isTarget g.val dest.toNat = true →
      ∃ t, exec (.jmp g) s = .next t ∧ s.retiresAs t g.val (c.retired dest.toNat))
    ∧ (w / 2 ^ 26 = 0x19 → 0 ≤ dest → s.isTarget g.val dest.toNat = true →
      ∃ t, exec (.call g) s = .next t
        ∧ s.retiresAs t g.val ((c.setReg 31 (BitVec.ofNat 64 (c.pc.toNat + 4))).retired dest.toNat))
    ∧ (w / 2 ^ 26 = 0x1A → w % 2 ^ 16 = 0 → w / 2 ^ 21 % 32 = 0 → s.isTarget g.val ra = true →
      ∃ t, exec (.jr g) s = .next t ∧ s.retiresAs t g.val (c.retired ra)))

/-- WAITT on a set token goes on, and clears it where IMM16[15] is set (no ready queue head consumes it in the same cycle:
R76); SETT sets a clear token; CLRT clears a set one (Table 4-3, R77). No other token changes. A token that is cleared first
latches the guards of armed items it opens (R159). SETT on a set token and CLRT on a clear one fault the pour with SLOT_COLLISION
(0x0301) and leave the token as it is (R77). -/
def Obligations.TokenInstructions : Prop :=
  (∀ (g : Fin 128) (s : State) (w : Nat), s.runsWord g.val w →
    let c := s.cl g.val
    let k := w % 256
    let next := c.pc.toNat + 4
    (w / 2 ^ 15 = 0x20 * 2 ^ 11 → w % 2 ^ 15 = k → c.token k = true →
      ∃ t, exec (.waitt g) s = .next t ∧ s.retiresAs t g.val (c.retired next))
    ∧ (w / 2 ^ 15 = 0x20 * 2 ^ 11 + 1 → w % 2 ^ 15 = k → c.token k = true →
      (∀ e ∈ Engine.all, s.headReady g.val e = true → ∀ q, c.head e = some q → k ∉ q.consumes) →
      ∃ t, exec (.waitt g) s = .next t ∧ s.retiresAs t g.val ((c.latchGuards.putToken k false).retired next))
    ∧ (w / 2 ^ 8 = 0x21 * 2 ^ 18 → c.token k = false →
      ∃ t, exec (.sett g) s = .next t ∧ s.retiresAs t g.val ((c.putToken k true).retired next))
    ∧ (w / 2 ^ 8 = 0x22 * 2 ^ 18 → c.token k = true →
      ∃ t, exec (.clrt g) s = .next t ∧ s.retiresAs t g.val ((c.latchGuards.putToken k false).retired next)))
  ∧ (∀ (g : Fin 128) (s : State) (w : Nat), s.runsWord g.val w →
    let c := s.cl g.val
    (w / 2 ^ 8 = 0x21 * 2 ^ 18 → c.token (w % 256) = true → s.faultFree = true →
      ∃ t, exec (.sett g) s = .next t ∧ t.faultsBy g.val 5 0x0301 c.pc ∧ (t.cl g.val).tokens = c.tokens)
    ∧ (w / 2 ^ 8 = 0x22 * 2 ^ 18 → c.token (w % 256) = false → s.faultFree = true →
      ∃ t, exec (.clrt g) s = .next t ∧ t.faultsBy g.val 5 0x0301 c.pc ∧ (t.cl g.val).tokens = c.tokens))

/-- SUMRD on a valid slot gives xd word IMM16[2:0] of slot IMM16[11:8] (R86); PHASE_HINT latches LEVEL and HOLD for its
cluster (R339); FENCE goes on with all five queues empty and nothing in flight; HALT stops the core, and with nothing queued,
in flight or armed the cluster's part has ended (R87). -/
def Obligations.SummaryHintFenceHalt : Prop :=
  ∀ (g : Fin 128) (s : State) (w : Nat), s.runsWord g.val w →
    let c := s.cl g.val
    let next := c.pc.toNat + 4
    let ended := c.drained && c.lending.items.all (·.finished)
    (w / 2 ^ 26 = 0x28 → w / 2 ^ 12 % 2 ^ 9 = 0 → w / 2 ^ 3 % 2 ^ 5 = 0 → (c.slot (w / 2 ^ 8 % 16)).valid = true →
      ∃ t, exec (.sumrd g) s = .next t
        ∧ s.retiresAs t g.val ((c.setReg (w / 2 ^ 21 % 32) ((c.slot (w / 2 ^ 8 % 16)).words.getD (w % 8) 0)).retired next))
    ∧ (w / 2 ^ 13 = 0x32 * 2 ^ 13 → w / 2 ^ 8 % 32 ≤ 16 →
      ∃ t, exec (.phaseHint g) s = .next t
        ∧ s.retiresAs t g.val ({ c with gate := { c.gate with newHint := some (w / 2 ^ 8 % 32, w % 256) } }.retired next))
    ∧ (w = 0x3E * 2 ^ 26 → (∀ e ∈ Engine.all, c.queue e = []) → c.flights = [] →
      ∃ t, exec (.fence g) s = .next t ∧ s.retiresAs t g.val (c.retired next))
    ∧ (w = 0x3F * 2 ^ 26 →
      ∃ t, exec (.halt g) s = .next t
        ∧ s.retiresAs t g.val ({ c with run := if ended then .ended else .halted }.retired next))

/-- What an instruction waits for, it stalls on: WAITT on a clear token, SUMRD on a slot that is not valid (R86), FENCE with
work queued or in flight, ISSUE on a summary slot that is not valid and into a full queue (R74). Nothing but the stall changes, and
the instruction is not retired. CORE_STALL_END: a WAITT that stalled goes on once its token is set, by the same rule as one that did
not stall; until then nothing changes. -/
def Obligations.CoreStalls : Prop :=
  (∀ (g : Fin 128) (s : State) (w : Nat), s.runsWord g.val w →
    let c := s.cl g.val
    (w / 2 ^ 16 = 0x20 * 2 ^ 10 → w / 2 ^ 8 % 2 ^ 7 = 0 → c.token (w % 256) = false →
      ∃ t, exec (.waitt g) s = .next t ∧ s.onlyCluster t g.val { c with stall := some (.token (w % 256)) } ∧ t.cnt = s.cnt)
    ∧ (w / 2 ^ 26 = 0x28 → w / 2 ^ 12 % 2 ^ 9 = 0 → w / 2 ^ 3 % 2 ^ 5 = 0 → (c.slot (w / 2 ^ 8 % 16)).valid = false →
      ∃ t, exec (.sumrd g) s = .next t ∧ s.onlyCluster t g.val { c with stall := some (.slot (w / 2 ^ 8 % 16)) } ∧ t.cnt = s.cnt)
    ∧ (w = 0x3E * 2 ^ 26 → c.drained = false →
      ∃ t, exec (.fence g) s = .next t ∧ s.onlyCluster t g.val { c with stall := some .drained } ∧ t.cnt = s.cnt))
  ∧ (∀ (g : Fin 128) (s : State) (k : Nat), k < 256 → s.attemptRuns g.val = true → (s.cl g.val).run = .running →
    (s.cl g.val).stall = some (.token k) → (s.cl g.val).wordAt g.val (s.cl g.val).pc.toNat (0x20 * 2 ^ 26 + k) →
    ((s.cl g.val).token k = true →
      ∃ t, exec (.coreStallEnd g) s = .next t ∧ s.retiresAs t g.val ((s.cl g.val).retired ((s.cl g.val).pc.toNat + 4)))
    ∧ ((s.cl g.val).token k = false →
      ∃ t, exec (.coreStallEnd g) s = .next t ∧ s.onlyCluster t g.val (s.cl g.val) ∧ t.cnt = s.cnt))
  ∧ (∀ (g : Fin 128) (s : State) (w w1 a n : Nat) (eng : Engine) (c : Cluster),
    s.runsWord g.val w → c = s.cl g.val → eng = engineOf (w / 2 ^ 23 % 8) →
    a = (c.reg (w / 2 ^ 16 % 32)).toNat → n = w / 2 ^ 5 % 16 → c.wordAt g.val (c.pc.toNat + 4) w1 → issueWord w →
    a % 64 = 0 → a < 0x10000 →
    (w.testBit 9 = true → (c.slot n).valid = false →
      ∃ t, exec (.issue g) s = .next t ∧ s.onlyCluster t g.val { c with stall := some (.sumSlot n) } ∧ t.cnt = s.cnt)
    ∧ ((w.testBit 9 = true → (c.slot n).valid = true) → 16 ≤ (c.queue eng).length →
      ∃ t, exec (.issue g) s = .next t ∧ s.onlyCluster t g.val { c with stall := some (.queueFull eng) } ∧ t.cnt = s.cnt))

/-- ISSUE (R74, R85, Table 4-4), outside a lending period and with scalar data memory clean: with room in the queue and its
summary slot valid, it appends an entry that holds the 64-byte record at xa, the tokens that are enabled and the slot, clears
the slot's valid bit, and goes on 8 bytes further. No other queue changes. -/
def Obligations.IssueEnqueues : Prop :=
  ∀ (g : Fin 128) (s : State) (w w1 a n : Nat) (eng : Engine) (c : Cluster) (p : Pattern),
    s.runsWord g.val w → s.runPattern = some p → c = s.cl g.val → eng = engineOf (w / 2 ^ 23 % 8) →
    a = (c.reg (w / 2 ^ 16 % 32)).toNat → n = w / 2 ^ 5 % 16 → c.wordAt g.val (c.pc.toNat + 4) w1 → issueWord w →
    a % 64 = 0 → a < 0x10000 → c.dmem.chk = [] → c.lending.active = false → (c.queue eng).length < 16 →
    (w.testBit 9 = true → (c.slot n).valid = true) →
    ∃ t q, exec (.issue g) s = .next t ∧ q.fromIssue c c.pc.toNat a w w1
      ∧ (t.cl g.val).queue eng = c.queue eng ++ [q] ∧ (∀ e, e ≠ eng → (t.cl g.val).queue e = c.queue e)
      ∧ (w.testBit 9 = true → ((t.cl g.val).slot n).valid = false)
      ∧ (t.cl g.val).regs = c.regs ∧ (t.cl g.val).tokens = c.tokens ∧ (t.cl g.val).dmem = c.dmem
      ∧ (t.cl g.val).pc = BitVec.ofNat 19 (c.pc.toNat + 8) ∧ t.mem = s.mem ∧ ∀ h, h ≠ g.val → t.cl h = s.cl h

/-- DEFER ARM outside a lending period, on a well-formed header and clean scalar data memory, opens one whose only item has
the header's steps and order and the instruction's guard (R156 to R161); DEFER SYNC with every item completed closes the
period, makes bank 1 invalid, and with SUM_EN writes the deferred summary to its slot (R164, Table 8-5). -/
def Obligations.DeferOpensAndCloses : Prop :=
  ∀ (g : Fin 128) (s : State) (w : Nat) (p : Pattern), s.runsWord g.val w → s.runPattern = some p →
    let c := s.cl g.val
    let a := (c.reg (w / 2 ^ 16 % 32)).toNat
    let h := leNat (c.dmem.raw a 64)
    let n := w / 2 ^ 8 % 16
    let next := c.pc.toNat + 4
    (w / 2 ^ 21 = 0x31 * 2 ^ 5 → w / 2 ^ 8 % 2 ^ 7 = 0 → a % 64 = 0 → a < 0x10000 → c.dmem.chk = [] → c.lending = Lending.none →
      h / 2 ^ 128 = 0 → h / 2 ^ 22 % 2 ^ 42 = 0 → 0 < h / 2 ^ 16 % 2 ^ 6 → h % 2 ^ 16 % 64 = 0 →
      h % 2 ^ 16 + 64 * (h / 2 ^ 16 % 2 ^ 6) ≤ 0x10000 → h < 2 ^ 512 →
      ∃ t i, exec (.deferArm g) s = .next t ∧ (t.cl g.val).lending.active = true ∧ (t.cl g.val).lending.items = [i]
        ∧ i.steps = h / 2 ^ 16 % 2 ^ 6 ∧ i.drMap.toNat = h / 2 ^ 64 % 2 ^ 64 ∧ i.first = h % 2 ^ 16
        ∧ i.guard = (if w.testBit 15 then some (w % 256) else none) ∧ i.next = 0 ∧ i.finished = false
        ∧ (t.cl g.val).pc = BitVec.ofNat 19 next ∧ (t.cl g.val).regs = c.regs ∧ t.mem = s.mem)
    ∧ (w / 2 ^ 21 = 0x31 * 2 ^ 5 + 1 → w / 2 ^ 13 % 2 ^ 8 = 0 → w % 2 ^ 8 = 0 → (∀ i ∈ c.lending.items, i.finished = true) →
      (w.testBit 12 = true → (c.slot n).valid = true) →
      ∃ t, exec (.deferSync g) s = .next t
        ∧ s.retiresAs t g.val ((if w.testBit 12 then c.setSlot n ⟨true, c.lending.sums.map satWord⟩ else c).closeLending.retired next))

/-! ### Engines -/

/-- The queue head of MX, DR or VX whose OPC is the command's issues as R76 says (WLOAD, MATMUL, DRAIN, TCLR and the 35
operations of VX): it leaves its queue, its consumed tokens are cleared, and it is in flight with what its effect gave; the
other queues of the cluster stay. That an instruction reads its operands and computes at its issue is the model's choice (log entry 49).
What it computes, where its operands read without a fault: MATMUL leaves in element e of tile t, for the rows and columns of R105, the chain
of its steps with k ascending from the old word, from 0 or from −0, which its completion writes; a step is one rounding of acc + a × w to
FP32, a sum limited to INT32 (R106), or in FP32 three such roundings on the parts of R107. DRAIN writes ACT(v × scale + bias) of its view,
each step an FP32 operation and the value narrowed to OUT_FMT, an integer of the integer path, or the words themselves where nothing changes
them (R120, R122). TCLR clears the flags of its tiles and, with ZERO, their words (R118). The elementwise operations and comparisons of
Table 7-3 write their result for every active element (R139 to R141), NFCOUNT counts, and the reductions write the value of R143's tree.
COMPRESS keeps the first assignments of its key, as many as D has rows, and tells the others (R144). Destinations here are registers and
descriptors without ACCUM and MX. -/
def Obligations.ComputeIssues : Prop :=
  (∀ x ∈ computeTable, ∀ (g : Fin 128) (s s' : State) (q : QEntry) (d : Done),
    q.record.toNat % 256 = x.2.2 → s.headStarts g.val x.2.1 (computeOp x.2.1 x.2.2) q s' d →
    exec (x.1 g) s = .next (s.issuedTo g.val x.2.1 (computeOp x.2.1 x.2.2) q s' d)
      ∧ (∃ fl ∈ ((s.issuedTo g.val x.2.1 (computeOp x.2.1 x.2.2) q s' d).cl g.val).flights,
          fl.eng = x.2.1 ∧ fl.entry = q ∧ fl.summary = d.summary ∧ fl.cycles = d.cycles))
  ∧ (∀ (x : EngCtx) (s s1 : State) (r : MxRec) (a sv w ws old : List Nat) (b : Bank) (g : MxGroup), r = parseMx x.rec_ →
    matmulReads x r s = (s1, .ok (a, sv, w, ws, old)) → b = (s1.cl x.g).bank r.bank → r.preload = false → mxGroup r.aFmt = some g →
    ∃ o flags, matmulOp.perform x s = (s1, .ok o)
      ∧ o.tiles = some (Patch.writeAll 32 [] ((List.range r.m).flatMap fun m => (List.range (nUsed r b)).map fun n =>
          (8 * (65536 * (r.tile + m / tileHeight (nOut r.form r.aFmt)) + 4 * (m % tileHeight (nOut r.form r.aFmt) * nOut r.form r.aFmt + n)),
            ((List.range (kRed r b)).foldl (fun acc k => mxStep g r.aFmt b.fmt r.aMx b.mx acc (a.getD (aIndex r (kRed r b) m k) 0)
                (if r.aMx then sv.getD (asIndex r (x.entry.desc r.asDesc) m (k / 32)) 0 else 0)
                (w.getD (if r.orient then n * b.nW + k else k * b.nW + n) 0) (if b.mx then ws.getD (k / 32 * b.nW + n) 0 else 0))
              ⟨if r.acc then old.getD (m * nUsed r b + n) 0 else if g.isInt then 0 else 0x80000000, 0⟩).word)), flags))
  ∧ (∀ (g : MxGroup) (fa fw : Nat) (ma mw : Bool) (o : MacOut) (a as w ws : Nat),
    (g.isInt = false → g ≠ .fp32 → (mxStep g fa fw ma mw o a as w ws).word = roundRne 0x0 ((decodeNum 0x0 o.word).add
      ((if ma then mxValue fa a as else decodeNum fa a).mul (if mw then mxValue fw w ws else decodeNum fw w))))
    ∧ (fa ∈ [0xB, 0xC] → fw ∈ [0xB, 0xC] → ∀ va vw : Int,
      va = (if fa = 0xC then ((a % 2 ^ 8 : Nat) : Int) else signedOf 8 a) →
      vw = (if fw = 0xC then ((w % 2 ^ 8 : Nat) : Int) else signedOf 8 w) →
      (mxStep .int8 fa fw ma mw o a as w ws).word
        = bitsOfInt 32 (max (-2 ^ 31) (min (2 ^ 31 - 1) (signedOf 32 o.word + va * vw))))
    ∧ (fa = 0xD → fw = 0xD → (mxStep .int4 fa fw ma mw o a as w ws).word
        = bitsOfInt 32 (max (-2 ^ 31) (min (2 ^ 31 - 1) (signedOf 32 o.word + signedOf 4 a * signedOf 4 w))))
    ∧ ∀ w2 w3, w2 = roundRne 0x0 ((decodeNum 0x0 o.word).add ((decodeNum 0x1 (splitHi a)).mul (decodeNum 0x1 (w / 2 ^ 16)))) →
      w3 = roundRne 0x0 ((decodeNum 0x0 w2).add ((decodeNum 0x1 (splitHi a)).mul (decodeNum 0x1 (w % 2 ^ 16)))) →
      (mxStep .fp32 fa fw ma mw o a as w ws).word
        = roundRne 0x0 ((decodeNum 0x0 w3).add ((decodeNum 0x1 (splitLo a)).mul (decodeNum 0x1 (w / 2 ^ 16)))))
  ∧ (∀ (x : EngCtx) (s s1 s2 s3 : State) (r : DrRec) (d : Desc) (words : List Nat) (sc bi : Array Nat) (scale bias : Nat → Nat), r = parseDr x.rec_ →
    d = x.entry.desc r.dDesc → d.accum = false → r.outMx = false → d.bitAddrs.length = r.rows * r.cols →
    (d.keyIndices x.env).length = r.rows * r.cols →
    consumeTiles s x.g ((List.range r.rows).flatMap fun m => (List.range r.cols).map fun n => viewBit r.tile r.rowLog m n)
      = (s1, .ok words) →
    drainOperand x r.scaleDesc (if r.scaleMode = 2 then r.cols else r.rows) s1 = (s2, .ok sc) →
    drainOperand x r.biasDesc (if r.biasMode = 1 then r.cols else r.rows) s2 = (s3, .ok bi) →
    scale = (fun i => if r.scaleMode = 1 then r.scaleImm else sc.getD (if r.scaleMode = 2 then i % r.cols else i / r.cols) 0) →
    bias = (fun i => bi.getD (if r.biasMode = 1 then i % r.cols else i / r.cols) 0) →
    (∀ (out : Nat → Nat),
      (r.integerPath = true → ∀ i < r.rows * r.cols, out i = (narrowTo r.outFmt (modeOf r.rmode)
          ⟨x.entry.seed.toNat, d.tid, (d.keyIndices x.env).getD i 0⟩
          (.ofInt (if r.act = 1 then max (signedOf 32 (words.getD i 0)) 0 else signedOf 32 (words.getD i 0)))).bits) →
      (r.integerPath = false →
        r.srcInt = false ∧ r.scaleMode = 0 ∧ r.biasMode = 0 ∧ r.act = 0 ∧ r.outFmt = 0 → ∀ i < r.rows * r.cols, out i = words.getD i 0) →
      (r.integerPath = false →
        ¬(r.srcInt = false ∧ r.scaleMode = 0 ∧ r.biasMode = 0 ∧ r.act = 0 ∧ r.outFmt = 0) → ∀ i < r.rows * r.cols, ∀ v u,
          v = (if r.srcInt then roundRne 0x0 (.ofInt (signedOf 32 (words.getD i 0))) else words.getD i 0) →
          u = (if r.scaleMode = 0 then v else roundRne 0x0 ((decodeNum 0x0 v).mul (decodeNum 0x0 (scale i)))) →
          out i = (narrowTo r.outFmt (modeOf r.rmode) ⟨x.entry.seed.toNat, d.tid, (d.keyIndices x.env).getD i 0⟩
            (decodeNum 0x0 (activation r.act
              (if r.biasMode = 0 then u else roundRne 0x0 ((decodeNum 0x0 u).add (decodeNum 0x0 (bias i))))))).bits) →
      ∃ t o, drainOp.perform x s = (t, .ok o) ∧ t.mem = (s3.applyPatch (Patch.writeAll (widthBits r.outFmt) []
          ((List.range (r.rows * r.cols)).map fun i => (d.bitAddrs.getD i 0, out i)))).mem
        ∧ o.summary.getD 4 0 = BitVec.ofNat 64 (r.rows * r.cols)))
  ∧ (∀ (x : EngCtx) (s : State) (r : DrRec), r = parseDr x.rec_ → r.tile + r.tileCount ≤ 64 →
    ∃ t o, tclrOp.perform x s = (t, .ok o)
      ∧ (∀ j < 64, (t.cl x.g).satFlags.getLsbD j
          = ((s.cl x.g).satFlags.getLsbD j && !(decide (r.tile ≤ j) && decide (j < r.tile + r.tileCount))))
      ∧ ∀ a, (t.cl x.g).crucible.byte a = if r.zero = true ∧ 65536 * r.tile ≤ a ∧ a < 65536 * (r.tile + r.tileCount) then 0
          else (s.cl x.g).crucible.byte a)
  ∧ (∀ (x : EngCtx) (s s1 : State) (r : VxRec) (vs : List (Array Nat)) (mask : Array Bool) (n : Nat) (src : Nat → Nat → Nat)
      (act : Nat → Bool), r = parseVx x.rec_ → readAll x r s = (s1, .ok (vs, mask)) → n = shapeCount (vxShape x r) →
    src = (fun j i => (vs.getD j #[]).getD i 0) → act = (fun i => mask.getD i true) →
    (∀ y ∈ vxValueTable, r.dMx = false → (x.entry.desc r.d.desc).accum = false →
      ∃ o, y.1.perform x s = (s1.vxWritten x r (vxEls n r.maskZero (roundRne r.wf Machine.Num.zero) act fun i =>
          y.2 r.wf (src 0 i) (src 1 i) (src 2 i)), .ok o)
        ∧ o.summary.getD 3 0 = satWord ((List.range n).filter act).length)
    ∧ (∀ y ∈ vxTestTable, r.d.kind = 1 ∨ r.d.kind = 3 →
      ∃ o els, y.1.perform x s = (if r.d.kind = 1 then
            s1.applyPatch (Patch.writeAll 8 [] (els.map fun e => ((x.entry.desc r.d.desc).bitAddrs.getD e.1 0, e.2)))
          else s1.vxWritten x r els, .ok o)
        ∧ els = vxEls n r.maskZero 0 act fun i => if y.2 (decodeNum r.wf (src 0 i)) (decodeNum r.wf (src 1 i)) then 1 else 0)
    ∧ (∃ o, nfcountOp.perform x s = (s1, .ok o)
        ∧ o.summary.getD 2 0 = satWord ((List.range n).filter fun i => act i && !(decodeNum r.wf (src 0 i)).isFinite).length)
    ∧ (∀ y ∈ vxTreeTable, ∀ (nl no : Nat) (res : List (Option Nat)), r.dMx = false → (x.entry.desc r.d.desc).accum = false →
      nl = shapeCount ((vxShape x r).take r.rdims) → no = shapeCount ((vxShape x r).drop r.rdims) → res.length = no →
      (vs.getD 0 #[]).size = nl * no → 0 < nl →
      (∀ j < no, TreeVal (y.2.2.1 r.wf) ((List.range nl).map fun q =>
        if act (j * nl + q) then some (y.2.1 r.wf (src 0 (j * nl + q))) else none) (res.getD j none)) →
      ∃ o, y.1.perform x s = (s1.vxWritten x r ((List.range no).map fun j => (j, match res.getD j none with
          | none => y.2.2.2 r.wf
          | some v => if (decodeNum r.wf v).isNan then canonicalNan r.wf else v)), .ok o)))
  ∧ (∀ (x : EngCtx) (s s1 s2 : State) (r : VxRec) (keys : List Nat) (mask : Array Bool) (n cap : Nat) (hits : List Nat),
    r = parseVx x.rec_ → n = (x.entry.desc r.a.desc).extent 1 * r.rowDiv → cap = (x.entry.desc r.d.desc).extent 1 →
    consume s (x.entry.desc r.b.desc).bitAddrs 32 = (s1, .ok keys) → readMask x r n s1 = (s2, .ok mask) →
    hits = (List.range n).filter (fun i => decide (keys.getD i 0 = x.entry.scalar r.c.pos % 2 ^ 32) && mask.getD i true) →
    ∃ t o, compressOp.perform x s = (t, .ok o) ∧ o.summary.getD 3 0 = satWord hits.length
      ∧ o.summary.getD 4 0 = satWord (min cap hits.length) ∧ o.summary.getD 5 0 = satWord (hits.length - cap)
      ∧ o.summary.getD 6 0 = ((hits[cap]?).map (BitVec.ofNat 64)).getD (BitVec.allOnes 64))

/-- The queue head of LD or ST that is a COPY issues, and its copy goes on as far as no access needs a phase or slot (R76,
R89, R290), in groups of whole codewords of the destination (the model's reading, log entry 50). One that is a COLL issues under the
command of its collective record's OP (Table 15-5), and its streams begin (R76, R293, R299, R301). That they go on at once in the step of
their issue is the model's choice (log entry 49).
What a reduction computes (R299): the chunks of S cover its elements, member q stands in the chain of chunk k at the place where R299's
chain names it, and a member that takes a frame of partials combines each element with its own, widened from FMT; the last member of a chain
narrows the result (R300). -/
def Obligations.MoveIssues : Prop :=
  (∀ (g : Fin 128) (eng : MoveEngine) (s s' : State) (q : QEntry) (d : Done),
    q.record.toNat % 256 = 1 → s.headStarts g.val eng.toEngine (copyOp eng.toEngine) q s' d →
    (s.cl g.val).flight (s.cl g.val).issues = none → (s'.cl g.val).issues = (s.cl g.val).issues →
    (s'.cl g.val).flights = (s.cl g.val).flights →
    exec (.copy g eng) s = .next (advanceFree g.val (s.cl g.val).issues (s.issuedTo g.val eng.toEngine (copyOp eng.toEngine) q s' d)))
  ∧ (∀ x ∈ collectiveTable, ∀ (g : Fin 128) (eng : MoveEngine) (s s' : State) (p : Pattern) (q : QEntry) (d : Done),
    s.runPattern = some p → q.record.toNat % 256 = 2 → (collRecord p (q.record.toNat / 2 ^ 64 % 2 ^ 16)).op = x.2 →
    s.headStarts g.val eng.toEngine (collOp eng.toEngine) q s' d → d.coll.isSome = true →
    (s.cl g.val).flight (s.cl g.val).issues = none → (s'.cl g.val).issues = (s.cl g.val).issues →
    (s'.cl g.val).flights = (s.cl g.val).flights →
    exec (x.1 g eng) s = .next (collAfterIssue g.val (s.cl g.val).issues (s.issuedTo g.val eng.toEngine (collOp eng.toEngine) q s' d)))
  ∧ (∀ (c : CollCtx) (i k : Nat), 0 < c.size →
    (i < c.elems → c.chunkOf i < c.size ∧ c.chunkOf i * c.elems / c.size ≤ i ∧ i < (c.chunkOf i + 1) * c.elems / c.size)
    ∧ (c.q < c.size → k < c.size →
      c.place k < c.size ∧ c.q = if c.rec_.order then (k + 1 + c.place k) % c.size else c.place k))
  ∧ (∀ (c : CollCtx) (n : CollInstance) (s s1 : State) (vals : List (Nat × Nat)) (own : List Nat),
    c.readS (vals.map (·.1)) s = (s1, .ok own) → own.length = vals.length → (vals.map (·.1)).Nodup →
    (∀ v ∈ vals, v.2 < 2 ^ 32) → (∀ v ∈ own, v < 2 ^ 32) →
    ∃ t n', c.combineIn vals n s = (t, n', none) ∧ ∀ j < vals.length, ∀ i r, i = (vals.getD j (0, 0)).1 →
      r = reduceStep c.rec_.red c.rec_.fmt (vals.getD j (0, 0)).2
        (if c.rec_.fmt = 0x1 then roundRne 0x0 (decodeNum 0x1 (own.getD j 0)) else own.getD j 0) →
      accGet n'.acc i = if c.place (c.chunkOf i) + 1 = c.size then
          (if c.rec_.fmt = 0x1 then (narrowTo 0x1 (if c.rec_.red = 0 then modeOf c.rec_.rmode else .rne) (c.key i) (decodeNum 0x0 r)).bits
            else r)
        else r)

/-! ### Intake, channels and pours -/

/-- INTAKE_WRITE (R202 to R204): a write that reaches the part and stays within offsets 0x0000 to 0x3FFF goes into the window;
the first one of a packet takes a Tundish buffer, if one is given. Once the packet's last byte is in, the window is idle again
and the packet waits for its decision; until then only the window changes. A write that starts from offset 0x4000 on changes
nothing in intake but SPR_STRAY, by 1. -/
def Obligations.PacketArrives : Prop :=
  ∀ (p : HostPort) (c : Fin 64) (off : Nat) (data : List Byte) (s : State) (w w' : Window),
    s.hostReach p = true → data ≠ [] →
    w = (if (s.window p c.val).active then s.window p c.val else ⟨true, s.assignBuffer p c.val, Mem.zeros⟩) →
    w' = { w with bytes := if w.buffer.isSome then (w.bytes.writeRange .tundish off data).1 else w.bytes.lay off data } →
    (w.bytes.chk = [] → ∀ b, w'.bytes.byte b = if off ≤ b ∧ b < off + data.length then data.getD (b - off) 0 else w.bytes.byte b)
    ∧ (s.boot.phase = .ready → off + data.length ≤ 0x4000 →
      ∃ t, exec (.intakeWrite p c off data) s = .next t
        ∧ t.window p c.val = (if off ≤ w'.lastByte ∧ w'.lastByte < off + data.length then Window.idle else w')
        ∧ t.intake.received = (if off ≤ w'.lastByte ∧ w'.lastByte < off + data.length
            then s.intake.received ++ [w'.packet p c.val s.cnt.regs.time] else s.intake.received)
        ∧ (∀ q d, (q ≠ p ∨ d ≠ c.val) → d < 64 → t.window q d = s.window q d)
        ∧ t.intake.bound = s.intake.bound ∧ t.riser = s.riser ∧ t.mem = s.mem ∧ t.chans = s.chans)
    ∧ (0x4000 ≤ off → off + data.length ≤ 0x10000 →
      ∃ t, exec (.intakeWrite p c off data) s = .next t
        ∧ t.intake = { s.intake with stray := s.intake.stray.add 1 } ∧ t.riser = s.riser ∧ t.mem = s.mem)

/-- PACKET_DECISION (R204, R206, R207, R213): decisions are made in the order in which receipts complete, across the channels. The packet
whose turn it is, as its buffer's codewords decode (R377; the data of a poisoned one too, the model's choice, log entry 22), is refused with
the code of the first row of Table 11-5 that fails, row by row as the table has them, or bound. A refusal is recorded in SPR_CHAN_REFUSAL
and frees the packet's buffer; a packet that passes every row, but for a NOP, is bound with a FREE ledger entry that no other bound packet
has. A command for a channel whose turn it is not finds no occasion and changes nothing (the model's choice, log entry 3). -/
def Obligations.PacketDecided : Prop :=
  ∀ (c : Fin 64) (s : State) (k d : Packet) (rest : List Packet),
    takeFirst c.val s.intake.received = some (k, rest) → d = k.decode.1 →
    (k.chk = [] → d = k)
    ∧ (s.nextDecision = some k → ∀ st, firstFailing (s.acceptRows d) = some st →
      ∃ t, exec (.packetDecision c) s = .next t
        ∧ (t.vchan c.val).refusal = ⟨true, k.port, BitVec.ofNat 8 d.opcode, st, BitVec.ofNat 64 d.pour⟩
        ∧ t.intake = { (s.freeBuffer k.buffer).intake with received := rest } ∧ t.mem = s.mem)
    ∧ (s.nextDecision = some k → firstFailing (s.acceptRows d) = none → d.opcode ≠ opNop →
      ∃ t i, exec (.packetDecision c) s = .next t
        ∧ t.intake = { s.intake with received := rest, bound := s.intake.bound ++ [⟨d, i⟩] }
        ∧ i < 1024 ∧ (t.entry i).state = .free ∧ (∀ b ∈ s.intake.bound, b.entry ≠ i) ∧ t.mem = s.mem)
    ∧ ((∀ turn, s.nextDecision = some turn → turn.chan ≠ c.val) → exec (.packetDecision c) s = .next s)

/-- R207 and R208, by PACKET_DECISION. ACK = p of a packet that passes its checks releases the ledger entry of every pour of the channel
numbered p or lower, and no other, and sets SPR_CHAN_ACKED to p if p is greater. A NOP (0x7F) that passes rows 1 to 10 does that, frees its
buffer and writes no reply, and is never refused with RISER_QUOTA_EXHAUSTED (0x0107). -/
def Obligations.AckReleases : Prop :=
  ∀ (c : Fin 64) (s : State) (x k : Packet) (rest : List Packet),
    takeFirst c.val s.intake.received = some (x, rest) → s.nextDecision = some x → k = x.decode.1 → s.ledgerKept →
    (s.refusalOf k = none →
      ∃ t, exec (.packetDecision c) s = .next t
        ∧ (∀ i, (s.entry i).state ≠ .free → (s.entry i).chan.toNat = c.val → (s.entry i).pour.toNat ≤ k.ack → (t.entry i).state = .free)
        ∧ (∀ i, (∀ e ∈ s.heldEntries c.val, e.1 = i → k.ack < e.2.pour.toNat) → t.entry i = s.entry i)
        ∧ (t.chan c.val).acked
            = (if (s.chan c.val).acked.toNat < k.ack then BitVec.ofNat 64 k.ack else (s.chan c.val).acked)
        ∧ (k.opcode = 0x7F → t.intake = { (s.freeBuffer k.buffer).intake with received := rest } ∧ t.chans = s.chans
            ∧ t.cope = s.cope ∧ t.drag = s.drag))
    ∧ (k.opcode = 0x7F → s.refusalOf k ≠ some 0x0107)

/-- PACKET_ACCEPT, and INTAKE_BODY_RETRY of a body that was held: once the body is in both copies of the intake store, the
packet's ledger entry is ACCEPTED with its pour, opcode, channel, handle, RESTARTABLE and the time; the entry joins the order
of acceptance, the packet's buffer is freed, and, for an opcode that is not the channel's own, the channel counts the pour as
its last accepted one (R206, R242, R254). Held with no copy written, it waits on; held for 1 ms it sets INTAKE_STALL. -/
def Obligations.PacketAccepted : Prop :=
  ∀ (c : Fin 64) (s : State) (b : Bound), s.boundFirst c.val b →
    (∀ x ∈ [(Instr.packetAccept c true true, false), (Instr.intakeBodyRetry c true true, true)],
      s.intake.held.getLsbD c.val = x.2 → isChannelOp b.packet.opcode = false →
      ∃ t, exec x.1 s = .next t ∧ t.entry b.entry = b.packet.entry s.cnt.regs.time
        ∧ t.accepted = s.accepted ++ [b.entry] ∧ (t.chan c.val).accepted = BitVec.ofNat 64 b.packet.pour
        ∧ (t.chan c.val).lastOp = BitVec.ofNat 8 b.packet.opcode
        ∧ t.intake.bound = s.intake.bound.filter (fun x => x.entry ≠ b.entry) ∧ t.intake.held.getLsbD c.val = false
        ∧ t.intake.free0 = (s.freeBuffer b.packet.buffer).intake.free0
        ∧ t.intake.free1 = (s.freeBuffer b.packet.buffer).intake.free1
        ∧ (∀ i, i ≠ b.entry → t.entry i = s.entry i) ∧ (∀ d, d ≠ c.val → t.chan d = s.chan d))
    ∧ (s.intake.held.getLsbD c.val = false →
      exec (.packetAccept c false false) s = .next { s with intake := { s.intake with held := s.intake.held ||| (1#64 <<< c.val) } })
    ∧ (s.intake.held.getLsbD c.val = true →
      ∃ t, exec (.intakeStallTimeout c) s = .next t ∧ t.err.intakeStall.getLsbD c.val = true
        ∧ t = { s with err := { s.err with intakeStall := t.err.intakeStall } })

/-- The channel's own opcodes at their acceptance, whose entry is then ACCEPTED or RUNNING: CHANNEL_OPEN opens the channel for
the receiving port with its quota, reservation, ring and options, its ring counts zero, and commit slot 0 written with the
pour's number and epoch 0 (R198, R211, R245); CHANNEL_ADOPT gives it the adopting port, the new ring and counts of zero (R200);
CHANNEL_CLOSE makes it CLOSING (R201). -/
def Obligations.ChannelOpcodesAccepted : Prop :=
  ∀ (c : Fin 64) (s : State) (b : Bound), s.boundFirst c.val b → s.intake.held.getLsbD c.val = false →
    (b.packet.opcode = 0x01 →
      ∃ t, exec (.channelOpen c) s = .next t ∧ (t.chan c.val).opens b.packet
        ∧ (t.vchan c.val).rhead = 0 ∧ (t.vchan c.val).rtail = 0 ∧ (t.vchan c.val).replyQ = []
        ∧ Tab.get none t.ledger.slots (2 * c.val) = some ⟨BitVec.ofNat 64 b.packet.pour, 0, 0, 0, false, false, false, 0⟩
        ∧ Tab.get none t.ledger.slots (2 * c.val + 1) = none ∧ t.accepted = s.accepted ++ [b.entry])
    ∧ (b.packet.opcode = 0x03 →
      ∃ t, exec (.channelAdopt c) s = .next t ∧ (t.chan c.val).owner = b.packet.port
        ∧ (t.chan c.val).ringBase = BitVec.ofNat 64 (fieldOf b.packet.pay 0 64) ∧ (t.chan c.val).ringLog = fieldOf b.packet.pay 88 5
        ∧ (t.chan c.val).msixEn = b.packet.pay.testBit 97 ∧ (t.chan c.val).quota = (s.chan c.val).quota
        ∧ (t.vchan c.val).rhead = 0 ∧ (t.vchan c.val).rtail = 0 ∧ t.accepted = s.accepted ++ [b.entry])
    ∧ (b.packet.opcode = 0x02 →
      ∃ t, exec (.channelClose c) s = .next t ∧ (t.chan c.val).state = .closing ∧ (t.chan c.val).owner = (s.chan c.val).owner
        ∧ t.accepted = s.accepted ++ [b.entry])

/-- Pours that need no domain, memory or host access start and have their outcome fixed at once: CHANNEL_OPEN and CHANNEL_ADOPT
complete, the adopt with the number of copies it wrote (R221); CHANNEL_CLOSE runs until its teardown (R201); PATTERN_UNLOAD
completes for a handle loaded on the channel and is refused with PATTERN_MALFORMED (0x0201) otherwise (R222); SET_STEP_SIZE
completes with the step counter, or is refused with FORMAT_UNSUPPORTED (0x0209) or PATTERN_MALFORMED (R175, R225);
ENERGY_READ returns the channel's accumulator (R347); FLASK_LEAVE outside a flask completes with 0 (R232). -/
def Obligations.PourOutcomes : Prop :=
  ∀ (c : Fin 64) (s s1 : State) (i : Nat) (k : Packet) (x : Instr × Nat × Option PourOutcome),
    x ∈ [(Instr.channelOpen c, 0x01, some (completed stOk 0 .nothing)),
      (Instr.channelAdopt c, 0x03, some (completed stOk (s.vchan c.val).adoptCopies .nothing)),
      (Instr.channelClose c, 0x02, none),
      (Instr.patternUnload c, 0x11,
        some (if (s.patternOn c.val k.handle).isSome then completed stOk 0 (.unload k.handle) else refusedAt 0x0201 0)),
      (Instr.setStepSize c, 0x22,
        some (if (s.patternOn c.val k.handle).isNone then refusedAt 0x0201 0
          else if stepSizeOk (fieldOf k.pay 0 32) then
            completed stOk (s.stepOf k.handle).toNat (.stepSize k.handle (BitVec.ofNat 32 (fieldOf k.pay 0 32)))
          else refusedAt 0x0209 (s.stepOf k.handle).toNat)),
      (Instr.energyRead c, 0x41, some ⟨stOk, (s.chan c.val).energy, true, .nothing⟩)]
      ∨ (s.runner.flask = none ∧ x = (Instr.flaskLeave c, 0x51, some (completed stOk 0 .nothing))) →
    s.noneBound c.val → s.startsNow s1 c.val x.2.1 i [] k →
    ∃ t, exec x.1 s = .next t ∧ t.runsWith s c.val i k x.2.2 ∧ t.mem = s.mem ∧ t.chans = s.chans

/-- QUERY and ATTEST write their block to host memory at the address that the payload names, in 64-byte pieces through the
owner's port, and have their outcome once the port has taken it, with the block's length in DETAIL: the device block, the
pattern block (640 bytes), the device evidence and the stored receipt, padded to whole 64-byte writes (R228, R229, R360,
R361, R363). -/
def Obligations.AnswersWritten : Prop :=
  ∀ (c : Fin 64) (s s1 s2 : State) (i : Nat) (k : Packet) (a nonce : List Byte) (p : HostPort),
    p = (s.chan c.val).owner → (s.port p).mayWrite = true → s2 = s1.beginAttempt c.val i k →
    nonce = (k.payload.drop 16).take 48 →
    (s.startsNow s1 c.val 0x40 i [] k → fieldOf k.pay 64 8 = 0 →
      ∃ t, exec (.queryDevice c) s = .next t ∧ t.runsWith s c.val i k (some (completed stOk 128 .nothing))
        ∧ (t.port p).out = (s.port p).out ++ blockWrites (BitVec.ofNat 64 (fieldOf k.pay 0 64)) s.deviceBlock)
    ∧ (∀ q, s.startsNow s1 c.val 0x40 i [] k → fieldOf k.pay 64 8 = 1 → s.patternOn c.val k.handle = some q →
      ∃ t, exec (.queryPattern c) s = .next t ∧ t.runsWith s c.val i k (some (completed stOk 640 .nothing))
        ∧ (t.port p).out = (s.port p).out ++ blockWrites (BitVec.ofNat 64 (fieldOf k.pay 0 64)) (s.patternBlock k.handle q))
    ∧ (s.startsNow s1 c.val 0x60 i [] k → fieldOf k.pay 64 8 = 0 → a = (s2.attestDevice nonce).1 →
      ∃ t, exec (.attestDeviceEvidence c) s = .next t ∧ t.runsWith s c.val i k (some (completed stOk a.length .nothing))
        ∧ (t.port p).out = (s.port p).out ++ blockWrites (BitVec.ofNat 64 (fieldOf k.pay 0 64)) (padded a))
    ∧ (∀ q r, s.startsNow s1 c.val 0x60 i [] k → fieldOf k.pay 64 8 = 1 → s.patternOn c.val k.handle = some q →
      s.receiptOf c.val k.handle = some r → a = (s2.attestReceiptOf r nonce).1 →
      ∃ t, exec (.attestReceipt c) s = .next t ∧ t.runsWith s c.val i k (some (completed stOk a.length .nothing))
        ∧ (t.port p).out = (s.port p).out ++ blockWrites (BitVec.ofNat 64 (fieldOf k.pay 0 64)) (padded a))

/-- COPY_IN, COPY_OUT and FILL (R18, R220, R226, R227): a device range that R18 or R186 does not let the host reach is refused with
HBM_EXCEEDED (0x0204). FILL writes byte j mod 32 of its value to byte j of the range, and no other byte of memory changes
where the range was clean; COPY_OUT writes the range, which reads clean, to host memory; COPY_IN asks for its host data and
waits for it. HOST_DMA_COMPLETION of a COPY_IN: the data go to the range in ascending address order, each codeword written whole once its
last byte is in (R382), and the pour completes with its length once the last byte of all is in; an error completion or a poisoned TLP faults
it with UNCORRECTABLE_DATA (0x0302) and writes nothing, and AER notes the poisoned TLP (bit 12, PRESUMED, log entry 85). -/
def Obligations.MemoryPours : Prop :=
  (∀ (c : Fin 64) (s s1 : State) (i n : Nat) (k : Packet) (p : HostPort) (host : Word64),
    n = k.devRange.2 → p = (s.chan c.val).owner → host = BitVec.ofNat 64 (fieldOf k.pay 0 64) →
    (∀ x ∈ [(Instr.copyIn c, 0x30), (Instr.copyOut c, 0x31), (Instr.fill c, 0x32)],
      s.startsNow s1 c.val x.2 i (stackNeed (s.bodyOf i).devRange.1) k → s.hostTarget k.devRange.1 n = none →
      ∃ t, exec x.1 s = .next t ∧ t.runsWith s c.val i k (some (refusedAt 0x0204 0)) ∧ t.mem = s.mem)
    ∧ (∀ a, s.startsNow s1 c.val 0x32 i (stackNeed (s.bodyOf i).devRange.1) k → s.hostTarget k.devRange.1 n = some a →
      a % 32 = 0 → n % 32 = 0 → 0 < n →
      ∃ t, exec (.fill c) s = .next t ∧ t.runsWith s c.val i k (some (completed stOk n .nothing))
        ∧ (∀ j < n, t.mem.byte (a + j) = BitVec.ofNat 8 (fieldOf k.pay 128 256 / 256 ^ (j % 32)))
        ∧ (s.mem.suspects .chip (a / 32) (n / 32) = [] → ∀ b, b < a ∨ a + n ≤ b → t.mem.byte b = s.mem.byte b))
    ∧ (∀ a bs, s.startsNow s1 c.val 0x31 i (stackNeed (s.bodyOf i).devRange.1) k → s.hostTarget k.devRange.1 n = some a →
      (s.port p).mayWrite = true → s.mem.readsClean .chip a n bs →
      ∃ t, exec (.copyOut c) s = .next t ∧ t.runsWith s c.val i k (some (completed stOk n .nothing))
        ∧ (t.port p).out = (s.port p).out ++ [.write host bs] ∧ t.mem = s.mem)
    ∧ (∀ a, s.startsNow s1 c.val 0x30 i (stackNeed (s.bodyOf i).devRange.1) k → s.hostTarget k.devRange.1 n = some a →
      (s.port p).mayWrite = true → 0 < n →
      ∃ t, exec (.copyIn c) s = .next t ∧ t.runsWith s c.val i k none
        ∧ (t.runningOf c.val).bind (·.transfer) = some ⟨0, n, []⟩
        ∧ (t.port p).out = (s.port p).out ++ [.readReq c.val host n] ∧ t.mem = s.mem))
  ∧ (∀ (port : HostPort) (c : Fin 64) (data bs all : List Byte) (s : State) (r : Running) (x : Transfer) (a n : Nat),
    s.awaitsData port c.val = some (r, x) → s.hostReach port = true → r.body.opcode = 0x30 →
    s.hostTarget r.body.devRange.1 r.body.devRange.2 = some a → bs = data.take (x.total - x.done) →
    all = x.rest ++ bs → n = all.length / 32 * 32 →
    (∃ t, exec (.hostDmaCompletion port c data .good) s = .next t
      ∧ t.mem = (s.mem.writeRange .chip (a + (x.done - x.rest.length)) (all.take n)).1
      ∧ (t.runningOf c.val).bind (·.transfer) = some ⟨x.done + bs.length, x.total, all.drop n⟩
      ∧ (t.runningOf c.val).bind (·.outcome)
          = if x.done + bs.length = x.total then some (completed stOk x.total .nothing) else none)
    ∧ (∀ st, st ≠ .good → ∃ t, exec (.hostDmaCompletion port c data st) s = .next t ∧ t.mem = s.mem
      ∧ (t.runningOf c.val).bind (·.outcome) = some (faultedWith 0x0302)
      ∧ (t.port port).aerUncor = (if st = .poisoned then (s.port port).aerUncor ||| 0x1000 else (s.port port).aerUncor)))

/-- FIRMWARE_STAGE clears PENDING and asks for its host data; FIRMWARE_ACTIVATE of a staged slot that passes Table 18-3 sets
PENDING and completes, and of one that does not leaves PENDING as it was and is refused with FIRMWARE_ROLLBACK (0x0502) where
its version is too low, FIRMWARE_SIGNATURE (0x0501) otherwise, the reason noted in ASY_BOOT (R234, R353, R354). HOST_DMA_COMPLETION of a
FIRMWARE_STAGE: the bytes go to the staged slot from its OFFSET on, in their order, and no other byte of the flash changes; while the flash
is released to the board they wait and the flash stays (R429); a failed read is asked again from where it stands, as Table 12-11 gives the
opcode no status for it (the model's choice, log entry 83). -/
def Obligations.FirmwarePours : Prop :=
  ∀ (c : Fin 64) (s s1 : State) (i : Nat) (k : Packet) (p : HostPort), p = (s.chan c.val).owner →
    (s.startsNow s1 c.val 0x61 i [] k → (s.port p).mayWrite = true → 0 < fieldOf k.pay 96 32 →
      ∃ t, exec (.firmwareStage c) s = .next t ∧ t.runsWith s c.val i k none ∧ t.ledger.bootPending = false
        ∧ (t.runningOf c.val).bind (·.transfer) = some ⟨0, fieldOf k.pay 96 32, []⟩
        ∧ (t.port p).out = (s.port p).out ++ [.readReq c.val (BitVec.ofNat 64 (fieldOf k.pay 0 64)) (fieldOf k.pay 96 32)])
    ∧ (s.startsNow s1 c.val 0x62 i [] k → s.pins.qspiHold = false → s.slotReject s.stagedSlot = none →
      ∃ t, exec (.firmwareActivate c) s = .next t ∧ t.ledger.bootPending = true
        ∧ t.runsWith s c.val i k (some (completed stOk (s.firmwareDetail true) .nothing)))
    ∧ (∀ n, s.startsNow s1 c.val 0x62 i [] k → s.pins.qspiHold = false → s.slotReject s.stagedSlot = some n →
      ∃ t, exec (.firmwareActivate c) s = .next t ∧ t.ledger.bootPending = s.ledger.bootPending
        ∧ t.runsWith s c.val i k (some (refusedAt (if n = 5 then 0x0502 else 0x0501) (s.firmwareDetail true)))
        ∧ (if s.stagedSlot then t.assay.reasonB else t.assay.reasonA) = BitVec.ofNat 4 n)
    ∧ (∀ (data bs : List Byte) (r : Running) (x : Transfer) (a : Nat), s.awaitsData p c.val = some (r, x) → s.hostReach p = true →
      r.body.opcode = 0x61 → bs = data.take (x.total - x.done) → a = slotBase s.stagedSlot + fieldOf r.body.pay 64 32 + x.done →
      (s.pins.qspiHold = false → x.rest = [] →
        ∃ t, exec (.hostDmaCompletion p c data .good) s = .next t ∧ t.mem = s.mem
          ∧ (∀ j < bs.length, Tab.get 0xFF t.assay.flash (a + j) = bs.getD j 0)
          ∧ (∀ b, b < a ∨ a + bs.length ≤ b → Tab.get 0xFF t.assay.flash b = Tab.get 0xFF s.assay.flash b)
          ∧ (x.done + bs.length < x.total → (t.runningOf c.val).bind (·.outcome) = none
              ∧ (t.runningOf c.val).bind (·.transfer) = some ⟨x.done + bs.length, x.total, []⟩))
      ∧ (s.pins.qspiHold = true →
        ∃ t, exec (.hostDmaCompletion p c data .good) s = .next t ∧ t.assay = s.assay ∧ (t.runningOf c.val).bind (·.outcome) = none
          ∧ (t.runningOf c.val).bind (·.transfer) = some ⟨x.done + bs.length, x.total, x.rest ++ bs⟩)
      ∧ (∀ st, st ≠ .good →
        ∃ t, exec (.hostDmaCompletion p c data st) s = .next t ∧ t.assay = s.assay ∧ t.running = s.running
          ∧ (t.port p).out = (s.port p).out
              ++ [.readReq c.val (BitVec.ofNat 64 (fieldOf r.body.pay 0 64 + x.done)) (x.total - x.done)]))

/-- PATTERN_LOAD (R190, R191): an image that the checks of Table 10-9 pass, read clean, completes with the lowest free handle in
DETAIL and the load as its effect; one that they do not pass is refused with the first failing check's status, DETAIL 0: row by row in the
table's order, each with its code (rows 17, 19 and 20 with the codes of the items they examine). -/
def Obligations.PatternLoads : Prop :=
  ∀ (c : Fin 64) (s s1 s2 s3 : State) (i a len : Nat) (k : Packet) (r : RangeRead) (p : Pattern),
    s.startsNow s1 c.val 0x10 i (stackNeed (fieldOf (s.bodyOf i).pay 0 48)) k → a = fieldOf k.pay 0 48 → len = fieldOf k.pay 64 32 →
    s2 = s1.beginAttempt c.val i k → (r, s3) = s2.readMem (some (c.val, BitVec.ofNat 64 k.pour)) true (a % 2 ^ 45) len →
    p = readPattern c.val (BitVec.ofNat 64 (fieldOf k.pay 128 64)) r.data →
    (stagingCheck s2 a len ≠ none →
      ∃ t, exec (.patternLoad c) s = .next t ∧ t.runsWith s c.val i k (some (refusedAt 0x0204 0)))
    ∧ (∀ st, stagingCheck s2 a len = none → r.bad = [] → r.poisoned = [] → firstFailing (s3.imageRows p r.data len) = some st →
      ∃ t, exec (.patternLoad c) s = .next t ∧ t.runsWith s c.val i k (some (refusedAt st 0)))
    ∧ (stagingCheck s2 a len = none → r.bad = [] → r.poisoned = [] → firstFailing (s3.imageRows p r.data len) = none →
      ∃ t, exec (.patternLoad c) s = .next t
        ∧ t.runsWith s c.val i k (some (completed stOk s.freeHandle (.load s.freeHandle p p.digest)))
        ∧ (∀ h, 1 ≤ h → h < s.freeHandle → s.pattern h ≠ none))

/-- RUN (R87, R223, R224): a RUN that a check of R223 fails is refused with the first failing check's status, check by check with its
code, and the step counter; one that passes starts its attempt: every cluster that the pattern uses is running at its entry point with its
initial tokens and its scalar image, and every other one has ended its part. (A state with a cluster fault that waits, with votes of the
flask that came before the RUN, or with frames that wait to be relayed is left aside: each of them acts at the start as well.) -/
def Obligations.RunStarts : Prop :=
  ∀ (c : Fin 64) (s s1 : State) (i : Nat) (k : Packet) (p : Pattern),
    s.startsNow s1 c.val 0x20 i (runNeeds s (s.bodyOf i)) k → s.runClear (s.bodyOf i).handle = true → s.handleFaults = s →
    s.patternOn c.val k.handle = some p →
    (∀ st, firstFailing (s.runRows k p) = some st →
      ∃ t, exec (.run c) s = .next t ∧ t.runsWith s c.val i k (some (refusedAt st (s.stepOf k.handle).toNat)) ∧ t.run = s.run)
    ∧ (firstFailing (s.runRows k p) = none → (∀ q, (s.rport q).relays = []) → (∀ h ∈ s.runner.votes, h.1 = false) →
      ∃ t r, exec (.run c) s = .next t ∧ t.runsWith s c.val i k none ∧ t.run = some r ∧ r.chan = c.val ∧ r.entry = i
        ∧ r.handle = k.handle ∧ r.t = s.stepOf k.handle ∧ r.fault = none ∧ r.verdict = none ∧ r.written = 0
        ∧ (∀ g < 128, p.used.getLsbD g = true → (t.cl g).run = .running ∧ (t.cl g).unused = false
            ∧ (t.cl g).pc = BitVec.ofNat 19 (p.resOf g).entryPc ∧ (t.cl g).tokens = Tab.get 0 p.tokens g
            ∧ (t.cl g).dmem = p.scalarImage g ∧ (t.cl g).flights = [] ∧ (t.cl g).fault.valid = false ∧ ∀ e, (t.cl g).queue e = [])
        ∧ (∀ g < 128, p.used.getLsbD g = false → (t.cl g).run = .ended ∧ (t.cl g).unused = true ∧ (t.cl g).pc = 0
            ∧ (t.cl g).fault.valid = false ∧ (t.cl g).fault.status = 0))

/-- R224: when the pour starts, the control core of each used cluster g receives x1 = the committed step counter, x2 = η by R174
as FP32 bits with bits [63:32] zero, x3 and x4 = the logical rank and count (0 and 1 outside a flask), x5 = g, and x6 to x15 =
ARG0 to ARG9. Every other register is zero, and its scalar data memory and tokens are the pattern's, so that no pour number, channel,
handle, port, time or physical position reaches a cluster. -/
def Obligations.RunRegisters : Prop :=
  ∀ (c : Fin 64) (s s1 : State) (i eta : Nat) (k : Packet) (p : Pattern),
    s.startsNow s1 c.val 0x20 i (runNeeds s (s.bodyOf i)) k → s.runClear (s.bodyOf i).handle = true → s.handleFaults = s →
    s.patternOn c.val k.handle = some p → firstFailing (s.runRows k p) = none → (∀ q, (s.rport q).relays = []) →
    (∀ h ∈ s.runner.votes, h.1 = false) →
    s.resolveStep k p = some eta → eta < 2 ^ 32 →
    ∃ t, exec (.run c) s = .next t ∧ ∀ g < 128, p.used.getLsbD g = true →
      (t.cl g).reg 1 = s.stepOf k.handle ∧ (t.cl g).reg 2 = BitVec.ofNat 64 eta
        ∧ (t.cl g).reg 3 = BitVec.ofNat 64 (if s.runner.flask.isSome then s.rank else 0)
        ∧ (t.cl g).reg 4 = BitVec.ofNat 64 (if s.runner.flask.isSome then s.flaskN else 1)
        ∧ (t.cl g).reg 5 = BitVec.ofNat 64 g
        ∧ (∀ j < 10, (t.cl g).reg (6 + j) = BitVec.ofNat 64 (fieldOf k.pay (128 + 64 * j) 64))
        ∧ (t.cl g).reg 0 = 0 ∧ (∀ j, 16 ≤ j → (t.cl g).reg j = 0)
        ∧ (t.cl g).dmem = p.scalarImage g ∧ (t.cl g).tokens = Tab.get 0 p.tokens g

/-- POUR_COMMIT of a pour with its outcome fixed, and of a RUN of one rank (R218, R241, R244 to R246): the entry becomes DONE with
its status, DETAIL and the commit epoch, which a completed pour of an epoch opcode advances by one, its commit slot then being
the channel's current one; the pour no longer runs, and its final reply joins those that wait for the ring. -/
def Obligations.PourCommits : Prop :=
  ∀ (c : Fin 64) (s : State) (r : Running) (i : Nat),
    s.boot.phase = .ready → s.riser.lost = false → s.ledgerKept → s.runningOf c.val = some r → i = r.entry →
    (∀ o, r.outcome = some o → r.body.opcode ≠ 0x02 →
      ∃ t rest, exec (.pourCommit c) s = .next t ∧ t.runningOf c.val = none ∧ (t.entry i).state = .done
        ∧ (t.entry i).status = o.status ∧ (t.entry i).detail = o.detail ∧ (t.entry i).pour = (s.entry i).pour
        ∧ (t.entry i).epoch = (if o.ok && isEpochOp (s.entry i).opcode.toNat then s.epochOf c.val + 1 else s.epochOf c.val)
        ∧ (t.vchan c.val).replyQ = (s.vchan c.val).replyQ ++ replyOf (t.entry i) :: rest
        ∧ (t.chan c.val).energy = (s.chan c.val).energy + (t.entry i).energy
        ∧ ((o.ok && isEpochOp (s.entry i).opcode.toNat) = false → t.curSlot c.val = s.curSlot c.val)
        ∧ (∀ sl, (o.ok && isEpochOp (s.entry i).opcode.toNat) = true → (s.chan c.val).state ≠ .closed →
            s.effectSlot (s.entry i).pour (s.epochOf c.val + 1) o.effect = some sl → (t.curSlot c.val).map (·.2) = some sl))
    ∧ (∀ x p, r.outcome = none → s.run = some x → s.runPattern = some p → p.ranks ≤ 1 → x.chan = c.val →
      (x.fault = none → s.allEnded p = true →
        ∃ t, exec (.pourCommit c) s = .next t ∧ t.run = none ∧ t.runningOf c.val = none ∧ (t.entry i).state = .done
          ∧ (t.entry i).status = 0 ∧ (t.entry i).detail = (if x.updated then x.t + 1 else x.t)
          ∧ (t.entry i).epoch = s.epochOf c.val + 1)
      ∧ (∀ st, x.fault = some (st, false) →
        ∃ t, exec (.pourCommit c) s = .next t ∧ t.run = none ∧ t.runningOf c.val = none ∧ (t.entry i).state = .done
          ∧ (t.entry i).status = st ∧ (t.entry i).epoch = s.epochOf c.val ∧ t.ledger.slots = s.ledger.slots
          ∧ t.ledger.maps = s.ledger.maps))

/-- FINAL_REPLY (R211, R214): the first reply that waits is written, once the ring has a free slot and the owner's port may write (until
then nothing changes; a command with nothing to write is the model's choice, log entry 3): reply k, of k written since the ring started,
goes to slot k mod E with PHASE = 1 − ((k div E) mod 2) as one 64-byte write, followed by MSI-X vector c with MSIX_EN, or by that vector's
pending bit while MSI-X holds it back; a final reply becomes the last replied pour. CLOSE_TEARDOWN (R201), with the earlier pours' replies
written, room in the ring for its final reply and the copies that duplicates wait for, and no pour in the way of an unload: the final
reply of the close's DONE entry is written to the ring's next slot, then the copy of it for each duplicate that waits (R209), each with
its MSI-X vector; the channel's patterns are unloaded, it holds no ledger entry any more, and it is CLOSED with its quota and Tundish
reservation returned. -/
def Obligations.RepliesWritten : Prop :=
  (∀ (c : Fin 64) (s : State) (r : Reply) (rest : List Reply) (p : HostPort) (ch : ChanRec) (n : Nat),
    s.boot.phase = .ready → (s.vchan c.val).replyQ = r :: rest → ch = s.chan c.val → p = ch.owner →
    n = (s.vchan c.val).rtail.toNat →
    (s.replyReady c.val = true → s.ledgerKept →
      ∃ t, exec (.finalReply c) s = .next t
        ∧ (t.port p).out = (s.port p).out ++ s.ringWrites c.val (s.vchan c.val).rtail [r]
        ∧ (ch.msixEn = true → (s.port p).maySend c.val = false → (t.port p).pending.getLsbD c.val = true)
        ∧ (r.bytes (n / 2 ^ ch.ringLog % 2 = 0)).length = 64
        ∧ (t.vchan c.val).rtail = (s.vchan c.val).rtail + 1 ∧ (t.vchan c.val).replyQ = rest
        ∧ (t.chan c.val).replied = (if r.final then r.pour else ch.replied)
        ∧ ∀ d, d ≠ c.val → t.vchan d = s.vchan d ∧ t.chan d = s.chan d)
    ∧ (s.replyReady c.val = false → exec (.finalReply c) s = .next s))
  ∧ (∀ (c : Fin 64) (s : State) (p : HostPort) (r : Running) (e : Entry), s.teardownReady c.val = true → s.ledgerKept →
      p = (s.chan c.val).owner → s.runningOf c.val = some r → (s.entry r.entry).opcode = 0x02 →
      (∀ j ≤ (s.vchan c.val).dups.length, s.ringRoom c.val j = true) →
      e = { s.entry r.entry with
        state := .done, status := 0, detail := 0, epoch := s.epochOf c.val
        energy := BitVec.ofNat 64 (s.pourEnergy c.val), tsDone := s.cnt.regs.time } →
    ∃ t, exec (.closeTeardown c) s = .next t
      ∧ (t.port p).out = (s.port p).out ++ s.ringWrites c.val (s.vchan c.val).rtail
          (replyOf e :: ((s.vchan c.val).dups.filter fun d => d = e.pour).map fun _ => (replyOf e).duplicate)
      ∧ ((s.chan c.val).msixEn = true → (s.port p).maySend c.val = false → (t.port p).pending.getLsbD c.val = true)
      ∧ (t.chan c.val).state = .closed ∧ (t.chan c.val).quota = 0 ∧ (t.chan c.val).tundishRes = 0
      ∧ (∀ j, (t.entry j).chan.toNat = c.val → (t.entry j).state = .free) ∧ (∀ h q, t.pattern h = some q → q.chan ≠ c.val) ∧ t.runningOf c.val = none)


/-! ### Registers and the Assay -/

/-- Registers of the channels and of the Riser, written through a port that reaches the ready part, whose four payload bytes its port's
bandwidth unit counts and nothing else (R399). SPR_CHAN_RHEAD takes the owner's count, up to the reply count; any other write of it
changes only SPR_STRAY (R211, R215; that a write for a CLOSED channel counts there too is the model's choice, log entry 53).
RSR_CHAN_RESET by the owner starts the channel's running pour again, a RUN by ending its attempt for a replay with every cluster stopped,
and with ABANDON faults it with SLOT_COLLISION (0x0301), its writes that wait for the host dropped; a RUN that is not restartable faults
so either way (R258); a write that meets no such pour changes only SPR_STRAY (R249, R260). RSR_REINIT in the RISER_LOST state, with two
regions that pass, ends it with two equal fresh copies in service, every channel CLOSED, every entry FREE and no pattern loaded; with
another CODE it changes nothing but SPR_STRAY (R256, R260). -/
def Obligations.ChannelRegisters : Prop :=
  ∀ (p : HostPort) (c : Fin 64) (v : Word32) (s s1 : State), s.hostReach p = true → s.boot.phase = .ready → s1 = s.hostTlp p false 4 →
    s1 = { s with cnt := { s.cnt with regs := { s.cnt.regs with bw := s1.cnt.regs.bw } } }
    ∧ ((s.chan c.val).state ≠ .closed → (s.chan c.val).owner = p →
        (v - (s.vchan c.val).rhead).toNat ≤ ((s.vchan c.val).rtail - (s.vchan c.val).rhead).toNat →
      exec (.sprChanRhead p c v) s = .next (s1.updVchan c.val fun x => { x with rhead := v }))
    ∧ ((s.chan c.val).state = .closed ∨ (s.chan c.val).owner ≠ p
          ∨ ((s.vchan c.val).rtail - (s.vchan c.val).rhead).toNat < (v - (s.vchan c.val).rhead).toNat →
        exec (.sprChanRhead p c v) s = .next s1.addStray)
    ∧ (s.resettable p c.val = none →
        exec (.channelReset p c) s = .next s1.addStray ∧ exec (.channelResetAbandon p c) s = .next s1.addStray)
    ∧ (∀ r, s.resettable p c.val = some r → r.cls ≠ .run →
        exec (.channelReset p c) s = .next (s1.staleKept.setRunning c.val none)
          ∧ ∃ t, exec (.channelResetAbandon p c) s = .next t
            ∧ t = { s1.staleKept with running := t.running }
            ∧ t.runningOf c.val = some { r with out := [], planned := none, outcome := some (faultedWith 0x0301) }
            ∧ ∀ d, d ≠ c.val → t.runningOf d = s.runningOf d)
    ∧ (∀ r, s.resettable p c.val = some r → r.cls = .run → r.outcome.isSome = true → (s.entry r.entry).restartable = false →
        ∃ t, exec (.channelReset p c) s = .next t
          ∧ t.runningOf c.val = some { r with out := [], planned := none, outcome := some (faultedWith 0x0301) })
    ∧ (∀ r x, s.resettable p c.val = some r → r.cls = .run → r.outcome = none → s.run = some x → x.chan = c.val →
        x.votedUp = false → x.fault = none →
        (∃ t y, exec (.channelReset p c) s = .next t ∧ t.run = some y
          ∧ y.fault = some (0x0301, (s.entry x.entry).restartable) ∧ ∀ g, t.attemptRuns g = false)
        ∧ (∃ t y, exec (.channelResetAbandon p c) s = .next t ∧ t.run = some y ∧ y.fault = some (0x0301, false)
          ∧ ∀ g, t.attemptRuns g = false))
    ∧ (s.riser.lost = true → ∀ pass a b, reinitRegions pass = some (a, b) →
        ∃ t, exec (.rsrReinit p 0x52490001 pass) s = .next t ∧ t.riser.lost = false ∧ t.riser.copy0.state = .inService
          ∧ t.riser.copy1.state = .inService ∧ t.riser.copy0.data = t.riser.copy1.data ∧ t.patterns = []
          ∧ (∀ d, (t.chan d).state = .closed) ∧ (∀ i, (t.entry i).state = .free)
          ∧ t.ledger.rollback = s.assay.image.svn ∧ t.ledger.bootActive = s.assay.image.slot)
    ∧ (v.toNat / 2 ^ 16 ≠ 0x5249 → v.toNat / 2 % 2 ^ 15 = 0 → ∀ pass, exec (.rsrReinit p v pass) s = .next s1.addStray)

/-- Registers with commands of their own, written as they stand (R340, R349, R328, R395, R399, R402, R404): a cap of 500 to 1,500 W
waits for the next gate step and one outside changes only ERR_RSVD_WRITES; a 1 to TRIPPED clears it and the trip record; GO to
LGT_MON_CTRL clears VALID until the reading is in; GO to CNT_SNAP copies every counter register to the shadow; a window length of
at most 24 waits for its boundary; CNT_SAMPLE_CTRL clears its cluster's sample buffer and status. Any of them written by
REGISTER_WRITE at its offset is the same write. A write of another width than an aligned 32 or 64 bits, or of a reserved offset, has no
effect and increments ERR_RSVD_WRITES (R23); an aligned 64-bit write acts as the two 32-bit ones, the lower address in bits [31:0] and
first, each counting by itself (the model's choice, log entry 71). The payload's bytes count in the port's bandwidth unit (R399); which port
carries a command that names none is the model's choice (log entry 86). -/
def Obligations.RegisterEffects : Prop :=
  (∀ (p : HostPort) (s s1 : State) (v : Word32) (u : Fin 42) (g : Fin 128), s.hostReach p = true → s.boot.phase = .ready →
    s1 = s.anyWrite →
    (500 ≤ v.toNat → v.toNat ≤ 1500 →
      exec (.pwrCapWatts v) s = .next { s1 with power := { s.power with newCap := some (v.setWidth 11) } })
    ∧ ((v.toNat < 500 ∨ 1500 < v.toNat) → v.toNat < 2048 → exec (.pwrCapWatts v) s = .next s1.rsvdWrite)
    ∧ (s.ledgerKept → s.power.tripped = true →
      ∃ t, exec (.trippedClear 0x10) s = .next t ∧ t.power.tripped = false ∧ t.ledger.trip = none)
    ∧ (∃ t, exec (.monitorReading 0x80000000) s = .next t ∧ t.light.monBusy = true ∧ t.light.monValid = false
        ∧ t.err.rsvd = s.err.rsvd
        ∧ ∀ x, ∃ t', exec (.monitorReadingDone x) t = .next t' ∧ t'.light.monValid = true ∧ t'.light.monValue = x
          ∧ t'.light.monBusy = false)
    ∧ exec (.cntSnap p 1) s = .next { s.hostTlp p false 4 with cnt := { (s.hostTlp p false 4).cnt with shadow := (s.hostTlp p false 4).shownCounters } }
    ∧ (v.toNat ≤ 24 → ∃ t, exec (.cntBwCtrl u v) s = .next t
        ∧ (Tab.get BwUnit.init t.cnt.regs.bw u.val) = { Tab.get BwUnit.init s1.cnt.regs.bw u.val with newW := some (v.setWidth 5) }
        ∧ t.err = s.err ∧ t.cnt.regs.ctr = s.cnt.regs.ctr)
    ∧ (sampleCtrlBad v.toNat = false → v.toNat / 2 ^ 21 % 8 = 0 →
      ∃ t, exec (.cntSampleCtrl g v) s = .next t
        ∧ (∀ k < 256, Tab.get 0 t.cnt.slots (256 * g.val + k) = 0)
        ∧ (Tab.get Sampler.init t.cnt.regs.samp g.val).ctrl = v ∧ (Tab.get Sampler.init t.cnt.regs.samp g.val).count = 0
        ∧ (Tab.get Sampler.init t.cnt.regs.samp g.val).dropped = 0 ∧ (Tab.get Sampler.init t.cnt.regs.samp g.val).next = 0
        ∧ t.err = s.err)
    ∧ (∀ x ∈ [(0x300000, Instr.pwrCapWatts v, fun (s : State) => s.writeCap v), (0x300004, .trippedClear v, fun s => s.writeStatus v),
        (0x400020, .monitorReading v, fun s => s.writeMonitor v), (0x801000 + 0x40 * u.val, .cntBwCtrl u v, fun s => s.writeBw u.val v),
        (0x810100 + 0x200 * g.val, .cntSampleCtrl g v, fun s => s.writeSampling g.val v)],
      exec x.2.1 s = .next (x.2.2 s1)
        ∧ exec (.registerWrite p x.1 32 (v.setWidth 64)) s = .next (x.2.2 (s.hostTlp p false 4)))
    ∧ exec (.registerWrite p 0x800008 32 (v.setWidth 64)) s = exec (.cntSnap p v) s)
  ∧ (∀ (p : HostPort) (off width : Nat) (v : Word64) (s s1 : State), s.hostReach p = true → s.boot.phase = .ready →
    s1 = s.hostTlp p false (width / 8) →
    ((¬(width = 32 ∧ off % 4 = 0) ∧ ¬(width = 64 ∧ off % 8 = 0)) ∨ width = 32 ∧ off % 4 = 0 ∧ regMask off = none →
      exec (.registerWrite p off width v) s = .next { s1 with err := { s.err with rsvd := s.err.rsvd.add 1 } })
    ∧ (width = 32 → off % 4 = 0 → exec (.registerWrite p off width v) s = .next (s1.writeReg p off (v.setWidth 32)))
    ∧ (width = 64 → off % 8 = 0 →
      exec (.registerWrite p off width v) s
        = .next ((s1.writeReg p off (v.setWidth 32)).writeReg p (off + 4) ((v >>> 32).setWidth 32))))

/-- What stops the part through the Assay (R370 to R373): a known-answer test on demand that passes leaves everything but the service
indicator; one that fails, and any other failed self-test, enters ERROR with its cause; ASY_ZEROISE enters ZEROISED, and to decommission
burns the UDS and DECOMMISSIONED first. Each of these stops a ready part for good: no pour runs, nothing is bound or received, no reply
waits while the rings' counts stand, the lasers are off, and the bottom tree, the DRBG's state, the receipts, the sessions and the IDE
keys are gone. -/
def Obligations.AssayStopsPart : Prop :=
  ∀ (s : State) (cause : BitVec 8), s.boot.phase = .ready → s.assay.mode = .operational →
    (exec (.asySelftest 1 true) s = .next (s.anyWrite.service 8))
    ∧ (∀ x ∈ [(Instr.asySelftest 1 false, AssayMode.error, (2 : BitVec 8)), (Instr.zeroise 0x5A450001, AssayMode.zeroised, 7),
        (Instr.decommission 0x44430003, AssayMode.zeroised, 7)]
        ++ (if 1 ≤ cause.toNat ∧ cause.toNat ≤ 6 then [(Instr.assayError cause, AssayMode.error, cause)] else []),
      ∃ t, exec x.1 s = .next t ∧ t.assay.mode = x.2.1 ∧ t.assay.cause = x.2.2 ∧ t.boot.phase = .stopped ∧ t.boot.ready = false
        ∧ t.running = [] ∧ t.run = none ∧ t.intake.bound = [] ∧ t.intake.received = [] ∧ t.light.enabled = false
        ∧ (∀ c, (t.vchan c).replyQ = [] ∧ (t.vchan c).rhead = (s.vchan c).rhead ∧ (t.vchan c).rtail = (s.vchan c).rtail)
        ∧ t.assay.drbg = Drbg.init ∧ t.assay.bottom = none ∧ t.assay.receipts = []
        ∧ (∀ p, (t.port p).sessions = [] ∧ (t.port p).linkIde = .off ∧ (t.port p).selIde = .off)
        ∧ t.riser = s.riser ∧ t.patterns = s.patterns ∧ t.mem = s.mem)
    ∧ (∃ t, exec (.decommission 0x44430003) s = .next t ∧ t.assay.otp.uds = BitVec.allOnes 384
        ∧ t.assay.otp.decommissioned = true)
    ∧ (∃ t, exec (.zeroise 0x5A450001) s = .next t ∧ t.assay.otp = s.assay.otp)

/-! ### Completions, phases and clusters -/

/-- INSTRUCTION_COMPLETE (R77, R86, R97, R109, R297) of an instruction in flight with nothing left to do, in an attempt that no fault has
ended. Where its post tokens, and the NOTIFY tokens of a COLL, are distinct and clear, it leaves its engine, sets them, writes its summary,
and the tiles of a MATMUL and the bank of a load become visible; where the first of them is set, it stays set and the pour faults with
SLOT_COLLISION (0x0301). -/
def Obligations.InstructionCompletes : Prop :=
  ∀ (g : Fin 128) (eng : Engine) (idx : Nat) (s : State) (fl : Flight) (n : Option CollInstance) (posts : List (Nat × Nat)),
    (s.cl g.val).flight idx = some fl → fl.eng = eng → s.attemptRuns g.val = true →
    n = (s.run.bind fun r => r.colls.find? fun n => n.g = g.val && n.idx = idx) → s.flightDone fl n = true → s.faultFree = true →
    posts = fl.entry.posts.map (fun t => (g.val, t))
      ++ (n.bind fun n => s.runPattern.map fun p => notifyTokens (collRecord p n.collId)).getD [] →
    (posts.Nodup → (∀ x ∈ posts, x.2 < 256 ∧ (s.cl x.1).token x.2 = false) →
      ∃ t, exec (.instructionComplete g eng idx) s = .next t ∧ (t.cl g.val).flight idx = none
        ∧ (∀ x ∈ posts, (t.cl x.1).token x.2 = true)
        ∧ (∀ k, fl.entry.slot = some k → n = none → (t.cl g.val).slot k = ⟨true, fl.summary⟩)
        ∧ (∀ p sat, fl.tiles = some (p, sat) → (t.cl g.val).crucible = ((s.cl g.val).crucible.apply (.priv g.val) p).1
            ∧ (t.cl g.val).satFlags = (s.cl g.val).satFlags ||| sat)
        ∧ (fl.tiles = none → (t.cl g.val).crucible = (s.cl g.val).crucible ∧ (t.cl g.val).satFlags = (s.cl g.val).satFlags)
        ∧ (∀ b, fl.bank = some (true, b) → (t.cl g.val).bank1 = b) ∧ (∀ b, fl.bank = some (false, b) → (t.cl g.val).bank0 = b)
        ∧ (∀ j, j ≠ idx → (t.cl g.val).flight j = (s.cl g.val).flight j)
        ∧ (∀ e, (t.cl g.val).queue e = (s.cl g.val).queue e) ∧ (t.cl g.val).regs = (s.cl g.val).regs ∧ t.mem = s.mem)
    ∧ (∀ x rest, posts = x :: rest → (s.cl x.1).token x.2 = true →
      ∃ t, exec (.instructionComplete g eng idx) s = .next t ∧ (t.cl x.1).token x.2 = true
        ∧ t.faultsBy g.val eng.toNat 0x0301 (BitVec.ofNat 19 fl.entry.pc) ∧ t.mem = s.mem)

/-- GUARD_LATCH latches the guard of every armed item whose token is set, and changes no token (R159). FILLER_STEP_ISSUE issues the
next step of the oldest open item into its engine, on conditions of R160 that hold, and, once it is in flight, marks the item as running;
where the entry that the step makes finds a fault, the pour takes that fault (R92). -/
def Obligations.FillerActs : Prop :=
  ∀ (g : Fin 128) (s : State), s.attemptRuns g.val = true →
    (∃ t, exec (.guardLatch g) s = .next t ∧ s.onlyCluster t g.val (t.cl g.val) ∧ t.cnt = s.cnt
      ∧ t.cl g.val = { s.cl g.val with lending := { (s.cl g.val).lending with
          items := (s.cl g.val).lending.items.map fun i =>
            if (i.guard.map (s.cl g.val).token).getD false then { i with latched := true } else i } })
    ∧ (∀ (p : Pattern) (i : ArmedItem) (rest : List ArmedItem) (e : Engine) (q : QEntry) (s1 s2 : State),
      s.runPattern = some p → (s.cl g.val).lending.open_ = i :: rest → i.running = false → s.stepReady g.val i = true →
      e = stepEngine i.drMap.toNat i.next →
      makeEntry p g.val e true i.pc (i.first + 64 * i.next) (fun _ => i.seeds.getD i.next 0) s = (s1, .ok q) →
      s2 = startOp (opOf e q.record.toNat) (s1.engCtx p g.val { q with cycle := i.cycle } true) e id s1 →
      (s2.cl g.val).issues ≠ (s1.cl g.val).issues →
      ∃ t, exec (.fillerStepIssue g) s = .next t ∧ (t.cl g.val).flights = (s2.cl g.val).flights
        ∧ (t.cl g.val).lending.items = markRunning (s2.cl g.val).lending.items
        ∧ Tab.get Ctr48.zero t.cnt.regs.ctr (ctrCluster g.val 15)
            = (Tab.get Ctr48.zero s2.cnt.regs.ctr (ctrCluster g.val 15)).add 1)
    ∧ (∀ (p : Pattern) (i : ArmedItem) (rest : List ArmedItem) (e : Engine) (st : BitVec 16) (s1 : State),
      s.runPattern = some p → (s.cl g.val).lending.open_ = i :: rest → i.running = false → s.stepReady g.val i = true →
      e = stepEngine i.drMap.toNat i.next →
      makeEntry p g.val e true i.pc (i.first + 64 * i.next) (fun _ => i.seeds.getD i.next 0) s = (s1, .error st) →
      exec (.fillerStepIssue g) s = .next (s1.faultPour g.val e.toNat st (BitVec.ofNat 18 i.pc) 0))

/-- HBM_PHASE_ACCESS (R89, R91, R290), for a copy between places of this chip that every access of it needs a phase or slot for (a copy
with accesses that need none, or with a board peer, is left out here, and so is one whose Ladle holds an error: R376). Elements are read
one codeword after the other and written in groups of whole codewords of the destination, a group being read before any of it is written:
the model's reading of R91 (log entry 50). The next access is that to the first codeword, of the element read next or of the group to be
written, that has not started. In a phase or slot its owner owns, with no floor-link direction stopped in the way, it starts; the last one
of an element reads the elements of those codewords, and the last one of a group writes it, which ends the copy once every element is
written. In another phase or slot nothing is read or written. For a stream engine: the access of the first collective, in the order of their
issue, that waits for the phase starts and that collective goes on; a command whose unit has none that waits finds no occasion, and nothing
changes (the model's choice, log entry 3). -/
def Obligations.PhaseAccess : Prop :=
  (∀ (g : Fin 128) (eng : MoveEngine) (idx phase : Nat) (s : State) (p : Pattern) (fl : Flight) (cs : CopyState) (x : CopyCtx)
    (rd wr : List Nat),
    s.runPattern = some p → (s.cl g.val).flight idx = some fl → fl.eng = eng.toEngine → fl.copy = some cs →
    s.attemptRuns g.val = true → x = copyCtxOf p g.val fl.eng (s.engCtx p g.val fl.entry fl.deferred) →
    cs.done = false → cs.whole = false → cs.miss = none → cs.ladle = [] → x.plan.srcPeer = none → x.plan.dstPeer = none →
    (∀ j, ∀ k ∈ elemCws x.plan.w (x.plan.src.getD j 0) ++ elemCws x.plan.w (x.plan.dst.getD j 0), accessFree x.die (32 * k) = false) →
    rd = elemCws x.plan.w (x.plan.src.getD (readAt cs) 0) →
    wr = codewordsOf x.plan.w ((List.range cs.got.length).map fun k => x.plan.dst.getD (cs.next + k) 0) →
    (∀ c, readWant x.plan cs ≠ 0 → rd.find? (fun k => !cs.started.contains k) = some c →
      (accessIn x.pat x.q x.die false (32 * c) phase = true → s.floorRuns x.die false (32 * c) = true →
        ∃ t cs', exec (.hbmPhaseAccess g (.move eng) idx phase) s = .next t ∧ ((t.cl g.val).flight idx).bind (·.copy) = some cs'
          ∧ (if rd.all (fun k => k = c || cs.started.contains k) then
              cs'.got = cs.got ++ (carryRun x.plan (readRun x.plan (readAt cs) (readWant x.plan cs)) s).2 ∧ cs'.next = cs.next
                ∧ cs'.started = [] ∧ t.mem = (carryRun x.plan (readRun x.plan (readAt cs) (readWant x.plan cs)) s).1.mem
            else cs' = { cs with started := c :: cs.started } ∧ t.mem = s.mem))
      ∧ (accessIn x.pat x.q x.die false (32 * c) phase = false →
        ∃ t, exec (.hbmPhaseAccess g (.move eng) idx phase) s = .next t ∧ (t.cl g.val).flight idx = some fl ∧ t.mem = s.mem))
    ∧ (∀ c, readWant x.plan cs = 0 → wr.find? (fun k => !cs.started.contains k) = some c →
      (accessIn x.pat x.q x.die true (32 * c) phase = true → s.floorRuns x.die true (32 * c) = true →
        ∃ t cs', exec (.hbmPhaseAccess g (.move eng) idx phase) s = .next t ∧ ((t.cl g.val).flight idx).bind (·.copy) = some cs'
          ∧ (if wr.all (fun k => k = c || cs.started.contains k) then
              cs'.next = cs.next + cs.got.length ∧ cs'.got = [] ∧ (cs'.done = true ↔ x.plan.total ≤ cs.next + cs.got.length)
                ∧ t.mem = (carryElems x.plan.w (((List.range cs.got.length).map fun k => x.plan.dst.getD (cs.next + k) 0).zip cs.got)
                    (s.markWritten x.pat (x.plan.dst.getD cs.next 0 / 8))).mem
            else cs' = { cs with started := c :: cs.started } ∧ t.mem = s.mem))
      ∧ (accessIn x.pat x.q x.die true (32 * c) phase = false →
        ∃ t, exec (.hbmPhaseAccess g (.move eng) idx phase) s = .next t ∧ (t.cl g.val).flight idx = some fl ∧ t.mem = s.mem)))
  ∧ (∀ (e : Fin 128) (idx phase : Nat) (s : State) (r : RunCtx), s.run = some r → r.fault = none →
    (∀ n rest c n' write cw, r.colls = n :: rest → s.collCtxOf n = some c → c.startAccess e.val phase n s = some (n', write, cw) →
      exec (.hbmPhaseAccess e .stream idx phase) s
          = .next (c.advance n' (s.floorCarry (s.engineDie c.x.pat e.val) write (32 * cw)))
        ∧ n'.started.drop 1 = n.started ∧ accessIn c.x.pat (.stream e.val) (s.engineDie c.x.pat e.val) write (32 * cw) phase = true
        ∧ s.floorRuns (s.engineDie c.x.pat e.val) write (32 * cw) = true)
    ∧ (∀ pre n post c n' write cw, r.colls = pre ++ n :: post →
      (∀ m ∈ pre, ∀ cm, s.collCtxOf m = some cm → cm.startAccess e.val phase m s = none) → s.collCtxOf n = some c →
      c.startAccess e.val phase n s = some (n', write, cw) →
      exec (.hbmPhaseAccess e .stream idx phase) s
        = .next (c.advance n' (s.floorCarry (s.engineDie c.x.pat e.val) write (32 * cw))))
    ∧ ((∀ n ∈ r.colls, ∀ c, s.collCtxOf n = some c → c.startAccess e.val phase n s = none) →
      exec (.hbmPhaseAccess e .stream idx phase) s = .next s))

/-- Faults of clusters (R10 to R12), with no earlier one being handled on the die. A fault of a mapped position retires it and logs
UNCORRECTABLE_DATA, or its own status where it ends a running pour, whose attempt is then to be replayed if it is restartable and within
its limit (R248). Where its die has a free spare, and no pour runs there any longer, BIST starts on the lowest; with no spare left the
logical cluster is unmapped and SHORT is set. SPARE_BIST_DONE for the spare under BIST: a pass maps the lowest cluster that waits on the
die to the spare; a pass with none waiting frees the spare again; a fail retires the spare, and the cluster that waits for it is tried
with the next one. -/
def Obligations.ClusterFaults : Prop :=
  (∀ (die : Fin 2) (pos : Fin 66) (fault : DataFault) (s : State) (g : Nat) (d : Bool), s.boot.phase = .ready → s.ledgerKept →
    d = decide (die.val = 1) → s.clusterAt d pos.val = some g → s.ident.bist d = none → s.ident.waiting = [] →
    (s.run = none →
      (∀ sp rest, s.ident.spares d = sp :: rest → sp ≠ pos.val → pos.val ∉ rest →
        ∃ t, exec (.clusterFault die pos fault) s = .next t ∧ t.isRetired d pos.val = true ∧ t.ident.bist d = some sp
          ∧ t.ident.spares d = rest ∧ t.ident.clmap = s.ident.clmap
          ∧ t.err.seq = s.err.seq + 1 ∧ (Tab.get 0 t.err.log (s.err.seq.toNat % 256)).toNat % 2 ^ 16 = 0x0302)
      ∧ (s.ident.spares d = [] →
        ∃ t, exec (.clusterFault die pos fault) s = .next t ∧ t.isRetired d pos.val = true ∧ t.mapped g = false
          ∧ (if d then t.ident.short1 else t.ident.short0) = true ∧ t.ident.bist d = none))
    ∧ (∀ x sp rest, s.run = some x → s.attemptUses g = true → s.ident.spares d = sp :: rest → sp ≠ pos.val → pos.val ∉ rest →
      ∃ t y, exec (.clusterFault die pos fault) s = .next t ∧ t.run = some y
        ∧ y.fault = some (fault.status, (s.entry x.entry).restartable && decide ((s.entry x.entry).charged < 3))
        ∧ (t.entry x.entry).charged = min 4 ((s.entry x.entry).charged + 1) ∧ t.isRetired d pos.val = true
        ∧ t.ident.bist d = some sp ∧ (t.cl g).fault.valid = true ∧ (t.cl g).fault.status = fault.status))
  ∧ (∀ (die : Fin 2) (pos : Fin 66) (s : State) (d : Bool), d = decide (die.val = 1) → s.ident.bist d = some pos.val → s.ledgerKept →
    (∀ w ∈ s.ident.waiting, w.retired = true → onB1 w.g = d →
      (∀ v ∈ s.ident.waiting, v.retired = true → onB1 v.g = d → v = w ∨ w.g < v.g) →
      ∃ t, exec (.spareBistDone die pos true) s = .next t ∧ Tab.get none t.ident.clmap w.g = some pos.val
        ∧ (s.ident.waiting = [w] → (∀ h, h ≠ w.g → Tab.get none t.ident.clmap h = Tab.get none s.ident.clmap h)
            ∧ t.ident.bist d = none ∧ t.ident.waiting = [] ∧ t.riser = s.riser))
    ∧ (s.ident.waiting = [] →
      (∃ t, exec (.spareBistDone die pos true) s = .next t ∧ pos.val ∈ t.ident.spares d ∧ t.ident.bist d = none
        ∧ t.ident.clmap = s.ident.clmap ∧ t.riser = s.riser)
      ∧ (∃ t, exec (.spareBistDone die pos false) s = .next t ∧ t.isRetired d pos.val = true ∧ t.ident.bist d = none
        ∧ t.ident.clmap = s.ident.clmap))
    ∧ (∀ w sp rest, s.ident.waiting = [w] → w.retired = true → onB1 w.g = d → Tab.get none s.ident.clmap w.g = some w.pos →
      s.ident.spares d = sp :: rest → sp ≠ pos.val → pos.val ∉ rest →
      ∃ t, exec (.spareBistDone die pos false) s = .next t ∧ t.isRetired d pos.val = true ∧ t.ident.bist d = some sp
        ∧ t.ident.spares d = rest))

/-! ### Runner ports -/

/-- A whole frame on a port in service whose lanes hold (R266, R267, R305), by IDLE_FRAME: the frame awaited, of the chip's own flask,
moves the expected SEQ on by one, ends a NAK, counts in RX_FRAMES, frees the replay buffer up to its ACK_SEQ, and its PACE is noted; one
with another SEQ is discarded and counted; one of another flask is dropped, counted in RUN_FOREIGN, and still acknowledged by SEQ. A new
NAK has every frame that it does not acknowledge sent again in order with its own SEQ and a fresh header, an idle frame that found the
replay buffer full as an idle frame, and the eighth in a row of one frame takes the port down (when a NAK is new, and the idle frames sent
again, are the model's choices, log entry 79). On a port that is not admitted a frame counts in RUN_FOREIGN, and on a dark port nothing
happens (the last is log entry 3). DAMAGED_FRAME, its lanes holding too: the frame awaited, damaged, is NAKed and still awaited, and the
eighth NAK in a row takes the port down (the model's reading of R279, log entry 24); any other damaged frame is counted and its lanes are
checked (log entry 79), and the port stays as it is. On a port that is not admitted a damaged frame counts in RUN_FOREIGN, unless it is a
training frame. Counters are those of the logical port that the port serves (R272). -/
def Obligations.FramesArrive : Prop :=
  (∀ (p : Fin 32) (f : Frame) (s : State) (o : Port), o = s.rport p.val → f.type = 0 →
    (o.state.inService = true → s.lanesHold p.val f → f.nak = false → o.txQ = [] →
      (f.flaskId = s.flaskId → f.seq = o.rxSeq →
        ∃ t, exec (.idleFrame p f) s = .next t ∧ (t.rport p.val).rxSeq = o.rxSeq + 1 ∧ (t.rport p.val).nakOut = false
          ∧ (t.rport p.val).replay = o.replay.dropWhile (ackCovers f.ackSeq) ∧ (t.rport p.val).nextAck = o.ackedUpTo f.ackSeq
          ∧ (t.rport p.val).pace = min o.pace f.pace.toNat
          ∧ Tab.get Ctr48.zero t.cnt.regs.ctr (ctrRunner (s.unitOf p.val) 1)
              = (Tab.get Ctr48.zero s.cnt.regs.ctr (ctrRunner (s.unitOf p.val) 1)).add 1
          ∧ t.runner.foreign = s.runner.foreign ∧ t.mem = s.mem ∧ t.run = s.run)
      ∧ (f.flaskId = s.flaskId → f.seq ≠ o.rxSeq →
        ∃ t, exec (.idleFrame p f) s = .next t ∧ (t.rport p.val).rxSeq = o.rxSeq ∧ (t.rport p.val).nakOut = o.nakOut
          ∧ Tab.get Ctr48.zero t.cnt.regs.ctr (ctrRunner (s.unitOf p.val) 5)
              = (Tab.get Ctr48.zero s.cnt.regs.ctr (ctrRunner (s.unitOf p.val) 5)).add 1
          ∧ t.mem = s.mem ∧ t.run = s.run)
      ∧ (f.flaskId ≠ s.flaskId → f.seq = o.rxSeq →
        ∃ t, exec (.idleFrame p f) s = .next t ∧ (t.rport p.val).rxSeq = o.rxSeq + 1
          ∧ t.runner.foreign = s.runner.foreign.add 1 ∧ t.mem = s.mem ∧ t.run = s.run))
    ∧ (o.state.inService = true → s.lanesHold p.val f → f.nak = true → f.flaskId = s.flaskId →
        o.newNak f.ackSeq s.cnt.regs.time = true →
      (o.heardNaks = 7 → o.heardFor = f.ackSeq →
        ∃ t, exec (.idleFrame p f) s = .next t ∧ (t.rport p.val).state = .down ∧ (t.rport p.val).code = 0x0304)
      ∧ (o.heardNaks < 7 ∨ o.heardFor ≠ f.ackSeq →
        ∃ t rest, exec (.idleFrame p f) s = .next t ∧ (t.rport p.val).state = o.state
          ∧ (t.rport p.val).heardNaks = (if o.heardNaks ≠ 0 ∧ o.heardFor = f.ackSeq then o.heardNaks + 1 else 1)
          ∧ (t.rport p.val).sent = o.sent ++ (List.range (o.txSeq - o.ackedUpTo f.ackSeq).toNat).map (fun k =>
              ⟨(s.lport p.val).txLanes,
                { s.stamp p.val ({ o with replay := o.replay.dropWhile (ackCovers f.ackSeq) }.resent
                    (o.ackedUpTo f.ackSeq + BitVec.ofNat 48 k)) with seq := o.ackedUpTo f.ackSeq + BitVec.ofNat 48 k }⟩) ++ rest))
    ∧ (o.state.inService = false → o.state.isDark = false →
      exec (.idleFrame p f) s = .next { s with runner := { s.runner with foreign := s.runner.foreign.add 1 } })
    ∧ (o.state.isDark = true → exec (.idleFrame p f) s = .next s))
  ∧ (∀ (p : Fin 32) (f : Frame) (s : State) (o : Port), o = s.rport p.val → o.state.inService = false →
    exec (.damagedFrame p f) s = .next (if o.state.isDark || f.type = 6 then s
      else { s with runner := { s.runner with foreign := s.runner.foreign.add 1 } }))
  ∧ (∀ (p : Fin 32) (f : Frame) (s : State) (o : Port), o = s.rport p.val → o.state.inService = true →
    s.lanesHold p.val f →
    (f.seq = o.rxSeq → o.nakCount < 7 →
      ∃ t, exec (.damagedFrame p f) s = .next t ∧ (t.rport p.val).rxSeq = o.rxSeq ∧ (t.rport p.val).nakOut = true
        ∧ (t.rport p.val).nakCount = o.nakCount + 1 ∧ (t.rport p.val).state = o.state ∧ t.mem = s.mem)
    ∧ (f.seq = o.rxSeq → 7 ≤ o.nakCount →
      ∃ t, exec (.damagedFrame p f) s = .next t ∧ (t.rport p.val).state = .down ∧ (t.rport p.val).code = 0x0304)
    ∧ (f.seq ≠ o.rxSeq →
      ∃ t, exec (.damagedFrame p f) s = .next t ∧ t.runner = s.runner ∧ t.mem = s.mem ∧ t.run = s.run
        ∧ Tab.get Ctr48.zero t.cnt.regs.ctr (ctrRunner (s.unitOf p.val) 5)
            = (Tab.get Ctr48.zero s.cnt.regs.ctr (ctrRunner (s.unitOf p.val) 5)).add 1))

/-- What a delivered frame for this rank does (R295, R298, R302): STREAM_DATA of a tag that names no stream of the running attempt is
discarded as stale and counted, and of another goes to its stream; a START that names an instance not reached yet is held; a VOTE_UP is
held until this rank's attempt has come to its end, one with another RUN_SEQ faults the RUN at once with RUNNER_TOPOLOGY_MISMATCH
(0x0205), and one of a RUN that is over changes nothing (the model's choice, log entry 77); a VOTE_DOWN of this RUN_SEQ is the verdict,
and one of another faults the RUN with RUNNER_TOPOLOGY_MISMATCH (0x0205). -/
def Obligations.ControlFrames : Prop :=
  ∀ (p : Fin 32) (f : Frame) (s s1 : State), s.takesFrame s1 p.val f → frameDest f = s1.rank →
    (f.type = 1 → s1.streamOf (frameTag f) = none →
        exec (.streamData p f) s = .next (s1.count (ctrRunner (s1.unitOf p.val) 7) 1))
    ∧ (∀ x c k t, f.type = 1 → s1.streamOf (frameTag f) = some (x, k) → s1.collCtxOf x = some c → c.recvSpecs[k]? = some t →
      exec (.streamData p f) s = .next (takeStreamFrame p.val (s1.rport p.val).standsFor.toNat f s1))
    ∧ (f.type = 5 → frameKind f = 1 → s1.startFor (parseStart f) = none →
      exec (.start p f) s = .next { s1 with runner := { s1.runner with held := s1.runner.held ++ [parseStart f] } })
    ∧ (f.type = 5 → frameKind f = 2 → s1.run = none → s1.staleVote (parseVote f).2.1 = false →
      exec (.voteUp p f) s = .next { s1 with runner := { s1.runner with votes := s1.runner.votes ++ [(true, parseVote f)] } })
    ∧ (f.type = 5 → frameKind f = 2 → s1.staleVote (parseVote f).2.1 = true → exec (.voteUp p f) s = .next s1)
    ∧ (∀ r q, f.type = 5 → frameKind f = 2 → s1.run = some r → s1.runPattern = some q → 1 < q.ranks → r.verdict = none →
      r.fault = none → (parseVote f).2.1 ≠ r.runSeq →
      ∃ t x, exec (.voteUp p f) s = .next t ∧ t.run = some x ∧ x.fault = some (0x0205, false) ∧ ∀ g, t.attemptRuns g = false)
    ∧ (∀ r q, f.type = 5 → frameKind f = 3 → s1.run = some r → s1.runPattern = some q → 1 < q.ranks → r.verdict = none →
      ∃ t, exec (.voteDown p f) s = .next t
        ∧ t.run = some { r with
            verdict := some (if (parseVote f).2.1 = r.runSeq then (parseVote f).2.2 else ⟨0, s1.rank, 0x0205⟩), votedUp := true })

/-- Board accesses (R276): a delivered request or write waits behind those before it. Once a RUN of the flask runs, the first of
them is served in a phase that the port's stream engine owns, a write by writing its codewords, and leaves the queue; one that
the buffer table or the slot table refuses is answered with its code and leaves memory as it is. A delivered response with a code
faults the requester's pour with that code; one with data goes to the copy that awaits it. Service in the order of arrival, COUNT of a
request as the codewords asked for, and a response's code in bits [15:0] of one payload codeword, bit 45 of ARG telling it from data, are
the model's choices (log entry 28). -/
def Obligations.BoardFrames : Prop :=
  ∀ (p : Fin 32) (s : State) (phase : Nat),
    (∀ f s1, s.takesFrame s1 p.val f → s1.run = none →
      (f.type = 2 → exec (.boardReadRequest p (some f) phase) s = .next (s1.queueBoard p.val f false))
        ∧ (f.type = 3 → exec (.boardWrite p (some f) phase) s = .next (s1.queueBoard p.val f true)))
    ∧ (∀ b rest q e a, (s.rport p.val).boards = b :: rest → s.runPattern = some q → s.mayRelay = true →
      a = translateAddr q ((s.run.map fun r => s.currentMap r.handle).getD 0) b.write b.addr → s.boardCode q p.val b a = none →
      s.boardEngine q p.val = some e → accessIn q (.stream e) (p.val % 2) b.write a phase = true →
      s.floorRuns (p.val % 2) b.write a = true →
      (b.write = true → ∃ t, exec (.boardWrite p none phase) s = .next t ∧ (t.rport p.val).boards = rest
        ∧ t.mem = (carryWrite (s.markWritten q a) a b.data (b.poison.map (· - 1)) 0 b.length).mem)
      ∧ (b.write = false → (s.rport p.val).txQ = [] → (s.rport p.val).replay.length < 512 →
        ∃ t x more, exec (.boardReadRequest p none phase) s = .next t ∧ (t.rport p.val).boards = rest
          ∧ (t.rport p.val).sent = (s.rport p.val).sent ++ ⟨(s.lport p.val).txLanes, x⟩ :: more ∧ x.type = 4 ∧ x.count = b.length
          ∧ x.payload = (s.mem.readRange .chip a (32 * b.length)).data ∧ x.arg = boardArg b.tag b.addr))
    ∧ (∀ b rest q st a, (s.rport p.val).boards = b :: rest → s.runPattern = some q → s.mayRelay = true →
      a = translateAddr q ((s.run.map fun r => s.currentMap r.handle).getD 0) b.write b.addr → s.boardCode q p.val b a = some st →
      (s.rport p.val).txQ = [] → (s.rport p.val).replay.length < 512 →
      ∀ c ∈ [(Instr.boardReadRequest p none phase, false), (Instr.boardWrite p none phase, true)], b.write = c.2 →
      ∃ t x more, exec c.1 s = .next t ∧ (t.rport p.val).boards = rest
        ∧ (t.rport p.val).sent = (s.rport p.val).sent ++ ⟨(s.lport p.val).txLanes, x⟩ :: more
        ∧ x.type = 4 ∧ x.count = 1 ∧ x.payload = leBytes 32 st.toNat ∧ x.arg = boardArg b.tag b.addr ||| (1#64 <<< 45) ∧ t.mem = s.mem)
    ∧ (∀ f s1 r g fl, s.takesFrame s1 p.val f → f.type = 4 → s1.run = some r → r.fault = none →
      (frameXfer f).toNat / 2 ^ 15 = r.attempt → s1.askedBy (frameXfer f) = some (g, fl) →
      (f.arg.getLsbD 45 = false → exec (.boardReadResponse p f) s = .next (s1.takeResponse g fl f))
        ∧ (f.arg.getLsbD 45 = true → ∃ t x, exec (.boardReadResponse p f) s = .next t ∧ t.run = some x
          ∧ x.fault = some (BitVec.ofNat 16 (fieldOf (leNat (f.payload.take 32)) 0 16), false)))

/-- Training (R269, R271, R320, R321): the stages in their order. Stage 1 ends once the write that enables the output is confirmed, with
every ring in lock, and fails with the source absent. In stage 2 the lanes that the chip receives are those whose margin, the smaller of
its two sides, is at least 1.5 dB with every threshold placed, those that it sends are as the peer found them, and fewer than 14 in a
direction fail with LINK_MARGIN_LOW (0x0401). Stage 4 begins with the port's own identity record. Admission with both verdicts 1 starts
SEQ at 0 in both directions. A failed stage leaves the port FAILED with the stage's status: Table 14-3 gives LINK_MARGIN_LOW; PEER_LOST
(0x0304) for a stage after 2, and the rounding of the attenuations, are the model's choices (log entries 30, 79), and so are the ends of
stages that nothing allows, which leave all as it is (log entry 3). -/
def Obligations.TrainingStages : Prop :=
  ∀ (p : Fin 32) (s : State) (o : Port), o = s.rport p.val →
    (s.atStage p.val 1 → s.light.srcPresent.getLsbD (p.val / 8) = true →
      (s.light.enabling.getLsbD p.val = false → p.val < s.light.ports.length →
        ∃ t, exec (.trainingStageDone p 1 .ok) s = .next t ∧ (t.rport p.val).stage = 2 ∧ (t.rport p.val).state = .training
          ∧ (t.lport p.val).txLocked = 0xFFFF ∧ (t.lport p.val).rxLocked = 0xFFFF ∧ (t.lport p.val).calib = (s.lport p.val).heater)
      ∧ (s.light.enabling.getLsbD p.val = true → exec (.trainingStageDone p 1 .ok) s = .next s))
    ∧ (s.atStage p.val 1 → s.light.srcPresent.getLsbD (p.val / 8) = false →
      ∃ t, exec (.trainingStageDone p 1 .ok) s = .next t ∧ (t.rport p.val).state = .failed ∧ (t.rport p.val).code = 0x0401)
    ∧ (∀ tx rx, s.atStage p.val 2 → rx.length = 16 →
      (14 ≤ (lanesOf tx).length → 14 ≤ (rx.filter lanePasses).length → p.val < s.light.ports.length →
        ∃ t, exec (.trainingStageDone p 2 (.margins tx rx)) s = .next t ∧ (t.rport p.val).stage = 3
          ∧ (t.lport p.val).txLanes = tx
          ∧ (∀ i, (t.lport p.val).rxLanes.getLsbD i = true ↔ ∃ c, rx[i]? = some c ∧ c.eyes.all Option.isSome = true
              ∧ 150 ≤ min (attenuation c.p0 c.low.2) (attenuation c.p0 c.high.2))
          ∧ (t.lport p.val).worst = worstMargin rx)
      ∧ (((lanesOf tx).length < 14 ∨ (rx.filter lanePasses).length < 14) →
        ∃ t, exec (.trainingStageDone p 2 (.margins tx rx)) s = .next t ∧ (t.rport p.val).state = .failed
          ∧ (t.rport p.val).code = 0x0401))
    ∧ (s.atStage p.val 3 →
      ∃ t x, exec (.trainingStageDone p 3 .ok) s = .next t ∧ (t.rport p.val).stage = 4 ∧ (t.rport p.val).state = .training
        ∧ (t.rport p.val).sent = o.sent ++ [⟨(s.lport p.val).txLanes, x⟩] ∧ x.type = 6 ∧ x.payload = idBytes (s.ownRecord p.val 0))
    ∧ (∀ n ∈ [4, 5], s.atStage p.val n → o.sentVerdict = 1 →
      ∃ t, exec (.trainingStageDone p n .ok) s = .next t ∧ (t.rport p.val) = { o with stage := n + 1 })
    ∧ (s.atStage p.val 6 → o.sentVerdict = 1 → o.gotVerdict = 1 →
      ∃ t, exec (.trainingStageDone p 6 .ok) s = .next t ∧ (t.rport p.val).txSeq = 0 ∧ (t.rport p.val).rxSeq = 0
        ∧ (t.rport p.val).state = (if (s.lport p.val).lanes = 0xFFFF then .admitted else .degraded)
        ∧ (t.rport p.val).standsFor = o.standsFor)
    ∧ (∀ n, s.atStage p.val n →
      ∃ t, exec (.trainingStageDone p n .failed) s = .next t ∧ (t.rport p.val).state = .failed
        ∧ (t.rport p.val).code = (if n ≤ 2 then 0x0401 else 0x0304))

/-- IDENTITY_RECORD in stages 4 to 6 (R271, R272): a record is noted; one that passes every check of Table 14-5 has the port send
VERDICT 1, for the logical port that the peer's STANDS_FOR gives; one that fails a check leaves the port FAILED with the first
failing check's status, and a received VERDICT 2 with the peer's. -/
def Obligations.IdentityChecks : Prop :=
  ∀ (p : Fin 32) (r : IdRecord) (s : State) (o : Port), o = s.rport p.val → o.state = .training → 4 ≤ o.stage →
    (∀ lp, r.verdict ≠ 2 → o.sentVerdict ≠ 1 → s.checkIdentity p.val o.standsFor.toNat r = .ok lp →
      ∃ t, exec (.identityRecord p r) s = .next t ∧ (t.rport p.val).found = r ∧ (t.rport p.val).sentVerdict = 1
        ∧ (t.rport p.val).standsFor = BitVec.ofNat 5 lp ∧ (t.rport p.val).state = .training)
    ∧ (∀ st, r.verdict ≠ 2 → o.sentVerdict ≠ 1 → s.checkIdentity p.val o.standsFor.toNat r = .error st →
      ∃ t, exec (.identityRecord p r) s = .next t ∧ (t.rport p.val).found = r ∧ (t.rport p.val).state = .failed
        ∧ (t.rport p.val).code = st)
    ∧ (r.verdict = 2 →
      ∃ t, exec (.identityRecord p r) s = .next t ∧ (t.rport p.val).found = r ∧ (t.rport p.val).state = .failed
        ∧ (t.rport p.val).code = r.verdictStatus)
    ∧ (o.sentVerdict = 1 → r.verdict = 1 →
      ∃ t, exec (.identityRecord p r) s = .next t ∧ (t.rport p.val).gotVerdict = 1 ∧ (t.rport p.val).state = .training)

/-- The loss of ports (R231, R279 to R281): PORT_SILENCE_TIMEOUT takes a port in service down with PEER_LOST (0x0304), logged; a free
spare, by the parity of the port, then trains for its logical port, and the running attempt ends for a replay while its limit
lasts; with no spare the RUN ends faulted with PEER_LOST. SPARE_TIMEOUT frees the spare, darkens it, and faults the RUN; where a warm boot
has begun the training of its logical port, no RUN ends by it (R413).
JOIN_PORT_TIMEOUT counts a port still in training as failed with PEER_LOST for the join. A silence of a port out of service does nothing
(the model's choice, log entry 3). -/
def Obligations.PortsLost : Prop :=
  ∀ (p : Fin 32) (s : State) (o : Port), o = s.rport p.val →
    (o.state.inService = true →
      ∃ t, exec (.portSilenceTimeout p) s = .next t ∧ (t.rport p.val).state = .down ∧ (t.rport p.val).code = 0x0304)
    ∧ (∀ q x, o.state.inService = true → p.val < 30 → s.freeSpare p.val = some q → q < s.runner.ports.length → s.run = some x →
        x.fault = none → s.ledgerKept →
      ∃ t y, exec (.portSilenceTimeout p) s = .next t ∧ (t.rport q).state = .training ∧ (t.rport q).standsFor = o.standsFor
        ∧ (t.rport q).stage = 1 ∧ t.runner.spares.getLsbD (q - 30) = false ∧ t.err.seq = s.err.seq + 1 ∧ t.run = some y
        ∧ y.fault = some (0x0304, (s.entry x.entry).restartable && decide ((s.entry x.entry).charged < 3)))
    ∧ (∀ x, o.state.inService = true → p.val < 30 → o.standsFor.toNat ∉ s.runner.retrains → s.freeSpare p.val = none → s.run = some x → x.fault = none → x.votedUp = false →
      ∃ t y, exec (.portSilenceTimeout p) s = .next t ∧ t.run = some y ∧ y.fault = some (0x0304, false))
    ∧ (o.state.inService = false → exec (.portSilenceTimeout p) s = .next s)
    ∧ (∀ x, 30 ≤ p.val → o.state = .training → (p.val = 31 → (s.rport 30).state ≠ .training) → s.run = some x → x.fault = none →
        o.standsFor.toNat ∉ s.runner.retrains →
      ∃ t y, exec (.spareTimeout p) s = .next t ∧ (t.rport p.val).state = .dark ∧ t.runner.spares.getLsbD (p.val - 30) = true
        ∧ t.run = some y ∧ y.fault = some (0x0304, false))
    ∧ (30 ≤ p.val → o.state = .training → (p.val = 31 → (s.rport 30).state ≠ .training) → o.standsFor.toNat ∈ s.runner.retrains →
      ∃ t, exec (.spareTimeout p) s = .next t ∧ (t.rport p).state = .dark ∧ t.runner.spares.getLsbD (p.val - 30) = true
        ∧ o.standsFor.toNat ∉ t.runner.retrains ∧ t.run = s.run)
    ∧ (∀ (c : Fin 64) r, s.runningOf c.val = some r → r.body.opcode = 0x50 → r.waiting.getLsbD p.val = true → o.state = .training →
      ∃ t x, exec (.joinPortTimeout p) s = .next t ∧ (t.rport p.val).code = 0x0304 ∧ (t.rport p.val).state = .training
        ∧ t.runningOf c.val = some x ∧ x.waiting.getLsbD p.val = false ∧ (p.val, (0x0304 : BitVec 16)) ∈ x.failures)

/-- FLASK_JOIN, FLASK_LEAVE and MARGIN_TEST (R230 to R233, R268, R273, R321): a join outside a flask whose live ports keep the no-transit
rule enters the flask, in the Riser too, and trains every live port from stage 1, fails one whose eye-safety state is SHUT with EYE_SAFETY
(0x0403), and leaves the others dark; one that breaks the rule is refused with TRANSIT_REFUSED (0x0206), and one inside a flask with
RUNNER_TOPOLOGY_MISMATCH (0x0205), with the ports in service and FLASK_ID in DETAIL, and changes no port. A leave darkens every port and
ends the membership. A margin test of one port that is not dark or shut retrains it. -/
def Obligations.FlaskPours : Prop :=
  ∀ (c : Fin 64) (s s1 : State) (i : Nat) (k : Packet) (f : FlaskRecord), f = joinRecord k.pay → s.runner.ports.length = 32 →
    (s.startsNow s1 c.val 0x50 i [] k → s.runner.flask = none →
      (∀ p ∈ f.live, transitOk s.ident.chipId.toNat p (f.port p) = true) →
      ∃ t, exec (.flaskJoin c) s = .next t ∧ t.runner.flask = some f ∧ t.ledger.flask = some f ∧ (t.entry i).state = .running
        ∧ (∀ p ∈ f.live, (s.lport p).eye ≠ .shut → (t.rport p).state = .training ∧ (t.rport p).stage = 1
            ∧ (t.rport p).standsFor = BitVec.ofNat 5 p)
        ∧ (∀ p ∈ f.live, (s.lport p).eye = .shut → (t.rport p).state = .failed ∧ (t.rport p).code = 0x0403)
        ∧ (∀ p < 32, p ∉ f.live → (t.rport p).state = .dark))
    ∧ (∀ p ∈ f.live, s.startsNow s1 c.val 0x50 i [] k → s.runner.flask = none →
      transitOk s.ident.chipId.toNat p (f.port p) = false →
      ∃ t, exec (.flaskJoin c) s = .next t ∧ t.runsWith s c.val i k (some (refusedAt 0x0206 s.joinDetail)) ∧ t.runner = s.runner)
    ∧ (∀ g, s.startsNow s1 c.val 0x50 i [] k → s.runner.flask = some g →
      g ≠ f ∨ ((s.entry i).replayed = false ∧ (s.entry i).state ≠ .running) →
      ∃ t, exec (.flaskJoin c) s = .next t ∧ t.runsWith s c.val i k (some (refusedAt 0x0205 s.joinDetail)) ∧ t.runner = s.runner)
    ∧ (∀ g, s.startsNow s1 c.val 0x51 i [] k → s.runner.flask = some g →
      ∃ t, exec (.flaskLeave c) s = .next t ∧ t.runsWith s c.val i k (some (completed stOk g.flaskId.toNat .nothing))
        ∧ t.runner.flask = none ∧ t.ledger.flask = none ∧ ∀ p < 32, (t.rport p).state = .dark)
    ∧ (∀ p q, s.startsNow s1 c.val 0x52 i [] k → p < 30 → k.pay % 2 ^ 30 = 2 ^ p → q = s.testedPort p → q < 32 →
      (s.rport q).state ≠ .dark → (s.lport q).eye ≠ .shut →
      ∃ t, exec (.marginTest c) s = .next t ∧ t.runsWith s c.val i k none ∧ (t.rport q).state = .training ∧ (t.rport q).stage = 1
        ∧ (t.rport q).standsFor = BitVec.ofNat 5 p ∧ ∀ j, j ≠ q → t.rport j = s.rport j)

/-! ### Lanes, rings and eye safety -/

/-- Lanes of a Runner port (R308 to R310, R313, R315 to R317). LANE_RECORD: a confirmation of the change asked for gives the lanes
received (at its first record: the model's choice, log entries 58 and 79); the first record of the next change of the other direction is
noted, and the second that agrees makes the change, confirmed over the lanes common to both sets; with fewer than 14 left the port goes
down with PEER_LOST (0x0304). RESWEEP_DONE: of the resonances within ±300 GHz of the calibrated point the nearest that passes the tag
check is accepted and the heater moved to it, the ring then in lock; with none it stands at the calibrated point. After a good end or the
third bad one it is resweept no more; three bad ones keep its lane out. LANE_RETURN: a receive lane in lock that leaves at least 1.5 dB is
asked for; one that does not is resweept, up to three times (the model's choice, log entry 79). LOCK_LOOP_UPDATE: the heater moves against
the estimate by at most 6,000 MHz; a ring beyond 20,000 MHz is out of lock, a receive lane with it out of service. FEED_FORWARD: each ring
of the bank moves by its own coefficient times the change, at most 400 mK of it; the rest grows its lag by 9 GHz per degree (that lag and
estimate add up is the model's choice, log entry 79).
Lanes of the lit floor link (R308 to R310, R315, R317, R319, R388): a removal takes its lane out, counts it, adds 20 points to D_LOCAL and
has the drop filter resweept where the tag descrambles under a neighbour's key, a mislock, else the modulator; a ring beyond 20,000 MHz
takes its lane out too. The loss that stops the direction has the codewords that lose more than one symbol written poisoned (the model's
choice, log entry 60). A lane returns with both rings in lock and a margin of 1.5 dB; with less its drop filter is resweept (log entry
79). Two lanes out for 20 ms set the stall and add 200 points. With no occasion nothing changes (log entry 3). -/
def Obligations.LaneChanges : Prop :=
  (∀ (w : RingSweep) (v : Int), acceptedOf w = some v → ∃ n : Int, v = 2000 * n ∧ n ∈ w.resonances ∧ n ∈ w.passing ∧ n.natAbs ≤ 150
    ∧ ∀ m ∈ w.resonances, m ∈ w.passing → m.natAbs ≤ 150 → n.natAbs ≤ m.natAbs)
  ∧ (∀ w : RingSweep, acceptedOf w = none → ∀ m ∈ w.resonances, m ∈ w.passing → 150 < m.natAbs)
  ∧ (∀ (p : Fin 32) (dir : LaneDir) (lane : Fin 16) (rec : LaneRecord) (s : State) (o : PortLight) (k : Nat), o = s.lport p.val →
    k = ringOf dir lane.val →
    ((s.rport p.val).state.inService = false → exec (.laneRecord p rec) s = .next s)
    ∧ ((s.rport p.val).state.inService = true → rec.change = o.changeRx + 1 → o.rxAsked = some rec.txLanes → p.val < s.light.ports.length →
      ∃ t, exec (.laneRecord p rec) s = .next t ∧ (t.lport p.val).rxLanes = rec.txLanes ∧ (t.lport p.val).txLanes = o.txLanes
        ∧ (t.lport p.val).changeRx = o.changeRx + 1 ∧ (o.rxWant = rec.txLanes → (t.lport p.val).rxAsked = none)
        ∧ (t.rport p.val).state = (if o.txLanes &&& rec.txLanes = 0xFFFF then .admitted else .degraded))
    ∧ ((s.rport p.val).state.inService = true → ¬(rec.change = o.changeRx + 1 ∧ o.rxAsked = some rec.txLanes) →
      (rec.change = o.changeTx + 1 → rec.rxLanes ≠ o.txLanes → p.val < s.light.ports.length →
        (¬(o.agreed = 1 ∧ o.lastRx = rec.rxLanes) →
          ∃ t, exec (.laneRecord p rec) s = .next t ∧ t.lport p.val = { o with agreed := 1, lastRx := rec.rxLanes }
            ∧ t.runner = s.runner)
        ∧ (o.agreed = 1 → o.lastRx = rec.rxLanes → 14 ≤ (lanesOf rec.rxLanes).length →
          ∃ t x more, exec (.laneRecord p rec) s = .next t ∧ (t.lport p.val).txLanes = rec.rxLanes ∧ (t.lport p.val).rxLanes = o.rxLanes
            ∧ (t.lport p.val).changeTx = rec.change ∧ (t.lport p.val).agreed = 0
            ∧ (t.rport p.val).state = (if rec.rxLanes &&& o.rxLanes = 0xFFFF then .admitted else .degraded)
            ∧ (t.rport p.val).sent = (s.rport p.val).sent ++ List.replicate 4 ⟨o.txLanes &&& rec.rxLanes, x⟩ ++ more ∧ x.type = 6
            ∧ x.payload = idBytes (s.ownRecord p.val 0) ++ laneBytes ⟨rec.change, rec.rxLanes, 0, o.rxLanes⟩)
        ∧ (o.agreed = 1 → o.lastRx = rec.rxLanes → (lanesOf rec.rxLanes).length < 14 →
          ∃ t, exec (.laneRecord p rec) s = .next t ∧ (t.rport p.val).state = .down ∧ (t.rport p.val).code = 0x0304))
      ∧ (rec.change ≠ o.changeTx + 1 ∨ rec.rxLanes = o.txLanes → exec (.laneRecord p rec) s = .next s))
    ∧ (∀ (w : RingSweep) (ok : Bool), ok = (acceptedOf w).isSome → o.sweeping.getLsbD k = true →
      ∃ t, exec (.resweepDone (.runner p dir lane) w) s = .next t ∧ Tab.get 0 (t.lport p.val).resweeps k = Tab.get 0 o.resweeps k + 1
        ∧ (t.lport p.val).sweeping.getLsbD k = (!ok && decide (Tab.get 0 o.resweeps k < 2))
        ∧ (t.lport p.val).lost.getLsbD k = (o.lost.getLsbD k || (!ok && decide (2 ≤ Tab.get 0 o.resweeps k)))
        ∧ (t.lport p.val).ringLocked dir lane.val = ok
        ∧ Tab.get 0 (t.lport p.val).heater k = Tab.get 0 o.calib k + (acceptedOf w).getD 0
        ∧ Tab.get 0 (t.lport p.val).calib k = Tab.get 0 o.calib k + (acceptedOf w).getD 0
        ∧ (t.lport p.val).rxLanes = o.rxLanes ∧ (t.lport p.val).txLanes = o.txLanes)
    ∧ (∀ w, o.sweeping.getLsbD k = false → exec (.resweepDone (.runner p dir lane) w) s = .next s)
    ∧ (∀ check, exec (.laneReturn ⟨.runner p .tx lane, check⟩) s = .next s)
    ∧ (∀ check, (s.rport p.val).state.inService = true → o.rxWant.getLsbD lane.val = false → o.pass.getLsbD lane.val = true →
        o.rxLocked.getLsbD lane.val = true → o.sweeping.getLsbD lane.val = false → o.lost.getLsbD lane.val = false →
      (150 ≤ laneMargin check → 14 ≤ (lanesOf (o.rxWant ||| (1#16 <<< lane.val))).length →
        ∃ t, exec (.laneReturn ⟨.runner p .rx lane, check⟩) s = .next t ∧ (t.lport p.val).rxWant = o.rxWant ||| (1#16 <<< lane.val)
          ∧ (t.lport p.val).rxLanes = o.rxLanes ∧ (t.lport p.val).txLanes = o.txLanes
          ∧ Tab.get 0 (t.lport p.val).resweeps lane.val = 0
          ∧ (o.rxAsked = none → o.rxLanes.getLsbD lane.val = false →
            (t.lport p.val).rxAsked = some (o.rxWant ||| (1#16 <<< lane.val))
              ∧ ∃ x, (t.rport p.val).sent = (s.rport p.val).sent ++ List.replicate 4 ⟨o.txLanes, x⟩ ∧ x.type = 6
                ∧ x.payload = idBytes (s.ownRecord p.val 0)
                    ++ laneBytes ⟨o.changeRx + 1, o.txLanes, o.asks, o.rxWant ||| (1#16 <<< lane.val)⟩))
      ∧ (laneMargin check < 150 →
        ∃ t, exec (.laneReturn ⟨.runner p .rx lane, check⟩) s = .next t ∧ (t.lport p.val).rxWant = o.rxWant
          ∧ (t.lport p.val).rxLanes = o.rxLanes ∧ t.runner = s.runner
          ∧ (if 3 ≤ Tab.get 0 o.resweeps lane.val then (t.lport p.val).lost.getLsbD lane.val = true
              else (t.lport p.val).sweeping.getLsbD lane.val = true ∧ (t.lport p.val).rxLocked.getLsbD lane.val = false)))
    ∧ (∀ e : Int, (s.rport p.val).state.isDark = false → p.val < s.light.ports.length → o.sweeping.getLsbD k = false →
      ∃ t, exec (.lockLoopUpdate (.runner p) dir (lane.castLE (by decide)) e) s = .next t
        ∧ Tab.get 0 (t.lport p.val).heater k = Tab.get 0 o.heater k - max (-6000) (min 6000 e)
        ∧ Tab.get 0 (t.lport p.val).detune k = e - max (-6000) (min 6000 e) ∧ (t.lport p.val).rxLanes = o.rxLanes
        ∧ (t.lport p.val).ringLocked dir lane.val = decide (e.natAbs ≤ 20000)
        ∧ (e.natAbs ≤ 20000 → t.runner = s.runner))
    ∧ (∀ e : Int, o.sweeping.getLsbD k = true → exec (.lockLoopUpdate (.runner p) dir (lane.castLE (by decide)) e) s = .next s)
    ∧ (∀ e : Int, (s.rport p.val).state.inService = true → 20000 < e.natAbs → o.sweeping.getLsbD lane.val = false →
        o.rxLanes.getLsbD lane.val = true → o.rxWant.getLsbD lane.val = true →
      (14 ≤ (lanesOf (o.rxWant &&& ~~~(1#16 <<< lane.val))).length →
        ∃ t, exec (.lockLoopUpdate (.runner p) .rx (lane.castLE (by decide)) e) s = .next t ∧ (t.lport p.val).rxWant = o.rxWant &&& ~~~(1#16 <<< lane.val)
          ∧ (t.lport p.val).sweeping.getLsbD lane.val = true)
      ∧ ((lanesOf (o.rxWant &&& ~~~(1#16 <<< lane.val))).length < 14 →
        ∃ t, exec (.lockLoopUpdate (.runner p) .rx (lane.castLE (by decide)) e) s = .next t ∧ (t.rport p.val).state = .down ∧ (t.rport p.val).code = 0x0304))
    ∧ (∀ d : Int, p.val < s.light.ports.length →
      ∃ t, exec (.feedForward (.runner p) dir d) s = .next t ∧ (t.lport p.val).temp = (if dir = .tx then o.temp + d else o.temp)
        ∧ (t.lport p.val).dropTemp = (if dir = .rx then o.dropTemp + d else o.dropTemp)
        ∧ ((s.rport p.val).state.isDark = false → ∀ i : Fin 16, ∀ r, r = ringOf dir i.val → o.sweeping.getLsbD r = false →
            Tab.get 0 (t.lport p.val).heater r
                = Tab.get 0 o.heater r - ((Tab.get 0 o.coef r : Nat) : Int) * max (-400) (min 400 d) / 1000
              ∧ Tab.get 0 (t.lport p.val).lag r = Tab.get 0 o.lag r + 9 * (d - max (-400) (min 400 d))
              ∧ (t.lport p.val).ringLocked dir i.val = (o.ringLocked dir i.val
                  && decide ((Tab.get 0 o.detune r + Tab.get 0 o.lag r + 9 * (d - max (-400) (min 400 d))).natAbs ≤ 20000)))
        ∧ ((s.rport p.val).state.isDark = true → t.runner = s.runner)))
  ∧ (∀ (dir : Fin 2) (side : LaneDir) (lane : Fin 400) (s : State) (k : Nat), k = 400 * dir.val + lane.val + (if side = .tx then 0 else 800) →
    (∀ tag carried, s.floorLit = true → (s.light.out dir.val).getLsbD lane.val = false →
      ∃ t, exec (.floorLaneRemoval dir ⟨lane, tag, carried⟩) s = .next t
        ∧ t.light.out dir.val = s.light.out dir.val ||| (1#400 <<< lane.val)
        ∧ t.light.out (1 - dir.val) = s.light.out (1 - dir.val)
        ∧ Tab.get Ctr48.zero t.cnt.regs.ctr (ctrFloor dir.val 3) = (Tab.get Ctr48.zero s.cnt.regs.ctr (ctrFloor dir.val 3)).add 1
        ∧ t.light.mislock = (if floorMislocked lane.val tag then s.light.mislock.add 1 else s.light.mislock)
        ∧ ((side = .rx ↔ floorMislocked lane.val tag = true) → t.light.floorLock k = false)
        ∧ (floorMislocked lane.val tag = false → carried = [] → t.err.health.dLocal = min 65535 (s.err.health.dLocal + 20))
        ∧ (s.floorStopped dir.val = true ∨ carried = [] → t.mem = s.mem)
        ∧ (∀ x, carried = [x] → s.floorStopped dir.val = false → s.light.out dir.val ≠ 0 →
            t.mem = (if floorDamaged (t.light.out dir.val) x.1 then (s.mem.carryCw .chip x.2.1 x.2.2 true).1 else s.mem)))
    ∧ (∀ tag carried, s.floorLit = false ∨ (s.light.out dir.val).getLsbD lane.val = true →
      exec (.floorLaneRemoval dir ⟨lane, tag, carried⟩) s = .next s)
    ∧ (∀ w, (s.light.out dir.val).getLsbD lane.val = true → s.light.floorLock k = false → Tab.get 0 s.light.floorSweeps k < 3 →
      ∃ t, exec (.resweepDone (.floor dir side lane) w) s = .next t ∧ t.light.floorLock k = (acceptedOf w).isSome
        ∧ Tab.get 0 t.light.floorSweeps k = Tab.get 0 s.light.floorSweeps k + 1
        ∧ Tab.get 0 t.light.floorHeater k = Tab.get 0 s.light.floorCalib k + (acceptedOf w).getD 0
        ∧ Tab.get 0 t.light.floorCalib k = Tab.get 0 s.light.floorCalib k + (acceptedOf w).getD 0
        ∧ t.light.out dir.val = s.light.out dir.val)
    ∧ (∀ w, (s.light.out dir.val).getLsbD lane.val = false ∨ s.light.floorLock k = true ∨ 3 ≤ Tab.get 0 s.light.floorSweeps k →
      exec (.resweepDone (.floor dir side lane) w) s = .next s)
    ∧ (∀ check, (s.light.out dir.val).getLsbD lane.val = true → s.light.floorHeld dir.val lane.val = true → 150 ≤ laneMargin check →
      ∃ t, exec (.laneReturn ⟨.floor dir lane, check⟩) s = .next t ∧ (t.light.out dir.val).getLsbD lane.val = false
        ∧ t.light.out (1 - dir.val) = s.light.out (1 - dir.val) ∧ Tab.get 0 t.light.floorSweeps k = 0)
    ∧ (∀ check, (s.light.out dir.val).getLsbD lane.val = true → s.light.floorHeld dir.val lane.val = true → laneMargin check < 150 →
      ∃ t, exec (.laneReturn ⟨.floor dir lane, check⟩) s = .next t ∧ t.light.out dir.val = s.light.out dir.val
        ∧ (side = .rx → t.light.floorLock k = false))
    ∧ (∀ check, (s.light.out dir.val).getLsbD lane.val = false ∨ s.light.floorHeld dir.val lane.val = false →
      exec (.laneReturn ⟨.floor dir lane, check⟩) s = .next s)
    ∧ (∀ (e : Int) carried, s.floorLit = true → s.light.floorLock k = true → (s.light.out dir.val).getLsbD lane.val = false →
      ∃ t, exec (.lockLoopUpdate (.floor dir carried) side lane e) s = .next t
        ∧ Tab.get 0 t.light.floorHeater k = Tab.get 0 s.light.floorHeater k - max (-6000) (min 6000 e)
        ∧ Tab.get 0 t.light.floorDetune k = e - max (-6000) (min 6000 e)
        ∧ (t.light.out dir.val).getLsbD lane.val = decide (20000 < e.natAbs)
        ∧ (20000 < e.natAbs → t.light.floorLock k = false
            ∧ (carried = [] → t.err.health.dLocal = min 65535 (s.err.health.dLocal + 20))
            ∧ ∀ x, carried = [x] → s.floorStopped dir.val = false → s.light.out dir.val ≠ 0 →
              t.mem = (if floorDamaged (t.light.out dir.val) x.1 then (s.mem.carryCw .chip x.2.1 x.2.2 true).1 else s.mem)))
    ∧ (∀ (e : Int) carried, s.floorLit = false ∨ s.light.floorLock k = false →
      exec (.lockLoopUpdate (.floor dir carried) side lane e) s = .next s)
    ∧ (∀ (d : Int) (w : Fin 25) (i : Fin 16) carried, lane.val = 16 * w.val + i.val → s.floorLit = true → s.light.floorLock k = true →
        (s.light.out dir.val).getLsbD lane.val = false →
      ∃ t, exec (.feedForward (.floor dir w carried) side d) s = .next t
        ∧ Tab.get 0 t.light.floorHeater k = Tab.get 0 s.light.floorHeater k - ((Tab.get 0 s.light.floorCoef k : Nat) : Int) * max (-400) (min 400 d) / 1000
        ∧ Tab.get 0 t.light.floorLag k = Tab.get 0 s.light.floorLag k + 9 * (d - max (-400) (min 400 d))
        ∧ (t.light.out dir.val).getLsbD lane.val = decide (20000 <
            (Tab.get 0 s.light.floorDetune k + Tab.get 0 s.light.floorLag k + 9 * (d - max (-400) (min 400 d))).natAbs))
    ∧ (s.floorLit = true → s.floorStopped dir.val = true → s.light.floorStall.getLsbD dir.val = false →
      ∃ t, exec (.floorStallTimeout dir) s = .next t ∧ t.light.floorStall.getLsbD dir.val = true
        ∧ t.err.health.dLocal = min 65535 (s.err.health.dLocal + 200))
    ∧ (s.floorLit = false ∨ s.floorStopped dir.val = false → exec (.floorStallTimeout dir) s = .next s))

/-- Eye safety (R321, R323 to R327). OPEN_FIBRE_DETECT makes a port SHUT with its cause, by the loss of laser input where its output is
enabled and LSHUT_N of its group high (where R323 says "enabled": the model's reading, log entry 61), and by back-reflection in every
state, disables its source output, drives LSHUT_N of its group low and takes the port out of use with EYE_SAFETY (0x0403), logged; two
probes in a row that pass make it CLOSED, and a failing one starts the count again. A confirmation with the outputs that are set ends the
write and a detection; a source fault, and a write that is to disable an output and is not confirmed, keep LSHUT_N low; an enabling one
not confirmed fails the ports in stage 1 of training whose output it was to enable with LINK_MARGIN_LOW (0x0401, R321). What finds no
occasion leaves all as it is (the model's choice, log entry 3). -/
def Obligations.EyeSafety : Prop :=
  ∀ (p : Fin 32) (n : Fin 4) (cause : BitVec 2) (emit fault : BitVec 8) (s : State) (o : PortLight), o = s.lport p.val →
    (∀ acts, acts = (if s.light.outEn.getLsbD p.val && !s.lshut (p.val / 8) then cause else cause &&& 2) →
      acts ≠ 0 → o.eye ≠ .shut → p.val < s.light.ports.length → s.pins.vddAon = true →
      ∃ t, exec (.openFibreDetect p cause) s = .next t ∧ (t.lport p.val).eye = .shut ∧ (t.lport p.val).eyeCause = acts
        ∧ t.light.outEn.getLsbD p.val = false ∧ t.lshut (p.val / 8) = true ∧ (s.run = none → t.err.seq = s.err.seq + 1)
        ∧ ((s.rport p.val).state = .training → (t.rport p.val).state = .failed ∧ (t.rport p.val).code = 0x0403)
        ∧ ((s.rport p.val).state.inService = true → (t.rport p.val).state = .down ∧ (t.rport p.val).code = 0x0403))
    ∧ (s.light.outEn.getLsbD p.val = false ∨ s.lshut (p.val / 8) = true → cause &&& 2 = 0 → exec (.openFibreDetect p cause) s = .next s)
    ∧ (o.eye = .shut → o.probing = false → s.pins.vddAon = true →
      ∃ t, exec (.eyeProbe p) s = .next t ∧ (t.lport p.val).probing = true ∧ t.light.probe.getLsbD p.val = true
        ∧ (t.lport p.val).probes.toNat = min 65535 (o.probes.toNat + 1) ∧ (t.lport p.val).eye = .shut)
    ∧ (o.eye ≠ .shut → exec (.eyeProbe p) s = .next s)
    ∧ (∀ pass, o.probing = true →
      ∃ t, exec (.eyeProbeDone p pass) s = .next t ∧ (t.lport p.val).probing = false ∧ t.light.probe.getLsbD p.val = false
        ∧ (t.lport p.val).passes = (if pass then o.passes + 1 else 0)
        ∧ (t.lport p.val).eye = (if pass = true ∧ o.passes = 1 then .closed else o.eye))
    ∧ (fault = 0 → emit = s.light.outputs n.val →
      ∃ t, exec (.laserBusConfirm n emit fault) s = .next t ∧ t.light.writing.getLsbD n.val = false
        ∧ t.light.unconfirmed.getLsbD n.val = false ∧ t.light.detection.getLsbD n.val = false
        ∧ t.light.outEn = s.light.outEn ∧ t.light.ports = s.light.ports)
    ∧ (fault = 0 → emit ≠ s.light.outputs n.val → s.lshut n.val = false → exec (.laserBusConfirm n emit fault) s = .next s)
    ∧ (fault ≠ 0 →
      ∃ t, exec (.laserBusConfirm n emit fault) s = .next t ∧ t.light.lbusErr.getLsbD n.val = true ∧ t.lshut n.val = true)
    ∧ (s.light.writing.getLsbD n.val = true → s.light.disabling.getLsbD n.val = true →
      ∃ t, exec (.laserBusTimeout n) s = .next t ∧ t.light.lbusErr.getLsbD n.val = true ∧ t.lshut n.val = true
        ∧ t.light.writing.getLsbD n.val = false)
    ∧ (s.light.writing.getLsbD n.val = true →
      ∃ t, exec (.laserBusTimeout n) s = .next t ∧ t.light.lbusErr.getLsbD n.val = true
        ∧ (p.val / 8 = n.val → s.light.enabling.getLsbD p.val = true → (s.rport p.val).state = .training → (s.rport p.val).stage = 1 →
          (t.rport p.val).state = .failed ∧ (t.rport p.val).code = 0x0401))
    ∧ (s.light.writing.getLsbD n.val = false → exec (.laserBusTimeout n) s = .next s)

/-! ### Power, counters and health -/

/-- The domain sequencers of Table 17-1 (R331 to R334). RISING_END: ON, or FALLING where a disable was latched; the clusters of a
group that is ON start with gate 1. FALLING_END: OFF, with the minimum off time still to pass; the clusters of the group lose their
memories, and their windows read zero. MINIMUM_OFF_EXPIRY: a latched enable starts RISING. IDLE_HOLDOFF_EXPIRY: a domain that is ON
and that nothing uses starts FALLING, the gates of a group's clusters 0 from then on. CLUSTER_SLEEP: a cluster of a running RUN with
nothing in flight, no ballast to run, and a core that waits or has halted, sleeps. A group that is ON with no test of it running has its
sample buffers zero and LOST (R403). What finds no occasion leaves all as it is (the model's choice, log entry 3). -/
def Obligations.Sequencers : Prop :=
  ∀ (k : Fin 58) (s : State) (q : Sequencer), q = s.seq k.val →
    (q.state = .rising → q.latch ≠ .disable →
      ∃ t, exec (.risingEnd k) s = .next t ∧ t.seq k.val = { q with state := .on, latch := .none }
        ∧ (k.val < 18 → ∀ g ∈ s.groupOf k.val, (t.cl g).gate.g = 1 ∧ (t.cl g).gate.credit = 0) ∧ t.mem = s.mem
        ∧ (k.val < 18 → s.groupTested k.val = false → s.err.offTest ≠ some k.val → ∀ g ∈ s.groupOf k.val,
            (Tab.get Sampler.init t.cnt.regs.samp g).lost = true ∧ (Tab.get Sampler.init t.cnt.regs.samp g).count = 0
              ∧ (Tab.get Sampler.init t.cnt.regs.samp g).next = 0))
    ∧ (q.state = .rising → q.latch = .disable →
      ∃ t, exec (.risingEnd k) s = .next t ∧ t.seq k.val = { q with state := .falling, latch := .none } ∧ t.clusters = s.clusters)
    ∧ (q.state = .falling →
      ∃ t, exec (.fallingEnd k) s = .next t ∧ t.seq k.val = { q with state := .off, minOff := false }
        ∧ (k.val < 18 → ∀ g ∈ s.groupOf k.val, (t.cl g).dmem = Mem.zeros ∧ (t.cl g).imem = Mem.zeros ∧ (t.cl g).crucible = Mem.zeros
          ∧ (t.cl g).vregs = Mem.zeros ∧ (t.cl g).gate.g = 0 ∧ ∀ a < windowSize, t.mem.byte (windowBase + windowSize * g + a) = 0)
        ∧ (18 ≤ k.val → k.val < 26 → Tab.get Ctr48.zero t.cnt.regs.ctr (ctrHbm (k.val - 18) 5)
            = (Tab.get Ctr48.zero s.cnt.regs.ctr (ctrHbm (k.val - 18) 5)).add 1)
        ∧ (18 ≤ k.val → t.mem = s.mem ∧ t.clusters = s.clusters))
    ∧ (q.state = .off → q.minOff = false →
      ∃ t, exec (.minimumOffExpiry k) s = .next t ∧ (t.seq k.val).minOff = true
        ∧ (t.seq k.val).state = (if q.latch = .enable then .rising else .off))
    ∧ (q.state ≠ .rising → exec (.risingEnd k) s = .next s) ∧ (q.state ≠ .falling → exec (.fallingEnd k) s = .next s)
    ∧ (q.state ≠ .off → exec (.minimumOffExpiry k) s = .next s)
    ∧ (q.state = .on → (18 ≤ k.val ∧ k.val < 26 ∧ s.run = none
          ∨ k.val < 18 ∧ s.groupBusy k.val = false ∧ s.groupTested k.val = false ∧ s.err.offTest ≠ some k.val
            ∧ ∀ g ∈ s.groupOf k.val, (s.cl g).gate.g ≤ 1) →
      ∃ t, exec (.idleHoldoffExpiry k) s = .next t ∧ t.seq k.val = { q with state := .falling, latch := .none } ∧ t.mem = s.mem
        ∧ ∀ g < 128, t.cl g = if k.val < 18 ∧ g ∈ s.groupOf k.val then { s.cl g with gate := { (s.cl g).gate with g := 0 } } else s.cl g)
    ∧ (26 ≤ k.val ∨ q.state ≠ .on ∨ k.val < 18 ∧ (s.groupBusy k.val = true ∨ s.groupTested k.val = true ∨ s.err.offTest = some k.val)
          ∨ 18 ≤ k.val ∧ s.run.isSome = true →
      exec (.idleHoldoffExpiry k) s = .next s)
    ∧ (∀ g : Fin 128, s.run.isSome = true → (s.cl g.val).unused = false → (s.cl g.val).flights = [] →
        ((s.cl g.val).run = .halted ∨ (s.cl g.val).run = .ended ∨ ((s.cl g.val).run = .running ∧ (s.cl g.val).stall.isSome = true)) →
        s.ballastCycles g.val = 0 →
      ∃ t, exec (.clusterSleep g) s = .next t ∧ s.onlyCluster t g.val { s.cl g.val with asleep := true, idleCycles := 64 }
        ∧ t.cnt = s.cnt)

/-- GATE_STEP when it is due (R305, R335, R337, R339 to R341, R343, R344, R346). The estimate is the energy of the step's events with the
leakage at the sensors' readings. The cap that waits takes effect; an estimate above the cap sets L_cap to one below the highest gate, and
CAP_UNMET where L_cap was 0 already; one at least 40 W below it raises L_cap by one, up to 16; a sensor at 100 °C and more does the same
to L_therm, and 98 °C and less raises it. Of every cluster that is ON a hint executed in the step takes effect for as many steps as it
asks for, one in effect has one step fewer to run, and at 0 the level is 0 (R339); its gate moves by at most one towards T_g, the least of
the limits, the ceiling, and the greater of its activity plus one and its hint. The ceiling is the least PACE heard where the flask adopts
it, 16 otherwise. The step's energy, 64 µs at the estimate times the latest measured ratio held between a half and 2, is added to the
chip's total, and shared equally among the pours that the step found running at its start: each that still runs gets its share (that the
share of one that has ended stays in the total alone is the model's choice, log entry 78). The next step counts its events from here.
While the estimate is distrusted, P adds the measured excess and a tenth of P_meas (R342): with P above the cap and L_cap 0, CAP_UNMET is
set and the step counted; above the cap otherwise, both stay; at most the cap, it clears. Not due, or a second time at one boundary, it
does nothing (log entry 3). -/
def Obligations.GateStep : Prop :=
  ∀ (compute0 compute1 base : List (BitVec 16)) (s : State) (e nj : Nat) (cap : BitVec 11) (hot p : Int) (w : Power), w = s.power →
    e = s.activityEstimate (compute0 ++ compute1 ++ base) → cap = w.newCap.getD w.cap → hot = max (hottest base).toInt (hottest (compute0 ++ compute1)).toInt →
    p = (if w.distrust then (e : Int) + 1100 * (w.meas.toNat : Int) - 1000 * (w.avg.toNat : Int) else (e : Int)) →
    nj = (if w.measured = false ∨ w.meas = 0 ∧ w.avg = 0 then 64 * e
      else if 2 * w.avg.toNat ≤ w.meas.toNat then 128 * e
      else if 2 * w.meas.toNat ≤ w.avg.toNat then 32 * e
      else 64 * e * w.meas.toNat / w.avg.toNat) →
    (s.boot.phase = .ready → s.cnt.regs.time.toNat % 1600 = 0 → w.stepAt ≠ some s.cnt.regs.time →
      ∃ t, exec (.gateStep compute0 compute1 base) s = .next t ∧ t.power.stepAt = some s.cnt.regs.time ∧ t.power.seen = s.cnt.regs.ctr
        ∧ t.power.ran = s.poursOn ∧ t.power.cap = cap ∧ t.power.newCap = none
        ∧ (1000 * (cap.toNat : Int) < p → w.lCap = 0 → t.power.capUnmet = true ∧ t.power.capUnmetCtr = w.capUnmetCtr.add 1)
        ∧ (1000 * (cap.toNat : Int) < p → w.lCap ≠ 0 → t.power.capUnmet = w.capUnmet ∧ t.power.capUnmetCtr = w.capUnmetCtr)
        ∧ (p ≤ 1000 * (cap.toNat : Int) → t.power.capUnmet = false ∧ t.power.capUnmetCtr = w.capUnmetCtr)
        ∧ t.power.energyRest = (w.energyRest + nj) % 1000000
        ∧ t.power.energy = w.energy + BitVec.ofNat 64 ((w.energyRest + nj) / 1000000)
        ∧ (∀ c, Tab.get 0 t.power.pours c = Tab.get 0 w.pours c
            + w.ran.countP (fun x => decide (x.1 = c) && decide (s.pourOf c = some x.2)) * (nj / w.ran.length))
        ∧ t.power.ceiling = (if (s.runner.flask.map (·.paceAdopt)).getD false then
            ((s.runner.ports.filter fun o => o.state.inService).map (·.pace)).foldl min 16 else 16)
        ∧ (∀ g < 128, s.clusterOn g = true →
          (∀ level hold, (s.cl g).gate.newHint = some (level, hold) →
            (t.cl g).gate.hint = (if hold = 0 then 0 else level) ∧ (t.cl g).gate.hold = hold)
          ∧ ((s.cl g).gate.newHint = none → (t.cl g).gate.hold = (s.cl g).gate.hold - 1
            ∧ (t.cl g).gate.hint = (if (s.cl g).gate.hold ≤ 1 then 0 else (s.cl g).gate.hint))
          ∧ (t.cl g).gate.newHint = none
          ∧ let top := min (min t.power.lCap t.power.lTherm)
              (min t.power.ceiling (max (((s.cl g).gate.busy + 5999) / 6000 + 1) (t.cl g).gate.hint))
            (t.cl g).gate.g = if (s.cl g).gate.g < top then (s.cl g).gate.g + 1
              else if top < (s.cl g).gate.g then (s.cl g).gate.g - 1 else (s.cl g).gate.g)
        ∧ (∀ g, s.clusterOn g = false → t.cl g = s.cl g) ∧ t.mem = s.mem ∧ t.run = s.run
        ∧ t.power.lCap = (if 1000 * (cap.toNat : Int) < p then s.gateMax - 1
            else if p + 40000 ≤ 1000 * (cap.toNat : Int) then min 16 (w.lCap + 1) else w.lCap)
        ∧ t.power.lTherm = (if 6400 ≤ hot then s.gateMax - 1 else if hot ≤ 6272 then min 16 (w.lTherm + 1) else w.lTherm))
    ∧ (s.boot.phase ≠ .ready ∨ s.cnt.regs.time.toNat % 1600 ≠ 0 ∨ w.stepAt = some s.cnt.regs.time →
      exec (.gateStep compute0 compute1 base) s = .next s)

/-- AVS_READING (R341, R342): P_meas is the sum over the rails of voltage and current and P_avg the mean estimate of the interval; a
difference of more than a fifth of the cap for more than 5 ms (78 gate steps) makes the estimate distrusted, which is logged (that both
are floored to whole watts and compared so is the model's choice, log entry 19); a rail that does not answer starts the interval again.
CHILL_TRIP (R345): every PLL stops, THERMTRIP_N and LSHUT_N go low, the running pours are gone, no Runner port carries or takes a frame,
READY ends (the last is the model's reading, log entry 55), and the trip record holds the sensor, its reading and the time. A second trip
does nothing (log entry 3). -/
def Obligations.MeasuredPower : Prop :=
  ∀ (s : State),
    (s.boot.phase = .ready →
      ∀ rails, none ∈ rails → exec (.avsReading rails) s = .next { s with power := { s.power with estSum := 0, estCount := 0 } })
    ∧ (∀ rails : List (Nat × Nat), s.boot.phase = .ready → 0 < s.power.estCount →
      ∃ t, exec (.avsReading (rails.map some)) s = .next t
        ∧ t.power.meas = BitVec.ofNat 16 ((rails.map fun r => r.1 * r.2).foldl (· + ·) 0 / 1000000)
        ∧ t.power.avg = BitVec.ofNat 16 (s.power.estSum / s.power.estCount / 1000) ∧ t.power.estCount = 0
        ∧ (s.power.distrust = false → 78 < s.power.above + s.power.estCount →
            s.power.cap.toNat < 5 * ((t.power.avg.toNat : Int) - t.power.meas.toNat).natAbs →
            t.power.distrust = true ∧ t.err.seq = s.err.seq + 1)
        ∧ (s.power.distrust = false → 5 * ((t.power.avg.toNat : Int) - t.power.meas.toNat).natAbs ≤ s.power.cap.toNat →
            t.power.distrust = false ∧ t.err = s.err)
        ∧ t.mem = s.mem ∧ t.clusters = s.clusters)
    ∧ (∀ sensor temp, s.pins.vddAon = true → s.pins.pwrgdMain = true → s.power.stopped = false → s.ledgerKept →
      ∃ t, exec (.chillTrip sensor temp) s = .next t ∧ t.power.stopped = true ∧ t.pins.thermtrip = true ∧ (∀ n < 4, t.lshut n = true)
        ∧ t.boot.ready = false ∧ (∀ p, (t.rport p).state = .dark) ∧ t.ledger.trip = some ⟨sensor, temp, s.cnt.regs.time⟩ ∧ t.running = [] ∧ t.run = none
        ∧ t.mem = s.mem ∧ t.patterns = s.patterns)
    ∧ (∀ sensor temp, s.power.stopped = true → exec (.chillTrip sensor temp) s = .next s)

/-- Samples, windows and the health score. In MODE 2 a record falls due each time the counter EVENT of the cluster passes a multiple of
64 × PERIOD, and COUNTER_SAMPLE writes the oldest that is due (R401, R402): of KIND 2, with the event, the crossing's cycle and a PC within
the skid, to the next slot, or, with 256 records and RING 0, counts it as dropped; a PC beyond the skid, and a command with none due, write
none (log entry 3). BANDWIDTH_WINDOW_END (R399): at a multiple of the
window length the counts become LAST, raise PEAK, and start again from zero. While the part is clocked: HEALTH_EVALUATION (R389): HEALTH
falls to raw at once and
rises to it only after 3,600 evaluations at 50 and more above. HEALTH_DECAY (R388, R389): 10 points for each stack of more than 1,024
corrected codewords, and each accumulator loses a sixteenth, rounded up, and is saved; that the ended hour's points come before the decay is
the model's reading (log entry 23). -/
def Obligations.CountersAndHealth : Prop :=
  ∀ (g : Fin 128) (pc : BitVec 18) (u : Fin 42) (s : State) (sm : Sampler) (w : BwUnit) (h : Health) (raw n d : Nat),
    sm = Tab.get Sampler.init s.cnt.regs.samp g.val → w = Tab.get BwUnit.init s.cnt.regs.bw u.val → h = s.err.health →
    raw = 1000 - min 1000 (h.dLocal + min 500 (h.dLink / 2)) →
    n = ((List.range 8).filter fun st => decide (1024 < Tab.get 0 s.err.hourCorr st)).length →
    d = (if n = 0 then h.dLocal else min 65535 (h.dLocal + 10 * n)) →
    (∀ x rest, sm.owed = x :: rest →
      (x.pcs.contains pc.toNat = true → sm.count < 256 ∨ sm.ctrl.getLsbD 29 = true →
        ∃ t, exec (.counterSample g pc) s = .next t
          ∧ Tab.get 0 t.cnt.slots (256 * g.val + sm.next) = sampleWord 0 (sm.ctrl.toNat / 2 ^ 24 % 32) x.cycle 2 7 pc.toNat
          ∧ (Tab.get Sampler.init t.cnt.regs.samp g.val)
              = { sm with owed := rest, next := (sm.next + 1) % 256, count := min 256 (sm.count + 1) })
      ∧ (x.pcs.contains pc.toNat = true → 256 ≤ sm.count → sm.ctrl.getLsbD 29 = false →
        ∃ t, exec (.counterSample g pc) s = .next t ∧ t.cnt.slots = s.cnt.slots
          ∧ (Tab.get Sampler.init t.cnt.regs.samp g.val) = { sm with owed := rest, dropped := min 4095 (sm.dropped + 1) })
      ∧ (x.pcs.contains pc.toNat = false → exec (.counterSample g pc) s = .next s))
    ∧ (sm.owed = [] → exec (.counterSample g pc) s = .next s)
    ∧ (∀ k m before, m < 32 → before = (Tab.get Ctr48.zero s.cnt.regs.ctr (ctrCluster g.val m)).n.toNat →
        sm.ctrl.toNat / 2 ^ 30 = 2 → sm.ctrl.toNat / 2 ^ 24 % 32 = m →
      (Tab.get Sampler.init (s.count (ctrCluster g.val m) k).cnt.regs.samp g.val).owed.length
        = sm.owed.length + if before / (64 * (sm.ctrl.toNat % 2 ^ 16)) < (before + k) / (64 * (sm.ctrl.toNat % 2 ^ 16)) then 1 else 0)
    ∧ (s.boot.phase = .ready → w.newW = none → s.cnt.regs.time.toNat % (25 * 2 ^ w.w.toNat) = 0 →
      ∃ t x, exec (.bandwidthWindowEnd u) s = .next t ∧ x = Tab.get BwUnit.init t.cnt.regs.bw u.val ∧ x.last0 = w.now0
        ∧ x.last1 = w.now1 ∧ x.peak0.toNat = max w.peak0.toNat w.now0.toNat ∧ x.peak1.toNat = max w.peak1.toNat w.now1.toNat
        ∧ x.now0 = 0 ∧ x.now1 = 0 ∧ x.windows.toNat = min (2 ^ 32 - 1) (w.windows.toNat + 1) ∧ x.w = w.w)
    ∧ (∀ v, s.boot.phase = .ready → w.newW = some v → s.cnt.regs.time.toNat % (25 * 2 ^ v.toNat) = 0 →
      ∃ t, exec (.bandwidthWindowEnd u) s = .next t ∧ Tab.get BwUnit.init t.cnt.regs.bw u.val = { BwUnit.init with w := v })
    ∧ (s.clocked = true → s.cnt.regs.time.toNat % 25000000 = 0 → (∀ l ∈ s.light.ports, l.serErr * 100000 ≤ l.serTotal) →
      ∃ t, exec .healthEvaluation s = .next t ∧ t.err.health.loc = 1000 - min 1000 h.dLocal
        ∧ t.err.health.health = (if raw < h.health ∨ h.health + 50 ≤ raw ∧ 3599 ≤ h.above then raw else h.health)
        ∧ t.err.health.dLocal = h.dLocal ∧ t.err.health.dLink = h.dLink ∧ t.err.log = s.err.log)
    ∧ (s.clocked = false ∨ s.cnt.regs.time.toNat % 25000000 ≠ 0 → exec .healthEvaluation s = .next s)
    ∧ (s.clocked = true → s.cnt.regs.time.toNat % 90000000000 = 0 → s.ledgerKept →
      ∃ t, exec .healthDecay s = .next t ∧ t.err.health.dLocal = d - (d + 15) / 16
        ∧ t.err.health.dLink = h.dLink - (h.dLink + 15) / 16 ∧ t.err.health.health = h.health ∧ t.ledger.health = t.err.health
        ∧ t.err.hourCorr = [])

/-- Fettle (R383, R392). A burst over codewords that all read clean changes no memory and moves the stack's pass on; a single wrong symbol
in it is written back corrected; on a stack in self-refresh it requests the stack on first. A codeword of scalar data memory with one
wrong symbol is written back corrected and counted, a poisoned one stays, and a cluster whose group is not ON is left alone; one of a
packet in a Tundish buffer is written back corrected too. The test of an OFF group enables it; once it is ON, its failing free positions
are retired and it is disabled; a pour that has come to use the group ends the test without a result (that the test is two commands and
ends so is the model's choice, log entry 78; what finds no occasion does nothing, log entry 3). -/
def Obligations.FettleScrubs : Prop :=
  ∀ (st : Fin 8) (s : State) (b : Nat), s.boot.phase = .ready → b = Tab.get 0 s.err.burst st.val →
    (s.seq (stackDomain st.val) = Sequencer.mk .off .none true →
      exec (.fettleHbmBurst st) s = .next (s.updSeq (stackDomain st.val) fun _ => ⟨.rising, .none, true⟩))
    ∧ ((s.seq (stackDomain st.val)).state = .on → s.burstSuspects (s.burstBase st.val) = [] →
      ∃ t, exec (.fettleHbmBurst st) s = .next t ∧ t.mem = s.mem ∧ t.err.corrHbm = s.err.corrHbm
        ∧ (b + 1 < 2048 → Tab.get 0 t.err.burst st.val = b + 1)
        ∧ (2048 ≤ b + 1 → Tab.get 0 t.err.burst st.val = 0
            ∧ Tab.get 0 t.err.stackPasses st.val = Tab.get 0 s.err.stackPasses st.val + 1))
    ∧ (∀ c e v, (s.seq (stackDomain st.val)).state = .on → s.burstSuspects (s.burstBase st.val) = [c] → isHbmCw .chip c = true →
        Tab.get 0 s.mem.chk (mapByteAddr c / 32) = 0 → s.mem.mapBitOf c = false → Tab.get 0 s.mem.chk c ≠ 0 →
        singleError (Tab.get 0 s.mem.chk c) = some (e, v) →
      ∃ t, exec (.fettleHbmBurst st) s = .next t ∧ Tab.get 0 t.mem.chk c = 0
        ∧ t.mem.raw (32 * c) 32 = fixData (s.mem.raw (32 * c) 32) e v)
    ∧ (∀ g c e v, s.clusterOn g = true → Tab.get 0 (s.cl g).dmem.chk c ≠ 0 →
        singleError (Tab.get 0 (s.cl g).dmem.chk c) = some (e, v) →
      ∃ t, exec (.fettleSramSlot (.scalar g c)) s = .next t ∧ Tab.get 0 (t.cl g).dmem.chk c = 0
        ∧ (t.cl g).dmem.raw (32 * c) 32 = fixData ((s.cl g).dmem.raw (32 * c) 32) e v
        ∧ t.err.corrSram = s.err.corrSram.add 1 ∧ t.mem = s.mem)
    ∧ (∀ g c, s.clusterOn g = true → classify (Tab.get 0 (s.cl g).dmem.chk c) = .poisoned none →
      ∃ t, exec (.fettleSramSlot (.scalar g c)) s = .next t ∧ (t.cl g).dmem = (s.cl g).dmem ∧ t.err = s.err)
    ∧ (∀ g c, s.clusterOn g = false → exec (.fettleSramSlot (.scalar g c)) s = .next s)
    ∧ (∀ port ch c e v, (s.window port ch).buffer ≠ none → Tab.get 0 (s.window port ch).bytes.chk c ≠ 0 →
        singleError (Tab.get 0 (s.window port ch).bytes.chk c) = some (e, v) →
      ∃ t, exec (.fettleSramSlot (.tundish (.window port ch) c)) s = .next t ∧ Tab.get 0 (t.window port ch).bytes.chk c = 0
        ∧ (t.window port ch).bytes.raw (32 * c) 32 = fixData ((s.window port ch).bytes.raw (32 * c) 32) e v ∧ t.mem = s.mem)
    ∧ (∃ t, exec (.fettleSramSlot .passEnd) s = .next t ∧ t.err.sramPasses.toNat = min 65535 (s.err.sramPasses.toNat + 1))
    ∧ (∀ (die : Fin 2) (group : Fin 9) (bad : BitVec 66) (k : Nat), k = 9 * die.val + group.val →
      (s.err.offTest = none → (s.seq k).state = .off →
        exec (.fettleOffGroupTest die group bad) s = .next ({ s with err := { s.err with offTest := some k } }.updSeq k Sequencer.enable))
      ∧ (s.err.offTest = some k → (s.seq k).state = .on → s.groupBusy k = false → s.ledgerKept →
          (∀ pos < 66, bad.getLsbD pos = true → pos / 8 = group.val → s.ident.bist (die.val = 1) ≠ some pos
            ∧ ∀ c < 64, Tab.get none s.ident.clmap (64 * die.val + c) ≠ some pos) →
        ∃ t, exec (.fettleOffGroupTest die group bad) s = .next t ∧ t.ident.clmap = s.ident.clmap ∧ t.err.offTest = none
          ∧ (t.seq k).state = .falling
          ∧ ∀ pos ∈ s.ident.spares (die.val = 1), pos < 66 → bad.getLsbD pos = true → pos / 8 = group.val →
              t.isRetired (decide (die.val = 1)) pos = true ∧ pos ∉ t.ident.spares (die.val = 1))
      ∧ (s.err.offTest = some k → (s.seq k).state = .on → s.groupBusy k = true →
        ∃ t, exec (.fettleOffGroupTest die group bad) s = .next t ∧ t.err = { s.err with offTest := none } ∧ t.ident = s.ident
          ∧ t.mem = s.mem ∧ t.run = s.run ∧ t.riser = s.riser)
      ∧ (s.err.offTest = none → (s.seq k).state ≠ .off → exec (.fettleOffGroupTest die group bad) s = .next s))

/-! ### Riser, Sprue and host ports -/

/-- While the part is clocked. RISER_WRITE_FAIL, with the two copies equal (R255, R256): with both in service, and not both on a die whose
MRAM stops answering (no line), the copy is rebuilt in a spare region that has not failed and is not in use, or is lost where there is
none; the other copy stays in service and the ledger reads as before. With no other copy left in service the RISER_LOST state holds, and
no pour runs or is bound; that a copy under rebuild reads lost too is the model's reading (log entry 35). RISER_REBUILD_DONE puts the copy
in service with the other's data, every line valid, its 2,048 lines counted as written (R259). SPRUE_TAKEOVER has the standby serve with
the state as it is, the pair that served noted as failed (R247). Not clocked, with the copy lost, or without a ready standby nothing
happens (the model's choice, log entry 3). -/
def Obligations.RiserAndSprue : Prop :=
  ∀ (n : Fin 2) (line : Option RLine) (s : State),
    (s.riser.lost = false → s.riser.copy0.state = .inService → s.riser.copy1.state = .inService →
        s.riser.copy0.data = s.riser.copy1.data → s.clocked = true → (line ≠ none ∨ s.riser.copy0.die ≠ s.riser.copy1.die) →
      ∃ t, exec (.riserWriteFail n line) s = .next t
        ∧ (match line with
           | some _ => t.riser.failed = s.riser.failed ||| (1#4 <<< mramRegion (s.riser.copy n).die (s.riser.copy n).spare)
           | none => t.riser.failed = s.riser.failed ||| (3#4 <<< mramRegion (s.riser.copy n).die false))
        ∧ (let die := (s.riser.copy n).die
           let o := s.riser.otherCopy n
           let free (d : Bool) : Bool := !t.riser.failed.getLsbD (mramRegion d true) && !(o.die == d && o.spare)
           (t.riser.copy n).state = if free die || free (!die) then .rebuilding else .lost)
        ∧ (t.riser.otherCopy n).state = .inService ∧ t.riser.lost = false ∧ t.err.seq = s.err.seq + 1
        ∧ (∀ i, t.entry i = s.entry i) ∧ (∀ c, t.chan c = s.chan c) ∧ t.run = s.run ∧ t.mem = s.mem)
    ∧ (s.riser.lost = false → s.clocked = true → (s.riser.copy n).state = .inService →
        ((s.riser.otherCopy n).state ≠ .inService ∨ line = none ∧ s.riser.copy0.die = s.riser.copy1.die) →
      ∃ t, exec (.riserWriteFail n line) s = .next t ∧ t.riser.lost = true ∧ t.riser.copy0.state = .lost
        ∧ t.riser.copy1.state = .lost ∧ t.running = [] ∧ t.run = none ∧ t.intake.bound = [] ∧ t.mem = s.mem)
    ∧ (s.clocked = false ∨ s.riser.lost = true ∨ (s.riser.copy n).state = .lost → exec (.riserWriteFail n line) s = .next s)
    ∧ (s.clocked = true → (s.riser.copy n).state = .rebuilding → (s.riser.otherCopy n).state = .inService →
      ∃ t, exec .riserRebuildDone s = .next t
        ∧ t.riser.copy n = RiserCopy.whole (s.riser.copy n).die (s.riser.copy n).spare (s.riser.otherCopy n).data
        ∧ t.riser.otherCopy n = s.riser.otherCopy n ∧ t.riser.writes = (s.riser.copy n).countWrites 2048 s.riser.writes)
    ∧ (s.clocked = false → exec .riserRebuildDone s = .next s)
    ∧ (s.sprue.standbyReady = true → s.clocked = true →
      ∃ t, exec .sprueTakeover s = .next t ∧ t.sprue = ⟨!s.sprue.activeB1, false, s.sprue.failed0 || !s.sprue.activeB1, s.sprue.failed1 || s.sprue.activeB1⟩
        ∧ t.running = s.running ∧ t.run = s.run
        ∧ t.chans = s.chans ∧ t.intake = s.intake ∧ t.mem = s.mem)
    ∧ (s.sprue.standbyReady = false ∨ s.clocked = false → exec .sprueTakeover s = .next s)
    ∧ exec .standbySprueFailure s
        = .next { s with sprue := ⟨s.sprue.activeB1, false, s.sprue.failed0 || s.sprue.activeB1, s.sprue.failed1 || !s.sprue.activeB1⟩ }

/-- Events of one host port, which leave the other port's registers alone (R194 to R196, R364, R365, R410, R411, R414). HOST_LINK_DOWN
drops the IDE keys. HOST_LINK_UP and BUS_MASTER_ENABLE bring the port back, the first only out of reset. With BUS_MASTER_ENABLE the port's
MSI-X configuration and its configuration registers stand as the command carries them (the model's choice, log entry 76): a pending
message is sent if MSI-X is enabled and neither the function nor its vector is masked, and else stays pending. PERST_N and FLR clear the
port's intake windows, its keys, its sessions and Bus Master Enable, mask every vector (log entry 76), and give the configuration
registers their reset values (PRESUMED, log entry 85); an FLR acts in a boot too; their ends leave the reset. SPDM_REQUEST is answered
while the Assay is OPERATIONAL. A key exchange opens a session with keys from the ECDHE secret, of at most four; a key, an end or an IDE
key is taken in a session that stands, and elsewhere changes none (R364, R365; the codes and labels are log entry 41).
IDE_INTEGRITY_FAILURE makes a secure stream insecure and AER notes it (bit 28, PRESUMED, log entry 85); no access that the stream carries
reaches the part from then on. What finds no occasion leaves all as it is (the model's choice, log entry 3). -/
def Obligations.HostPortEvents : Prop :=
  ∀ (p q : HostPort) (s : State), q ≠ p →
    (∃ t, exec (.hostLinkDown p) s = .next t
      ∧ t.port p = { s.port p with linkUp := false, linkIde := .off, selIde := .off, linkKey := [], selKey := [] }
      ∧ t.port q = s.port q ∧ t.intake = s.intake ∧ t.riser = s.riser)
    ∧ (s.pins.pwrgdMain = true → (s.port p).perst = false → (s.port p).linkUp = false → s.boot.phase ≠ .warmEntry → s.boot.phase ≠ .off →
      ∃ t, exec (.hostLinkUp p) s = .next t ∧ (t.port p).linkUp = true ∧ (t.port p).busMaster = (s.port p).busMaster
        ∧ t.port q = s.port q ∧ t.intake = s.intake ∧ t.mem = s.mem)
    ∧ ((s.port p).perst = true → exec (.hostLinkUp p) s = .next s)
    ∧ (∀ (m : MsixConfig) (setup : PcieSetup), s.portOpen p = true →
      ∃ t, exec (.busMasterEnable ⟨p, m, setup⟩) s = .next t ∧ (t.port p).busMaster = true ∧ (t.port p).msixConfig = m
        ∧ (t.port p).setup = setup ∧ t.port q = s.port q ∧ t.mem = s.mem
        ∧ ∀ v < 65, if m.enable = true ∧ m.functionMask = false ∧ (∃ e, m.table[v]? = some e ∧ e.getLsbD 96 = false)
            then (t.port p).pending.getLsbD v = false ∧ ((s.port p).pending.getLsbD v = true → HostOut.msix v ∈ (t.port p).out)
            else (s.port p).pending.getLsbD v = true → (t.port p).pending.getLsbD v = true)
    ∧ (∀ m setup, s.portOpen p = false → exec (.busMasterEnable ⟨p, m, setup⟩) s = .next s)
    ∧ (∃ t, exec (.perstN p) s = .next t ∧ (t.port p).perst = true ∧ (t.port p).linkUp = false ∧ (t.port p).unset
      ∧ (∀ c < 64, t.window p c = Window.idle)
      ∧ t.port q = s.port q ∧ (∀ c < 64, t.window q c = s.window q c) ∧ t.riser = s.riser ∧ t.running = s.running)
    ∧ (∃ t, exec (.perstNRelease p) s = .next t ∧ t.port p = { s.port p with perst := false } ∧ t.port q = s.port q
      ∧ t.intake = s.intake)
    ∧ ((s.port p).linkUp = true → (s.port p).perst = false → (s.port p).flr = false →
      ∃ t, exec (.flr p) s = .next t ∧ (t.port p).flr = true ∧ (t.port p).unset
        ∧ (∀ c < 64, t.window p c = Window.idle) ∧ t.port q = s.port q ∧ t.riser = s.riser ∧ t.running = s.running ∧ t.boot = s.boot)
    ∧ ((s.port p).linkUp = false ∨ (s.port p).perst = true ∨ (s.port p).flr = true → exec (.flr p) s = .next s)
    ∧ ((s.port p).flr = true →
      ∃ t, exec (.flrComplete p) s = .next t ∧ (t.port p).flr = false ∧ t.port q = s.port q ∧ t.mem = s.mem)
    ∧ ((s.port p).flr = false → exec (.flrComplete p) s = .next s)
    ∧ (∀ m : SpdmMessage, s.portOpen p = true → s.assay.mode = .operational →
      ∃ t bs, exec (.spdmRequest p m) s = .next t ∧ (t.port p).out = (s.port p).out ++ [HostOut.doe bs] ∧ t.port q = s.port q
        ∧ t.mem = s.mem ∧ t.running = s.running
        ∧ (∀ pub d, m = ⟨none, .keyExchange pub, m.size⟩ → d = p384KeyFrom ((s.hostTlp p false m.size).drawBytes 56).1 →
          (4 ≤ (s.port p).sessions.length ∨ kasEcc d pub = none → (t.port p).sessions = (s.port p).sessions)
          ∧ (∀ z, (s.port p).sessions.length < 4 → kasEcc d pub = some z →
            (t.port p).sessions = (s.port p).sessions ++ [⟨(s.port p).freeSession,
              (sessionKeys z (sha384 (pub ++ p384Public d))).1, (sessionKeys z (sha384 (pub ++ p384Public d))).2, 0⟩]))
        ∧ (∀ n, m.session = some n → (∃ x ∈ (s.port p).sessions, x.id = n) →
          (m.req = .endSession → (t.port p).sessions = (s.port p).sessions.filter fun x => x.id ≠ n)
          ∧ (∀ sel k, m.req = .ideKeys sel k → if sel then (t.port p).selIde = .secure ∧ (t.port p).selKey = leBytes 32 k.toNat
                ∧ (t.port p).linkIde = (s.port p).linkIde
              else (t.port p).linkIde = .secure ∧ (t.port p).linkKey = leBytes 32 k.toNat ∧ (t.port p).selIde = (s.port p).selIde)
          ∧ (m.req = .keyUpdate → (t.port p).sessions = (s.port p).sessions.map fun x =>
              if x.id = n then { x with key := (sessionKeys x.key []).1, iv := (sessionKeys x.key []).2, sent := 0 } else x))
        ∧ ((∀ n, m.session = some n → ∀ x ∈ (s.port p).sessions, x.id ≠ n) → (∀ pub, m.req ≠ .keyExchange pub) →
          (t.port p).sessions = (s.port p).sessions ∧ (t.port p).linkIde = (s.port p).linkIde ∧ (t.port p).selIde = (s.port p).selIde))
    ∧ (∀ m : SpdmMessage, s.portOpen p = true → s.assay.mode ≠ .operational →
      exec (.spdmRequest p m) s = .next (s.hostTlp p false m.size))
    ∧ (∀ m, s.portOpen p = false → exec (.spdmRequest p m) s = .next s)
    ∧ (∀ sel : Bool, (if sel then (s.port p).selIde else (s.port p).linkIde) = .secure →
      ∃ t, exec (.ideIntegrityFailure p sel) s = .next t ∧ (if sel then (t.port p).selIde else (t.port p).linkIde) = .insecure
        ∧ (if sel then (t.port p).linkIde = (s.port p).linkIde else (t.port p).selIde = (s.port p).selIde)
        ∧ (t.port p).aerUncor = (s.port p).aerUncor ||| 0x10000000
        ∧ t.hostReach p = (s.hostReach p && !sel && decide ((s.port p).selIde ≠ .off)) ∧ t.portOpen p = s.portOpen p
        ∧ t.port q = s.port q
        ∧ Tab.get Ctr48.zero t.cnt.regs.ctr (ctrHost p.toNat 7) = (Tab.get Ctr48.zero s.cnt.regs.ctr (ctrHost p.toNat 7)).add 1)
    ∧ (∀ sel : Bool, (if sel then (s.port p).selIde else (s.port p).linkIde) ≠ .secure →
      exec (.ideIntegrityFailure p sel) s = .next s)

/-! ### Resets, boot and the sideband -/

/-- Resets and the loss of power (R405, R415, R424, R425). A cold reset, by PWRGD_MAIN, a rail or AON_CLK, loses HBM, clusters, patterns,
pours and the flask and keeps the entries and commit slots of the MRAM, OTP, boot flash and CNT_TIME; a loss of VDD_AON loses the time too;
an orderly fall of PWRGD_AON changes only the pin. A reset that falls among the ledger writes of its period (R240, R412, R415) leaves the
copies at some point between two copy writes, the copy on the serving Sprue's die first; by PWRGD_MAIN or WARM_RESET no line is torn (that
only the writes of the same period of AON_CLK can be cut, and where, is the model's choice, log entries 20 and 73; that the flask record
is deleted by the boot and not at the fall of PWRGD_MAIN is its reading, log entry 57).
WARM_RESET (R412, R393, R346): HBM, the ledger, the loaded patterns, OTP, the bottom tree, the error log, the cap and CNT_TIME stay; the
clusters' memories, the Runner and the intake are as after a reset; a running RUN keeps its place, its attempt ended with SLOT_COLLISION
(0x0301), for a replay where it is restartable; other pours wait again, but for a RUN that is not
restartable, which ends with SLOT_COLLISION. An event that finds the pin already so does nothing (the model's choice, log entry 3). -/
def Obligations.Resets : Prop :=
  (∀ (s : State), s.linesQuiet →
    (s.pins.pwrgdMain = true →
      (∃ t, exec .coldReset s = .next t ∧ t.coldFrom s ∧ t.cnt.regs.time = s.cnt.regs.time
        ∧ t.pins = { s.pins with pwrgdMain := false })
      ∧ (∃ t, exec .railOutOfRange s = .next t ∧ t.coldFrom s ∧ t.cnt.regs.time = s.cnt.regs.time ∧ t.pins = s.pins)
      ∧ (s.pins.vddAon = true → ∃ t, exec .aonClkLoss s = .next t ∧ t.coldFrom s ∧ t.cnt.regs.time = s.cnt.regs.time
        ∧ t.pins = { s.pins with aonClk := false })
      ∧ (s.pins.pwrgdAon = true → ∃ t, exec .pwrgdAonFall s = .next t ∧ t.coldFrom s ∧ t.cnt.regs.time = 0
        ∧ t.pins.pwrgdAon = false ∧ t.boot.done = 0))
    ∧ (s.pins.pwrgdMain = false →
      exec .coldReset s = .next s ∧ exec .railOutOfRange s = .next s
      ∧ (s.pins.pwrgdAon = true → exec .pwrgdAonFall s = .next { s with pins := { s.pins with pwrgdAon := false } }))
    ∧ (s.pins.vddAon = true →
      ∃ t, exec .vddAonLoss s = .next t ∧ t.coldFrom s ∧ t.cnt.regs.time = 0 ∧ t.pins.vddAon = false ∧ t.pins.pwrgdAon = false)
    ∧ (s.pins.vddAon = false →
      ∃ t, exec .vddAonApplied s = .next t ∧ t.pins.vddAon = true ∧ t.pins.aonClk = true ∧ t.cnt.regs.time = 0
        ∧ t.riser = s.riser ∧ t.assay = s.assay)
    ∧ (s.pins.vddAon = true → exec .vddAonApplied s = .next s))
  ∧ (∀ (s : State), s.pins.vddAon = true → s.pins.pwrgdAon = true → s.pins.pwrgdMain = true → s.power.stopped = false →
    s.boot.phase ≠ .off → s.boot.phase ≠ .warmEntry →
    (∃ t, exec .warmReset s = .next t ∧ t.cutFrom s ∧ (∀ l ∈ t.riser.copy0.bad, l ∈ s.riser.copy0.bad)
        ∧ ∀ l ∈ t.riser.copy1.bad, l ∈ s.riser.copy1.bad)
    ∧ (s.linesQuiet → ∃ t, exec .warmReset s = .next t ∧ t.boot.phase = .warmEntry ∧ t.boot.ready = false ∧ t.pins = { s.pins with warmResetN := false }
      ∧ (∀ a < windowBase, t.mem.byte a = s.mem.byte a) ∧ (∀ a < 128 * windowSize, t.mem.byte (windowBase + a) = 0)
      ∧ (∀ i, t.entry i = s.entry i) ∧ (∀ c, t.chan c = s.chan c) ∧ t.patterns = s.patterns ∧ t.assay.otp = s.assay.otp
      ∧ t.assay.bottom = s.assay.bottom ∧ t.err.log = s.err.log ∧ t.err.seq = s.err.seq ∧ t.power.cap = s.power.cap
      ∧ t.cnt.regs.time = s.cnt.regs.time ∧ t.clusters = [] ∧ t.intake.received = [] ∧ t.intake.bound = []
      ∧ t.runner.ports = Runner.init.ports ∧ t.light.enabled = false
      ∧ (s.run = none → t.run = none)
      ∧ (∀ r, s.run = some r → ∃ y, t.run = some y ∧ y.fault = some (0x0301, (s.entry r.entry).restartable) ∧ y.entry = r.entry)
      ∧ (∀ c < 64, ∀ x, s.runningOf c = some x →
          if ∃ r, s.run = some r ∧ r.chan = c then ∃ z, t.runningOf c = some z ∧ z.outcome = none ∧ z.body = x.body
          else if x.cls = .run ∧ (s.entry x.entry).restartable = false then
            ∃ z o, t.runningOf c = some z ∧ z.outcome = some o ∧ o.status = 0x0301 ∧ o.ok = false
          else t.runningOf c = none)))
  ∧ (∀ (s : State), s.pins.pwrgdMain = true →
    (∃ t, exec .coldReset s = .next t ∧ t.cutFrom s ∧ (∀ l ∈ t.riser.copy0.bad, l ∈ s.riser.copy0.bad)
      ∧ ∀ l ∈ t.riser.copy1.bad, l ∈ s.riser.copy1.bad)
    ∧ ∃ t, exec .railOutOfRange s = .next t ∧ t.cutFrom s)

/-- Boot (R7, R27, R345, R406, R407, R409, R423). PWRGD_AON rising clears BOOT_STATUS. BOOT_START samples the straps as CHIP_ID and, with
PWRGD_AON high, starts a cold boot; WARM_BOOT_START a warm one. Stages: the self-test makes the Assay OPERATIONAL, or stops the boot with
CAUSE 1 and its own cause; a decommissioned part stops so at every boot (R372); no slot that passes stops it with CAUSE 2; a cold boot has
both Sprue pairs unless one had failed and is not found working (R247); a stack that fails with CAUSE 3, and in a cold boot HBM is zeroed;
more than one floor-link lane of a die with a threshold not placed or less than 1.5 dB with CAUSE 4, and one such lane leaves service
(R319, R320); with no position retired, logical cluster c takes position c; stage 7 as the last one leaves the part ready, with the laser
groups enabled. A start or a stage that is not due does nothing (the model's choice, log entry 3). -/
def Obligations.BootStages : Prop :=
  ∀ (s : State) (slot : BitVec 3) (board : BitVec 15),
    (s.pins.vddAon = true → s.pins.pwrgdAon = false →
      ∃ t, exec .pwrgdAonRise s = .next t ∧ t.pins.pwrgdAon = true ∧ t.boot.status = 0 ∧ t.riser = s.riser)
    ∧ (s.pins.vddAon = true → s.pins.pwrgdMain = false →
      ∃ t, exec (.bootStart slot board) s = .next t ∧ t.pins.pwrgdMain = true ∧ t.pins.thermtrip = false
        ∧ t.ident.chipId.toNat = board.toNat * 8 + slot.toNat
        ∧ (if s.pins.pwrgdAon then t.boot.phase = .booting ∧ t.boot.kind = 1 ∧ t.boot.done = 0 ∧ t.boot.ready = false
            else t.boot = s.boot) ∧ t.riser = s.riser)
    ∧ (s.pins.pwrgdMain = true → exec (.bootStart slot board) s = .next s)
    ∧ (s.boot.phase = .warmEntry →
      ∃ t, exec .warmBootStart s = .next t ∧ t.boot.phase = .booting ∧ t.boot.kind = 2 ∧ t.boot.done = 0
        ∧ t.pins.warmResetN = true ∧ t.riser = s.riser ∧ t.mem = s.mem)
    ∧ (s.boot.phase ≠ .warmEntry → exec .warmBootStart s = .next s)
    ∧ (∀ n r, s.stageRuns n = false → exec (.bootStageDone n r) s = .next s)
    ∧ (s.stageRuns 1 = true → s.assay.mode = .selfTest → s.assay.otp.decommissioned = false →
      (∃ t, exec (.bootStageDone 1 .ok) s = .next t ∧ t.assay.mode = .operational ∧ t.boot.done = s.boot.done ||| 1)
      ∧ ∀ c, ∃ t, exec (.bootStageDone 1 (.selfTest c)) s = .next t ∧ t.assay.mode = .error ∧ t.boot.phase = .stopped
          ∧ t.boot.cause = 1 ∧ t.boot.causeIndex = c ∧ t.boot.ready = false)
    ∧ (s.stageRuns 1 = true → s.assay.otp.decommissioned = true → s.assay.mode ≠ .decommissioned → ∀ r,
      ∃ t, exec (.bootStageDone 1 r) s = .next t ∧ t.assay.mode = .decommissioned ∧ t.assay.cause = 6 ∧ t.boot.phase = .stopped
        ∧ t.boot.cause = 1)
    ∧ (s.stageRuns 2 = true → s.chooseSlot.slot = none →
      ∃ t, exec (.bootStageDone 2 .ok) s = .next t ∧ t.boot.phase = .stopped ∧ t.boot.cause = 2 ∧ t.boot.ready = false)
    ∧ (s.stageRuns 3 = true → s.boot.recoverCold = true → ∀ works,
      ∃ t, exec (.bootStageDone 3 (.sprue works)) s = .next t
        ∧ t.sprue = (if works = true ∨ (s.sprue.failed0 = false ∧ s.sprue.failed1 = false) then ⟨false, true, false, false⟩
            else if s.sprue.failed0 = true ∧ s.sprue.failed1 = false then ⟨true, false, true, false⟩ else ⟨false, false, false, true⟩))
    ∧ (∀ (scans : List LaneScan), ∀ i < 400, (failMask scans).getLsbD i = true ↔ ¬∃ c, scans[i]? = some c ∧ c.eyes.all Option.isSome = true
        ∧ 150 ≤ min (attenuation c.p0 c.low.2) (attenuation c.p0 c.high.2))
    ∧ (s.stageRuns 6 = true → ∀ b0 b1 src out0 out1, out0 = failMask b0 → out1 = failMask b1 →
      (1 < laneCount out0 ∨ 1 < laneCount out1 →
        ∃ t, exec (.bootStageDone 6 (.optics b0 b1 src)) s = .next t ∧ t.boot.phase = .stopped ∧ t.boot.cause = 4
          ∧ t.boot.causeIndex = (if 1 < laneCount out0 then 0 else 1) ∧ t.boot.ready = false)
      ∧ (laneCount out0 ≤ 1 → laneCount out1 ≤ 1 →
        ∃ t, exec (.bootStageDone 6 (.optics b0 b1 src)) s = .next t ∧ t.light.out 0 = out0 ∧ t.light.out 1 = out1
          ∧ t.light.srcPresent = src ∧ t.mem = s.mem))
    ∧ (s.stageRuns 4 = true → (∀ st, ∃ t, exec (.bootStageDone 4 (.stackFailed st)) s = .next t ∧ t.boot.phase = .stopped
          ∧ t.boot.cause = 3 ∧ t.boot.causeIndex.toNat = st.toNat)
      ∧ (s.boot.zeroHbm = true → ∃ t, exec (.bootStageDone 4 .ok) s = .next t ∧ (∀ a < hbmEnd, t.mem.byte a = 0)
          ∧ (∀ k < 8, (t.seq (stackDomain k)).state = .on) ∧ t.boot.done = s.boot.done ||| 8))
    ∧ (s.stageRuns 5 = true → s.boot.buildMap = true → s.ledger.retired0 = 0 → s.ledger.retired1 = 0 →
      ∃ t, exec (.bootStageDone 5 .ok) s = .next t
        ∧ (∀ c < 64, Tab.get none t.ident.clmap c = some c ∧ Tab.get none t.ident.clmap (64 + c) = some c)
        ∧ t.ident.spares0 = [64, 65] ∧ t.ident.spares1 = [64, 65] ∧ t.ident.short0 = false ∧ t.ident.short1 = false)
    ∧ (s.stageRuns 7 = true → s.boot.done ||| 0x40 = 0xFF → s.assay.bottom.isSome = true → s.runner.flask = none →
      ∃ t, exec (.bootStageDone 7 .ok) s = .next t ∧ t.boot.phase = .ready ∧ t.boot.status.getLsbD 31 = true ∧ t.boot.done = 0xFF
        ∧ t.light.enabled = true ∧ t.ident.trained = 0xFF ∧ t.running = s.running ∧ t.mem = s.mem)

/-- Stage 3 of a cold boot (R252, R253): a pour that had no fixed outcome when the power went is SURRENDERED (0x0703), DETAIL telling
whether it had started; its channel counts it as its last accepted pour and its final reply waits for the ring. No pattern is loaded.
Stated for the one entry that is held. -/
def Obligations.PoursSurrendered : Prop :=
  ∀ (s : State) (i : Nat) (e : Entry), s.stageRuns 3 = true → s.boot.recoverCold = true → s.riser.lost = false →
    s.riser.copy0.state = .inService → s.riser.copy1.state = .inService → s.riser.copy0.data = s.riser.copy1.data →
    s.riser.copy0.bad = [] → s.riser.copy1.bad = [] → s.riser.copy0.held = 2048 → s.riser.copy1.held = 2048 →
    i < 1024 → e = s.entry i → (∀ j, j ≠ i → (s.entry j).state = .free) → (e.state = .accepted ∨ e.state = .running) →
    e.chan.toNat < 64 → (s.chan e.chan.toNat).state ≠ .closed → (s.chan e.chan.toNat).replied.toNat < e.pour.toNat →
    ∃ t, exec (.bootStageDone 3 .ok) s = .next t ∧ (t.entry i).state = .done ∧ (t.entry i).status = 0x0703
      ∧ (t.entry i).detail = (if e.started then 1 else 0) ∧ (t.entry i).pour = e.pour
      ∧ (∀ j, j ≠ i → (t.entry j).state = .free) ∧ (t.chan e.chan.toNat).accepted = e.pour
      ∧ (t.vchan e.chan.toNat).replyQ = [replyOf (t.entry i)] ∧ t.patterns = []

/-- The sideband (R369, R409, R428 to R430). MCTP_BOOT_STATUS and ERR_LOG_SEQ_READ answer the board controller from address 0x30 +
SLOT_ID, the second releasing SMB_ALERT_N. QSPI_HOLD follows its pin, and the board's bytes reach the boot flash while the hold stands, with
QSPI_BUSY low; bytes of a FIRMWARE_STAGE that waited are written as the hold ends. JTAG: with TRST_N low the TAP
holds IDCODE; IDCODE shifts out 0x10800A5F, and BYPASS, which is also what the all-ones code selects and EXTEST is with PWRGD_MAIN high, one
bit behind its input. SAMPLE and EXTEST shift the 44 lands out and the new values in; EXTEST with PWRGD_MAIN low drives them (the order of
the cells is the model's choice, log entry 44). -/
def Obligations.Sideband : Prop :=
  ∀ (s : State),
    (s.pins.vddAon = true → s.pins.pwrgdAon = true →
      ∃ t x, exec .mctpBootStatus s = .next t ∧ t = { s with mctpOut := s.mctpOut ++ [x] }
        ∧ x.address.toNat = 0x30 + s.ident.chipId.toNat % 8 ∧ x.word.setWidth 8 = s.boot.done
        ∧ (x.word >>> 8).setWidth 8 = s.boot.causeIndex ∧ (x.word >>> 16).setWidth 8 = s.boot.cause
        ∧ (x.word >>> 28).setWidth 2 = s.boot.kind ∧ x.word.getLsbD 30 = s.boot.stopped ∧ x.word.getLsbD 31 = s.boot.ready)
    ∧ (s.pins.vddAon = true → s.pins.pwrgdAon = true →
      ∃ x, exec .errLogSeqRead s = .next { s with mctpOut := s.mctpOut ++ [x], pins := { s.pins with smbAlert := false } }
        ∧ x.address.toNat = 0x30 + s.ident.chipId.toNat % 8 ∧ x.word = s.err.seq)
    ∧ (∀ (level : Bool) (a : Nat) (b : Byte), a < 2 ^ 26 →
        (∀ c < 64, ∀ r x, s.runningOf c = some r → r.transfer = some x → x.rest = []) →
      ∃ t, exec (.qspiHold level [(a, b)]) s = .next t ∧ t.pins = { s.pins with qspiHold := !level }
        ∧ (level = false → t.qspiBusy = false)
        ∧ ∀ x, Tab.get 0xFF t.assay.flash x
          = if x = a ∧ (s.pins.qspiHold = true ∨ level = false) then b else Tab.get 0xFF s.assay.flash x)
    ∧ (∀ (c : Fin 64) (r : Running) (x : Transfer) (a : Nat), s.runningOf c.val = some r → r.transfer = some x → r.outcome = none →
        r.body.opcode = 0x61 → x.rest ≠ [] → x.done < x.total →
        (∀ d < 64, d ≠ c.val → ∀ q y, s.runningOf d = some q → q.transfer = some y → y.rest = []) →
        a = slotBase s.stagedSlot + fieldOf r.body.pay 64 32 + (x.done - x.rest.length) →
      ∃ t, exec (.qspiHold true []) s = .next t ∧ t.pins.qspiHold = false
        ∧ t.runningOf c.val = some { r with transfer := some { x with rest := [] } }
        ∧ ∀ b, Tab.get 0xFF t.assay.flash b
          = if a ≤ b ∧ b < a + x.rest.length then x.rest.getD (b - a) 0 else Tab.get 0xFF s.assay.flash b)
    ∧ (∃ t, exec (.jtagInstruction (.trst false)) s = .next t ∧ t.jtag.trstN = false ∧ t.jtag.ir = .idcode
      ∧ ∀ op, (∀ l, op ≠ .trst l) → exec (.jtagInstruction op) t = .next t)
    ∧ (s.jtag.trstN = true → exec (.jtagInstruction (.loadIr 0xFF)) s = .next { s with jtag := { s.jtag with ir := .bypass } })
    ∧ (∀ (x reg : List Bool), s.jtag.trstN = true →
        (s.jtag.ir = .idcode ∧ reg = (List.range 32).map (0x10800A5F : BitVec 32).getLsbD
          ∨ (s.jtag.ir = .bypass ∨ s.jtag.ir = .extest ∧ s.pins.pwrgdMain = true) ∧ reg = [false]) →
      exec (.jtagInstruction (.shiftDr x)) s
        = .next { s with jtag := { s.jtag with dr := (reg ++ x).drop x.length, out := (reg ++ x).take x.length } })
    ∧ s.lands.length = 44
    ∧ (∀ x, s.jtag.trstN = true → s.jtag.ir = .sample ∨ s.jtag.ir = .extest ∧ s.pins.pwrgdMain = false →
      ∃ t, exec (.jtagInstruction (.shiftDr x)) s = .next t ∧ t.jtag.out = (s.lands ++ x).take x.length
        ∧ t.jtag.dr = (s.lands ++ x).drop x.length ∧ t.pins = s.pins
        ∧ (s.jtag.ir = .extest → ∀ n < 44, landInput n = false → t.lands.getD n false = t.jtag.dr.getD n false))

/-! ### Frames and floor-link slots on their lanes -/

/-- The forms on the wire (R263, R264, R314, R318). Scrambling twice with one seed gives the bytes back. The header's 32 bytes hold SEQ at
bits 64 to 111, ACK_SEQ at 112 to 159 and ARG at 192 to 255; a frame of COUNT codewords has 1,440 bytes, and byte b of it is what its
lane, in service by round-robin, gives when it is descrambled. On the floor link each of the 400 lanes carries nine symbols of a slot,
every symbol of the slot's 100 codewords has one lane, and no lane carries two symbols of one codeword, so one lane out damages none. A
lane in service gives its symbols when it is descrambled, and one out of service zeros, so that the keystream alone is sent (R319). -/
def Obligations.WireForms : Prop :=
  (∀ seed bs, (scramble seed bs).length = bs.length ∧ scramble seed (scramble seed bs) = bs)
  ∧ (∀ f : Frame, f.count < 64 → (frameHeader f).length = 32
      ∧ leNat (frameHeader f) / 2 ^ 64 % 2 ^ 48 = f.seq.toNat ∧ leNat (frameHeader f) / 2 ^ 112 % 2 ^ 48 = f.ackSeq.toNat
      ∧ leNat (frameHeader f) / 2 ^ 192 = f.arg.toNat)
  ∧ (∀ x : LineFrame, x.frame.count ≤ 39 → x.frame.payload.length = 32 * x.frame.count → lanesOf x.lanes ≠ [] →
      (frameBytes x.frame).length = 1440
      ∧ ∀ b < 1440, (scramble (runnerSeed (stripeLane x.lanes b)) (x.onLane (stripeLane x.lanes b)))[b / (lanesOf x.lanes).length]?
          = (frameBytes x.frame)[b]?)
  ∧ (∀ w < 100, ∀ j < 36, floorLane w j < 400 ∧ (w, j) ∈ floorSymbols (floorLane w j)
      ∧ ∀ i < 36, floorLane w i = floorLane w j → i = j)
  ∧ (∀ l < 400, (floorSymbols l).length = 9 ∧ ∀ x ∈ floorSymbols l, x.1 < 100 ∧ x.2 < 36 ∧ floorLane x.1 x.2 = l)
  ∧ (∀ l < 400, ∀ w < 100, floorDamaged (1#400 <<< l) w = false)
  ∧ (∀ (out : BitVec 400) slot l, scramble (floorSeed l) (floorOnLane out slot l)
      = if out.getLsbD l then List.replicate 9 0 else (floorSymbols l).map fun x => ((slot.getD x.1 [])[x.2]?).getD 0)
end

