-- ==== Sys2Proof/Laws/Tables.lean ====
section
/-! SUPPORT. Tables: reading after writing, and the canonical form. -/

namespace Sys2Proof.Machine

/-- A table with nothing listed reads the default. -/
@[simp] theorem Tab.get_nil {α : Type} {d : α} (k : Nat) : Tab.get d ([] : Tab α) k = d := rfl

theorem Tab.get_cons {α : Type} {d : α} (k i : Nat) (v : α) (t : Tab α) :
    Tab.get d ((k, v) :: t) i = if k = i then v else Tab.get d t i := rfl

variable {α : Type} {d : α}

/-- The canonical form as a proposition. -/
theorem Tab.wf_iff [DecidableEq α] {t : Tab α} :
    Tab.wf d t = true ↔ t.Pairwise (fun a b => a.1 < b.1) ∧ ∀ e ∈ t, e.2 ≠ d := by
  simp [Tab.wf]

@[simp] theorem Tab.wf_nil [DecidableEq α] : Tab.wf d ([] : Tab α) = true := by simp [Tab.wf_iff]

/-- A key below every key of a table reads the default. -/
theorem Tab.get_of_lt {t : Tab α} {k : Nat} (h : ∀ e ∈ t, k < e.1) : Tab.get d t k = d := by
  induction t with
  | nil => rfl
  | cons e t ih =>
    have h1 := h e (by simp)
    rw [show e = (e.1, e.2) from rfl, Tab.get_cons, if_neg (by omega)]
    exact ih fun e' h' => h e' (by simp [h'])

/-- The keys after an insertion are the new one and the old ones. -/
theorem Tab.mem_insert {t : Tab α} {k : Nat} {v : α} {e : Nat × α} (h : e ∈ Tab.insert k v t) :
    e = (k, v) ∨ e ∈ t := by
  induction t with
  | nil => simpa [Tab.insert] using h
  | cons x t ih =>
    simp only [Tab.insert] at h
    split at h
    · simpa using h
    · split at h
      · rcases List.mem_cons.mp h with h | h
        · exact .inl h
        · exact .inr (by simp [h])
      · rcases List.mem_cons.mp h with h | h
        · exact .inr (by simp [h])
        · rcases ih h with h | h
          · exact .inl h
          · exact .inr (by simp [h])

theorem Tab.pairwise_insert {t : Tab α} (k : Nat) (v : α) (h : t.Pairwise (fun a b => a.1 < b.1)) :
    (Tab.insert k v t).Pairwise (fun a b => a.1 < b.1) := by
  induction t with
  | nil => simp [Tab.insert]
  | cons x t ih =>
    obtain ⟨hx, ht⟩ := List.pairwise_cons.mp h
    simp only [Tab.insert]
    split
    · next hk =>
      refine List.pairwise_cons.mpr ⟨fun e he => ?_, h⟩
      rcases List.mem_cons.mp he with he | he
      · simpa [he] using hk
      · exact Nat.lt_trans hk (hx e he)
    · split
      · next hk => exact List.pairwise_cons.mpr ⟨fun e he => by simpa [hk] using hx e he, ht⟩
      · refine List.pairwise_cons.mpr ⟨fun e he => ?_, ih ht⟩
        rcases Tab.mem_insert he with he | he
        · simp only [he]; omega
        · exact hx e he

theorem Tab.get_insert {t : Tab α} (k : Nat) (v : α) (i : Nat) :
    Tab.get d (Tab.insert k v t) i = if k = i then v else Tab.get d t i := by
  induction t with
  | nil => rfl
  | cons x t ih =>
    obtain ⟨x1, x2⟩ := x
    simp only [Tab.insert]
    split
    · rfl
    · split
      · next h => subst h; simp only [Tab.get_cons]; split <;> rfl
      · simp only [Tab.get_cons, ih]; split <;> split <;> first | rfl | omega

theorem Tab.get_filter {t : Tab α} (k i : Nat) :
    Tab.get d (t.filter fun e => e.1 ≠ k) i = if k = i then d else Tab.get d t i := by
  induction t with
  | nil => simp
  | cons x t ih =>
    obtain ⟨x1, x2⟩ := x
    simp only [List.filter_cons]
    split <;> rename_i h <;> simp only [decide_eq_true_eq, ne_eq, not_not] at h <;>
      (try simp only [Tab.get_cons]) <;> rw [ih] <;> split <;> (try split) <;>
      first | rfl | omega

/-- Reading a table after setting a key. -/
theorem Tab.get_put [DecidableEq α] {t : Tab α} (k : Nat) (v : α) (i : Nat) :
    Tab.get d (Tab.put d t k v) i = if k = i then v else Tab.get d t i := by
  unfold Tab.put
  split
  · next h => rw [Tab.get_filter, h]
  · exact Tab.get_insert k v i

@[simp] theorem Tab.get_put_same [DecidableEq α] {t : Tab α} (k : Nat) (v : α) : Tab.get d (Tab.put d t k v) k = v := by
  simp [Tab.get_put]

/-- Reading a table after changing a key. -/
theorem Tab.get_upd [DecidableEq α] {t : Tab α} (k : Nat) (f : α → α) (i : Nat) :
    Tab.get d (Tab.upd d t k f) i = if k = i then f (Tab.get d t k) else Tab.get d t i := Tab.get_put k _ i

@[simp] theorem Tab.get_upd_same [DecidableEq α] {t : Tab α} (k : Nat) (f : α → α) :
    Tab.get d (Tab.upd d t k f) k = f (Tab.get d t k) := by simp [Tab.get_upd]

/-- Any part of a canonical table is canonical. -/
theorem Tab.wf_filter [DecidableEq α] {t : Tab α} (p : Nat × α → Bool) (h : Tab.wf d t = true) : Tab.wf d (t.filter p) = true := by
  rw [Tab.wf_iff] at h ⊢
  exact ⟨h.1.filter p, fun e he => h.2 e (List.mem_filter.mp he).1⟩

theorem Tab.wf_put [DecidableEq α] {t : Tab α} (k : Nat) (v : α) (h : Tab.wf d t = true) : Tab.wf d (Tab.put d t k v) = true := by
  unfold Tab.put
  split
  · exact Tab.wf_filter _ h
  · next hv =>
    rw [Tab.wf_iff] at h ⊢
    refine ⟨Tab.pairwise_insert k v h.1, fun e he => ?_⟩
    rcases Tab.mem_insert he with he | he
    · simpa [he] using hv
    · exact h.2 e he

theorem Tab.wf_upd [DecidableEq α] {t : Tab α} (k : Nat) (f : α → α) (h : Tab.wf d t = true) : Tab.wf d (Tab.upd d t k f) = true :=
  Tab.wf_put k _ h

theorem Tab.wf_cellsOut [DecidableEq α] {t : Tab α} (a n : Nat) (h : Tab.wf d t = true) : Tab.wf d (cellsOut t a n) = true :=
  Tab.wf_filter _ h

/-- In a canonical table an entry is what its key reads. -/
theorem Tab.get_of_mem {t : Tab α} (h : t.Pairwise (fun a b => a.1 < b.1)) {e : Nat × α} (he : e ∈ t) :
    Tab.get d t e.1 = e.2 := by
  induction t with
  | nil => simp at he
  | cons x t ih =>
    obtain ⟨hx, ht⟩ := List.pairwise_cons.mp h
    obtain ⟨x1, x2⟩ := x
    rw [Tab.get_cons]
    rcases List.mem_cons.mp he with he | he
    · simp [he]
    · have := hx e he
      rw [if_neg (by simp at this; omega)]
      exact ih ht he

end Sys2Proof.Machine
end

