-- ==== Sys2Proof/Laws/Store.lean ====
section
/-! SUPPORT. Memories: reading after writing, and every operation keeps the canonical form. -/

namespace Sys2Proof.Machine

theorem Mem.wf_iff {m : Mem} : m.wf = true ↔ Tab.wf 0 m.bytes = true ∧ Tab.wf 0 m.chk = true := by
  simp [Mem.wf]

@[simp] theorem Mem.wf_zeros : Mem.zeros.wf = true := by simp [Mem.wf_iff, Mem.zeros]

/-- The cells of laid bytes lie in their range. -/
theorem cellsOf_range {a : Nat} {bs : List Byte} {e : Nat × Byte} (h : e ∈ cellsOf a bs) :
    a ≤ e.1 ∧ e.1 < a + bs.length ∧ e.2 ≠ 0 := by
  induction bs generalizing a with
  | nil => simp [cellsOf] at h
  | cons b bs ih =>
    simp only [cellsOf] at h
    split at h
    · have := ih h; simp only [List.length_cons]; exact ⟨by omega, by omega, this.2.2⟩
    · rcases List.mem_cons.mp h with h | h
      · subst h; simp only [List.length_cons]; exact ⟨Nat.le_refl _, by omega, by assumption⟩
      · have := ih h; simp only [List.length_cons]; exact ⟨by omega, by omega, this.2.2⟩

theorem cellsOf_pairwise (a : Nat) (bs : List Byte) : (cellsOf a bs).Pairwise (fun x y => x.1 < y.1) := by
  induction bs generalizing a with
  | nil => simp [cellsOf]
  | cons b bs ih =>
    simp only [cellsOf]
    split
    · exact ih _
    · exact List.pairwise_cons.mpr ⟨fun e he => by have := (cellsOf_range he).1; simp only; omega, ih _⟩

/-- Laying bytes keeps the canonical form. -/
theorem Mem.wf_lay {m : Mem} (a : Nat) (bs : List Byte) (h : m.wf = true) : (m.lay a bs).wf = true := by
  rw [Mem.wf_iff] at h ⊢
  refine ⟨?_, h.2⟩
  have hb := Tab.wf_iff.mp h.1
  rw [Tab.wf_iff]
  simp only [Mem.lay, List.pairwise_append, List.mem_append, List.mem_filter, decide_eq_true_eq]
  refine ⟨⟨⟨hb.1.filter _, cellsOf_pairwise a bs, fun x hx y hy => ?_⟩, hb.1.filter _, fun x hx y hy => ?_⟩,
    fun e he => ?_⟩
  · exact Nat.lt_of_lt_of_le hx.2 (cellsOf_range hy).1
  · rcases hx with hx | hx
    · omega
    · have := (cellsOf_range hx).2.1; omega
  · rcases he with (he | he) | he
    · exact hb.2 e he.1
    · exact (cellsOf_range he).2.2
    · exact hb.2 e he.1

theorem Mem.wf_clear {m : Mem} (a n : Nat) (h : m.wf = true) : (m.clear a n).wf = true := by
  rw [Mem.wf_iff] at h ⊢
  exact ⟨Tab.wf_cellsOut _ _ h.1, Tab.wf_cellsOut _ _ h.2⟩

theorem Mem.wf_setChk {m : Mem} (c : Nat) (d : BitVec 32) (h : m.wf = true) : (m.setChk c d).wf = true := by
  rw [Mem.wf_iff] at h ⊢
  exact ⟨h.1, Tab.wf_put c d h.2⟩

theorem Mem.wf_putCw {m : Mem} (c : Nat) (data : List Byte) (d : BitVec 32) (h : m.wf = true) :
    (m.putCw c data d).wf = true := Mem.wf_setChk _ _ (Mem.wf_lay _ _ h)

theorem Mem.wf_poisonRun {m : Mem} (c n : Nat) (h : m.wf = true) : (m.poisonRun c n).wf = true := by
  induction n generalizing m c with
  | zero => exact h
  | succ n ih => exact ih (c + 1) (Mem.wf_setChk _ _ h)

theorem Mem.wf_loseMap {m : Mem} (mc : Nat) (h : m.wf = true) : (m.loseMap mc).wf = true :=
  Mem.wf_putCw _ _ _ (Mem.wf_poisonRun _ _ h)

theorem Mem.wf_mapReady {m : Mem} (c : Nat) (h : m.wf = true) : (m.mapReady c).1.wf = true := by
  simp only [Mem.mapReady]
  split
  · exact h
  · split
    · exact h
    · exact Mem.wf_loseMap _ h

theorem Mem.wf_setMap {m : Mem} (c : Nat) (b : Bool) (h : m.wf = true) : (m.setMap c b).wf = true :=
  Mem.wf_putCw _ _ _ h

theorem Mem.wf_writePoison {m : Mem} (k : MemKind) (c : Nat) (data : List Byte) (h : m.wf = true) :
    (m.writePoison k c data).wf = true := by
  simp only [Mem.writePoison]
  split
  · exact Mem.wf_setMap _ _ (Mem.wf_putCw _ _ _ h)
  · exact Mem.wf_putCw _ _ _ h

theorem Mem.wf_writeClean {m : Mem} (k : MemKind) (c : Nat) (data : List Byte) (h : m.wf = true) :
    (m.writeClean k c data).wf = true := by
  simp only [Mem.writeClean]
  split
  · exact Mem.wf_setMap _ _ (Mem.wf_putCw _ _ _ h)
  · exact Mem.wf_putCw _ _ _ h

theorem Mem.wf_readyIf {m : Mem} (b : Bool) (c : Nat) (h : m.wf = true) :
    (if b = true then m.mapReady c else (m, [])).1.wf = true := by
  split
  · exact Mem.wf_mapReady c h
  · exact h

/-- Reading a codeword keeps the canonical form. -/
theorem Mem.wf_readCw {m : Mem} (k : MemKind) (c : Nat) (h : m.wf = true) : (m.readCw k c).mem.wf = true := by
  have h' := Mem.wf_readyIf (isHbmCw k c) c h
  unfold Mem.readCw
  generalize (if isHbmCw k c = true then m.mapReady c else (m, [])) = q at h' ⊢
  obtain ⟨m', ev⟩ := q
  simp only at h' ⊢
  by_cases hm : (isMapCw k c && !mapReadable (Tab.get 0 m'.chk c)) = true
  · rw [if_pos hm]; exact Mem.wf_loseMap c h'
  rw [if_neg hm]
  by_cases hp : (isHbmCw k c && m'.mapBitOf c) = true
  · rw [if_pos hp]; exact h'
  · rw [if_neg hp]
    cases classify (Tab.get 0 m'.chk c) with
    | uncorrectable => exact Mem.wf_writePoison _ _ _ h'
    | clean => exact h'
    | corrected e v => exact h'
    | poisoned x => exact h'

theorem Mem.wf_readSuspects {m : Mem} (k : MemKind) (cs : List Nat) (h : m.wf = true) :
    (m.readSuspects k cs).mem.wf = true := by
  induction cs generalizing m with
  | nil => exact h
  | cons c cs ih => exact ih (Mem.wf_readCw k c h)

/-- Reading a range keeps the canonical form. -/
theorem Mem.wf_readRange {m : Mem} (k : MemKind) (a n : Nat) (h : m.wf = true) : (m.readRange k a n).mem.wf = true := by
  simp only [Mem.readRange]
  split
  · exact h
  · exact Mem.wf_readSuspects k _ h

theorem Mem.wf_mergeWrite {m : Mem} (k : MemKind) (c : Nat) (data : List Byte) (h : m.wf = true) :
    (m.mergeWrite k c data).1.wf = true := by
  have h' := Mem.wf_lay (32 * c) (m.readCw k c).data (Mem.wf_readCw k c h)
  simp only [Mem.mergeWrite, Mem.mergeRead]
  by_cases hp : (m.readCw k c).poisoned = true <;> simp only [hp, if_true, if_false, Bool.false_eq_true]
  · exact Mem.wf_writePoison _ _ _ h'
  · exact Mem.wf_writeClean _ _ _ h'

theorem Mem.wf_cleanAll {m : Mem} (k : MemKind) (cs : List Nat) (h : m.wf = true) : (m.cleanAll k cs).wf = true := by
  induction cs generalizing m with
  | nil => exact h
  | cons c cs ih =>
    simp only [Mem.cleanAll]
    apply ih
    split
    · exact Mem.wf_setMap _ _ (Mem.wf_setChk _ _ (Mem.wf_mapReady _ h))
    · exact Mem.wf_setChk _ _ h

theorem Mem.wf_writePart {m : Mem} (k : MemKind) (c a : Nat) (bs : List Byte) (h : m.wf = true) :
    (m.writePart k c a bs).1.wf = true := Mem.wf_mergeWrite k c _ h

theorem Mem.wf_partIf {m : Mem} (p : Prop) [Decidable p] (k : MemKind) (c a : Nat) (bs : List Byte) (h : m.wf = true) :
    (if p then m.writePart k c a bs else (m, [])).1.wf = true := by
  split
  · exact Mem.wf_writePart k c a bs h
  · exact h

/-- Writing a range keeps the canonical form. -/
theorem Mem.wf_writeRange {m : Mem} (k : MemKind) (a : Nat) (bs : List Byte) (h : m.wf = true) :
    (m.writeRange k a bs).1.wf = true := by
  simp only [Mem.writeRange]
  split
  · exact h
  · have h2 := Mem.wf_partIf ((a + bs.length) % 32 ≠ 0 ∧ (a + bs.length - 1) / 32 ≠ a / 32) k
      ((a + bs.length - 1) / 32) (partIn ((a + bs.length - 1) / 32) a bs).1 (partIn ((a + bs.length - 1) / 32) a bs).2
      (Mem.wf_partIf (a % 32 ≠ 0 ∨ a / 32 = (a + bs.length - 1) / 32 ∧ bs.length < 32) k (a / 32)
        (partIn (a / 32) a bs).1 (partIn (a / 32) a bs).2 h)
    split
    · exact Mem.wf_lay _ _ (Mem.wf_cleanAll k _ h2)
    · exact h2

theorem Mem.wf_carryCw {m : Mem} (k : MemKind) (c : Nat) (data : List Byte) (p : Bool) (h : m.wf = true) :
    (m.carryCw k c data p).1.wf = true := by
  simp only [Mem.carryCw]
  split
  · exact Mem.wf_writePoison _ _ _ (Mem.wf_readyIf (isHbmCw k c) c h)
  · exact Mem.wf_writeRange _ _ _ h

theorem Mem.wf_applyCw {m : Mem} (k : MemKind) (c mask v : Nat) (h : m.wf = true) :
    (m.applyCw k c mask v).1.wf = true := by
  simp only [Mem.applyCw]
  split
  · exact Mem.wf_writeClean _ _ _ (Mem.wf_readyIf (isHbmCw k c) c h)
  · exact Mem.wf_mergeWrite k c _ h

theorem Mem.wf_applyList {m : Mem} (k : MemKind) (p : Patch) (h : m.wf = true) : (m.applyList k p).1.wf = true := by
  induction p generalizing m with
  | nil => exact h
  | cons x p ih => exact ih (Mem.wf_applyCw k _ _ _ h)

/-- The memory of a result, read off the result. -/
theorem Mem.wf_of {α : Type} {x : Mem × α} {m : Mem} {a : α} (e : x = (m, a)) (h : x.1.wf = true) : m.wf = true := by
  subst e; exact h

/-- A fold of memory operations that each keep the form keeps it; the events are gathered beside. -/
theorem Mem.wf_foldl {α β : Type} {f : Mem → α → Mem × List β} {l : List α} {m : Mem} {es : List β} (h : m.wf = true)
    (hf : ∀ m a, m.wf = true → (f m a).1.wf = true) :
    (l.foldl (fun (x : Mem × List β) a => ((f x.1 a).1, x.2 ++ (f x.1 a).2)) (m, es)).1.wf = true := by
  induction l generalizing m es with
  | nil => exact h
  | cons a l ih => exact ih (hf m a h)

/-- Writing a patch keeps the canonical form. -/
theorem Mem.wf_apply {m : Mem} (k : MemKind) (p : Patch) (h : m.wf = true) : (m.apply k p).1.wf = true :=
  Mem.wf_applyList k _ h

/-! ### Reading after writing -/

/-- A key that the second part does not list is read in the first. -/
theorem Tab.get_append_left {α : Type} {d : α} {t u : Tab α} {i : Nat} (h : ∀ e ∈ u, e.1 ≠ i) : Tab.get d (t ++ u) i = Tab.get d t i := by
  induction t with
  | nil =>
    induction u with
    | nil => rfl
    | cons e u ih =>
      rw [List.nil_append, Tab.get_cons, if_neg (h e List.mem_cons_self)]
      exact ih fun x hx => h x (List.mem_cons_of_mem _ hx)
  | cons e t ih => rw [List.cons_append, Tab.get_cons, Tab.get_cons, ih]

/-- A key that the first part does not list is read in the second. -/
theorem Tab.get_append_right {α : Type} {d : α} {t u : Tab α} {i : Nat} (h : ∀ e ∈ t, e.1 ≠ i) : Tab.get d (t ++ u) i = Tab.get d u i := by
  induction t with
  | nil => rfl
  | cons e t ih =>
    rw [List.cons_append, Tab.get_cons, if_neg (h e List.mem_cons_self)]
    exact ih fun x hx => h x (List.mem_cons_of_mem _ hx)

/-- A key that a filter of keys lets through reads as before. -/
theorem Tab.get_filter_key {α : Type} {d : α} {t : Tab α} {i : Nat} (p : Nat → Bool) (h : p i = true) :
    Tab.get d (t.filter fun e => p e.1) i = Tab.get d t i := by
  induction t with
  | nil => rfl
  | cons e t ih =>
    rw [List.filter_cons, Tab.get_cons]
    split
    · rw [Tab.get_cons, ih]
    · next hp => rw [ih, if_neg]; intro he; subst he; exact hp h

/-- Laid bytes read as they were laid. -/
theorem get_cellsOf (a : Nat) (bs : List Byte) (i : Nat) : Tab.get 0 (cellsOf a bs) i = if a ≤ i then bs.getD (i - a) 0 else 0 := by
  induction bs generalizing a with
  | nil => simp [cellsOf]
  | cons b bs ih =>
    have hr : Tab.get 0 (cellsOf (a + 1) bs) i = if a < i then bs.getD (i - (a + 1)) 0 else 0 := ih (a + 1)
    have hc : Tab.get 0 (cellsOf a (b :: bs)) i = if a = i then b else Tab.get 0 (cellsOf (a + 1) bs) i := by
      simp only [cellsOf]
      split
      · next hb =>
        split
        · next he => rw [hr, if_neg (by omega), hb]
        · rfl
      · exact Tab.get_cons _ _ _ _
    rw [hc, hr]
    by_cases h : a = i
    · subst h; simp
    · by_cases h' : a < i
      · rw [if_neg h, if_pos h', if_pos (by omega), show i - a = i - (a + 1) + 1 by omega, List.getD_cons_succ]
      · rw [if_neg h, if_neg h', if_neg (by omega)]

/-- A byte after bytes are laid over a range: the byte laid, or, outside the range, the byte before. -/
theorem Mem.byte_lay (m : Mem) (a : Nat) (bs : List Byte) (b : Nat) :
    (m.lay a bs).byte b = if a ≤ b ∧ b < a + bs.length then bs.getD (b - a) 0 else m.byte b := by
  simp only [Mem.byte, Mem.lay]
  by_cases h1 : a ≤ b
  · by_cases h2 : b < a + bs.length
    · rw [if_pos ⟨h1, h2⟩, Tab.get_append_left, Tab.get_append_right, get_cellsOf, if_pos h1]
      · intro e he; simp at he; omega
      · intro e he; simp at he; omega
    · rw [if_neg (by omega), Tab.get_append_right, Tab.get_filter_key (fun k => decide (a + bs.length ≤ k)) (by simp; omega)]
      intro e he
      rcases List.mem_append.mp he with he | he
      · simp at he; omega
      · have := (cellsOf_range he).2.1; omega
  · rw [if_neg (by omega), List.append_assoc, Tab.get_append_left, Tab.get_filter_key (fun k => decide (k < a)) (by simp; omega)]
    intro e he
    rcases List.mem_append.mp he with he | he
    · have := (cellsOf_range he).1; omega
    · simp at he; omega

theorem bytesFrom_length (w : Tab Byte) (a n : Nat) : (bytesFrom w a n).length = n := by
  induction n generalizing a with
  | zero => rfl
  | succ n ih => simp [bytesFrom, ih]

theorem getElem_bytesFrom (w : Tab Byte) (a n i : Nat) (h : i < n) : (bytesFrom w a n)[i]? = some (Tab.get 0 w (a + i)) := by
  induction n generalizing a i with
  | zero => omega
  | succ n ih =>
    cases i with
    | zero => rfl
    | succ i => rw [bytesFrom, List.getElem?_cons_succ, ih _ _ (by omega)]; congr 2; omega

@[simp] theorem Mem.raw_length (m : Mem) (a n : Nat) : (m.raw a n).length = n := bytesFrom_length _ _ _

/-- A stored range, byte by byte. -/
theorem Mem.raw_getElem (m : Mem) (a n i : Nat) (h : i < n) : (m.raw a n)[i]? = some (m.byte (a + i)) := by
  rw [Mem.raw, getElem_bytesFrom _ _ _ _ h, cellsIn, Mem.byte,
    Tab.get_filter_key (fun k => decide (a ≤ k) && decide (k < a + n)) (by simp; omega)]

/-- Bytes read from where they were laid. -/
theorem Mem.raw_lay (m : Mem) (a : Nat) (bs : List Byte) : (m.lay a bs).raw a bs.length = bs := by
  refine List.ext_getElem? fun i => ?_
  by_cases h : i < bs.length
  · rw [Mem.raw_getElem _ _ _ _ h, Mem.byte_lay, if_pos (by omega)]; simp [h]
  · rw [List.getElem?_eq_none (by simp; omega), List.getElem?_eq_none (by omega)]

end Sys2Proof.Machine
end

