-- ==== Sys2Proof/Laws/Elements.lean ====
section
/-! SUPPORT. Reading elements keeps the canonical form of a memory. -/

namespace Sys2Proof.Machine

theorem Mem.wf_readElems {m : Mem} (k : MemKind) (w : Nat) (addrs : List Nat) (h : m.wf = true) :
    (m.readElems k w addrs).mem.wf = true := by
  simp only [Mem.readElems]
  split
  · exact h
  · exact Mem.wf_readSuspects k _ h

end Sys2Proof.Machine
end

