-- ==== Sys2Proof/Laws/Frame.lean ====
section
/-! SUPPORT. What an operation of a running part keeps: the queue, the power and the standing of the Nelhan, the mode of
the Assay, the laser enable, and the canonical form of memory. One relation says it, so that each operation needs one
lemma. -/

namespace Sys2Proof.Machine

/-- What only a reset, a boot, the Assay or the loss of a rail changes. -/
structure Standing where
  pending   : List Instr
  vddAon    : Bool
  pwrgdAon  : Bool
  pwrgdMain : Bool
  boot      : Boot
  mode      : AssayMode
  retired   : Bool
  lit       : Bool

/-- The standing of a state. -/
abbrev State.standing (s : State) : Standing :=
  ⟨s.pending, s.pins.vddAon, s.pins.pwrgdAon, s.pins.pwrgdMain, s.boot, s.assay.mode, s.assay.otp.decommissioned,
    s.light.enabled⟩

/-- A state with a given standing and a memory in canonical form. -/
def Good (k : Standing) (s : State) : Prop := s.standing = k ∧ s.mem.wf = true

theorem Good.mem {k : Standing} {s : State} (h : Good k s) : s.mem.wf = true := h.2

theorem Good.standing {k : Standing} {s : State} (h : Good k s) : s.standing = k := h.1

section

variable {k : Standing} {s : State}
  {pending : List Instr} {free : Nat} {pins : Pins} {boot : Boot} {ident : Ident} {mem : Mem} {sprue : Sprue}
  {riser : Riser} {trail : List LineMark} {chans : Tab Chan} {accepted : List Nat} {intake : Intake} {cope : HostPortState} {drag :
  HostPortState} {patterns : Tab (Option Pattern)} {running : Tab (Option Running)} {run : Option RunCtx} {kept :
  Option KeptContext} {clusters : Tab Cluster} {power : Power} {runner : Runner} {light : Light} {assay : Assay}
  {err : Err} {cnt : Counters} {jtag : Jtag} {mctpOut : List MctpAnswer}

/-- A state built from another one's fields has the other's standing and memory, where the fields they name agree. -/
theorem Good.build (_hp : pending = s.pending) (hm : mem = s.mem)
    (hs : (State.mk pending free pins boot ident mem sprue riser trail chans accepted intake cope drag patterns running
      run kept clusters power runner light assay err cnt jtag mctpOut).standing = s.standing) (h : Good k s) :
    Good k (State.mk pending free pins boot ident mem sprue riser trail chans accepted intake cope drag patterns running
      run kept clusters power runner light assay err cnt jtag mctpOut) :=
  ⟨hs.trans h.1, by simpa [hm] using h.2⟩

/-- The same with a new memory in canonical form. -/
theorem Good.put (_hp : pending = s.pending)
    (hs : (State.mk pending free pins boot ident mem sprue riser trail chans accepted intake cope drag patterns running
      run kept clusters power runner light assay err cnt jtag mctpOut).standing = s.standing) (hm : mem.wf = true) (h : Good k s) :
    Good k (State.mk pending free pins boot ident mem sprue riser trail chans accepted intake cope drag patterns running
      run kept clusters power runner light assay err cnt jtag mctpOut) :=
  ⟨hs.trans h.1, hm⟩

end

theorem Good.fst {k : Standing} {α : Type} {x : State × α} {s : State} {a : α} (e : x = (s, a)) (h : Good k x.1) :
    Good k s := by subst e; exact h

theorem Good.snd {k : Standing} {α : Type} {x : α × State} {s : State} {a : α} (e : x = (a, s)) (h : Good k x.2) :
    Good k s := by subst e; exact h

/-- A fold keeps what each of its steps keeps. -/
theorem Good.foldl {k : Standing} {α : Type} {f : State → α → State} {l : List α} {s : State} (h : Good k s)
    (hf : ∀ s a, Good k s → Good k (f s a)) : Good k (l.foldl f s) := by
  induction l generalizing s with
  | nil => exact h
  | cons a l ih => exact ih (hf s a h)

/-- A state with a given queue and a memory in canonical form: what every command keeps. -/
def Safe (q : List Instr) (s : State) : Prop := s.pending = q ∧ s.mem.wf = true

/-- What keeps the standing keeps the queue. -/
theorem Safe.step {q : List Instr} {s t : State} (hg : ∀ k, Good k s → Good k t) (h : Safe q s) : Safe q t :=
  have hk := hg s.standing ⟨rfl, h.2⟩
  ⟨(congrArg Standing.pending hk.1).trans h.1, hk.2⟩

section

variable {q : List Instr} {s : State}
  {pending : List Instr} {free : Nat} {pins : Pins} {boot : Boot} {ident : Ident} {mem : Mem} {sprue : Sprue}
  {riser : Riser} {trail : List LineMark} {chans : Tab Chan} {accepted : List Nat} {intake : Intake} {cope : HostPortState} {drag :
  HostPortState} {patterns : Tab (Option Pattern)} {running : Tab (Option Running)} {run : Option RunCtx} {kept :
  Option KeptContext} {clusters : Tab Cluster} {power : Power} {runner : Runner} {light : Light} {assay : Assay}
  {err : Err} {cnt : Counters} {jtag : Jtag} {mctpOut : List MctpAnswer}

theorem Safe.build (hp : pending = s.pending) (hm : mem = s.mem) (h : Safe q s) :
    Safe q (State.mk pending free pins boot ident mem sprue riser trail chans accepted intake cope drag patterns running
      run kept clusters power runner light assay err cnt jtag mctpOut) :=
  ⟨hp.trans h.1, by simpa [hm] using h.2⟩

theorem Safe.put (hp : pending = s.pending) (hm : mem.wf = true) (h : Safe q s) :
    Safe q (State.mk pending free pins boot ident mem sprue riser trail chans accepted intake cope drag patterns running
      run kept clusters power runner light assay err cnt jtag mctpOut) :=
  ⟨hp.trans h.1, hm⟩

end

theorem Safe.mem {q : List Instr} {s : State} (h : Safe q s) : s.mem.wf = true := h.2

theorem Safe.fst {q : List Instr} {α : Type} {x : State × α} {s : State} {a : α} (e : x = (s, a)) (h : Safe q x.1) :
    Safe q s := by subst e; exact h

theorem Safe.snd {q : List Instr} {α : Type} {x : α × State} {s : State} {a : α} (e : x = (a, s)) (h : Safe q x.2) :
    Safe q s := by subst e; exact h

theorem Safe.foldl {q : List Instr} {α : Type} {f : State → α → State} {l : List α} {s : State} (h : Safe q s)
    (hf : ∀ s a, Safe q s → Safe q (f s a)) : Safe q (l.foldl f s) := by
  induction l generalizing s with
  | nil => exact h
  | cons a l ih => exact ih (hf s a h)

end Sys2Proof.Machine
end

