-- ==== Sys2Proof/Laws/KeepCluster.lean ====
section
/-! SUPPORT. What the shared operations, the engines, the streams and the control core keep. -/

set_option linter.unusedTactic false
set_option linter.unreachableTactic false

namespace Sys2Proof.Machine

/-! ### Machine/Ops.lean -/

theorem State.count_good {k : Standing} {s : State} (off : Nat) (k_ : Nat) (h : Good k s) :
    Good k (State.count s off k_) := by
    unfold State.count
    with_reducible repeat' first
      | assumption | split | dsimp only | refine Good.build rfl rfl rfl ?_

theorem State.bwCount_good {k : Standing} {s : State} (u : Nat) (second : Bool) (k_ : Nat) (h : Good k s) :
    Good k (State.bwCount s u second k_) := by
    unfold State.bwCount
    with_reducible repeat' first
      | assumption | split | dsimp only | refine Good.build rfl rfl rfl ?_

theorem State.rsvdWrite_good {k : Standing} {s : State} (h : Good k s) :
    Good k (State.rsvdWrite s) := by
    unfold State.rsvdWrite
    with_reducible repeat' first
      | assumption | split | dsimp only | refine Good.build rfl rfl rfl ?_

theorem State.rsvdIf_good {k : Standing} {s : State} (rsvd : Bool) (h : Good k s) :
    Good k (State.rsvdIf s rsvd) := by
    unfold State.rsvdIf
    with_reducible repeat' first
      | assumption | apply State.rsvdWrite_good | split | dsimp only | refine Good.build rfl rfl rfl ?_

theorem State.addStray_good {k : Standing} {s : State} (h : Good k s) :
    Good k (State.addStray s) := by
    unfold State.addStray
    with_reducible repeat' first
      | assumption | split | dsimp only | refine Good.build rfl rfl rfl ?_

theorem State.drawFree_good {k : Standing} {s : State} (h : Good k s) :
    Good k (State.drawFree s).2 := by
    unfold State.drawFree
    with_reducible repeat' first
      | assumption | refine Good.snd (by assumption) ?_ | split | dsimp only | refine Good.build rfl rfl rfl ?_

theorem State.updPort_good {k : Standing} {s : State} (p : HostPort) (f : HostPortState → HostPortState)
    (h : Good k s) :
    Good k (State.updPort s p f) := by
    unfold State.updPort
    with_reducible repeat' first
      | assumption | split | dsimp only | refine Good.build rfl rfl rfl ?_

theorem State.hostTlp_good {k : Standing} {s : State} (p : HostPort) (sent : Bool) (n : Nat) (h : Good k s) :
    Good k (State.hostTlp s p sent n) := by
    unfold State.hostTlp
    with_reducible repeat' first
      | assumption | apply State.bwCount_good | split | dsimp only | refine Good.build rfl rfl rfl ?_

theorem State.anyWrite_good {k : Standing} {s : State} (h : Good k s) :
    Good k (State.anyWrite s) := by
    unfold State.anyWrite
    with_reducible repeat' first
      | assumption | apply State.hostTlp_good | split | dsimp only | refine Good.build rfl rfl rfl ?_

theorem State.hostWrite_good {k : Standing} {s : State} (p : HostPort) (addr : Word64) (data : List Byte)
    (h : Good k s) :
    Good k (State.hostWrite s p addr data) := by
    unfold State.hostWrite
    with_reducible repeat' first
      | assumption | apply State.bwCount_good | apply State.count_good | apply State.updPort_good | split
      | dsimp only | refine Good.build rfl rfl rfl ?_

theorem State.msix_good {k : Standing} {s : State} (p : HostPort) (v : Nat) (h : Good k s) :
    Good k (State.msix s p v) := by
    unfold State.msix
    with_reducible repeat' first
      | assumption | apply State.hostTlp_good | apply State.count_good | apply State.updPort_good | split
      | dsimp only | refine Good.build rfl rfl rfl ?_

theorem State.staleKept_good {k : Standing} {s : State} (h : Good k s) :
    Good k (State.staleKept s) := by
    unfold State.staleKept
    with_reducible repeat' first
      | assumption | split | dsimp only | refine Good.build rfl rfl rfl ?_

theorem State.updLedger_good {k : Standing} {s : State} (l : RLine) (f : Ledger → Ledger) (h : Good k s) :
    Good k (State.updLedger s l f) := by
    unfold State.updLedger
    with_reducible repeat' first
      | assumption | split | dsimp only | refine Good.build rfl rfl rfl ?_

theorem State.linesDone_good {k : Standing} {s : State} (h : Good k s) :
    Good k (State.linesDone s) := by
    unfold State.linesDone
    with_reducible repeat' first
      | assumption | split | dsimp only | refine Good.build rfl rfl rfl ?_

theorem State.updEntry_good {k : Standing} {s : State} (i : Nat) (f : Entry → Entry) (h : Good k s) :
    Good k (State.updEntry s i f) := by
    unfold State.updEntry
    with_reducible repeat' first
      | assumption | apply State.updLedger_good | split | dsimp only | refine Good.build rfl rfl rfl ?_

theorem State.updChan_good {k : Standing} {s : State} (c : Nat) (f : ChanRec → ChanRec) (h : Good k s) :
    Good k (State.updChan s c f) := by
    unfold State.updChan
    with_reducible repeat' first
      | assumption | apply State.updLedger_good | split | dsimp only | refine Good.build rfl rfl rfl ?_

theorem State.noteChan_good {k : Standing} {s : State} (c : Nat) (f : ChanRec → ChanRec) (h : Good k s) :
    Good k (State.noteChan s c f) := by
    unfold State.noteChan
    with_reducible repeat' first
      | assumption | split | dsimp only | refine Good.build rfl rfl rfl ?_

theorem State.updVchan_good {k : Standing} {s : State} (c : Nat) (f : Chan → Chan) (h : Good k s) :
    Good k (State.updVchan s c f) := by
    unfold State.updVchan
    with_reducible repeat' first
      | assumption | split | dsimp only | refine Good.build rfl rfl rfl ?_

theorem State.setRunning_good {k : Standing} {s : State} (c : Nat) (r : Option Running) (h : Good k s) :
    Good k (State.setRunning s c r) := by
    unfold State.setRunning
    with_reducible repeat' first
      | assumption | split | dsimp only | refine Good.build rfl rfl rfl ?_

theorem State.setWindow_good {k : Standing} {s : State} (p : HostPort) (c : Nat) (w : Window) (h : Good k s) :
    Good k (State.setWindow s p c w) := by
    unfold State.setWindow
    with_reducible repeat' first
      | assumption | split | dsimp only | refine Good.build rfl rfl rfl ?_

theorem State.logStatus_good {k : Standing} {s : State} (status : BitVec 16) (unit : Nat) (index : Nat)
    (addr : Nat) (link : Bool) (pour : Option (Nat × Word64)) (h : Good k s) :
    Good k (State.logStatus s status unit index addr link pour) := by
    unfold State.logStatus
    with_reducible repeat' first
      | assumption | apply State.msix_good | split | dsimp only | refine Good.build rfl rfl rfl ?_

theorem State.saveHealth_good {k : Standing} {s : State} (h : Good k s) :
    Good k (State.saveHealth s) := by
    unfold State.saveHealth
    with_reducible repeat' first
      | assumption | apply State.updLedger_good | split | dsimp only | refine Good.build rfl rfl rfl ?_

theorem State.addLocal_good {k : Standing} {s : State} (k_ : Nat) (h : Good k s) :
    Good k (State.addLocal s k_) := by
    unfold State.addLocal
    with_reducible repeat' first
      | assumption | apply State.saveHealth_good | split | dsimp only | refine Good.build rfl rfl rfl ?_

theorem State.addLink_good {k : Standing} {s : State} (p : Nat) (k_ : Nat) (h : Good k s) :
    Good k (State.addLink s p k_) := by
    unfold State.addLink
    with_reducible repeat' first
      | assumption | apply State.saveHealth_good | split | dsimp only | refine Good.build rfl rfl rfl ?_

theorem State.onFabric_good {k : Standing} {s : State} (k_ : Nat) (n : Nat) (h : Good k s) :
    Good k (State.onFabric s k_ n) := by
    unfold State.onFabric
    with_reducible repeat' first
      | assumption | split | dsimp only | refine Good.build rfl rfl rfl ?_

theorem State.hbmTraffic_good {k : Standing} {s : State} (a : Nat) (n : Nat) (write : Bool) (dev : Bool)
    (h : Good k s) :
    Good k (State.hbmTraffic s a n write dev) := by
    unfold State.hbmTraffic
    with_reducible repeat' first
      | assumption | apply State.onFabric_good | apply State.bwCount_good | apply State.count_good | split
      | dsimp only | refine Good.build rfl rfl rfl ?_

theorem State.noteEvent_good {k : Standing} {s : State} (pour : Option (Nat × Word64)) (b2 : MemEvent)
    (h : Good k s) :
    Good k (State.noteEvent s pour b2) := by
    unfold State.noteEvent
    with_reducible repeat' first
      | assumption | apply State.addLocal_good | apply State.logStatus_good | split | dsimp only
      | refine Good.build rfl rfl rfl ?_

theorem State.noteAll_good {k : Standing} {s : State} (pour : Option (Nat × Word64)) (evs : List MemEvent)
    (h : Good k s) :
    Good k (State.noteAll s pour evs) := by
    unfold State.noteAll
    with_reducible repeat' first
      | assumption | apply State.noteEvent_good | refine Good.foldl ?_ fun _ _ _ => ?_ | split | dsimp only
      | refine Good.build rfl rfl rfl ?_

theorem State.readMem_good {k : Standing} {s : State} (pour : Option (Nat × Word64)) (dev : Bool) (a : Nat)
    (n : Nat) (h : Good k s) :
    Good k (State.readMem s pour dev a n).2 := by
    unfold State.readMem
    with_reducible repeat' first
      | assumption | apply State.hbmTraffic_good | apply State.noteAll_good | apply Mem.wf_readRange
      | refine Good.snd (by assumption) ?_ | split | dsimp only | exact Good.mem (by assumption)
      | refine Good.build rfl rfl rfl ?_ | refine Good.put rfl rfl ?_ ?_ | refine Mem.wf_of (by assumption) ?_

theorem State.writeMem_good {k : Standing} {s : State} (pour : Option (Nat × Word64)) (dev : Bool) (a : Nat)
    (bs : List Byte) (h : Good k s) :
    Good k (State.writeMem s pour dev a bs) := by
    unfold State.writeMem
    with_reducible repeat' first
      | assumption | apply State.hbmTraffic_good | apply State.noteAll_good | apply Mem.wf_writeRange | split
      | dsimp only | exact Good.mem (by assumption) | refine Good.build rfl rfl rfl ?_
      | refine Good.put rfl rfl ?_ ?_ | refine Mem.wf_of (by assumption) ?_

theorem State.updCl_good {k : Standing} {s : State} (g : Nat) (f : Cluster → Cluster) (h : Good k s) :
    Good k (State.updCl s g f) := by
    unfold State.updCl
    with_reducible repeat' first
      | assumption | split | dsimp only | refine Good.build rfl rfl rfl ?_

theorem State.stopClusters_good {k : Standing} {s : State} (h : Good k s) :
    Good k (State.stopClusters s) := by
    unfold State.stopClusters
    with_reducible repeat' first
      | assumption | split | dsimp only | refine Good.build rfl rfl rfl ?_

theorem State.endAttempt_good {k : Standing} {s : State} (status : BitVec 16) (replay : Bool) (h : Good k s) :
    Good k (State.endAttempt s status replay) := by
    unfold State.endAttempt
    with_reducible repeat' first
      | assumption | split | dsimp only | refine Good.build rfl rfl rfl ?_

theorem State.faultPour_good {k : Standing} {s : State} (g : Nat) (source : Nat) (status : BitVec 16)
    (pc : BitVec 18) (addr : Nat) (h : Good k s) :
    Good k (State.faultPour s g source status pc addr) := by
    unfold State.faultPour
    with_reducible repeat' first
      | assumption | apply State.updCl_good | apply State.endAttempt_good | apply State.logStatus_good | split
      | dsimp only | refine Good.build rfl rfl rfl ?_

/-! ### Machine/EngineOps.lean -/

theorem State.updSampler_good {k : Standing} {s : State} (g : Nat) (f : Sampler → Sampler) (h : Good k s) :
    Good k (State.updSampler s g f) := by
    unfold State.updSampler
    with_reducible repeat' first
      | assumption | split | dsimp only | refine Good.build rfl rfl rfl ?_

theorem startOp_good {k : Standing} (op : EngineOp) (x_ : EngCtx) (eng : Engine) (take : State → State)
    {s : State} (h : Good k s) (hop : ∀ x s, Good k s → Good k (op.perform x s).1) (htake : ∀  s, Good k s → Good k (take  s)) :
    Good k (startOp op x_ eng take s) := by
    unfold startOp
    with_reducible repeat' first
      | assumption | apply hop | apply htake | apply State.faultPour_good | apply State.updCl_good
      | apply State.updSampler_good | refine Good.fst (by assumption) ?_ | split | dsimp only
      | refine Good.build rfl rfl rfl ?_

theorem issueHead_good {k : Standing} (g : Nat) (eng : Engine) (isOp : Nat → Bool) (op : EngineOp) {s : State}
    (h : Good k s) (hop : ∀ x s, Good k s → Good k (op.perform x s).1) :
    Good k (issueHead g eng isOp op s) := by
    unfold issueHead
    with_reducible repeat' first
      | assumption | apply hop | apply startOp_good | apply State.updCl_good | apply State.faultPour_good
      | refine Good.fst (by assumption) ?_ | split | dsimp only | intro _ _ | refine Good.build rfl rfl rfl ?_

theorem consume_good {k : Standing} {s : State} (addrs : List Nat) (w : Nat) (h : Good k s) :
    Good k (consume s addrs w).1 := by
    unfold consume
    with_reducible repeat' first
      | assumption | apply State.noteAll_good | apply Mem.wf_readElems | refine Good.fst (by assumption) ?_
      | split | dsimp only | exact Good.mem (by assumption) | refine Good.build rfl rfl rfl ?_
      | refine Good.put rfl rfl ?_ ?_ | refine Mem.wf_of (by assumption) ?_

theorem State.applyPatch_good {k : Standing} {s : State} (p : Patch) (h : Good k s) :
    Good k (State.applyPatch s p) := by
    unfold State.applyPatch
    with_reducible repeat' first
      | assumption | apply State.noteAll_good | apply Mem.wf_apply | split | dsimp only
      | exact Good.mem (by assumption) | refine Good.build rfl rfl rfl ?_ | refine Good.put rfl rfl ?_ ?_
      | refine Mem.wf_of (by assumption) ?_

theorem consumeTiles_good {k : Standing} {s : State} (g : Nat) (addrs : List Nat) (h : Good k s) :
    Good k (consumeTiles s g addrs).1 := by
    unfold consumeTiles
    with_reducible repeat' first
      | assumption | apply State.noteAll_good | apply State.updCl_good | apply Mem.wf_readElems
      | refine Good.fst (by assumption) ?_ | split | dsimp only | exact Good.mem (by assumption)
      | refine Good.build rfl rfl rfl ?_ | refine Good.put rfl rfl ?_ ?_ | refine Mem.wf_of (by assumption) ?_

theorem State.applyTiles_good {k : Standing} {s : State} (g : Nat) (p : Patch) (h : Good k s) :
    Good k (State.applyTiles s g p) := by
    unfold State.applyTiles
    with_reducible repeat' first
      | assumption | apply State.noteAll_good | apply State.updCl_good | apply Mem.wf_apply | split | dsimp only
      | exact Good.mem (by assumption) | refine Good.build rfl rfl rfl ?_ | refine Good.put rfl rfl ?_ ?_
      | refine Mem.wf_of (by assumption) ?_

/-! ### Machine/Flags.lean -/

theorem accumBase_good {k : Standing} {s : State} (accum : Bool) (w : Nat) (addrs : List Nat) (h : Good k s) :
    Good k (accumBase s accum w addrs).1 := by
    unfold accumBase
    with_reducible repeat' first
      | assumption | apply consume_good | refine Good.fst (by assumption) ?_ | split | dsimp only
      | refine Good.build rfl rfl rfl ?_

/-! ### Machine/RunnerOps.lean -/

theorem State.updRport_good {k : Standing} {s : State} (p : Nat) (f : Port → Port) (h : Good k s) :
    Good k (State.updRport s p f) := by
    unfold State.updRport
    with_reducible repeat' first
      | assumption | split | dsimp only | refine Good.build rfl rfl rfl ?_

theorem State.updLight_good {k : Standing} {s : State} (p : Nat) (f : PortLight → PortLight) (h : Good k s) :
    Good k (State.updLight s p f) := by
    unfold State.updLight
    with_reducible repeat' first
      | assumption | split | dsimp only | refine Good.build rfl rfl rfl ?_

theorem State.countTx_good {k : Standing} {s : State} (p : Nat) (f : Frame) (h : Good k s) :
    Good k (State.countTx s p f) := by
    unfold State.countTx
    with_reducible repeat' first
      | assumption | apply State.count_good | apply State.bwCount_good | split | dsimp only
      | refine Good.build rfl rfl rfl ?_

theorem State.putLine_good {k : Standing} {s : State} (p : Nat) (lanes : BitVec 16) (f : Frame) (h : Good k s) :
    Good k (State.putLine s p lanes f) := by
    unfold State.putLine
    with_reducible repeat' first
      | assumption | apply State.updRport_good | split | dsimp only | refine Good.build rfl rfl rfl ?_

theorem State.emitOne_good {k : Standing} {s : State} (p : Nat) (f : Frame) (h : Good k s) :
    Good k (State.emitOne s p f) := by
    unfold State.emitOne
    with_reducible repeat' first
      | assumption | apply State.updRport_good | apply State.countTx_good | apply State.putLine_good | split
      | dsimp only | refine Good.build rfl rfl rfl ?_

theorem State.emitIdle_good {k : Standing} {s : State} (p : Nat) (h : Good k s) :
    Good k (State.emitIdle s p) := by
    unfold State.emitIdle
    with_reducible repeat' first
      | assumption | apply State.emitOne_good | split | dsimp only | refine Good.build rfl rfl rfl ?_

theorem State.keepTag_good {k : Standing} {s : State} (p : Nat) (h : Good k s) :
    Good k (State.keepTag s p) := by
    unfold State.keepTag
    with_reducible repeat' first
      | assumption | apply State.emitIdle_good | split | dsimp only | refine Good.build rfl rfl rfl ?_

theorem State.emit_good {k : Standing} {s : State} (p : Nat) (f : Frame) (h : Good k s) :
    Good k (State.emit s p f) := by
    unfold State.emit
    with_reducible repeat' first
      | assumption | apply State.keepTag_good | apply State.emitOne_good | split | dsimp only
      | refine Good.build rfl rfl rfl ?_

theorem State.pumpTx_good {k : Standing} (b0 : Nat) (b1 : Nat) {b2 : State} (h : Good k b2) :
    Good k (State.pumpTx b0 b1 b2) := by
    induction b0 generalizing b1 b2 with
    | zero =>
      unfold State.pumpTx
      with_reducible repeat' first
        | assumption | apply State.updRport_good | apply State.emit_good | split | dsimp only
        | refine Good.build rfl rfl rfl ?_
    | succ _ ih =>
      unfold State.pumpTx
      with_reducible repeat' first
        | assumption | apply ih | apply State.updRport_good | apply State.emit_good | split | dsimp only
        | refine Good.build rfl rfl rfl ?_

theorem State.xmit_good {k : Standing} {s : State} (p : Nat) (f : Frame) (h : Good k s) :
    Good k (State.xmit s p f) := by
    unfold State.xmit
    with_reducible repeat' first
      | assumption | apply State.pumpTx_good | apply State.updRport_good | split | dsimp only
      | refine Good.build rfl rfl rfl ?_

/-! ### Machine/Ldst.lean -/

theorem Mem.wf_poisonCw {m : Mem} (k : MemKind) (c mask v : Nat) (h : m.wf = true) :
    (m.poisonCw k c mask v).1.wf = true := by
  unfold Mem.poisonCw
  split
  · exact Mem.wf_carryCw _ _ _ _ h
  · exact Mem.wf_writePoison _ _ _ (Mem.wf_readCw _ _ h)

/-- The state that an access of a copy leaves. -/
def CopyStep.Keeps (k : Standing) : CopyStep → Prop
  | .moved s _ => Good k s
  | .blocked s _ => Good k s
  | .fault _ _ => True

theorem State.floorCarry_good {k : Standing} {s : State} (die : Nat) (write : Bool) (a : Nat) (h : Good k s) :
    Good k (State.floorCarry s die write a) := by
    unfold State.floorCarry
    with_reducible repeat' first
      | assumption | apply State.onFabric_good | apply State.count_good | split | dsimp only
      | refine Good.build rfl rfl rfl ?_

theorem carryRun_good {k : Standing} (c : CopyPlan) (bits : List Nat) {s : State} (h : Good k s) :
    Good k (carryRun c bits s).1 := by
    unfold carryRun
    with_reducible repeat' first
      | assumption | apply State.noteAll_good | apply State.hbmTraffic_good | apply Mem.wf_readElems
      | refine Good.foldl ?_ fun _ _ _ => ?_ | refine Good.fst (by assumption) ?_ | split | dsimp only
      | exact Good.mem (by assumption) | refine Good.build rfl rfl rfl ?_ | refine Good.put rfl rfl ?_ ?_
      | refine Mem.wf_of (by assumption) ?_

theorem carryCws_good {k : Standing} (p : Patch) (bad : List Nat) (b2 : List Nat) {b3 : State} (h : Good k b3) :
    Good k (carryCws p bad b2 b3) := by
    induction b2 generalizing p bad b3 with
    | nil =>
      unfold carryCws
      with_reducible repeat' first
        | assumption | apply State.hbmTraffic_good | apply State.noteAll_good | apply Mem.wf_poisonCw
        | apply Mem.wf_applyCw | split | dsimp only | exact Good.mem (by assumption)
        | refine Good.build rfl rfl rfl ?_ | refine Good.put rfl rfl ?_ ?_ | refine Mem.wf_of (by assumption) ?_
    | cons _ _ ih =>
      unfold carryCws
      with_reducible repeat' first
        | assumption | apply ih | apply State.hbmTraffic_good | apply State.noteAll_good | apply Mem.wf_poisonCw
        | apply Mem.wf_applyCw | split | dsimp only | exact Good.mem (by assumption)
        | refine Good.build rfl rfl rfl ?_ | refine Good.put rfl rfl ?_ ?_ | refine Mem.wf_of (by assumption) ?_

theorem carryPatch_good {k : Standing} (new : Patch) (bad : List Nat) (cr : Carried) {s : State} (h : Good k s) :
    Good k (carryPatch new bad cr s).1 := by
    unfold carryPatch
    with_reducible repeat' first
      | assumption | apply carryCws_good | refine Good.foldl ?_ fun _ _ _ => ?_
      | refine Good.fst (by assumption) ?_ | split | dsimp only | refine Good.build rfl rfl rfl ?_

theorem carryElems_good {k : Standing} (w : Nat) (els : List (Nat × Nat × Bool)) {s : State} (h : Good k s) :
    Good k (carryElems w els s) := by
    unfold carryElems
    with_reducible repeat' first
      | assumption | apply carryPatch_good | refine Good.fst (by assumption) ?_ | split | dsimp only
      | refine Good.build rfl rfl rfl ?_

theorem carryWrite_good {k : Standing} {s : State} (a : Nat) (b2 : List Byte) (b3 : List Nat) (b4 : Nat)
    (b5 : Nat) (h : Good k s) :
    Good k (carryWrite s a b2 b3 b4 b5) := by
    induction b5 generalizing s a b2 b3 b4 with
    | zero =>
      unfold carryWrite
      with_reducible repeat' first
        | assumption | apply State.hbmTraffic_good | apply State.noteAll_good | apply Mem.wf_carryCw | split
        | dsimp only | exact Good.mem (by assumption) | refine Good.build rfl rfl rfl ?_
        | refine Good.put rfl rfl ?_ ?_ | refine Mem.wf_of (by assumption) ?_
    | succ _ ih =>
      unfold carryWrite
      with_reducible repeat' first
        | assumption | apply ih | apply State.hbmTraffic_good | apply State.noteAll_good | apply Mem.wf_carryCw | split
        | dsimp only | exact Good.mem (by assumption) | refine Good.build rfl rfl rfl ?_
        | refine Good.put rfl rfl ?_ ?_ | refine Mem.wf_of (by assumption) ?_

theorem boardWrites_good {k : Standing} {s : State} (slot : Nat) (a : Nat) (tag : BitVec 16) (b4 : List Byte)
    (b5 : List Nat) (b6 : Nat) (b7 : Nat) (h : Good k s) :
    Good k (boardWrites s slot a tag b4 b5 b6 b7) := by
    induction b7 generalizing s slot a tag b4 b5 b6 with
    | zero =>
      unfold boardWrites
      with_reducible repeat' first
        | assumption | apply State.xmit_good | split | dsimp only | refine Good.build rfl rfl rfl ?_
    | succ _ ih =>
      unfold boardWrites
      with_reducible repeat' first
        | assumption | apply ih | apply State.xmit_good | split | dsimp only | refine Good.build rfl rfl rfl ?_

theorem State.markWritten_good {k : Standing} {s : State} (p : Pattern) (a : Nat) (h : Good k s) :
    Good k (State.markWritten s p a) := by
    unfold State.markWritten
    with_reducible repeat' first
      | assumption | split | dsimp only | refine Good.build rfl rfl rfl ?_

theorem State.freshTag_good {k : Standing} {s : State} (h : Good k s) :
    Good k (State.freshTag s).2 := by
    unfold State.freshTag
    with_reducible repeat' first
      | assumption | refine Good.snd (by assumption) ?_ | split | dsimp only | refine Good.build rfl rfl rfl ?_

theorem copyStep_keeps {k : Standing} (x : CopyCtx) (may : Bool → Nat → Bool) (cs : CopyState) {s : State}
    (h : Good k s) : (copyStep x may cs s).Keeps k := by
  have hr := carryRun_good (k := k) x.plan (readRun x.plan (readAt cs) (readWant x.plan cs)) h
  have ht := State.freshTag_good h
  unfold copyStep
  dsimp only
  repeat' split
  all_goals dsimp only [CopyStep.Keeps]
  all_goals first
    | exact trivial
    | exact h
    | exact hr
    | exact ht
    | exact State.xmit_good _ _ ht
    | exact boardWrites_good _ _ _ _ _ _ _ ht
    | exact State.floorCarry_good _ _ _ h
    | exact boardWrites_good _ _ _ _ _ _ _ (State.freshTag_good (State.noteAll_good _ _ h))
    | exact carryElems_good _ _ (State.markWritten_good _ _ (State.noteAll_good _ _ h))

theorem copyLoop_good {k : Standing} (x_ : CopyCtx) (free : Bool → Nat → Bool) (b2 : Nat)
    (b3 : Bool → Nat → Bool) (b4 : CopyState) {b5 : State} (h : Good k b5) :
    Good k (copyLoop x_ free b2 b3 b4 b5).1 := by
    induction b2 generalizing b3 b4 b5 with
    | zero => exact h
    | succ n ih =>
      unfold copyLoop
      have hs := copyStep_keeps x_ b3 b4 h
      split <;> rename_i e <;> rw [e] at hs
      · exact ih _ _ hs
      · exact hs
      · exact h

theorem advanceCopy_good {k : Standing} (g : Nat) (idx : Nat) (may : CopyCtx → Bool → Nat → Bool) {s : State}
    (h : Good k s) :
    Good k (advanceCopy g idx may s) := by
    unfold advanceCopy
    with_reducible repeat' first
      | assumption | apply copyLoop_good | apply State.updCl_good | apply State.faultPour_good
      | refine Good.fst (by assumption) ?_ | split | dsimp only | refine Good.build rfl rfl rfl ?_

theorem advanceFree_good {k : Standing} (g : Nat) (idx : Nat) {s : State} (h : Good k s) :
    Good k (advanceFree g idx s) := by
    unfold advanceFree
    with_reducible repeat' first
      | assumption | apply advanceCopy_good | split | dsimp only | refine Good.build rfl rfl rfl ?_

/-! ### Machine/Collective.lean -/

theorem State.trafficOf_good {k : Standing} {s : State} (w : Nat) (write : Bool) (bits : List Nat) (h : Good k s) :
    Good k (State.trafficOf s w write bits) := by
    unfold State.trafficOf
    with_reducible repeat' first
      | assumption | apply State.hbmTraffic_good | refine Good.foldl ?_ fun _ _ _ => ?_ | split | dsimp only
      | refine Good.build rfl rfl rfl ?_

theorem CollCtx.readS_good {k : Standing} (c : CollCtx) (idx : List Nat) {s : State} (h : Good k s) :
    Good k (CollCtx.readS c idx s).1 := by
    unfold CollCtx.readS
    with_reducible repeat' first
      | assumption | apply consume_good | apply State.trafficOf_good | refine Good.fst (by assumption) ?_
      | split | dsimp only | refine Good.build rfl rfl rfl ?_

theorem CollCtx.carryS_good {k : Standing} (c : CollCtx) (idx : List Nat) {s : State} (h : Good k s) :
    Good k (CollCtx.carryS c idx s).1 := by
    unfold CollCtx.carryS
    with_reducible repeat' first
      | assumption | apply State.trafficOf_good | apply State.noteAll_good | apply Mem.wf_readElems
      | refine Good.fst (by assumption) ?_ | split | dsimp only | exact Good.mem (by assumption)
      | refine Good.build rfl rfl rfl ?_ | refine Good.put rfl rfl ?_ ?_ | refine Mem.wf_of (by assumption) ?_

theorem CollCtx.storeD_good {k : Standing} (c : CollCtx) (vals : List (Nat × Nat × Bool)) (n : CollInstance)
    {s : State} (h : Good k s) :
    Good k (CollCtx.storeD c vals n s).1 := by
    unfold CollCtx.storeD
    with_reducible repeat' first
      | assumption | apply State.markWritten_good | apply carryPatch_good | refine Good.foldl ?_ fun _ _ _ => ?_
      | refine Good.fst (by assumption) ?_ | split | dsimp only | refine Good.build rfl rfl rfl ?_

theorem CollCtx.finish_good {k : Standing} (c : CollCtx) (vals : List (Nat × Nat)) (n : CollInstance)
    {s : State} (h : Good k s) :
    Good k (CollCtx.finish c vals n s).1 := by
    unfold CollCtx.finish
    with_reducible repeat' first
      | assumption | apply CollCtx.storeD_good | refine Good.foldl ?_ fun _ _ _ => ?_
      | refine Good.fst (by assumption) ?_ | split | dsimp only | refine Good.build rfl rfl rfl ?_

theorem CollCtx.combineIn_good {k : Standing} (c : CollCtx) (vals : List (Nat × Nat)) (n : CollInstance)
    {s : State} (h : Good k s) :
    Good k (CollCtx.combineIn c vals n s).1 := by
    unfold CollCtx.combineIn
    with_reducible repeat' first
      | assumption | apply CollCtx.readS_good | apply CollCtx.finish_good | refine Good.foldl ?_ fun _ _ _ => ?_
      | refine Good.fst (by assumption) ?_ | split | dsimp only | refine Good.build rfl rfl rfl ?_

theorem CollCtx.moveIn_good {k : Standing} (c : CollCtx) (vals : List (Nat × Nat × Bool)) (n : CollInstance)
    {s : State} (h : Good k s) :
    Good k (CollCtx.moveIn c vals n s).1 := by
    unfold CollCtx.moveIn
    with_reducible repeat' first
      | assumption | apply CollCtx.storeD_good | refine Good.fst (by assumption) ?_ | split | dsimp only
      | refine Good.build rfl rfl rfl ?_

theorem CollCtx.takePart_good {k : Standing} (c : CollCtx) (k_ : Nat) (t : StreamSpec) (f : Nat) (m : Nat)
    (out : Option CollFault) (data : List Byte) (poison : List Nat) (n : CollInstance) {s : State} (h : Good k s) :
    Good k (CollCtx.takePart c k_ t f m out data poison n s).1 := by
    unfold CollCtx.takePart
    with_reducible repeat' first
      | assumption | apply CollCtx.moveIn_good | apply CollCtx.combineIn_good
      | refine Good.foldl ?_ fun _ _ _ => ?_ | refine Good.fst (by assumption) ?_ | split | dsimp only
      | refine Good.build rfl rfl rfl ?_

theorem CollCtx.takeFrame_good {k : Standing} (c : CollCtx) (k_ : Nat) (e : Nat) (t : StreamSpec) (f : Nat)
    (data : List Byte) (poison : List Nat) (n : CollInstance) {s : State} (h : Good k s) :
    Good k (CollCtx.takeFrame c k_ e t f data poison n s).1 := by
    unfold CollCtx.takeFrame
    with_reducible repeat' first
      | assumption | apply CollCtx.takePart_good | refine Good.fst (by assumption) ?_ | split | dsimp only
      | refine Good.build rfl rfl rfl ?_

theorem CollCtx.takeInOrder_good {k : Standing} (c : CollCtx) (k_ : Nat) (t : StreamSpec) (b3 : Nat)
    (b4 : CollInstance) {b5 : State} (h : Good k b5) :
    Good k (CollCtx.takeInOrder c k_ t b3 b4 b5).1 := by
    induction b3 generalizing c k_ t b4 b5 with
    | zero =>
      unfold CollCtx.takeInOrder
      with_reducible repeat' first
        | assumption | apply CollCtx.takeFrame_good | refine Good.fst (by assumption) ?_ | split | dsimp only
        | refine Good.build rfl rfl rfl ?_
    | succ _ ih =>
      unfold CollCtx.takeInOrder
      with_reducible repeat' first
        | assumption | apply ih | apply CollCtx.takeFrame_good | refine Good.fst (by assumption) ?_ | split | dsimp only
        | refine Good.build rfl rfl rfl ?_

theorem CollCtx.takeAll_good {k : Standing} (c : CollCtx) (b1 : List (Nat × StreamSpec)) (b2 : CollInstance)
    {b3 : State} (h : Good k b3) :
    Good k (CollCtx.takeAll c b1 b2 b3).1 := by
    induction b1 generalizing c b2 b3 with
    | nil =>
      unfold CollCtx.takeAll
      with_reducible repeat' first
        | assumption | apply CollCtx.takeInOrder_good | refine Good.fst (by assumption) ?_ | split | dsimp only
        | refine Good.build rfl rfl rfl ?_
    | cons _ _ ih =>
      unfold CollCtx.takeAll
      with_reducible repeat' first
        | assumption | apply ih | apply CollCtx.takeInOrder_good | refine Good.fst (by assumption) ?_ | split | dsimp only
        | refine Good.build rfl rfl rfl ?_

theorem CollCtx.frameData_good {k : Standing} (c : CollCtx) (k_ : Nat) (e : Nat) (t : StreamSpec) (f : Nat)
    (n : CollInstance) {s : State} (h : Good k s) :
    Good k (CollCtx.frameData c k_ e t f n s).1 := by
    unfold CollCtx.frameData
    with_reducible repeat' first
      | assumption | apply CollCtx.carryS_good | apply CollCtx.readS_good | refine Good.foldl ?_ fun _ _ _ => ?_
      | refine Good.fst (by assumption) ?_ | split | dsimp only | refine Good.build rfl rfl rfl ?_

theorem CollCtx.sendReady_good {k : Standing} (c : CollCtx) (k_ : Nat) (t : StreamSpec) (b3 : Nat)
    (b4 : CollInstance) {b5 : State} (h : Good k b5) :
    Good k (CollCtx.sendReady c k_ t b3 b4 b5).1 := by
    induction b3 generalizing c k_ t b4 b5 with
    | zero =>
      unfold CollCtx.sendReady
      with_reducible repeat' first
        | assumption | apply State.xmit_good | apply CollCtx.frameData_good | refine Good.fst (by assumption) ?_
        | split | dsimp only | refine Good.build rfl rfl rfl ?_
    | succ _ ih =>
      unfold CollCtx.sendReady
      with_reducible repeat' first
        | assumption | apply ih | apply State.xmit_good | apply CollCtx.frameData_good | refine Good.fst (by assumption) ?_
        | split | dsimp only | refine Good.build rfl rfl rfl ?_

theorem CollCtx.sendAll_good {k : Standing} (c : CollCtx) (b1 : List (Nat × StreamSpec)) (b2 : CollInstance)
    {b3 : State} (h : Good k b3) :
    Good k (CollCtx.sendAll c b1 b2 b3).1 := by
    induction b1 generalizing c b2 b3 with
    | nil =>
      unfold CollCtx.sendAll
      with_reducible repeat' first
        | assumption | apply CollCtx.sendReady_good | refine Good.fst (by assumption) ?_ | split | dsimp only
        | refine Good.build rfl rfl rfl ?_
    | cons _ _ ih =>
      unfold CollCtx.sendAll
      with_reducible repeat' first
        | assumption | apply ih | apply CollCtx.sendReady_good | refine Good.fst (by assumption) ?_ | split | dsimp only
        | refine Good.build rfl rfl rfl ?_

theorem State.putColl_good {k : Standing} {s : State} (n : CollInstance) (h : Good k s) :
    Good k (State.putColl s n) := by
    unfold State.putColl
    with_reducible repeat' first
      | assumption | split | dsimp only | refine Good.build rfl rfl rfl ?_

theorem CollCtx.fail_good {k : Standing} (c : CollCtx) (n : CollInstance) (f : CollFault) {s : State}
    (h : Good k s) :
    Good k (CollCtx.fail c n f s) := by
    unfold CollCtx.fail
    with_reducible repeat' first
      | assumption | apply State.faultPour_good | split | dsimp only | refine Good.build rfl rfl rfl ?_

theorem CollCtx.beginPart_good {k : Standing} (c : CollCtx) (m : Nat) (out : Option CollFault)
    (n : CollInstance) {s : State} (h : Good k s) :
    Good k (CollCtx.beginPart c m out n s).1 := by
    unfold CollCtx.beginPart
    with_reducible repeat' first
      | assumption | apply CollCtx.readS_good | apply CollCtx.finish_good | apply CollCtx.carryS_good
      | apply CollCtx.moveIn_good | refine Good.fst (by assumption) ?_ | split | dsimp only
      | refine Good.build rfl rfl rfl ?_

theorem CollCtx.startPart_good {k : Standing} (c : CollCtx) (n : CollInstance) {s : State} (h : Good k s) :
    Good k (CollCtx.begin_ c n s).1 := by
    unfold CollCtx.begin_
    with_reducible repeat' first
      | assumption | apply CollCtx.beginPart_good | refine Good.fst (by assumption) ?_ | split | dsimp only
      | refine Good.build rfl rfl rfl ?_

theorem CollCtx.land_good {k : Standing} (c : CollCtx) (n : CollInstance) {s : State} (h : Good k s) :
    Good k (CollCtx.land c n s) := by
    unfold CollCtx.land
    with_reducible repeat' first
      | assumption | apply CollCtx.beginPart_good | apply CollCtx.takePart_good
      | refine Good.foldl ?_ fun _ _ _ => ?_ | refine Good.fst (by assumption) ?_ | split | dsimp only
      | refine Good.build rfl rfl rfl ?_

theorem CollCtx.progress_good {k : Standing} (c : CollCtx) (n : CollInstance) {s : State} (h : Good k s) :
    Good k (CollCtx.progress c n s).1 := by
    unfold CollCtx.progress
    with_reducible repeat' first
      | assumption | apply CollCtx.startPart_good | apply CollCtx.takeAll_good | apply CollCtx.sendAll_good
      | refine Good.fst (by assumption) ?_ | split | dsimp only | refine Good.build rfl rfl rfl ?_

theorem CollCtx.advance_good {k : Standing} (c : CollCtx) (n : CollInstance) {s : State} (h : Good k s) :
    Good k (CollCtx.advance c n s) := by
    unfold CollCtx.advance
    with_reducible repeat' first
      | assumption | apply CollCtx.progress_good | apply CollCtx.fail_good | apply State.putColl_good
      | refine Good.fst (by assumption) ?_ | split | dsimp only | refine Good.build rfl rfl rfl ?_

/-! ### Machine/CollOps.lean -/

theorem CollCtx.sendStarts_good {k : Standing} (c : CollCtx) (n : CollInstance) {s : State} (h : Good k s) :
    Good k (CollCtx.sendStarts c n s) := by
    unfold CollCtx.sendStarts
    with_reducible repeat' first
      | assumption | apply State.xmit_good | refine Good.foldl ?_ fun _ _ _ => ?_ | split | dsimp only
      | refine Good.build rfl rfl rfl ?_

theorem landCopy_good {k : Standing} (g : Nat) (fl : Flight) {s : State} (h : Good k s) :
    Good k (landCopy g fl s) := by
    unfold landCopy
    with_reducible repeat' first
      | assumption | apply State.noteAll_good | apply carryPatch_good | refine Good.fst (by assumption) ?_
      | split | dsimp only | refine Good.build rfl rfl rfl ?_

theorem State.landAll_good {k : Standing} {s : State} (h : Good k s) :
    Good k (State.landAll s) := by
    unfold State.landAll
    with_reducible repeat' first
      | assumption | apply landCopy_good | apply CollCtx.land_good | refine Good.foldl ?_ fun _ _ _ => ?_
      | split | dsimp only | refine Good.build rfl rfl rfl ?_

theorem State.closeCycle_good {k : Standing} {s : State} (h : Good k s) :
    Good k (State.closeCycle s) := by
    unfold State.closeCycle
    with_reducible repeat' first
      | assumption | apply State.stopClusters_good | apply State.landAll_good | split | dsimp only
      | refine Good.build rfl rfl rfl ?_

theorem State.stopAttempt_good {k : Standing} {s : State} (status : BitVec 16) (replay : Bool) (h : Good k s) :
    Good k (State.stopAttempt s status replay) := by
    unfold State.stopAttempt
    with_reducible repeat' first
      | assumption | apply State.closeCycle_good | apply State.endAttempt_good | split | dsimp only
      | refine Good.build rfl rfl rfl ?_

theorem takeStartFrame_good {k : Standing} (f : Frame) {s : State} (h : Good k s) :
    Good k (takeStartFrame f s) := by
    unfold takeStartFrame
    with_reducible repeat' first
      | assumption | apply CollCtx.fail_good | apply CollCtx.advance_good | split | dsimp only
      | refine Good.build rfl rfl rfl ?_

theorem collAfterIssue_good {k : Standing} (g : Nat) (idx : Nat) {s : State} (h : Good k s) :
    Good k (collAfterIssue g idx s) := by
    unfold collAfterIssue
    with_reducible repeat' first
      | assumption | apply CollCtx.sendStarts_good | apply CollCtx.fail_good | apply CollCtx.advance_good
      | split | dsimp only | refine Good.build rfl rfl rfl ?_

theorem issueMove_good {k : Standing} (g : Nat) (eng : Engine) (isOp : Nat → Bool) (op : EngineOp) {s : State}
    (h : Good k s) (hop : ∀ x s, Good k s → Good k (op.perform x s).1) :
    Good k (issueMove g eng isOp op s) := by
    unfold issueMove
    with_reducible repeat' first
      | assumption | apply hop | apply issueHead_good | apply collAfterIssue_good | apply advanceFree_good
      | refine Good.fst (by assumption) ?_ | split | dsimp only | refine Good.build rfl rfl rfl ?_

theorem phaseCopy_good {k : Standing} (g : Nat) (eng : Engine) (idx : Nat) (phase : Nat) {s : State}
    (h : Good k s) :
    Good k (phaseCopy g eng idx phase s) := by
    unfold phaseCopy
    with_reducible repeat' first
      | assumption | apply advanceCopy_good | split | dsimp only | refine Good.build rfl rfl rfl ?_

theorem phaseStream_good {k : Standing} (e : Nat) (phase : Nat) {s : State} (h : Good k s) :
    Good k (phaseStream e phase s) := by
    unfold phaseStream
    with_reducible repeat' first
      | assumption | apply CollCtx.advance_good | apply State.floorCarry_good | split | dsimp only
      | refine Good.build rfl rfl rfl ?_

theorem takeStreamFrame_good {k : Standing} (p : Nat) (lp : Nat) (f : Frame) {s : State} (h : Good k s) :
    Good k (takeStreamFrame p lp f s) := by
    unfold takeStreamFrame
    with_reducible repeat' first
      | assumption | apply State.count_good | apply CollCtx.advance_good | split | dsimp only
      | refine Good.build rfl rfl rfl ?_

/-! ### Machine/Matrix.lean -/

theorem loadBank_good {k : Standing} (x_ : EngCtx) (r : MxRec) {s : State} (h : Good k s) :
    Good k (loadBank x_ r s).1 := by
    unfold loadBank
    with_reducible repeat' first
      | assumption | apply consume_good | refine Good.fst (by assumption) ?_ | split | dsimp only
      | refine Good.build rfl rfl rfl ?_

theorem consumeBank_good {k : Standing} {s : State} (g : Nat) (second : Bool) (addrs : List Nat) (w : Nat)
    (h : Good k s) :
    Good k (consumeBank s g second addrs w).1 := by
    unfold consumeBank
    with_reducible repeat' first
      | assumption | apply State.noteAll_good | apply State.updCl_good | apply Mem.wf_readElems
      | refine Good.fst (by assumption) ?_ | split | dsimp only | exact Good.mem (by assumption)
      | refine Good.build rfl rfl rfl ?_ | refine Good.put rfl rfl ?_ ?_ | refine Mem.wf_of (by assumption) ?_

theorem matmulReads_good {k : Standing} (x_ : EngCtx) (r : MxRec) {s : State} (h : Good k s) :
    Good k (matmulReads x_ r s).1 := by
    unfold matmulReads
    with_reducible repeat' first
      | assumption | apply consume_good | apply consumeBank_good | apply consumeTiles_good
      | refine Good.foldl ?_ fun _ _ _ => ?_ | refine Good.fst (by assumption) ?_ | split | dsimp only
      | refine Good.build rfl rfl rfl ?_

/-! ### Machine/Drain.lean -/

theorem drainOperand_good {k : Standing} (x_ : EngCtx) (a : Nat) (n : Nat) {s : State} (h : Good k s) :
    Good k (drainOperand x_ a n s).1 := by
    unfold drainOperand
    with_reducible repeat' first
      | assumption | apply consume_good | refine Good.fst (by assumption) ?_ | split | dsimp only
      | refine Good.build rfl rfl rfl ?_

theorem drainStore_good {k : Standing} (x_ : EngCtx) (r : DrRec) (words : List Nat) (sc : Array Nat)
    (bi : Array Nat) (base : Patch) {s : State} (h : Good k s) :
    Good k (drainStore x_ r words sc bi base s).1 := by
    unfold drainStore
    with_reducible repeat' first
      | assumption | apply State.applyPatch_good | refine Good.fst (by assumption) ?_ | split | dsimp only
      | refine Good.build rfl rfl rfl ?_

/-! ### Machine/Vector.lean -/

theorem consumeRegs_good {k : Standing} {s : State} (g : Nat) (addrs : List Nat) (w : Nat) (h : Good k s) :
    Good k (consumeRegs s g addrs w).1 := by
    unfold consumeRegs
    with_reducible repeat' first
      | assumption | apply State.noteAll_good | apply State.updCl_good | apply Mem.wf_readElems
      | refine Good.fst (by assumption) ?_ | split | dsimp only | exact Good.mem (by assumption)
      | refine Good.build rfl rfl rfl ?_ | refine Good.put rfl rfl ?_ ?_ | refine Mem.wf_of (by assumption) ?_

theorem State.applyRegs_good {k : Standing} {s : State} (g : Nat) (p : Patch) (h : Good k s) :
    Good k (State.applyRegs s g p) := by
    unfold State.applyRegs
    with_reducible repeat' first
      | assumption | apply State.noteAll_good | apply State.updCl_good | apply Mem.wf_apply | split | dsimp only
      | exact Good.mem (by assumption) | refine Good.build rfl rfl rfl ?_ | refine Good.put rfl rfl ?_ ?_
      | refine Mem.wf_of (by assumption) ?_

theorem readDescSource_good {k : Standing} (x_ : EngCtx) (r : VxRec) (a : Nat) (mx : Bool) {s : State}
    (h : Good k s) :
    Good k (readDescSource x_ r a mx s).1 := by
    unfold readDescSource
    with_reducible repeat' first
      | assumption | apply consume_good | refine Good.fst (by assumption) ?_ | split | dsimp only
      | refine Good.build rfl rfl rfl ?_

theorem readSource_good {k : Standing} (x_ : EngCtx) (r : VxRec) (p : VxSpec) {s : State} (h : Good k s) :
    Good k (readSource x_ r p s).1 := by
    unfold readSource
    with_reducible repeat' first
      | assumption | apply readDescSource_good | apply consumeTiles_good | apply consumeRegs_good
      | refine Good.fst (by assumption) ?_ | split | dsimp only | refine Good.build rfl rfl rfl ?_

theorem readSources_good {k : Standing} (x_ : EngCtx) (r : VxRec) (b2 : List VxSpec) {b3 : State} (h : Good k b3) :
    Good k (readSources x_ r b2 b3).1 := by
    induction b2 generalizing x_ r b3 with
    | nil =>
      unfold readSources
      with_reducible repeat' first
        | assumption | apply readSource_good | refine Good.fst (by assumption) ?_ | split | dsimp only
        | refine Good.build rfl rfl rfl ?_
    | cons _ _ ih =>
      unfold readSources
      with_reducible repeat' first
        | assumption | apply ih | apply readSource_good | refine Good.fst (by assumption) ?_ | split | dsimp only
        | refine Good.build rfl rfl rfl ?_

theorem readMask_good {k : Standing} (x_ : EngCtx) (r : VxRec) (n : Nat) {s : State} (h : Good k s) :
    Good k (readMask x_ r n s).1 := by
    unfold readMask
    with_reducible repeat' first
      | assumption | apply consume_good | refine Good.fst (by assumption) ?_ | split | dsimp only
      | refine Good.build rfl rfl rfl ?_

theorem readAll_good {k : Standing} (x_ : EngCtx) (r : VxRec) {s : State} (h : Good k s) :
    Good k (readAll x_ r s).1 := by
    unfold readAll
    with_reducible repeat' first
      | assumption | apply readSources_good | apply readMask_good | refine Good.fst (by assumption) ?_ | split
      | dsimp only | refine Good.build rfl rfl rfl ?_

theorem storeVxDesc_good {k : Standing} (x_ : EngCtx) (r : VxRec) (vals : List (Nat × Nat)) {s : State}
    (h : Good k s) :
    Good k (storeVxDesc x_ r vals s).1 := by
    unfold storeVxDesc
    with_reducible repeat' first
      | assumption | apply State.applyPatch_good | apply accumBase_good | refine Good.fst (by assumption) ?_
      | split | dsimp only | refine Good.build rfl rfl rfl ?_

theorem storeVxReg_good {k : Standing} (x_ : EngCtx) (r : VxRec) (vals : List (Nat × Nat)) {s : State}
    (h : Good k s) :
    Good k (storeVxReg x_ r vals s).1 := by
    unfold storeVxReg
    with_reducible repeat' first
      | assumption | apply State.applyRegs_good | refine Good.fst (by assumption) ?_ | split | dsimp only
      | refine Good.build rfl rfl rfl ?_

theorem storeVx_good {k : Standing} (x_ : EngCtx) (r : VxRec) (vals : List (Nat × Nat)) {s : State} (h : Good k s) :
    Good k (storeVx x_ r vals s).1 := by
    unfold storeVx
    with_reducible repeat' first
      | assumption | apply storeVxDesc_good | apply storeVxReg_good | refine Good.fst (by assumption) ?_ | split
      | dsimp only | refine Good.build rfl rfl rfl ?_

/-! ### Machine/Update.lean -/

theorem readTensors_good {k : Standing} (x_ : EngCtx) (b1 : List Nat) {b2 : State} (h : Good k b2) :
    Good k (readTensors x_ b1 b2).1 := by
    induction b1 generalizing x_ b2 with
    | nil =>
      unfold readTensors
      with_reducible repeat' first
        | assumption | apply consume_good | refine Good.fst (by assumption) ?_ | split | dsimp only
        | refine Good.build rfl rfl rfl ?_
    | cons _ _ ih =>
      unfold readTensors
      with_reducible repeat' first
        | assumption | apply ih | apply consume_good | refine Good.fst (by assumption) ?_ | split | dsimp only
        | refine Good.build rfl rfl rfl ?_

/-! ### Machine/VectorOps.lean -/

theorem carry_good {k : Standing} {s : State} (addrs : List Nat) (w : Nat) (h : Good k s) :
    Good k (carry s addrs w).1 := by
    unfold carry
    with_reducible repeat' first
      | assumption | apply State.noteAll_good | apply Mem.wf_readElems | refine Good.fst (by assumption) ?_
      | split | dsimp only | exact Good.mem (by assumption) | refine Good.build rfl rfl rfl ?_
      | refine Good.put rfl rfl ?_ ?_ | refine Mem.wf_of (by assumption) ?_

theorem State.poisonCws_good {k : Standing} {s : State} (cws : List Nat) (h : Good k s) :
    Good k (State.poisonCws s cws) := by
    unfold State.poisonCws
    refine State.noteAll_good _ _ (Good.put rfl rfl ?_ h)
    refine Mem.wf_foldl (f := fun m c => m.carryCw .chip c (m.raw (32 * c) 32) true) h.2 fun m c hm => Mem.wf_carryCw _ _ _ _ hm

/-! ### Machine/CoreOps.lean -/

/-- The state in an outcome of a control-core instruction. -/
def CoreOut.state : CoreOut → State
  | .retire s _ => s
  | .stall s _ => s
  | .fault s _ => s
  | .clash s _ _ => s

/-- The outcome keeps the standing and the form of memory. -/
def CoreOut.Keeps (k : Standing) (o : CoreOut) : Prop := Good k o.state

theorem CoreOut.apply_good {k : Standing} (g pc : Nat) (o : CoreOut) (h : o.Keeps k) : Good k (CoreOut.apply g pc o) := by
  cases o with
  | retire s n => exact State.count_good _ _ (State.updSampler_good _ _ (State.updCl_good _ _ h))
  | stall s w => exact State.updCl_good _ _ h
  | fault s st => exact State.faultPour_good _ _ _ _ _ h
  | clash s e pc => exact State.faultPour_good _ _ _ _ _ h

theorem consumeScalar_good {k : Standing} {s : State} (g : Nat) (a : Nat) (n : Nat) (h : Good k s) :
    Good k (consumeScalar s g a n).1 := by
    unfold consumeScalar
    with_reducible repeat' first
      | assumption | apply State.noteAll_good | apply State.updCl_good | apply Mem.wf_readRange
      | refine Good.fst (by assumption) ?_ | split | dsimp only | exact Good.mem (by assumption)
      | refine Good.build rfl rfl rfl ?_ | refine Good.put rfl rfl ?_ ?_ | refine Mem.wf_of (by assumption) ?_

theorem consumeCode_good {k : Standing} {s : State} (g : Nat) (a : Nat) (n : Nat) (h : Good k s) :
    Good k (consumeCode s g a n).1 := by
    unfold consumeCode
    with_reducible repeat' first
      | assumption | apply State.noteAll_good | apply State.updCl_good | apply Mem.wf_readRange
      | refine Good.fst (by assumption) ?_ | split | dsimp only | exact Good.mem (by assumption)
      | refine Good.build rfl rfl rfl ?_ | refine Good.put rfl rfl ?_ ?_ | refine Mem.wf_of (by assumption) ?_

theorem coreFetch_good {k : Standing} (g : Nat) (pc : Nat) {s : State} (h : Good k s) :
    Good k (coreFetch g pc s).1 := by
    unfold coreFetch
    with_reducible repeat' first
      | assumption | apply consumeCode_good | refine Good.fst (by assumption) ?_ | split | dsimp only
      | refine Good.build rfl rfl rfl ?_

theorem copyLine_good {k : Standing} (g : Nat) (a : Nat) (acc : List (Nat × BitVec 512)) {s : State}
    (h : Good k s) :
    Good k (copyLine g a acc s).1 := by
    unfold copyLine
    with_reducible repeat' first
      | assumption | apply consumeScalar_good | refine Good.fst (by assumption) ?_ | split | dsimp only
      | refine Good.build rfl rfl rfl ?_

theorem copyDescs_good {k : Standing} (g : Nat) (b1 : List Nat) (b2 : List (Nat × BitVec 512)) {b3 : State}
    (h : Good k b3) :
    Good k (copyDescs g b1 b2 b3).1 := by
    induction b1 generalizing g b2 b3 with
    | nil =>
      unfold copyDescs
      with_reducible repeat' first
        | assumption | apply copyLine_good | refine Good.fst (by assumption) ?_ | split | dsimp only
        | refine Good.build rfl rfl rfl ?_
    | cons _ _ ih =>
      unfold copyDescs
      with_reducible repeat' first
        | assumption | apply ih | apply copyLine_good | refine Good.fst (by assumption) ?_ | split | dsimp only
        | refine Good.build rfl rfl rfl ?_

theorem copyLines_good {k : Standing} (g : Nat) (eng : Engine) (rec_ : Nat) {s : State} (h : Good k s) :
    Good k (copyLines g eng rec_ s).1 := by
    unfold copyLines
    with_reducible repeat' first
      | assumption | apply copyDescs_good | apply copyLine_good | refine Good.fst (by assumption) ?_ | split
      | dsimp only | refine Good.build rfl rfl rfl ?_

theorem makeEntry_good {k : Standing} (p : Pattern) (g : Nat) (eng : Engine) (deferred : Bool) (pc : Nat)
    (addr : Nat) (seed : Nat → Word64) {s : State} (h : Good k s) :
    Good k (makeEntry p g eng deferred pc addr seed s).1 := by
    unfold makeEntry
    with_reducible repeat' first
      | assumption | apply consumeScalar_good | apply copyLines_good | refine Good.fst (by assumption) ?_
      | split | dsimp only | refine Good.build rfl rfl rfl ?_

theorem itemEntries_good {k : Standing} (p : Pattern) (g : Nat) (pc : Nat) (drMap : Nat) (first : Nat)
    (seed : Nat → Nat → Word64) (b6 : Nat) (b7 : Nat) (b8 : List QEntry) {b9 : State} (h : Good k b9) :
    Good k (itemEntries p g pc drMap first seed b6 b7 b8 b9).1 := by
    induction b6 generalizing p g pc drMap first seed b7 b8 b9 with
    | zero =>
      unfold itemEntries
      with_reducible repeat' first
        | assumption | apply makeEntry_good | refine Good.fst (by assumption) ?_ | split | dsimp only
        | refine Good.build rfl rfl rfl ?_
    | succ _ ih =>
      unfold itemEntries
      with_reducible repeat' first
        | assumption | apply ih | apply makeEntry_good | refine Good.fst (by assumption) ?_ | split | dsimp only
        | refine Good.build rfl rfl rfl ?_

/-- A fetch keeps what a step of the core keeps, in either case. -/
theorem coreRun_good {k : Standing} (g : Nat) (op : CoreOp) (body : CoreArgs → State → CoreOut) {s : State} (h : Good k s)
    (hb : ∀ a s, Good k s → (body a s).Keeps k) : Good k (coreRun g op body s) := by
  have hf := coreFetch_good g (s.cl g).pc.toNat h
  unfold coreRun
  dsimp only
  split
  · split <;> rename_i e <;> rw [e] at hf
    · exact CoreOut.apply_good _ _ _ hf
    · split
      · exact CoreOut.apply_good _ _ _ (hb _ _ hf)
      · exact h
  · exact h

theorem CoreArgs.result_keeps {k : Standing} (a : CoreArgs) (v : Word64) {s : State} (h : Good k s) :
    (a.result v s).Keeps k := State.updCl_good _ _ h

theorem aluBody_keeps {k : Standing} (f : Word64 → Word64 → Word64) (a : CoreArgs) {s : State} (h : Good k s) :
    (aluBody f a s).Keeps k := CoreArgs.result_keeps a _ h

theorem fpBody_keeps {k : Standing} (f : Nat → Nat → Nat) (a : CoreArgs) {s : State} (h : Good k s) :
    (fpBody f a s).Keeps k := aluBody_keeps _ a h

theorem loadBody_keeps {k : Standing} (n : Nat) (a : CoreArgs) {s : State} (h : Good k s) :
    (loadBody n a s).Keeps k := by
  have hc := consumeScalar_good a.g (a.dataAddr s) n h
  unfold loadBody
  dsimp only
  split
  · split <;> rename_i e <;> rw [e] at hc
    · exact hc
    · exact CoreArgs.result_keeps a _ hc
  · exact h

theorem storeBody_keeps {k : Standing} (n : Nat) (a : CoreArgs) {s : State} (h : Good k s) :
    (storeBody n a s).Keeps k := by
  unfold storeBody
  dsimp only
  split
  · exact h
  · exact State.noteAll_good _ _ (State.updCl_good _ _ h)

theorem CoreArgs.goTo_keeps {k : Standing} (a : CoreArgs) (t : Int) (link : Bool) {s : State} (h : Good k s) :
    (a.goTo t link s).Keeps k := by
  unfold CoreArgs.goTo
  split
  · show Good k (if link then _ else _)
    split
    · exact State.updCl_good _ _ h
    · exact h
  · exact h

theorem branchBody_keeps {k : Standing} (c : Word64 → Word64 → Bool) (a : CoreArgs) {s : State} (h : Good k s) :
    (branchBody c a s).Keeps k := by
  unfold branchBody
  split
  · exact CoreArgs.goTo_keeps a _ _ h
  · exact h

theorem issueBody_keeps {k : Standing} (a : CoreArgs) {s : State} (h : Good k s) : (issueBody a s).Keeps k := by
  unfold issueBody
  dsimp only
  split; · exact h
  split; · exact h
  split; · exact h
  split
  · exact h
  · rename_i p hp
    have hm := makeEntry_good p a.g (engineOf (fieldOf a.w 23 3)) false a.pc ((s.cl a.g).reg a.xa).toNat (s.cl a.g).reg h
    split <;> rename_i e <;> rw [e] at hm
    · exact hm
    · repeat' split
      all_goals first
        | exact hm
        | exact State.updCl_good _ _ hm

theorem deferArmBody_keeps {k : Standing} (a : CoreArgs) {s : State} (h : Good k s) : (deferArmBody a s).Keeps k := by
  have hc := consumeScalar_good a.g ((s.cl a.g).reg a.xa).toNat 64 h
  unfold deferArmBody
  dsimp only
  split; · exact h
  split; · exact h
  split
  · exact h
  · rename_i e; rw [e] at hc; exact hc
  · rename_i p s' b hp e
    rw [e] at hc
    split
    · exact hc
    · have hi := itemEntries_good p a.g a.pc (parseHeader (leNat b)).drMap (parseHeader (leNat b)).first
        (fun _ => (s.cl a.g).reg) (parseHeader (leNat b)).steps 0 [] hc
      split <;> rename_i e' <;> rw [e'] at hi
      · exact hi
      · split
        · exact hi
        · exact State.updCl_good _ _ hi

/-- Every instruction of the control core keeps the standing and the form of memory. -/
theorem coreBody_keeps {k : Standing} (op : CoreOp) (a : CoreArgs) {s : State} (h : Good k s) :
    (coreBody op a s).Keeps k := by
  cases op with
  | add | sub | and | or | xor | shl | shr | sra | mul | mulhu | divu | remu | slt | sltu | min | max =>
    dsimp only [coreBody, addBody, subBody, andBody, orBody, xorBody, shlBody, shrBody, sraBody, mulBody, mulhuBody, divuBody, remuBody, sltBody, sltuBody, minBody, maxBody]
    exact aluBody_keeps _ a h
  | addi | movk =>
    dsimp only [coreBody, addiBody, movkBody]
    exact CoreArgs.result_keeps a _ h
  | fadd | fsub | fmul | fdiv | fsqrt | fmin | fmax | flt | feq | fcvtDS | fcvtSD | fcvtDL | fcvtLD =>
    dsimp only [coreBody, faddBody, fsubBody, fmulBody, fdivBody, fsqrtBody, fminBody, fmaxBody, fltBody, feqBody, fcvtDSBody, fcvtSDBody, fcvtDLBody, fcvtLDBody]
    exact fpBody_keeps _ a h
  | ld64 | ld32 =>
    dsimp only [coreBody, ld64Body, ld32Body]
    exact loadBody_keeps _ a h
  | st64 | st32 =>
    dsimp only [coreBody, st64Body, st32Body]
    exact storeBody_keeps _ a h
  | beq | bne | blt | bge | bltu | bgeu =>
    dsimp only [coreBody, beqBody, bneBody, bltBody, bgeBody, bltuBody, bgeuBody]
    exact branchBody_keeps _ a h
  | jmp | call | jr =>
    dsimp only [coreBody, jmpBody, callBody, jrBody]
    exact CoreArgs.goTo_keeps a _ _ h
  | issue => exact issueBody_keeps a h
  | deferArm => exact deferArmBody_keeps a h
  | phaseHint | halt =>
    dsimp only [coreBody, phaseHintBody, haltBody]
    exact State.updCl_good _ _ h
  | waitt | sett | clrt | sumrd | deferSync | fence =>
    dsimp only [coreBody, waittBody, settBody, clrtBody, sumrdBody, deferSyncBody, fenceBody]
    repeat' split
    all_goals first
      | exact h
      | exact State.updCl_good _ _ h
      | exact CoreArgs.result_keeps a _ h

theorem coreRetry_good {k : Standing} (g : Nat) {s : State} (h : Good k s) : Good k (coreRetry g s) := by
  unfold coreRetry
  dsimp only
  split
  · split
    · exact h
    · rename_i op hop
      have hb := coreBody_keeps op (stalledArgs g (s.cl g).pc.toNat s) h
      generalize coreBody op (stalledArgs g (s.cl g).pc.toNat s) s = r at hb
      cases r
      · exact CoreOut.apply_good _ _ _ hb
      · exact h
      · exact CoreOut.apply_good _ _ _ hb
      · exact CoreOut.apply_good _ _ _ hb
  · exact h


end Sys2Proof.Machine
end

