-- ==== Sys2Proof/Laws/KeepPours.lean ====
section
/-! SUPPORT. What replies, power, attestation, intake, pours, runs and ports keep. -/

set_option linter.unusedTactic false
set_option linter.unreachableTactic false

namespace Sys2Proof.Machine

/-! ### Machine/Replies.lean -/

theorem State.queueReply_good {k : Standing} {s : State} (c : Nat) (r : Reply) (h : Good k s) :
    Good k (State.queueReply s c r) := by
    unfold State.queueReply
    with_reducible repeat' first
      | assumption | apply State.updVchan_good | split | dsimp only | refine Good.build rfl rfl rfl ?_

theorem State.queueFinal_good {k : Standing} {s : State} (c : Nat) (e : Entry) (h : Good k s) :
    Good k (State.queueFinal s c e) := by
    unfold State.queueFinal
    with_reducible repeat' first
      | assumption | apply State.updVchan_good | apply State.noteChan_good | split | dsimp only
      | refine Good.build rfl rfl rfl ?_

theorem State.writeReply_good {k : Standing} {s : State} (c : Nat) (r : Reply) (h : Good k s) :
    Good k (State.writeReply s c r) := by
    unfold State.writeReply
    with_reducible repeat' first
      | assumption | apply State.linesDone_good | apply State.count_good | apply State.hostWrite_good
      | apply State.updVchan_good | apply State.noteChan_good | apply State.msix_good | split | dsimp only
      | refine Good.build rfl rfl rfl ?_

theorem State.pumpReply_good {k : Standing} {s : State} (c : Nat) (h : Good k s) :
    Good k (State.pumpReply s c) := by
    unfold State.pumpReply
    with_reducible repeat' first
      | assumption | apply State.writeReply_good | apply State.updVchan_good | split | dsimp only
      | refine Good.build rfl rfl rfl ?_

theorem State.pumpReplies_good {k : Standing} (b0 : Nat) (b1 : Nat) {b2 : State} (h : Good k b2) :
    Good k (State.pumpReplies b0 b1 b2) := by
    induction b0 generalizing b1 b2 with
    | zero =>
      unfold State.pumpReplies
      with_reducible repeat' first
        | assumption | apply State.pumpReply_good | split | dsimp only | refine Good.build rfl rfl rfl ?_
    | succ _ ih =>
      unfold State.pumpReplies
      with_reducible repeat' first
        | assumption | apply ih | apply State.pumpReply_good | split | dsimp only | refine Good.build rfl rfl rfl ?_

theorem State.flushPort_good {k : Standing} {s : State} (p : HostPort) (h : Good k s) :
    Good k (State.flushPort s p) := by
    unfold State.flushPort
    with_reducible repeat' first
      | assumption | apply State.count_good | apply State.hostWrite_good | apply State.msix_good
      | apply State.updPort_good | apply State.pumpReplies_good | refine Good.foldl ?_ fun _ _ _ => ?_ | split
      | dsimp only | refine Good.build rfl rfl rfl ?_

theorem State.freeBuffer_good {k : Standing} {s : State} (b : Option Bool) (h : Good k s) :
    Good k (State.freeBuffer s b) := by
    unfold State.freeBuffer
    with_reducible repeat' first
      | assumption | split | dsimp only | refine Good.build rfl rfl rfl ?_

theorem State.routeRefusal_good {k : Standing} {s : State} (p : Packet) (st : BitVec 16) (h : Good k s) :
    Good k (State.routeRefusal s p st) := by
    unfold State.routeRefusal
    with_reducible repeat' first
      | assumption | apply State.flushPort_good | apply State.updPort_good | apply State.queueReply_good
      | apply State.updVchan_good | split | dsimp only | refine Good.build rfl rfl rfl ?_

theorem State.answerDuplicate_good {k : Standing} {s : State} (p : Packet) (h : Good k s) :
    Good k (State.answerDuplicate s p) := by
    unfold State.answerDuplicate
    with_reducible repeat' first
      | assumption | apply State.queueReply_good | apply State.updVchan_good | split | dsimp only
      | refine Good.build rfl rfl rfl ?_

theorem State.refuse_good {k : Standing} {s : State} (p : Packet) (st : BitVec 16) (h : Good k s) :
    Good k (State.refuse s p st) := by
    unfold State.refuse
    with_reducible repeat' first
      | assumption | apply State.count_good | apply State.updVchan_good | apply State.answerDuplicate_good
      | apply State.routeRefusal_good | apply State.freeBuffer_good | split | dsimp only
      | refine Good.build rfl rfl rfl ?_

/-! ### Machine/Power.lean -/

theorem State.updSeq_good {k : Standing} {s : State} (k_ : Nat) (f : Sequencer → Sequencer) (h : Good k s) :
    Good k (State.updSeq s k_ f) := by
    unfold State.updSeq
    with_reducible repeat' first
      | assumption | split | dsimp only | refine Good.build rfl rfl rfl ?_

theorem State.enableAll_good {k : Standing} {s : State} (ks : List Nat) (h : Good k s) :
    Good k (State.enableAll s ks) := by
    unfold State.enableAll
    with_reducible repeat' first
      | assumption | apply State.updSeq_good | refine Good.foldl ?_ fun _ _ _ => ?_ | split | dsimp only
      | refine Good.build rfl rfl rfl ?_

theorem State.resetSamples_good {k : Standing} {s : State} (g : Nat) (f : Sampler → Sampler) (h : Good k s) :
    Good k (State.resetSamples s g f) := by
    unfold State.resetSamples
    with_reducible repeat' first
      | assumption | split | dsimp only | refine Good.build rfl rfl rfl ?_

theorem State.openGates_good {k : Standing} {s : State} (k_ : Nat) (h : Good k s) :
    Good k (State.openGates s k_) := by
    unfold State.openGates
    with_reducible repeat' first
      | assumption | apply State.updCl_good | refine Good.foldl ?_ fun _ _ _ => ?_ | split | dsimp only
      | refine Good.build rfl rfl rfl ?_

theorem State.loseSamples_good {k : Standing} {s : State} (g : Nat) (h : Good k s) :
    Good k (State.loseSamples s g) := by
    unfold State.loseSamples
    with_reducible repeat' first
      | assumption | apply State.resetSamples_good | split | dsimp only | refine Good.build rfl rfl rfl ?_

theorem State.settleSamples_good {k : Standing} {s : State} (h : Good k s) :
    Good k (State.settleSamples s) := by
    unfold State.settleSamples
    with_reducible repeat' first
      | assumption | apply State.loseSamples_good | refine Good.foldl ?_ fun _ _ _ => ?_ | split | dsimp only
      | refine Good.build rfl rfl rfl ?_

theorem State.freshSamples_good {k : Standing} {s : State} (h : Good k s) :
    Good k (State.freshSamples s) := by
    unfold State.freshSamples
    with_reducible repeat' first
      | assumption | apply State.loseSamples_good | refine Good.foldl ?_ fun _ _ _ => ?_ | split | dsimp only
      | refine Good.build rfl rfl rfl ?_

theorem State.loseGroup_good {k : Standing} {s : State} (k_ : Nat) (h : Good k s) :
    Good k (State.loseGroup s k_) := by
    unfold State.loseGroup
    with_reducible repeat' first
      | assumption | apply State.updCl_good | apply Mem.wf_clear | refine Good.foldl ?_ fun _ _ _ => ?_ | split
      | dsimp only | exact Good.mem (by assumption) | refine Good.build rfl rfl rfl ?_
      | refine Good.put rfl rfl ?_ ?_ | refine Mem.wf_of (by assumption) ?_

theorem State.disableDomain_good {k : Standing} {s : State} (k_ : Nat) (h : Good k s) :
    Good k (State.disableDomain s k_) := by
    unfold State.disableDomain
    with_reducible repeat' first
      | assumption | apply State.updSeq_good | apply State.updCl_good | refine Good.foldl ?_ fun _ _ _ => ?_
      | split | dsimp only | refine Good.build rfl rfl rfl ?_

theorem State.wake_good {k : Standing} {s : State} (a : Nat) (h : Good k s) :
    Good k (State.wake s a) := by
    unfold State.wake
    with_reducible repeat' first
      | assumption | apply State.updSeq_good | split | dsimp only | refine Good.build rfl rfl rfl ?_

theorem State.shareEnergy_good {k : Standing} {s : State} (nj : Nat) (h : Good k s) :
    Good k (State.shareEnergy s nj) := by
    unfold State.shareEnergy
    with_reducible repeat' first
      | assumption | refine Good.foldl ?_ fun _ _ _ => ?_ | split | dsimp only
      | refine Good.build rfl rfl rfl ?_

theorem State.paceStep_good {k : Standing} {s : State} (h : Good k s) :
    Good k (State.paceStep s) := by
    unfold State.paceStep
    with_reducible repeat' first
      | assumption | refine Good.foldl ?_ fun _ _ _ => ?_ | split | dsimp only
      | refine Good.build rfl rfl rfl ?_

theorem State.gateStep_good {k : Standing} {s : State} (estimate : Nat) (baseMax : BitVec 16)
    (computeMax : BitVec 16) (h : Good k s) :
    Good k (State.gateStep s estimate baseMax computeMax) := by
    unfold State.gateStep
    with_reducible repeat' first
      | assumption | apply State.paceStep_good | apply State.shareEnergy_good | apply State.updCl_good
      | refine Good.foldl ?_ fun _ _ _ => ?_ | split | dsimp only | refine Good.build rfl rfl rfl ?_

theorem State.stepTaken_good {k : Standing} {s : State} (h : Good k s) :
    Good k (State.stepTaken s) := by
    unfold State.stepTaken
    with_reducible repeat' first
      | assumption | split | dsimp only | refine Good.build rfl rfl rfl ?_

theorem State.trustStep_good {k : Standing} {s : State} (n : Nat) (h : Good k s) :
    Good k (State.trustStep s n) := by
    unfold State.trustStep
    with_reducible repeat' first
      | assumption | apply State.addLocal_good | apply State.logStatus_good | split | dsimp only
      | refine Good.build rfl rfl rfl ?_

theorem State.writeCap_good {k : Standing} {s : State} (value : Word32) (h : Good k s) :
    Good k (State.writeCap s value) := by
    unfold State.writeCap
    with_reducible repeat' first
      | assumption | apply State.rsvdWrite_good | apply State.rsvdIf_good | split | dsimp only
      | refine Good.build rfl rfl rfl ?_

theorem State.writeStatus_good {k : Standing} {s : State} (value : Word32) (h : Good k s) :
    Good k (State.writeStatus s value) := by
    unfold State.writeStatus
    with_reducible repeat' first
      | assumption | apply State.rsvdIf_good | apply State.updLedger_good | split | dsimp only
      | refine Good.build rfl rfl rfl ?_

theorem State.darkPort_good {k : Standing} {s : State} (p : Nat) (h : Good k s) :
    Good k (State.darkPort s p) := by
    unfold State.darkPort
    with_reducible repeat' first
      | assumption | apply State.updSeq_good | split | dsimp only | refine Good.build rfl rfl rfl ?_

theorem State.dropWork_good {k : Standing} {s : State} (h : Good k s) :
    Good k (State.dropWork s) := by
    unfold State.dropWork
    with_reducible repeat' first
      | assumption | apply State.stopClusters_good | split | dsimp only | refine Good.build rfl rfl rfl ?_

theorem State.stopPorts_good {k : Standing} {s : State} (h : Good k s) :
    Good k (State.stopPorts s) := by
    unfold State.stopPorts
    with_reducible repeat' first
      | assumption | split | dsimp only | refine Good.build rfl rfl rfl ?_

/-! ### Machine/AssayOps.lean -/

theorem State.flashWrite_good {k : Standing} {s : State} (a : Nat) (bs : List Byte) (h : Good k s) :
    Good k (State.flashWrite s a bs) := by
    unfold State.flashWrite
    with_reducible repeat' first
      | assumption | refine Good.foldl ?_ fun _ _ _ => ?_ | split | dsimp only
      | refine Good.build rfl rfl rfl ?_

theorem State.seedDrbg_good {k : Standing} {s : State} (h : Good k s) :
    Good k (State.seedDrbg s) := by
    unfold State.seedDrbg
    with_reducible repeat' first
      | assumption | split | dsimp only | refine Good.build rfl rfl rfl ?_

theorem State.drawBytes_good {k : Standing} {s : State} (n : Nat) (h : Good k s) :
    Good k (State.drawBytes s n).2 := by
    unfold State.drawBytes
    have h' : Good k (if 2 ^ 20 ≤ s.assay.drbg.requests then s.seedDrbg else s) := by
      split
      · exact State.seedDrbg_good h
      · exact h
    generalize (if 2 ^ 20 ≤ s.assay.drbg.requests then s.seedDrbg else s) = t at h' ⊢
    exact Good.build rfl rfl rfl h'


theorem State.spendLeaf_good {k : Standing} {s : State} (h : Good k s) :
    Good k (State.spendLeaf s) := by
    unfold State.spendLeaf
    with_reducible repeat' first
      | assumption | apply State.updLedger_good | apply State.drawBytes_good
      | refine Good.snd (by assumption) ?_ | split | dsimp only | refine Good.build rfl rfl rfl ?_

theorem State.readyLeaf_good {k : Standing} {s : State} (h : Good k s) :
    Good k (State.readyLeaf s) := by
    unfold State.readyLeaf
    with_reducible repeat' first
      | assumption | apply State.spendLeaf_good | split | dsimp only | refine Good.build rfl rfl rfl ?_

theorem State.aliasSign_good {k : Standing} {s : State} (msg : List Byte) (h : Good k s) :
    Good k (State.aliasSign s msg).2 := by
    unfold State.aliasSign
    with_reducible repeat' first
      | assumption | apply State.drawBytes_good | refine Good.snd (by assumption) ?_ | split | dsimp only
      | refine Good.build rfl rfl rfl ?_

theorem State.sign_good {k : Standing} {s : State} (msg : List Byte) (h : Good k s) :
    Good k (State.sign s msg).2 := by
    unfold State.sign
    with_reducible repeat' first
      | assumption | apply State.aliasSign_good | apply State.drawBytes_good
      | refine Good.snd (by assumption) ?_ | split | dsimp only | refine Good.build rfl rfl rfl ?_

theorem State.service_good {k : Standing} {s : State} (n : Nat) (h : Good k s) :
    Good k (State.service s n) := by
    unfold State.service
    with_reducible repeat' first
      | assumption | split | dsimp only | refine Good.build rfl rfl rfl ?_

theorem State.attestDevice_good {k : Standing} {s : State} (nonce : List Byte) (h : Good k s) :
    Good k (State.attestDevice s nonce).2 := by
    unfold State.attestDevice
    with_reducible repeat' first
      | assumption | apply State.readyLeaf_good | apply State.sign_good | apply State.service_good
      | refine Good.snd (by assumption) ?_ | split | dsimp only | refine Good.build rfl rfl rfl ?_

theorem State.receiptBytes_good {k : Standing} {s : State} (p : Pattern) (map : BitVec 4096) (bufs : List Nat)
    (h : Good k s) :
    Good k (State.receiptBytes s p map bufs).2 := by
    unfold State.receiptBytes
    generalize ([] : List Byte) = acc
    induction bufs generalizing acc s with
    | nil => exact h
    | cons b bufs ih => exact ih (State.readMem_good _ _ _ _ h) _

theorem State.storeReceipt_good {k : Standing} {s : State} (r : Receipt) (h : Good k s) :
    Good k (State.storeReceipt s r) := by
    unfold State.storeReceipt
    with_reducible repeat' first
      | assumption | split | dsimp only | refine Good.build rfl rfl rfl ?_

theorem State.dropReceipts_good {k : Standing} {s : State} (c : Nat) (h_ : Nat) (h : Good k s) :
    Good k (State.dropReceipts s c h_) := by
    unfold State.dropReceipts
    with_reducible repeat' first
      | assumption | split | dsimp only | refine Good.build rfl rfl rfl ?_

theorem State.attestReceiptOf_good {k : Standing} {s : State} (r : Receipt) (nonce : List Byte) (h : Good k s) :
    Good k (State.attestReceiptOf s r nonce).2 := by
    unfold State.attestReceiptOf
    with_reducible repeat' first
      | assumption | apply State.readyLeaf_good | apply State.sign_good | apply State.service_good
      | refine Good.snd (by assumption) ?_ | split | dsimp only | refine Good.build rfl rfl rfl ?_

/-! ### Machine/Faults.lean -/

theorem State.setSpares_good {k : Standing} {s : State} (die : Bool) (l : List Nat) (h : Good k s) :
    Good k (State.setSpares s die l) := by
    unfold State.setSpares
    with_reducible repeat' first
      | assumption | split | dsimp only | refine Good.build rfl rfl rfl ?_

theorem State.setBist_good {k : Standing} {s : State} (die : Bool) (b : Option Nat) (h : Good k s) :
    Good k (State.setBist s die b) := by
    unfold State.setBist
    with_reducible repeat' first
      | assumption | split | dsimp only | refine Good.build rfl rfl rfl ?_

theorem State.retire_good {k : Standing} {s : State} (die : Bool) (pos : Nat) (h : Good k s) :
    Good k (State.retire s die pos) := by
    unfold State.retire
    with_reducible repeat' first
      | assumption | apply State.addLocal_good | apply State.setSpares_good | apply State.updLedger_good | split
      | dsimp only | refine Good.build rfl rfl rfl ?_

theorem State.unmap_good {k : Standing} {s : State} (g : Nat) (status : BitVec 16) (ended : Bool) (h : Good k s) :
    Good k (State.unmap s g status ended) := by
    unfold State.unmap
    with_reducible repeat' first
      | assumption | split | dsimp only | refine Good.build rfl rfl rfl ?_

theorem State.mapTo_good {k : Standing} {s : State} (g : Nat) (pos : Nat) (h : Good k s) :
    Good k (State.mapTo s g pos) := by
    unfold State.mapTo
    refine State.loseSamples_good _ (State.staleKept_good (Good.put rfl rfl (Mem.wf_clear _ _ (Good.mem (k := k) ?_)) ?_))
    all_goals exact State.updCl_good _ _ (Good.build rfl rfl rfl h)

theorem State.retireWaiting_good {k : Standing} {s : State} (h : Good k s) :
    Good k (State.retireWaiting s) := by
    unfold State.retireWaiting
    with_reducible repeat' first
      | assumption | apply State.retire_good | refine Good.foldl ?_ fun _ _ _ => ?_ | split | dsimp only
      | refine Good.build rfl rfl rfl ?_

theorem State.dropWaiting_good {k : Standing} {s : State} (g : Nat) (h : Good k s) :
    Good k (State.dropWaiting s g) := by
    unfold State.dropWaiting
    with_reducible repeat' first
      | assumption | split | dsimp only | refine Good.build rfl rfl rfl ?_

theorem State.startSpare_good {k : Standing} (b0 : Nat) (b1 : Bool) {b2 : State} (h : Good k b2) :
    Good k (State.startSpare b0 b1 b2) := by
    induction b0 generalizing b1 b2 with
    | zero =>
      unfold State.startSpare
      with_reducible repeat' first
        | assumption | apply State.unmap_good | apply State.setSpares_good | apply State.setBist_good
        | apply State.dropWaiting_good | apply State.updSeq_good | split | dsimp only
        | refine Good.build rfl rfl rfl ?_
    | succ _ ih =>
      unfold State.startSpare
      with_reducible repeat' first
        | assumption | apply ih | apply State.unmap_good | apply State.setSpares_good | apply State.setBist_good
        | apply State.dropWaiting_good | apply State.updSeq_good | split | dsimp only
        | refine Good.build rfl rfl rfl ?_

theorem State.handleFaults_good {k : Standing} {s : State} (h : Good k s) :
    Good k (State.handleFaults s) := by
    unfold State.handleFaults
    with_reducible repeat' first
      | assumption | apply State.startSpare_good | apply State.retireWaiting_good | split | dsimp only
      | refine Good.build rfl rfl rfl ?_

theorem State.pourOver_good {k : Standing} {s : State} (h : Good k s) :
    Good k (State.pourOver s) := by
    unfold State.pourOver
    with_reducible repeat' first
      | assumption | apply State.handleFaults_good | split | dsimp only | refine Good.build rfl rfl rfl ?_

theorem State.queueFault_good {k : Standing} {s : State} (g : Nat) (pos : Nat) (status : BitVec 16)
    (ended : Bool) (h : Good k s) :
    Good k (State.queueFault s g pos status ended) := by
    unfold State.queueFault
    with_reducible repeat' first
      | assumption | apply State.handleFaults_good | split | dsimp only | refine Good.build rfl rfl rfl ?_

theorem State.spareFails_good {k : Standing} {s : State} (die : Bool) (pos : Nat) (h : Good k s) :
    Good k (State.spareFails s die pos) := by
    unfold State.spareFails
    with_reducible repeat' first
      | assumption | apply State.settleSamples_good | apply State.handleFaults_good | apply State.retire_good
      | apply State.setBist_good | split | dsimp only | refine Good.build rfl rfl rfl ?_

theorem State.sparePasses_good {k : Standing} {s : State} (die : Bool) (pos : Nat) (h : Good k s) :
    Good k (State.sparePasses s die pos) := by
    unfold State.sparePasses
    with_reducible repeat' first
      | assumption | apply State.setBist_good | apply State.settleSamples_good | apply State.setSpares_good
      | apply State.handleFaults_good | apply State.dropWaiting_good | apply State.mapTo_good | split
      | dsimp only | refine Good.build rfl rfl rfl ?_

/-! ### Machine/Intake.lean -/

theorem State.notReached_good {k : Standing} {s : State} (p : HostPort) (h : Good k s) :
    Good k (State.notReached s p) := by
    unfold State.notReached
    with_reducible repeat' first
      | assumption | apply State.count_good | split | dsimp only | refine Good.build rfl rfl rfl ?_

theorem State.takeBuffer_good {k : Standing} {s : State} (b : Option Bool) (h : Good k s) :
    Good k (State.takeBuffer s b) := by
    unfold State.takeBuffer
    with_reducible repeat' first
      | assumption | split | dsimp only | refine Good.build rfl rfl rfl ?_

theorem State.receive_good {k : Standing} {s : State} (k_ : Packet) (h : Good k s) :
    Good k (State.receive s k_) := by
    unfold State.receive
    with_reducible repeat' first
      | assumption | apply State.count_good | apply State.freeBuffer_good | apply State.addStray_good | split
      | dsimp only | refine Good.build rfl rfl rfl ?_

theorem State.windowWrite_good {k : Standing} {s : State} (p : HostPort) (c : Nat) (off : Nat)
    (data : List Byte) (h : Good k s) :
    Good k (State.windowWrite s p c off data) := by
    unfold State.windowWrite
    with_reducible repeat' first
      | assumption | apply State.takeBuffer_good | apply State.noteAll_good | apply State.receive_good
      | apply State.setWindow_good | apply State.addStray_good | apply Mem.wf_writeRange | apply Mem.wf_lay
      | split | dsimp only | exact Good.mem (by assumption) | refine Good.build rfl rfl rfl ?_
      | refine Good.put rfl rfl ?_ ?_ | refine Mem.wf_of (by assumption) ?_

theorem State.applyAck_good {k : Standing} {s : State} (c : Nat) (p : Nat) (h : Good k s) :
    Good k (State.applyAck s c p) := by
    unfold State.applyAck
    with_reducible repeat' first
      | assumption | apply State.updEntry_good | apply State.updChan_good | refine Good.foldl ?_ fun _ _ _ => ?_
      | split | dsimp only | refine Good.build rfl rfl rfl ?_

theorem State.bind_good {k : Standing} {s : State} (k_ : Packet) (h : Good k s) :
    Good k (State.bind s k_) := by
    unfold State.bind
    with_reducible repeat' first
      | assumption | apply State.applyAck_good | split | dsimp only | refine Good.build rfl rfl rfl ?_

theorem State.decidePacket_good {k : Standing} {s : State} (k_ : Packet) (h : Good k s) :
    Good k (State.decide_ s k_) := by
    unfold State.decide_
    with_reducible repeat' first
      | assumption | apply State.refuse_good | apply State.freeBuffer_good | apply State.applyAck_good
      | apply State.bind_good | split | dsimp only | refine Good.build rfl rfl rfl ?_

theorem State.carryPoison_good {k : Standing} {s : State} (c : Nat) (h : Good k s) :
    Good k (State.carryPoison s c) := by
    unfold State.carryPoison
    with_reducible repeat' first
      | assumption | apply State.noteAll_good | apply Mem.wf_carryCw | split | dsimp only
      | exact Good.mem (by assumption) | refine Good.build rfl rfl rfl ?_ | refine Good.put rfl rfl ?_ ?_
      | refine Mem.wf_of (by assumption) ?_

theorem State.writeBody_good {k : Standing} {s : State} (i : Nat) (k_ : Packet) (s0 : Bool) (s4 : Bool)
    (h : Good k s) :
    Good k (State.writeBody s i k_ s0 s4) := by
    unfold State.writeBody
    with_reducible repeat' first
      | assumption | apply State.noteAll_good | apply State.carryPoison_good | apply State.writeMem_good
      | apply State.wake_good | apply State.logStatus_good | refine Good.foldl ?_ fun _ _ _ => ?_ | split
      | dsimp only | refine Good.build rfl rfl rfl ?_

theorem State.openChannel_good {k : Standing} {s : State} (k_ : Packet) (h : Good k s) :
    Good k (State.openChannel s k_) := by
    unfold State.openChannel
    with_reducible repeat' first
      | assumption | apply State.updLedger_good | apply State.updVchan_good | split | dsimp only
      | refine Good.build rfl rfl rfl ?_

theorem State.askHost_good {k : Standing} {s : State} (c : Nat) (h : Good k s) :
    Good k (State.askHost s c) := by
    unfold State.askHost
    with_reducible repeat' first
      | assumption | apply State.updPort_good | split | dsimp only | refine Good.build rfl rfl rfl ?_

theorem State.restartTransfer_good {k : Standing} {s : State} (c : Nat) (h : Good k s) :
    Good k (State.restartTransfer s c) := by
    unfold State.restartTransfer
    with_reducible repeat' first
      | assumption | apply State.askHost_good | apply State.setRunning_good | split | dsimp only
      | refine Good.build rfl rfl rfl ?_

theorem State.adoptChannel_good {k : Standing} {s : State} (k_ : Packet) (own : Nat) (h : Good k s) :
    Good k (State.adoptChannel s k_ own) := by
    unfold State.adoptChannel
    with_reducible repeat' first
      | assumption | apply State.pumpReplies_good | apply State.updEntry_good | apply State.updChan_good
      | apply State.restartTransfer_good | apply State.updVchan_good | refine Good.foldl ?_ fun _ _ _ => ?_
      | split | dsimp only | refine Good.build rfl rfl rfl ?_

theorem State.channelEffect_good {k : Standing} {s : State} (k_ : Packet) (i : Nat) (h : Good k s) :
    Good k (State.channelEffect s k_ i) := by
    unfold State.channelEffect
    with_reducible repeat' first
      | assumption | apply State.openChannel_good | apply State.adoptChannel_good | apply State.updChan_good
      | split | dsimp only | refine Good.build rfl rfl rfl ?_

theorem State.commitAccept_good {k : Standing} {s : State} (b : Bound) (h : Good k s) :
    Good k (State.commitAccept s b) := by
    unfold State.commitAccept
    with_reducible repeat' first
      | assumption | apply State.updEntry_good | apply State.channelEffect_good | apply State.noteChan_good
      | apply State.freeBuffer_good | apply State.count_good | split | dsimp only
      | refine Good.build rfl rfl rfl ?_

theorem State.acceptWith_good {k : Standing} {s : State} (c : Nat) (s0 : Bool) (s4 : Bool) (h : Good k s) :
    Good k (State.acceptWith s c s0 s4) := by
    unfold State.acceptWith
    with_reducible repeat' first
      | assumption | apply State.refuse_good | apply State.commitAccept_good | apply State.writeBody_good
      | split | dsimp only | refine Good.build rfl rfl rfl ?_

theorem State.writeRhead_good {k : Standing} {s : State} (port : HostPort) (c : Nat) (value : Word32)
    (h : Good k s) :
    Good k (State.writeRhead s port c value) := by
    unfold State.writeRhead
    with_reducible repeat' first
      | assumption | apply State.addStray_good | apply State.updVchan_good | split | dsimp only
      | refine Good.build rfl rfl rfl ?_

/-! ### Machine/Pours.lean -/

theorem State.readUpTo_good {k : Standing} {s : State} (pour : Option (Nat × Word64)) (a n : Nat) (h : Good k s) :
    Good k (s.readUpTo pour a n).2.2 := State.readMem_good _ _ _ _ h

theorem State.poisonFaults_good {k : Standing} {s : State} (pour : Option (Nat × Word64)) (r : RangeRead)
    (h : Good k s) :
    Good k (State.poisonFaults s pour r) := by
    unfold State.poisonFaults
    with_reducible repeat' first
      | assumption | apply State.logStatus_good | refine Good.foldl ?_ fun _ _ _ => ?_ | split | dsimp only
      | refine Good.build rfl rfl rfl ?_

theorem State.readBody_good {k : Standing} {s : State} (i : Nat) (h : Good k s) :
    Good k (State.readBody s i).1 := by
    unfold State.readBody
    with_reducible repeat' first
      | assumption | apply State.readMem_good | apply State.poisonFaults_good | apply State.wake_good
      | refine Good.fst (by assumption) ?_ | refine Good.snd (by assumption) ?_ | split | dsimp only
      | refine Good.build rfl rfl rfl ?_

theorem State.noteRan_good {k : Standing} {s : State} (c : Nat) (i : Nat) (h : Good k s) :
    Good k (State.noteRan s c i) := by
    unfold State.noteRan
    with_reducible repeat' first
      | assumption | split | dsimp only | refine Good.build rfl rfl rfl ?_

theorem State.beginAttempt_good {k : Standing} {s : State} (c : Nat) (i : Nat) (k_ : Packet) (h : Good k s) :
    Good k (State.beginAttempt s c i k_) := by
    unfold State.beginAttempt
    with_reducible repeat' first
      | assumption | apply State.updEntry_good | apply State.linesDone_good | apply State.noteRan_good
      | apply State.setRunning_good | split | dsimp only | refine Good.build rfl rfl rfl ?_

theorem State.updRunning_good {k : Standing} {s : State} (c : Nat) (f : Running → Running) (h : Good k s) :
    Good k (State.updRunning s c f) := by
    unfold State.updRunning
    with_reducible repeat' first
      | assumption | apply State.setRunning_good | split | dsimp only | refine Good.build rfl rfl rfl ?_

theorem State.fix_good {k : Standing} {s : State} (c : Nat) (o : PourOutcome) (h : Good k s) :
    Good k (State.fix s c o) := by
    unfold State.fix
    with_reducible repeat' first
      | assumption | apply State.updRunning_good | split | dsimp only | refine Good.build rfl rfl rfl ?_

theorem State.startPour_good {k : Standing} {s : State} (c : Nat) (op : Nat)
    (needs : State → Packet → List Nat) (body : Nat → Packet → State → State) (h : Good k s) (hbody : ∀ a0 a1 s, Good k s → Good k (body a0 a1 s)) :
    Good k (State.startPour s c op needs body) := by
    unfold State.startPour
    with_reducible repeat' first
      | assumption | apply hbody | apply State.enableAll_good | apply State.readBody_good
      | apply State.beginAttempt_good | apply State.fix_good | refine Good.fst (by assumption) ?_ | split
      | dsimp only | refine Good.build rfl rfl rfl ?_

theorem State.flushPour_good {k : Standing} {s : State} (c : Nat) (h : Good k s) :
    Good k (State.flushPour s c) := by
    unfold State.flushPour
    with_reducible repeat' first
      | assumption | apply State.updRunning_good | apply State.hostWrite_good
      | refine Good.foldl ?_ fun _ _ _ => ?_ | split | dsimp only | refine Good.build rfl rfl rfl ?_

theorem State.answerWith_good {k : Standing} {s : State} (c : Nat) (a : Word64) (bs : List Byte)
    (o : PourOutcome) (h : Good k s) :
    Good k (State.answerWith s c a bs o) := by
    unfold State.answerWith
    with_reducible repeat' first
      | assumption | apply State.flushPour_good | apply State.updRunning_good | split | dsimp only
      | refine Good.build rfl rfl rfl ?_

theorem State.resumeOr_good {k : Standing} {s : State} (c : Nat) (op : Nat) {start : State} (h : Good k s)
    (hstart : Good k start) :
    Good k (State.resumeOr s c op start) := by
    unfold State.resumeOr
    with_reducible repeat' first
      | assumption | apply State.flushPour_good | split | dsimp only | refine Good.build rfl rfl rfl ?_

theorem State.foldSlot_good {k : Standing} {s : State} (c : Nat) (h : Good k s) :
    Good k (State.foldSlot s c) := by
    unfold State.foldSlot
    with_reducible repeat' first
      | assumption | apply State.updLedger_good | split | dsimp only | refine Good.build rfl rfl rfl ?_

theorem State.putSlot_good {k : Standing} {s : State} (c : Nat) (sl : CommitSlot) (h : Good k s) :
    Good k (State.putSlot s c sl) := by
    unfold State.putSlot
    with_reducible repeat' first
      | assumption | apply State.updLedger_good | split | dsimp only | refine Good.build rfl rfl rfl ?_

theorem State.dropRecords_good {k : Standing} {s : State} (h_ : Nat) (h : Good k s) :
    Good k (State.dropRecords s h_) := by
    unfold State.dropRecords
    with_reducible repeat' first
      | assumption | apply State.updLedger_good | split | dsimp only | refine Good.build rfl rfl rfl ?_

theorem State.unload_good {k : Standing} {s : State} (h_ : Nat) (h : Good k s) :
    Good k (State.unload s h_) := by
    unfold State.unload
    with_reducible repeat' first
      | assumption | apply State.dropReceipts_good | apply State.dropRecords_good | split | dsimp only
      | refine Good.build rfl rfl rfl ?_

theorem State.endEntry_good {k : Standing} {s : State} (c : Nat) (i : Nat) (o : PourOutcome) (epoch : Word32)
    (h : Good k s) :
    Good k (State.endEntry s c i o epoch) := by
    unfold State.endEntry
    with_reducible repeat' first
      | assumption | apply State.updEntry_good | split | dsimp only | refine Good.build rfl rfl rfl ?_

theorem State.doneEntry_good {k : Standing} {s : State} (c : Nat) (i : Nat) (h : Good k s) :
    Good k (State.doneEntry s c i) := by
    unfold State.doneEntry
    with_reducible repeat' first
      | assumption | apply State.updEntry_good | apply State.noteChan_good | apply State.setRunning_good
      | apply State.queueFinal_good | split | dsimp only | refine Good.build rfl rfl rfl ?_

theorem State.beforeCommit_good {k : Standing} {s : State} (b1 : CommitEffect) (h : Good k s) :
    Good k (State.beforeCommit s b1) := by
    unfold State.beforeCommit
    with_reducible repeat' first
      | assumption | apply State.updLedger_good | apply State.writeMem_good | apply State.wake_good | split
      | dsimp only | refine Good.build rfl rfl rfl ?_

theorem State.afterCommit_good {k : Standing} {s : State} (b1 : CommitEffect) (h : Good k s) :
    Good k (State.afterCommit s b1) := by
    unfold State.afterCommit
    with_reducible repeat' first
      | assumption | apply State.service_good | apply State.unload_good | split | dsimp only
      | refine Good.build rfl rfl rfl ?_

theorem State.commitFixed_good {k : Standing} {s : State} (c : Nat) (r : Running) (o : PourOutcome) (h : Good k s) :
    Good k (State.commitFixed s c r o) := by
    unfold State.commitFixed
    with_reducible repeat' first
      | assumption | apply State.endEntry_good | apply State.beforeCommit_good | apply State.doneEntry_good
      | apply State.afterCommit_good | apply State.putSlot_good | apply State.foldSlot_good | split | dsimp only
      | refine Good.build rfl rfl rfl ?_

/-! ### Machine/Opcodes.lean -/

theorem State.acceptOp_good {k : Standing} {s : State} (c : Nat) (op : Nat) (h : Good k s) :
    Good k (State.acceptOp s c op) := by
    unfold State.acceptOp
    with_reducible repeat' first
      | assumption | apply State.acceptWith_good | split | dsimp only | refine Good.build rfl rfl rfl ?_

theorem State.closeChannel_good {k : Standing} {s : State} (c : Nat) (h : Good k s) :
    Good k (State.closeChannel s c) := by
    unfold State.closeChannel
    with_reducible repeat' first
      | assumption | apply State.updEntry_good | apply State.updChan_good | apply State.updVchan_good
      | refine Good.foldl ?_ fun _ _ _ => ?_ | split | dsimp only | refine Good.build rfl rfl rfl ?_

theorem State.loadPattern_good {k : Standing} {s : State} (c : Nat) (k_ : Packet) (h : Good k s) :
    Good k (State.loadPattern s c k_) := by
    unfold State.loadPattern
    dsimp only
    split
    · exact State.fix_good _ _ h
    · have hr := State.readUpTo_good (some (c, BitVec.ofNat 64 k_.pour)) (fieldOf k_.pay 0 48 % 2 ^ 45)
        (fieldOf k_.pay 64 32) h
      split <;> rename_i e <;> rw [e] at hr
      · exact State.fix_good _ _ (State.poisonFaults_good _ _ hr)
      · split
        · exact State.fix_good _ _ hr
        · exact State.fix_good _ _ (State.writeMem_good _ _ _ _ (State.wake_good _ hr))

theorem State.copyOut_good {k : Standing} {s : State} (c : Nat) (k_ : Packet) (h : Good k s) :
    Good k (State.copyOut s c k_) := by
    unfold State.copyOut
    dsimp only
    split
    · exact State.fix_good _ _ h
    · rename_i a _
      split
      · exact State.updRunning_good _ _ h
      · have hr := State.readUpTo_good (some (c, BitVec.ofNat 64 k_.pour)) a k_.devRange.2 (State.wake_good a h)
        split <;> rename_i e <;> rw [e] at hr
        · exact State.fix_good _ _ (State.hostWrite_good _ _ _ hr)
        · refine State.fix_good _ _ ?_
          repeat' split
          all_goals first
            | exact hr
            | exact State.hostWrite_good _ _ _ hr
            | exact State.logStatus_good _ _ _ _ _ _ (Good.build rfl rfl rfl hr)
            | exact State.logStatus_good _ _ _ _ _ _ (Good.build rfl rfl rfl (State.hostWrite_good _ _ _ hr))

theorem State.verifySlot_good {k : Standing} {s : State} (c : Nat) (pour : Nat) (h : Good k s) :
    Good k (State.verifySlot s c pour).2 := by
    unfold State.verifySlot
    with_reducible repeat' first
      | assumption | apply State.logStatus_good | refine Good.snd (by assumption) ?_ | split | dsimp only
      | refine Good.build rfl rfl rfl ?_

theorem State.stageBytes_good {k : Standing} {s : State} (k_ : Packet) (t : Transfer) (bs : List Byte)
    (h : Good k s) :
    Good k (State.stageBytes s k_ t bs) := by
    unfold State.stageBytes
    with_reducible repeat' first
      | assumption | apply State.flashWrite_good | split | dsimp only | refine Good.build rfl rfl rfl ?_

theorem State.takeBytes_good {k : Standing} {s : State} (k_ : Packet) (t : Transfer) (bs : List Byte)
    (h : Good k s) :
    Good k (State.takeBytes s k_ t bs) := by
    unfold State.takeBytes
    with_reducible repeat' first
      | assumption | apply State.stageBytes_good | apply State.writeMem_good | apply State.wake_good | split
      | dsimp only | refine Good.build rfl rfl rfl ?_

theorem State.endTransfer_good {k : Standing} {s : State} (c : Nat) (k_ : Packet) (total : Nat) (h : Good k s) :
    Good k (State.endTransfer s c k_ total) := by
    unfold State.endTransfer
    with_reducible repeat' first
      | assumption | apply State.verifySlot_good | apply State.fix_good | refine Good.snd (by assumption) ?_
      | split | dsimp only | refine Good.build rfl rfl rfl ?_

theorem State.takeData_good {k : Standing} {s : State} (port : HostPort) (c : Nat) (r : Running)
    (t : Transfer) (data : List Byte) (h : Good k s) :
    Good k (State.takeData s port c r t data) := by
    unfold State.takeData
    with_reducible repeat' first
      | assumption | apply State.hostTlp_good | apply State.count_good | apply State.takeBytes_good
      | apply State.updRunning_good | apply State.endTransfer_good | split | dsimp only
      | refine Good.build rfl rfl rfl ?_

theorem State.notePoisoned_good {k : Standing} {s : State} (port : HostPort) (h : Good k s) :
    Good k (State.notePoisoned s port) := by
    unfold State.notePoisoned
    with_reducible repeat' first
      | assumption | apply State.updPort_good | split | dsimp only | refine Good.build rfl rfl rfl ?_

theorem State.failedRead_good {k : Standing} {s : State} (c : Nat) (r : Running) (h : Good k s) :
    Good k (State.failedRead s c r) := by
    unfold State.failedRead
    with_reducible repeat' first
      | assumption | apply State.askHost_good | apply State.fix_good | apply State.logStatus_good | split
      | dsimp only | refine Good.build rfl rfl rfl ?_

theorem State.resumeStage_good {k : Standing} {s : State} (c : Nat) (h : Good k s) :
    Good k (State.resumeStage s c) := by
    unfold State.resumeStage
    with_reducible repeat' first
      | assumption | apply State.updRunning_good | apply State.stageBytes_good | apply State.endTransfer_good
      | split | dsimp only | refine Good.build rfl rfl rfl ?_

/-! ### Machine/Relay.lean -/

theorem State.relayOut_good {k : Standing} {s : State} (p : Nat) (f : Frame) (h : Good k s) :
    Good k (State.relayOut s p f) := by
    unfold State.relayOut
    with_reducible repeat' first
      | assumption | apply State.stopAttempt_good | apply State.xmit_good | split | dsimp only
      | refine Good.build rfl rfl rfl ?_

theorem State.relay_good {k : Standing} {s : State} (p : Nat) (f : Frame) (h : Good k s) :
    Good k (State.relay s p f) := by
    unfold State.relay
    with_reducible repeat' first
      | assumption | apply State.relayOut_good | apply State.updRport_good | split | dsimp only
      | refine Good.build rfl rfl rfl ?_

theorem State.releasePort_good {k : Standing} {s : State} (p : Nat) (h : Good k s) :
    Good k (State.releasePort s p) := by
    unfold State.releasePort
    with_reducible repeat' first
      | assumption | apply State.relayOut_good | apply State.updRport_good
      | refine Good.foldl ?_ fun _ _ _ => ?_ | split | dsimp only | refine Good.build rfl rfl rfl ?_

theorem State.releaseRelays_good {k : Standing} {s : State} (h : Good k s) :
    Good k (State.releaseRelays s) := by
    unfold State.releaseRelays
    with_reducible repeat' first
      | assumption | apply State.releasePort_good | refine Good.foldl ?_ fun _ _ _ => ?_ | split | dsimp only
      | refine Good.build rfl rfl rfl ?_

/-! ### Machine/Runs.lean -/

theorem State.restoreTiles_good {k : Standing} {s : State} (p : Pattern) (map : BitVec 4096) (g : Nat)
    (h : Good k s) :
    Good k (State.restoreTiles s p map g).1 := by
    unfold State.restoreTiles
    with_reducible repeat' first
      | assumption | apply State.readMem_good | apply State.noteAll_good | apply Mem.wf_lay
      | refine Good.foldl ?_ fun _ _ _ => ?_ | refine Good.fst (by assumption) ?_
      | refine Good.snd (by assumption) ?_ | split | dsimp only | exact Good.mem (by assumption)
      | refine Good.build rfl rfl rfl ?_ | refine Good.put rfl rfl ?_ ?_ | refine Mem.wf_of (by assumption) ?_

theorem State.startTiles_good {k : Standing} {s : State} (p : Pattern) (map : BitVec 4096) (restore : Bool)
    (g : Nat) (h : Good k s) :
    Good k (State.startTiles s p map restore g).1 := by
    unfold State.startTiles
    with_reducible repeat' first
      | assumption | apply State.restoreTiles_good | refine Good.fst (by assumption) ?_ | split | dsimp only
      | refine Good.build rfl rfl rfl ?_

theorem State.setupCluster_good {k : Standing} {s : State} (p : Pattern) (map : BitVec 4096) (restore : Bool)
    (regs : Nat → Tab Word64) (g : Nat) (h : Good k s) :
    Good k (State.setupCluster s p map restore regs g) := by
    have hs : Good k (if p.keeps then s.startTiles p map restore g else (s, (⟨Mem.zeros, 0, false⟩ : Tiles))).1 := by
      split
      · exact State.startTiles_good p map restore g h
      · exact h
    exact Good.put rfl rfl (Mem.wf_clear _ _ hs.mem) hs

theorem State.setupClusters_good {k : Standing} {s : State} (p : Pattern) (map : BitVec 4096) (restore : Bool)
    (regs : Nat → Tab Word64) (h : Good k s) :
    Good k (State.setupClusters s p map restore regs) := by
    unfold State.setupClusters
    with_reducible repeat' first
      | assumption | apply State.setupCluster_good | apply State.updCl_good
      | refine Good.foldl ?_ fun _ _ _ => ?_ | split | dsimp only | refine Good.build rfl rfl rfl ?_

theorem State.clearColl_good {k : Standing} {s : State} (h : Good k s) :
    Good k (State.clearColl s) := by
    unfold State.clearColl
    with_reducible repeat' first
      | assumption | split | dsimp only | refine Good.build rfl rfl rfl ?_

theorem State.startAttempt_good {k : Standing} {s : State} (r : RunCtx) (p : Pattern) (k_ : Packet) (h : Good k s) :
    Good k (State.startAttempt s r p k_) := by
    unfold State.startAttempt
    with_reducible repeat' first
      | assumption | apply State.freshSamples_good | apply State.linesDone_good | apply State.setupClusters_good
      | apply State.updSampler_good | apply State.releaseRelays_good | apply State.clearColl_good
      | refine Good.foldl ?_ fun _ _ _ => ?_ | split | dsimp only | refine Good.build rfl rfl rfl ?_

theorem State.mismatched_good {k : Standing} {s : State} (h : Good k s) :
    Good k (State.mismatched s) := by
    unfold State.mismatched
    with_reducible repeat' first
      | assumption | apply State.stopAttempt_good | split | dsimp only | refine Good.build rfl rfl rfl ?_

theorem State.firstAttempt_good {k : Standing} {s : State} (c : Nat) (i : Nat) (k_ : Packet) (p : Pattern)
    (h : Good k s) :
    Good k (State.firstAttempt s c i k_ p) := by
    unfold State.firstAttempt
    with_reducible repeat' first
      | assumption | apply State.startAttempt_good | apply State.mismatched_good | split | dsimp only
      | refine Good.build rfl rfl rfl ?_

theorem State.startRun_good {k : Standing} {s : State} (c : Nat) (i : Nat) (k_ : Packet) (h : Good k s) :
    Good k (State.startRun s c i k_) := by
    unfold State.startRun
    with_reducible repeat' first
      | assumption | apply State.fix_good | apply State.firstAttempt_good | split | dsimp only
      | refine Good.build rfl rfl rfl ?_

theorem State.sendVote_good {k : Standing} {s : State} (p : Pattern) (dest : Nat) (kind : Nat) (v : Vote)
    (seq : Word32) (h : Good k s) :
    Good k (State.sendVote s p dest kind v seq) := by
    unfold State.sendVote
    with_reducible repeat' first
      | assumption | apply State.xmit_good | split | dsimp only | refine Good.build rfl rfl rfl ?_

theorem State.takeVerdict_good {k : Standing} {s : State} (p : Pattern) (r : RunCtx) (v : Vote) (h : Good k s) :
    Good k (State.takeVerdict s p r v) := by
    unfold State.takeVerdict
    with_reducible repeat' first
      | assumption | apply State.sendVote_good | refine Good.foldl ?_ fun _ _ _ => ?_ | split | dsimp only
      | refine Good.build rfl rfl rfl ?_

theorem State.castVote_good {k : Standing} {s : State} (p : Pattern) (r : RunCtx) (h : Good k s) :
    Good k (State.castVote s p r) := by
    unfold State.castVote
    with_reducible repeat' first
      | assumption | apply State.takeVerdict_good | apply State.sendVote_good
      | refine Good.foldl ?_ fun _ _ _ => ?_ | split | dsimp only | refine Good.build rfl rfl rfl ?_

theorem State.logLost_good {k : Standing} {s : State} (h : Good k s) :
    Good k (State.logLost s) := by
    unfold State.logLost
    with_reducible repeat' first
      | assumption | apply State.logStatus_good | split | dsimp only | refine Good.build rfl rfl rfl ?_

theorem State.voteStep_good {k : Standing} {s : State} (h : Good k s) :
    Good k (State.voteStep s) := by
    unfold State.voteStep
    with_reducible repeat' first
      | assumption | apply State.castVote_good | apply State.sendVote_good | apply State.takeVerdict_good
      | apply State.logLost_good | split | dsimp only | refine Good.build rfl rfl rfl ?_

theorem State.takeVoteUp_good {k : Standing} {s : State} (f : Frame) (h : Good k s) :
    Good k (State.takeVoteUp s f) := by
    unfold State.takeVoteUp
    with_reducible repeat' first
      | assumption | apply State.mismatched_good | apply State.voteStep_good | split | dsimp only
      | refine Good.build rfl rfl rfl ?_

theorem State.takeVoteDown_good {k : Standing} {s : State} (f : Frame) (h : Good k s) :
    Good k (State.takeVoteDown s f) := by
    unfold State.takeVoteDown
    with_reducible repeat' first
      | assumption | apply State.takeVerdict_good | split | dsimp only | refine Good.build rfl rfl rfl ?_

theorem State.eventEnds_good {k : Standing} {s : State} (status : BitVec 16) (charge : Bool) (h : Good k s) :
    Good k (State.eventEnds s status charge) := by
    unfold State.eventEnds
    with_reducible repeat' first
      | assumption | apply State.stopAttempt_good | apply State.updEntry_good | split | dsimp only
      | refine Good.build rfl rfl rfl ?_

theorem State.replayRun_good {k : Standing} {s : State} (c : Nat) (run : Running) (r : RunCtx) (p : Pattern)
    (h : Good k s) :
    Good k (State.replayRun s c run r p) := by
    unfold State.replayRun
    with_reducible repeat' first
      | assumption | apply State.updEntry_good | apply State.readBody_good | apply State.noteRan_good
      | apply State.setRunning_good | apply State.startAttempt_good | apply State.stopAttempt_good
      | refine Good.fst (by assumption) ?_ | split | dsimp only | refine Good.build rfl rfl rfl ?_

theorem State.carryIn_good {k : Standing} {s : State} (a : Nat) (bs : List Byte) (bad : List Nat) (h : Good k s) :
    Good k (State.carryIn s a bs bad) := by
    unfold State.carryIn
    with_reducible repeat' first
      | assumption | apply State.noteAll_good | apply State.writeMem_good | apply Mem.wf_carryCw
      | refine Good.foldl ?_ fun _ _ _ => ?_ | split | dsimp only | exact Good.mem (by assumption)
      | refine Good.build rfl rfl rfl ?_ | refine Good.put rfl rfl ?_ ?_ | refine Mem.wf_of (by assumption) ?_

theorem State.saveKept_good {k : Standing} {s : State} (p : Pattern) (map : BitVec 4096) (h : Good k s) :
    Good k (State.saveKept s p map) := by
    unfold State.saveKept
    with_reducible repeat' first
      | assumption | apply State.noteAll_good | apply State.updCl_good | apply State.carryIn_good
      | apply Mem.wf_readRange | refine Good.foldl ?_ fun _ _ _ => ?_ | split | dsimp only
      | exact Good.mem (by assumption) | refine Good.build rfl rfl rfl ?_ | refine Good.put rfl rfl ?_ ?_
      | refine Mem.wf_of (by assumption) ?_

theorem State.markEnded_good {k : Standing} {s : State} (p : Pattern) (h : Good k s) :
    Good k (State.markEnded s p) := by
    unfold State.markEnded
    with_reducible repeat' first
      | assumption | apply State.updCl_good | refine Good.foldl ?_ fun _ _ _ => ?_ | split | dsimp only
      | refine Good.build rfl rfl rfl ?_

theorem State.runOver_good {k : Standing} {s : State} (h : Good k s) :
    Good k (State.runOver s) := by
    unfold State.runOver
    with_reducible repeat' first
      | assumption | split | dsimp only | refine Good.build rfl rfl rfl ?_

theorem State.commitRun_good {k : Standing} {s : State} (c : Nat) (run : Running) (r : RunCtx) (p : Pattern)
    (h : Good k s) :
    Good k (State.commitRun s c run r p) := by
    unfold State.commitRun
    with_reducible repeat' first
      | assumption | apply State.saveKept_good | apply State.updLedger_good | apply State.receiptBytes_good
      | apply State.foldSlot_good | apply State.endEntry_good | apply State.putSlot_good
      | apply State.service_good | apply State.storeReceipt_good | apply State.runOver_good
      | apply State.doneEntry_good | apply State.markEnded_good | refine Good.snd (by assumption) ?_ | split
      | dsimp only | refine Good.build rfl rfl rfl ?_

theorem State.faultRun_good {k : Standing} {s : State} (c : Nat) (run : Running) (p : Pattern)
    (st : BitVec 16) (h : Good k s) :
    Good k (State.faultRun s c run p st) := by
    unfold State.faultRun
    with_reducible repeat' first
      | assumption | apply State.runOver_good | apply State.commitFixed_good | apply State.markEnded_good
      | split | dsimp only | refine Good.build rfl rfl rfl ?_

/-! ### Machine/Ports.lean -/

theorem State.setOut_good {k : Standing} {s : State} (p : Nat) (on : Bool) (h : Good k s) :
    Good k (State.setOut s p on) := by
    unfold State.setOut
    with_reducible repeat' first
      | assumption | split | dsimp only | refine Good.build rfl rfl rfl ?_

theorem State.goDark_good {k : Standing} {s : State} (p : Nat) (h : Good k s) :
    Good k (State.goDark s p) := by
    unfold State.goDark
    with_reducible repeat' first
      | assumption | apply State.updLight_good | apply State.setOut_good | apply State.darkPort_good | split
      | dsimp only | refine Good.build rfl rfl rfl ?_

theorem State.emitTraining_good {k : Standing} {s : State} (p : Nat) (lanes : BitVec 16) (words : List Byte)
    (h : Good k s) :
    Good k (State.emitTraining s p lanes words) := by
    unfold State.emitTraining
    with_reducible repeat' first
      | assumption | apply State.countTx_good | apply State.putLine_good | split | dsimp only
      | refine Good.build rfl rfl rfl ?_

theorem State.sendIdentity_good {k : Standing} {s : State} (p : Nat) (status : BitVec 16) (h : Good k s) :
    Good k (State.sendIdentity s p status) := by
    unfold State.sendIdentity
    with_reducible repeat' first
      | assumption | apply State.emitTraining_good | split | dsimp only | refine Good.build rfl rfl rfl ?_

theorem State.startTraining_good {k : Standing} {s : State} (p : Nat) (lp : Nat) (h : Good k s) :
    Good k (State.startTraining s p lp) := by
    unfold State.startTraining
    with_reducible repeat' first
      | assumption | apply State.setOut_good | apply State.updSeq_good | apply State.updLight_good
      | apply State.updRport_good | split | dsimp only | refine Good.build rfl rfl rfl ?_

theorem State.endRunLost_good {k : Standing} {s : State} (h : Good k s) :
    Good k (State.endRunLost s) := by
    unfold State.endRunLost
    with_reducible repeat' first
      | assumption | apply State.stopAttempt_good | apply State.logLost_good | split | dsimp only
      | refine Good.build rfl rfl rfl ?_

theorem State.stopAwaiting_good {k : Standing} {s : State} (lp : Nat) (h : Good k s) :
    Good k (State.stopAwaiting s lp) := by
    unfold State.stopAwaiting
    with_reducible repeat' first
      | assumption | split | dsimp only | refine Good.build rfl rfl rfl ?_

theorem State.noSpare_good {k : Standing} {s : State} (lp : Nat) (h : Good k s) :
    Good k (State.noSpare s lp) := by
    unfold State.noSpare
    with_reducible repeat' first
      | assumption | apply State.endRunLost_good | split | dsimp only | refine Good.build rfl rfl rfl ?_

theorem State.bringSpare_good {k : Standing} {s : State} (p : Nat) (lp : Nat) (h : Good k s) :
    Good k (State.bringSpare s p lp) := by
    unfold State.bringSpare
    with_reducible repeat' first
      | assumption | apply State.stopAwaiting_good | apply State.startTraining_good | apply State.noSpare_good
      | split | dsimp only | refine Good.build rfl rfl rfl ?_

theorem State.settleWait_good {k : Standing} {s : State} (c : Nat) (h : Good k s) :
    Good k (State.settleWait s c) := by
    unfold State.settleWait
    with_reducible repeat' first
      | assumption | apply State.fix_good | split | dsimp only | refine Good.build rfl rfl rfl ?_

theorem State.portEnded_good {k : Standing} {s : State} (op : Nat) (bit : Nat) (st : BitVec 16) (h : Good k s) :
    Good k (State.portEnded s op bit st) := by
    unfold State.portEnded
    with_reducible repeat' first
      | assumption | apply State.settleWait_good | apply State.setRunning_good
      | refine Good.foldl ?_ fun _ _ _ => ?_ | split | dsimp only | refine Good.build rfl rfl rfl ?_

theorem State.failPort_good {k : Standing} {s : State} (p : Nat) (st : BitVec 16) (h : Good k s) :
    Good k (State.failPort s p st) := by
    unfold State.failPort
    with_reducible repeat' first
      | assumption | apply State.logStatus_good | apply State.addLink_good | apply State.updRport_good
      | apply State.goDark_good | apply State.portEnded_good | apply State.bringSpare_good | split | dsimp only
      | refine Good.build rfl rfl rfl ?_

theorem State.letIn_good {k : Standing} {s : State} (p : Nat) (h : Good k s) :
    Good k (State.letIn s p) := by
    unfold State.letIn
    with_reducible repeat' first
      | assumption | apply State.updRport_good | apply State.updLight_good | apply State.portEnded_good
      | apply State.stopAwaiting_good | split | dsimp only | refine Good.build rfl rfl rfl ?_

theorem State.takeRecord_good {k : Standing} {s : State} (p : Nat) (r : IdRecord) (h : Good k s) :
    Good k (State.takeRecord s p r) := by
    unfold State.takeRecord
    with_reducible repeat' first
      | assumption | apply State.updRport_good | apply State.failPort_good | apply State.sendIdentity_good
      | split | dsimp only | refine Good.build rfl rfl rfl ?_

theorem State.stageOne_good {k : Standing} {s : State} (p : Nat) (h : Good k s) :
    Good k (State.stageOne s p) := by
    unfold State.stageOne
    with_reducible repeat' first
      | assumption | apply State.failPort_good | apply State.updLight_good | apply State.updRport_good | split
      | dsimp only | refine Good.build rfl rfl rfl ?_

theorem State.stageTwo_good {k : Standing} {s : State} (p : Nat) (tx : BitVec 16) (scans : List LaneScan)
    (h : Good k s) :
    Good k (State.stageTwo s p tx scans) := by
    unfold State.stageTwo
    with_reducible repeat' first
      | assumption | apply State.updLight_good | apply State.failPort_good | apply State.portEnded_good
      | apply State.updRport_good | split | dsimp only | refine Good.build rfl rfl rfl ?_

theorem State.portDown_good {k : Standing} {s : State} (p : Nat) (st : BitVec 16) (h : Good k s) :
    Good k (State.portDown s p st) := by
    unfold State.portDown
    with_reducible repeat' first
      | assumption | apply State.addLink_good | apply State.logStatus_good | apply State.updRport_good
      | apply State.eventEnds_good | apply State.bringSpare_good | split | dsimp only
      | refine Good.build rfl rfl rfl ?_

theorem State.trainLive_good {k : Standing} {s : State} (ps : List Nat) (h : Good k s) :
    Good k (State.trainLive s ps) := by
    unfold State.trainLive
    with_reducible repeat' first
      | assumption | apply State.failPort_good | apply State.startTraining_good
      | refine Good.foldl ?_ fun _ _ _ => ?_ | split | dsimp only | refine Good.build rfl rfl rfl ?_

theorem State.acceptJoin_good {k : Standing} {s : State} (c : Nat) (f : FlaskRecord) (h : Good k s) :
    Good k (State.acceptJoin s c f) := by
    unfold State.acceptJoin
    with_reducible repeat' first
      | assumption | apply State.goDark_good | apply State.updLedger_good | apply State.updRunning_good
      | apply State.settleWait_good | apply State.trainLive_good | refine Good.foldl ?_ fun _ _ _ => ?_ | split
      | dsimp only | refine Good.build rfl rfl rfl ?_

theorem State.resumeJoin_good {k : Standing} {s : State} (c : Nat) (f : FlaskRecord) (h : Good k s) :
    Good k (State.resumeJoin s c f) := by
    unfold State.resumeJoin
    with_reducible repeat' first
      | assumption | apply State.settleWait_good | apply State.updRunning_good | split | dsimp only
      | refine Good.build rfl rfl rfl ?_

theorem State.joinBody_good {k : Standing} {s : State} (c : Nat) (i : Nat) (k_ : Packet) (h : Good k s) :
    Good k (State.joinBody s c i k_) := by
    unfold State.joinBody
    with_reducible repeat' first
      | assumption | apply State.resumeJoin_good | apply State.fix_good | apply State.acceptJoin_good | split
      | dsimp only | refine Good.build rfl rfl rfl ?_

theorem State.leaveBody_good {k : Standing} {s : State} (c : Nat) (h : Good k s) :
    Good k (State.leaveBody s c) := by
    unfold State.leaveBody
    with_reducible repeat' first
      | assumption | apply State.fix_good | apply State.goDark_good | apply State.updLedger_good
      | apply State.staleKept_good | refine Good.foldl ?_ fun _ _ _ => ?_ | split | dsimp only
      | refine Good.build rfl rfl rfl ?_

theorem State.testPort_good {k : Standing} {s : State} (c : Nat) (lp : Nat) (h : Good k s) :
    Good k (State.testPort s c lp) := by
    unfold State.testPort
    with_reducible repeat' first
      | assumption | apply State.updRunning_good | apply State.portEnded_good | apply State.startTraining_good
      | split | dsimp only | refine Good.build rfl rfl rfl ?_

theorem State.marginBody_good {k : Standing} {s : State} (c : Nat) (k_ : Packet) (h : Good k s) :
    Good k (State.marginBody s c k_) := by
    unfold State.marginBody
    with_reducible repeat' first
      | assumption | apply State.updRunning_good | apply State.settleWait_good | apply State.testPort_good
      | refine Good.foldl ?_ fun _ _ _ => ?_ | split | dsimp only | refine Good.build rfl rfl rfl ?_

end Sys2Proof.Machine
end

