-- ==== Sys2Proof/Laws/KeepPart.lean ====
section
/-! SUPPORT. What the tick, recovery, scrubbing, the host ports, service, boot, completion, light, links and registers keep. -/

set_option linter.unusedTactic false
set_option linter.unreachableTactic false

namespace Sys2Proof.Machine

/-! ### Machine/Light.lean -/

@[simp] theorem Light.setFloor_enabled (l : Light) (dir : Nat) (v : BitVec 400) :
    (l.setFloor dir v).enabled = l.enabled := by
  unfold Light.setFloor
  split <;> rfl

theorem State.resend_good {k : Standing} {s : State} (p : Nat) (h : Good k s) :
    Good k (State.resend s p) := by
    unfold State.resend
    with_reducible repeat' first
      | assumption | apply State.putLine_good | apply State.keepTag_good | apply State.count_good
      | refine Good.foldl ?_ fun _ _ _ => ?_ | split | dsimp only | refine Good.build rfl rfl rfl ?_

theorem State.sendLanes_good {k : Standing} {s : State} (p : Nat) (lanes : BitVec 16) (rec : LaneRecord)
    (b4 : Nat) (h : Good k s) :
    Good k (State.sendLanes s p lanes rec b4) := by
    induction b4 generalizing s p lanes rec with
    | zero =>
      unfold State.sendLanes
      with_reducible repeat' first
        | assumption | apply State.emitTraining_good | split | dsimp only | refine Good.build rfl rfl rfl ?_
    | succ _ ih =>
      unfold State.sendLanes
      with_reducible repeat' first
        | assumption | apply ih | apply State.emitTraining_good | split | dsimp only | refine Good.build rfl rfl rfl ?_

theorem State.settleLanes_good {k : Standing} {s : State} (p : Nat) (h : Good k s) :
    Good k (State.settleLanes s p) := by
    unfold State.settleLanes
    with_reducible repeat' first
      | assumption | apply State.updRport_good | split | dsimp only | refine Good.build rfl rfl rfl ?_

theorem State.askLanes_good {k : Standing} {s : State} (p : Nat) (h : Good k s) :
    Good k (State.askLanes s p) := by
    unfold State.askLanes
    with_reducible repeat' first
      | assumption | apply State.updLight_good | apply State.sendLanes_good | split | dsimp only
      | refine Good.build rfl rfl rfl ?_

theorem State.changeRx_good {k : Standing} {s : State} (p : Nat) (lanes : BitVec 16) (resweep : BitVec 16)
    (h : Good k s) :
    Good k (State.changeRx s p lanes resweep) := by
    unfold State.changeRx
    with_reducible repeat' first
      | assumption | apply State.portDown_good | apply State.askLanes_good | apply State.updLight_good | split
      | dsimp only | refine Good.build rfl rfl rfl ?_

theorem State.confirmRx_good {k : Standing} {s : State} (p : Nat) (lanes : BitVec 16) (h : Good k s) :
    Good k (State.confirmRx s p lanes) := by
    unfold State.confirmRx
    with_reducible repeat' first
      | assumption | apply State.askLanes_good | apply State.settleLanes_good | apply State.updLight_good
      | split | dsimp only | refine Good.build rfl rfl rfl ?_

theorem State.acquire_good {k : Standing} {s : State} (p : Nat) (rings : List Nat) (h : Good k s) :
    Good k (State.acquire s p rings) := by
    unfold State.acquire
    with_reducible repeat' first
      | assumption | apply State.updLight_good | refine Good.foldl ?_ fun _ _ _ => ?_ | split | dsimp only
      | refine Good.build rfl rfl rfl ?_

theorem State.mislock_good {k : Standing} {s : State} (p : Nat) (h : Good k s) :
    Good k (State.mislock s p) := by
    unfold State.mislock
    with_reducible repeat' first
      | assumption | apply State.addLocal_good | apply State.logStatus_good | split | dsimp only
      | refine Good.build rfl rfl rfl ?_

theorem State.lanesLeave_good {k : Standing} {s : State} (p : Nat) (out : BitVec 16) (own : BitVec 16)
    (plain : BitVec 16) (ask : BitVec 16) (h : Good k s) :
    Good k (State.lanesLeave s p out own plain ask) := by
    unfold State.lanesLeave
    with_reducible repeat' first
      | assumption | apply State.mislock_good | apply State.addLink_good | apply State.updLight_good
      | apply State.changeRx_good | refine Good.foldl ?_ fun _ _ _ => ?_ | split | dsimp only
      | refine Good.build rfl rfl rfl ?_

theorem State.checkLanes_good {k : Standing} {s : State} (p : Nat) (f : Frame) (h : Good k s) :
    Good k (State.checkLanes s p f) := by
    unfold State.checkLanes
    with_reducible repeat' first
      | assumption | apply State.count_good | apply State.updLight_good | apply State.lanesLeave_good
      | refine Good.foldl ?_ fun _ _ _ => ?_ | split | dsimp only | refine Good.build rfl rfl rfl ?_

theorem State.changeTx_good {k : Standing} {s : State} (p : Nat) (rec : LaneRecord) (h : Good k s) :
    Good k (State.changeTx s p rec) := by
    unfold State.changeTx
    with_reducible repeat' first
      | assumption | apply State.mislock_good | apply State.updLight_good | apply State.portDown_good
      | apply State.sendLanes_good | apply State.settleLanes_good | apply State.resend_good
      | refine Good.foldl ?_ fun _ _ _ => ?_ | split | dsimp only | refine Good.build rfl rfl rfl ?_

theorem State.acquireFloor_good {k : Standing} {s : State} (k_ : Nat) (h : Good k s) :
    Good k (State.acquireFloor s k_) := by
    unfold State.acquireFloor
    with_reducible repeat' first
      | assumption | split | dsimp only | refine Good.build rfl rfl rfl ?_

theorem State.floorReturn_good {k : Standing} {s : State} (dir : Nat) (lane : Nat) (h : Good k s) :
    Good k (State.floorReturn s dir lane) := by
    have hs := h.1
    refine ⟨?_, ?_⟩ <;> unfold State.floorReturn <;> dsimp only <;> split
    · simpa using hs
    · simpa using hs
    · exact h.2
    · exact h.2

theorem State.floorLeave_good {k : Standing} {s : State} (dir : Nat) (lane : Nat) (h : Good k s) :
    Good k (State.floorLeave s dir lane) := by
    unfold State.floorLeave
    refine State.addLocal_good _ (State.count_good _ _ ⟨?_, h.2⟩)
    simpa [State.standing] using h.1

theorem State.floorMislock_good {k : Standing} {s : State} (dir : Nat) (h : Good k s) :
    Good k (State.floorMislock s dir) := by
    unfold State.floorMislock
    with_reducible repeat' first
      | assumption | apply State.addLocal_good | apply State.logStatus_good | split | dsimp only
      | refine Good.build rfl rfl rfl ?_

theorem State.floorSpoil_good {k : Standing} {s : State} (dir : Nat) (carried : List (Nat × Nat × List Byte))
    (h : Good k s) :
    Good k (State.floorSpoil s dir carried) := by
    unfold State.floorSpoil
    with_reducible repeat' first
      | assumption | apply State.addLocal_good | apply State.logStatus_good | apply State.noteAll_good
      | apply Mem.wf_carryCw | refine Good.foldl ?_ fun _ _ _ => ?_ | split | dsimp only
      | exact Good.mem (by assumption) | refine Good.build rfl rfl rfl ?_ | refine Good.put rfl rfl ?_ ?_
      | refine Mem.wf_of (by assumption) ?_

theorem State.floorLose_good {k : Standing} {s : State} (dir : Nat) (lane : Nat) (carried : List
    (Nat × Nat × List Byte)) (h : Good k s) :
    Good k (State.floorLose s dir lane carried) := by
    unfold State.floorLose
    with_reducible repeat' first
      | assumption | apply State.floorLeave_good | apply State.floorSpoil_good | split | dsimp only
      | refine Good.build rfl rfl rfl ?_

theorem State.unlocked_good {k : Standing} {s : State} (p : Nat) (lane : Nat) (h : Good k s) :
    Good k (State.unlocked s p lane) := by
    unfold State.unlocked
    with_reducible repeat' first
      | assumption | apply State.lanesLeave_good | apply State.updLight_good | split | dsimp only
      | refine Good.build rfl rfl rfl ?_

theorem State.settleRing_good {k : Standing} {s : State} (p : Nat) (dir : LaneDir) (lane : Nat) (estimate : ℤ)
    (h : Good k s) :
    Good k (State.settleRing s p dir lane estimate) := by
    unfold State.settleRing
    with_reducible repeat' first
      | assumption | apply State.updLight_good | apply State.acquire_good | apply State.unlocked_good | split
      | dsimp only | refine Good.build rfl rfl rfl ?_

theorem State.settleFloor_good {k : Standing} {s : State} (dir : Nat) (lane : Nat) (k_ : Nat) (estimate : ℤ)
    (carried : List (Nat × Nat × List Byte)) (h : Good k s) :
    Good k (State.settleFloor s dir lane k_ estimate carried) := by
    unfold State.settleFloor
    with_reducible repeat' first
      | assumption | apply State.floorLose_good | split | dsimp only | refine Good.build rfl rfl rfl ?_

theorem State.feedBank_good {k : Standing} {s : State} (p : Nat) (dir : LaneDir) (delta : ℤ) (h : Good k s) :
    Good k (State.feedBank s p dir delta) := by
    unfold State.feedBank
    with_reducible repeat' first
      | assumption | apply State.updLight_good | apply State.settleRing_good
      | refine Good.foldl ?_ fun _ _ _ => ?_ | split | dsimp only | refine Good.build rfl rfl rfl ?_

theorem State.feedFloor_good {k : Standing} {s : State} (dir : Nat) (side : LaneDir) (waveguide : Nat)
    (delta : ℤ) (carried : List (Nat × Nat × List Byte)) (h : Good k s) :
    Good k (State.feedFloor s dir side waveguide delta carried) := by
    unfold State.feedFloor
    with_reducible repeat' first
      | assumption | apply State.settleFloor_good | refine Good.foldl ?_ fun _ _ _ => ?_ | split | dsimp only
      | refine Good.build rfl rfl rfl ?_

theorem State.shutPort_good {k : Standing} {s : State} (p : Nat) (cause : BitVec 2) (h : Good k s) :
    Good k (State.shutPort s p cause) := by
    unfold State.shutPort
    with_reducible repeat' first
      | assumption | apply State.updLight_good | apply State.setOut_good | apply State.logStatus_good
      | apply State.failPort_good | apply State.portDown_good | split | dsimp only
      | refine Good.build rfl rfl rfl ?_

theorem State.setProbe_good {k : Standing} {s : State} (p : Nat) (on : Bool) (h : Good k s) :
    Good k (State.setProbe s p on) := by
    unfold State.setProbe
    with_reducible repeat' first
      | assumption | split | dsimp only | refine Good.build rfl rfl rfl ?_

theorem State.writeMonitor_good {k : Standing} {s : State} (value : Word32) (h : Good k s) :
    Good k (State.writeMonitor s value) := by
    unfold State.writeMonitor
    with_reducible repeat' first
      | assumption | apply State.rsvdWrite_good | apply State.rsvdIf_good | split | dsimp only
      | refine Good.build rfl rfl rfl ?_

/-! ### Machine/Tick.lean -/

theorem State.wakeForBallast_good {k : Standing} {s : State} (g : Nat) (h : Good k s) :
    Good k (State.wakeForBallast s g) := by
    unfold State.wakeForBallast
    with_reducible repeat' first
      | assumption | apply State.updCl_good | split | dsimp only | refine Good.build rfl rfl rfl ?_

theorem State.tickCluster_good {k : Standing} {s : State} (g : Nat) (h : Good k s) :
    Good k (State.tickCluster s g) := by
    unfold State.tickCluster
    with_reducible repeat' first
      | assumption | apply State.wakeForBallast_good | apply State.count_good | apply State.updCl_good
      | refine Good.foldl ?_ fun _ _ _ => ?_ | split | dsimp only | refine Good.build rfl rfl rfl ?_

theorem State.tickColl_good {k : Standing} {s : State} (n : CollInstance) (h : Good k s) :
    Good k (State.tickColl s n) := by
    unfold State.tickColl
    with_reducible repeat' first
      | assumption | apply State.count_good | split | dsimp only | refine Good.build rfl rfl rfl ?_

theorem State.countFree_good {k : Standing} {s : State} (off : Nat) (h : Good k s) :
    Good k (State.countFree s off) := by
    unfold State.countFree
    with_reducible repeat' first
      | assumption | apply State.count_good | split | dsimp only | refine Good.build rfl rfl rfl ?_

theorem State.tickFloor_good {k : Standing} {s : State} (d : Nat) (h : Good k s) :
    Good k (State.tickFloor s d) := by
    unfold State.tickFloor
    with_reducible repeat' first
      | assumption | apply State.count_good | apply State.countFree_good | split | dsimp only
      | refine Good.build rfl rfl rfl ?_

theorem State.tickStack_good {k : Standing} {s : State} (st : Nat) (h : Good k s) :
    Good k (State.tickStack s st) := by
    unfold State.tickStack
    with_reducible repeat' first
      | assumption | apply State.countFree_good | split | dsimp only | refine Good.build rfl rfl rfl ?_

theorem State.tickPort_good {k : Standing} {s : State} (p : Nat) (h : Good k s) :
    Good k (State.tickPort s p) := by
    unfold State.tickPort
    with_reducible repeat' first
      | assumption | apply State.emitIdle_good | apply State.sendIdentity_good
      | refine Good.foldl ?_ fun _ _ _ => ?_ | split | dsimp only | refine Good.build rfl rfl rfl ?_

theorem idleTick_good {k : Standing} {s : State} (h : Good k s) :
    Good k (idleTick s) := by
    unfold idleTick
    with_reducible repeat' first
      | assumption | apply State.closeCycle_good | apply State.tickCluster_good | apply State.tickPort_good
      | apply State.tickStack_good | apply State.tickFloor_good | apply State.tickColl_good
      | refine Good.foldl ?_ fun _ _ _ => ?_ | split | dsimp only | refine Good.build rfl rfl rfl ?_

/-! ### Machine/Recovery.lean -/

theorem State.resetRun_good {k : Standing} {s : State} (abandon : Bool) (h : Good k s) :
    Good k (State.resetRun s abandon) := by
    unfold State.resetRun
    with_reducible repeat' first
      | assumption | apply State.stopAttempt_good | split | dsimp only | refine Good.build rfl rfl rfl ?_

theorem State.channelReset_good {k : Standing} {s : State} (c : Nat) (r : Running) (abandon : Bool) (h : Good k s) :
    Good k (State.channelReset s c r abandon) := by
    unfold State.channelReset
    with_reducible repeat' first
      | assumption | apply State.resetRun_good | apply State.fix_good | apply State.updRunning_good
      | apply State.setRunning_good | split | dsimp only | refine Good.build rfl rfl rfl ?_

theorem State.writeReset_good {k : Standing} {s : State} (port : HostPort) (c : Nat) (abandon : Bool)
    (h : Good k s) :
    Good k (State.writeReset s port c abandon) := by
    unfold State.writeReset
    with_reducible repeat' first
      | assumption | apply State.addStray_good | apply State.channelReset_good | apply State.staleKept_good
      | split | dsimp only | refine Good.build rfl rfl rfl ?_

theorem State.mergeCopies_good {k : Standing} {s : State} (h : Good k s) :
    Good k (State.mergeCopies s) := by
    unfold State.mergeCopies
    with_reducible repeat' first
      | assumption | split | dsimp only | refine Good.build rfl rfl rfl ?_

theorem State.cut_good {k : Standing} {s : State} (k_ : Nat) (tear : Bool) (h : Good k s) :
    Good k (State.cut s k_ tear) := by
    unfold State.cut
    with_reducible repeat' first
      | assumption | split | dsimp only | refine Good.build rfl rfl rfl ?_

theorem State.cutShort_good {k : Standing} {s : State} (tears : Bool) (h : Good k s) :
    Good k (State.cutShort s tears) := by
    unfold State.cutShort
    with_reducible repeat' first
      | assumption | apply State.linesDone_good | apply State.drawFree_good | apply State.cut_good
      | refine Good.snd (by assumption) ?_ | split | dsimp only | refine Good.build rfl rfl rfl ?_

theorem State.cutRun_good {k : Standing} {s : State} (c : Nat) (e : Nat × Entry) (h : Good k s) :
    Good k (State.cutRun s c e) := by
    unfold State.cutRun
    with_reducible repeat' first
      | assumption | apply State.setRunning_good | split | dsimp only | refine Good.build rfl rfl rfl ?_

theorem State.recoverOne_good {k : Standing} {s : State} (cold : Bool) (c : Nat) (e : Nat × Entry) (h : Good k s) :
    Good k (State.recoverOne s cold c e) := by
    unfold State.recoverOne
    with_reducible repeat' first
      | assumption | apply State.updEntry_good | apply State.noteChan_good | apply State.cutRun_good | split
      | dsimp only | refine Good.build rfl rfl rfl ?_

theorem State.recoverCount_good {k : Standing} {s : State} (c : Nat) (h : Good k s) :
    Good k (State.recoverCount s c) := by
    unfold State.recoverCount
    with_reducible repeat' first
      | assumption | apply State.noteChan_good | split | dsimp only | refine Good.build rfl rfl rfl ?_

theorem State.requeue_good {k : Standing} {s : State} (c : Nat) (h : Good k s) :
    Good k (State.requeue s c) := by
    unfold State.requeue
    with_reducible repeat' first
      | assumption | apply State.queueReply_good | apply State.queueFinal_good
      | refine Good.foldl ?_ fun _ _ _ => ?_ | split | dsimp only | refine Good.build rfl rfl rfl ?_

theorem State.recoverOrder_good {k : Standing} {s : State} (h : Good k s) :
    Good k (State.recoverOrder s) := by
    unfold State.recoverOrder
    with_reducible repeat' first
      | assumption | refine Good.foldl ?_ fun _ _ _ => ?_ | split | dsimp only
      | refine Good.build rfl rfl rfl ?_

theorem State.completeWrites_good {k : Standing} {s : State} (c : Nat) (e : Entry) (h : Good k s) :
    Good k (State.completeWrites s c e) := by
    unfold State.completeWrites
    with_reducible repeat' first
      | assumption | apply State.dropRecords_good | apply State.unload_good | split | dsimp only
      | refine Good.build rfl rfl rfl ?_

theorem State.recoverChannel_good {k : Standing} {s : State} (cold : Bool) (c : Nat) (h : Good k s) :
    Good k (State.recoverChannel s cold c) := by
    unfold State.recoverChannel
    with_reducible repeat' first
      | assumption | apply State.completeWrites_good | apply State.recoverOne_good | apply State.requeue_good
      | apply State.recoverCount_good | refine Good.foldl ?_ fun _ _ _ => ?_ | split | dsimp only
      | refine Good.build rfl rfl rfl ?_

theorem State.recoverLost_good {k : Standing} {s : State} (h : Good k s) :
    Good k (State.recoverLost s) := by
    unfold State.recoverLost
    with_reducible repeat' first
      | assumption | refine Good.foldl ?_ fun _ _ _ => ?_ | split | dsimp only
      | refine Good.build rfl rfl rfl ?_

theorem State.recover_good {k : Standing} {s : State} (cold : Bool) (h : Good k s) :
    Good k (State.recover s cold) := by
    unfold State.recover
    with_reducible repeat' first
      | assumption | apply State.recoverLost_good | apply State.mergeCopies_good | apply State.dropRecords_good
      | apply State.recoverOrder_good | apply State.recoverChannel_good | refine Good.foldl ?_ fun _ _ _ => ?_
      | split | dsimp only | refine Good.build rfl rfl rfl ?_

theorem State.loseRiser_good {k : Standing} {s : State} (h : Good k s) :
    Good k (State.loseRiser s) := by
    unfold State.loseRiser
    with_reducible repeat' first
      | assumption | apply State.markEnded_good | apply State.linesDone_good | apply State.stopClusters_good
      | apply State.pourOver_good | apply State.refuse_good | refine Good.foldl ?_ fun _ _ _ => ?_ | split
      | dsimp only | refine Good.build rfl rfl rfl ?_

theorem State.reinit_good {k : Standing} {s : State} (pass : BitVec 4) (h : Good k s) :
    Good k (State.reinit s pass) := by
    unfold State.reinit
    with_reducible repeat' first
      | assumption | refine Good.foldl ?_ fun _ _ _ => ?_ | split | dsimp only
      | refine Good.build rfl rfl rfl ?_

theorem State.writeReinit_good {k : Standing} {s : State} (value : Word32) (pass : BitVec 4) (h : Good k s) :
    Good k (State.writeReinit s value pass) := by
    unfold State.writeReinit
    with_reducible repeat' first
      | assumption | apply State.rsvdIf_good | apply State.addStray_good | apply State.reinit_good | split
      | dsimp only | refine Good.build rfl rfl rfl ?_

theorem State.clusterFault_good {k : Standing} {s : State} (g : Nat) (pos : Nat) (status : BitVec 16)
    (h : Good k s) :
    Good k (State.clusterFault s g pos status) := by
    unfold State.clusterFault
    with_reducible repeat' first
      | assumption | apply State.logStatus_good | apply State.eventEnds_good | apply State.updCl_good
      | apply State.queueFault_good | split | dsimp only | refine Good.build rfl rfl rfl ?_

theorem State.restatus_good {k : Standing} {s : State} (die : Bool) (status : BitVec 16) (h : Good k s) :
    Good k (State.restatus s die status) := by
    unfold State.restatus
    with_reducible repeat' first
      | assumption | split | dsimp only | refine Good.build rfl rfl rfl ?_

theorem State.positionFault_good {k : Standing} {s : State} (die : Bool) (pos : Nat) (status : BitVec 16)
    (h : Good k s) :
    Good k (State.positionFault s die pos status) := by
    unfold State.positionFault
    with_reducible repeat' first
      | assumption | apply State.logStatus_good | apply State.clusterFault_good | apply State.spareFails_good
      | apply State.restatus_good | apply State.retire_good | split | dsimp only
      | refine Good.build rfl rfl rfl ?_

/-! ### Machine/Health.lean -/

theorem Mem.wf_scrubFix {m : Mem} (k : MemKind) (c : Nat) (h : m.wf = true) : (m.scrubFix k c).1.wf = true := by
  unfold Mem.scrubFix
  dsimp only
  split
  · exact Mem.wf_readCw k c h
  · exact Mem.wf_putCw _ _ _ (Mem.wf_readCw k c h)

theorem Mem.wf_scrubAll {m : Mem} (k : MemKind) (cs : List Nat) (h : m.wf = true) : (m.scrubAll k cs).1.wf = true := by
  induction cs generalizing m with
  | nil => exact h
  | cons c cs ih => exact ih (Mem.wf_scrubFix k c h)

theorem State.writeSnap_good {k : Standing} {s : State} (value : Word32) (h : Good k s) :
    Good k (State.writeSnap s value) := by
    unfold State.writeSnap
    with_reducible repeat' first
      | assumption | apply State.rsvdIf_good | split | dsimp only | refine Good.build rfl rfl rfl ?_

theorem State.updBw_good {k : Standing} {s : State} (u : Nat) (f : BwUnit → BwUnit) (h : Good k s) :
    Good k (State.updBw s u f) := by
    unfold State.updBw
    with_reducible repeat' first
      | assumption | split | dsimp only | refine Good.build rfl rfl rfl ?_

theorem State.writeBw_good {k : Standing} {s : State} (u : Nat) (value : Word32) (h : Good k s) :
    Good k (State.writeBw s u value) := by
    unfold State.writeBw
    with_reducible repeat' first
      | assumption | apply State.rsvdWrite_good | apply State.updBw_good | apply State.rsvdIf_good | split
      | dsimp only | refine Good.build rfl rfl rfl ?_

theorem State.writeSampling_good {k : Standing} {s : State} (g : Nat) (value : Word32) (h : Good k s) :
    Good k (State.writeSampling s g value) := by
    unfold State.writeSampling
    with_reducible repeat' first
      | assumption | apply State.rsvdWrite_good | apply State.resetSamples_good | apply State.rsvdIf_good
      | split | dsimp only | refine Good.build rfl rfl rfl ?_

theorem State.serPoint_good {k : Standing} {s : State} (p : Nat) (h : Good k s) :
    Good k (State.serPoint s p) := by
    unfold State.serPoint
    with_reducible repeat' first
      | assumption | apply State.addLink_good | split | dsimp only | refine Good.build rfl rfl rfl ?_

theorem State.hourPoints_good {k : Standing} {s : State} (h : Good k s) :
    Good k (State.hourPoints s) := by
    unfold State.hourPoints
    with_reducible repeat' first
      | assumption | apply State.addLocal_good | split | dsimp only | refine Good.build rfl rfl rfl ?_

theorem State.burstTraffic_good {k : Standing} {s : State} (base : Nat) (n : Nat) (h : Good k s) :
    Good k (State.burstTraffic s base n) := by
    unfold State.burstTraffic
    with_reducible repeat' first
      | assumption | apply State.hbmTraffic_good | split | dsimp only | refine Good.build rfl rfl rfl ?_

theorem State.scrubBurst_good {k : Standing} {s : State} (st : Nat) (h : Good k s) :
    Good k (State.scrubBurst s st) := by
    unfold State.scrubBurst
    with_reducible repeat' first
      | assumption | apply State.burstTraffic_good | apply State.noteAll_good | apply Mem.wf_scrubAll | split
      | dsimp only | exact Good.mem (by assumption) | refine Good.build rfl rfl rfl ?_
      | refine Good.put rfl rfl ?_ ?_ | refine Mem.wf_of (by assumption) ?_

theorem State.scrubPriv_good {k : Standing} {s : State} (g : Nat) (cw : Nat) (get : Cluster → Mem)
    (set : Cluster → Mem → Cluster) (h : Good k s) :
    Good k (State.scrubPriv s g cw get set) := by
    unfold State.scrubPriv
    with_reducible repeat' first
      | assumption | apply State.noteAll_good | apply State.updCl_good | apply Mem.wf_scrubFix | split
      | dsimp only | exact Good.mem (by assumption) | refine Good.build rfl rfl rfl ?_
      | refine Good.put rfl rfl ?_ ?_ | refine Mem.wf_of (by assumption) ?_

theorem State.scrubWindow_good {k : Standing} {s : State} (cw : Nat) (h : Good k s) :
    Good k (State.scrubWindow s cw) := by
    unfold State.scrubWindow
    with_reducible repeat' first
      | assumption | apply State.noteAll_good | apply Mem.wf_scrubFix | split | dsimp only
      | exact Good.mem (by assumption) | refine Good.build rfl rfl rfl ?_ | refine Good.put rfl rfl ?_ ?_
      | refine Mem.wf_of (by assumption) ?_

theorem State.scrubTundish_good {k : Standing} {s : State} (cw : Nat) (b2 : TundishSlot) (h : Good k s) :
    Good k (State.scrubTundish s cw b2) := by
    unfold State.scrubTundish
    with_reducible repeat' first
      | assumption | apply State.noteAll_good | apply State.setWindow_good | apply Mem.wf_scrubFix | split
      | dsimp only | exact Good.mem (by assumption) | refine Good.build rfl rfl rfl ?_
      | refine Good.put rfl rfl ?_ ?_ | refine Mem.wf_of (by assumption) ?_

theorem State.scrubLadle_good {k : Standing} {s : State} (g : Nat) (cw : Nat) (eng : MoveEngine) (h : Good k s) :
    Good k (State.scrubLadle s g cw eng) := by
    unfold State.scrubLadle
    with_reducible repeat' first
      | assumption | apply State.noteAll_good | apply State.updCl_good | split | dsimp only
      | refine Good.build rfl rfl rfl ?_

theorem State.scrubSlot_good {k : Standing} {s : State} (b1 : SramTarget) (h : Good k s) :
    Good k (State.scrubSlot s b1) := by
    unfold State.scrubSlot
    with_reducible repeat' first
      | assumption | apply State.scrubWindow_good | apply State.scrubPriv_good | apply State.scrubTundish_good
      | apply State.scrubLadle_good | split | dsimp only | refine Good.build rfl rfl rfl ?_

theorem State.endOffTest_good {k : Standing} {s : State} (die : Nat) (group : Nat) (failing : BitVec 66)
    (h : Good k s) :
    Good k (State.endOffTest s die group failing) := by
    unfold State.endOffTest
    with_reducible repeat' first
      | assumption | apply State.disableDomain_good | apply State.settleSamples_good
      | apply State.positionFault_good | refine Good.foldl ?_ fun _ _ _ => ?_ | split | dsimp only
      | refine Good.build rfl rfl rfl ?_

/-! ### Machine/HostPorts.lean -/

theorem State.portBack_good {k : Standing} {s : State} (p : HostPort) (h : Good k s) :
    Good k (State.portBack s p) := by
    unfold State.portBack
    with_reducible repeat' first
      | assumption | apply State.restartTransfer_good | apply State.flushPour_good | apply State.flushPort_good
      | refine Good.foldl ?_ fun _ _ _ => ?_ | split | dsimp only | refine Good.build rfl rfl rfl ?_

theorem State.clearWindows_good {k : Standing} {s : State} (p : HostPort) (h : Good k s) :
    Good k (State.clearWindows s p) := by
    unfold State.clearWindows
    with_reducible repeat' first
      | assumption | apply State.setWindow_good | apply State.freeBuffer_good
      | refine Good.foldl ?_ fun _ _ _ => ?_ | split | dsimp only | refine Good.build rfl rfl rfl ?_

theorem State.resetPort_good {k : Standing} {s : State} (p : HostPort) (h : Good k s) :
    Good k (State.resetPort s p) := by
    unfold State.resetPort
    with_reducible repeat' first
      | assumption | apply State.staleKept_good | apply State.updPort_good | apply State.clearWindows_good
      | split | dsimp only | refine Good.build rfl rfl rfl ?_

theorem State.spdmMessage_good {k : Standing} {s : State} (number : Nat) (content : List Byte) (signed : Bool)
    (h : Good k s) :
    Good k (State.spdmMessage s number content signed).2 := by
    unfold State.spdmMessage
    with_reducible repeat' first
      | assumption | apply State.aliasSign_good | refine Good.snd (by assumption) ?_ | split | dsimp only
      | refine Good.build rfl rfl rfl ?_

theorem State.spdmError_good {k : Standing} {s : State} (h : Good k s) :
    Good k (State.spdmError s).2 := by
    unfold State.spdmError
    with_reducible repeat' first
      | assumption | apply State.spdmMessage_good | refine Good.snd (by assumption) ?_ | split | dsimp only
      | refine Good.build rfl rfl rfl ?_

theorem State.keyExchange_good {k : Standing} {s : State} (p : HostPort) (pub : List Byte) (h : Good k s) :
    Good k (State.keyExchange s p pub).2 := by
    unfold State.keyExchange
    with_reducible repeat' first
      | assumption | apply State.spdmError_good | apply State.drawBytes_good | apply State.spdmMessage_good
      | apply State.updPort_good | refine Good.snd (by assumption) ?_ | split | dsimp only
      | refine Good.build rfl rfl rfl ?_

theorem State.spdmAnswer_good {k : Standing} {s : State} (p : HostPort) (m : SpdmMessage) (h : Good k s) :
    Good k (State.spdmAnswer s p m).2 := by
    unfold State.spdmAnswer
    with_reducible repeat' first
      | assumption | apply State.keyExchange_good | apply State.spdmError_good | apply State.spdmMessage_good
      | apply State.updPort_good | refine Good.snd (by assumption) ?_ | split | dsimp only
      | refine Good.build rfl rfl rfl ?_

/-! ### Machine/Service.lean -/

theorem State.dropPackets_good {k : Standing} {s : State} (h : Good k s) :
    Good k (State.dropPackets s) := by
    unfold State.dropPackets
    with_reducible repeat' first
      | assumption | apply State.freeBuffer_good | refine Good.foldl ?_ fun _ _ _ => ?_ | split | dsimp only
      | refine Good.build rfl rfl rfl ?_

theorem State.haltNelhan_safe {q : List Instr} {s : State} (h : Safe q s) :
    Safe q (State.haltNelhan s) := by
    unfold State.haltNelhan
    with_reducible repeat' first
      | assumption | refine Safe.step (fun _ h => State.dropWork_good h) ?_
      | refine Safe.step (fun _ h => State.dropPackets_good h) ?_ | split | dsimp only
      | refine Safe.build rfl rfl ?_

theorem State.stopBoot_safe {q : List Instr} {s : State} (cause : BitVec 8) (index : BitVec 8) (h : Safe q s) :
    Safe q (State.stopBoot s cause index) := by
    unfold State.stopBoot
    with_reducible repeat' first
      | assumption | apply State.haltNelhan_safe | split | dsimp only | refine Safe.build rfl rfl ?_

theorem State.zeroiseSsps_good {k : Standing} {s : State} (h : Good k s) :
    Good k (State.zeroiseSsps s) := by
    unfold State.zeroiseSsps
    with_reducible repeat' first
      | assumption | split | dsimp only | refine Good.build rfl rfl rfl ?_

theorem State.assayStop_safe {q : List Instr} {s : State} (mode : AssayMode) (cause : BitVec 8) (h : Safe q s) :
    Safe q (State.assayStop s mode cause) := by
    unfold State.assayStop
    with_reducible repeat' first
      | assumption | refine Safe.step (fun _ h => State.zeroiseSsps_good h) ?_ | apply State.stopBoot_safe
      | apply State.haltNelhan_safe | split | dsimp only | refine Safe.build rfl rfl ?_

theorem State.writeSelftest_safe {q : List Instr} {s : State} (value : Word32) (pass : Bool) (h : Safe q s) :
    Safe q (State.writeSelftest s value pass) := by
    unfold State.writeSelftest
    with_reducible repeat' first
      | assumption | refine Safe.step (fun _ h => State.rsvdIf_good _ h) ?_
      | refine Safe.step (fun _ h => State.service_good _ h) ?_ | apply State.assayStop_safe | split
      | dsimp only | refine Safe.build rfl rfl ?_

theorem State.burnUds_safe {q : List Instr} {s : State} (h : Safe q s) :
    Safe q (State.burnUds s) := by
    unfold State.burnUds
    with_reducible repeat' first
      | assumption | split | dsimp only | refine Safe.build rfl rfl ?_

theorem State.writeZeroise_safe {q : List Instr} {s : State} (value : Word32) (h : Safe q s) :
    Safe q (State.writeZeroise s value) := by
    unfold State.writeZeroise
    with_reducible repeat' first
      | assumption | refine Safe.step (fun _ h => State.rsvdIf_good _ h) ?_ | apply State.assayStop_safe
      | refine Safe.step (fun _ h => State.service_good _ h) ?_ | apply State.burnUds_safe
      | refine Safe.step (fun _ h => State.rsvdWrite_good h) ?_ | split | dsimp only
      | refine Safe.build rfl rfl ?_

theorem State.mctpAnswer_good {k : Standing} {s : State} (w : Word32) (h : Good k s) :
    Good k (State.mctpAnswer s w) := by
    unfold State.mctpAnswer
    with_reducible repeat' first
      | assumption | split | dsimp only | refine Good.build rfl rfl rfl ?_

/-! ### Machine/Boot.lean -/

theorem State.coldLoss_safe {q : List Instr} {s : State} (h : Safe q s) :
    Safe q (State.coldLoss s) := by
    unfold State.coldLoss
    exact Safe.put rfl Mem.wf_zeros h

theorem State.coldReset_safe {q : List Instr} {s : State} (tears : Bool) (h : Safe q s) :
    Safe q (State.coldReset s tears) := by
    unfold State.coldReset
    with_reducible repeat' first
      | assumption | apply State.coldLoss_safe | refine Safe.step (fun _ h => State.cutShort_good _ h) ?_
      | split | dsimp only | refine Safe.build rfl rfl ?_

theorem State.aonLoss_safe {q : List Instr} {s : State} (h : Safe q s) :
    Safe q (State.aonLoss s) := by
    unfold State.aonLoss
    with_reducible repeat' first
      | assumption | apply State.coldReset_safe | apply State.coldLoss_safe | split | dsimp only
      | refine Safe.build rfl rfl ?_

theorem State.startBoot_safe {q : List Instr} {s : State} (kind : BitVec 2) (h : Safe q s) :
    Safe q (State.startBoot s kind) := by
    unfold State.startBoot
    with_reducible repeat' first
      | assumption | split | dsimp only | refine Safe.build rfl rfl ?_

theorem State.warmRun_safe {q : List Instr} {s : State} (h : Safe q s) :
    Safe q (State.warmRun s) := by
    unfold State.warmRun
    with_reducible repeat' first
      | assumption | split | dsimp only | refine Safe.build rfl rfl ?_

theorem State.warmReset_safe {q : List Instr} {s : State} (h : Safe q s) :
    Safe q (State.warmReset s) := by
    have hc : Safe q (s.cutShort false) := Safe.step (fun _ h => State.cutShort_good _ h) h
    unfold State.warmReset
    exact Safe.put rfl (Mem.wf_clear _ _ (Safe.mem (State.warmRun_safe hc))) (State.warmRun_safe hc)

theorem State.stage1_safe {q : List Instr} {s : State} (r : BootResult) (h : Safe q s) :
    Safe q (State.stage1 s r) := by
    unfold State.stage1
    with_reducible repeat' first
      | assumption | apply State.stopBoot_safe | apply State.assayStop_safe
      | refine Safe.step (fun _ h => State.seedDrbg_good h) ?_ | split | dsimp only
      | refine Safe.build rfl rfl ?_

theorem State.stage2_safe {q : List Instr} {s : State} (h : Safe q s) :
    Safe q (State.stage2 s) := by
    unfold State.stage2
    with_reducible repeat' first
      | assumption | refine Safe.step (fun _ h => State.updLedger_good _ _ h) ?_ | apply State.stopBoot_safe
      | refine Safe.step (fun _ h => State.service_good _ h) ?_ | split | dsimp only
      | refine Safe.build rfl rfl ?_

theorem State.reportTrip_good {k : Standing} {s : State} (h : Good k s) :
    Good k (State.reportTrip s) := by
    unfold State.reportTrip
    with_reducible repeat' first
      | assumption | apply State.addLocal_good | apply State.logStatus_good | split | dsimp only
      | refine Good.build rfl rfl rfl ?_

theorem State.stage3_safe {q : List Instr} {s : State} (r : BootResult) (h : Safe q s) :
    Safe q (State.stage3 s r) := by
    unfold State.stage3
    with_reducible repeat' first
      | assumption | refine Safe.step (fun _ h => State.recover_good _ h) ?_
      | refine Safe.step (fun _ h => State.updLedger_good _ _ h) ?_
      | refine Safe.step (fun _ h => State.reportTrip_good h) ?_ | split | dsimp only
      | refine Safe.build rfl rfl ?_

theorem State.stage4_safe {q : List Instr} {s : State} (r : BootResult) (h : Safe q s) :
    Safe q (State.stage4 s r) := by
    unfold State.stage4
    with_reducible repeat' first
      | assumption | apply State.stopBoot_safe | apply Mem.wf_clear | refine Safe.foldl ?_ fun _ _ _ => ?_
      | split | dsimp only | exact Safe.mem (by assumption) | refine Safe.build rfl rfl ?_
      | refine Safe.put rfl ?_ ?_ | refine Mem.wf_of (by assumption) ?_

theorem State.buildDie_good {k : Standing} {s : State} (die : Bool) (bad : BitVec 66) (h : Good k s) :
    Good k (State.buildDie s die bad) := by
    unfold State.buildDie
    with_reducible repeat' first
      | assumption | refine Good.foldl ?_ fun _ _ _ => ?_ | split | dsimp only
      | refine Good.build rfl rfl rfl ?_

theorem State.buildMaps_good {k : Standing} {s : State} (fail0 : BitVec 66) (fail1 : BitVec 66) (h : Good k s) :
    Good k (State.buildMaps s fail0 fail1) := by
    unfold State.buildMaps
    with_reducible repeat' first
      | assumption | apply State.updLedger_good | apply State.buildDie_good | split | dsimp only
      | refine Good.build rfl rfl rfl ?_

theorem State.retireLogged_good {k : Standing} {s : State} (die : Bool) (g : Nat) (pos : Nat) (h : Good k s) :
    Good k (State.retireLogged s die g pos) := by
    unfold State.retireLogged
    with_reducible repeat' first
      | assumption | apply State.retire_good | apply State.logStatus_good | split | dsimp only
      | refine Good.build rfl rfl rfl ?_

theorem State.remap_good {k : Standing} {s : State} (die : Bool) (g : Nat) (h : Good k s) :
    Good k (State.remap s die g) := by
    unfold State.remap
    with_reducible repeat' first
      | assumption | apply State.unmap_good | apply State.mapTo_good | split | dsimp only
      | refine Good.build rfl rfl rfl ?_

theorem State.warmDie_good {k : Standing} {s : State} (die : Bool) (fail : BitVec 66) (h : Good k s) :
    Good k (State.warmDie s die fail) := by
    unfold State.warmDie
    with_reducible repeat' first
      | assumption | apply State.retireLogged_good | apply State.remap_good
      | refine Good.foldl ?_ fun _ _ _ => ?_ | split | dsimp only | refine Good.build rfl rfl rfl ?_

theorem State.stage5_safe {q : List Instr} {s : State} (r : BootResult) (h : Safe q s) :
    Safe q (State.stage5 s r) := by
    unfold State.stage5
    with_reducible repeat' first
      | assumption | refine Safe.step (fun _ h => State.buildMaps_good _ _ h) ?_
      | refine Safe.step (fun _ h => State.warmDie_good _ _ h) ?_ | split | dsimp only
      | refine Safe.build rfl rfl ?_

theorem State.floorFails_good {k : Standing} {s : State} (b0 : BitVec 400) (b1 : BitVec 400) (h : Good k s) :
    Good k (State.floorFails s b0 b1) := by
    unfold State.floorFails
    with_reducible repeat' first
      | assumption | apply State.floorLeave_good | refine Good.foldl ?_ fun _ _ _ => ?_ | split | dsimp only
      | refine Good.build rfl rfl rfl ?_

theorem State.stage6_safe {q : List Instr} {s : State} (r : BootResult) (h : Safe q s) :
    Safe q (State.stage6 s r) := by
    unfold State.stage6
    with_reducible repeat' first
      | assumption | apply State.stopBoot_safe | refine Safe.step (fun _ h => State.floorFails_good _ _ h) ?_
      | split | dsimp only | refine Safe.build rfl rfl ?_

theorem State.stage7_safe {q : List Instr} {s : State} (h : Safe q s) :
    Safe q (State.stage7 s) := by
    unfold State.stage7
    with_reducible repeat' first
      | assumption | refine Safe.step (fun _ h => State.spendLeaf_good h) ?_ | split | dsimp only
      | refine Safe.build rfl rfl ?_

theorem State.loadFirmware_good {k : Standing} {s : State} (h : Good k s) :
    Good k (State.loadFirmware s) := by
    unfold State.loadFirmware
    exact Good.put rfl rfl
      (List.foldlRecOn (motive := fun m : Mem => m.wf = true) _ _ h.2 fun _ hm _ _ => Mem.wf_writeRange _ _ _ hm) h

theorem State.stage8_safe {q : List Instr} {s : State} (h : Safe q s) :
    Safe q (State.stage8 s) := by
    unfold State.stage8
    with_reducible repeat' first
      | assumption | refine Safe.step (fun _ h => State.loadFirmware_good h) ?_ | split | dsimp only
      | refine Safe.build rfl rfl ?_

theorem State.runStage_safe {q : List Instr} {s : State} (r : BootResult) (b2 : Nat) (h : Safe q s) :
    Safe q (State.runStage s r b2) := by
    unfold State.runStage
    with_reducible repeat' first
      | assumption | apply State.stage1_safe | apply State.stage2_safe | apply State.stage3_safe
      | apply State.stage4_safe | apply State.stage5_safe | apply State.stage6_safe | apply State.stage7_safe
      | apply State.stage8_safe | split | dsimp only | refine Safe.build rfl rfl ?_

theorem State.confirmBoot_safe {q : List Instr} {s : State} (h : Safe q s) :
    Safe q (State.confirmBoot s) := by
    unfold State.confirmBoot
    with_reducible repeat' first
      | assumption | refine Safe.step (fun _ h => State.updLedger_good _ _ h) ?_ | split | dsimp only
      | refine Safe.build rfl rfl ?_

theorem State.becomeReady_safe {q : List Instr} {s : State} (h : Safe q s) :
    Safe q (State.becomeReady s) := by
    unfold State.becomeReady
    with_reducible repeat' first
      | assumption | apply State.confirmBoot_safe | refine Safe.step (fun _ h => State.trainLive_good _ h) ?_
      | split | dsimp only | refine Safe.build rfl rfl ?_

/-! ### Machine/Complete.lean -/

theorem State.writeSample_good {k : Standing} {s : State} (g : Nat) (r : BitVec 128) (h : Good k s) :
    Good k (State.writeSample s g r) := by
    unfold State.writeSample
    with_reducible repeat' first
      | assumption | apply State.updSampler_good | split | dsimp only | refine Good.build rfl rfl rfl ?_

theorem State.sampleDone_good {k : Standing} {s : State} (g : Nat) (fl : Flight) (h : Good k s) :
    Good k (State.sampleDone s g fl) := by
    unfold State.sampleDone
    with_reducible repeat' first
      | assumption | apply State.writeSample_good | apply State.updSampler_good | split | dsimp only
      | refine Good.build rfl rfl rfl ?_

theorem postToken_good {k : Standing} (g : Nat) (eng : Nat) (pc : Nat) (target : Nat) (t : Nat) {s : State}
    (h : Good k s) :
    Good k (postToken g eng pc target t s) := by
    unfold postToken
    with_reducible repeat' first
      | assumption | apply State.faultPour_good | apply State.updCl_good | split | dsimp only
      | refine Good.build rfl rfl rfl ?_

theorem postAll_good {k : Standing} (g : Nat) (eng : Nat) (pc : Nat) (b3 : List (Nat × Nat)) {b4 : State}
    (h : Good k b4) :
    Good k (postAll g eng pc b3 b4) := by
    induction b3 generalizing g eng pc b4 with
    | nil =>
      unfold postAll
      with_reducible repeat' first
        | assumption | apply postToken_good | split | dsimp only | refine Good.build rfl rfl rfl ?_
    | cons _ _ ih =>
      unfold postAll
      with_reducible repeat' first
        | assumption | apply ih | apply postToken_good | split | dsimp only | refine Good.build rfl rfl rfl ?_

theorem State.landTiles_good {k : Standing} {s : State} (g : Nat) (fl : Flight) (h : Good k s) :
    Good k (State.landTiles s g fl) := by
    unfold State.landTiles
    with_reducible repeat' first
      | assumption | apply State.updCl_good | apply State.applyTiles_good | split | dsimp only
      | refine Good.build rfl rfl rfl ?_

theorem completeFlight_good {k : Standing} (g : Nat) (idx : Nat) (fl : Flight) (n : Option CollInstance)
    {s : State} (h : Good k s) :
    Good k (completeFlight g idx fl n s) := by
    unfold completeFlight
    with_reducible repeat' first
      | assumption | apply postAll_good | apply State.landTiles_good | apply State.updCl_good
      | apply State.sampleDone_good | split | dsimp only | refine Good.build rfl rfl rfl ?_

/-! ### Machine/RegMap.lean -/

theorem State.hostRead_good {k : Standing} {s : State} (p : HostPort) (bar : Nat) (off : Nat) (width : Nat)
    (h : Good k s) :
    Good k (State.hostRead s p bar off width).2 := by
    unfold State.hostRead
    with_reducible repeat' first
      | assumption | apply State.notReached_good | apply State.hostTlp_good | apply State.service_good
      | refine Good.snd (by assumption) ?_ | split | dsimp only | refine Good.build rfl rfl rfl ?_

/-! ### Machine/Jtag.lean -/

theorem State.scanLands_good {k : Standing} {s : State} (bits : List Bool) (h : Good k s) :
    Good k (State.scanLands s bits) := by
    unfold State.scanLands
    with_reducible repeat' first
      | assumption | split | dsimp only | refine Good.build rfl rfl rfl ?_

theorem State.shiftDr_good {k : Standing} {s : State} (bits : List Bool) (h : Good k s) :
    Good k (State.shiftDr s bits) := by
    unfold State.shiftDr
    with_reducible repeat' first
      | assumption | apply State.scanLands_good | split | dsimp only | refine Good.build rfl rfl rfl ?_

/-! ### Machine/Links.lean -/

theorem State.nakIn_good {k : Standing} {s : State} (p : Nat) (ack : BitVec 48) (h : Good k s) :
    Good k (State.nakIn s p ack) := by
    unfold State.nakIn
    with_reducible repeat' first
      | assumption | apply State.updRport_good | apply State.portDown_good | apply State.resend_good | split
      | dsimp only | refine Good.build rfl rfl rfl ?_

theorem State.headerIn_good {k : Standing} {s : State} (p : Nat) (f : Frame) (h : Good k s) :
    Good k (State.headerIn s p f) := by
    unfold State.headerIn
    with_reducible repeat' first
      | assumption | apply State.updRport_good | apply State.nakIn_good | apply State.pumpTx_good | split
      | dsimp only | refine Good.build rfl rfl rfl ?_

theorem State.foreignFrame_good {k : Standing} {s : State} (h : Good k s) :
    Good k (State.foreignFrame s) := by
    unfold State.foreignFrame
    with_reducible repeat' first
      | assumption | split | dsimp only | refine Good.build rfl rfl rfl ?_

theorem State.countRx_good {k : Standing} {s : State} (p : Nat) (f : Frame) (h : Good k s) :
    Good k (State.countRx s p f) := by
    unfold State.countRx
    with_reducible repeat' first
      | assumption | apply State.count_good | apply State.bwCount_good | split | dsimp only
      | refine Good.build rfl rfl rfl ?_

theorem State.arrive_good {k : Standing} {s : State} (p : Nat) (f : Frame) (h : Good k s) :
    Good k (State.arrive s p f).1 := by
    unfold State.arrive
    with_reducible repeat' first
      | assumption | apply State.foreignFrame_good | apply State.checkLanes_good | apply State.headerIn_good
      | apply State.count_good | apply State.updRport_good | apply State.countRx_good
      | refine Good.fst (by assumption) ?_ | split | dsimp only | refine Good.build rfl rfl rfl ?_

theorem State.deliver_good {k : Standing} {s : State} (p : Nat) (f : Frame) (kind : Bool)
    (body : State → State) (h : Good k s) (hbody : ∀  s, Good k s → Good k (body  s)) :
    Good k (State.deliver s p f kind body) := by
    unfold State.deliver
    with_reducible repeat' first
      | assumption | apply hbody | apply State.arrive_good | refine Good.fst (by assumption) ?_ | split
      | dsimp only | refine Good.build rfl rfl rfl ?_

theorem State.toRank_good {k : Standing} {s : State} (p : Nat) (f : Frame) (body : State → State)
    (h : Good k s) (hbody : ∀  s, Good k s → Good k (body  s)) :
    Good k (State.toRank s p f body) := by
    unfold State.toRank
    with_reducible repeat' first
      | assumption | apply hbody | apply State.relay_good | split | dsimp only
      | refine Good.build rfl rfl rfl ?_

theorem State.queueBoard_good {k : Standing} {s : State} (p : Nat) (f : Frame) (write : Bool) (h : Good k s) :
    Good k (State.queueBoard s p f write) := by
    unfold State.queueBoard
    with_reducible repeat' first
      | assumption | apply State.updRport_good | split | dsimp only | refine Good.build rfl rfl rfl ?_

theorem State.boardFailure_good {k : Standing} {s : State} (p : Nat) (b : BoardAccess) (st : BitVec 16)
    (h : Good k s) :
    Good k (State.boardFailure s p b st) := by
    unfold State.boardFailure
    with_reducible repeat' first
      | assumption | apply State.xmit_good | split | dsimp only | refine Good.build rfl rfl rfl ?_

theorem State.boardReply_good {k : Standing} {s : State} (p : Nat) (b : BoardAccess) (n : Nat)
    (data : List Byte) (poison : List Nat) (h : Good k s) :
    Good k (State.boardReply s p b n data poison) := by
    unfold State.boardReply
    with_reducible repeat' first
      | assumption | apply State.xmit_good | split | dsimp only | refine Good.build rfl rfl rfl ?_

theorem State.makeBoard_good {k : Standing} {s : State} (pat : Pattern) (p : Nat) (b : BoardAccess) (a : Nat)
    (h : Good k s) :
    Good k (State.makeBoard s pat p b a) := by
    unfold State.makeBoard
    with_reducible repeat' first
      | assumption | apply carryWrite_good | apply State.markWritten_good | apply State.readMem_good
      | apply State.boardReply_good | refine Good.snd (by assumption) ?_ | split | dsimp only
      | refine Good.build rfl rfl rfl ?_

theorem State.serveBoard_good {k : Standing} {s : State} (p : Nat) (write : Bool) (phase : Nat) (h : Good k s) :
    Good k (State.serveBoard s p write phase) := by
    unfold State.serveBoard
    with_reducible repeat' first
      | assumption | apply State.updRport_good | apply State.boardFailure_good | apply State.floorCarry_good
      | apply State.makeBoard_good | refine Good.foldl ?_ fun _ _ _ => ?_ | split | dsimp only
      | refine Good.build rfl rfl rfl ?_

theorem State.boardFrame_good {k : Standing} {s : State} (p : Nat) (frame : Option Frame) (write : Bool)
    (phase : Nat) (h : Good k s) :
    Good k (State.boardFrame s p frame write phase) := by
    unfold State.boardFrame
    with_reducible repeat' first
      | assumption | apply State.deliver_good | apply State.queueBoard_good | apply State.serveBoard_good
      | split | dsimp only | intro _ _ | refine Good.build rfl rfl rfl ?_

theorem State.takeResponse_good {k : Standing} {s : State} (g : Nat) (fl : Flight) (f : Frame) (h : Good k s) :
    Good k (State.takeResponse s g fl f) := by
    unfold State.takeResponse
    with_reducible repeat' first
      | assumption | apply advanceFree_good | apply State.updCl_good | split | dsimp only
      | refine Good.build rfl rfl rfl ?_

theorem State.boardResponse_good {k : Standing} {s : State} (p : Nat) (f : Frame) (h : Good k s) :
    Good k (State.boardResponse s p f) := by
    unfold State.boardResponse
    with_reducible repeat' first
      | assumption | apply State.faultPour_good | apply State.stopAttempt_good | apply State.takeResponse_good
      | split | dsimp only | refine Good.build rfl rfl rfl ?_

/-! ### Machine/Regs.lean -/

theorem State.writeRefusal_good {k : Standing} {s : State} (port : HostPort) (c : Nat) (value : Word32)
    (h : Good k s) :
    Good k (State.writeRefusal s port c value) := by
    unfold State.writeRefusal
    with_reducible repeat' first
      | assumption | apply State.rsvdIf_good | apply State.addStray_good | apply State.updVchan_good | split
      | dsimp only | refine Good.build rfl rfl rfl ?_

theorem State.writeLgtState_good {k : Standing} {s : State} (value : Word32) (h : Good k s) :
    Good k (State.writeLgtState s value) := by
    unfold State.writeLgtState
    with_reducible repeat' first
      | assumption | apply State.rsvdIf_good | split | dsimp only | refine Good.build rfl rfl rfl ?_

theorem State.writeChanReset_good {k : Standing} {s : State} (port : HostPort) (value : Word32) (h : Good k s) :
    Good k (State.writeChanReset s port value) := by
    unfold State.writeChanReset
    with_reducible repeat' first
      | assumption | apply State.writeReset_good | apply State.rsvdIf_good | split | dsimp only
      | refine Good.build rfl rfl rfl ?_

theorem State.writeOther_good {k : Standing} {s : State} (off : Nat) (value : Word32) (h : Good k s) :
    Good k (State.writeOther s off value) := by
    unfold State.writeOther
    with_reducible repeat' first
      | assumption | apply State.rsvdWrite_good | apply State.rsvdIf_good | split | dsimp only
      | refine Good.build rfl rfl rfl ?_

theorem State.writeSpr_good {k : Standing} {s : State} (port : HostPort) (off : Nat) (value : Word32)
    (h : Good k s) :
    Good k (State.writeSpr s port off value) := by
    unfold State.writeSpr
    with_reducible repeat' first
      | assumption | apply State.writeRhead_good | apply State.writeRefusal_good | apply State.writeOther_good
      | split | dsimp only | refine Good.build rfl rfl rfl ?_

theorem State.writeCnt_good {k : Standing} {s : State} (off : Nat) (value : Word32) (h : Good k s) :
    Good k (State.writeCnt s off value) := by
    unfold State.writeCnt
    with_reducible repeat' first
      | assumption | apply State.writeSnap_good | apply State.writeBw_good | apply State.writeSampling_good
      | apply State.writeOther_good | split | dsimp only | refine Good.build rfl rfl rfl ?_

theorem State.writeReg_safe {q : List Instr} {s : State} (port : HostPort) (off : Nat) (value : Word32)
    (h : Safe q s) :
    Safe q (State.writeReg s port off value) := by
    unfold State.writeReg
    with_reducible repeat' first
      | assumption | refine Safe.step (fun _ h => State.writeChanReset_good _ _ h) ?_
      | refine Safe.step (fun _ h => State.writeReinit_good _ _ h) ?_
      | refine Safe.step (fun _ h => State.drawFree_good h) ?_
      | refine Safe.step (fun _ h => State.writeCap_good _ h) ?_
      | refine Safe.step (fun _ h => State.writeStatus_good _ h) ?_
      | refine Safe.step (fun _ h => State.writeLgtState_good _ h) ?_
      | refine Safe.step (fun _ h => State.writeMonitor_good _ h) ?_ | apply State.writeSelftest_safe
      | apply State.writeZeroise_safe | refine Safe.step (fun _ h => State.writeSpr_good _ _ _ h) ?_
      | refine Safe.step (fun _ h => State.writeCnt_good _ _ h) ?_
      | refine Safe.step (fun _ h => State.writeOther_good _ _ h) ?_ | refine Safe.snd (by assumption) ?_
      | split | dsimp only | refine Safe.build rfl rfl ?_

theorem State.writeBar_safe {q : List Instr} {s : State} (port : HostPort) (off : Nat) (width : Nat)
    (value : Word64) (h : Safe q s) :
    Safe q (State.writeBar s port off width value) := by
    unfold State.writeBar
    with_reducible repeat' first
      | assumption | apply State.writeReg_safe | refine Safe.step (fun _ h => State.rsvdWrite_good h) ?_ | split
      | dsimp only | refine Safe.build rfl rfl ?_

end Sys2Proof.Machine
end

