-- ==== Sys2Proof/Laws/State.lean ====
section
/-! SUPPORT. The small lemmas of the state: what each named update leaves, field by field, and what reading after a write
gives. -/

namespace Sys2Proof.Machine

/-! ### updCl -/

@[simp] theorem State.updCl_pending (s : State) (g : Nat) (f : Cluster → Cluster) : (s.updCl g f).pending = s.pending := rfl
@[simp] theorem State.updCl_free (s : State) (g : Nat) (f : Cluster → Cluster) : (s.updCl g f).free = s.free := rfl
@[simp] theorem State.updCl_pins (s : State) (g : Nat) (f : Cluster → Cluster) : (s.updCl g f).pins = s.pins := rfl
@[simp] theorem State.updCl_boot (s : State) (g : Nat) (f : Cluster → Cluster) : (s.updCl g f).boot = s.boot := rfl
@[simp] theorem State.updCl_ident (s : State) (g : Nat) (f : Cluster → Cluster) : (s.updCl g f).ident = s.ident := rfl
@[simp] theorem State.updCl_mem (s : State) (g : Nat) (f : Cluster → Cluster) : (s.updCl g f).mem = s.mem := rfl
@[simp] theorem State.updCl_sprue (s : State) (g : Nat) (f : Cluster → Cluster) : (s.updCl g f).sprue = s.sprue := rfl
@[simp] theorem State.updCl_riser (s : State) (g : Nat) (f : Cluster → Cluster) : (s.updCl g f).riser = s.riser := rfl
@[simp] theorem State.updCl_trail (s : State) (g : Nat) (f : Cluster → Cluster) : (s.updCl g f).trail = s.trail := rfl
@[simp] theorem State.updCl_chans (s : State) (g : Nat) (f : Cluster → Cluster) : (s.updCl g f).chans = s.chans := rfl
@[simp] theorem State.updCl_accepted (s : State) (g : Nat) (f : Cluster → Cluster) : (s.updCl g f).accepted = s.accepted := rfl
@[simp] theorem State.updCl_intake (s : State) (g : Nat) (f : Cluster → Cluster) : (s.updCl g f).intake = s.intake := rfl
@[simp] theorem State.updCl_cope (s : State) (g : Nat) (f : Cluster → Cluster) : (s.updCl g f).cope = s.cope := rfl
@[simp] theorem State.updCl_drag (s : State) (g : Nat) (f : Cluster → Cluster) : (s.updCl g f).drag = s.drag := rfl
@[simp] theorem State.updCl_patterns (s : State) (g : Nat) (f : Cluster → Cluster) : (s.updCl g f).patterns = s.patterns := rfl
@[simp] theorem State.updCl_running (s : State) (g : Nat) (f : Cluster → Cluster) : (s.updCl g f).running = s.running := rfl
@[simp] theorem State.updCl_run (s : State) (g : Nat) (f : Cluster → Cluster) : (s.updCl g f).run = s.run := rfl
@[simp] theorem State.updCl_kept (s : State) (g : Nat) (f : Cluster → Cluster) : (s.updCl g f).kept = s.kept := rfl
@[simp] theorem State.updCl_power (s : State) (g : Nat) (f : Cluster → Cluster) : (s.updCl g f).power = s.power := rfl
@[simp] theorem State.updCl_runner (s : State) (g : Nat) (f : Cluster → Cluster) : (s.updCl g f).runner = s.runner := rfl
@[simp] theorem State.updCl_light (s : State) (g : Nat) (f : Cluster → Cluster) : (s.updCl g f).light = s.light := rfl
@[simp] theorem State.updCl_assay (s : State) (g : Nat) (f : Cluster → Cluster) : (s.updCl g f).assay = s.assay := rfl
@[simp] theorem State.updCl_err (s : State) (g : Nat) (f : Cluster → Cluster) : (s.updCl g f).err = s.err := rfl
@[simp] theorem State.updCl_cnt (s : State) (g : Nat) (f : Cluster → Cluster) : (s.updCl g f).cnt = s.cnt := rfl
@[simp] theorem State.updCl_jtag (s : State) (g : Nat) (f : Cluster → Cluster) : (s.updCl g f).jtag = s.jtag := rfl
@[simp] theorem State.updCl_mctpOut (s : State) (g : Nat) (f : Cluster → Cluster) : (s.updCl g f).mctpOut = s.mctpOut := rfl

/-! ### updLedger -/

@[simp] theorem State.updLedger_pending (s : State) (l : RLine) (f : Ledger → Ledger) : (s.updLedger l f).pending = s.pending := rfl
@[simp] theorem State.updLedger_free (s : State) (l : RLine) (f : Ledger → Ledger) : (s.updLedger l f).free = s.free := rfl
@[simp] theorem State.updLedger_pins (s : State) (l : RLine) (f : Ledger → Ledger) : (s.updLedger l f).pins = s.pins := rfl
@[simp] theorem State.updLedger_boot (s : State) (l : RLine) (f : Ledger → Ledger) : (s.updLedger l f).boot = s.boot := rfl
@[simp] theorem State.updLedger_ident (s : State) (l : RLine) (f : Ledger → Ledger) : (s.updLedger l f).ident = s.ident := rfl
@[simp] theorem State.updLedger_mem (s : State) (l : RLine) (f : Ledger → Ledger) : (s.updLedger l f).mem = s.mem := rfl
@[simp] theorem State.updLedger_sprue (s : State) (l : RLine) (f : Ledger → Ledger) : (s.updLedger l f).sprue = s.sprue := rfl
@[simp] theorem State.updLedger_chans (s : State) (l : RLine) (f : Ledger → Ledger) : (s.updLedger l f).chans = s.chans := rfl
@[simp] theorem State.updLedger_accepted (s : State) (l : RLine) (f : Ledger → Ledger) : (s.updLedger l f).accepted = s.accepted := rfl
@[simp] theorem State.updLedger_intake (s : State) (l : RLine) (f : Ledger → Ledger) : (s.updLedger l f).intake = s.intake := rfl
@[simp] theorem State.updLedger_cope (s : State) (l : RLine) (f : Ledger → Ledger) : (s.updLedger l f).cope = s.cope := rfl
@[simp] theorem State.updLedger_drag (s : State) (l : RLine) (f : Ledger → Ledger) : (s.updLedger l f).drag = s.drag := rfl
@[simp] theorem State.updLedger_patterns (s : State) (l : RLine) (f : Ledger → Ledger) : (s.updLedger l f).patterns = s.patterns := rfl
@[simp] theorem State.updLedger_running (s : State) (l : RLine) (f : Ledger → Ledger) : (s.updLedger l f).running = s.running := rfl
@[simp] theorem State.updLedger_run (s : State) (l : RLine) (f : Ledger → Ledger) : (s.updLedger l f).run = s.run := rfl
@[simp] theorem State.updLedger_kept (s : State) (l : RLine) (f : Ledger → Ledger) : (s.updLedger l f).kept = s.kept := rfl
@[simp] theorem State.updLedger_clusters (s : State) (l : RLine) (f : Ledger → Ledger) : (s.updLedger l f).clusters = s.clusters := rfl
@[simp] theorem State.updLedger_power (s : State) (l : RLine) (f : Ledger → Ledger) : (s.updLedger l f).power = s.power := rfl
@[simp] theorem State.updLedger_runner (s : State) (l : RLine) (f : Ledger → Ledger) : (s.updLedger l f).runner = s.runner := rfl
@[simp] theorem State.updLedger_light (s : State) (l : RLine) (f : Ledger → Ledger) : (s.updLedger l f).light = s.light := rfl
@[simp] theorem State.updLedger_assay (s : State) (l : RLine) (f : Ledger → Ledger) : (s.updLedger l f).assay = s.assay := rfl
@[simp] theorem State.updLedger_err (s : State) (l : RLine) (f : Ledger → Ledger) : (s.updLedger l f).err = s.err := rfl
@[simp] theorem State.updLedger_cnt (s : State) (l : RLine) (f : Ledger → Ledger) : (s.updLedger l f).cnt = s.cnt := rfl
@[simp] theorem State.updLedger_jtag (s : State) (l : RLine) (f : Ledger → Ledger) : (s.updLedger l f).jtag = s.jtag := rfl
@[simp] theorem State.updLedger_mctpOut (s : State) (l : RLine) (f : Ledger → Ledger) : (s.updLedger l f).mctpOut = s.mctpOut := rfl

/-! ### updEntry -/

@[simp] theorem State.updEntry_pending (s : State) (i : Nat) (f : Entry → Entry) : (s.updEntry i f).pending = s.pending := rfl
@[simp] theorem State.updEntry_free (s : State) (i : Nat) (f : Entry → Entry) : (s.updEntry i f).free = s.free := rfl
@[simp] theorem State.updEntry_pins (s : State) (i : Nat) (f : Entry → Entry) : (s.updEntry i f).pins = s.pins := rfl
@[simp] theorem State.updEntry_boot (s : State) (i : Nat) (f : Entry → Entry) : (s.updEntry i f).boot = s.boot := rfl
@[simp] theorem State.updEntry_ident (s : State) (i : Nat) (f : Entry → Entry) : (s.updEntry i f).ident = s.ident := rfl
@[simp] theorem State.updEntry_mem (s : State) (i : Nat) (f : Entry → Entry) : (s.updEntry i f).mem = s.mem := rfl
@[simp] theorem State.updEntry_sprue (s : State) (i : Nat) (f : Entry → Entry) : (s.updEntry i f).sprue = s.sprue := rfl
@[simp] theorem State.updEntry_chans (s : State) (i : Nat) (f : Entry → Entry) : (s.updEntry i f).chans = s.chans := rfl
@[simp] theorem State.updEntry_accepted (s : State) (i : Nat) (f : Entry → Entry) : (s.updEntry i f).accepted = s.accepted := rfl
@[simp] theorem State.updEntry_intake (s : State) (i : Nat) (f : Entry → Entry) : (s.updEntry i f).intake = s.intake := rfl
@[simp] theorem State.updEntry_cope (s : State) (i : Nat) (f : Entry → Entry) : (s.updEntry i f).cope = s.cope := rfl
@[simp] theorem State.updEntry_drag (s : State) (i : Nat) (f : Entry → Entry) : (s.updEntry i f).drag = s.drag := rfl
@[simp] theorem State.updEntry_patterns (s : State) (i : Nat) (f : Entry → Entry) : (s.updEntry i f).patterns = s.patterns := rfl
@[simp] theorem State.updEntry_running (s : State) (i : Nat) (f : Entry → Entry) : (s.updEntry i f).running = s.running := rfl
@[simp] theorem State.updEntry_run (s : State) (i : Nat) (f : Entry → Entry) : (s.updEntry i f).run = s.run := rfl
@[simp] theorem State.updEntry_kept (s : State) (i : Nat) (f : Entry → Entry) : (s.updEntry i f).kept = s.kept := rfl
@[simp] theorem State.updEntry_clusters (s : State) (i : Nat) (f : Entry → Entry) : (s.updEntry i f).clusters = s.clusters := rfl
@[simp] theorem State.updEntry_power (s : State) (i : Nat) (f : Entry → Entry) : (s.updEntry i f).power = s.power := rfl
@[simp] theorem State.updEntry_runner (s : State) (i : Nat) (f : Entry → Entry) : (s.updEntry i f).runner = s.runner := rfl
@[simp] theorem State.updEntry_light (s : State) (i : Nat) (f : Entry → Entry) : (s.updEntry i f).light = s.light := rfl
@[simp] theorem State.updEntry_assay (s : State) (i : Nat) (f : Entry → Entry) : (s.updEntry i f).assay = s.assay := rfl
@[simp] theorem State.updEntry_err (s : State) (i : Nat) (f : Entry → Entry) : (s.updEntry i f).err = s.err := rfl
@[simp] theorem State.updEntry_cnt (s : State) (i : Nat) (f : Entry → Entry) : (s.updEntry i f).cnt = s.cnt := rfl
@[simp] theorem State.updEntry_jtag (s : State) (i : Nat) (f : Entry → Entry) : (s.updEntry i f).jtag = s.jtag := rfl
@[simp] theorem State.updEntry_mctpOut (s : State) (i : Nat) (f : Entry → Entry) : (s.updEntry i f).mctpOut = s.mctpOut := rfl

/-! ### updChan -/

@[simp] theorem State.updChan_pending (s : State) (c : Nat) (f : ChanRec → ChanRec) : (s.updChan c f).pending = s.pending := rfl
@[simp] theorem State.updChan_free (s : State) (c : Nat) (f : ChanRec → ChanRec) : (s.updChan c f).free = s.free := rfl
@[simp] theorem State.updChan_pins (s : State) (c : Nat) (f : ChanRec → ChanRec) : (s.updChan c f).pins = s.pins := rfl
@[simp] theorem State.updChan_boot (s : State) (c : Nat) (f : ChanRec → ChanRec) : (s.updChan c f).boot = s.boot := rfl
@[simp] theorem State.updChan_ident (s : State) (c : Nat) (f : ChanRec → ChanRec) : (s.updChan c f).ident = s.ident := rfl
@[simp] theorem State.updChan_mem (s : State) (c : Nat) (f : ChanRec → ChanRec) : (s.updChan c f).mem = s.mem := rfl
@[simp] theorem State.updChan_sprue (s : State) (c : Nat) (f : ChanRec → ChanRec) : (s.updChan c f).sprue = s.sprue := rfl
@[simp] theorem State.updChan_chans (s : State) (c : Nat) (f : ChanRec → ChanRec) : (s.updChan c f).chans = s.chans := rfl
@[simp] theorem State.updChan_accepted (s : State) (c : Nat) (f : ChanRec → ChanRec) : (s.updChan c f).accepted = s.accepted := rfl
@[simp] theorem State.updChan_intake (s : State) (c : Nat) (f : ChanRec → ChanRec) : (s.updChan c f).intake = s.intake := rfl
@[simp] theorem State.updChan_cope (s : State) (c : Nat) (f : ChanRec → ChanRec) : (s.updChan c f).cope = s.cope := rfl
@[simp] theorem State.updChan_drag (s : State) (c : Nat) (f : ChanRec → ChanRec) : (s.updChan c f).drag = s.drag := rfl
@[simp] theorem State.updChan_patterns (s : State) (c : Nat) (f : ChanRec → ChanRec) : (s.updChan c f).patterns = s.patterns := rfl
@[simp] theorem State.updChan_running (s : State) (c : Nat) (f : ChanRec → ChanRec) : (s.updChan c f).running = s.running := rfl
@[simp] theorem State.updChan_run (s : State) (c : Nat) (f : ChanRec → ChanRec) : (s.updChan c f).run = s.run := rfl
@[simp] theorem State.updChan_kept (s : State) (c : Nat) (f : ChanRec → ChanRec) : (s.updChan c f).kept = s.kept := rfl
@[simp] theorem State.updChan_clusters (s : State) (c : Nat) (f : ChanRec → ChanRec) : (s.updChan c f).clusters = s.clusters := rfl
@[simp] theorem State.updChan_power (s : State) (c : Nat) (f : ChanRec → ChanRec) : (s.updChan c f).power = s.power := rfl
@[simp] theorem State.updChan_runner (s : State) (c : Nat) (f : ChanRec → ChanRec) : (s.updChan c f).runner = s.runner := rfl
@[simp] theorem State.updChan_light (s : State) (c : Nat) (f : ChanRec → ChanRec) : (s.updChan c f).light = s.light := rfl
@[simp] theorem State.updChan_assay (s : State) (c : Nat) (f : ChanRec → ChanRec) : (s.updChan c f).assay = s.assay := rfl
@[simp] theorem State.updChan_err (s : State) (c : Nat) (f : ChanRec → ChanRec) : (s.updChan c f).err = s.err := rfl
@[simp] theorem State.updChan_cnt (s : State) (c : Nat) (f : ChanRec → ChanRec) : (s.updChan c f).cnt = s.cnt := rfl
@[simp] theorem State.updChan_jtag (s : State) (c : Nat) (f : ChanRec → ChanRec) : (s.updChan c f).jtag = s.jtag := rfl
@[simp] theorem State.updChan_mctpOut (s : State) (c : Nat) (f : ChanRec → ChanRec) : (s.updChan c f).mctpOut = s.mctpOut := rfl

/-! ### updVchan -/

@[simp] theorem State.updVchan_pending (s : State) (c : Nat) (f : Chan → Chan) : (s.updVchan c f).pending = s.pending := rfl
@[simp] theorem State.updVchan_free (s : State) (c : Nat) (f : Chan → Chan) : (s.updVchan c f).free = s.free := rfl
@[simp] theorem State.updVchan_pins (s : State) (c : Nat) (f : Chan → Chan) : (s.updVchan c f).pins = s.pins := rfl
@[simp] theorem State.updVchan_boot (s : State) (c : Nat) (f : Chan → Chan) : (s.updVchan c f).boot = s.boot := rfl
@[simp] theorem State.updVchan_ident (s : State) (c : Nat) (f : Chan → Chan) : (s.updVchan c f).ident = s.ident := rfl
@[simp] theorem State.updVchan_mem (s : State) (c : Nat) (f : Chan → Chan) : (s.updVchan c f).mem = s.mem := rfl
@[simp] theorem State.updVchan_sprue (s : State) (c : Nat) (f : Chan → Chan) : (s.updVchan c f).sprue = s.sprue := rfl
@[simp] theorem State.updVchan_riser (s : State) (c : Nat) (f : Chan → Chan) : (s.updVchan c f).riser = s.riser := rfl
@[simp] theorem State.updVchan_trail (s : State) (c : Nat) (f : Chan → Chan) : (s.updVchan c f).trail = s.trail := rfl
@[simp] theorem State.updVchan_accepted (s : State) (c : Nat) (f : Chan → Chan) : (s.updVchan c f).accepted = s.accepted := rfl
@[simp] theorem State.updVchan_intake (s : State) (c : Nat) (f : Chan → Chan) : (s.updVchan c f).intake = s.intake := rfl
@[simp] theorem State.updVchan_cope (s : State) (c : Nat) (f : Chan → Chan) : (s.updVchan c f).cope = s.cope := rfl
@[simp] theorem State.updVchan_drag (s : State) (c : Nat) (f : Chan → Chan) : (s.updVchan c f).drag = s.drag := rfl
@[simp] theorem State.updVchan_patterns (s : State) (c : Nat) (f : Chan → Chan) : (s.updVchan c f).patterns = s.patterns := rfl
@[simp] theorem State.updVchan_running (s : State) (c : Nat) (f : Chan → Chan) : (s.updVchan c f).running = s.running := rfl
@[simp] theorem State.updVchan_run (s : State) (c : Nat) (f : Chan → Chan) : (s.updVchan c f).run = s.run := rfl
@[simp] theorem State.updVchan_kept (s : State) (c : Nat) (f : Chan → Chan) : (s.updVchan c f).kept = s.kept := rfl
@[simp] theorem State.updVchan_clusters (s : State) (c : Nat) (f : Chan → Chan) : (s.updVchan c f).clusters = s.clusters := rfl
@[simp] theorem State.updVchan_power (s : State) (c : Nat) (f : Chan → Chan) : (s.updVchan c f).power = s.power := rfl
@[simp] theorem State.updVchan_runner (s : State) (c : Nat) (f : Chan → Chan) : (s.updVchan c f).runner = s.runner := rfl
@[simp] theorem State.updVchan_light (s : State) (c : Nat) (f : Chan → Chan) : (s.updVchan c f).light = s.light := rfl
@[simp] theorem State.updVchan_assay (s : State) (c : Nat) (f : Chan → Chan) : (s.updVchan c f).assay = s.assay := rfl
@[simp] theorem State.updVchan_err (s : State) (c : Nat) (f : Chan → Chan) : (s.updVchan c f).err = s.err := rfl
@[simp] theorem State.updVchan_cnt (s : State) (c : Nat) (f : Chan → Chan) : (s.updVchan c f).cnt = s.cnt := rfl
@[simp] theorem State.updVchan_jtag (s : State) (c : Nat) (f : Chan → Chan) : (s.updVchan c f).jtag = s.jtag := rfl
@[simp] theorem State.updVchan_mctpOut (s : State) (c : Nat) (f : Chan → Chan) : (s.updVchan c f).mctpOut = s.mctpOut := rfl

/-! ### setRunning -/

@[simp] theorem State.setRunning_pending (s : State) (c : Nat) (r : Option Running) : (s.setRunning c r).pending = s.pending := rfl
@[simp] theorem State.setRunning_free (s : State) (c : Nat) (r : Option Running) : (s.setRunning c r).free = s.free := rfl
@[simp] theorem State.setRunning_pins (s : State) (c : Nat) (r : Option Running) : (s.setRunning c r).pins = s.pins := rfl
@[simp] theorem State.setRunning_boot (s : State) (c : Nat) (r : Option Running) : (s.setRunning c r).boot = s.boot := rfl
@[simp] theorem State.setRunning_ident (s : State) (c : Nat) (r : Option Running) : (s.setRunning c r).ident = s.ident := rfl
@[simp] theorem State.setRunning_mem (s : State) (c : Nat) (r : Option Running) : (s.setRunning c r).mem = s.mem := rfl
@[simp] theorem State.setRunning_sprue (s : State) (c : Nat) (r : Option Running) : (s.setRunning c r).sprue = s.sprue := rfl
@[simp] theorem State.setRunning_riser (s : State) (c : Nat) (r : Option Running) : (s.setRunning c r).riser = s.riser := rfl
@[simp] theorem State.setRunning_trail (s : State) (c : Nat) (r : Option Running) : (s.setRunning c r).trail = s.trail := rfl
@[simp] theorem State.setRunning_chans (s : State) (c : Nat) (r : Option Running) : (s.setRunning c r).chans = s.chans := rfl
@[simp] theorem State.setRunning_accepted (s : State) (c : Nat) (r : Option Running) : (s.setRunning c r).accepted = s.accepted := rfl
@[simp] theorem State.setRunning_intake (s : State) (c : Nat) (r : Option Running) : (s.setRunning c r).intake = s.intake := rfl
@[simp] theorem State.setRunning_cope (s : State) (c : Nat) (r : Option Running) : (s.setRunning c r).cope = s.cope := rfl
@[simp] theorem State.setRunning_drag (s : State) (c : Nat) (r : Option Running) : (s.setRunning c r).drag = s.drag := rfl
@[simp] theorem State.setRunning_patterns (s : State) (c : Nat) (r : Option Running) : (s.setRunning c r).patterns = s.patterns := rfl
@[simp] theorem State.setRunning_run (s : State) (c : Nat) (r : Option Running) : (s.setRunning c r).run = s.run := rfl
@[simp] theorem State.setRunning_kept (s : State) (c : Nat) (r : Option Running) : (s.setRunning c r).kept = s.kept := rfl
@[simp] theorem State.setRunning_clusters (s : State) (c : Nat) (r : Option Running) : (s.setRunning c r).clusters = s.clusters := rfl
@[simp] theorem State.setRunning_power (s : State) (c : Nat) (r : Option Running) : (s.setRunning c r).power = s.power := rfl
@[simp] theorem State.setRunning_runner (s : State) (c : Nat) (r : Option Running) : (s.setRunning c r).runner = s.runner := rfl
@[simp] theorem State.setRunning_light (s : State) (c : Nat) (r : Option Running) : (s.setRunning c r).light = s.light := rfl
@[simp] theorem State.setRunning_assay (s : State) (c : Nat) (r : Option Running) : (s.setRunning c r).assay = s.assay := rfl
@[simp] theorem State.setRunning_err (s : State) (c : Nat) (r : Option Running) : (s.setRunning c r).err = s.err := rfl
@[simp] theorem State.setRunning_cnt (s : State) (c : Nat) (r : Option Running) : (s.setRunning c r).cnt = s.cnt := rfl
@[simp] theorem State.setRunning_jtag (s : State) (c : Nat) (r : Option Running) : (s.setRunning c r).jtag = s.jtag := rfl
@[simp] theorem State.setRunning_mctpOut (s : State) (c : Nat) (r : Option Running) : (s.setRunning c r).mctpOut = s.mctpOut := rfl

/-! ### setWindow -/

@[simp] theorem State.setWindow_pending (s : State) (p : HostPort) (c : Nat) (w : Window) : (s.setWindow p c w).pending = s.pending := rfl
@[simp] theorem State.setWindow_free (s : State) (p : HostPort) (c : Nat) (w : Window) : (s.setWindow p c w).free = s.free := rfl
@[simp] theorem State.setWindow_pins (s : State) (p : HostPort) (c : Nat) (w : Window) : (s.setWindow p c w).pins = s.pins := rfl
@[simp] theorem State.setWindow_boot (s : State) (p : HostPort) (c : Nat) (w : Window) : (s.setWindow p c w).boot = s.boot := rfl
@[simp] theorem State.setWindow_ident (s : State) (p : HostPort) (c : Nat) (w : Window) : (s.setWindow p c w).ident = s.ident := rfl
@[simp] theorem State.setWindow_mem (s : State) (p : HostPort) (c : Nat) (w : Window) : (s.setWindow p c w).mem = s.mem := rfl
@[simp] theorem State.setWindow_sprue (s : State) (p : HostPort) (c : Nat) (w : Window) : (s.setWindow p c w).sprue = s.sprue := rfl
@[simp] theorem State.setWindow_riser (s : State) (p : HostPort) (c : Nat) (w : Window) : (s.setWindow p c w).riser = s.riser := rfl
@[simp] theorem State.setWindow_trail (s : State) (p : HostPort) (c : Nat) (w : Window) : (s.setWindow p c w).trail = s.trail := rfl
@[simp] theorem State.setWindow_chans (s : State) (p : HostPort) (c : Nat) (w : Window) : (s.setWindow p c w).chans = s.chans := rfl
@[simp] theorem State.setWindow_accepted (s : State) (p : HostPort) (c : Nat) (w : Window) :
    (s.setWindow p c w).accepted = s.accepted := rfl
@[simp] theorem State.setWindow_cope (s : State) (p : HostPort) (c : Nat) (w : Window) : (s.setWindow p c w).cope = s.cope := rfl
@[simp] theorem State.setWindow_drag (s : State) (p : HostPort) (c : Nat) (w : Window) : (s.setWindow p c w).drag = s.drag := rfl
@[simp] theorem State.setWindow_patterns (s : State) (p : HostPort) (c : Nat) (w : Window) :
    (s.setWindow p c w).patterns = s.patterns := rfl
@[simp] theorem State.setWindow_running (s : State) (p : HostPort) (c : Nat) (w : Window) : (s.setWindow p c w).running = s.running := rfl
@[simp] theorem State.setWindow_run (s : State) (p : HostPort) (c : Nat) (w : Window) : (s.setWindow p c w).run = s.run := rfl
@[simp] theorem State.setWindow_kept (s : State) (p : HostPort) (c : Nat) (w : Window) : (s.setWindow p c w).kept = s.kept := rfl
@[simp] theorem State.setWindow_clusters (s : State) (p : HostPort) (c : Nat) (w : Window) :
    (s.setWindow p c w).clusters = s.clusters := rfl
@[simp] theorem State.setWindow_power (s : State) (p : HostPort) (c : Nat) (w : Window) : (s.setWindow p c w).power = s.power := rfl
@[simp] theorem State.setWindow_runner (s : State) (p : HostPort) (c : Nat) (w : Window) : (s.setWindow p c w).runner = s.runner := rfl
@[simp] theorem State.setWindow_light (s : State) (p : HostPort) (c : Nat) (w : Window) : (s.setWindow p c w).light = s.light := rfl
@[simp] theorem State.setWindow_assay (s : State) (p : HostPort) (c : Nat) (w : Window) : (s.setWindow p c w).assay = s.assay := rfl
@[simp] theorem State.setWindow_err (s : State) (p : HostPort) (c : Nat) (w : Window) : (s.setWindow p c w).err = s.err := rfl
@[simp] theorem State.setWindow_cnt (s : State) (p : HostPort) (c : Nat) (w : Window) : (s.setWindow p c w).cnt = s.cnt := rfl
@[simp] theorem State.setWindow_jtag (s : State) (p : HostPort) (c : Nat) (w : Window) : (s.setWindow p c w).jtag = s.jtag := rfl
@[simp] theorem State.setWindow_mctpOut (s : State) (p : HostPort) (c : Nat) (w : Window) : (s.setWindow p c w).mctpOut = s.mctpOut := rfl

/-! ### count -/

@[simp] theorem State.count_pending (s : State) (off k : Nat) : (s.count off k).pending = s.pending := rfl
@[simp] theorem State.count_free (s : State) (off k : Nat) : (s.count off k).free = s.free := rfl
@[simp] theorem State.count_pins (s : State) (off k : Nat) : (s.count off k).pins = s.pins := rfl
@[simp] theorem State.count_boot (s : State) (off k : Nat) : (s.count off k).boot = s.boot := rfl
@[simp] theorem State.count_ident (s : State) (off k : Nat) : (s.count off k).ident = s.ident := rfl
@[simp] theorem State.count_mem (s : State) (off k : Nat) : (s.count off k).mem = s.mem := rfl
@[simp] theorem State.count_sprue (s : State) (off k : Nat) : (s.count off k).sprue = s.sprue := rfl
@[simp] theorem State.count_riser (s : State) (off k : Nat) : (s.count off k).riser = s.riser := rfl
@[simp] theorem State.count_trail (s : State) (off k : Nat) : (s.count off k).trail = s.trail := rfl
@[simp] theorem State.count_chans (s : State) (off k : Nat) : (s.count off k).chans = s.chans := rfl
@[simp] theorem State.count_accepted (s : State) (off k : Nat) : (s.count off k).accepted = s.accepted := rfl
@[simp] theorem State.count_intake (s : State) (off k : Nat) : (s.count off k).intake = s.intake := rfl
@[simp] theorem State.count_cope (s : State) (off k : Nat) : (s.count off k).cope = s.cope := rfl
@[simp] theorem State.count_drag (s : State) (off k : Nat) : (s.count off k).drag = s.drag := rfl
@[simp] theorem State.count_patterns (s : State) (off k : Nat) : (s.count off k).patterns = s.patterns := rfl
@[simp] theorem State.count_running (s : State) (off k : Nat) : (s.count off k).running = s.running := rfl
@[simp] theorem State.count_run (s : State) (off k : Nat) : (s.count off k).run = s.run := rfl
@[simp] theorem State.count_kept (s : State) (off k : Nat) : (s.count off k).kept = s.kept := rfl
@[simp] theorem State.count_clusters (s : State) (off k : Nat) : (s.count off k).clusters = s.clusters := rfl
@[simp] theorem State.count_power (s : State) (off k : Nat) : (s.count off k).power = s.power := rfl
@[simp] theorem State.count_runner (s : State) (off k : Nat) : (s.count off k).runner = s.runner := rfl
@[simp] theorem State.count_light (s : State) (off k : Nat) : (s.count off k).light = s.light := rfl
@[simp] theorem State.count_assay (s : State) (off k : Nat) : (s.count off k).assay = s.assay := rfl
@[simp] theorem State.count_err (s : State) (off k : Nat) : (s.count off k).err = s.err := rfl
@[simp] theorem State.count_jtag (s : State) (off k : Nat) : (s.count off k).jtag = s.jtag := rfl
@[simp] theorem State.count_mctpOut (s : State) (off k : Nat) : (s.count off k).mctpOut = s.mctpOut := rfl

/-! ### bwCount -/

@[simp] theorem State.bwCount_pending (s : State) (u : Nat) (b : Bool) (k : Nat) : (s.bwCount u b k).pending = s.pending := rfl
@[simp] theorem State.bwCount_free (s : State) (u : Nat) (b : Bool) (k : Nat) : (s.bwCount u b k).free = s.free := rfl
@[simp] theorem State.bwCount_pins (s : State) (u : Nat) (b : Bool) (k : Nat) : (s.bwCount u b k).pins = s.pins := rfl
@[simp] theorem State.bwCount_boot (s : State) (u : Nat) (b : Bool) (k : Nat) : (s.bwCount u b k).boot = s.boot := rfl
@[simp] theorem State.bwCount_ident (s : State) (u : Nat) (b : Bool) (k : Nat) : (s.bwCount u b k).ident = s.ident := rfl
@[simp] theorem State.bwCount_mem (s : State) (u : Nat) (b : Bool) (k : Nat) : (s.bwCount u b k).mem = s.mem := rfl
@[simp] theorem State.bwCount_sprue (s : State) (u : Nat) (b : Bool) (k : Nat) : (s.bwCount u b k).sprue = s.sprue := rfl
@[simp] theorem State.bwCount_riser (s : State) (u : Nat) (b : Bool) (k : Nat) : (s.bwCount u b k).riser = s.riser := rfl
@[simp] theorem State.bwCount_trail (s : State) (u : Nat) (b : Bool) (k : Nat) : (s.bwCount u b k).trail = s.trail := rfl
@[simp] theorem State.bwCount_chans (s : State) (u : Nat) (b : Bool) (k : Nat) : (s.bwCount u b k).chans = s.chans := rfl
@[simp] theorem State.bwCount_accepted (s : State) (u : Nat) (b : Bool) (k : Nat) : (s.bwCount u b k).accepted = s.accepted := rfl
@[simp] theorem State.bwCount_intake (s : State) (u : Nat) (b : Bool) (k : Nat) : (s.bwCount u b k).intake = s.intake := rfl
@[simp] theorem State.bwCount_cope (s : State) (u : Nat) (b : Bool) (k : Nat) : (s.bwCount u b k).cope = s.cope := rfl
@[simp] theorem State.bwCount_drag (s : State) (u : Nat) (b : Bool) (k : Nat) : (s.bwCount u b k).drag = s.drag := rfl
@[simp] theorem State.bwCount_patterns (s : State) (u : Nat) (b : Bool) (k : Nat) : (s.bwCount u b k).patterns = s.patterns := rfl
@[simp] theorem State.bwCount_running (s : State) (u : Nat) (b : Bool) (k : Nat) : (s.bwCount u b k).running = s.running := rfl
@[simp] theorem State.bwCount_run (s : State) (u : Nat) (b : Bool) (k : Nat) : (s.bwCount u b k).run = s.run := rfl
@[simp] theorem State.bwCount_kept (s : State) (u : Nat) (b : Bool) (k : Nat) : (s.bwCount u b k).kept = s.kept := rfl
@[simp] theorem State.bwCount_clusters (s : State) (u : Nat) (b : Bool) (k : Nat) : (s.bwCount u b k).clusters = s.clusters := rfl
@[simp] theorem State.bwCount_power (s : State) (u : Nat) (b : Bool) (k : Nat) : (s.bwCount u b k).power = s.power := rfl
@[simp] theorem State.bwCount_runner (s : State) (u : Nat) (b : Bool) (k : Nat) : (s.bwCount u b k).runner = s.runner := rfl
@[simp] theorem State.bwCount_light (s : State) (u : Nat) (b : Bool) (k : Nat) : (s.bwCount u b k).light = s.light := rfl
@[simp] theorem State.bwCount_assay (s : State) (u : Nat) (b : Bool) (k : Nat) : (s.bwCount u b k).assay = s.assay := rfl
@[simp] theorem State.bwCount_err (s : State) (u : Nat) (b : Bool) (k : Nat) : (s.bwCount u b k).err = s.err := rfl
@[simp] theorem State.bwCount_jtag (s : State) (u : Nat) (b : Bool) (k : Nat) : (s.bwCount u b k).jtag = s.jtag := rfl
@[simp] theorem State.bwCount_mctpOut (s : State) (u : Nat) (b : Bool) (k : Nat) : (s.bwCount u b k).mctpOut = s.mctpOut := rfl

/-! ### rsvdWrite -/

@[simp] theorem State.rsvdWrite_pending (s : State) : s.rsvdWrite.pending = s.pending := rfl
@[simp] theorem State.rsvdWrite_free (s : State) : s.rsvdWrite.free = s.free := rfl
@[simp] theorem State.rsvdWrite_pins (s : State) : s.rsvdWrite.pins = s.pins := rfl
@[simp] theorem State.rsvdWrite_boot (s : State) : s.rsvdWrite.boot = s.boot := rfl
@[simp] theorem State.rsvdWrite_ident (s : State) : s.rsvdWrite.ident = s.ident := rfl
@[simp] theorem State.rsvdWrite_mem (s : State) : s.rsvdWrite.mem = s.mem := rfl
@[simp] theorem State.rsvdWrite_sprue (s : State) : s.rsvdWrite.sprue = s.sprue := rfl
@[simp] theorem State.rsvdWrite_riser (s : State) : s.rsvdWrite.riser = s.riser := rfl
@[simp] theorem State.rsvdWrite_trail (s : State) : s.rsvdWrite.trail = s.trail := rfl
@[simp] theorem State.rsvdWrite_chans (s : State) : s.rsvdWrite.chans = s.chans := rfl
@[simp] theorem State.rsvdWrite_accepted (s : State) : s.rsvdWrite.accepted = s.accepted := rfl
@[simp] theorem State.rsvdWrite_intake (s : State) : s.rsvdWrite.intake = s.intake := rfl
@[simp] theorem State.rsvdWrite_cope (s : State) : s.rsvdWrite.cope = s.cope := rfl
@[simp] theorem State.rsvdWrite_drag (s : State) : s.rsvdWrite.drag = s.drag := rfl
@[simp] theorem State.rsvdWrite_patterns (s : State) : s.rsvdWrite.patterns = s.patterns := rfl
@[simp] theorem State.rsvdWrite_running (s : State) : s.rsvdWrite.running = s.running := rfl
@[simp] theorem State.rsvdWrite_run (s : State) : s.rsvdWrite.run = s.run := rfl
@[simp] theorem State.rsvdWrite_kept (s : State) : s.rsvdWrite.kept = s.kept := rfl
@[simp] theorem State.rsvdWrite_clusters (s : State) : s.rsvdWrite.clusters = s.clusters := rfl
@[simp] theorem State.rsvdWrite_power (s : State) : s.rsvdWrite.power = s.power := rfl
@[simp] theorem State.rsvdWrite_runner (s : State) : s.rsvdWrite.runner = s.runner := rfl
@[simp] theorem State.rsvdWrite_light (s : State) : s.rsvdWrite.light = s.light := rfl
@[simp] theorem State.rsvdWrite_assay (s : State) : s.rsvdWrite.assay = s.assay := rfl
@[simp] theorem State.rsvdWrite_cnt (s : State) : s.rsvdWrite.cnt = s.cnt := rfl
@[simp] theorem State.rsvdWrite_jtag (s : State) : s.rsvdWrite.jtag = s.jtag := rfl
@[simp] theorem State.rsvdWrite_mctpOut (s : State) : s.rsvdWrite.mctpOut = s.mctpOut := rfl

/-! ### addStray -/

@[simp] theorem State.addStray_pending (s : State) : s.addStray.pending = s.pending := rfl
@[simp] theorem State.addStray_free (s : State) : s.addStray.free = s.free := rfl
@[simp] theorem State.addStray_pins (s : State) : s.addStray.pins = s.pins := rfl
@[simp] theorem State.addStray_boot (s : State) : s.addStray.boot = s.boot := rfl
@[simp] theorem State.addStray_ident (s : State) : s.addStray.ident = s.ident := rfl
@[simp] theorem State.addStray_mem (s : State) : s.addStray.mem = s.mem := rfl
@[simp] theorem State.addStray_sprue (s : State) : s.addStray.sprue = s.sprue := rfl
@[simp] theorem State.addStray_riser (s : State) : s.addStray.riser = s.riser := rfl
@[simp] theorem State.addStray_trail (s : State) : s.addStray.trail = s.trail := rfl
@[simp] theorem State.addStray_chans (s : State) : s.addStray.chans = s.chans := rfl
@[simp] theorem State.addStray_accepted (s : State) : s.addStray.accepted = s.accepted := rfl
@[simp] theorem State.addStray_cope (s : State) : s.addStray.cope = s.cope := rfl
@[simp] theorem State.addStray_drag (s : State) : s.addStray.drag = s.drag := rfl
@[simp] theorem State.addStray_patterns (s : State) : s.addStray.patterns = s.patterns := rfl
@[simp] theorem State.addStray_running (s : State) : s.addStray.running = s.running := rfl
@[simp] theorem State.addStray_run (s : State) : s.addStray.run = s.run := rfl
@[simp] theorem State.addStray_kept (s : State) : s.addStray.kept = s.kept := rfl
@[simp] theorem State.addStray_clusters (s : State) : s.addStray.clusters = s.clusters := rfl
@[simp] theorem State.addStray_power (s : State) : s.addStray.power = s.power := rfl
@[simp] theorem State.addStray_runner (s : State) : s.addStray.runner = s.runner := rfl
@[simp] theorem State.addStray_light (s : State) : s.addStray.light = s.light := rfl
@[simp] theorem State.addStray_assay (s : State) : s.addStray.assay = s.assay := rfl
@[simp] theorem State.addStray_err (s : State) : s.addStray.err = s.err := rfl
@[simp] theorem State.addStray_cnt (s : State) : s.addStray.cnt = s.cnt := rfl
@[simp] theorem State.addStray_jtag (s : State) : s.addStray.jtag = s.jtag := rfl
@[simp] theorem State.addStray_mctpOut (s : State) : s.addStray.mctpOut = s.mctpOut := rfl

/-! ### saveHealth -/

@[simp] theorem State.saveHealth_pending (s : State) : s.saveHealth.pending = s.pending := rfl
@[simp] theorem State.saveHealth_free (s : State) : s.saveHealth.free = s.free := rfl
@[simp] theorem State.saveHealth_pins (s : State) : s.saveHealth.pins = s.pins := rfl
@[simp] theorem State.saveHealth_boot (s : State) : s.saveHealth.boot = s.boot := rfl
@[simp] theorem State.saveHealth_ident (s : State) : s.saveHealth.ident = s.ident := rfl
@[simp] theorem State.saveHealth_mem (s : State) : s.saveHealth.mem = s.mem := rfl
@[simp] theorem State.saveHealth_sprue (s : State) : s.saveHealth.sprue = s.sprue := rfl
@[simp] theorem State.saveHealth_chans (s : State) : s.saveHealth.chans = s.chans := rfl
@[simp] theorem State.saveHealth_accepted (s : State) : s.saveHealth.accepted = s.accepted := rfl
@[simp] theorem State.saveHealth_intake (s : State) : s.saveHealth.intake = s.intake := rfl
@[simp] theorem State.saveHealth_cope (s : State) : s.saveHealth.cope = s.cope := rfl
@[simp] theorem State.saveHealth_drag (s : State) : s.saveHealth.drag = s.drag := rfl
@[simp] theorem State.saveHealth_patterns (s : State) : s.saveHealth.patterns = s.patterns := rfl
@[simp] theorem State.saveHealth_running (s : State) : s.saveHealth.running = s.running := rfl
@[simp] theorem State.saveHealth_run (s : State) : s.saveHealth.run = s.run := rfl
@[simp] theorem State.saveHealth_kept (s : State) : s.saveHealth.kept = s.kept := rfl
@[simp] theorem State.saveHealth_clusters (s : State) : s.saveHealth.clusters = s.clusters := rfl
@[simp] theorem State.saveHealth_power (s : State) : s.saveHealth.power = s.power := rfl
@[simp] theorem State.saveHealth_runner (s : State) : s.saveHealth.runner = s.runner := rfl
@[simp] theorem State.saveHealth_light (s : State) : s.saveHealth.light = s.light := rfl
@[simp] theorem State.saveHealth_assay (s : State) : s.saveHealth.assay = s.assay := rfl
@[simp] theorem State.saveHealth_err (s : State) : s.saveHealth.err = s.err := rfl
@[simp] theorem State.saveHealth_cnt (s : State) : s.saveHealth.cnt = s.cnt := rfl
@[simp] theorem State.saveHealth_jtag (s : State) : s.saveHealth.jtag = s.jtag := rfl
@[simp] theorem State.saveHealth_mctpOut (s : State) : s.saveHealth.mctpOut = s.mctpOut := rfl

/-! ### stopClusters -/

@[simp] theorem State.stopClusters_pending (s : State) : s.stopClusters.pending = s.pending := rfl
@[simp] theorem State.stopClusters_free (s : State) : s.stopClusters.free = s.free := rfl
@[simp] theorem State.stopClusters_pins (s : State) : s.stopClusters.pins = s.pins := rfl
@[simp] theorem State.stopClusters_boot (s : State) : s.stopClusters.boot = s.boot := rfl
@[simp] theorem State.stopClusters_ident (s : State) : s.stopClusters.ident = s.ident := rfl
@[simp] theorem State.stopClusters_mem (s : State) : s.stopClusters.mem = s.mem := rfl
@[simp] theorem State.stopClusters_sprue (s : State) : s.stopClusters.sprue = s.sprue := rfl
@[simp] theorem State.stopClusters_riser (s : State) : s.stopClusters.riser = s.riser := rfl
@[simp] theorem State.stopClusters_trail (s : State) : s.stopClusters.trail = s.trail := rfl
@[simp] theorem State.stopClusters_chans (s : State) : s.stopClusters.chans = s.chans := rfl
@[simp] theorem State.stopClusters_accepted (s : State) : s.stopClusters.accepted = s.accepted := rfl
@[simp] theorem State.stopClusters_intake (s : State) : s.stopClusters.intake = s.intake := rfl
@[simp] theorem State.stopClusters_cope (s : State) : s.stopClusters.cope = s.cope := rfl
@[simp] theorem State.stopClusters_drag (s : State) : s.stopClusters.drag = s.drag := rfl
@[simp] theorem State.stopClusters_patterns (s : State) : s.stopClusters.patterns = s.patterns := rfl
@[simp] theorem State.stopClusters_running (s : State) : s.stopClusters.running = s.running := rfl
@[simp] theorem State.stopClusters_run (s : State) : s.stopClusters.run = s.run := rfl
@[simp] theorem State.stopClusters_kept (s : State) : s.stopClusters.kept = s.kept := rfl
@[simp] theorem State.stopClusters_power (s : State) : s.stopClusters.power = s.power := rfl
@[simp] theorem State.stopClusters_runner (s : State) : s.stopClusters.runner = s.runner := rfl
@[simp] theorem State.stopClusters_light (s : State) : s.stopClusters.light = s.light := rfl
@[simp] theorem State.stopClusters_assay (s : State) : s.stopClusters.assay = s.assay := rfl
@[simp] theorem State.stopClusters_err (s : State) : s.stopClusters.err = s.err := rfl
@[simp] theorem State.stopClusters_cnt (s : State) : s.stopClusters.cnt = s.cnt := rfl
@[simp] theorem State.stopClusters_jtag (s : State) : s.stopClusters.jtag = s.jtag := rfl
@[simp] theorem State.stopClusters_mctpOut (s : State) : s.stopClusters.mctpOut = s.mctpOut := rfl

/-! ### updPort -/

@[simp] theorem State.updPort_pending (s : State) (p : HostPort) (f : HostPortState → HostPortState) :
    (s.updPort p f).pending = s.pending := by cases p <;> rfl
@[simp] theorem State.updPort_free (s : State) (p : HostPort) (f : HostPortState → HostPortState) :
    (s.updPort p f).free = s.free := by cases p <;> rfl
@[simp] theorem State.updPort_pins (s : State) (p : HostPort) (f : HostPortState → HostPortState) :
    (s.updPort p f).pins = s.pins := by cases p <;> rfl
@[simp] theorem State.updPort_boot (s : State) (p : HostPort) (f : HostPortState → HostPortState) :
    (s.updPort p f).boot = s.boot := by cases p <;> rfl
@[simp] theorem State.updPort_ident (s : State) (p : HostPort) (f : HostPortState → HostPortState) :
    (s.updPort p f).ident = s.ident := by cases p <;> rfl
@[simp] theorem State.updPort_mem (s : State) (p : HostPort) (f : HostPortState → HostPortState) :
    (s.updPort p f).mem = s.mem := by cases p <;> rfl
@[simp] theorem State.updPort_sprue (s : State) (p : HostPort) (f : HostPortState → HostPortState) :
    (s.updPort p f).sprue = s.sprue := by cases p <;> rfl
@[simp] theorem State.updPort_riser (s : State) (p : HostPort) (f : HostPortState → HostPortState) :
    (s.updPort p f).riser = s.riser := by cases p <;> rfl
@[simp] theorem State.updPort_trail (s : State) (p : HostPort) (f : HostPortState → HostPortState) :
    (s.updPort p f).trail = s.trail := by cases p <;> rfl
@[simp] theorem State.updPort_chans (s : State) (p : HostPort) (f : HostPortState → HostPortState) :
    (s.updPort p f).chans = s.chans := by cases p <;> rfl
@[simp] theorem State.updPort_accepted (s : State) (p : HostPort) (f : HostPortState → HostPortState) :
    (s.updPort p f).accepted = s.accepted := by cases p <;> rfl
@[simp] theorem State.updPort_intake (s : State) (p : HostPort) (f : HostPortState → HostPortState) :
    (s.updPort p f).intake = s.intake := by cases p <;> rfl
@[simp] theorem State.updPort_patterns (s : State) (p : HostPort) (f : HostPortState → HostPortState) :
    (s.updPort p f).patterns = s.patterns := by cases p <;> rfl
@[simp] theorem State.updPort_running (s : State) (p : HostPort) (f : HostPortState → HostPortState) :
    (s.updPort p f).running = s.running := by cases p <;> rfl
@[simp] theorem State.updPort_run (s : State) (p : HostPort) (f : HostPortState → HostPortState) :
    (s.updPort p f).run = s.run := by cases p <;> rfl
@[simp] theorem State.updPort_kept (s : State) (p : HostPort) (f : HostPortState → HostPortState) :
    (s.updPort p f).kept = s.kept := by cases p <;> rfl
@[simp] theorem State.updPort_clusters (s : State) (p : HostPort) (f : HostPortState → HostPortState) :
    (s.updPort p f).clusters = s.clusters := by cases p <;> rfl
@[simp] theorem State.updPort_power (s : State) (p : HostPort) (f : HostPortState → HostPortState) :
    (s.updPort p f).power = s.power := by cases p <;> rfl
@[simp] theorem State.updPort_runner (s : State) (p : HostPort) (f : HostPortState → HostPortState) :
    (s.updPort p f).runner = s.runner := by cases p <;> rfl
@[simp] theorem State.updPort_light (s : State) (p : HostPort) (f : HostPortState → HostPortState) :
    (s.updPort p f).light = s.light := by cases p <;> rfl
@[simp] theorem State.updPort_assay (s : State) (p : HostPort) (f : HostPortState → HostPortState) :
    (s.updPort p f).assay = s.assay := by cases p <;> rfl
@[simp] theorem State.updPort_err (s : State) (p : HostPort) (f : HostPortState → HostPortState) :
    (s.updPort p f).err = s.err := by cases p <;> rfl
@[simp] theorem State.updPort_cnt (s : State) (p : HostPort) (f : HostPortState → HostPortState) :
    (s.updPort p f).cnt = s.cnt := by cases p <;> rfl
@[simp] theorem State.updPort_jtag (s : State) (p : HostPort) (f : HostPortState → HostPortState) :
    (s.updPort p f).jtag = s.jtag := by cases p <;> rfl
@[simp] theorem State.updPort_mctpOut (s : State) (p : HostPort) (f : HostPortState → HostPortState) :
    (s.updPort p f).mctpOut = s.mctpOut := by cases p <;> rfl

/-! ### hostTlp -/

@[simp] theorem State.hostTlp_pending (s : State) (p : HostPort) (sent : Bool) (n : Nat) : (s.hostTlp p sent n).pending = s.pending := rfl
@[simp] theorem State.hostTlp_free (s : State) (p : HostPort) (sent : Bool) (n : Nat) : (s.hostTlp p sent n).free = s.free := rfl
@[simp] theorem State.hostTlp_pins (s : State) (p : HostPort) (sent : Bool) (n : Nat) : (s.hostTlp p sent n).pins = s.pins := rfl
@[simp] theorem State.hostTlp_boot (s : State) (p : HostPort) (sent : Bool) (n : Nat) : (s.hostTlp p sent n).boot = s.boot := rfl
@[simp] theorem State.hostTlp_ident (s : State) (p : HostPort) (sent : Bool) (n : Nat) : (s.hostTlp p sent n).ident = s.ident := rfl
@[simp] theorem State.hostTlp_mem (s : State) (p : HostPort) (sent : Bool) (n : Nat) : (s.hostTlp p sent n).mem = s.mem := rfl
@[simp] theorem State.hostTlp_sprue (s : State) (p : HostPort) (sent : Bool) (n : Nat) : (s.hostTlp p sent n).sprue = s.sprue := rfl
@[simp] theorem State.hostTlp_riser (s : State) (p : HostPort) (sent : Bool) (n : Nat) : (s.hostTlp p sent n).riser = s.riser := rfl
@[simp] theorem State.hostTlp_trail (s : State) (p : HostPort) (sent : Bool) (n : Nat) : (s.hostTlp p sent n).trail = s.trail := rfl
@[simp] theorem State.hostTlp_chans (s : State) (p : HostPort) (sent : Bool) (n : Nat) : (s.hostTlp p sent n).chans = s.chans := rfl
@[simp] theorem State.hostTlp_accepted (s : State) (p : HostPort) (sent : Bool) (n : Nat) :
    (s.hostTlp p sent n).accepted = s.accepted := rfl
@[simp] theorem State.hostTlp_intake (s : State) (p : HostPort) (sent : Bool) (n : Nat) : (s.hostTlp p sent n).intake = s.intake := rfl
@[simp] theorem State.hostTlp_cope (s : State) (p : HostPort) (sent : Bool) (n : Nat) : (s.hostTlp p sent n).cope = s.cope := rfl
@[simp] theorem State.hostTlp_drag (s : State) (p : HostPort) (sent : Bool) (n : Nat) : (s.hostTlp p sent n).drag = s.drag := rfl
@[simp] theorem State.hostTlp_patterns (s : State) (p : HostPort) (sent : Bool) (n : Nat) :
    (s.hostTlp p sent n).patterns = s.patterns := rfl
@[simp] theorem State.hostTlp_running (s : State) (p : HostPort) (sent : Bool) (n : Nat) : (s.hostTlp p sent n).running = s.running := rfl
@[simp] theorem State.hostTlp_run (s : State) (p : HostPort) (sent : Bool) (n : Nat) : (s.hostTlp p sent n).run = s.run := rfl
@[simp] theorem State.hostTlp_kept (s : State) (p : HostPort) (sent : Bool) (n : Nat) : (s.hostTlp p sent n).kept = s.kept := rfl
@[simp] theorem State.hostTlp_clusters (s : State) (p : HostPort) (sent : Bool) (n : Nat) :
    (s.hostTlp p sent n).clusters = s.clusters := rfl
@[simp] theorem State.hostTlp_power (s : State) (p : HostPort) (sent : Bool) (n : Nat) : (s.hostTlp p sent n).power = s.power := rfl
@[simp] theorem State.hostTlp_runner (s : State) (p : HostPort) (sent : Bool) (n : Nat) : (s.hostTlp p sent n).runner = s.runner := rfl
@[simp] theorem State.hostTlp_light (s : State) (p : HostPort) (sent : Bool) (n : Nat) : (s.hostTlp p sent n).light = s.light := rfl
@[simp] theorem State.hostTlp_assay (s : State) (p : HostPort) (sent : Bool) (n : Nat) : (s.hostTlp p sent n).assay = s.assay := rfl
@[simp] theorem State.hostTlp_err (s : State) (p : HostPort) (sent : Bool) (n : Nat) : (s.hostTlp p sent n).err = s.err := rfl
@[simp] theorem State.hostTlp_jtag (s : State) (p : HostPort) (sent : Bool) (n : Nat) : (s.hostTlp p sent n).jtag = s.jtag := rfl
@[simp] theorem State.hostTlp_mctpOut (s : State) (p : HostPort) (sent : Bool) (n : Nat) : (s.hostTlp p sent n).mctpOut = s.mctpOut := rfl

/-! ### anyWrite -/

@[simp] theorem State.anyWrite_pending (s : State) : s.anyWrite.pending = s.pending := rfl
@[simp] theorem State.anyWrite_free (s : State) : s.anyWrite.free = s.free := rfl
@[simp] theorem State.anyWrite_pins (s : State) : s.anyWrite.pins = s.pins := rfl
@[simp] theorem State.anyWrite_boot (s : State) : s.anyWrite.boot = s.boot := rfl
@[simp] theorem State.anyWrite_ident (s : State) : s.anyWrite.ident = s.ident := rfl
@[simp] theorem State.anyWrite_mem (s : State) : s.anyWrite.mem = s.mem := rfl
@[simp] theorem State.anyWrite_sprue (s : State) : s.anyWrite.sprue = s.sprue := rfl
@[simp] theorem State.anyWrite_riser (s : State) : s.anyWrite.riser = s.riser := rfl
@[simp] theorem State.anyWrite_trail (s : State) : s.anyWrite.trail = s.trail := rfl
@[simp] theorem State.anyWrite_chans (s : State) : s.anyWrite.chans = s.chans := rfl
@[simp] theorem State.anyWrite_accepted (s : State) : s.anyWrite.accepted = s.accepted := rfl
@[simp] theorem State.anyWrite_intake (s : State) : s.anyWrite.intake = s.intake := rfl
@[simp] theorem State.anyWrite_cope (s : State) : s.anyWrite.cope = s.cope := rfl
@[simp] theorem State.anyWrite_drag (s : State) : s.anyWrite.drag = s.drag := rfl
@[simp] theorem State.anyWrite_patterns (s : State) : s.anyWrite.patterns = s.patterns := rfl
@[simp] theorem State.anyWrite_running (s : State) : s.anyWrite.running = s.running := rfl
@[simp] theorem State.anyWrite_run (s : State) : s.anyWrite.run = s.run := rfl
@[simp] theorem State.anyWrite_kept (s : State) : s.anyWrite.kept = s.kept := rfl
@[simp] theorem State.anyWrite_clusters (s : State) : s.anyWrite.clusters = s.clusters := rfl
@[simp] theorem State.anyWrite_power (s : State) : s.anyWrite.power = s.power := rfl
@[simp] theorem State.anyWrite_runner (s : State) : s.anyWrite.runner = s.runner := rfl
@[simp] theorem State.anyWrite_light (s : State) : s.anyWrite.light = s.light := rfl
@[simp] theorem State.anyWrite_assay (s : State) : s.anyWrite.assay = s.assay := rfl
@[simp] theorem State.anyWrite_err (s : State) : s.anyWrite.err = s.err := rfl
@[simp] theorem State.anyWrite_jtag (s : State) : s.anyWrite.jtag = s.jtag := rfl
@[simp] theorem State.anyWrite_mctpOut (s : State) : s.anyWrite.mctpOut = s.mctpOut := rfl

/-! ### staleKept -/

@[simp] theorem State.staleKept_pending (s : State) : s.staleKept.pending = s.pending := rfl
@[simp] theorem State.staleKept_free (s : State) : s.staleKept.free = s.free := rfl
@[simp] theorem State.staleKept_pins (s : State) : s.staleKept.pins = s.pins := rfl
@[simp] theorem State.staleKept_boot (s : State) : s.staleKept.boot = s.boot := rfl
@[simp] theorem State.staleKept_ident (s : State) : s.staleKept.ident = s.ident := rfl
@[simp] theorem State.staleKept_mem (s : State) : s.staleKept.mem = s.mem := rfl
@[simp] theorem State.staleKept_sprue (s : State) : s.staleKept.sprue = s.sprue := rfl
@[simp] theorem State.staleKept_riser (s : State) : s.staleKept.riser = s.riser := rfl
@[simp] theorem State.staleKept_trail (s : State) : s.staleKept.trail = s.trail := rfl
@[simp] theorem State.staleKept_chans (s : State) : s.staleKept.chans = s.chans := rfl
@[simp] theorem State.staleKept_accepted (s : State) : s.staleKept.accepted = s.accepted := rfl
@[simp] theorem State.staleKept_intake (s : State) : s.staleKept.intake = s.intake := rfl
@[simp] theorem State.staleKept_cope (s : State) : s.staleKept.cope = s.cope := rfl
@[simp] theorem State.staleKept_drag (s : State) : s.staleKept.drag = s.drag := rfl
@[simp] theorem State.staleKept_patterns (s : State) : s.staleKept.patterns = s.patterns := rfl
@[simp] theorem State.staleKept_running (s : State) : s.staleKept.running = s.running := rfl
@[simp] theorem State.staleKept_run (s : State) : s.staleKept.run = s.run := rfl
@[simp] theorem State.staleKept_clusters (s : State) : s.staleKept.clusters = s.clusters := rfl
@[simp] theorem State.staleKept_power (s : State) : s.staleKept.power = s.power := rfl
@[simp] theorem State.staleKept_runner (s : State) : s.staleKept.runner = s.runner := rfl
@[simp] theorem State.staleKept_light (s : State) : s.staleKept.light = s.light := rfl
@[simp] theorem State.staleKept_assay (s : State) : s.staleKept.assay = s.assay := rfl
@[simp] theorem State.staleKept_err (s : State) : s.staleKept.err = s.err := rfl
@[simp] theorem State.staleKept_cnt (s : State) : s.staleKept.cnt = s.cnt := rfl
@[simp] theorem State.staleKept_jtag (s : State) : s.staleKept.jtag = s.jtag := rfl
@[simp] theorem State.staleKept_mctpOut (s : State) : s.staleKept.mctpOut = s.mctpOut := rfl

/-! ### noteChan -/

@[simp] theorem State.noteChan_pending (s : State) (c : Nat) (f : ChanRec → ChanRec) : (s.noteChan c f).pending = s.pending := rfl
@[simp] theorem State.noteChan_free (s : State) (c : Nat) (f : ChanRec → ChanRec) : (s.noteChan c f).free = s.free := rfl
@[simp] theorem State.noteChan_pins (s : State) (c : Nat) (f : ChanRec → ChanRec) : (s.noteChan c f).pins = s.pins := rfl
@[simp] theorem State.noteChan_boot (s : State) (c : Nat) (f : ChanRec → ChanRec) : (s.noteChan c f).boot = s.boot := rfl
@[simp] theorem State.noteChan_ident (s : State) (c : Nat) (f : ChanRec → ChanRec) : (s.noteChan c f).ident = s.ident := rfl
@[simp] theorem State.noteChan_mem (s : State) (c : Nat) (f : ChanRec → ChanRec) : (s.noteChan c f).mem = s.mem := rfl
@[simp] theorem State.noteChan_sprue (s : State) (c : Nat) (f : ChanRec → ChanRec) : (s.noteChan c f).sprue = s.sprue := rfl
@[simp] theorem State.noteChan_trail (s : State) (c : Nat) (f : ChanRec → ChanRec) : (s.noteChan c f).trail = s.trail := rfl
@[simp] theorem State.noteChan_chans (s : State) (c : Nat) (f : ChanRec → ChanRec) : (s.noteChan c f).chans = s.chans := rfl
@[simp] theorem State.noteChan_accepted (s : State) (c : Nat) (f : ChanRec → ChanRec) : (s.noteChan c f).accepted = s.accepted := rfl
@[simp] theorem State.noteChan_intake (s : State) (c : Nat) (f : ChanRec → ChanRec) : (s.noteChan c f).intake = s.intake := rfl
@[simp] theorem State.noteChan_cope (s : State) (c : Nat) (f : ChanRec → ChanRec) : (s.noteChan c f).cope = s.cope := rfl
@[simp] theorem State.noteChan_drag (s : State) (c : Nat) (f : ChanRec → ChanRec) : (s.noteChan c f).drag = s.drag := rfl
@[simp] theorem State.noteChan_patterns (s : State) (c : Nat) (f : ChanRec → ChanRec) : (s.noteChan c f).patterns = s.patterns := rfl
@[simp] theorem State.noteChan_running (s : State) (c : Nat) (f : ChanRec → ChanRec) : (s.noteChan c f).running = s.running := rfl
@[simp] theorem State.noteChan_run (s : State) (c : Nat) (f : ChanRec → ChanRec) : (s.noteChan c f).run = s.run := rfl
@[simp] theorem State.noteChan_kept (s : State) (c : Nat) (f : ChanRec → ChanRec) : (s.noteChan c f).kept = s.kept := rfl
@[simp] theorem State.noteChan_clusters (s : State) (c : Nat) (f : ChanRec → ChanRec) : (s.noteChan c f).clusters = s.clusters := rfl
@[simp] theorem State.noteChan_power (s : State) (c : Nat) (f : ChanRec → ChanRec) : (s.noteChan c f).power = s.power := rfl
@[simp] theorem State.noteChan_runner (s : State) (c : Nat) (f : ChanRec → ChanRec) : (s.noteChan c f).runner = s.runner := rfl
@[simp] theorem State.noteChan_light (s : State) (c : Nat) (f : ChanRec → ChanRec) : (s.noteChan c f).light = s.light := rfl
@[simp] theorem State.noteChan_assay (s : State) (c : Nat) (f : ChanRec → ChanRec) : (s.noteChan c f).assay = s.assay := rfl
@[simp] theorem State.noteChan_err (s : State) (c : Nat) (f : ChanRec → ChanRec) : (s.noteChan c f).err = s.err := rfl
@[simp] theorem State.noteChan_cnt (s : State) (c : Nat) (f : ChanRec → ChanRec) : (s.noteChan c f).cnt = s.cnt := rfl
@[simp] theorem State.noteChan_jtag (s : State) (c : Nat) (f : ChanRec → ChanRec) : (s.noteChan c f).jtag = s.jtag := rfl
@[simp] theorem State.noteChan_mctpOut (s : State) (c : Nat) (f : ChanRec → ChanRec) : (s.noteChan c f).mctpOut = s.mctpOut := rfl

/-! ### onFabric -/

@[simp] theorem State.onFabric_pending (s : State) (k n : Nat) : (s.onFabric k n).pending = s.pending := rfl
@[simp] theorem State.onFabric_free (s : State) (k n : Nat) : (s.onFabric k n).free = s.free := rfl
@[simp] theorem State.onFabric_pins (s : State) (k n : Nat) : (s.onFabric k n).pins = s.pins := rfl
@[simp] theorem State.onFabric_boot (s : State) (k n : Nat) : (s.onFabric k n).boot = s.boot := rfl
@[simp] theorem State.onFabric_ident (s : State) (k n : Nat) : (s.onFabric k n).ident = s.ident := rfl
@[simp] theorem State.onFabric_mem (s : State) (k n : Nat) : (s.onFabric k n).mem = s.mem := rfl
@[simp] theorem State.onFabric_sprue (s : State) (k n : Nat) : (s.onFabric k n).sprue = s.sprue := rfl
@[simp] theorem State.onFabric_riser (s : State) (k n : Nat) : (s.onFabric k n).riser = s.riser := rfl
@[simp] theorem State.onFabric_trail (s : State) (k n : Nat) : (s.onFabric k n).trail = s.trail := rfl
@[simp] theorem State.onFabric_chans (s : State) (k n : Nat) : (s.onFabric k n).chans = s.chans := rfl
@[simp] theorem State.onFabric_accepted (s : State) (k n : Nat) : (s.onFabric k n).accepted = s.accepted := rfl
@[simp] theorem State.onFabric_intake (s : State) (k n : Nat) : (s.onFabric k n).intake = s.intake := rfl
@[simp] theorem State.onFabric_cope (s : State) (k n : Nat) : (s.onFabric k n).cope = s.cope := rfl
@[simp] theorem State.onFabric_drag (s : State) (k n : Nat) : (s.onFabric k n).drag = s.drag := rfl
@[simp] theorem State.onFabric_patterns (s : State) (k n : Nat) : (s.onFabric k n).patterns = s.patterns := rfl
@[simp] theorem State.onFabric_running (s : State) (k n : Nat) : (s.onFabric k n).running = s.running := rfl
@[simp] theorem State.onFabric_run (s : State) (k n : Nat) : (s.onFabric k n).run = s.run := rfl
@[simp] theorem State.onFabric_kept (s : State) (k n : Nat) : (s.onFabric k n).kept = s.kept := rfl
@[simp] theorem State.onFabric_clusters (s : State) (k n : Nat) : (s.onFabric k n).clusters = s.clusters := rfl
@[simp] theorem State.onFabric_runner (s : State) (k n : Nat) : (s.onFabric k n).runner = s.runner := rfl
@[simp] theorem State.onFabric_light (s : State) (k n : Nat) : (s.onFabric k n).light = s.light := rfl
@[simp] theorem State.onFabric_assay (s : State) (k n : Nat) : (s.onFabric k n).assay = s.assay := rfl
@[simp] theorem State.onFabric_err (s : State) (k n : Nat) : (s.onFabric k n).err = s.err := rfl
@[simp] theorem State.onFabric_cnt (s : State) (k n : Nat) : (s.onFabric k n).cnt = s.cnt := rfl
@[simp] theorem State.onFabric_jtag (s : State) (k n : Nat) : (s.onFabric k n).jtag = s.jtag := rfl
@[simp] theorem State.onFabric_mctpOut (s : State) (k n : Nat) : (s.onFabric k n).mctpOut = s.mctpOut := rfl

/-! ### updSampler -/

@[simp] theorem State.updSampler_pending (s : State) (g : Nat) (f : Sampler → Sampler) : (s.updSampler g f).pending = s.pending := rfl
@[simp] theorem State.updSampler_free (s : State) (g : Nat) (f : Sampler → Sampler) : (s.updSampler g f).free = s.free := rfl
@[simp] theorem State.updSampler_pins (s : State) (g : Nat) (f : Sampler → Sampler) : (s.updSampler g f).pins = s.pins := rfl
@[simp] theorem State.updSampler_boot (s : State) (g : Nat) (f : Sampler → Sampler) : (s.updSampler g f).boot = s.boot := rfl
@[simp] theorem State.updSampler_ident (s : State) (g : Nat) (f : Sampler → Sampler) : (s.updSampler g f).ident = s.ident := rfl
@[simp] theorem State.updSampler_mem (s : State) (g : Nat) (f : Sampler → Sampler) : (s.updSampler g f).mem = s.mem := rfl
@[simp] theorem State.updSampler_sprue (s : State) (g : Nat) (f : Sampler → Sampler) : (s.updSampler g f).sprue = s.sprue := rfl
@[simp] theorem State.updSampler_riser (s : State) (g : Nat) (f : Sampler → Sampler) : (s.updSampler g f).riser = s.riser := rfl
@[simp] theorem State.updSampler_trail (s : State) (g : Nat) (f : Sampler → Sampler) : (s.updSampler g f).trail = s.trail := rfl
@[simp] theorem State.updSampler_chans (s : State) (g : Nat) (f : Sampler → Sampler) : (s.updSampler g f).chans = s.chans := rfl
@[simp] theorem State.updSampler_accepted (s : State) (g : Nat) (f : Sampler → Sampler) : (s.updSampler g f).accepted = s.accepted := rfl
@[simp] theorem State.updSampler_intake (s : State) (g : Nat) (f : Sampler → Sampler) : (s.updSampler g f).intake = s.intake := rfl
@[simp] theorem State.updSampler_cope (s : State) (g : Nat) (f : Sampler → Sampler) : (s.updSampler g f).cope = s.cope := rfl
@[simp] theorem State.updSampler_drag (s : State) (g : Nat) (f : Sampler → Sampler) : (s.updSampler g f).drag = s.drag := rfl
@[simp] theorem State.updSampler_patterns (s : State) (g : Nat) (f : Sampler → Sampler) : (s.updSampler g f).patterns = s.patterns := rfl
@[simp] theorem State.updSampler_running (s : State) (g : Nat) (f : Sampler → Sampler) : (s.updSampler g f).running = s.running := rfl
@[simp] theorem State.updSampler_run (s : State) (g : Nat) (f : Sampler → Sampler) : (s.updSampler g f).run = s.run := rfl
@[simp] theorem State.updSampler_kept (s : State) (g : Nat) (f : Sampler → Sampler) : (s.updSampler g f).kept = s.kept := rfl
@[simp] theorem State.updSampler_clusters (s : State) (g : Nat) (f : Sampler → Sampler) : (s.updSampler g f).clusters = s.clusters := rfl
@[simp] theorem State.updSampler_power (s : State) (g : Nat) (f : Sampler → Sampler) : (s.updSampler g f).power = s.power := rfl
@[simp] theorem State.updSampler_runner (s : State) (g : Nat) (f : Sampler → Sampler) : (s.updSampler g f).runner = s.runner := rfl
@[simp] theorem State.updSampler_light (s : State) (g : Nat) (f : Sampler → Sampler) : (s.updSampler g f).light = s.light := rfl
@[simp] theorem State.updSampler_assay (s : State) (g : Nat) (f : Sampler → Sampler) : (s.updSampler g f).assay = s.assay := rfl
@[simp] theorem State.updSampler_err (s : State) (g : Nat) (f : Sampler → Sampler) : (s.updSampler g f).err = s.err := rfl
@[simp] theorem State.updSampler_jtag (s : State) (g : Nat) (f : Sampler → Sampler) : (s.updSampler g f).jtag = s.jtag := rfl
@[simp] theorem State.updSampler_mctpOut (s : State) (g : Nat) (f : Sampler → Sampler) : (s.updSampler g f).mctpOut = s.mctpOut := rfl

/-! ### updSeq -/

@[simp] theorem State.updSeq_pending (s : State) (k : Nat) (f : Sequencer → Sequencer) : (s.updSeq k f).pending = s.pending := rfl
@[simp] theorem State.updSeq_free (s : State) (k : Nat) (f : Sequencer → Sequencer) : (s.updSeq k f).free = s.free := rfl
@[simp] theorem State.updSeq_pins (s : State) (k : Nat) (f : Sequencer → Sequencer) : (s.updSeq k f).pins = s.pins := rfl
@[simp] theorem State.updSeq_boot (s : State) (k : Nat) (f : Sequencer → Sequencer) : (s.updSeq k f).boot = s.boot := rfl
@[simp] theorem State.updSeq_ident (s : State) (k : Nat) (f : Sequencer → Sequencer) : (s.updSeq k f).ident = s.ident := rfl
@[simp] theorem State.updSeq_mem (s : State) (k : Nat) (f : Sequencer → Sequencer) : (s.updSeq k f).mem = s.mem := rfl
@[simp] theorem State.updSeq_sprue (s : State) (k : Nat) (f : Sequencer → Sequencer) : (s.updSeq k f).sprue = s.sprue := rfl
@[simp] theorem State.updSeq_riser (s : State) (k : Nat) (f : Sequencer → Sequencer) : (s.updSeq k f).riser = s.riser := rfl
@[simp] theorem State.updSeq_trail (s : State) (k : Nat) (f : Sequencer → Sequencer) : (s.updSeq k f).trail = s.trail := rfl
@[simp] theorem State.updSeq_chans (s : State) (k : Nat) (f : Sequencer → Sequencer) : (s.updSeq k f).chans = s.chans := rfl
@[simp] theorem State.updSeq_accepted (s : State) (k : Nat) (f : Sequencer → Sequencer) : (s.updSeq k f).accepted = s.accepted := rfl
@[simp] theorem State.updSeq_intake (s : State) (k : Nat) (f : Sequencer → Sequencer) : (s.updSeq k f).intake = s.intake := rfl
@[simp] theorem State.updSeq_cope (s : State) (k : Nat) (f : Sequencer → Sequencer) : (s.updSeq k f).cope = s.cope := rfl
@[simp] theorem State.updSeq_drag (s : State) (k : Nat) (f : Sequencer → Sequencer) : (s.updSeq k f).drag = s.drag := rfl
@[simp] theorem State.updSeq_patterns (s : State) (k : Nat) (f : Sequencer → Sequencer) : (s.updSeq k f).patterns = s.patterns := rfl
@[simp] theorem State.updSeq_running (s : State) (k : Nat) (f : Sequencer → Sequencer) : (s.updSeq k f).running = s.running := rfl
@[simp] theorem State.updSeq_run (s : State) (k : Nat) (f : Sequencer → Sequencer) : (s.updSeq k f).run = s.run := rfl
@[simp] theorem State.updSeq_kept (s : State) (k : Nat) (f : Sequencer → Sequencer) : (s.updSeq k f).kept = s.kept := rfl
@[simp] theorem State.updSeq_clusters (s : State) (k : Nat) (f : Sequencer → Sequencer) : (s.updSeq k f).clusters = s.clusters := rfl
@[simp] theorem State.updSeq_runner (s : State) (k : Nat) (f : Sequencer → Sequencer) : (s.updSeq k f).runner = s.runner := rfl
@[simp] theorem State.updSeq_light (s : State) (k : Nat) (f : Sequencer → Sequencer) : (s.updSeq k f).light = s.light := rfl
@[simp] theorem State.updSeq_assay (s : State) (k : Nat) (f : Sequencer → Sequencer) : (s.updSeq k f).assay = s.assay := rfl
@[simp] theorem State.updSeq_err (s : State) (k : Nat) (f : Sequencer → Sequencer) : (s.updSeq k f).err = s.err := rfl
@[simp] theorem State.updSeq_cnt (s : State) (k : Nat) (f : Sequencer → Sequencer) : (s.updSeq k f).cnt = s.cnt := rfl
@[simp] theorem State.updSeq_jtag (s : State) (k : Nat) (f : Sequencer → Sequencer) : (s.updSeq k f).jtag = s.jtag := rfl
@[simp] theorem State.updSeq_mctpOut (s : State) (k : Nat) (f : Sequencer → Sequencer) : (s.updSeq k f).mctpOut = s.mctpOut := rfl

/-! ### updRport -/

@[simp] theorem State.updRport_pending (s : State) (p : Nat) (f : Port → Port) : (s.updRport p f).pending = s.pending := rfl
@[simp] theorem State.updRport_free (s : State) (p : Nat) (f : Port → Port) : (s.updRport p f).free = s.free := rfl
@[simp] theorem State.updRport_pins (s : State) (p : Nat) (f : Port → Port) : (s.updRport p f).pins = s.pins := rfl
@[simp] theorem State.updRport_boot (s : State) (p : Nat) (f : Port → Port) : (s.updRport p f).boot = s.boot := rfl
@[simp] theorem State.updRport_ident (s : State) (p : Nat) (f : Port → Port) : (s.updRport p f).ident = s.ident := rfl
@[simp] theorem State.updRport_mem (s : State) (p : Nat) (f : Port → Port) : (s.updRport p f).mem = s.mem := rfl
@[simp] theorem State.updRport_sprue (s : State) (p : Nat) (f : Port → Port) : (s.updRport p f).sprue = s.sprue := rfl
@[simp] theorem State.updRport_riser (s : State) (p : Nat) (f : Port → Port) : (s.updRport p f).riser = s.riser := rfl
@[simp] theorem State.updRport_trail (s : State) (p : Nat) (f : Port → Port) : (s.updRport p f).trail = s.trail := rfl
@[simp] theorem State.updRport_chans (s : State) (p : Nat) (f : Port → Port) : (s.updRport p f).chans = s.chans := rfl
@[simp] theorem State.updRport_accepted (s : State) (p : Nat) (f : Port → Port) : (s.updRport p f).accepted = s.accepted := rfl
@[simp] theorem State.updRport_intake (s : State) (p : Nat) (f : Port → Port) : (s.updRport p f).intake = s.intake := rfl
@[simp] theorem State.updRport_cope (s : State) (p : Nat) (f : Port → Port) : (s.updRport p f).cope = s.cope := rfl
@[simp] theorem State.updRport_drag (s : State) (p : Nat) (f : Port → Port) : (s.updRport p f).drag = s.drag := rfl
@[simp] theorem State.updRport_patterns (s : State) (p : Nat) (f : Port → Port) : (s.updRport p f).patterns = s.patterns := rfl
@[simp] theorem State.updRport_running (s : State) (p : Nat) (f : Port → Port) : (s.updRport p f).running = s.running := rfl
@[simp] theorem State.updRport_run (s : State) (p : Nat) (f : Port → Port) : (s.updRport p f).run = s.run := rfl
@[simp] theorem State.updRport_kept (s : State) (p : Nat) (f : Port → Port) : (s.updRport p f).kept = s.kept := rfl
@[simp] theorem State.updRport_clusters (s : State) (p : Nat) (f : Port → Port) : (s.updRport p f).clusters = s.clusters := rfl
@[simp] theorem State.updRport_power (s : State) (p : Nat) (f : Port → Port) : (s.updRport p f).power = s.power := rfl
@[simp] theorem State.updRport_light (s : State) (p : Nat) (f : Port → Port) : (s.updRport p f).light = s.light := rfl
@[simp] theorem State.updRport_assay (s : State) (p : Nat) (f : Port → Port) : (s.updRport p f).assay = s.assay := rfl
@[simp] theorem State.updRport_err (s : State) (p : Nat) (f : Port → Port) : (s.updRport p f).err = s.err := rfl
@[simp] theorem State.updRport_cnt (s : State) (p : Nat) (f : Port → Port) : (s.updRport p f).cnt = s.cnt := rfl
@[simp] theorem State.updRport_jtag (s : State) (p : Nat) (f : Port → Port) : (s.updRport p f).jtag = s.jtag := rfl
@[simp] theorem State.updRport_mctpOut (s : State) (p : Nat) (f : Port → Port) : (s.updRport p f).mctpOut = s.mctpOut := rfl

/-! ### updLight -/

@[simp] theorem State.updLight_pending (s : State) (p : Nat) (f : PortLight → PortLight) : (s.updLight p f).pending = s.pending := rfl
@[simp] theorem State.updLight_free (s : State) (p : Nat) (f : PortLight → PortLight) : (s.updLight p f).free = s.free := rfl
@[simp] theorem State.updLight_pins (s : State) (p : Nat) (f : PortLight → PortLight) : (s.updLight p f).pins = s.pins := rfl
@[simp] theorem State.updLight_boot (s : State) (p : Nat) (f : PortLight → PortLight) : (s.updLight p f).boot = s.boot := rfl
@[simp] theorem State.updLight_ident (s : State) (p : Nat) (f : PortLight → PortLight) : (s.updLight p f).ident = s.ident := rfl
@[simp] theorem State.updLight_mem (s : State) (p : Nat) (f : PortLight → PortLight) : (s.updLight p f).mem = s.mem := rfl
@[simp] theorem State.updLight_sprue (s : State) (p : Nat) (f : PortLight → PortLight) : (s.updLight p f).sprue = s.sprue := rfl
@[simp] theorem State.updLight_riser (s : State) (p : Nat) (f : PortLight → PortLight) : (s.updLight p f).riser = s.riser := rfl
@[simp] theorem State.updLight_trail (s : State) (p : Nat) (f : PortLight → PortLight) : (s.updLight p f).trail = s.trail := rfl
@[simp] theorem State.updLight_chans (s : State) (p : Nat) (f : PortLight → PortLight) : (s.updLight p f).chans = s.chans := rfl
@[simp] theorem State.updLight_accepted (s : State) (p : Nat) (f : PortLight → PortLight) : (s.updLight p f).accepted = s.accepted := rfl
@[simp] theorem State.updLight_intake (s : State) (p : Nat) (f : PortLight → PortLight) : (s.updLight p f).intake = s.intake := rfl
@[simp] theorem State.updLight_cope (s : State) (p : Nat) (f : PortLight → PortLight) : (s.updLight p f).cope = s.cope := rfl
@[simp] theorem State.updLight_drag (s : State) (p : Nat) (f : PortLight → PortLight) : (s.updLight p f).drag = s.drag := rfl
@[simp] theorem State.updLight_patterns (s : State) (p : Nat) (f : PortLight → PortLight) : (s.updLight p f).patterns = s.patterns := rfl
@[simp] theorem State.updLight_running (s : State) (p : Nat) (f : PortLight → PortLight) : (s.updLight p f).running = s.running := rfl
@[simp] theorem State.updLight_run (s : State) (p : Nat) (f : PortLight → PortLight) : (s.updLight p f).run = s.run := rfl
@[simp] theorem State.updLight_kept (s : State) (p : Nat) (f : PortLight → PortLight) : (s.updLight p f).kept = s.kept := rfl
@[simp] theorem State.updLight_clusters (s : State) (p : Nat) (f : PortLight → PortLight) : (s.updLight p f).clusters = s.clusters := rfl
@[simp] theorem State.updLight_power (s : State) (p : Nat) (f : PortLight → PortLight) : (s.updLight p f).power = s.power := rfl
@[simp] theorem State.updLight_runner (s : State) (p : Nat) (f : PortLight → PortLight) : (s.updLight p f).runner = s.runner := rfl
@[simp] theorem State.updLight_assay (s : State) (p : Nat) (f : PortLight → PortLight) : (s.updLight p f).assay = s.assay := rfl
@[simp] theorem State.updLight_err (s : State) (p : Nat) (f : PortLight → PortLight) : (s.updLight p f).err = s.err := rfl
@[simp] theorem State.updLight_cnt (s : State) (p : Nat) (f : PortLight → PortLight) : (s.updLight p f).cnt = s.cnt := rfl
@[simp] theorem State.updLight_jtag (s : State) (p : Nat) (f : PortLight → PortLight) : (s.updLight p f).jtag = s.jtag := rfl
@[simp] theorem State.updLight_mctpOut (s : State) (p : Nat) (f : PortLight → PortLight) : (s.updLight p f).mctpOut = s.mctpOut := rfl

/-! ### Reading after writing -/

/-- A logical cluster after one of them is changed. -/
theorem State.cl_updCl (s : State) (g h : Nat) (f : Cluster → Cluster) :
    (s.updCl g f).cl h = if g = h then f (s.cl g) else s.cl h := Tab.get_upd g f h

@[simp] theorem State.cl_updCl_same (s : State) (g : Nat) (f : Cluster → Cluster) : (s.updCl g f).cl g = f (s.cl g) := by
  simp [State.cl_updCl]

/-- The volatile side of a channel after one of them is changed. -/
theorem State.vchan_updVchan (s : State) (c d : Nat) (f : Chan → Chan) :
    (s.updVchan c f).vchan d = if c = d then f (s.vchan c) else s.vchan d := Tab.get_upd c f d

@[simp] theorem State.vchan_updVchan_same (s : State) (c : Nat) (f : Chan → Chan) :
    (s.updVchan c f).vchan c = f (s.vchan c) := by simp [State.vchan_updVchan]

/-- The running pour of a channel after one is set. -/
theorem State.runningOf_setRunning (s : State) (c d : Nat) (r : Option Running) :
    (s.setRunning c r).runningOf d = if c = d then r else s.runningOf d := Tab.get_put c r d

@[simp] theorem State.runningOf_setRunning_same (s : State) (c : Nat) (r : Option Running) :
    (s.setRunning c r).runningOf c = r := by simp [State.runningOf_setRunning]

/-- A counter of the CNT block after one has moved on. -/
theorem State.ctr_count (s : State) (off k o : Nat) :
    Tab.get Ctr48.zero (s.count off k).cnt.regs.ctr o
      = if off = o then (Tab.get Ctr48.zero s.cnt.regs.ctr off).add k else Tab.get Ctr48.zero s.cnt.regs.ctr o :=
  Tab.get_upd (d := Ctr48.zero) (t := s.cnt.regs.ctr) off (fun c => c.add k) o

/-! ### The ledger: what is written to it is what it reads as -/

/-- While a copy is in service, the copy that reads come from is in service. -/
theorem Riser.current_inService {r : Riser} {b : Bool} (h : r.copy0.state = .inService ∨ r.copy1.state = .inService) :
    (r.current b).state = .inService := by
  unfold Riser.current
  split
  · next h0 => exact h0.1
  · split
    · assumption
    · rcases h with h | h
      · exact h
      · contradiction

/-- A line written is the line read, while a copy is in service or all is in the working state (R240, R255, R256). -/
theorem State.ledger_updLedger (s : State) (l : RLine) (f : Ledger → Ledger)
    (h : s.riser.copy0.state = .inService ∨ s.riser.copy1.state = .inService) :
    (s.updLedger l f).ledger = f s.ledger := by
  have w : ∀ c : RiserCopy, (c.write l f).state = c.state ∧ (c.write l f).die = c.die := by
    intro c; unfold RiserCopy.write; split <;> simp
  cases hl : s.riser.lost
  · have e : ((s.updLedger l f).riser.current s.sprue.activeB1) = (s.riser.current s.sprue.activeB1).write l f := by
      simp only [Riser.current, State.updLedger, Riser.put, hl, Bool.false_eq_true, if_false, (w _).1, (w _).2]
      split
      · rfl
      · split <;> rfl
    have hl' : (s.updLedger l f).riser.lost = false := by simp [State.updLedger, Riser.put, hl]
    have hs := Riser.current_inService (b := s.sprue.activeB1) h
    unfold State.ledger
    rw [State.updLedger_sprue, e, hl, hl']
    simp [RiserCopy.write, hs]
  · simp [State.ledger, State.updLedger, Riser.put, hl]

/-- An entry after one is changed. -/
theorem State.entry_updEntry (s : State) (i j : Nat) (f : Entry → Entry)
    (h : s.riser.copy0.state = .inService ∨ s.riser.copy1.state = .inService) :
    (s.updEntry i f).entry j = if i = j then f (s.entry i) else s.entry j := by
  simp only [State.entry, State.updEntry, State.ledger_updLedger s _ _ h]
  exact Tab.get_upd i f j

/-- A channel's record after one is changed. -/
theorem State.chan_updChan (s : State) (c d : Nat) (f : ChanRec → ChanRec)
    (h : s.riser.copy0.state = .inService ∨ s.riser.copy1.state = .inService) :
    (s.updChan c f).chan d = if c = d then f (s.chan c) else s.chan d := by
  simp only [State.chan, State.updChan, State.ledger_updLedger s _ _ h]
  exact Tab.get_upd c f d

/-- Changing an entry leaves the channel records. -/
theorem State.chan_updEntry (s : State) (i d : Nat) (f : Entry → Entry)
    (h : s.riser.copy0.state = .inService ∨ s.riser.copy1.state = .inService) :
    (s.updEntry i f).chan d = s.chan d := by
  simp only [State.chan, State.updEntry, State.ledger_updLedger s _ _ h]

/-- Changing a channel record leaves the entries. -/
theorem State.entry_updChan (s : State) (c j : Nat) (f : ChanRec → ChanRec)
    (h : s.riser.copy0.state = .inService ∨ s.riser.copy1.state = .inService) :
    (s.updChan c f).entry j = s.entry j := by
  simp only [State.entry, State.updChan, State.ledger_updLedger s _ _ h]

end Sys2Proof.Machine
end

