-- ==== Sys2Proof/Machine/Lines.lean ====
section
/-! DEFINITION. The 64 bytes of the lines of a Riser copy (Tables 13-2 and 13-4, R239, R354, R358). The model holds what a line says, and
which lines of a copy are not valid; this is how a valid one stands in MRAM. -/

namespace Sys2Proof.Machine

/-- A line from its low 480 bits: the CRC-32C of bytes 0 to 59 follows them (R239). -/
def crcLine (v : Nat) : List Byte := leBytes 60 v ++ leBytes 4 (crc32c (leBytes 60 v))

/-- 64 bytes are a valid line: their CRC field is that of bytes 0 to 59 (R239). -/
def lineValid (bs : List Byte) : Bool := bs.length = 64 && leNat (bs.drop 60) == crc32c (bs.take 60)

/-- STATE of an entry (Table 13-3). -/
def EntryState.code : EntryState → Nat
  | .free => 0
  | .accepted => 1
  | .running => 2
  | .ending => 3
  | .done => 4

/-- A ledger entry's line (Table 13-2). -/
def Entry.line (e : Entry) : List Byte :=
  let b (c : Bool) (n : Nat) : Nat := if c then 2 ^ n else 0
  crcLine (e.state.code + e.charged % 8 * 2 ^ 19 + e.attempts % 8 * 2 ^ 22 + b e.started 25 + b e.replayed 26 + b e.adopted 27
    + b e.restartable 28 + e.handle.toNat * 2 ^ 29 + e.chan.toNat * 2 ^ 34 + e.opcode.toNat * 2 ^ 40 + e.status.toNat * 2 ^ 48
    + e.epoch.toNat * 2 ^ 64 + e.pour.toNat * 2 ^ 96 + e.detail.toNat * 2 ^ 160 + e.energy.toNat * 2 ^ 224
    + e.tsAccept.toNat * 2 ^ 288 + e.tsStart.toNat * 2 ^ 352 + e.tsDone.toNat * 2 ^ 416)

/-- A commit slot's line, and with POUR zero a pattern record slot's (Table 13-4). -/
def CommitSlot.line (c : CommitSlot) : List Byte :=
  let b (c : Bool) (n : Nat) : Nat := if c then 2 ^ n else 0
  crcLine (c.handle.toNat + b c.removed 13 + b c.mapSel 14 + b c.pending 15 + c.pendingSs.toNat * 2 ^ 288 + c.epoch.toNat * 2 ^ 320
    + c.t.toNat * 2 ^ 352 + c.pour.toNat * 2 ^ 416)

/-- The Assay's lines: 48 bytes of content, and their HMAC. How the record lies in the 48 bytes is open (DESIGN CHOICE, log entry 73). -/
def Assay.bootRecordLine (a : Assay) (l : Ledger) : List Byte :=
  let c := fitBytes 48 (leBytes 2 l.rollback.toNat ++ [if l.bootActive then 1 else 0, if l.bootPending then 1 else 0])
  c ++ a.lineMac c
def Assay.lmsLine (a : Assay) (l : Ledger) : List Byte :=
  let c := fitBytes 48 (leBytes 4 l.lmsQ)
  c ++ a.lineMac c

end Sys2Proof.Machine
end

