-- ==== Sys2Proof/WellFormed.lean ====
section
/-! DEFINITION. Which commands can occur: operands that the block's boundary cannot carry are refused here. The machine
itself is total and does not depend on it. -/

namespace Sys2Proof

/-- A frame as the boundary carries it: up to 39 codewords of payload, of which poisoned ones are named (R264, R265). -/
def Frame.wf (f : Frame) : Bool :=
  decide (f.count ≤ 39) && f.payload.length == 32 * f.count && f.poison.all (fun c => decide (1 ≤ c) && decide (c ≤ f.count))
    && f.fixed.all (fun x => decide (x.1 < 40) && decide (x.2 < 36))
    && f.raw.all (fun x => decide (x.1 < 16) && decide (90 ≤ x.2.length) && decide (x.2.length ≤ 103))

/-- A scan as the margin test makes it: three thresholds of 64 positions, and at most 40 steps of 1 GHz on each side (R320). -/
def LaneScan.wf (c : LaneScan) : Bool :=
  c.eyes.length == 3 && c.eyes.all (fun e => (e.map fun x => decide (x.1 ≤ x.2) && decide (x.2 < 64)).getD true)
    && decide (c.low.1 ≤ 40) && decide (c.high.1 ≤ 40)

/-- A phase or slot number (R26, R88). -/
def phaseOk (n : Nat) : Bool := decide (n < 64)

/-- A host write to BAR0 as a TLP carries it: 1 to 8 bytes inside the 64 MiB (R22). -/
def registerOk (off width : Nat) (value : Word64) : Bool :=
  (width = 8 || width = 16 || width = 32 || width = 64) && decide (off + width / 8 ≤ 2 ^ 26) && decide (value.toNat < 2 ^ width)

/-- What a boot stage can find (Table 21-2). -/
def bootResultOk (stage : Nat) : BootResult → Bool
  | .ok => true
  | .selfTest c => stage = 1 && decide (1 ≤ c.toNat) && decide (c.toNat ≤ 6)
  | .stackFailed _ => stage = 4
  | .sprue _ => stage = 3
  | .bist _ _ => stage = 5
  | .optics a b _ => stage = 6 && a.length == 400 && b.length == 400 && (a ++ b).all LaneScan.wf

/-- Codewords on their way over a floor-link direction: a slot position below 100, and 32 bytes each (R319). -/
def carriedOk (l : List (Nat × Nat × List Byte)) : Bool := l.all fun x => decide (x.1 < 100) && x.2.2.length == 32

/-- A resweep's findings: steps between −150 and 150, and those that pass are among the resonances (R317). -/
def RingSweep.wf (w : RingSweep) : Bool :=
  w.resonances.all (fun x => decide (-150 ≤ x) && decide (x ≤ 150)) && w.passing.all fun x => w.resonances.contains x

/-- A JTAG scan has some bits, and fewer than a tester's longest (the model's bound: 4,096). -/
def jtagOk : JtagOp → Bool
  | .shiftDr bits => bits.length != 0 && decide (bits.length ≤ 4096)
  | _ => true

/-- What a training stage can find (Table 14-3). -/
def stageResultOk (stage : Nat) : StageResult → Bool
  | .margins _ rx => stage = 2 && rx.length == 16 && rx.all LaneScan.wf
  | .ok => stage != 2
  | .failed => true

/-- A codeword of an SRAM under the code exists (Table 19-2). -/
def sramOk : SramTarget → Bool
  | .window cw => decide (2 ^ 35 ≤ cw) && decide (cw < 2 ^ 35 + 2 ^ 27)
  | .scalar g cw => decide (g < 128) && decide (cw < 2048)
  | .code g cw => decide (g < 128) && decide (cw < 8192)
  | .vregs g cw => decide (g < 128) && decide (cw < 256)
  | .crucible g cw => decide (g < 128) && decide (cw < 131072)
  | .bank g _ cw => decide (g < 128) && decide (cw < 4096)
  | .tundish (.window _ c) cw => decide (c < 64) && decide (cw < 512)
  | .tundish (.received _) cw => decide (cw < 512)
  | .tundish (.bound _) cw => decide (cw < 512)
  | .ladle g _ cw => decide (g < 128) && decide (cw < 16384)
  | .passEnd => true

/-- A command whose operands the boundary can carry. -/
def Instr.wf : Instr → Bool
  | .intakeWrite _ _ off data => data.length != 0 && decide (off + data.length ≤ 2 ^ 16)
  | .registerWrite _ off width value => registerOk off width value
  | .hbmPhaseAccess _ eng idx phase => phaseOk phase && (decide (eng ≠ .stream) || idx == 0)
  | .boardReadRequest _ frame phase => (frame.map Frame.wf).getD true && phaseOk phase
  | .boardWrite _ frame phase => (frame.map Frame.wf).getD true && phaseOk phase
  | .idleFrame _ f => f.wf
  | .damagedFrame _ f => f.wf
  | .streamData _ f => f.wf
  | .start _ f => f.wf
  | .voteUp _ f => f.wf
  | .voteDown _ f => f.wf
  | .boardReadResponse _ f => f.wf
  | .trainingStageDone _ stage r => decide (1 ≤ stage) && decide (stage ≤ 6) && stageResultOk stage r
  | .openFibreDetect _ cause => cause != 0
  | .chillTrip _ temp => decide (115000 ≤ temp)
  | .fettleSramSlot t => sramOk t
  | .assayError cause => decide (1 ≤ cause.toNat) && decide (cause.toNat ≤ 6)
  | .bootStageDone stage r => decide (1 ≤ stage) && decide (stage ≤ 8) && bootResultOk stage r
  | .laneReturn r => r.scan.wf
  | .lockLoopUpdate (.runner _) _ lane _ => decide (lane.val < 16)
  | .lockLoopUpdate (.floor _ carried) _ _ _ => carriedOk carried
  | .feedForward (.runner _) _ _ => true
  | .feedForward (.floor _ _ carried) _ _ => carriedOk carried
  | .resweepDone _ w => w.wf
  | .floorLaneRemoval _ l => l.tag.length == 9 && carriedOk l.carried
  | .gateStep c0 c1 base => c0.length == 16 && c1.length == 16 && base.length == 16
  | .avsReading rails => rails.length == 8
  | .busMasterEnable e => e.msix.table.length == 65
  | .qspiHold _ writes => writes.all fun e => decide (e.1 < 2 ^ 26)
  | .hostDmaCompletion _ _ data err => err != .good || data.length != 0
  | .spdmRequest _ m => m.size != 0
  | .jtagInstruction op => jtagOk op
  | .packetDecision _ | .packetAccept _ _ _ | .intakeBodyRetry _ _ _ | .intakeStallTimeout _
  | .channelOpen _ | .channelAdopt _ | .channelClose _ | .closeTeardown _ | .patternLoad _
  | .patternUnload _ | .run _ | .setStepSize _ | .copyIn _ | .copyOut _ | .fill _ | .queryDevice _
  | .queryPattern _ | .energyRead _ | .flaskJoin _ | .flaskLeave _ | .marginTest _ | .attestDeviceEvidence _
  | .attestReceipt _ | .firmwareStage _ | .firmwareActivate _ | .pourCommit _ | .finalReply _
  | .sprChanRhead _ _ _ | .channelReset _ _ | .channelResetAbandon _ _ | .rsrReinit _ _ _ | .cntSnap _ _
  | .cntBwCtrl _ _ | .cntSampleCtrl _ _ | .asySelftest _ _ | .zeroise _ | .decommission _ | .pwrCapWatts _
  | .trippedClear _ | .monitorReading _ | .monitorReadingDone _ | .add _ | .sub _ | .and _ | .or _ | .xor _
  | .shl _ | .shr _ | .sra _ | .mul _ | .mulhu _ | .divu _ | .remu _ | .slt _ | .sltu _ | .min _ | .max _
  | .addi _ | .movk _ | .fadd _ | .fsub _ | .fmul _ | .fdiv _ | .fsqrt _ | .fmin _ | .fmax _ | .flt _
  | .feq _ | .fcvtDS _ | .fcvtSD _ | .fcvtDL _ | .fcvtLD _ | .ld64 _ | .ld32 _ | .st64 _ | .st32 _ | .beq _
  | .bne _ | .blt _ | .bge _ | .bltu _ | .bgeu _ | .jmp _ | .call _ | .jr _ | .waitt _ | .sett _ | .clrt _
  | .sumrd _ | .issue _ | .deferArm _ | .deferSync _ | .phaseHint _ | .fence _ | .halt _ | .coreStallEnd _
  | .wload _ | .matmul _ | .drain _ | .tclr _ | .mov _ | .vxAdd _ | .vxSub _ | .vxMul _ | .div _ | .vxMin _
  | .vxMax _ | .fma _ | .abs _ | .neg _ | .sqrt _ | .rsqrt _ | .rcp _ | .exp _ | .log _ | .relu _
  | .geluTanh _ | .geluErf _ | .silu _ | .sigmoid _ | .tanh _ | .cmplt _ | .cmple _ | .cmpeq _ | .cmpne _
  | .nfcount _ | .rsum _ | .rsumsq _ | .rmax _ | .rmin _ | .ramax _ | .compress _ | .expand _ | .normsq _
  | .update _ | .copy _ _ | .allReduce _ _ | .reduceScatter _ _ | .allGather _ _ | .allToAll _ _
  | .broadcast _ _ | .send _ _ | .recv _ _ | .instructionComplete _ _ _ | .guardLatch _ | .fillerStepIssue _
  | .clusterFault _ _ _ | .spareBistDone _ _ _ | .identityRecord _ _ | .joinPortTimeout _ | .laneRecord _ _
  | .portSilenceTimeout _
  | .spareTimeout _ | .floorStallTimeout _ | .laserBusConfirm _ _ _
  | .laserBusTimeout _ | .eyeProbe _ | .eyeProbeDone _ _ | .clusterSleep _
  | .idleHoldoffExpiry _ | .risingEnd _ | .fallingEnd _ | .minimumOffExpiry _ | .counterSample _ _
  | .bandwidthWindowEnd _ | .healthEvaluation | .healthDecay | .fettleHbmBurst _ | .fettleOffGroupTest _ _ _
  | .riserWriteFail _ _ | .riserRebuildDone | .sprueTakeover | .ideIntegrityFailure _ _
  | .hostLinkDown _ | .perstN _ | .flr _ | .coldReset | .bootStart _ _ | .warmReset
  | .warmBootStart | .pwrgdAonRise | .pwrgdAonFall | .aonClkLoss | .railOutOfRange | .vddAonLoss
  | .mctpBootStatus | .errLogSeqRead | .vddAonApplied | .perstNRelease _
  | .hostLinkUp _ | .flrComplete _ | .standbySprueFailure => true

end Sys2Proof
end

