-- ==== Sys2Proof/Tests/Slice0.lean ====
section
/-! SUPPORT. Tests of the model: ill-formed commands are refused, small steps worked by hand from the spec, and for each
statement of Obligations a state that meets its hypotheses. -/

namespace Sys2Proof.Machine

set_option Elab.async false

/-! ### Ill-formed commands -/

/-- A frame of `n` codewords. -/
def frameOf (type n : Nat) (arg : BitVec 64) (payload : List Byte) : Frame :=
  ⟨0, 16, BitVec.ofNat 4 type, n, 0, 0, 0, false, arg, payload, [], [], []⟩

/-- A lane whose power falls to half within 5 GHz on either side: a margin of 3 dB. -/
def goodScan : LaneScan := ⟨List.replicate 3 (some (0, 63)), 200, (5, 100), (5, 100)⟩

theorem test_wf_refuses :
    [Instr.intakeWrite .cope 0 0 [], .intakeWrite .cope 0 0xFFFF [0, 0], .registerWrite .cope 0 24 0,
      .registerWrite .cope 0x3FFFFFE 32 0, .registerWrite .cope 0 8 0x100, .hbmPhaseAccess 0 (.move .ld) 0 64, .hbmPhaseAccess 0 .stream 1 0, .lockLoopUpdate (.runner 0) .rx 16 0,
      .boardReadRequest 0 none 64, .boardWrite 0 (some (frameOf 3 1 0 [])) 0, .idleFrame 0 (frameOf 0 40 0 []),
      .damagedFrame 0 (frameOf 0 1 0 []), .streamData 0 { frameOf 1 0 0 [] with poison := [1] },
      .start 0 { frameOf 5 0 0 [] with fixed := [(0, 36)] }, .start 0 { frameOf 5 0 0 [] with raw := [(16, List.replicate 90 0)] }, .voteUp 0 (frameOf 5 1 0 []), .voteDown 0 (frameOf 5 1 0 []),
      .boardReadResponse 0 (frameOf 4 1 0 []), .trainingStageDone 0 0 .ok, .trainingStageDone 0 7 .ok,
      .trainingStageDone 0 2 .ok, .trainingStageDone 0 3 (.margins 0 []), .trainingStageDone 0 2 (.margins 0 []),
      .laneReturn ⟨.runner 0 .rx 0, ⟨[], 0, (0, 0), (0, 0)⟩⟩, .laneReturn ⟨.runner 0 .rx 0, { goodScan with low := (41, 0) }⟩,
      .floorLaneRemoval 0 ⟨0, [], []⟩, .floorLaneRemoval 0 ⟨0, List.replicate 9 0, [(100, 0, List.replicate 32 0)]⟩, .gateStep [] [] [],
      .avsReading [], .busMasterEnable ⟨.cope, ⟨false, false, []⟩, PcieSetup.reset⟩, .bootStageDone 2 (.sprue true),
      .openFibreDetect 0 0, .chillTrip 0 114999,
      .fettleSramSlot (.window 0), .fettleSramSlot (.scalar 128 0), .fettleSramSlot (.code 0 8192), .fettleSramSlot (.vregs 0 256),
      .fettleSramSlot (.crucible 0 131072), .fettleSramSlot (.bank 0 true 4096), .assayError 0, .assayError 7,
      .bootStageDone 0 .ok, .bootStageDone 9 .ok, .bootStageDone 2 (.selfTest 1), .bootStageDone 1 (.selfTest 7),
      .bootStageDone 1 (.stackFailed 0), .bootStageDone 1 (.bist 0 0), .bootStageDone 6 (.optics (List.replicate 400 goodScan) (List.replicate 399 goodScan) 15),
      .resweepDone (.runner 0 .rx 0) ⟨[151], []⟩, .resweepDone (.runner 0 .rx 0) ⟨[], [1]⟩, .spdmRequest .cope ⟨none, .version, 0⟩,
      .qspiHold true [(67108864, 0)], .hostDmaCompletion .cope 0 [] .good].all (fun c => !c.wf) = true := by decide +kernel

theorem test_wf_accepts :
    [Instr.intakeWrite .cope 63 0x3FFF [1], .registerWrite .drag 0x3FFFFF8 64 1, .hbmPhaseAccess 127 .stream 0 63, .lockLoopUpdate (.runner 31) .tx 15 0, .lockLoopUpdate (.floor 1 []) .rx 399 0,
      .trainingStageDone 31 6 .ok, .trainingStageDone 31 2 (.margins 0 (List.replicate 16 goodScan)), .laneReturn ⟨.floor 1 399, goodScan⟩,
      .gateStep (List.replicate 16 0) (List.replicate 16 0) (List.replicate 16 0), .avsReading (List.replicate 8 none), .busMasterEnable ⟨.drag, MsixConfig.masked, PcieSetup.reset⟩, .feedForward (.floor 1 24 []) .tx 5,
      .resweepDone (.floor 1 .rx 399) ⟨[-3, 4], [4]⟩, .spdmRequest .drag ⟨some 3, .endSession, 4⟩, .bootStageDone 6 (.optics (List.replicate 400 goodScan) (List.replicate 400 goodScan) 15), .chillTrip 0 115000, .fettleSramSlot .passEnd, .bootStageDone 8 .ok, .assayError 6].all
        Instr.wf = true := by decide +kernel

/-! ### States of the tests -/

/-- A part that is ready: power is on, both host ports are up, every domain is ON, and logical cluster c of each die stands at
position c. Its fused store is of zeros. -/
def base : State :=
  let port : HostPortState := { HostPortState.init with linkUp := true, perst := false, busMaster := true }
  { State.reset with
    pins := { State.reset.pins with pwrgdMain := true }
    boot := { Boot.init with phase := .ready, ready := true, done := 0xFF, zeroHbm := false, recoverCold := false, buildMap := false }
    assay := { Assay.init with otp := ⟨0, false, [], [], 0, 0, false, default⟩, mode := .operational }
    ident := { Ident.init with
      clmap := (List.range 64).map (fun c => (c, some c)) ++ (List.range 64).map (fun c => (64 + c, some c))
      spares0 := [64, 65]
      spares1 := [64, 65] }
    power := { Power.init with seq := (List.range 58).map fun k => (k, ⟨.on, .none, true⟩) }
    light := { Light.init with enabled := true, srcPresent := 15 }
    sprue := ⟨false, true, false, false⟩
    cope := port
    drag := port }

/-- A pattern that uses cluster 0 only, of one rank. -/
def pat : Pattern :=
  ⟨0, [], 0, 1, 0, 0, 0, false, none, [(0, ⟨0, 256, 16, 0, 0⟩)], [], [], [(0, leBytes 4 (0x3F * 2 ^ 26))], [], [], [], [], [], [], [],
    [1, 1, 1, 1], [], [], [], []⟩

/-- The attempt of a RUN on channel 0. -/
def attempt : RunCtx := ⟨0, 0, 1, 7, 0, [], 0, 0, 0, false, none, none, [], false, none, [], [], [], 0⟩

/-- The core of cluster 0 about to execute the words `ws` from address 0, with the register values `rs`. -/
def core (ws : List Nat) (rs : Tab Word64) : State :=
  { base with
    run := some attempt
    patterns := [(1, some { pat with code := [(0, ws.flatMap fun w => leBytes 4 w)] })]
    clusters := [(0, { Cluster.init with
      run := .running
      regs := rs
      imem := Mem.zeros.lay 0 (ws.flatMap fun w => leBytes 4 w)
      codeLen := 4 * ws.length
      gate := { Gate.init with g := 1 } })] }

/-- The core of cluster 0 with its cluster changed. -/
def coreWith (ws : List Nat) (rs : Tab Word64) (f : Cluster → Cluster) : State := (core ws rs).updCl 0 f

/-- The conditions of `runsWord` for cluster 0, computed. -/
def runsB (s : State) (w : Nat) : Bool :=
  s.coreReady 0 && decide ((s.cl 0).pc.toNat + 4 ≤ (s.cl 0).codeLen) && decide (w < 2 ^ 32)
    && decide ((s.cl 0).imem.readRange (.priv 0) (s.cl 0).pc.toNat 4 = ⟨leBytes 4 w, [], [], (s.cl 0).imem, []⟩)

theorem runs_of {s : State} {w : Nat} (h : runsB s w = true) : s.runsWord 0 w := by
  simp only [runsB, Bool.and_eq_true, decide_eq_true_eq] at h
  exact ⟨h.1.1.1, h.1.1.2, h.1.2, h.2⟩

/-! ### The control core -/

/-- What an instruction leaves in a register of cluster 0 and in its program counter. -/
def after (o : Host.Outcome State Fault Refusal) (r : Nat) : Option (Word64 × BitVec 19) :=
  match o with
  | .next t => some ((t.cl 0).reg r, (t.cl 0).pc)
  | _ => none

/-- An instruction with xd = 3, xa = 1 and low 16 bits. -/
def iWord (op low : Nat) : Nat := op * 2 ^ 26 + 3 * 2 ^ 21 + 1 * 2 ^ 16 + low

/-- The same with xb = 2 and FN. -/
def rWord (op fn : Nat) : Nat := iWord op (2 * 2 ^ 11 + fn)

theorem test_sra : after (exec (.sra 0) (core [rWord 0 7] [(1, 0x8000000000000000), (2, 65)])) 3
    = some (0xC000000000000000, 4) := by decide +kernel
theorem test_divu_zero : after (exec (.divu 0) (core [rWord 0 0xA] [(1, 5)])) 3 = some (0xFFFFFFFFFFFFFFFF, 4) := by
  decide +kernel
theorem test_remu_zero : after (exec (.remu 0) (core [rWord 0 0xB] [(1, 5)])) 3 = some (5, 4) := by decide +kernel
theorem test_mulhu : after (exec (.mulhu 0) (core [rWord 0 9] [(1, 0xFFFFFFFFFFFFFFFF), (2, 2)])) 3 = some (1, 4) := by
  decide +kernel
/-- −1 is less than 1 as a signed number and not as an unsigned one. -/
theorem test_slt : after (exec (.slt 0) (core [rWord 0 0xC] [(1, 0xFFFFFFFFFFFFFFFF), (2, 1)])) 3 = some (1, 4)
    ∧ after (exec (.sltu 0) (core [rWord 0 0xD] [(1, 0xFFFFFFFFFFFFFFFF), (2, 1)])) 3 = some (0, 4) := by decide +kernel
/-- 1.5 + 2.25 = 3.75 in FP64. -/
theorem test_fadd : after (exec (.fadd 0) (core [rWord 3 0] [(1, 0x3FF8000000000000), (2, 0x4002000000000000)])) 3
    = some (0x400E000000000000, 4) := by decide +kernel
/-- −2.75 converts to −2: rounding towards zero. -/
theorem test_fcvt_l_d : after (exec (.fcvtLD 0) (core [iWord 3 0xD] [(1, 0xC006000000000000)])) 3
    = some (0xFFFFFFFFFFFFFFFE, 4) := by decide +kernel
/-- ADDI x3, x1, −1. -/
theorem test_addi : after (exec (.addi 0) (core [iWord 1 0xFFFF] [(1, 0)])) 3 = some (0xFFFFFFFFFFFFFFFF, 4) := by decide +kernel
/-- MOVK x3, 0xABCD with k = 1. -/
theorem test_movk : after (exec (.movk 0) (core [iWord 2 0xABCD] [(3, 0x1111222233334444)])) 3
    = some (0x11112222ABCD4444, 4) := by decide +kernel
/-- LD32 x3, x1, 4 of the bytes 1, 2, 3, 0x84: zero-extended. -/
theorem test_ld32 : after (exec (.ld32 0) (coreWith [iWord 0x0A 4] [(1, 8)]
    fun c => { c with dmem := Mem.zeros.lay 12 [1, 2, 3, 0x84] })) 3 = some (0x84030201, 4) := by decide +kernel
/-- A branch back by one word from address 4. -/
theorem test_bne_back : after (exec (.bne 0) (coreWith [0x3F * 2 ^ 26, iWord 0x11 0xFFFF] [(1, 4)]
    fun c => { c with pc := 4 })) 0 = some (0, 0) := by decide +kernel

theorem wit_IntegerResult : (core [rWord 0 0] []).runsWord 0 (rWord 0 0) ∧ (core [iWord 1 0] []).runsWord 0 (iWord 1 0)
    ∧ (core [iWord 2 0] []).runsWord 0 (iWord 2 0)
    ∧ rWord 0 0 / 2 ^ 26 = 0 ∧ rWord 0 0 % 2 ^ 11 = 0 ∧ iWord 1 0 / 2 ^ 26 = 1 ∧ iWord 2 0 / 2 ^ 26 = 2 ∧ iWord 2 0 / 2 ^ 18 % 8 = 0 :=
  ⟨runs_of (by decide +kernel), runs_of (by decide +kernel), runs_of (by decide +kernel), by decide⟩

theorem wit_FloatGroupResult : (core [iWord 3 4] []).runsWord 0 (iWord 3 4) ∧ iWord 3 4 / 2 ^ 26 = 3 ∧ iWord 3 4 % 2 ^ 11 = 4
    ∧ iWord 3 4 / 2 ^ 11 % 32 = 0 := ⟨runs_of (by decide +kernel), by decide⟩

/-- The last eight bytes of scalar data memory, loaded and stored. -/
theorem wit_ScalarAccessResult : (core [iWord 0x08 0] [(1, 0xFFF8)]).runsWord 0 (iWord 0x08 0)
    ∧ ((core [iWord 0x08 0] [(1, 0xFFF8)]).cl 0).dmem.readsClean (.priv 0) 0xFFF8 8 (List.replicate 8 0)
    ∧ (core [iWord 0x0B 0] [(1, 0xFFFC)]).runsWord 0 (iWord 0x0B 0)
    ∧ Tab.get 0 ((core [iWord 0x0B 0] [(1, 0xFFFC)]).cl 0).dmem.chk (0xFFFC / 32) = 0
    ∧ ((core [iWord 0x0B 0] [(1, 0xFFFC)]).cl 0).storeLent 0xFFFC = false := by
  refine ⟨runs_of (by decide +kernel), ?_, runs_of (by decide +kernel), by decide +kernel, by decide +kernel⟩
  unfold Mem.readsClean; decide +kernel

/-- An access at the end and one that is not aligned; a jump before address 0 and a branch past the code. -/
theorem wit_MalformedFaults : (core [iWord 0x08 0] [(1, 0x10000)]).runsWord 0 (iWord 0x08 0) ∧ 0x10000 < 0x10000 + 8
    ∧ (core [iWord 0x0A 0] [(1, 2)]).runsWord 0 (iWord 0x0A 0) ∧ 2 % 4 ≠ 0
    ∧ (core [0x18 * 2 ^ 26 + 0x3FFFFFF] []).runsWord 0 (0x18 * 2 ^ 26 + 0x3FFFFFF)
    ∧ (BitVec.ofNat 26 (0x18 * 2 ^ 26 + 0x3FFFFFF)).toInt = -1
    ∧ (core [iWord 0x10 1] []).runsWord 0 (iWord 0x10 1) ∧ (core [iWord 0x10 1] []).isTarget 0 4 = false :=
  ⟨runs_of (by decide +kernel), by decide, runs_of (by decide +kernel), by decide, runs_of (by decide +kernel), by decide,
    runs_of (by decide +kernel), by decide +kernel⟩

theorem wit_ControlTransfer : (core [iWord 0x10 1, 0x3F * 2 ^ 26] []).runsWord 0 (iWord 0x10 1)
    ∧ (core [iWord 0x10 1, 0x3F * 2 ^ 26] []).isTarget 0 4 = true
    ∧ (core [iWord 0x11 1] []).runsWord 0 (iWord 0x11 1)
    ∧ (core [0x18 * 2 ^ 26] []).runsWord 0 (0x18 * 2 ^ 26) ∧ (core [0x18 * 2 ^ 26] []).isTarget 0 0 = true
    ∧ (core [0x19 * 2 ^ 26] []).runsWord 0 (0x19 * 2 ^ 26) ∧ (core [0x1A * 2 ^ 26 + 2 ^ 16] []).runsWord 0 (0x1A * 2 ^ 26 + 2 ^ 16) :=
  ⟨runs_of (by decide +kernel), by decide +kernel, runs_of (by decide +kernel), runs_of (by decide +kernel), by decide +kernel,
    runs_of (by decide +kernel), runs_of (by decide +kernel)⟩

/-- A cluster with tokens, and one with summary slot 0 that is not valid. -/
def tokened (ws : List Nat) (m : BitVec 256) : State := coreWith ws [] fun c => { c with tokens := m }
def unslotted (ws : List Nat) : State := coreWith ws [] fun c => c.setSlot 0 ⟨false, []⟩

/-- Tokens 255 and 0: one set and waited for, one consumed, one set, one cleared; and the two misuses. -/
theorem wit_TokenInstructions : (tokened [0x20 * 2 ^ 26 + 255] (1#256 <<< 255)).runsWord 0 (0x20 * 2 ^ 26 + 255)
    ∧ ((tokened [0x20 * 2 ^ 26 + 255] (1#256 <<< 255)).cl 0).token 255 = true
    ∧ (tokened [0x20 * 2 ^ 26 + 2 ^ 15] 1).runsWord 0 (0x20 * 2 ^ 26 + 2 ^ 15)
    ∧ (∀ e ∈ Engine.all, (tokened [0x20 * 2 ^ 26 + 2 ^ 15] 1).headReady 0 e = false)
    ∧ (tokened [0x21 * 2 ^ 26] 0).runsWord 0 (0x21 * 2 ^ 26) ∧ (tokened [0x22 * 2 ^ 26] 1).runsWord 0 (0x22 * 2 ^ 26)
    ∧ (tokened [0x21 * 2 ^ 26] 1).runsWord 0 (0x21 * 2 ^ 26) ∧ (tokened [0x22 * 2 ^ 26] 0).runsWord 0 (0x22 * 2 ^ 26) :=
  ⟨runs_of (by decide +kernel), by decide +kernel, runs_of (by decide +kernel), by decide +kernel, runs_of (by decide +kernel),
    runs_of (by decide +kernel), runs_of (by decide +kernel), runs_of (by decide +kernel)⟩

theorem wit_SummaryHintFenceHalt : (core [0x28 * 2 ^ 26 + 15 * 2 ^ 8 + 7] []).runsWord 0 (0x28 * 2 ^ 26 + 15 * 2 ^ 8 + 7)
    ∧ (((core [0x28 * 2 ^ 26] []).cl 0).slot 15).valid = true
    ∧ (core [0x32 * 2 ^ 26 + 16 * 2 ^ 8] []).runsWord 0 (0x32 * 2 ^ 26 + 16 * 2 ^ 8)
    ∧ (core [0x3E * 2 ^ 26] []).runsWord 0 (0x3E * 2 ^ 26) ∧ ((core [0x3E * 2 ^ 26] []).cl 0).drained = true
    ∧ (core [0x3F * 2 ^ 26] []).runsWord 0 (0x3F * 2 ^ 26) :=
  ⟨runs_of (by decide +kernel), by decide +kernel, runs_of (by decide +kernel), runs_of (by decide +kernel), by decide +kernel,
    runs_of (by decide +kernel)⟩

/-- A queue entry of no command. -/
def anyEntry : QEntry := ⟨0, 0, 0, [], 0, [], [], none, none, none, none, none, 0⟩

/-- ISSUE of the record at address 0 with a second word of zeros: to LD, with summary slot 0, and to a full queue. -/
def issueW (sum : Bool) : Nat := 0x30 * 2 ^ 26 + (if sum then 2 ^ 9 else 0)
def full : State := coreWith [issueW false, 0] [] fun c => { c with qLd := List.replicate 16 anyEntry }

theorem wit_CoreStalls : (core [0x20 * 2 ^ 26] []).runsWord 0 (0x20 * 2 ^ 26) ∧ ((core [0x20 * 2 ^ 26] []).cl 0).token 0 = false
    ∧ (unslotted [0x28 * 2 ^ 26]).runsWord 0 (0x28 * 2 ^ 26) ∧ (((unslotted [0x28 * 2 ^ 26]).cl 0).slot 0).valid = false
    ∧ (coreWith [0x3E * 2 ^ 26] [] fun c => { c with qLd := [anyEntry] }).runsWord 0 (0x3E * 2 ^ 26)
    ∧ (unslotted [issueW true, 0]).runsWord 0 (issueW true) ∧ issueWord (issueW true)
    ∧ full.runsWord 0 (issueW false) ∧ ((full.cl 0).queue (engineOf (issueW false / 2 ^ 23 % 8))).length = 16 := by
  refine ⟨runs_of (by decide +kernel), by decide +kernel, runs_of (by decide +kernel), by decide +kernel, runs_of (by decide +kernel),
    runs_of (by decide +kernel), ?_, runs_of (by decide +kernel), by decide +kernel⟩
  unfold issueWord; decide

/-- A WAITT that stalls on token 0. -/
def stalled (m : BitVec 256) : State := coreWith [0x20 * 2 ^ 26] [] fun c => { c with tokens := m, stall := some (.token 0) }

theorem wit_CoreStalls_end : (stalled 0).attemptRuns 0 = true ∧ ((stalled 0).cl 0).stall = some (.token 0)
    ∧ ((stalled 0).cl 0).token 0 = false ∧ ((stalled 1).cl 0).token 0 = true := by decide +kernel

theorem wit_IssueEnqueues : (core [issueW true, 0] []).runsWord 0 (issueW true) ∧ (core [issueW true, 0] []).runPattern.isSome = true
    ∧ ((core [issueW true, 0] []).cl 0).imem.readRange (.priv 0) 4 4
        = ⟨leBytes 4 0, [], [], ((core [issueW true, 0] []).cl 0).imem, []⟩
    ∧ ((core [issueW true, 0] []).cl 0).dmem.chk = [] ∧ ((core [issueW true, 0] []).cl 0).lending.active = false
    ∧ (((core [issueW true, 0] []).cl 0).slot 0).valid = true :=
  ⟨runs_of (by decide +kernel), by decide +kernel⟩

/-- A header at address 0 of 32 steps of which the first stands at address 64. -/
def armed : State := coreWith [0x31 * 2 ^ 26 + 2 ^ 15 + 255] [] fun c => { c with dmem := Mem.zeros.lay 0 [64, 0, 32] }

theorem wit_DeferOpensAndCloses : armed.runsWord 0 (0x31 * 2 ^ 26 + 2 ^ 15 + 255) ∧ (armed.cl 0).lending = Lending.none
    ∧ leNat ((armed.cl 0).dmem.raw 0 64) = 64 + 32 * 2 ^ 16 ∧ (armed.cl 0).dmem.chk = []
    ∧ (core [0x31 * 2 ^ 26 + 2 ^ 21 + 2 ^ 12] []).runsWord 0 (0x31 * 2 ^ 26 + 2 ^ 21 + 2 ^ 12) :=
  ⟨runs_of (by decide +kernel), by decide +kernel, by decide +kernel, by decide +kernel, runs_of (by decide +kernel)⟩

/-! ### Intake, channels and pours -/

/-- The header of a pour of channel 0 (Table 11-3), with `len` bytes of payload. -/
def headerOf (op handle pour ack len : Nat) : Nat :=
  1 + op * 2 ^ 8 + 2 ^ 16 + handle * 2 ^ 48 + len * 2 ^ 64 + pour * 2 ^ 128 + ack * 2 ^ 192

/-- A packet of channel 0 by COPE with its CRC, in a buffer of B0. -/
def packet (op handle pour ack : Nat) (payload : List Byte) : Packet :=
  let h := headerOf op handle pour ack payload.length
  ⟨.cope, 0, some false, BitVec.ofNat 512 (h + crc32c (leBytes 64 h ++ payload) * 2 ^ 96),
    BitVec.ofNat 128 (pour + payload.length * 2 ^ 64), payload, 7, []⟩

/-- Channel 0 open for COPE with a ring of 64 replies at 0x10000 and a quota of 8. -/
def channel0 : ChanRec := { ChanRec.closed with state := .opened, ringBase := 0x10000, ringLog := 6, quota := 8, tundishRes := 2, accepted := 1 }

/-- Both copies of the ledger changed alike. -/
def led (s : State) (f : Ledger → Ledger) : State :=
  { s with riser := { s.riser with
      copy0 := { s.riser.copy0 with data := f s.riser.copy0.data }
      copy1 := { s.riser.copy1 with data := f s.riser.copy1.data } } }

/-- A ready part with channel 0 open and a pattern with handle 1 on it. -/
def opened : State :=
  led { base with patterns := [(1, some { pat with steps := [0x3F800000] })] } fun l => { l with
    chans := [(0, channel0)]
    slots := [(0, some ⟨1, 0, 0, 0, false, false, false, 0⟩)]
    precs := [(0, some ⟨1, 5, 0, 0, false, false, false, 1⟩)] }

/-- An entry that a pour of channel 0 holds. -/
def held (st : EntryState) (op pour : Nat) : Entry :=
  { Entry.free with state := st, pour := BitVec.ofNat 64 pour, opcode := BitVec.ofNat 8 op, restartable := true }

/-- Pour 2 of channel 0 in entry 0, accepted, with its body in both copies of the intake store. -/
def pour (op handle : Nat) (payload : List Byte) : State :=
  let k := packet op handle 2 0 payload
  let body := leBytes 64 k.header.toNat ++ payload
  led { opened with
    accepted := [0]
    mem := (opened.mem.lay (bodyAddr 0 false) body).lay (bodyAddr 0 true) body } fun l => { l with entries := [(0, held .accepted op 2)] }

/-- The packet and the state that reading the body of entry 0 gives. -/
def bodyRead (s : State) (ks : List Nat) : State × Packet :=
  let s := s.enableAll (s.bodyStack 0 :: ks)
  ((s.readBody 0).1, (s.readBody 0).2.getD (packet 0 0 0 0 []))

/-- The conditions of `startsNow` for entry 0 and channel 0, computed. -/
def startsB (s : State) (op : Nat) (ks : List Nat) : Bool :=
  decide (s.headOf 0 = some 0) && decide ((s.bodyOf 0).opcode = op) && decide ((bodyRead s ks).2.opcode = op) && s.mayStart 0
    && s.allOn (s.bodyStack 0 :: ks) && decide ((s.riser.current s.sprue.activeB1).state ≠ .lost)
    && ((s.enableAll (s.bodyStack 0 :: ks)).readBody 0).2.isSome
    && decide ((bodyRead s ks).1 = { s.enableAll (s.bodyStack 0 :: ks) with
        cnt := (bodyRead s ks).1.cnt
        power := { (s.enableAll (s.bodyStack 0 :: ks)).power with fabric := (bodyRead s ks).1.power.fabric } })

theorem starts_of {s : State} {op : Nat} {ks : List Nat} (h : startsB s op ks = true) :
    s.startsNow (bodyRead s ks).1 0 op 0 ks (bodyRead s ks).2 := by
  simp only [startsB, Bool.and_eq_true, decide_eq_true_eq] at h
  obtain ⟨⟨⟨⟨⟨⟨⟨h1, h2⟩, h3⟩, h4⟩, h5⟩, h6⟩, h7⟩, h8⟩ := h
  refine ⟨h1, h2, h3, h4, h5, .inr h6, ?_, h8⟩
  obtain ⟨k, hk⟩ := Option.isSome_iff_exists.1 h7
  refine Prod.ext rfl ?_
  simp only [bodyRead]
  rw [hk]
  rfl

/-- The first and the last byte of a packet of channel 63, and a write from offset 0x4000 on. -/
theorem wit_PacketArrives : base.hostReach .drag = true ∧ (base.window .drag 63).bytes.chk = [] ∧ base.boot.phase = .ready ∧ 0 + [(1 : Byte)].length ≤ 0x4000
    ∧ 0x3FFF + [(1 : Byte)].length ≤ 0x4000 ∧ 0x4000 + [(1 : Byte)].length ≤ 0x10000 ∧ 0xFFFF + [(1 : Byte)].length ≤ 0x10000 := by
  decide +kernel

/-- Packets of channel 0 received in a state. -/
def receives (s : State) (k : Packet) : State := { s with intake := { s.intake with received := [k] } }

/-- A COPY_OUT in sequence is bound, and the same with pour number 3 is out of sequence (0x0103). -/
theorem wit_PacketDecided :
    (let k := packet 0x31 0 2 0 (leBytes 32 (32 * 2 ^ 128))
     let s := receives opened k
     takeFirst 0 s.intake.received = some (k, []) ∧ k.chk = [] ∧ k.decode.1 = k ∧ s.nextDecision = some k
         ∧ firstFailing (s.acceptRows k) = none ∧ k.opcode ≠ opNop)
    ∧ (let k := packet 0x31 0 2 0 (leBytes 32 (32 * 2 ^ 128))
       let k1 := { k with chan := 1 }
       let s := { opened with intake := { opened.intake with received := [k, k1] } }
       takeFirst 1 s.intake.received = some (k1, [k]) ∧ s.nextDecision = some k ∧ k.chan ≠ 1)
    ∧ (let k := packet 0x31 0 3 0 (leBytes 32 (32 * 2 ^ 128))
       (receives opened k).nextDecision = some k ∧ firstFailing ((receives opened k).acceptRows k) = some 0x0103) := by decide +kernel

/-- A NOP that acknowledges pour 2, whose entry is held with its final reply written. -/
theorem wit_AckReleases :
    let k := packet 0x7F 0 0 2 []
    let s := receives (led opened fun l => { l with
      chans := [(0, { channel0 with accepted := 2, replied := 2 })], entries := [(0, held .done 0x31 2)] }) k
    takeFirst 0 s.intake.received = some (k, []) ∧ s.nextDecision = some k ∧ k.decode.1 = k
      ∧ (s.riser.current s.sprue.activeB1).state ≠ .lost ∧ s.refusalOf k = none ∧ k.opcode = 0x7F
      ∧ (s.entry 0).state ≠ .free ∧ (s.entry 0).chan.toNat = 0 ∧ (s.entry 0).pour.toNat ≤ k.ack := by decide +kernel

/-- A packet bound with entry 1023. -/
def binds (s : State) (k : Packet) (heldBack : Bool) : State :=
  { s with intake := { s.intake with bound := [⟨k, 1023⟩], held := if heldBack then 1 else 0 } }

theorem wit_PacketAccepted :
    let k := packet 0x31 0 2 0 (leBytes 32 (32 * 2 ^ 128))
    (binds opened k false).boundFirst 0 ⟨k, 1023⟩ ∧ (binds opened k false).intake.held.getLsbD 0 = false
      ∧ (binds opened k true).boundFirst 0 ⟨k, 1023⟩ ∧ (binds opened k true).intake.held.getLsbD 0 = true
      ∧ isChannelOp k.opcode = false := by
  unfold State.boundFirst State.ledgerKept; decide +kernel

theorem wit_ChannelOpcodesAccepted :
    (let k := packet 0x01 0 1 0 (leBytes 32 (0x10000 + 2 * 2 ^ 64 + 2 ^ 80 + 6 * 2 ^ 88))
     (binds base k false).boundFirst 0 ⟨k, 1023⟩ ∧ (binds base k false).intake.held.getLsbD 0 = false ∧ k.opcode = 0x01)
    ∧ (let k := packet 0x03 0 2 0 (leBytes 16 (0x20000 + 16 * 2 ^ 88))
       (binds opened k false).boundFirst 0 ⟨k, 1023⟩ ∧ k.opcode = 0x03)
    ∧ (let k := packet 0x02 0 2 0 []
       (binds opened k false).boundFirst 0 ⟨k, 1023⟩ ∧ k.opcode = 0x02) := by
  unfold State.boundFirst State.ledgerKept; decide +kernel

theorem wit_PourOutcomes : startsB (pour 0x01 0 (leBytes 32 (0x10000 + 2 * 2 ^ 64 + 2 ^ 80 + 6 * 2 ^ 88))) 0x01 [] = true
    ∧ startsB (pour 0x03 0 (leBytes 16 (0x20000 + 16 * 2 ^ 88))) 0x03 [] = true ∧ startsB (pour 0x02 0 []) 0x02 [] = true
    ∧ startsB (pour 0x11 1 []) 0x11 [] = true ∧ startsB (pour 0x22 1 (leBytes 16 0x3F800000)) 0x22 [] = true
    ∧ startsB (pour 0x41 0 []) 0x41 [] = true ∧ startsB (pour 0x51 0 []) 0x51 [] = true
    ∧ (pour 0x51 0 []).runner.flask = none ∧ ((pour 0x51 0 []).intake.bound.find? fun b => b.packet.chan = 0) = none := by
  decide +kernel

/-- A receipt of handle 1. -/
def receipted (s : State) : State := { s with assay := { s.assay with receipts := [⟨0, 1, List.replicate 128 0⟩] } }

/-- The blocks of TYPE 0 and TYPE 1. -/
theorem wit_AnswersWritten : startsB (pour 0x40 0 (leBytes 16 0x40000)) 0x40 [] = true
    ∧ fieldOf (bodyRead (pour 0x40 0 (leBytes 16 0x40000)) []).2.pay 64 8 = 0
    ∧ startsB (pour 0x40 1 (leBytes 16 (0x40000 + 2 ^ 64))) 0x40 [] = true
    ∧ fieldOf (bodyRead (pour 0x40 1 (leBytes 16 (0x40000 + 2 ^ 64))) []).2.pay 64 8 = 1
    ∧ ((pour 0x40 1 (leBytes 16 (0x40000 + 2 ^ 64))).patternOn 0 1).isSome = true
    ∧ startsB (pour 0x60 0 (leBytes 64 0x40000)) 0x60 [] = true
    ∧ fieldOf (bodyRead (pour 0x60 0 (leBytes 64 0x40000)) []).2.pay 64 8 = 0
    ∧ startsB (receipted (pour 0x60 1 (leBytes 64 (0x40000 + 2 ^ 64)))) 0x60 [] = true
    ∧ ((receipted (pour 0x60 1 (leBytes 64 (0x40000 + 2 ^ 64)))).patternOn 0 1).isSome = true
    ∧ ((receipted (pour 0x60 1 (leBytes 64 (0x40000 + 2 ^ 64)))).receiptOf 0 1).isSome = true
    ∧ ((pour 0x60 0 []).port .cope).mayWrite = true := by decide +kernel

/-- COPY_IN and COPY_OUT of 32 bytes at an address of the chip, and FILL of `n` bytes. -/
def copyPour (op a : Nat) : State := pour op 0 (leBytes 32 (a * 2 ^ 64 + 32 * 2 ^ 128))
def fillPour (a n : Nat) : State := pour 0x32 0 (leBytes 48 (a + n * 2 ^ 64 + 0x55 * 2 ^ 128))

/-- A COPY_IN that waits for its 32 bytes, of which `rest` have come and are not written. -/
def awaiting (rest : List Byte) : State :=
  { copyPour 0x30 0 with running := [(0, some
      ⟨0, packet 0x30 0 2 0 (leBytes 32 (32 * 2 ^ 128)), .memory, none, some ⟨rest.length, 32, rest⟩, 0, [], [], none⟩)] }

theorem wit_MemoryPours : startsB (copyPour 0x30 0) 0x30 (stackNeed ((copyPour 0x30 0).bodyOf 0).devRange.1) = true
    ∧ (copyPour 0x30 0).hostTarget 0 32 = some 0
    ∧ startsB (copyPour 0x30 0x1FC0000000) 0x30 (stackNeed ((copyPour 0x30 0x1FC0000000).bodyOf 0).devRange.1) = true
    ∧ (copyPour 0x30 0x1FC0000000).hostTarget 0x1FC0000000 32 = none
    ∧ startsB (copyPour 0x31 32) 0x31 (stackNeed ((copyPour 0x31 32).bodyOf 0).devRange.1) = true
    ∧ (copyPour 0x31 32).hostTarget 32 32 = some 32 ∧ ((copyPour 0x31 32).port .cope).mayWrite = true
    ∧ (copyPour 0x31 32).mem.readRange .chip 32 32 = ⟨List.replicate 32 0, [], [], (copyPour 0x31 32).mem, []⟩
    ∧ startsB (fillPour 64 32) 0x32 (stackNeed ((fillPour 64 32).bodyOf 0).devRange.1) = true
    ∧ (fillPour 64 32).hostTarget 64 32 = some 64 ∧ (fillPour 64 32).mem.suspects .chip 2 1 = []
    ∧ ((awaiting []).awaitsData .cope 0).isSome = true ∧ (awaiting []).hostReach .cope = true
    ∧ (((awaiting [1, 2, 3]).awaitsData .cope 0).map fun x => (x.1.body.opcode, x.2)) = some (0x30, ⟨3, 32, [1, 2, 3]⟩)
    ∧ (awaiting [1, 2, 3]).hostTarget 0 32 = some 0 := by decide +kernel

/-- A FIRMWARE_STAGE of 64 bytes that waits for its data, with the flash held by the board or not, and 4 bytes that wait. -/
def staging (hold : Bool) (rest : List Byte) : State :=
  let s := pour 0x61 0 (leBytes 32 (64 * 2 ^ 96))
  { s with
    pins := { s.pins with qspiHold := hold }
    running := [(0, some ⟨0, packet 0x61 0 2 0 (leBytes 32 (64 * 2 ^ 96)), .firmware, none, some ⟨rest.length, 64, rest⟩, 0, [], [], none⟩)] }

/-- A slot of zeros in the boot flash fails the form of its image. -/
theorem wit_FirmwarePours : startsB (pour 0x61 0 (leBytes 32 (4096 * 2 ^ 96))) 0x61 [] = true
    ∧ 0 < fieldOf (bodyRead (pour 0x61 0 (leBytes 32 (4096 * 2 ^ 96))) []).2.pay 96 32
    ∧ startsB (pour 0x62 0 []) 0x62 [] = true ∧ (pour 0x62 0 []).pins.qspiHold = false
    ∧ (pour 0x62 0 []).slotReject (pour 0x62 0 []).stagedSlot = some 1
    ∧ [true, false].all (fun h => ((staging h []).awaitsData .cope 0).isSome && (staging h []).hostReach .cope
        && (staging h []).pins.qspiHold == h) = true ∧ (packet 0x61 0 2 0 (leBytes 32 (64 * 2 ^ 96))).opcode = 0x61
    ∧ ((pour 0x61 0 []).port .cope).mayWrite = true := by decide +kernel

/-- An image of a pattern that uses no cluster: one buffer of 32 bytes at 0x100000, and a step table of one step (chapter 10).
Its header stands for `m` as the magic number. -/
def imageBody : List Byte :=
  leBytes 16 (0x01 + 1088 * 2 ^ 32 + 192 * 2 ^ 64) ++ leBytes 16 (0x02 + 272 * 2 ^ 32 + 1280 * 2 ^ 64)
    ++ leBytes 16 (0x03 + 32 * 2 ^ 32 + 1600 * 2 ^ 64) ++ leBytes 16 (0x04 + 4 * 2 ^ 32 + 1664 * 2 ^ 64)
    ++ leBytes 1088 (0xFFFF * 2 ^ 192 + 1 * 2 ^ 208) ++ leBytes 320 0 ++ leBytes 64 (0x100000 * 2 ^ 64 + 32 * 2 ^ 192)
    ++ leBytes 64 0x3F800000
/-- Its SHA-384, computed outside the model. -/
def imageDigest : Nat :=
  0x5a133913ee453dcd94f459a98874e1806fe2d903b7b07e2349c7ca161ccd0851b2fae54702a7cd42fdd5dbee13e29e23
def image (m : Nat) : List Byte :=
  leBytes 64 (m + 2 ^ 32 + 4 * 2 ^ 48 + 1728 * 2 ^ 64) ++ leBytes 48 imageDigest ++ leBytes 16 0 ++ imageBody

/-- PATTERN_LOAD of an image that stands at address 0x200000, and of address `a`. -/
def loading (m a : Nat) : State :=
  let s := pour 0x10 0 (leBytes 32 (a + 1728 * 2 ^ 64 + 5 * 2 ^ 128))
  { s with mem := s.mem.lay 0x200000 (image m) }

/-- An image that reads clean, and one that is to be read from the intake store. -/
theorem wit_PatternLoads : startsB (loading 0x58504C4E 0x200000) 0x10 (stackNeed 0x200000) = true
    ∧ stagingCheck (loading 0x58504C4E 0x200000) 0x200000 1728 = none
    ∧ (loading 0x58504C4E 0x200000).mem.suspects .chip 0x10000 54 = []
    ∧ stagingCheck (loading 0 0x1FC0000000) 0x1FC0000000 1728 = some 0x0204 := by decide +kernel

theorem wit_PatternLoads_data : (loading 0x58504C4E 0x200000).mem.raw 0x200000 1728 = image 0x58504C4E := by
  have h : (image 0x58504C4E).length = 1728 := by decide +kernel
  rw [← h]
  exact Mem.raw_lay _ _ _

/-- An image that every check passes, and one with another magic number. -/
theorem wit_PatternLoads_checks :
    firstFailing ((loading 0x58504C4E 0x200000).imageRows (readPattern 0 5 (image 0x58504C4E)) (image 0x58504C4E) 1728) = none
    ∧ firstFailing ((loading 0 0x200000).imageRows (readPattern 0 5 (image 0)) (image 0) 1728) = some 0x0201 := by decide +kernel

/-- A RUN of handle 1 with ARG0 to ARG9 zero, and one whose step size is negative. -/
def running (v : Nat) : State := pour 0x20 1 (leBytes 128 v)

theorem wit_RunStarts : startsB (running 0) 0x20 (runNeeds (running 0) ((running 0).bodyOf 0)) = true
    ∧ (running 0).runClear ((running 0).bodyOf 0).handle = true
    ∧ ((running 0).patternOn 0 1).isSome = true
    ∧ (((running 0).patternOn 0 1).map fun p =>
        firstFailing ((running 0).runRows (bodyRead (running 0) (runNeeds (running 0) ((running 0).bodyOf 0))).2 p)) = some none
    ∧ startsB (running (0xBF800000 + 2 ^ 32)) 0x20 (runNeeds (running 0) ((running 0).bodyOf 0)) = true
    ∧ (((running 0).patternOn 0 1).map fun p =>
        firstFailing ((running 0).runRows (packet 0x20 1 2 0 (leBytes 128 (0xBF800000 + 2 ^ 32))) p)) = some (some 0x0209) := by
  decide +kernel

theorem wit_RunRegisters : ((running 0).patternOn 0 1).bind ((running 0).resolveStep (packet 0x20 1 2 0 (leBytes 128 0))) = some 0x3F800000
    ∧ (running 0).handleFaults = running 0 ∧ (running 0).runner.votes = [] ∧ ∀ q, ((running 0).rport q).relays = [] := by
  refine ⟨by decide +kernel, by decide +kernel, by decide +kernel, fun q => ?_⟩
  simp only [State.rport, List.getD_eq_getElem?_getD]
  rcases Nat.lt_or_ge q 32 with h | h
  · simp [running, pour, led, opened, base, State.reset, Runner.init, Port.init, h]
  · simp [running, pour, led, opened, base, State.reset, Runner.init, Port.init, h]

/-- Pour 2 running on channel 0 in entry 0: an ENERGY_READ whose outcome is fixed, and a RUN whose cluster is at its end or that
has faulted. -/
def runs_ (op : Nat) (o : Option PourOutcome) (r : Option RunCtx) : State :=
  led { opened with
    accepted := [0]
    run := r
    running := [(0, some ⟨0, packet op 1 2 0 [], opClass op, o, none, 0, [], [], none⟩)]
    clusters := [(0, { Cluster.init with run := .ended })] } fun l => { l with entries := [(0, held .running op 2)] }

theorem wit_PourCommits : (runs_ 0x41 (some (completed 0 9 .nothing)) none).runningOf 0 ≠ none
    ∧ (runs_ 0x41 none none).boot.phase = .ready ∧ (runs_ 0x41 none none).riser.lost = false
    ∧ ((runs_ 0x41 none none).riser.current (runs_ 0x41 none none).sprue.activeB1).state ≠ .lost
    ∧ (runs_ 0x20 none (some attempt)).run = some attempt ∧ attempt.fault = none ∧ attempt.chan = 0
    ∧ ((runs_ 0x20 none (some attempt)).runPattern.map fun p => (decide (p.ranks ≤ 1), (runs_ 0x20 none (some attempt)).allEnded p))
        = some (true, true)
    ∧ (runs_ 0x20 none (some { attempt with fault := some (0x0301, false) })).run.bind (·.fault) = some (0x0301, false) := by decide +kernel

/-- MSI-X enabled with no vector masked. -/
def openMsix : MsixConfig := ⟨true, false, List.replicate 65 0⟩

/-- A final reply that waits; a ring of 64 slots that is full; and a close. -/
def replying (n : Nat) : State :=
  { opened with chans := [(0, { Chan.init with rtail := BitVec.ofNat 32 n, replyQ := [replyOf (held .done 0x41 2)] })] }
/-- The same with a duplicate of the close and one of another pour that wait for its final reply. -/
def closing (dups : List Word64) : State :=
  let s := runs_ 0x02 none none
  let s := led s fun l => { l with chans := [(0, { channel0 with state := .closing, accepted := 2, replied := 1 })] }
  { s with chans := [(0, { Chan.init with dups := dups })] }

theorem wit_RepliesWritten : (replying 63).replyReady 0 = true ∧ (replying 64).replyReady 0 = false ∧ (closing []).teardownReady 0 = true
    ∧ (closing [2, 3]).teardownReady 0 = true ∧ ((closing [2, 3]).vchan 0).dups.length = 2
    ∧ [0, 1, 2].all (fun j => (closing [2, 3]).ringRoom 0 j) = true
    ∧ ((closing [2, 3]).runningOf 0).map (fun r => ((closing [2, 3]).entry r.entry).opcode) = some 0x02
    ∧ ((closing [2, 3]).riser.current (closing [2, 3]).sprue.activeB1).state ≠ .lost ∧ ((replying 63).port .cope).maySend 0 = false
    ∧ ({ (replying 63).port .cope with msixConfig := openMsix }).maySend 0 = true
    ∧ ((replying 63).riser.current (replying 63).sprue.activeB1).state ≠ .lost := by decide +kernel

/-! ### Registers and the Assay -/

/-- A part in the RISER_LOST state. -/
def riserLost : State := { base with riser := { base.riser with lost := true } }

/-- A head count at the reply count and one past it; a running pour that is no RUN, and a RUN; regions 0 and 3 that pass; the last
CODE below 0x5249 and the first above it. -/
theorem wit_ChannelRegisters : base.hostReach .cope = true ∧ (replying 64).boot.phase = .ready ∧ (replying 64).hostReach .cope = true
    ∧ ((replying 64).chan 0).state ≠ .closed ∧ ((replying 64).chan 0).owner = .cope
    ∧ ((64 : Word32) - ((replying 64).vchan 0).rhead).toNat ≤ (((replying 64).vchan 0).rtail - ((replying 64).vchan 0).rhead).toNat
    ∧ (((replying 64).vchan 0).rtail - ((replying 64).vchan 0).rhead).toNat < ((65 : Word32) - ((replying 64).vchan 0).rhead).toNat
    ∧ base.resettable .cope 0 = none
    ∧ ((runs_ 0x41 none none).resettable .cope 0).map (fun r => decide (r.cls = .run)) = some false
    ∧ ((runs_ 0x20 none (some attempt)).resettable .cope 0).map (fun r => decide (r.cls = .run ∧ r.outcome = none)) = some true
    ∧ (runs_ 0x20 none (some attempt)).run = some attempt ∧ attempt.votedUp = false ∧ attempt.fault = none
    ∧ (let s := led (runs_ 0x20 (some (refusedAt 0x0201 0)) none) fun l => { l with
         entries := [(0, { held .running 0x20 2 with restartable := false })] }
       (s.resettable .cope 0).map (fun r => (decide (r.cls = .run), r.outcome.isSome, (s.entry r.entry).restartable)) = some (true, true, false))
    ∧ riserLost.riser.lost = true ∧ reinitRegions 9 = some (0, 3)
    ∧ (0x52480001 : Word32).toNat / 2 ^ 16 ≠ 0x5249 ∧ (0x52480001 : Word32).toNat / 2 % 2 ^ 15 = 0 := by decide +kernel

/-- Caps of 500 and 1,500 W, and of 499 and 1,501; a tripped part; window length 24; a sample control of MODE 1 and PERIOD 1; and
writes that are too narrow, of a reserved offset, and of 64 bits. -/
theorem wit_RegisterEffects : base.hostReach .drag = true ∧ base.boot.phase = .ready ∧ 500 ≤ (500 : Word32).toNat ∧ (1500 : Word32).toNat ≤ 1500
    ∧ (499 : Word32).toNat < 500 ∧ 1500 < (1501 : Word32).toNat
    ∧ ({ base with power := { base.power with tripped := true } }).power.tripped = true ∧ (24 : Word32).toNat ≤ 24
    ∧ sampleCtrlBad 0x40000001 = false ∧ (0x40000001 : Word32).toNat / 2 ^ 21 % 8 = 0
    ∧ ¬(16 = 32 ∧ 0 % 4 = 0) ∧ ¬(16 = 64 ∧ 0 % 8 = 0) ∧ regMask 0x3FFFFFC = none
    ∧ (match exec (.registerWrite .drag 0x300000 32 500) base with | .next t => t.hostReach .drag && decide (t.boot.phase = .ready) | _ => false)
        = true := by decide +kernel

theorem wit_AssayStopsPart : base.boot.phase = .ready ∧ base.assay.mode = .operational ∧ 1 ≤ (1 : BitVec 8).toNat ∧ (6 : BitVec 8).toNat ≤ 6 := by
  decide +kernel

/-- A cap written as a register takes its place. -/
theorem test_cap_write : (match exec (.registerWrite .drag 0x300000 32 700) base with | .next t => t.power.newCap | _ => none) = some 700 := by
  decide +kernel

/-! ### Engines -/

/-- Cluster 0 with a queue entry at the head of an engine, and weights of eight by eight in bank 0. -/
def queued (p : Pattern) (e : Engine) (q : QEntry) : State :=
  let s := coreWith [0x3F * 2 ^ 26] [] fun c => { c.setQueue e [q] with bank0 := ⟨true, 0, 0, false, 8, 8, Mem.zeros⟩ }
  { s with patterns := [(1, some { p with code := [(0, leBytes 4 (0x3F * 2 ^ 26))] })] }

/-- An entry of a record with descriptor lines. -/
def entryOf (v : Nat) (lines : List (Nat × Nat)) : QEntry :=
  { anyEntry with record := BitVec.ofNat 512 v, lines := lines.map fun l => (l.1, BitVec.ofNat 512 l.2) }

/-- The state in which an engine performs its head. -/
def atHead (s : State) (e : Engine) (q : QEntry) : State := s.updCl 0 fun c => c.takeHead e q

/-- The conditions of `headStarts` for cluster 0, computed. -/
def headB (s : State) (e : Engine) (op : EngineOp) (p : Pattern) (q : QEntry) : Bool :=
  let x := s.engCtx p 0 q false
  let s1 := atHead s e q
  s.runPattern = some p && (s.cl 0).head e = some q && s.attemptRuns 0 && s.headReady 0 e && (s.consumeClash 0 e q).isEmpty
    && op.check x = none && op.late x s = none && op.buffers x = none && !((s.cl 0).flights.any fun f => (op.prints x s).clash f.prints)
    && (match (op.perform x s1).2 with | .ok _ => true | .error _ => false)

theorem head_of {s : State} {e : Engine} {op : EngineOp} {p : Pattern} {q : QEntry} (h : headB s e op p q = true) :
    ∃ s' d, s.headStarts 0 e op q s' d := by
  simp only [headB, Bool.and_eq_true, decide_eq_true_eq, List.isEmpty_iff, Bool.not_eq_true'] at h
  obtain ⟨⟨⟨⟨⟨⟨⟨⟨⟨h1, h2⟩, h3⟩, h4⟩, h5⟩, h6⟩, h7⟩, h8⟩, h9⟩, h10⟩ := h
  generalize hr : op.perform (s.engCtx p 0 q false) (atHead s e q) = r at h10
  obtain ⟨s', d | d⟩ := r
  · cases h10
  · exact ⟨s', d, p, h1, h2, h3, h4, h5, h6, h7, h8, h9, hr⟩

/-- A tensor of the window of cluster 0, the `i`-th place of 4 KiB, of one dimension or two. -/
def tens (i fmt n : Nat) : Nat := windowBase + 4096 * i + fmt * 2 ^ 48 + 2 ^ 52 + n * 2 ^ 96
def tens2 (i fmt n m : Nat) : Nat := tens i fmt n + 2 ^ 52 + m * 2 ^ 128 + n * 2 ^ 288

/-- Instructions of MX and DR: WLOAD and a MATMUL of FP32 by the weights in bank 0, DRAIN of a row of eight, TCLR of tile 0. -/
def wload : QEntry := entryOf (2 + 64 * 2 ^ 96) [(64, tens2 1 0 8 1)]
def matmul : QEntry := entryOf (1 + 2 ^ 32 + 2 ^ 48 + 128 * 2 ^ 64) [(128, tens2 2 0 8 1)]
def drain : QEntry := entryOf (1 + 2 ^ 14 + 2 ^ 48 + 8 * 2 ^ 64 + 64 * 2 ^ 80) [(64, tens2 1 0 8 1)]
def tclr : QEntry := entryOf (2 + 2 ^ 14) []

/-- A specifier of a vector register, of a descriptor, and of a control register. -/
def vreg (r : Nat) : Nat := 3 * 2 ^ 29 + r
def vdesc (a : Nat) : Nat := 2 ^ 29 + a
def vscalar : Nat := 5 * 2 ^ 29 + 1

/-- An instruction of VX on FP32 vector registers, of one element. -/
def vxWord (r : VxRow) : Nat :=
  r.opc + (if r.cls = .reduce then 2 ^ 25 else 0) + (if r.cls = .count then 0 else vreg 3 * 2 ^ 32) + vreg 1 * 2 ^ 64
    + (if 2 ≤ r.srcs then vreg 2 * 2 ^ 96 else 0) + (if 3 ≤ r.srcs then vreg 4 * 2 ^ 128 else 0) + 2 ^ 288 + 2 ^ 304

/-- COMPRESS and EXPAND of eight rows, NORMSQ of eight elements, and UPDATE of sixteen elements with its block at 512. -/
def compress : QEntry :=
  { entryOf (0x40 + 2 ^ 28 + vdesc 192 * 2 ^ 32 + vdesc 64 * 2 ^ 64 + vdesc 128 * 2 ^ 96 + vscalar * 2 ^ 128 + vdesc 256 * 2 ^ 192)
      [(64, tens2 1 0 8 8), (128, tens 2 9 8), (192, tens2 3 0 8 8), (256, tens 4 9 8)] with scalars := [(128, 0)] }
def expand : QEntry :=
  entryOf (0x41 + 2 ^ 28 + vdesc 192 * 2 ^ 32 + vdesc 64 * 2 ^ 64 + vdesc 256 * 2 ^ 192)
    [(64, tens2 1 0 8 8), (192, tens2 3 0 8 8), (256, tens 4 9 8)]
def normsq : QEntry := { entryOf (0x50 + vdesc 64 * 2 ^ 64 + vscalar * 2 ^ 128) [(64, tens 1 0 8)] with scalars := [(128, 0)] }
def update : QEntry :=
  { entryOf (0x51 + vdesc 128 * 2 ^ 32 + vdesc 64 * 2 ^ 64 + vscalar * 2 ^ 128)
      ([(64, tens 1 0 16), (128, tens 2 1 16),
          (512, 576 + 640 * 2 ^ 16 + 704 * 2 ^ 32 + 768 * 2 ^ 48 + 832 * 2 ^ 64 + 896 * 2 ^ 80 + 0x3F000000 * 2 ^ 96
            + 0x3F000000 * 2 ^ 128 + 0x3F000000 * 2 ^ 160 + 0x3F000000 * 2 ^ 256 + 2 ^ 288)]
        ++ (List.range 6).map fun i => (576 + 64 * i, tens (3 + i) 0 16)) with scalars := [(128, 512)] }

/-- COPY of eight FP32 numbers from an address to another. -/
def copyRec (a b : Nat) : QEntry :=
  entryOf (1 + 0x2C688 * 2 ^ 9 + 64 * 2 ^ 32 + 128 * 2 ^ 48) [(64, a + 2 ^ 52 + 8 * 2 ^ 96), (128, b + 2 ^ 52 + 8 * 2 ^ 96)]
/-- COLL of the collective record 0, of eight FP32 numbers. -/
def coll : QEntry := entryOf (2 + 64 * 2 ^ 32 + 128 * 2 ^ 48) [(64, tens 1 0 8), (128, tens 2 0 8)]
def withColl (op : Nat) : Pattern :=
  { pat with engines := [(0, some 31)], colls := [⟨op, 0, 0, 0, false, false, 15, 0, 0, 0, 0⟩] }

/-- The pattern as `queued` loads it. -/
def coded (p : Pattern) : Pattern := { p with code := [(0, leBytes 4 (0x3F * 2 ^ 26))] }
/-- An instruction at the head of its engine starts. -/
def startsAt (p : Pattern) (e : Engine) (opc : Nat) (q : QEntry) (op : EngineOp) : Bool :=
  q.record.toNat % 256 = opc && headB (queued p e q) e op (coded p) q

theorem wit_ComputeIssues_tiles : startsAt pat .mx 1 matmul matmulOp = true ∧ startsAt pat .mx 2 wload wloadOp = true
    ∧ startsAt pat .dr 1 drain drainOp = true ∧ startsAt pat .dr 2 tclr tclrOp = true := by decide +kernel

theorem wit_ComputeIssues_vx : (vxRows.take 31).all (fun r => startsAt pat .vx r.opc (entryOf (vxWord r) []) (computeOp .vx r.opc)) = true := by
  decide +kernel

theorem wit_ComputeIssues_other : startsAt pat .vx 0x40 compress (computeOp .vx 0x40) = true
    ∧ startsAt pat .vx 0x41 expand (computeOp .vx 0x41) = true ∧ startsAt pat .vx 0x50 normsq (computeOp .vx 0x50) = true
    ∧ startsAt pat .vx 0x51 update (computeOp .vx 0x51) = true := by decide +kernel

/-- The context of an instruction at the head of its engine, and the state it performs in. -/
def ctxOf (e : Engine) (q : QEntry) : EngCtx := (queued pat e q).engCtx (coded pat) 0 q false
def readyFor (e : Engine) (q : QEntry) : State := atHead (queued pat e q) e q

/-- Operands that read: of a MATMUL of FP32 without PRELOAD, and of DRAINs of FP32 and of an integer view to INT8. -/
def drainInt : QEntry := entryOf (1 + 2 ^ 14 + 2 ^ 19 + 0xB * 2 ^ 23 + 2 ^ 48 + 8 * 2 ^ 64 + 64 * 2 ^ 80) [(64, tens2 1 0xB 8 1)]

theorem wit_ComputeIssues_values :
    (matmulReads (ctxOf .mx matmul) (parseMx matmul.record.toNat) (readyFor .mx matmul)).2.isOk = true
    ∧ (parseMx matmul.record.toNat).preload = false ∧ (mxGroup (parseMx matmul.record.toNat).aFmt).isSome = true
    ∧ [drain, drainInt].all (fun q => let r := parseDr q.record.toNat; let d := q.desc r.dDesc
        !d.accum && !r.outMx && decide (d.bitAddrs.length = r.rows * r.cols) && decide ((d.keyIndices (ctxOf .dr q).env).length = r.rows * r.cols)
          && (consumeTiles (readyFor .dr q) 0 ((List.range r.rows).flatMap fun m => (List.range r.cols).map fun n =>
              viewBit r.tile r.rowLog m n)).2.isOk
          && (drainOperand (ctxOf .dr q) r.scaleDesc 1 (readyFor .dr q)).2.isOk) = true
    ∧ (parseDr drain.record.toNat).integerPath = false ∧ (parseDr drainInt.record.toNat).integerPath = true
    ∧ (parseDr tclr.record.toNat).tile + (parseDr tclr.record.toNat).tileCount ≤ 64
    ∧ ((vxRows.take 31).filter fun r => r.cls != .count).all (fun r =>
        let q := entryOf (vxWord r) []
        let v := parseVx q.record.toNat
        (readAll (ctxOf .vx q) v (readyFor .vx q)).2.isOk && !v.dMx && !(q.desc v.d.desc).accum && v.d.kind == 3) = true
    ∧ (consume (readyFor .vx compress) (compress.desc (parseVx compress.record.toNat).b.desc).bitAddrs 32).2.isOk = true
    ∧ (readMask (ctxOf .vx compress) (parseVx compress.record.toNat) 8 (readyFor .vx compress)).2.isOk = true := by decide +kernel

/-- A reduction of one element, whose tree is its leaf. -/
theorem wit_ComputeIssues_tree : TreeVal (fun a b => a + b) [some 3] (some 3) ∧ 0 < 1 := ⟨.leaf _, by decide⟩

/-- The context of an all-reduce of eight FP32 numbers. -/
def reducing : CollCtx := collCtx ((queued (withColl 1) .st coll).engCtx (coded (withColl 1)) 0 coll false)

theorem wit_MoveIssues_values : 0 < reducing.size ∧ 7 < reducing.elems ∧ reducing.q < reducing.size
    ∧ (match reducing.readS ([(0, 5), (7, 6)].map (·.1)) (queued (withColl 1) .st coll) with
        | (_, .ok v) => decide (v.length = 2) && v.all (fun x => decide (x < 2 ^ 32))
        | _ => false) = true
    ∧ ([(0, 5), (7, 6)].map (·.1)).Nodup ∧ (∀ v ∈ [(0, 5), (7, 6)], v.2 < 2 ^ 32) := by decide +kernel

theorem wit_MoveIssues : startsAt pat .ld 1 (copyRec windowBase (windowBase + 32)) (copyOp .ld) = true
    ∧ [1, 2, 3, 4, 5].all (fun op => startsAt (withColl op) .st 2 coll (collOp .st)) = true := by decide +kernel

/-- A flight of a queue entry of an engine. -/
def flightOf (e : Engine) (q : QEntry) (cs : Option CopyState) : Flight :=
  ⟨0, e, q, false, Prints.none, List.replicate 8 0, none, none, 0, 0, false, false, cs, none⟩

/-- Cluster 0 with an instruction of DR in flight that posts token 255 and writes summary slot 15. -/
def flying (m : BitVec 256) : State :=
  coreWith [0x3F * 2 ^ 26] [] fun c => { c with tokens := m, flights := [flightOf .dr { tclr with post0 := some 255, slot := some 15 } none] }

theorem wit_InstructionCompletes :
    ((flying 0).cl 0).flight 0 = some (flightOf .dr { tclr with post0 := some 255, slot := some 15 } none) ∧ (flying 0).attemptRuns 0 = true
      ∧ (flying 0).run.bind (fun r => r.colls.find? fun n => n.g = 0 && n.idx = 0) = none
      ∧ (flying 0).flightDone (flightOf .dr { tclr with post0 := some 255, slot := some 15 } none) none = true
      ∧ { tclr with post0 := some 255, slot := some 15 }.posts = [255] ∧ ((flying 0).cl 0).token 255 = false
      ∧ ((flying (1#256 <<< 255)).cl 0).token 255 = true := by decide +kernel

/-- A MATMUL in flight whose tile words and flags become visible at its completion. -/
def flyingMx : State :=
  coreWith [0x3F * 2 ^ 26] [] fun c => { c with
    flights := [{ flightOf .mx matmul none with tiles := some (Patch.writeAll 32 [] [(0, 1)], 1) }] }

theorem wit_InstructionCompletes_tiles : (flyingMx.cl 0).flight 0 = some { flightOf .mx matmul none with tiles := some (Patch.writeAll 32 [] [(0, 1)], 1) }
    ∧ flyingMx.attemptRuns 0 = true ∧ flyingMx.faultFree = true ∧ (flying 0).faultFree = true
    ∧ flyingMx.flightDone { flightOf .mx matmul none with tiles := some (Patch.writeAll 32 [] [(0, 1)], 1) } none = true
    ∧ matmul.posts = [] := by decide +kernel

/-- An item of one step of DR at scalar address 64, armed with guard token 0. -/
def item : ArmedItem := ⟨0, 0, 1, 1, 64, some 0, true, 0, false, false, [0], Prints.none, [], 0⟩
def lending (m : Mem) : State :=
  let s := coreWith [0x3F * 2 ^ 26] [] fun c => { c with dmem := m, tokens := 1, lending := { Lending.none with active := true, items := [item] } }
  { s with patterns := [(1, some { coded pat with res := [(0, ⟨0, 256, 16, 0, 16⟩)] })] }

/-- The step's TCLR, and a record that is poisoned. -/
theorem wit_FillerActs :
    let s := lending (Mem.zeros.lay 64 (leBytes 64 (2 + 2 ^ 14)))
    let p := { coded pat with res := [(0, ⟨0, 256, 16, 0, 16⟩)] }
    let r := makeEntry p 0 .dr true 0 64 (fun _ => 0) s
    s.attemptRuns 0 = true ∧ s.runPattern = some p ∧ (s.cl 0).lending.open_ = [item] ∧ s.stepReady 0 item = true
      ∧ stepEngine item.drMap.toNat item.next = .dr ∧ r.2.toOption.isSome = true
      ∧ (startOp (opOf .dr (2 + 2 ^ 14)) (r.1.engCtx p 0 { tclr with addr := 64 } true) .dr id r.1).attemptRuns 0 = true := by decide +kernel

theorem wit_FillerActs_fault :
    let s := lending (Mem.zeros.writePoison (.priv 0) 2 (List.replicate 32 0))
    let p := { coded pat with res := [(0, ⟨0, 256, 16, 0, 16⟩)] }
    s.runPattern = some p ∧ (s.cl 0).lending.open_ = [item] ∧ s.stepReady 0 item = true
      ∧ (makeEntry p 0 .dr true 0 64 (fun _ => 0) s).2.toOption = none := by decide +kernel

/-- A COPY of eight FP32 numbers from address 0 of HBM to address 32, with phase 0 owned by LD of cluster 0. -/
def hbmCopy (cs : CopyState) : State :=
  let s := coreWith [0x3F * 2 ^ 26] [] fun c => { c with flights := [flightOf .ld (copyRec 0 32) (some cs)] }
  { s with patterns := [(1, some { coded pat with hbm := leBytes 2 0x4000 })] }
/-- With nothing read yet, and with the eight elements read. -/
def unread : CopyState := ⟨0, [], false, [], [], none, [], [], none, false⟩
def allRead : CopyState := { unread with got := List.replicate 8 (0, false) }
def copyCtx : CopyCtx :=
  let s := hbmCopy unread
  copyCtxOf { coded pat with hbm := leBytes 2 0x4000 } 0 .ld (s.engCtx { coded pat with hbm := leBytes 2 0x4000 } 0 (copyRec 0 32) false)

/-- The read of its one group, the write, and phase 63, which it does not own. -/
theorem wit_PhaseAccess : (hbmCopy unread).attemptRuns 0 = true
    ∧ (hbmCopy unread).runPattern = some { coded pat with hbm := leBytes 2 0x4000 }
    ∧ copyCtx.plan.srcPeer = none ∧ copyCtx.plan.dstPeer = none
    ∧ (List.range 8).all (fun j => (elemCws copyCtx.plan.w (copyCtx.plan.src.getD j 0) ++ elemCws copyCtx.plan.w (copyCtx.plan.dst.getD j 0)).all
        fun k => !accessFree copyCtx.die (32 * k)) = true
    ∧ readWant copyCtx.plan unread ≠ 0 ∧ readWant copyCtx.plan allRead = 0
    ∧ (elemCws copyCtx.plan.w (copyCtx.plan.src.getD (readAt unread) 0)).find? (fun k => !unread.started.contains k) = some 0
    ∧ (codewordsOf copyCtx.plan.w ((List.range allRead.got.length).map fun k => copyCtx.plan.dst.getD (allRead.next + k) 0)).find?
        (fun k => !allRead.started.contains k) = some 1
    ∧ accessIn copyCtx.pat copyCtx.q copyCtx.die false 0 0 = true ∧ accessIn copyCtx.pat copyCtx.q copyCtx.die true 32 0 = true
    ∧ (hbmCopy unread).floorRuns 0 false 0 = true
    ∧ copyCtx.plan.unit = 8 ∧ copyCtx.plan.total = 8
    ∧ accessIn copyCtx.pat copyCtx.q copyCtx.die false 0 63 = false ∧ accessIn copyCtx.pat copyCtx.q copyCtx.die true 32 63 = false := by
  decide +kernel

/-- A part with BIST of spare 64 of B0 for cluster 0, whose position 0 is retired, and clusters that wait. -/
def bisted (w : List WaitingFault) : State :=
  led { base with ident := { base.ident with bist0 := some 64, spares0 := [65], waiting := w } } fun l => { l with retired0 := 1 }
/-- A part with no spare left on B1. -/
def unspared : State := { base with ident := { base.ident with spares1 := [] } }

/-- The last mapped positions of B0 and B1. -/
theorem wit_ClusterFaults :
    base.clusterAt false 63 = some 63 ∧ base.run = none ∧ base.boot.phase = .ready
      ∧ base.ident.bist false = none ∧ base.ident.waiting = [] ∧ base.ident.spares false = [64, 65]
      ∧ unspared.clusterAt true 63 = some 127 ∧ unspared.ident.spares true = [] ∧ unspared.ident.bist true = none
      ∧ (core [0x3F * 2 ^ 26] []).attemptUses 0 = true ∧ (core [0x3F * 2 ^ 26] []).clusterAt false 0 = some 0
      ∧ (base.riser.current base.sprue.activeB1).state ≠ .lost
      ∧ (bisted []).ident.bist false = some 64 ∧ (bisted []).ident.waiting = []
      ∧ (bisted [⟨0, 0, 0x0302, false, true⟩]).ident.waiting = [⟨0, 0, 0x0302, false, true⟩]
      ∧ Tab.get none (bisted [⟨0, 0, 0x0302, false, true⟩]).ident.clmap 0 = some 0
      ∧ (bisted [⟨0, 0, 0x0302, false, true⟩]).ident.spares false = [65] ∧ onB1 0 = false ∧ (65 : Nat) ≠ 64 := by decide +kernel

/-! ### Runner ports -/

/-- Rank 0 of a flask of two ranks: port 0 leads to port 0 of chip 1, which is rank 1. -/
def flask : FlaskRecord := ⟨5, 2, 0, false, (List.range 32).map fun p => if p = 0 then (1, 0, 1, 1) else (0, 0, 0, 0)⟩

/-- The pattern of two ranks with one buffer at 0x1000 of 64 bytes, written by either side; stream engine 0 serves port 0 and owns
phase 0 of the pseudo-channel there. -/
def pat2 : Pattern :=
  { coded pat with
    sizes := [2, 1, 1, 1]
    bufs := [⟨2, 0x1000, 0, 64⟩]
    engines := [(0, some 0)]
    colls := [⟨7, 0, 0, 0, false, false, 15, 0, 1, 0, 0⟩]
    hbm := List.replicate 512 0 ++ leBytes 2 0x8000 }

/-- A running RUN of that pattern in the flask, with port `p` changed. -/
def joined (p : Nat) (f : Port → Port) : State :=
  let s := core [0x3F * 2 ^ 26] []
  { s with
    patterns := [(1, some pat2)]
    runner := { Runner.init with
      flask := some flask
      ports := (List.range 32).map fun q => if q = p then f (Port.init q) else Port.init q }
   }

/-- A port in service that awaits frame 9. -/
def serving (o : Port) : Port := { o with state := .admitted, rxSeq := 9 }

/-- A frame of the flask, and one of another. -/
def inFlask (f : Frame) (seq : BitVec 48) : Frame := { f with flaskId := 5, seq := seq }

/-- The first and the last port, in service, down and dark. -/
theorem wit_FramesArrive :
    [0, 31].all (fun p => ((joined p serving).rport p).state.inService && decide (((joined p serving).lport p).rxLanes = 0)
        && ((joined p serving).rport p).txQ.isEmpty && decide (((joined p serving).rport p).rxSeq = 9)
        && !((joined p fun o => { o with state := .down }).rport p).state.inService
        && !((joined p fun o => { o with state := .down }).rport p).state.isDark
        && ((joined p id).rport p).state.isDark) = true
    ∧ (joined 0 serving).flaskId = 5 ∧ (inFlask (frameOf 0 1 0 []) 9).flaskId = 5 ∧ (frameOf 0 1 0 []).flaskId ≠ 5
    ∧ (inFlask (frameOf 0 1 0 []) 9).seq = 9 ∧ (inFlask (frameOf 0 1 0 []) 8).seq ≠ 9 ∧ (inFlask (frameOf 0 1 0 []) 9).nak = false
    ∧ ((joined 0 fun o => { serving o with nakCount := 6 }).rport 0).nakCount < 7
    ∧ 7 ≤ ((joined 0 fun o => { serving o with nakCount := 7 }).rport 0).nakCount
    ∧ ({ inFlask (frameOf 0 1 0 []) 9 with nak := true }).nak = true ∧ ((joined 0 serving).rport 0).newNak 0 0 = true
    ∧ ((joined 0 serving).rport 0).heardNaks < 7
    ∧ (let o := (joined 0 fun o => { serving o with heardNaks := 7, heardFor := 0 }).rport 0
       o.newNak 0 72 = true ∧ o.heardNaks = 7 ∧ o.heardFor = 0) := by decide +kernel

/-- No lane is in service that could leave it, whole frame or damaged. -/
theorem wit_FramesArrive_lanes (f : Frame) : (joined 0 serving).lanesHold 0 f := by
  have h : lanesOf (((joined 0 serving).lport 0).rxLanes &&& ((joined 0 serving).lport 0).rxWant) = [] := by decide +kernel
  intro i hi
  rw [h] at hi
  cases hi

/-- A frame delivered, computed. -/
def takesB (s : State) (p : Nat) (f : Frame) : Bool := (s.arrive p f).2 && decide (f.type.toNat < 7)

theorem takes_of {s : State} {p : Nat} {f : Frame} (h : takesB s p f = true) : s.takesFrame (s.arrive p f).1 p f := by
  simp only [takesB, Bool.and_eq_true, decide_eq_true_eq] at h
  exact ⟨Prod.ext rfl h.1, h.2⟩

/-- The frames: STREAM_DATA of tag 0 and of tag 6, which a RECV in flight awaits; a START, a VOTE_UP and a VOTE_DOWN. -/
def stream (tag : Nat) : Frame := inFlask (frameOf 1 1 (BitVec.ofNat 64 (tag * 2 ^ 18)) (leBytes 32 1)) 9
def control (kind : Nat) : Frame := inFlask (frameOf 5 1 (BitVec.ofNat 64 kind) (leBytes 32 0)) 9

/-- The port with a RECV of eight FP32 numbers in flight. -/
def receiving : State :=
  let s := (joined 0 serving).updCl 0 fun c => { c with
    flights := [{ flightOf .st (entryOf (2 + 128 * 2 ^ 48) [(128, tens 2 0 8)]) none with coll := some 0 }] }
  { s with run := some { attempt with colls := [⟨0, 0, 0, .st, 0, true, 0, 2, [⟨1, 1, 6, 32, 0, []⟩], [], Mem.zeros, [], [], [], true, [], [0, 0, 0, 0, 0]⟩] } }

theorem wit_ControlFrames : takesB receiving 0 (stream 0) = true ∧ takesB receiving 0 (stream 6) = true
    ∧ (∀ k ∈ [1, 2, 3], takesB receiving 0 (control k) = true) ∧ frameDest (stream 0) = receiving.rank ∧ frameDest (control 1) = receiving.rank
    ∧ receiving.streamOf (frameTag (stream 0)) = none
    ∧ ((receiving.streamOf (frameTag (stream 6))).bind fun x => (receiving.collCtxOf x.1).bind fun c => c.recvSpecs[x.2]?).isSome = true
    ∧ frameKind (control 1) = 1 ∧ (joined 0 serving).startFor (parseStart (control 1)) = none ∧ frameKind (control 2) = 2
    ∧ ({ joined 0 serving with run := none }).run = none
    ∧ ({ joined 0 serving with run := none }).staleVote 1 = false ∧ ({ joined 0 serving with run := none }).staleVote 0 = true
    ∧ attempt.fault = none ∧ (parseVote (inFlask (frameOf 5 1 2 (leBytes 32 1)) 9)).2.1 ≠ attempt.runSeq ∧ frameKind (control 3) = 3 ∧ receiving.runPattern = some pat2 ∧ 1 < pat2.ranks
    ∧ attempt.verdict = none := by decide +kernel

/-- Board accesses to the last codeword of the buffer and one past it. -/
def access (write : Bool) (a : Nat) : BoardAccess := ⟨write, a, 3, 1, leBytes 32 1, []⟩
def boarding (b : BoardAccess) : State := joined 0 fun o => { serving o with boards := [b] }

/-- A COPY that waits for the response of tag 3 to a read. -/
def asking : State :=
  (joined 0 serving).updCl 0 fun c => { c with flights := [flightOf .ld (copyRec 0 32) (some { unread with asked := some 3 })] }
/-- Its response, with data or with a code. -/
def response (code : Bool) : Frame :=
  inFlask (frameOf 4 1 (if code then boardArg 3 0 ||| (1#64 <<< 45) else boardArg 3 0) (leBytes 32 0x0204)) 9

theorem wit_BoardFrames : takesB { joined 0 serving with run := none } 0 (inFlask (frameOf 2 1 (boardArg 3 0x1020) []) 9) = true
    ∧ takesB { joined 0 serving with run := none } 0 (inFlask (frameOf 3 1 (boardArg 3 0x1020) (leBytes 32 1)) 9) = true
    ∧ [true, false].all (fun w => (boarding (access w 0x1020)).mayRelay
        && decide ((boarding (access w 0x1020)).boardCode pat2 0 (access w 0x1020) 0x1020 = none)
        && decide ((boarding (access w 0x1020)).boardEngine pat2 0 = some 0) && accessIn pat2 (.stream 0) 0 w 0x1020 0
        && (boarding (access w 0x1020)).floorRuns 0 w 0x1020
        && decide ((boarding (access w 0x1040)).boardCode pat2 0 (access w 0x1040) 0x1040 = some 0x0204)) = true
    ∧ (boarding (access false 0x1020)).runPattern = some pat2 ∧ translateAddr pat2 0 true 0x1020 = 0x1020
    ∧ translateAddr pat2 0 false 0x1040 = 0x1040
    ∧ [false, true].all (fun k => takesB asking 0 (response k)
        && ((response k).arg.getLsbD 45 == k) && decide ((frameXfer (response k)).toNat / 2 ^ 15 = attempt.attempt)
        && ((asking.arrive 0 (response k)).1.askedBy (frameXfer (response k))).isSome) = true
    ∧ asking.run = some attempt
    ∧ (asking.rport 0).txQ = [] ∧ (asking.rport 0).replay.length < 512 := by
  decide +kernel

/-- Port 0 in a stage of training. -/
def trains (stage : Nat) (sent got : BitVec 2) : State :=
  joined 0 fun o => { o with state := .training, stage := stage, sentVerdict := sent, gotVerdict := got }

/-- 14 lanes that pass, and 13; an enabling write confirmed, and not; the source absent. -/
theorem wit_TrainingStages : (∀ n ∈ [1, 2, 3, 4, 5, 6], (trains n 1 1).atStage 0 n)
    ∧ (trains 1 0 0).light.srcPresent.getLsbD 0 = true ∧ (trains 1 0 0).light.enabling.getLsbD 0 = false
    ∧ (let s := trains 1 0 0; { s with light := { s.light with enabling := 1 } }).light.enabling.getLsbD 0 = true
    ∧ (let s := trains 1 0 0; { s with light := { s.light with srcPresent := 14 } }).light.srcPresent.getLsbD 0 = false
    ∧ (lanesOf 0x3FFF).length = 14 ∧ (lanesOf 0x1FFF).length = 13 ∧ ((List.replicate 14 goodScan).filter lanePasses).length = 14 ∧ 0 < (trains 2 0 0).light.ports.length
    ∧ ((trains 6 1 1).rport 0).sentVerdict = 1 ∧ ((trains 6 1 1).rport 0).gotVerdict = 1 := by
  unfold State.atStage; decide +kernel

/-- The peer's record, and those of another flask and of a VERDICT. -/
def peerRecord (f : BitVec 16) (v : BitVec 2) : IdRecord :=
  { IdRecord.zero with flaskId := f, chipId := 1, rank := 1, major := 1, arithFp := (trains 4 0 0).assay.image.arithFp, verdict := v }

theorem wit_IdentityChecks : ((trains 4 0 0).rport 0).state = .training ∧ ((trains 6 0 0).rport 0).stage = 6
    ∧ (trains 4 0 0).checkIdentity 0 0 (peerRecord 5 0) = .ok 0 ∧ (peerRecord 5 0).verdict ≠ 2 ∧ (peerRecord 5 2).verdict = 2
    ∧ (match (trains 4 0 0).checkIdentity 0 0 (peerRecord 4 0) with | .error _ => true | .ok _ => false) = true
    ∧ ((trains 4 1 0).rport 0).sentVerdict = 1 ∧ (peerRecord 5 1).verdict = 1 := by decide +kernel

/-- Ports 0 and 29 are lost with a spare free and with none; spare 30 and a port of a join run out of time. -/
theorem wit_PortsLost : ((joined 29 serving).rport 29).state.inService = true ∧ (joined 0 serving).freeSpare 0 = some 30
    ∧ (joined 29 serving).freeSpare 29 = some 31 ∧ 31 < (joined 29 serving).runner.ports.length ∧ (joined 0 serving).run = some attempt
    ∧ attempt.fault = none ∧ attempt.votedUp = false ∧ (joined 0 serving).runner.retrains = [] ∧ (0 : BitVec 5).toNat ∉ ([] : List Nat)
    ∧ (let s := joined 30 fun o => { o with state := .training, standsFor := 4 }
       let s := { s with runner := { s.runner with retrains := [4] } }
       (s.rport 30).state = .training ∧ (s.rport 30).standsFor.toNat ∈ s.runner.retrains)
    ∧ ((joined 0 serving).riser.current (joined 0 serving).sprue.activeB1).state ≠ .lost
    ∧ (let s := joined 0 serving; { s with runner := { s.runner with spares := 0 } }).freeSpare 0 = none
    ∧ ((joined 0 id).rport 0).state.inService = false
    ∧ ((joined 30 fun o => { o with state := .training }).rport 30).state = .training
    ∧ ((joined 31 fun o => { o with state := .training }).rport 30).state ≠ .training
    ∧ (let s := joined 0 fun o => { o with state := .training }
       let s := { s with running := [(0, some ⟨0, packet 0x50 0 2 0 [], .exclusive, none, none, 1, [], [], none⟩)] }
       s.runningOf 0 = some ⟨0, packet 0x50 0 2 0 [], .exclusive, none, none, 1, [], [], none⟩
         ∧ (packet 0x50 0 2 0 []).opcode = 0x50 ∧ (s.rport 0).state = .training) := by decide +kernel

/-- A FLASK_JOIN whose live port 0 leads to a chip. -/
def joinPay (chip : Nat) : Nat := 5 + 2 * 2 ^ 64 + (chip + 2 ^ 32 + 2 ^ 72) * 2 ^ 256
def joining (chip : Nat) : State := pour 0x50 0 (leBytes 544 (joinPay chip))
/-- Port 0 with its eye-safety state SHUT. -/
def shut (s : State) : State := { s with light := { s.light with ports := { PortLight.init with eye := .shut } :: List.replicate 31 PortLight.init } }
def leaving : State := { pour 0x51 0 [] with runner := { Runner.init with flask := some flask } }
def margined : State :=
  { pour 0x52 0 (leBytes 16 1) with
    runner := { Runner.init with ports := (List.range 32).map fun q => if q = 0 then serving (Port.init q) else Port.init q } }

set_option maxRecDepth 20000 in
theorem wit_FlaskPours : startsB (joining 1) 0x50 [] = true ∧ (joining 1).runner.flask = none ∧ (joining 1).runner.ports.length = 32
    ∧ (joinRecord (bodyRead (joining 1) []).2.pay).live = [0]
    ∧ transitOk (joining 1).ident.chipId.toNat 0 ((joinRecord (bodyRead (joining 1) []).2.pay).port 0) = true
    ∧ startsB (shut (joining 1)) 0x50 [] = true ∧ ((shut (joining 1)).lport 0).eye = .shut
    ∧ startsB (joining 9) 0x50 [] = true
    ∧ transitOk (joining 9).ident.chipId.toNat 0 ((joinRecord (bodyRead (joining 9) []).2.pay).port 0) = false
    ∧ startsB leaving 0x51 [] = true ∧ leaving.runner.flask = some flask
    ∧ startsB margined 0x52 [] = true ∧ (bodyRead margined []).2.pay % 2 ^ 30 = 2 ^ 0 ∧ margined.testedPort 0 = 0
    ∧ (margined.rport 0).state ≠ .dark ∧ (margined.lport 0).eye ≠ .shut := by decide +kernel

/-! ### Lanes, rings and eye safety -/

/-- The optics of port `p` changed, on a port in service or training. -/
def lit (p : Nat) (o : PortLight) (f : Port → Port) : State :=
  let s := joined p f
  { s with light := { s.light with
      ports := (List.range 32).map (fun q => if q = p then o else PortLight.init)
      outEn := 1#32 <<< p } }

/-- Sixteen lanes in lock, with lane 15 out, and with a change that asks for it. -/
def allLanes : PortLight :=
  { PortLight.init with pass := 0xFFFF, txLanes := 0xFFFF, rxLanes := 0xFFFF, rxWant := 0xFFFF, txLocked := 0xFFFF, rxLocked := 0xFFFF }
def lane15Out : PortLight := { allLanes with rxLanes := 0x7FFF, rxWant := 0x7FFF }
def asked15 : PortLight := { lane15Out with rxAsked := some 0xFFFF, rxWant := 0xFFFF }

/-- The rings of lane 15 of port 31 resweept for the third time. -/
def sweeps : PortLight := { lane15Out with sweeping := 0x80008000, resweeps := [(15, 2), (31, 2)] }

theorem wit_LaneChanges : ((lit 31 allLanes serving).rport 31).state.inService = true ∧ (31 : Nat) < (lit 31 allLanes serving).light.ports.length
    ∧ ((lit 31 allLanes serving).lport 31) = allLanes ∧ asked15.rxAsked = some 0xFFFF
    ∧ (1 : BitVec 8) = asked15.changeRx + 1 ∧ ¬((1 : BitVec 8) = allLanes.changeRx + 1 ∧ allLanes.rxAsked = some 0x3FFF)
    ∧ ¬(allLanes.agreed = 1 ∧ allLanes.lastRx = 0x3FFF) ∧ (0x3FFF : BitVec 16) ≠ allLanes.txLanes
    ∧ ({ allLanes with agreed := 1, lastRx := 0x3FFF }).agreed = 1 ∧ 14 ≤ (lanesOf 0x3FFF).length ∧ (lanesOf 0x1FFF).length < 14
    ∧ (2 : BitVec 8) ≠ allLanes.changeTx + 1
    ∧ acceptedOf ⟨[-3, 4], [4]⟩ = some 8000 ∧ acceptedOf ⟨[-150, 150], [-150, 150]⟩ ≠ none ∧ acceptedOf ⟨[1], []⟩ = none
    ∧ allLanes.sweeping.getLsbD (ringOf .rx 15) = false ∧ allLanes.sweeping.getLsbD (ringOf .tx 15) = false
    ∧ sweeps.sweeping.getLsbD (ringOf .rx 15) = true ∧ sweeps.sweeping.getLsbD (ringOf .tx 15) = true
    ∧ lane15Out.rxWant.getLsbD 15 = false ∧ lane15Out.pass.getLsbD 15 = true ∧ lane15Out.rxLocked.getLsbD 15 = true
    ∧ lane15Out.sweeping.getLsbD 15 = false ∧ lane15Out.lost.getLsbD 15 = false ∧ lane15Out.rxAsked = none ∧ lane15Out.rxLanes.getLsbD 15 = false
    ∧ 14 ≤ (lanesOf (lane15Out.rxWant ||| (1#16 <<< 15))).length ∧ 150 ≤ laneMargin goodScan
    ∧ laneMargin { goodScan with high := (40, 200) } < 150
    ∧ (20000 : Int).natAbs ≤ 20000 ∧ 20000 < (-20001 : Int).natAbs ∧ ((lit 31 allLanes serving).rport 31).state.isDark = false
    ∧ allLanes.rxLanes.getLsbD 15 = true ∧ allLanes.rxWant.getLsbD 15 = true
    ∧ 14 ≤ (lanesOf (allLanes.rxWant &&& ~~~(1#16 <<< 15))).length ∧ (lanesOf ((0x3FFF : BitVec 16) &&& ~~~(1#16 <<< 13))).length < 14 := by
  decide +kernel

/-- A floor-link direction with lanes out, and every ring of the link in lock or none. -/
def floorState (out : BitVec 400) (locked : Bool) : State :=
  { base with light := { base.light with floorOut0 := out, floorLocked := if locked then BitVec.allOnes 1600 else 0 } }

/-- Lane 399, in service and out, its rings in lock or not, resweept twice and three times, and a part without its clock; two lanes out. -/
theorem wit_LaneChanges_floor : (floorState 0 true).floorLit = true ∧ ((floorState 0 true).light.out 0).getLsbD 399 = false
    ∧ (let s := floorState 0 true; { s with power := { s.power with stopped := true } }).floorLit = false
    ∧ [399, 1199].all (fun k => (floorState 0 true).light.floorLock k && !(floorState (1#400 <<< 399) false).light.floorLock k
        && decide (Tab.get 0 (floorState (1#400 <<< 399) false).light.floorSweeps k < 3)) = true
    ∧ ((floorState (1#400 <<< 399) false).light.out 0).getLsbD 399 = true
    ∧ (let s := floorState (1#400 <<< 399) false
       3 ≤ Tab.get 0 ({ s with light := { s.light with floorSweeps := [(399, 3)] } }).light.floorSweeps 399)
    ∧ (floorState (1#400 <<< 399) true).light.floorHeld 0 399 = true ∧ (floorState (1#400 <<< 399) false).light.floorHeld 0 399 = false
    ∧ (floorState 3 false).floorStopped 0 = true ∧ (floorState 3 false).floorLit = true ∧ 399 = 16 * 24 + 15
    ∧ (floorState 3 false).light.floorStall.getLsbD 0 = false ∧ (floorState 1 true).floorStopped 0 = false
    ∧ floorMislocked 399 (List.replicate 9 0) = false
    ∧ floorMislocked 399 (scramble (floorSeed 398) (List.replicate 9 0)) = true
    ∧ (floorState 1 true).light.out 0 ≠ 0 ∧ ((floorState 1 true).light.out 0).getLsbD 399 = false
    ∧ floorDamaged ((1 : BitVec 400) <<< floorLane 0 0 ||| (1 : BitVec 400) <<< floorLane 0 35) 0 = true := by decide +kernel

/-- Source 3 with a write that is not confirmed yet, that disables or not. -/
def writes (disables : Bool) : State :=
  let s := lit 31 { allLanes with eye := .shut, probing := true, passes := 1 } fun o => { o with state := .training, stage := 1 }
  { s with light := { s.light with writing := 8, disabling := if disables then 8 else 0, enabling := 1#32 <<< 31 } }

theorem wit_EyeSafety : ((lit 31 allLanes serving).lport 31).eye ≠ .shut ∧ (lit 31 allLanes serving).light.outEn.getLsbD 31 = true
    ∧ (lit 31 allLanes serving).lshut 3 = false ∧ (lit 31 allLanes fun o => { o with state := .training }).lshut 3 = false
    ∧ ((lit 31 allLanes fun o => { o with state := .training }).rport 31).state = .training
    ∧ ((lit 31 { allLanes with eye := .shut } id).lport 31).eye = .shut ∧ ((lit 31 { allLanes with eye := .shut } id).lport 31).probing = false
    ∧ (lit 31 { allLanes with eye := .shut } id).pins.vddAon = true
    ∧ ((writes true).lport 31).probing = true ∧ (writes true).light.outputs 3 = 0x80 ∧ (0 : BitVec 8) ≠ (writes true).light.outputs 3
    ∧ (writes true).lshut 3 = false ∧ (writes true).light.writing.getLsbD 3 = true ∧ (writes true).light.disabling.getLsbD 3 = true
    ∧ (writes false).light.enabling.getLsbD 31 = true ∧ ((writes false).rport 31).state = .training ∧ ((writes false).rport 31).stage = 1
    ∧ (lit 31 allLanes serving).light.writing.getLsbD 3 = false := by decide +kernel

/-! ### Power, counters and health -/

/-- A ready part with the sequencer of domain `k` as given. -/
def seqAt (k : Nat) (q : Sequencer) : State := { base with power := { base.power with seq := Tab.put Sequencer.init base.power.seq k q } }

/-- The last group, the first and the last stack, and the last port; what keeps a group and a stack awake; a core that has halted, and one
that stalls. -/
theorem wit_Sequencers :
    [17, 18, 25, 57].all (fun k => decide ((seqAt k ⟨.rising, .none, true⟩).seq k = ⟨.rising, .none, true⟩)
        && decide ((seqAt k ⟨.rising, .disable, true⟩).seq k = ⟨.rising, .disable, true⟩)
        && decide ((seqAt k ⟨.falling, .none, true⟩).seq k = ⟨.falling, .none, true⟩)
        && decide ((seqAt k ⟨.off, .enable, false⟩).seq k = ⟨.off, .enable, false⟩)) = true
    ∧ (base.seq 17).state = .on ∧ base.groupBusy 17 = false ∧ base.groupTested 17 = false
    ∧ (base.groupOf 17).all (fun g => decide ((base.cl g).gate.g ≤ 1)) = true ∧ (base.seq 25).state = .on ∧ base.run = none
    ∧ base.err.offTest ≠ some 17 ∧ (core [0x3F * 2 ^ 26] []).groupBusy 0 = true ∧ (core [0x3F * 2 ^ 26] []).run.isSome = true
    ∧ ((coreWith [0x3F * 2 ^ 26] [] fun c => { c with run := .halted }).cl 0).unused = false
    ∧ (coreWith [0x3F * 2 ^ 26] [] fun c => { c with run := .halted }).ballastCycles 0 = 0
    ∧ (stalled 0).run.isSome = true ∧ ((stalled 0).cl 0).unused = false ∧ (stalled 0).ballastCycles 0 = 0
    ∧ ((coreWith [0x3F * 2 ^ 26] [] fun c => { c with run := .halted }).cl 0).run = .halted
    ∧ ((coreWith [0x3F * 2 ^ 26] [] fun c => { c with run := .halted }).cl 0).flights = [] ∧ ((stalled 0).cl 0).stall.isSome = true
    ∧ ((stalled 0).cl 0).run = .running ∧ ((stalled 0).cl 0).flights = [] := by decide +kernel

/-- A pour that a gate step found running, and cluster 0 with a hint that waits, one in its last step, and none. -/
def stepping (h : Option (Nat × Nat)) (hold : Nat) : State :=
  let s := runs_ 0x20 none (some attempt)
  { s with
    power := { s.power with ran := [(0, 2)], measured := true, meas := 300, avg := 200 }
    clusters := [(0, { Cluster.init with run := .running, gate := { Gate.init with g := 4, hint := 9, hold := hold, newHint := h } })] }

theorem wit_GateStep_hints : (stepping (some (16, 255)) 0).clusterOn 0 = true ∧ ((stepping (some (16, 0)) 0).cl 0).gate.newHint = some (16, 0)
    ∧ ((stepping none 1).cl 0).gate.newHint = none ∧ ((stepping none 2).cl 0).gate.hold = 2 ∧ (stepping none 2).pourOf 0 = some 2
    ∧ (stepping none 2).power.ran.countP (fun x => decide (x.1 = 0) && decide ((stepping none 2).pourOf 0 = some x.2)) = 1
    ∧ (joined 0 serving).runner.flask.isSome = true := by decide +kernel

/-- A gate step that is due, one that is not, and one that has been made; sensors of 100 and 98 °C. -/
theorem wit_GateStep : base.boot.phase = .ready ∧ base.cnt.regs.time.toNat % 1600 = 0 ∧ base.power.stepAt ≠ some base.cnt.regs.time
    ∧ ({ base with power := { base.power with stepAt := some 0 } }).power.stepAt = some base.cnt.regs.time
    ∧ base.power.distrust = false ∧ base.power.measured = false ∧ hottest [6272, 6400, 0x8000] = 6400
    ∧ base.clusterOn 0 = true ∧ base.clusterOn 127 = true ∧ (seqAt 0 Sequencer.init).clusterOn 0 = false
    ∧ (6400 : BitVec 16).toInt = 6400 ∧ (6272 : BitVec 16).toInt ≤ 6272
    ∧ (let s := { base with cnt := { base.cnt with regs := { base.cnt.regs with time := 1599 } } }
       s.cnt.regs.time.toNat % 1600 ≠ 0) := by decide +kernel

theorem wit_MeasuredPower :
    (let s := { base with power := { base.power with cap := 700, estSum := 900000 * 79, estCount := 79 } }
     s.boot.phase = .ready ∧ 0 < s.power.estCount ∧ none ∈ [some (700, 1000), none, some (1, 1)]
       ∧ measuredPower [some (700, 1000000), some (1, 60000)] = some 700 ∧ s.power.distrust = false ∧ 78 < s.power.above + s.power.estCount
       ∧ (s.power.cap.toNat : Int) < 5 * (900 - 759) ∧ (5 * (900 - 760) : Int) ≤ s.power.cap.toNat)
    ∧ base.pins.vddAon = true ∧ base.pins.pwrgdMain = true ∧ base.power.stopped = false
    ∧ (base.riser.current base.sprue.activeB1).state ≠ .lost
    ∧ ({ base with power := { base.power with stopped := true } }).power.stopped = true := by decide +kernel

/-- A sampler of MODE 2 with `n` records, with RING or not, and a record due at cycle 9 within the PCs 0 and 4. -/
def sampling (n : Nat) (again : Bool) : State :=
  let s := core [0x3F * 2 ^ 26] []
  { s with cnt := { s.cnt with regs := { s.cnt.regs with
      samp := [(0, { Sampler.init with ctrl := if again then 0xA0000001 else 0x80000001, count := n, owed := [⟨9, [0, 4], 7⟩] })]
      ctr := [(ctrCluster 0 0, ⟨63, false⟩)] } } }

/-- A part at a chip-local time, with the window length of unit 41 as given. -/
def atTime (t : Nat) (w : BwUnit) : State :=
  { base with cnt := { base.cnt with regs := { base.cnt.regs with time := BitVec.ofNat 64 t, bw := [(41, w)] } } }

theorem wit_CountersAndHealth : (Tab.get Sampler.init (sampling 255 false).cnt.regs.samp 0).owed = [⟨9, [0, 4], 7⟩]
    ∧ [0, 4].contains (4 : BitVec 18).toNat = true ∧ [0, 4].contains (8 : BitVec 18).toNat = false
    ∧ (Tab.get Sampler.init (sampling 255 false).cnt.regs.samp 0).count < 256
    ∧ (Tab.get Sampler.init (sampling 256 true).cnt.regs.samp 0).ctrl.getLsbD 29 = true
    ∧ (Tab.get Sampler.init (sampling 256 false).cnt.regs.samp 0).ctrl.getLsbD 29 = false
    ∧ 256 ≤ (Tab.get Sampler.init (sampling 256 false).cnt.regs.samp 0).count
    ∧ (Tab.get Sampler.init base.cnt.regs.samp 0).owed = []
    ∧ (Tab.get Sampler.init (sampling 0 false).cnt.regs.samp 0).ctrl.toNat / 2 ^ 30 = 2
    ∧ (Tab.get Sampler.init (sampling 0 false).cnt.regs.samp 0).ctrl.toNat / 2 ^ 24 % 32 = 0
    ∧ (Tab.get Ctr48.zero (sampling 0 false).cnt.regs.ctr (ctrCluster 0 0)).n.toNat = 63 ∧ 63 / (64 * 1) < (63 + 1) / (64 * 1)
    ∧ base.clocked = true ∧ ({ base with power := { base.power with stopped := true } }).clocked = false
    ∧ (Tab.get BwUnit.init (atTime 50 { BwUnit.init with w := 1 }).cnt.regs.bw 41).newW = none
    ∧ (atTime 50 { BwUnit.init with w := 1 }).cnt.regs.time.toNat % (25 * 2 ^ 1) = 0
    ∧ (Tab.get BwUnit.init (atTime 100 { BwUnit.init with newW := some 2 }).cnt.regs.bw 41).newW = some 2
    ∧ (atTime 100 { BwUnit.init with newW := some 2 }).cnt.regs.time.toNat % (25 * 2 ^ 2) = 0
    ∧ (atTime 25000000 BwUnit.init).cnt.regs.time.toNat % 25000000 = 0 ∧ (atTime 1 BwUnit.init).cnt.regs.time.toNat % 25000000 ≠ 0
    ∧ (base.light.ports.all fun l => decide (l.serErr * 100000 ≤ l.serTotal)) = true
    ∧ (atTime 90000000000 BwUnit.init).cnt.regs.time.toNat % 90000000000 = 0
    ∧ (base.riser.current base.sprue.activeB1).state ≠ .lost := by decide +kernel

/-- The check bits' difference of a codeword whose symbol of exponent 35, the last data symbol, is wrong in bit 0: x^35 modulo the
generator of R374, computed outside the model. -/
def oneWrong : BitVec 32 := 0x840D2CA4

/-- Scalar data codeword 2047 of cluster 127, and codeword 0 of stack 0, with a difference. -/
def scarred (d : BitVec 32) : State := { base with clusters := [(127, { Cluster.init with dmem := Mem.zeros.setChk 2047 d })] }
def scarredHbm : State := { base with mem := Mem.zeros.setChk 0 oneWrong }

/-- A packet of channel 63 on its way through DRAG whose last Tundish codeword has a wrong symbol. -/
def scarredWindow : State := base.setWindow .drag 63 ⟨true, some true, Mem.zeros.setChk 511 oneWrong⟩

/-- A part in which Fettle tests the group of domain `k`. -/
def testing (k : Nat) (s : State) : State := { s with err := { s.err with offTest := some k } }

theorem wit_FettleScrubs : base.burstSuspects (base.burstBase 7) = [] ∧ scarredHbm.burstSuspects (scarredHbm.burstBase 0) = [0]
    ∧ isHbmCw .chip 0 = true ∧ Tab.get 0 scarredHbm.mem.chk (mapByteAddr 0 / 32) = 0 ∧ scarredHbm.mem.mapBitOf 0 = false
    ∧ Tab.get 0 scarredHbm.mem.chk 0 ≠ 0 ∧ singleError (Tab.get 0 scarredHbm.mem.chk 0) = some (35, 1)
    ∧ (scarred oneWrong).clusterOn 127 = true ∧ Tab.get 0 ((scarred oneWrong).cl 127).dmem.chk 2047 ≠ 0
    ∧ singleError (Tab.get 0 ((scarred oneWrong).cl 127).dmem.chk 2047) = some (35, 1)
    ∧ classify (Tab.get 0 ((scarred poisonMark).cl 127).dmem.chk 2047) = .poisoned none
    ∧ (scarredWindow.window .drag 63).buffer ≠ none ∧ Tab.get 0 (scarredWindow.window .drag 63).bytes.chk 511 ≠ 0
    ∧ singleError (Tab.get 0 (scarredWindow.window .drag 63).bytes.chk 511) = some (35, 1)
    ∧ (seqAt 0 Sequencer.init).clusterOn 0 = false
    ∧ (base.seq (stackDomain 7)).state = .on ∧ (seqAt (stackDomain 7) ⟨.off, .none, true⟩).seq (stackDomain 7) = ⟨.off, .none, true⟩
    ∧ (seqAt 17 Sequencer.init).err.offTest = none ∧ ((seqAt 17 Sequencer.init).seq (9 * 1 + 8)).state = .off ∧ 65 / 8 = 8
    ∧ (1#66 <<< 65).getLsbD 65 = true ∧ (testing 17 base).err.offTest = some 17 ∧ ((testing 17 base).seq 17).state = .on
    ∧ (testing 17 base).groupBusy 17 = false ∧ (testing 17 base).ident.bist true ≠ some 65 ∧ 65 ∈ (testing 17 base).ident.spares true
    ∧ (List.range 64).all (fun c => decide (Tab.get none (testing 17 base).ident.clmap (64 * 1 + c) ≠ some 65)) = true
    ∧ (testing 0 (core [0x3F * 2 ^ 26] [])).groupBusy 0 = true ∧ (base.seq 17).state ≠ .off := by decide +kernel

/-! ### Riser, Sprue, host ports, resets, boot and sideband -/

/-- A Riser whose copies stand as given. -/
def copies (a b : CopyHealth) : State :=
  { base with riser := { base.riser with copy0 := { base.riser.copy0 with state := a }, copy1 := { base.riser.copy1 with state := b } } }

theorem wit_RiserAndSprue : base.clocked = true ∧ (copies .lost .inService).clocked = true ∧ (copies .inService .rebuilding).clocked = true
    ∧ ({ base with pins := { base.pins with pwrgdMain := false } }).clocked = false ∧ base.riser.lost = false ∧ base.riser.copy0.state = .inService ∧ base.riser.copy1.state = .inService
    ∧ base.riser.copy0.data = base.riser.copy1.data ∧ ((copies .lost .inService).riser.copy 1).state = .inService
    ∧ ((copies .lost .inService).riser.otherCopy 1).state ≠ .inService ∧ ((copies .lost .inService).riser.copy 0).state = .lost
    ∧ ((copies .inService .rebuilding).riser.copy 1).state = .rebuilding ∧ ((copies .inService .rebuilding).riser.otherCopy 1).state = .inService
    ∧ base.sprue.standbyReady = true ∧ ({ base with sprue := ⟨true, false, true, false⟩ }).sprue.standbyReady = false
    ∧ base.riser.copy0.die ≠ base.riser.copy1.die
    ∧ ({ base.riser.copy1 with die := base.riser.copy0.die }).die = base.riser.copy0.die := by decide +kernel

/-- The port COPE changed. -/
def ported (f : HostPortState → HostPortState) : State := { base with cope := f base.cope }

theorem wit_HostPortEvents : HostPort.drag ≠ HostPort.cope ∧ (ported fun h => { h with linkUp := false }).pins.pwrgdMain = true
    ∧ ((ported fun h => { h with linkUp := false }).port .cope).perst = false ∧ ((ported fun h => { h with linkUp := false }).port .cope).linkUp = false
    ∧ base.boot.phase ≠ .warmEntry ∧ base.boot.phase ≠ .off ∧ ((ported fun h => { h with perst := true }).port .cope).perst = true
    ∧ base.hostReach .cope = true ∧ openMsix.table[64]?.isSome = true ∧ openMsix.enable = true ∧ openMsix.functionMask = false
    ∧ base.portOpen .cope = true ∧ (ported fun h => { h with linkUp := false }).portOpen .cope = false ∧ (base.port .cope).flr = false
    ∧ (base.port .cope).linkUp = true ∧ (base.port .cope).sessions = []
    ∧ (let s := ported fun h => { h with sessions := (List.range 4).map fun n => ⟨n, [], [], 0⟩ }
       s.portOpen .cope = true ∧ 4 ≤ (s.port .cope).sessions.length ∧ (s.port .cope).sessions.any (fun x => decide (x.id = 3)) = true)
    ∧ ({ base with boot := { base.boot with phase := .booting } }).portOpen .cope = false
    ∧ (ported fun h => { h with pending := 1#65 <<< 64 }).hostReach .cope = true ∧ ((ported fun h => { h with flr := true }).port .cope).flr = true ∧ (base.port .cope).flr = false
    ∧ base.assay.mode = .operational ∧ ({ base with assay := { base.assay with mode := .error } }).hostReach .cope = true
    ∧ ((ported fun h => { h with linkIde := .secure }).port .cope).linkIde = .secure
    ∧ ((ported fun h => { h with selIde := .secure }).port .cope).selIde = .secure ∧ (base.port .cope).linkIde ≠ .secure
    ∧ (base.port .cope).selIde ≠ .secure := by decide +kernel

/-- A part that has lost its power, and one without VDD_AON. -/
def unpowered : State := { base with pins := { base.pins with pwrgdMain := false }, boot := Boot.init }
def noAon : State := { unpowered with pins := { unpowered.pins with vddAon := false, pwrgdAon := false } }

/-- A part that has just written an entry. -/
def writingLine : State := base.updEntry 5 fun e => { e with state := .accepted }

theorem wit_Resets : base.pins.pwrgdMain = true ∧ base.pins.vddAon = true ∧ base.pins.pwrgdAon = true ∧ base.power.stopped = false
    ∧ base.boot.phase ≠ .off ∧ base.boot.phase ≠ .warmEntry ∧ base.trail = [] ∧ (writingLine.trail.map (·.time)) = [writingLine.cnt.regs.time]
    ∧ writingLine.pins.pwrgdMain = true ∧ writingLine.riser.copy0.state = .inService ∧ unpowered.pins.pwrgdMain = false ∧ unpowered.pins.pwrgdAon = true
    ∧ noAon.pins.vddAon = false ∧ base.run = none ∧ (runs_ 0x20 none (some attempt)).run = some attempt
    ∧ ((runs_ 0x20 none (some attempt)).runningOf attempt.chan).isSome = true ∧ (runs_ 0x20 none (some attempt)).boot.phase = .ready := by
  decide +kernel

/-- A part in a boot with the stages of `done` behind it. -/
def booting (done : BitVec 8) : State := { base with boot := { Boot.init with phase := .booting, kind := 1, done := done } }

/-- Every stage, the last of them with the Assay's bottom tree drawn; and an empty boot flash, which no slot passes. -/
theorem wit_BootStages : (let s := { unpowered with pins := { unpowered.pins with pwrgdAon := false } }
       s.pins.vddAon = true ∧ s.pins.pwrgdAon = false)
    ∧ unpowered.pins.vddAon = true ∧ unpowered.pins.pwrgdMain = false ∧ base.pins.pwrgdMain = true
    ∧ ({ base with boot := { base.boot with phase := .warmEntry } }).boot.phase = .warmEntry ∧ base.boot.phase ≠ .warmEntry
    ∧ base.stageRuns 1 = false ∧ (booting 0).stageRuns 0 = false ∧ (booting 0).stageRuns 9 = false ∧ (booting 0).stageRuns 1 = true
    ∧ ({ booting 0 with assay := { base.assay with mode := .selfTest } }).assay.mode = .selfTest ∧ base.assay.otp.decommissioned = false
    ∧ (booting 1).stageRuns 2 = true ∧ (booting 1).chooseSlot.slot = none
    ∧ (booting 3).stageRuns 3 = true ∧ (booting 3).boot.recoverCold = true ∧ (booting 7).stageRuns 6 = true ∧ 1 < laneCount 3
    ∧ (let d := { booting 0 with assay := { base.assay with mode := .selfTest, otp := { base.assay.otp with decommissioned := true } } }
       d.stageRuns 1 = true ∧ d.assay.otp.decommissioned = true ∧ d.assay.mode ≠ .decommissioned)
    ∧ (List.replicate 400 goodScan).all (fun c => c.eyes.all Option.isSome && decide (150 ≤ min (attenuation c.p0 c.low.2) (attenuation c.p0 c.high.2)))
        = true
    ∧ laneCount (failMask (List.replicate 399 goodScan)) = 1 ∧ laneCount (failMask (List.replicate 398 goodScan)) = 2
    ∧ (booting 7).stageRuns 4 = true ∧ (booting 7).boot.zeroHbm = true ∧ (booting 7).stageRuns 5 = true ∧ (booting 7).boot.buildMap = true
    ∧ (booting 7).ledger.retired0 = 0 ∧ (booting 7).ledger.retired1 = 0
    ∧ (booting 0xBF).stageRuns 7 = true ∧ (0xBF : BitVec 8) ||| 0x40 = 0xFF ∧ (booting 0xBF).runner.flask = none
    ∧ ({ booting 0xBF with assay := { base.assay with bottom := some ⟨0, 1, []⟩ } }).assay.bottom.isSome = true := by decide +kernel

/-- A cold boot at stage 3 with a pour accepted, and with one that had started, in entry 1023. -/
def surrendering (st : EntryState) : State :=
  led (booting 3) fun l => { l with
    chans := [(63, { channel0 with accepted := 2, replied := 1 })]
    entries := [(1023, { held st 0x20 2 with chan := 63, started := decide (st = .running) })] }

theorem wit_PoursSurrendered : [EntryState.accepted, .running].all (fun st =>
      let s := surrendering st
      s.stageRuns 3 && s.boot.recoverCold && !s.riser.lost && decide (s.riser.copy0.data = s.riser.copy1.data)
        && decide (s.riser.copy0.state = .inService) && decide (s.riser.copy1.state = .inService) && decide (s.riser.copy0.bad = []) && decide (s.riser.copy1.bad = [])
        && decide (s.riser.copy0.held = 2048) && decide (s.riser.copy1.held = 2048) && decide ((s.entry 1023).state = st)
        && decide ((s.entry 1023).chan.toNat = 63) && decide ((s.chan 63).state ≠ .closed)
        && decide ((s.chan 63).replied.toNat < (s.entry 1023).pour.toNat)) = true
    ∧ ((surrendering .accepted).ledger.entries.all fun e => e.1 = 1023) = true := by decide +kernel

/-- A part whose TAP holds an instruction, with the main power or without it. -/
def tapped (ir : JtagIr) (main : Bool) : State :=
  { base with jtag := ⟨true, ir, [], [], []⟩, pins := { base.pins with pwrgdMain := main } }

/-- A part at slot 7 of its board; a FIRMWARE_STAGE of which four bytes wait; the TAP with each instruction. -/
theorem wit_Sideband : base.pins.vddAon = true ∧ base.pins.pwrgdAon = true ∧ base.pins.pwrgdMain = true ∧ 2 ^ 26 - 1 < 2 ^ 26
    ∧ base.running = []
    ∧ ((staging true [1, 2, 3, 4]).runningOf 0).map (fun r => (r.body.opcode, r.transfer, r.outcome)) = some (0x61, some ⟨4, 64, [1, 2, 3, 4]⟩, none)
    ∧ (List.range 64).all (fun d => d = 0 || decide ((staging true [1, 2, 3, 4]).runningOf d = none)) = true
    ∧ [(JtagIr.idcode, true), (.bypass, false), (.sample, true), (.extest, true), (.extest, false)].all (fun x =>
        (tapped x.1 x.2).jtag.trstN && decide ((tapped x.1 x.2).jtag.ir = x.1) && ((tapped x.1 x.2).pins.pwrgdMain == x.2)) = true
    ∧ landInput 0 = true ∧ (List.range 44).any (fun n => !landInput n) = true := by decide +kernel

/-- A part that its reset leaves without power boots by its stages: what follows BOOT_START (R406). -/
theorem test_reset_bootInv : State.reset.bootInv := by
  refine ⟨fun h => absurd rfl h, by decide, fun h => ?_, fun h => ?_⟩ <;> cases h

theorem wit_IdleStepTicks : base.pending = [] ∧ base.boot.phase = .ready ∧ base.pins.vddAon = true ∧ base.pins.aonClk = true
    ∧ base.clusterOn 127 = true := by decide +kernel

/-- A frame of one codeword over fourteen lanes. -/
theorem wit_WireForms : (frameOf 3 1 0 (leBytes 32 7)).count ≤ 39 ∧ (frameOf 3 1 0 (leBytes 32 7)).payload.length = 32 ∧ lanesOf 0x3FFF ≠ [] := by
  decide +kernel

/-- The first step of the PRBS31 from a state whose taps differ, and one from a state whose taps agree (R314). -/
theorem test_prbs : prbsStep (2 ^ 30) = (1, 1) ∧ prbsStep (2 ^ 30 + 2 ^ 27) = (0, 2 ^ 28) := by decide +kernel

/-- Symbol 35 of codeword 99 of a floor-link slot: k = 3,599, m = 399, lane 16 · 24 + 15 (R318). -/
theorem test_floorLane : floorLane 99 35 = 399 ∧ floorLane 0 1 = 16 ∧ floorLane 0 25 = 1 := by decide +kernel

/-- The published check value of CRC-32C, of the characters 1 to 9. -/
theorem test_crc32c : crc32c [0x31, 0x32, 0x33, 0x34, 0x35, 0x36, 0x37, 0x38, 0x39] = 0xE3069283 := by decide +kernel

/-- The published SHA-384 example of the characters abc. -/
theorem test_sha384 : sha384 [0x61, 0x62, 0x63]
    = beBytes 48 0xcb00753f45a35e8bb5a03d699ac65007272c32ab0eded1631a8b605a43ff5bed8086072ba1e7cc2358baeca134c825a7 := by
  decide +kernel

/-- A ready part by the invariant of StepKeepsBootInv. -/
theorem wit_StepKeepsBootInv : base.bootInv := by
  refine ⟨fun _ => ⟨by decide +kernel, by decide +kernel, by decide +kernel⟩, by decide +kernel, fun _ => ?_, fun _ => by decide +kernel⟩
  exact ⟨by decide +kernel, by decide +kernel, by decide +kernel⟩

/-- A memory in canonical form with a byte listed. -/
theorem wit_StepKeepsMemoryForm : scarredHbm.mem.wf = true ∧ (Mem.zeros.lay 0 [1]).wf = true := by decide +kernel

end Sys2Proof.Machine
end

section
/-! SUPPORT. Register writes: how a write reaches its home, what each home does with it, and where each offset of BAR0 leads. -/

namespace Sys2Proof.Machine

/-! ### How a write reaches the part -/

@[simp] theorem State.rsvdIf_false (s : State) : s.rsvdIf false = s := rfl

/-- BAR0 is open on a ready part. -/
theorem State.barOpen_of_ready {s : State} (h : s.boot.phase = .ready) : s.barOpen = true := by simp [State.barOpen, h]

section
variable {s : State}

theorem exec_pwrCapWatts (h : s.barOpen = true) (v : Word32) : exec (.pwrCapWatts v) s = .next (s.anyWrite.writeCap v) :=
  congrArg Host.Outcome.next (if_pos h)

theorem exec_trippedClear (h : s.barOpen = true) (v : Word32) : exec (.trippedClear v) s = .next (s.anyWrite.writeStatus v) :=
  congrArg Host.Outcome.next (if_pos h)

theorem exec_monitorReading (h : s.barOpen = true) (v : Word32) : exec (.monitorReading v) s = .next (s.anyWrite.writeMonitor v) :=
  congrArg Host.Outcome.next (if_pos h)

theorem exec_cntBwCtrl (h : s.barOpen = true) (u : Fin 42) (v : Word32) :
    exec (.cntBwCtrl u v) s = .next (s.anyWrite.writeBw u.val v) := congrArg Host.Outcome.next (if_pos h)

theorem exec_cntSampleCtrl (h : s.barOpen = true) (g : Fin 128) (v : Word32) :
    exec (.cntSampleCtrl g v) s = .next (s.anyWrite.writeSampling g.val v) := congrArg Host.Outcome.next (if_pos h)

theorem exec_cntSnap {p : HostPort} (h : s.hostReach p = true) (v : Word32) :
    exec (.cntSnap p v) s = .next ((s.hostTlp p false 4).writeSnap v) := congrArg Host.Outcome.next (if_neg (by simp [h]))

theorem exec_registerWrite {p : HostPort} (h : s.hostReach p = true) (off width : Nat) (v : Word64) :
    exec (.registerWrite p off width v) s = .next ((s.hostTlp p false (width / 8)).writeBar p off width v) :=
  congrArg Host.Outcome.next (if_neg (by simp [h]))

/-- A running measurement ends with its reading in LGT_MON_DATA (R328). -/
theorem exec_monitorReadingDone (h : s.light.monBusy = true) (x : BitVec 12) :
    exec (.monitorReadingDone x) s
      = .next { s with light := { s.light with monBusy := false, monValid := true, monValue := x } } :=
  congrArg Host.Outcome.next (if_pos h)

end

/-! ### PWR_CAP_WATTS and PWR_STATUS -/

/-- A cap within its limits waits for the next gate step (R340). -/
theorem State.writeCap_inRange (s : State) {v : Word32} (lo : 500 ≤ v.toNat) (hi : v.toNat ≤ 1500) :
    s.writeCap v = { s with power := { s.power with newCap := some (v.setWidth 11) } } := by
  have hm : v.toNat % 2048 = v.toNat := Nat.mod_eq_of_lt (by omega)
  have hr : v.toNat / 2048 = 0 := Nat.div_eq_of_lt (by omega)
  unfold State.writeCap
  rw [if_neg (by omega), hr]
  rfl

/-- A cap outside its limits has no effect but its count (R2, R340). -/
theorem State.writeCap_outOfRange (s : State) {v : Word32} (h : v.toNat < 500 ∨ 1500 < v.toNat) (hv : v.toNat < 2048) :
    s.writeCap v = s.rsvdWrite := by
  have hm : v.toNat % 2048 = v.toNat := Nat.mod_eq_of_lt hv
  unfold State.writeCap
  rw [hm, if_pos h]

/-- A 1 to TRIPPED clears it and the trip record (R349). -/
theorem State.writeStatus_tripped {s : State} (h : s.power.tripped = true) :
    s.writeStatus 0x10
      = { s with power := { s.power with tripped := false } }.updLedger .trip fun l => { l with trip := none } :=
  if_pos ⟨rfl, h⟩

/-- The state and the die of a copy stay when a line of it is written. -/
theorem RiserCopy.write_state_die (c : RiserCopy) (l : RLine) (f : Ledger → Ledger) :
    (c.write l f).state = c.state ∧ (c.write l f).die = c.die := by
  unfold RiserCopy.write; split <;> exact ⟨rfl, rfl⟩

/-- Writing a line of both copies leaves the choice of the copy that reads come from. -/
theorem Riser.current_put {r : Riser} (h : r.lost = false) (b : Bool) (l : RLine) (f : Ledger → Ledger) :
    (r.put l f).current b = (r.current b).write l f := by
  simp only [Riser.current, Riser.put, h, Bool.false_eq_true, if_false, RiserCopy.write_state_die]
  split
  · rfl
  · split <;> rfl

/-- A line written is the line read wherever the ledger is kept: in the working state, or in a copy that is not lost (R240, R256). -/
theorem State.ledger_updLedger_of_kept {s : State} (h : s.ledgerKept) (l : RLine) (f : Ledger → Ledger) :
    (s.updLedger l f).ledger = f s.ledger := by
  cases hl : s.riser.lost with
  | true => simp [State.ledger, State.updLedger, Riser.put, hl]
  | false =>
    have hc : (s.riser.current s.sprue.activeB1).state ≠ .lost := h.resolve_left (by simp [hl])
    have hl' : (s.riser.put l f).lost = false := by simp [Riser.put, hl]
    simp [State.ledger, State.updLedger, hl, hl', Riser.current_put hl, RiserCopy.write, hc]

/-! ### LGT_MON_CTRL and CNT_SNAP -/

/-- GO to LGT_MON_CTRL starts a measurement and clears VALID (R328). -/
theorem State.writeMonitor_go (s : State) :
    s.writeMonitor 0x80000000 = { s with light := { s.light with monCtrl := 0, monBusy := true, monValid := false } } := by
  have hbusy : (s.light.monBusy || true) = true := Bool.or_true _
  have hvalid : (s.light.monValid && false) = false := Bool.and_false _
  rw [← hbusy, ← hvalid]
  rfl

/-- GO to CNT_SNAP copies the counters as they read to the shadow (R395). -/
theorem State.writeSnap_go (s : State) : s.writeSnap 1 = { s with cnt := { s.cnt with shadow := s.shownCounters } } := rfl

/-! ### CNT_BW_CTRL and CNT_SAMPLE_CTRL -/

/-- A window length of at most 24 waits for its boundary (R399). -/
theorem State.writeBw_inRange (s : State) (u : Nat) {v : Word32} (h : v.toNat ≤ 24) :
    s.writeBw u v = s.updBw u fun b => { b with newW := some (v.setWidth 5) } := by
  have hm : v.toNat % 32 = v.toNat := Nat.mod_eq_of_lt (by omega)
  have hr : v.toNat / 32 = 0 := Nat.div_eq_of_lt (by omega)
  unfold State.writeBw
  rw [hm, if_neg (by omega), hr]
  rfl

/-- A window unit after it is changed. -/
@[simp] theorem State.bw_updBw (s : State) (u : Nat) (f : BwUnit → BwUnit) :
    Tab.get BwUnit.init (s.updBw u f).cnt.regs.bw u = f (Tab.get BwUnit.init s.cnt.regs.bw u) :=
  Tab.get_upd_same u f

/-- Bits 23 to 21 lie outside the mask of CNT_SAMPLE_CTRL; a value with these clear is kept whole. -/
theorem sampleCtrl_masked {v : Word32} (h : v.toNat / 2 ^ 21 % 8 = 0) : v &&& 0xFF1FFFFF = v := by
  have hmask : ∀ i < 32, ¬(21 ≤ i ∧ i < 24) → (0xFF1FFFFF : Word32).getLsbD i = true := by decide
  have hzero : ∀ i, 21 ≤ i → i < 24 → v.getLsbD i = false := by
    intro i lo hi
    have hbit : (v.toNat / 2 ^ 21 % 2 ^ 3).testBit (i - 21) = false :=
      (congrArg (·.testBit (i - 21)) h).trans (Nat.zero_testBit _)
    rw [Nat.testBit_mod_two_pow, Nat.testBit_div_two_pow, Nat.sub_add_cancel lo, decide_eq_true (by omega), Bool.true_and] at hbit
    exact hbit
  apply BitVec.eq_of_getLsbD_eq
  intro i hi
  rw [BitVec.getLsbD_and]
  by_cases hr : 21 ≤ i ∧ i < 24
  · rw [hzero i hr.1 hr.2, Bool.false_and]
  · rw [hmask i hi hr, Bool.and_true]

/-- A CNT_SAMPLE_CTRL value that R404 does not refuse is taken and clears the buffer and CNT_SAMPLE_STATUS (R402). -/
theorem State.writeSampling_accepted (s : State) (g : Nat) {v : Word32} (h : sampleCtrlBad v.toNat = false)
    (hr : v.toNat / 2 ^ 21 % 8 = 0) :
    s.writeSampling g v = s.resetSamples g fun sm =>
      { sm with ctrl := v, dropped := 0, lost := false, seen := 0, marked := [], owed := [] } := by
  have hf : fieldOf v.toNat 21 3 = 0 := hr
  unfold State.writeSampling
  rw [h, hf, sampleCtrl_masked hr]
  rfl

/-- Cells taken out of a range read the default there. -/
theorem Tab.get_cellsOut {α : Type} {d : α} (t : Tab α) {a n i : Nat} (lo : a ≤ i) (hi : i < a + n) :
    Tab.get d (cellsOut t a n) i = d := by
  have hk : ∀ e ∈ cellsOut t a n, e.1 ≠ i := by
    rintro e he rfl
    have := (List.mem_filter.mp he).2
    simp [lo, hi] at this
  simpa using Tab.get_append_right (d := d) (u := []) hk

/-- Every slot of a sample buffer that is reset reads zero (R402). -/
theorem State.slots_resetSamples (s : State) (g : Nat) (f : Sampler → Sampler) {k : Nat} (h : k < 256) :
    Tab.get 0 (s.resetSamples g f).cnt.slots (256 * g + k) = 0 :=
  Tab.get_cellsOut _ (by omega) (by omega)

/-- The sampler of a buffer that is reset starts at slot 0 with no record. -/
@[simp] theorem State.samp_resetSamples (s : State) (g : Nat) (f : Sampler → Sampler) :
    Tab.get Sampler.init (s.resetSamples g f).cnt.regs.samp g
      = f { Tab.get Sampler.init s.cnt.regs.samp g with next := 0, count := 0 } :=
  Tab.get_upd_same g fun sm : Sampler => f { sm with next := 0, count := 0 }

/-! ### Where the offsets of BAR0 lead -/

/-- CNT_BW_CTRL of a unit stands at its offset in the CNT block. -/
theorem State.writeReg_bw (s : State) (p : HostPort) {u : Nat} (h : u < 42) (v : Word32) :
    s.writeReg p (0x801000 + 0x40 * u) v = s.writeBw u v := by
  have ho : (0x801000 + 0x40 * u) % 0x100000 = 0x1000 + 0x40 * u := by omega
  have hu : (0x1000 + 0x40 * u - 0x1000) / 0x40 = u := by omega
  unfold State.writeReg
  repeat rw [if_neg (by omega)]
  rw [if_pos (by omega)]
  unfold State.writeCnt
  simp only [ho, hu]
  rw [if_neg (by omega), if_pos (by omega)]

/-- CNT_SAMPLE_CTRL of a cluster stands at its offset in the CNT block. -/
theorem State.writeReg_sampling (s : State) (p : HostPort) {g : Nat} (h : g < 128) (v : Word32) :
    s.writeReg p (0x810100 + 0x200 * g) v = s.writeSampling g v := by
  have ho : (0x810100 + 0x200 * g) % 0x100000 = 0x10100 + 0x200 * g := by omega
  have hg : (0x10100 + 0x200 * g - 0x10000) / 0x200 = g := by omega
  unfold State.writeReg
  repeat rw [if_neg (by omega)]
  rw [if_pos (by omega)]
  unfold State.writeCnt
  simp only [ho, hg]
  rw [if_neg (by omega), if_neg (by omega), if_pos (by omega)]

/-- No offset in the channels' part of the SPR block is reserved (Tables 11-8 to 11-10). -/
theorem sprMask_ne_none {o : Nat} (lo : 0x1000 ≤ o) (hi : o < 0x2000) : sprMask o ≠ none := by
  unfold sprMask
  repeat rw [if_neg (by omega)]
  rw [if_pos ⟨lo, hi⟩]
  split <;> exact Option.some_ne_none _

/-- CNT_BW_CTRL lies at no reserved offset (Tables 20-1 and 20-4). -/
theorem cntMask_bw_ne_none {o : Nat} (lo : 0x1000 ≤ o) (hi : o < 0x1A80) (hr : o % 0x40 = 0) : cntMask o ≠ none := by
  have ho : o % 0x80000 = o := Nat.mod_eq_of_lt (by omega)
  unfold cntMask cntLiveMask
  rw [ho]
  repeat rw [if_neg (by omega)]
  rw [if_pos (by omega)]
  exact Option.some_ne_none _

/-- CNT_SAMPLE_CTRL lies at no reserved offset (Tables 20-1 and 20-4). -/
theorem cntMask_sampling_ne_none {o : Nat} (lo : 0x10000 ≤ o) (hi : o < 0x20000) (hr : o % 0x200 = 0x100) : cntMask o ≠ none := by
  have ho : o % 0x80000 = o := Nat.mod_eq_of_lt (by omega)
  unfold cntMask cntLiveMask
  simp only [ho, hr]
  repeat rw [if_neg (by omega)]
  rw [if_pos ⟨lo, hi⟩]
  exact Option.some_ne_none _

/-- The reserved bits of an aligned offset of the SPR block are the block's own. -/
theorem regMask_spr {off : Nat} (hb : off / 0x100000 = 1) (ha : off % 4 = 0) : regMask off = sprMask (off % 0x100000) := by
  unfold regMask
  simp only [hb]
  rw [if_neg (by omega), if_neg (by omega)]

/-- The reserved bits of an aligned offset of the CNT block are the block's own. -/
theorem regMask_cnt {off : Nat} (hb : off / 0x100000 = 8) (ha : off % 4 = 0) : regMask off = cntMask (off % 0x100000) := by
  unfold regMask
  simp only [hb]
  rw [if_neg (by omega), if_neg (by omega)]

theorem State.writeOther_reserved (s : State) {off : Nat} (h : regMask off = none) (v : Word32) : s.writeOther off v = s.rsvdWrite := by
  simp [State.writeOther, h]

theorem State.writeSpr_reserved (s : State) (p : HostPort) {off : Nat} (hb : off / 0x100000 = 1) (ha : off % 4 = 0)
    (h : regMask off = none) (v : Word32) : s.writeSpr p off v = s.rsvdWrite := by
  have hc : ¬(0x1000 ≤ off % 0x100000 ∧ off % 0x100000 < 0x2000) := fun ⟨lo, hi⟩ =>
    sprMask_ne_none lo hi (regMask_spr hb ha ▸ h)
  unfold State.writeSpr
  simp only
  rw [if_neg fun x => hc ⟨x.1, x.2.1⟩, if_neg fun x => hc ⟨x.1, x.2.1⟩, State.writeOther_reserved s h]

theorem State.writeCnt_reserved (s : State) {off : Nat} (hb : off / 0x100000 = 8) (ha : off % 4 = 0) (h : regMask off = none)
    (v : Word32) : s.writeCnt off v = s.rsvdWrite := by
  have hm : cntMask (off % 0x100000) = none := regMask_cnt hb ha ▸ h
  have hsnap : off % 0x100000 ≠ 8 := fun e => by rw [e] at hm; cases hm
  unfold State.writeCnt
  simp only
  rw [if_neg hsnap, if_neg fun x => cntMask_bw_ne_none x.1 x.2.1 x.2.2 hm,
    if_neg fun x => cntMask_sampling_ne_none x.1 x.2.1 x.2.2 hm, State.writeOther_reserved s h]

/-- A reserved offset has no register: a write there is counted and has no effect (R23). -/
theorem State.writeReg_reserved (s : State) (p : HostPort) {off : Nat} (ha : off % 4 = 0) (h : regMask off = none) (v : Word32) :
    s.writeReg p off v = s.rsvdWrite := by
  have ne : ∀ a, (regMask a).isSome = true → off ≠ a := by
    rintro a ha rfl
    simp [h] at ha
  unfold State.writeReg
  rw [if_neg (ne 0x200004 rfl), if_neg (ne 0x200008 rfl), if_neg (ne 0x300000 rfl), if_neg (ne 0x300004 rfl),
    if_neg (ne 0x400000 rfl), if_neg (ne 0x400020 rfl), if_neg (ne 0x600018 rfl), if_neg (ne 0x60001C rfl)]
  split
  · next hb => exact State.writeSpr_reserved s p hb ha h v
  · split
    · next hb => exact State.writeCnt_reserved s hb ha h v
    · exact State.writeOther_reserved s h v

/-! ### Widths -/

theorem State.writeBar_32 (s : State) (p : HostPort) {off : Nat} (h : off % 4 = 0) (v : Word64) :
    s.writeBar p off 32 v = s.writeReg p off (v.setWidth 32) := if_pos ⟨rfl, h⟩

/-- The lower address is written first, with bits 31 to 0 (log entry 71). -/
theorem State.writeBar_64 (s : State) (p : HostPort) {off : Nat} (h : off % 8 = 0) (v : Word64) :
    s.writeBar p off 64 v = (s.writeReg p off (v.setWidth 32)).writeReg p (off + 4) ((v >>> 32).setWidth 32) :=
  (if_neg (by simp)).trans (if_pos ⟨rfl, h⟩)

theorem State.writeBar_otherWidth (s : State) (p : HostPort) {off width : Nat} (h32 : ¬(width = 32 ∧ off % 4 = 0))
    (h64 : ¬(width = 64 ∧ off % 8 = 0)) (v : Word64) : s.writeBar p off width v = s.rsvdWrite :=
  (if_neg h32).trans (if_neg h64)

/-- A 32-bit REGISTER_WRITE of a register's value is that write of the register. -/
theorem exec_registerWrite_word {s : State} {p : HostPort} (h : s.hostReach p = true) {off : Nat} (ha : off % 4 = 0) (v : Word32) :
    exec (.registerWrite p off 32 (v.setWidth 64)) s = .next ((s.hostTlp p false 4).writeReg p off v) := by
  have hv : (v.setWidth 64).setWidth 32 = v := by simp
  rw [exec_registerWrite h, State.writeBar_32 _ _ ha, hv]

end Sys2Proof.Machine
end

section
/-! Registers with commands of their own, and REGISTER_WRITE. -/

namespace Sys2Proof.Machine

section
variable {s : State} (hready : s.boot.phase = .ready)
include hready

/-- A 1 to TRIPPED on a tripped part leaves it clear, and no trip record (R349). -/
theorem exec_trippedClear_tripped (hk : s.ledgerKept) (ht : s.power.tripped = true) :
    ∃ t, exec (.trippedClear 0x10) s = .next t ∧ t.power.tripped = false ∧ t.ledger.trip = none := by
  have hk' : { s.anyWrite with power := { s.anyWrite.power with tripped := false } }.ledgerKept := hk
  refine ⟨_, exec_trippedClear (State.barOpen_of_ready hready) _, ?_⟩
  rw [State.writeStatus_tripped (by simpa using ht)]
  exact ⟨rfl, by rw [State.ledger_updLedger_of_kept hk']⟩

/-- GO to LGT_MON_CTRL leaves a measurement running that its reading ends (R328). -/
theorem exec_monitorReading_go :
    ∃ t, exec (.monitorReading 0x80000000) s = .next t ∧ t.light.monBusy = true ∧ t.light.monValid = false
      ∧ t.err.rsvd = s.err.rsvd
      ∧ ∀ x, ∃ t', exec (.monitorReadingDone x) t = .next t' ∧ t'.light.monValid = true ∧ t'.light.monValue = x
        ∧ t'.light.monBusy = false := by
  refine ⟨_, exec_monitorReading (State.barOpen_of_ready hready) _, ?_⟩
  rw [State.writeMonitor_go]
  exact ⟨rfl, rfl, rfl, fun x => ⟨_, exec_monitorReadingDone rfl x, rfl, rfl, rfl⟩⟩

/-- A window length within its limit waits in its unit (R399). -/
theorem exec_cntBwCtrl_inRange (u : Fin 42) {v : Word32} (hv : v.toNat ≤ 24) :
    ∃ t, exec (.cntBwCtrl u v) s = .next t
      ∧ Tab.get BwUnit.init t.cnt.regs.bw u.val
          = { Tab.get BwUnit.init s.anyWrite.cnt.regs.bw u.val with newW := some (v.setWidth 5) }
      ∧ t.err = s.err ∧ t.cnt.regs.ctr = s.cnt.regs.ctr := by
  refine ⟨_, exec_cntBwCtrl (State.barOpen_of_ready hready) u v, ?_⟩
  rw [State.writeBw_inRange _ _ hv]
  exact ⟨State.bw_updBw _ _ _, rfl, rfl⟩

/-- A CNT_SAMPLE_CTRL value that R404 does not refuse starts its cluster's buffer anew (R402). -/
theorem exec_cntSampleCtrl_accepted (g : Fin 128) {v : Word32} (hv : sampleCtrlBad v.toNat = false)
    (hr : v.toNat / 2 ^ 21 % 8 = 0) :
    ∃ t, exec (.cntSampleCtrl g v) s = .next t
      ∧ (∀ k < 256, Tab.get 0 t.cnt.slots (256 * g.val + k) = 0)
      ∧ (Tab.get Sampler.init t.cnt.regs.samp g.val).ctrl = v ∧ (Tab.get Sampler.init t.cnt.regs.samp g.val).count = 0
      ∧ (Tab.get Sampler.init t.cnt.regs.samp g.val).dropped = 0 ∧ (Tab.get Sampler.init t.cnt.regs.samp g.val).next = 0
      ∧ t.err = s.err := by
  refine ⟨_, exec_cntSampleCtrl (State.barOpen_of_ready hready) g v, ?_⟩
  rw [State.writeSampling_accepted _ _ hv hr, State.samp_resetSamples]
  exact ⟨fun k hk => State.slots_resetSamples _ _ _ hk, rfl, rfl, rfl, rfl, rfl⟩

end

/-- Settles O34: each register's home by its own rule, REGISTER_WRITE by the offset that leads to that home. -/
theorem registerEffects : Obligations.RegisterEffects := by
  unfold Obligations.RegisterEffects
  refine ⟨?_, ?_⟩
  · rintro p s s1 v u g hreach hready rfl
    have hopen := State.barOpen_of_ready hready
    refine ⟨fun lo hi => ?_, fun hout hv => ?_, exec_trippedClear_tripped hready, exec_monitorReading_go hready, ?_,
      exec_cntBwCtrl_inRange hready u, exec_cntSampleCtrl_accepted hready g, fun x hx => ?_, ?_⟩
    · rw [exec_pwrCapWatts hopen, State.writeCap_inRange _ lo hi]; rfl
    · rw [exec_pwrCapWatts hopen, State.writeCap_outOfRange _ hout hv]
    · rw [exec_cntSnap hreach, State.writeSnap_go]
    · simp only [List.mem_cons, List.not_mem_nil, or_false] at hx
      rcases hx with rfl | rfl | rfl | rfl | rfl
      · exact ⟨exec_pwrCapWatts hopen v, exec_registerWrite_word (off := 0x300000) hreach rfl v⟩
      · exact ⟨exec_trippedClear hopen v, exec_registerWrite_word (off := 0x300004) hreach rfl v⟩
      · exact ⟨exec_monitorReading hopen v, exec_registerWrite_word (off := 0x400020) hreach rfl v⟩
      · exact ⟨exec_cntBwCtrl hopen u v,
          (exec_registerWrite_word hreach (by omega) v).trans (by rw [State.writeReg_bw _ _ u.isLt])⟩
      · exact ⟨exec_cntSampleCtrl hopen g v,
          (exec_registerWrite_word hreach (by omega) v).trans (by rw [State.writeReg_sampling _ _ g.isLt])⟩
    · rw [exec_registerWrite_word hreach rfl, exec_cntSnap hreach]; rfl
  · rintro p off width v s s1 hreach hready rfl
    rw [exec_registerWrite hreach]
    refine ⟨?_, ?_, ?_⟩
    · rintro (⟨h32, h64⟩ | ⟨rfl, ha, hm⟩)
      · rw [State.writeBar_otherWidth _ _ h32 h64]; rfl
      · rw [State.writeBar_32 _ _ ha, State.writeReg_reserved _ _ ha hm]; rfl
    · rintro rfl ha
      rw [State.writeBar_32 _ _ ha]
    · rintro rfl ha
      rw [State.writeBar_64 _ _ ha]

end Sys2Proof.Machine
end

section
/-! SUPPORT. What the engines' operations keep. -/

namespace Sys2Proof.Machine

section
variable {k : Standing} {s : State}

theorem wloadPerform_good (x : EngCtx) (h : Good k s) : Good k (wloadPerform x s).1 := by
  unfold wloadPerform
  dsimp only
  split <;> rename_i e <;> exact Good.fst e (loadBank_good _ _ h)

theorem matmulPerform_good (x : EngCtx) (h : Good k s) : Good k (matmulPerform x s).1 := by
  unfold matmulPerform
  dsimp only
  split <;> rename_i e <;> have hr := Good.fst e (matmulReads_good _ _ h)
  · exact hr
  · split <;> rename_i e' <;> split at e'
    · split at e' <;> rename_i e'' <;> cases e'
      exact Good.fst e'' (loadBank_good _ _ hr)
    · cases e'
    · split at e' <;> rename_i e'' <;> cases e'
      exact Good.fst e'' (loadBank_good _ _ hr)
    · cases e'
      exact hr

theorem tclrPerform_good (x : EngCtx) (h : Good k s) : Good k (tclrPerform x s).1 := State.updCl_good _ _ h

theorem drainPerform_good (x : EngCtx) (h : Good k s) : Good k (drainPerform x s).1 := by
  unfold drainPerform
  dsimp only
  split <;> rename_i e <;> have hwords := Good.fst e (consumeTiles_good _ _ h)
  · exact hwords
  split <;> rename_i e <;> have hscale := Good.fst e (drainOperand_good _ _ _ hwords)
  · exact hscale
  split <;> rename_i e <;> have hbias := Good.fst e (drainOperand_good _ _ _ hscale)
  · exact hbias
  split <;> rename_i e <;> have hbase := Good.fst e (accumBase_good _ _ _ hbias)
  · exact hbase
  exact State.updCl_good _ _ (drainStore_good _ _ _ _ _ _ hbase)

theorem elemPerform_good (fn : VxFn) (x : EngCtx) (h : Good k s) : Good k (elemPerform fn x s).1 := by
  unfold elemPerform
  dsimp only
  split <;> rename_i e <;> have hread := Good.fst e (readAll_good _ _ h)
  · exact hread
  split <;> rename_i e <;> exact Good.fst e (storeVx_good _ _ _ hread)

theorem cmpPerform_good (fn : Num → Num → Bool) (x : EngCtx) (h : Good k s) : Good k (cmpPerform fn x s).1 := by
  unfold cmpPerform
  dsimp only
  split <;> rename_i e <;> have hread := Good.fst e (readAll_good _ _ h)
  · exact hread
  split
  · exact State.applyPatch_good _ hread
  · exact storeVxReg_good _ _ _ hread

theorem nfcountPerform_good (x : EngCtx) (h : Good k s) : Good k (nfcountPerform x s).1 := by
  unfold nfcountPerform
  dsimp only
  split <;> rename_i e <;> exact Good.fst e (readAll_good _ _ h)

theorem redPerform_good (f : VxRed) (x : EngCtx) (h : Good k s) : Good k (redPerform f x s).1 := by
  unfold redPerform
  dsimp only
  split <;> rename_i e <;> have hread := Good.fst e (readAll_good _ _ h)
  · exact hread
  split <;> rename_i e <;> exact Good.fst e (storeVx_good _ _ _ hread)

theorem normsqPerform_good (x : EngCtx) (h : Good k s) : Good k (normsqPerform x s).1 := by
  unfold normsqPerform
  dsimp only
  split <;> rename_i e <;> have hread := Good.fst e (readSource_good _ _ _ h)
  · exact hread
  split <;> rename_i e <;> have hmask := Good.fst e (readMask_good _ _ _ hread)
  · exact hmask
  split
  · exact State.applyPatch_good _ hmask
  · exact hmask

theorem updatePerform_good (x : EngCtx) (h : Good k s) : Good k (updatePerform x s).1 := by
  unfold updatePerform
  dsimp only
  split
  · exact h
  split <;> rename_i e <;> have hread := Good.fst e (readTensors_good _ _ h)
  · exact hread
  split <;> rename_i e <;> have hmask := Good.fst e (readMask_good _ _ _ hread)
  · exact hmask
  exact State.applyPatch_good _ (State.applyPatch_good _ (State.applyPatch_good _ (State.applyPatch_good _ hmask)))

theorem compressPerform_good (x : EngCtx) (h : Good k s) : Good k (compressPerform x s).1 := by
  unfold compressPerform
  dsimp only
  split <;> rename_i e <;> have hkeys := Good.fst e (consume_good _ _ h)
  · exact hkeys
  split <;> rename_i e <;> have hmask := Good.fst e (readMask_good _ _ _ hkeys)
  · exact hmask
  exact State.poisonCws_good _ (State.applyPatch_good _ (carry_good _ _ hmask))

theorem expandPerform_good (x : EngCtx) (h : Good k s) : Good k (expandPerform x s).1 := by
  unfold expandPerform
  dsimp -zeta only
  extract_lets r desc w
  split <;> rename_i e <;> have hidx := Good.fst e (consume_good _ _ h)
  · exact hidx
  extract_lets clear rows slots src dst sum
  have hsum : ∀ n t, (sum n t).1 = t := fun _ _ => rfl
  split
  · split <;> rename_i e <;> have hvals := Good.fst e (consume_good _ _ hidx)
    · exact hvals
    split <;> rename_i e <;> have hbase := Good.fst e (accumBase_good _ _ _ hvals)
    · exact hbase
    rw [hsum]
    exact State.applyPatch_good _ hbase
  · rw [hsum]
    exact State.poisonCws_good _ (State.applyPatch_good _ (carry_good _ _ hidx))

theorem copyPerform_good (eng : Engine) (x : EngCtx) (h : Good k s) : Good k (copyPerform eng x s).1 := h

theorem collPerform_good (eng : Engine) (x : EngCtx) (h : Good k s) : Good k (collPerform eng x s).1 := by
  unfold collPerform
  dsimp only
  split
  · exact h
  · exact Good.build rfl rfl rfl h

/-! ### The operation of a record -/

/-- An operation keeps the standing and the form of memory, whatever its instruction. -/
def EngineOp.Keeps (op : EngineOp) : Prop := ∀ k x s, Good k s → Good k (op.perform x s).1

theorem elemOp_keeps (fn : VxFn) : (vxOp (elemPerform fn)).Keeps := fun _ x _ h => elemPerform_good fn x h

theorem cmpOp_keeps (fn : Num → Num → Bool) : (vxOp (cmpPerform fn)).Keeps := fun _ x _ h => cmpPerform_good fn x h

theorem redOp_keeps (f : VxRed) : (vxOp (redPerform f)).Keeps := fun _ x _ h => redPerform_good f x h

/-- Every MX, DR and VX operation keeps the standing and the form of memory. -/
theorem computeOp_keeps (eng : Engine) (opc : Nat) : (computeOp eng opc).Keeps := by
  unfold computeOp
  split
  case h_1 => exact fun _ x _ h => wloadPerform_good x h
  case h_2 => exact fun _ x _ h => matmulPerform_good x h
  case h_3 => exact fun _ x _ h => tclrPerform_good x h
  case h_4 => exact fun _ x _ h => drainPerform_good x h
  case h_25 | h_26 | h_27 | h_28 => exact cmpOp_keeps _
  case h_29 => exact fun _ x _ h => nfcountPerform_good x h
  case h_30 | h_31 | h_32 | h_33 | h_34 => exact redOp_keeps _
  case h_35 => exact fun _ x _ h => compressPerform_good x h
  case h_36 => exact fun _ x _ h => expandPerform_good x h
  case h_37 => exact fun _ x _ h => normsqPerform_good x h
  case h_38 => exact fun _ x _ h => updatePerform_good x h
  all_goals exact elemOp_keeps _

theorem copyOp_keeps (eng : Engine) : (copyOp eng).Keeps := fun _ x _ h => copyPerform_good eng x h

theorem collOp_keeps (eng : Engine) : (collOp eng).Keeps := fun _ x _ h => collPerform_good eng x h

theorem opOf_keeps (eng : Engine) (rec_ : Nat) : (opOf eng rec_).Keeps := by
  unfold opOf
  repeat' split
  case h_1.isTrue | h_2.isTrue => exact collOp_keeps _
  case h_1.isFalse | h_2.isFalse => exact copyOp_keeps _
  case h_3 => exact computeOp_keeps _ _

end
end Sys2Proof.Machine
end

section
/-! SUPPORT. What each command answers: a next state, and what that state keeps. -/

namespace Sys2Proof.Machine

/-- The command answers a next state, of which `P` holds. -/
def Answers (P : State → Prop) (o : Host.Outcome State Fault Refusal) : Prop := ∃ t, o = .next t ∧ P t

theorem Answers.next {P : State → Prop} {t : State} (h : P t) : Answers P (.next t) := ⟨t, rfl, h⟩

theorem Answers.mono {P Q : State → Prop} {o : Host.Outcome State Fault Refusal} (h : Answers P o) (hpq : ∀ t, P t → Q t) :
    Answers Q o := by
  obtain ⟨t, ho, ht⟩ := h
  exact ⟨t, ho, hpq t ht⟩

theorem Answers.ite {P : State → Prop} {c : Prop} [Decidable c] {o o' : Host.Outcome State Fault Refusal} (h : Answers P o)
    (h' : Answers P o') : Answers P (if c then o else o') := by
  split
  · exact h
  · exact h'

theorem Good.ite {k : Standing} {c : Prop} [Decidable c] {s t : State} (hs : Good k s) (ht : Good k t) :
    Good k (if c then s else t) := by
  split
  · exact hs
  · exact ht

theorem Safe.ite {q : List Instr} {c : Prop} [Decidable c] {s t : State} (hs : Safe q s) (ht : Safe q t) :
    Safe q (if c then s else t) := by
  split
  · exact hs
  · exact ht

variable {k : Standing} {s : State}

/-! ### Parts of the state that no standing speaks of -/

theorem Good.intake (h : Good k s) (x : Intake) : Good k { s with intake := x } := Good.build rfl rfl rfl h

theorem Good.riser (h : Good k s) (x : Riser) : Good k { s with riser := x } := Good.build rfl rfl rfl h

theorem Good.sprue (h : Good k s) (x : Sprue) : Good k { s with sprue := x } := Good.build rfl rfl rfl h

theorem Good.power (h : Good k s) (x : Power) : Good k { s with power := x } := Good.build rfl rfl rfl h

theorem Good.runner (h : Good k s) (x : Runner) : Good k { s with runner := x } := Good.build rfl rfl rfl h

theorem Good.err (h : Good k s) (x : Err) : Good k { s with err := x } := Good.build rfl rfl rfl h

theorem Good.jtag (h : Good k s) (x : Jtag) : Good k { s with jtag := x } := Good.build rfl rfl rfl h

/-- The light changed, but not the laser enable. -/
theorem Good.light (h : Good k s) {x : Light} (hx : x.enabled = s.light.enabled) : Good k { s with light := x } :=
  ⟨by simpa [State.standing, hx] using h.1, h.2⟩

theorem Good.qspiHold (h : Good k s) (x : Bool) : Good k { s with pins := { s.pins with qspiHold := x } } :=
  Good.build rfl rfl rfl h

/-! ### The control core and the engines -/

/-- A command of the control core, whose body is that of its operation. -/
theorem coreRun_coreBody_good (g : Nat) (op : CoreOp) (h : Good k s) : Good k (coreRun g op (coreBody op) s) :=
  coreRun_good _ _ _ h fun a _ => coreBody_keeps op a

theorem execHbmPhaseAccess_good (unit : Fin 128) (eng : PhaseEngine) (idx phase : Nat) (h : Good k s) :
    Answers (Good k) (execHbmPhaseAccess unit eng idx phase s) := by
  cases eng with
  | move e => exact .next (phaseCopy_good _ _ _ _ h)
  | stream => exact .next (phaseStream_good _ _ h)

theorem execInstructionComplete_good (g : Fin 128) (eng : Engine) (idx : Nat) (h : Good k s) :
    Answers (Good k) (execInstructionComplete g eng idx s) := by
  unfold execInstructionComplete
  split
  · exact .next h
  · exact .ite (.next (completeFlight_good _ _ _ _ h)) (.next h)

theorem execGuardLatch_good (g : Fin 128) (h : Good k s) : Answers (Good k) (execGuardLatch g s) :=
  .ite (.next (State.updCl_good _ _ h)) (.next h)

theorem execFillerStepIssue_good (g : Fin 128) (h : Good k s) : Answers (Good k) (execFillerStepIssue g s) := by
  unfold execFillerStepIssue
  split
  · split
    · dsimp only
      split <;> rename_i e <;> have hentry := Good.fst e (makeEntry_good _ _ _ _ _ _ _ h)
      · exact .next (State.faultPour_good _ _ _ _ _ hentry)
      · have hstart {eng rec_ x e} := startOp_good (opOf eng rec_) x e id hentry (opOf_keeps _ _ k) fun _ h => h
        exact .ite (.next (State.count_good _ _ (State.updCl_good _ _ hstart))) (.next hstart)
    · exact .next h
  · exact .next h

theorem execCounterSample_good (g : Fin 128) (pc : BitVec 18) (h : Good k s) :
    Answers (Good k) (execCounterSample g pc s) := by
  unfold execCounterSample
  dsimp only
  split
  · exact .next h
  · exact .next (.ite (State.writeSample_good _ _ (State.updSampler_good _ _ h)) h)

/-! ### Power -/

theorem execRisingEnd_good (n : Fin 58) (h : Good k s) : Answers (Good k) (execRisingEnd n s) :=
  have hup := State.updSeq_good _ _ h
  .ite (.next (.ite (State.settleSamples_good ((State.openGates_good _ hup).power _)) hup)) (.next h)

theorem execFallingEnd_good (n : Fin 58) (h : Good k s) : Answers (Good k) (execFallingEnd n s) :=
  have hdown := State.updSeq_good _ _ h
  .ite (.next (.ite (State.loseGroup_good _ hdown) (.ite (State.count_good _ _ hdown) hdown))) (.next h)

theorem execAvsReading_good (rails : List (Option (Nat × Nat))) (h : Good k s) :
    Answers (Good k) (execAvsReading rails s) := by
  refine .ite (.next h) ?_
  dsimp only
  split
  · exact .next (h.power _)
  · exact .ite (.next h) (.next (State.trustStep_good _ (h.power _)))

theorem execGateStep_good (c0 c1 base : List (BitVec 16)) (h : Good k s) : Answers (Good k) (execGateStep c0 c1 base s) :=
  .next (.ite (State.stepTaken_good (State.gateStep_good _ _ _ h)) h)

/-! ### The intake -/

theorem execIntakeWrite_good (p : HostPort) (c : Fin 64) (off : Nat) (data : List Byte) (h : Good k s) :
    Answers (Good k) (execIntakeWrite p c off data s) :=
  have htlp := State.hostTlp_good _ _ _ h
  .ite (.next (State.notReached_good _ h))
    (.ite (.next h) (.next (.ite (State.addStray_good htlp) (State.windowWrite_good _ _ _ _ htlp))))

theorem execPacketDecision_good (c : Fin 64) (h : Good k s) : Answers (Good k) (execPacketDecision c s) := by
  unfold execPacketDecision
  split
  · exact .next (.ite (State.decidePacket_good _ (State.noteAll_good _ _ (h.intake _))) h)
  · exact .next h

theorem execIntakeStallTimeout_good (c : Fin 64) (h : Good k s) : Answers (Good k) (execIntakeStallTimeout c s) :=
  .next (.ite (h.err _) h)

/-! ### Pours -/

theorem execCloseTeardown_good (c : Fin 64) (h : Good k s) : Answers (Good k) (execCloseTeardown c s) := by
  have hstart := State.startPour_good c opChannelClose noNeeds (fun _ _ s => s) h fun _ _ _ h => h
  unfold execCloseTeardown
  dsimp only
  split
  · exact .next (.ite (State.closeChannel_good _ hstart) hstart)
  · have hdone {handles : List Nat} {run o n} := State.pumpReplies_good n c.val
      (State.commitFixed_good c.val run o (Good.foldl (l := handles) hstart fun _ i h => State.unload_good i h))
    exact .ite (.next (.ite (State.closeChannel_good _ hdone) hdone)) (.next hstart)

theorem execSetStepSize_good (c : Fin 64) (h : Good k s) : Answers (Good k) (execSetStepSize c s) :=
  .next (State.startPour_good _ _ _ _ h fun _ _ _ h => State.fix_good _ _ h)

theorem execCopyIn_good (c : Fin 64) (h : Good k s) : Answers (Good k) (execCopyIn c s) := by
  refine .next (State.startPour_good _ _ _ _ h fun _ _ s h => ?_)
  split
  · exact State.fix_good _ _ h
  · exact State.askHost_good _ (State.updRunning_good _ _ h)

theorem execFill_good (c : Fin 64) (h : Good k s) : Answers (Good k) (execFill c s) := by
  refine .next (State.startPour_good _ _ _ _ h fun _ _ s h => ?_)
  extract_lets n
  split
  · exact State.fix_good _ _ h
  · exact State.fix_good _ _ (State.writeMem_good _ _ _ _ h)

theorem execCopyOut_good (c : Fin 64) (h : Good k s) : Answers (Good k) (execCopyOut c s) := by
  unfold execCopyOut
  split
  · exact .next (.ite (State.copyOut_good _ _ h) h)
  · exact .next (State.startPour_good _ _ _ _ h fun _ _ _ h => State.copyOut_good _ _ h)

theorem execFirmwareActivate_good (c : Fin 64) (h : Good k s) : Answers (Good k) (execFirmwareActivate c s) := by
  refine .ite (.next h) (.next (State.startPour_good _ _ _ _ h fun _ _ s h => ?_))
  split <;> rename_i e <;> have hslot := Good.snd e (State.verifySlot_good _ _ h)
  · exact State.fix_good _ _ (State.updLedger_good _ _ (State.service_good _ hslot))
  · exact State.fix_good _ _ (State.service_good _ hslot)

theorem execHostDmaCompletion_good (p : HostPort) (c : Fin 64) (data : List Byte) (st : TlpStatus) (h : Good k s) :
    Answers (Good k) (execHostDmaCompletion p c data st s) := by
  unfold execHostDmaCompletion
  split
  · exact .next h
  · refine .next (.ite (State.notReached_good _ h) ?_)
    cases st with
    | good => exact State.takeData_good _ _ _ _ _ h
    | error => exact State.failedRead_good _ _ h
    | poisoned => exact State.failedRead_good _ _ (State.notePoisoned_good _ h)

theorem execQueryDevice_good (c : Fin 64) (h : Good k s) : Answers (Good k) (execQueryDevice c s) :=
  .next (State.resumeOr_good _ _ h (State.startPour_good _ _ _ _ h fun _ _ _ ht => .ite (State.answerWith_good _ _ _ _ ht) h))

theorem execQueryPattern_good (c : Fin 64) (h : Good k s) : Answers (Good k) (execQueryPattern c s) := by
  refine .next (State.resumeOr_good _ _ h (State.startPour_good _ _ _ _ h fun _ _ _ ht => .ite ?_ h))
  split
  · exact State.fix_good _ _ ht
  · exact State.answerWith_good _ _ _ _ ht

theorem execAttestDeviceEvidence_good (c : Fin 64) (h : Good k s) : Answers (Good k) (execAttestDeviceEvidence c s) :=
  .next (State.resumeOr_good _ _ h (State.startPour_good _ _ _ _ h fun _ _ _ ht =>
    .ite (State.answerWith_good _ _ _ _ (State.attestDevice_good _ ht)) h))

theorem execAttestReceipt_good (c : Fin 64) (h : Good k s) : Answers (Good k) (execAttestReceipt c s) := by
  refine .next (State.resumeOr_good _ _ h (State.startPour_good _ _ _ _ h fun _ _ _ ht => .ite ?_ h))
  split
  · exact State.fix_good _ _ ht
  · exact State.answerWith_good _ _ _ _ (State.attestReceiptOf_good _ _ ht)

/-! ### Runs -/

theorem execRun_good (c : Fin 64) (h : Good k s) : Answers (Good k) (execRun c s) := by
  unfold execRun
  split
  · have hvoted := State.handleFaults_good (State.voteStep_good h)
    dsimp only
    split
    · have hon {ks} := State.enableAll_good ks hvoted
      exact .ite (.next (.ite (State.replayRun_good _ _ _ _ (State.closeCycle_good hon)) hon)) (.next hvoted)
    · exact .next hvoted
  · split
    · exact .next h
    · have hfaults := State.handleFaults_good h
      exact .next (.ite (State.startPour_good _ _ _ _ hfaults fun _ _ _ h => State.startRun_good _ _ _ h) hfaults)

theorem execPourCommit_good (c : Fin 64) (h : Good k s) : Answers (Good k) (execPourCommit c s) := by
  refine .ite (.next h) ?_
  split
  · exact .next h
  · split
    · exact .next (.ite h (State.commitFixed_good _ _ _ h))
    · have hvoted := State.voteStep_good h
      dsimp only
      split
      · refine .ite ?_ (.next hvoted)
        split
        · exact .next (State.pourOver_good (State.commitRun_good _ _ _ _ hvoted))
        · exact .next (State.pourOver_good (State.faultRun_good _ _ _ _ (State.closeCycle_good hvoted)))
        · exact .next hvoted
      · exact .next hvoted

/-! ### Runner ports -/

theorem execTrainingStageDone_good (p : Fin 32) (stage : Nat) (r : StageResult) (h : Good k s) :
    Answers (Good k) (execTrainingStageDone p stage r s) := by
  refine .ite (.next h) ?_
  cases r with
  | failed => exact .next (State.failPort_good _ _ h)
  | margins tx rx => exact .next (.ite (State.stageTwo_good _ _ _ h) h)
  | ok =>
    dsimp only
    split
    · exact .next (State.stageOne_good _ h)
    · exact .next (State.sendIdentity_good _ _ (State.updRport_good _ _ h))
    · exact .next (.ite (State.updRport_good _ _ h) h)
    · exact .next (.ite (State.updRport_good _ _ h) h)
    · exact .next (.ite (State.letIn_good _ h) h)
    · exact .next h

theorem execJoinPortTimeout_good (p : Fin 32) (h : Good k s) : Answers (Good k) (execJoinPortTimeout p s) :=
  .next (.ite (State.portEnded_good _ _ _ (State.logStatus_good _ _ _ _ _ _ (State.updRport_good _ _ h))) h)

theorem execSpareTimeout_good (p : Fin 32) (h : Good k s) : Answers (Good k) (execSpareTimeout p s) := by
  unfold execSpareTimeout
  dsimp only
  split
  · exact .next h
  · exact .next (State.noSpare_good _ ((State.stopAwaiting_good _ (State.goDark_good _ h)).runner _))

/-! ### Light -/

theorem execLaneRecord_good (p : Fin 32) (r : LaneRecord) (h : Good k s) : Answers (Good k) (execLaneRecord p r s) :=
  .ite (.next h) (.ite (.next (State.confirmRx_good _ _ h)) (.ite (.next h)
    (.ite (.next (State.changeTx_good _ _ h)) (.next (State.updLight_good _ _ h)))))

theorem execResweepDone_good (place : RingPlace) (sweep : RingSweep) (h : Good k s) :
    Answers (Good k) (execResweepDone place sweep s) := by
  cases place with
  | runner p dir lane => exact .next (.ite (State.acquire_good _ _ (State.updLight_good _ _ h)) h)
  | floor dir side lane =>
    exact .next (.ite (.ite (State.acquireFloor_good _ (h.light rfl)) (h.light rfl)) h)

theorem execLaneReturn_good (check : ReturnCheck) (h : Good k s) : Answers (Good k) (execLaneReturn check s) := by
  unfold execLaneReturn
  split
  · exact .next h
  · exact .ite (.next h) (.ite (.next (State.changeRx_good _ _ _ (State.updLight_good _ _ h)))
      (.next (State.updLight_good _ _ h)))
  · exact .ite (.next h) (.ite (.next (State.floorReturn_good _ _ h)) (.next (h.light rfl)))

theorem execFloorLaneRemoval_good (dir : Fin 2) (loss : FloorLoss) (h : Good k s) :
    Answers (Good k) (execFloorLaneRemoval dir loss s) :=
  have hown := Good.ite (State.floorMislock_good _ h) h
  .ite (.next h) (.next (State.floorLose_good _ _ _ (hown.light rfl)))

theorem execLockLoopUpdate_good (link : RingLink) (side : LaneDir) (lane : Fin 400) (estimate : Int) (h : Good k s) :
    Answers (Good k) (execLockLoopUpdate link side lane estimate s) := by
  cases link with
  | runner p => exact .next (.ite (State.settleRing_good _ _ _ _ (State.updLight_good _ _ h)) h)
  | floor dir carried => exact .next (.ite (State.settleFloor_good _ _ _ _ _ (h.light rfl)) h)

theorem execFeedForward_good (bank : RingBank) (side : LaneDir) (delta : Int) (h : Good k s) :
    Answers (Good k) (execFeedForward bank side delta s) := by
  cases bank with
  | runner p =>
    have htemp {f} := State.updLight_good p f h
    exact .next (.ite (State.feedBank_good _ _ _ htemp) htemp)
  | floor dir waveguide carried =>
    exact .next (.ite (State.feedFloor_good _ _ _ _ _ (h.light rfl)) (h.light rfl))

theorem execFloorStallTimeout_good (dir : Fin 2) (h : Good k s) : Answers (Good k) (execFloorStallTimeout dir s) :=
  .next (.ite (State.addLocal_good _ (h.light rfl)) h)

theorem execLaserBusConfirm_good (n : Fin 4) (emit fault : BitVec 8) (h : Good k s) :
    Answers (Good k) (execLaserBusConfirm n emit fault s) :=
  .ite (.next (h.light rfl)) (.next (.ite (h.light rfl) h))

theorem execLaserBusTimeout_good (n : Fin 4) (h : Good k s) : Answers (Good k) (execLaserBusTimeout n s) :=
  .ite (.next h) (.next (Good.foldl (h.light rfl) fun _ _ h => State.failPort_good _ _ h))

/-! ### Riser, Sprue and positions -/

theorem execRiserWriteFail_good (copy : Fin 2) (line : Option RLine) (h : Good k s) :
    Answers (Good k) (execRiserWriteFail copy line s) := by
  refine .ite (.next h) (.next ?_)
  have hlost {r : Riser} {l : List (Fin 2)} : Good k (l.foldl (fun (s : State) n =>
      (s.logStatus stMirrorLost unitRiser n.val 0 false none).addLocal 300) { s with riser := r }) :=
    Good.foldl (h.riser r) fun _ _ h => State.addLocal_good _ (State.logStatus_good _ _ _ _ _ _ h)
  exact .ite hlost (State.loseRiser_good (State.logStatus_good _ _ _ _ _ _ hlost))

theorem execRiserRebuildDone_good (h : Good k s) : Answers (Good k) (execRiserRebuildDone s) :=
  .ite (.next h) (.ite (.next (h.riser _)) (.ite (.next (h.riser _)) (.next h)))

theorem execSprueTakeover_good (h : Good k s) : Answers (Good k) (execSprueTakeover s) :=
  .next (.ite (State.addLocal_good _ (h.sprue _)) h)

theorem execSpareBistDone_good (die : Fin 2) (pos : Fin 66) (pass : Bool) (h : Good k s) :
    Answers (Good k) (execSpareBistDone die pos pass s) :=
  .next (.ite (.ite (State.sparePasses_good _ _ h) (State.spareFails_good _ _ h)) h)

/-! ### Health -/

theorem execHealthEvaluation_good (h : Good k s) : Answers (Good k) (execHealthEvaluation s) :=
  have hports := Good.foldl h fun _ _ h => State.serPoint_good _ h
  .next (.ite (hports.err _) h)

theorem execHealthDecay_good (h : Good k s) : Answers (Good k) (execHealthDecay s) :=
  .next (.ite (State.saveHealth_good ((State.hourPoints_good h).err _)) h)

theorem execFettleHbmBurst_good (stack : Fin 8) (h : Good k s) : Answers (Good k) (execFettleHbmBurst stack s) :=
  have hon := State.updSeq_good _ _ h
  .next (.ite (.ite ((State.scrubBurst_good _ hon).err _) hon) h)

theorem execFettleOffGroupTest_good (die : Fin 2) (group : Fin 9) (failing : BitVec 66) (h : Good k s) :
    Answers (Good k) (execFettleOffGroupTest die group failing s) :=
  .next (.ite h (.ite (.ite h (.ite (State.settleSamples_good (h.err _)) (State.endOffTest_good _ _ _ h)))
    (.ite (State.updSeq_good _ _ (h.err _)) h)))

/-! ### Host ports -/

/-- A write that a host port carries to a register's home. -/
theorem hostWrite_next_good {t : State} (p : HostPort) (h : Good k s) (ht : Good k (s.hostTlp p false 4) → Good k t) :
    Answers (Good k) (.next (if !s.hostReach p then s.notReached p else t)) :=
  .next (.ite (State.notReached_good _ h) (ht (State.hostTlp_good _ _ _ h)))

theorem execSpdmRequest_good (p : HostPort) (req : SpdmMessage) (h : Good k s) :
    Answers (Good k) (execSpdmRequest p req s) :=
  have htlp := State.hostTlp_good _ _ _ h
  .ite (.next h) (.ite (.next htlp)
    (.next (State.service_good _ (State.hostTlp_good _ _ _ (State.updPort_good _ _ (State.spdmAnswer_good _ _ htlp))))))

theorem execFlr_good (p : HostPort) (h : Good k s) : Answers (Good k) (execFlr p s) :=
  .next (.ite (State.updPort_good _ _ (State.resetPort_good _ (State.hostTlp_good _ _ _ h))) h)

/-! ### The sideband -/

theorem execQspiHold_good (level : Bool) (writes : List (Nat × Byte)) (h : Good k s) :
    Answers (Good k) (execQspiHold level writes s) :=
  have hflash {l : List (Nat × Byte)} := Good.foldl (l := l) (h.qspiHold (!level)) fun _ e h => State.flashWrite_good e.1 [e.2] h
  .next (.ite (Good.foldl hflash fun _ _ h => State.resumeStage_good _ h) hflash)

theorem execJtagInstruction_good (op : JtagOp) (h : Good k s) : Answers (Good k) (execJtagInstruction op s) := by
  cases op with
  | trst level => exact .next (h.jtag _)
  | loadIr code => exact .next (.ite (h.jtag _) h)
  | shiftDr bits => exact .next (.ite (State.shiftDr_good _ h) h)

/-! ### Frames -/

theorem execDamagedFrame_good (p : Fin 32) (f : Frame) (h : Good k s) : Answers (Good k) (execDamagedFrame p f s) := by
  have hchecked := State.checkLanes_good p f (State.count_good (ctrRunner (s.unitOf p) 5) 1 h)
  have hnak := State.updRport_good p (fun o => { o with nakOut := true, nakCount := o.nakCount + 1 }) hchecked
  exact .ite (.next h) (.ite (.next (.ite h (State.foreignFrame_good h)))
    (.ite (.next hchecked) (.next (.ite (State.portDown_good _ _ hnak) hnak))))

theorem execStart_good (p : Fin 32) (f : Frame) (h : Good k s) : Answers (Good k) (execStart p f s) :=
  .next (State.deliver_good _ _ _ _ h fun _ h =>
    State.toRank_good _ _ _ h fun _ h => .ite (takeStartFrame_good _ h) h)

end Sys2Proof.Machine
end

section
/-! SUPPORT. Every command keeps the queue and the form of memory; all but the resets, the boot, the Assay's stops and the register
writes that lead to them keep the standing too. -/

namespace Sys2Proof.Machine

variable {k : Standing} {q : List Instr} {s : State}

/-! ### Commands that change the standing -/

/-- The commands that a reset, a boot, the Assay or the loss of a rail stands behind, and register writes of any offset. -/
def changesStanding : Instr → Bool
  | .registerWrite .. | .asySelftest .. | .zeroise _ | .decommission _ | .assayError _ | .chillTrip .. | .coldReset
  | .railOutOfRange | .aonClkLoss | .vddAonLoss | .pwrgdAonFall | .vddAonApplied | .pwrgdAonRise | .bootStart .. | .warmReset
  | .warmBootStart | .bootStageDone .. => true
  | _ => false

theorem Safe.pins (h : Safe q s) (x : Pins) : Safe q { s with pins := x } := Safe.build rfl rfl h

theorem Safe.boot (h : Safe q s) (x : Boot) : Safe q { s with boot := x } := Safe.build rfl rfl h

theorem Safe.of_good {t : State} (h : Safe q s) (hg : ∀ k, Good k s → Good k t) : Safe q t := Safe.step hg h

theorem execChillTrip_safe (sensor : BitVec 8) (temp : Nat) (h : Safe q s) :
    Answers (Safe q) (execChillTrip sensor temp s) :=
  have hwork := h.of_good fun _ h =>
    State.updLedger_good .trip (fun l => { l with trip := some ⟨sensor, temp, s.dropWork.stopPorts.cnt.regs.time⟩ })
      (State.stopPorts_good (State.dropWork_good h))
  .ite (.next h) (.next (Safe.build rfl rfl hwork))

theorem execAssayError_safe (cause : BitVec 8) (h : Safe q s) : Answers (Safe q) (execAssayError cause s) :=
  .next (.ite (State.assayStop_safe _ _ h) h)

theorem anyWrite_safe (h : Safe q s) : Safe q s.anyWrite := h.of_good fun _ h => State.anyWrite_good h

theorem execRegisterWrite_safe (p : HostPort) (off width : Nat) (v : Word64) (h : Safe q s) :
    Answers (Safe q) (execRegisterWrite p off width v s) :=
  .next (.ite (h.of_good fun _ h => State.notReached_good _ h)
    (State.writeBar_safe _ _ _ _ (h.of_good fun _ h => State.hostTlp_good _ _ _ h)))

theorem execColdReset_safe (h : Safe q s) : Answers (Safe q) (execColdReset s) :=
  .next (.ite ((State.coldReset_safe _ h).pins _) h)

theorem execAonClkLoss_safe (h : Safe q s) : Answers (Safe q) (execAonClkLoss s) :=
  .next (.ite (Safe.pins (.ite (State.coldReset_safe _ h) h) _) h)

theorem execBootStart_safe (slot : BitVec 3) (board : BitVec 15) (h : Safe q s) :
    Answers (Safe q) (execBootStart slot board s) :=
  have hstarted {pins power ident} : Safe q { s with pins := pins, power := power, ident := ident } := Safe.build rfl rfl h
  .ite (.next h) (.next (.ite ((State.startBoot_safe _ hstarted).pins _) hstarted))

theorem execWarmReset_safe (h : Safe q s) : Answers (Safe q) (execWarmReset s) :=
  .ite (.next h) (.next (Safe.pins (.ite h (State.warmReset_safe h)) _))

theorem execBootStageDone_safe (n : Nat) (r : BootResult) (h : Safe q s) : Answers (Safe q) (execBootStageDone n r s) :=
  have hran := State.runStage_safe r n h
  have hdone := Safe.ite (hran.boot _) hran
  .ite (.next h) (.next (.ite (State.becomeReady_safe hdone) hdone))

/-! ### Every command -/

/-- Every command but those keeps the standing and the form of memory. -/
theorem exec_good (c : Instr) (hc : changesStanding c = false) (h : Good k s) : Answers (Good k) (exec c s) := by
  cases c with
  | registerWrite | asySelftest | zeroise | decommission | assayError | chillTrip | coldReset | railOutOfRange | aonClkLoss
  | vddAonLoss | pwrgdAonFall | vddAonApplied | pwrgdAonRise | bootStart | warmReset | warmBootStart | bootStageDone => cases hc
  -- the control core
  | add | sub | and | or | xor | shl | shr | sra | mul | mulhu | divu | remu | slt | sltu | min | max | addi | movk | fadd | fsub
  | fmul | fdiv | fsqrt | fmin | fmax | flt | feq | fcvtDS | fcvtSD | fcvtDL | fcvtLD | ld64 | ld32 | st64 | st32 | beq | bne | blt
  | bge | bltu | bgeu | jmp | call | jr | waitt | sett | clrt | sumrd | issue | deferArm | deferSync | phaseHint | fence | halt =>
    exact .next (coreRun_coreBody_good _ _ h)
  | coreStallEnd => exact .next (coreRetry_good _ h)
  -- the engines
  | wload => exact .next (issueHead_good _ _ _ _ h (computeOp_keeps .mx 2 k))
  | matmul => exact .next (issueHead_good _ _ _ _ h (computeOp_keeps .mx 1 k))
  | drain => exact .next (issueHead_good _ _ _ _ h (computeOp_keeps .dr 1 k))
  | tclr => exact .next (issueHead_good _ _ _ _ h (computeOp_keeps .dr 2 k))
  | mov | vxAdd | vxSub | vxMul | div | vxMin | vxMax | fma | abs | neg | sqrt | rsqrt | rcp | exp | log | relu | geluTanh | geluErf
  | silu | sigmoid | tanh => exact .next (issueHead_good _ _ _ _ h (elemOp_keeps _ k))
  | cmplt | cmple | cmpeq | cmpne => exact .next (issueHead_good _ _ _ _ h (cmpOp_keeps _ k))
  | rsum | rsumsq | rmax | rmin | ramax => exact .next (issueHead_good _ _ _ _ h (redOp_keeps _ k))
  | nfcount => exact .next (issueHead_good _ _ _ _ h (computeOp_keeps .vx 0x28 k))
  | compress => exact .next (issueHead_good _ _ _ _ h (computeOp_keeps .vx 0x40 k))
  | expand => exact .next (issueHead_good _ _ _ _ h (computeOp_keeps .vx 0x41 k))
  | normsq => exact .next (issueHead_good _ _ _ _ h (computeOp_keeps .vx 0x50 k))
  | update => exact .next (issueHead_good _ _ _ _ h (computeOp_keeps .vx 0x51 k))
  | copy => exact .next (issueMove_good _ _ _ _ h (copyOp_keeps _ k))
  | allReduce | reduceScatter | allGather | allToAll | broadcast | send | recv =>
    exact .next (issueMove_good _ _ _ _ h (collOp_keeps _ k))
  | instructionComplete => exact execInstructionComplete_good _ _ _ h
  | guardLatch => exact execGuardLatch_good _ h
  | fillerStepIssue => exact execFillerStepIssue_good _ h
  | hbmPhaseAccess => exact execHbmPhaseAccess_good _ _ _ _ h
  -- the intake and its channels
  | intakeWrite => exact execIntakeWrite_good _ _ _ _ h
  | packetDecision => exact execPacketDecision_good _ h
  | packetAccept => exact .next (.ite h (State.acceptWith_good _ _ _ h))
  | intakeBodyRetry => exact .next (.ite (State.acceptWith_good _ _ _ h) h)
  | intakeStallTimeout => exact execIntakeStallTimeout_good _ h
  | finalReply => exact .next (.ite (State.pumpReply_good _ h) h)
  | closeTeardown => exact execCloseTeardown_good _ h
  -- pours
  | channelOpen | channelAdopt =>
    exact .next (State.startPour_good _ _ _ _ (State.acceptOp_good _ _ h) fun _ _ _ h => State.fix_good _ _ h)
  | channelClose => exact .next (State.startPour_good _ _ _ _ (State.acceptOp_good _ _ h) fun _ _ _ h => h)
  | patternLoad => exact .next (State.startPour_good _ _ _ _ h fun _ _ _ h => State.loadPattern_good _ _ h)
  | patternUnload | setStepSize | energyRead => exact .next (State.startPour_good _ _ _ _ h fun _ _ _ h => State.fix_good _ _ h)
  | run => exact execRun_good _ h
  | copyIn => exact execCopyIn_good _ h
  | copyOut => exact execCopyOut_good _ h
  | fill => exact execFill_good _ h
  | queryDevice => exact execQueryDevice_good _ h
  | queryPattern => exact execQueryPattern_good _ h
  | flaskJoin => exact .next (State.resumeOr_good _ _ h (State.startPour_good _ _ _ _ h fun _ _ _ h => State.joinBody_good _ _ _ h))
  | flaskLeave => exact .next (State.resumeOr_good _ _ h (State.startPour_good _ _ _ _ h fun _ _ _ h => State.leaveBody_good _ h))
  | marginTest => exact .next (State.resumeOr_good _ _ h (State.startPour_good _ _ _ _ h fun _ _ _ h => State.marginBody_good _ _ h))
  | attestDeviceEvidence => exact execAttestDeviceEvidence_good _ h
  | attestReceipt => exact execAttestReceipt_good _ h
  | firmwareStage =>
    exact .next (State.startPour_good _ _ _ _ h fun _ _ _ h =>
      State.askHost_good _ (State.updRunning_good _ _ (State.updLedger_good _ _ h)))
  | firmwareActivate c => exact execFirmwareActivate_good c h
  | pourCommit => exact execPourCommit_good _ h
  | hostDmaCompletion => exact execHostDmaCompletion_good _ _ _ _ h
  -- registers with commands of their own
  | sprChanRhead => exact hostWrite_next_good _ h fun h => State.writeRhead_good _ _ _ h
  | channelReset | channelResetAbandon => exact hostWrite_next_good _ h fun h => State.writeReset_good _ _ _ h
  | rsrReinit => exact hostWrite_next_good _ h fun h => State.writeReinit_good _ _ h
  | cntSnap => exact hostWrite_next_good _ h fun h => State.writeSnap_good _ h
  | cntBwCtrl => exact .next (.ite (State.writeBw_good _ _ (State.anyWrite_good h)) h)
  | cntSampleCtrl => exact .next (.ite (State.writeSampling_good _ _ (State.anyWrite_good h)) h)
  | pwrCapWatts => exact .next (.ite (State.writeCap_good _ (State.anyWrite_good h)) h)
  | trippedClear => exact .next (.ite (State.writeStatus_good _ (State.anyWrite_good h)) h)
  | monitorReading => exact .next (.ite (State.writeMonitor_good _ (State.anyWrite_good h)) h)
  | monitorReadingDone => exact .next (.ite (h.light rfl) h)
  -- faults of positions
  | clusterFault => exact .next (.ite (State.positionFault_good _ _ _ h) h)
  | spareBistDone => exact execSpareBistDone_good _ _ _ h
  -- Runner frames and ports
  | idleFrame => exact .next (State.deliver_good _ _ _ _ h fun _ h => h)
  | damagedFrame => exact execDamagedFrame_good _ _ h
  | streamData =>
    exact .next (State.deliver_good _ _ _ _ h fun _ h => State.toRank_good _ _ _ h fun _ h => takeStreamFrame_good _ _ _ h)
  | start => exact execStart_good _ _ h
  | voteUp => exact .next (State.deliver_good _ _ _ _ h fun _ h => State.toRank_good _ _ _ h fun _ h => State.takeVoteUp_good _ h)
  | voteDown =>
    exact .next (State.deliver_good _ _ _ _ h fun _ h => State.toRank_good _ _ _ h fun _ h => State.takeVoteDown_good _ h)
  | boardReadRequest | boardWrite => exact .next (State.boardFrame_good _ _ _ _ h)
  | boardReadResponse => exact .next (State.deliver_good _ _ _ _ h fun _ h => State.boardResponse_good _ _ h)
  | identityRecord => exact .next (.ite (State.takeRecord_good _ _ h) h)
  | trainingStageDone => exact execTrainingStageDone_good _ _ _ h
  | joinPortTimeout => exact execJoinPortTimeout_good _ h
  | portSilenceTimeout => exact .next (State.portDown_good _ _ h)
  | spareTimeout => exact execSpareTimeout_good _ h
  -- light
  | laneRecord => exact execLaneRecord_good _ _ h
  | resweepDone => exact execResweepDone_good _ _ h
  | laneReturn => exact execLaneReturn_good _ h
  | lockLoopUpdate => exact execLockLoopUpdate_good _ _ _ _ h
  | feedForward => exact execFeedForward_good _ _ _ h
  | floorLaneRemoval => exact execFloorLaneRemoval_good _ _ h
  | floorStallTimeout => exact execFloorStallTimeout_good _ h
  | openFibreDetect => exact .next (.ite (State.shutPort_good _ _ h) h)
  | laserBusConfirm => exact execLaserBusConfirm_good _ _ _ h
  | laserBusTimeout => exact execLaserBusTimeout_good _ h
  | eyeProbe | eyeProbeDone => exact .next (.ite (State.setProbe_good _ _ (State.updLight_good _ _ h)) h)
  -- power
  | gateStep => exact execGateStep_good _ _ _ h
  | clusterSleep => exact .next (.ite (State.updCl_good _ _ h) h)
  | avsReading => exact execAvsReading_good _ h
  | idleHoldoffExpiry => exact .next (.ite (State.disableDomain_good _ h) h)
  | risingEnd => exact execRisingEnd_good _ h
  | fallingEnd => exact execFallingEnd_good _ h
  | minimumOffExpiry => exact .next (.ite (State.updSeq_good _ _ h) h)
  -- counters and health
  | counterSample => exact execCounterSample_good _ _ h
  | bandwidthWindowEnd => exact .next (.ite (State.updBw_good _ _ h) h)
  | healthEvaluation => exact execHealthEvaluation_good h
  | healthDecay => exact execHealthDecay_good h
  | fettleHbmBurst => exact execFettleHbmBurst_good _ h
  | fettleSramSlot => exact .next (.ite (State.scrubSlot_good _ h) h)
  | fettleOffGroupTest => exact execFettleOffGroupTest_good _ _ _ h
  -- the Riser and the Sprues
  | riserWriteFail => exact execRiserWriteFail_good _ _ h
  | riserRebuildDone => exact execRiserRebuildDone_good h
  | sprueTakeover => exact execSprueTakeover_good h
  | standbySprueFailure => exact .next (h.sprue _)
  -- host ports
  | spdmRequest => exact execSpdmRequest_good _ _ h
  | ideIntegrityFailure => exact .next (.ite (State.count_good _ _ (State.updPort_good _ _ h)) h)
  | hostLinkDown => exact .next (State.updPort_good _ _ h)
  | hostLinkUp | flrComplete => exact .next (.ite (State.portBack_good _ (State.updPort_good _ _ h)) h)
  | busMasterEnable => exact .next (.ite (State.portBack_good _ (State.updPort_good _ _ (State.hostTlp_good _ _ _ h))) h)
  | perstN => exact .next (State.updPort_good _ _ (State.resetPort_good _ h))
  | perstNRelease => exact .next (State.updPort_good _ _ h)
  | flr => exact execFlr_good _ h
  -- the sideband
  | mctpBootStatus => exact .next (.ite (State.mctpAnswer_good _ h) h)
  | errLogSeqRead => exact .next (.ite (Good.build rfl rfl rfl (State.mctpAnswer_good s.err.seq h)) h)
  | qspiHold => exact execQspiHold_good _ _ h
  | jtagInstruction => exact execJtagInstruction_good _ h

theorem Answers.safe_of_good {o : Host.Outcome State Fault Refusal} (h : Safe q s)
    (hg : Answers (Good s.standing) o) : Answers (Safe q) o :=
  hg.mono fun _ ht => ⟨(congrArg Standing.pending ht.standing).trans h.1, ht.mem⟩

/-- Every command answers a next state with the queue as it was and a memory in canonical form. -/
theorem exec_safe (c : Instr) (h : Safe q s) : Answers (Safe q) (exec c s) := by
  cases hc : changesStanding c with
  | false => exact Answers.safe_of_good h (exec_good c hc ⟨rfl, h.mem⟩)
  | true =>
    cases c with
    | registerWrite => exact execRegisterWrite_safe _ _ _ _ h
    | asySelftest => exact .next (.ite (State.writeSelftest_safe _ _ (anyWrite_safe h)) h)
    | zeroise | decommission => exact .next (.ite (State.writeZeroise_safe _ (anyWrite_safe h)) h)
    | assayError => exact execAssayError_safe _ h
    | chillTrip => exact execChillTrip_safe _ _ h
    | coldReset => exact execColdReset_safe h
    | railOutOfRange => exact .next (.ite (State.coldReset_safe _ h) h)
    | aonClkLoss => exact execAonClkLoss_safe h
    | vddAonLoss => exact .next (.ite ((State.aonLoss_safe h).pins _) h)
    | pwrgdAonFall => exact .next (.ite (.ite (State.aonLoss_safe h) (h.pins _)) h)
    | vddAonApplied => exact .next (.ite h (Safe.build rfl rfl h))
    | pwrgdAonRise => exact .next (.ite (Safe.build rfl rfl h) h)
    | bootStart => exact execBootStart_safe _ _ h
    | warmReset => exact execWarmReset_safe h
    | warmBootStart => exact .next (.ite ((State.startBoot_safe _ h).pins _) h)
    | bootStageDone => exact execBootStageDone_safe _ _ h
    | _ => cases hc

/-- A period of the clock keeps the form of memory, and so does every command. -/
theorem step_mem_wf {t : State} (h : s.mem.wf = true) (hst : step s = .next t) : t.mem.wf = true := by
  unfold step at hst
  split at hst
  · cases hst
    exact (idleTick_good (k := s.standing) ⟨rfl, h⟩).mem
  · next c rest _ =>
    obtain ⟨t', ht', hsafe⟩ := exec_safe (q := rest) (s := { s with pending := rest }) c ⟨rfl, h⟩
    rw [ht'] at hst
    cases hst
    exact hsafe.mem

/-- Settles O3: a step is a period of the clock or one command, and each keeps the form. -/
theorem stepKeepsMemoryForm : Obligations.StepKeepsMemoryForm := fun _ _ h hst => step_mem_wf h hst

end Sys2Proof.Machine
end

section
/-! SUPPORT. What a boot's readiness and the recovery of the ledger leave as the stages set it: the board. -/

namespace Sys2Proof.Machine

variable {s t : State}

/-- What the boot stages set, and neither recovery nor the training of the live ports touches. -/
structure Board where
  mem     : Mem
  sprue   : Sprue
  boot    : Boot
  mode    : AssayMode
  ident   : Ident
  light   : Fin 2 → BitVec 400
  sources : BitVec 4
  gates   : Fin 8 → Sequencer

/-- The board of a state. -/
def State.board (s : State) : Board where
  mem := s.mem
  sprue := s.sprue
  boot := s.boot
  mode := s.assay.mode
  ident := s.ident
  light := fun d => s.light.out d
  sources := s.light.srcPresent
  gates := fun k => s.seq (stackDomain k)

/-! ### What one board says of another -/

theorem State.mem_of_board (h : t.board = s.board) : t.mem = s.mem := congrArg Board.mem h
theorem State.sprue_of_board (h : t.board = s.board) : t.sprue = s.sprue := congrArg Board.sprue h
theorem State.boot_of_board (h : t.board = s.board) : t.boot = s.boot := congrArg Board.boot h
theorem State.ident_of_board (h : t.board = s.board) : t.ident = s.ident := congrArg Board.ident h

/-- The lanes out, read on the board. -/
theorem State.out_eq_board (s : State) (d : Fin 2) : s.light.out d = s.board.light d := rfl

/-- A fold keeps the board when each of its steps does. -/
theorem State.foldl_board {α : Type} {f : State → α → State} {l : List α} (hf : ∀ s, ∀ a ∈ l, (f s a).board = s.board) (s : State) :
    (l.foldl f s).board = s.board := by
  induction l generalizing s with
  | nil => rfl
  | cons a l ih => exact (ih (fun s b hb => hf s b (List.mem_cons_of_mem _ hb)) _).trans (hf s a List.mem_cons_self)

/-- A step that is taken or not keeps the board when it does where it is taken. -/
theorem State.ite_board {c : Prop} [Decidable c] (h : t.board = s.board) : (if c then t else s).board = s.board := by
  split
  · exact h
  · rfl

/-! ### Operations that keep it -/

theorem State.noteChan_board (s : State) (c : Nat) (f : ChanRec → ChanRec) : (s.noteChan c f).board = s.board := rfl
theorem State.dropRecords_board (s : State) (h : Nat) : (s.dropRecords h).board = s.board := rfl
theorem State.queueReply_board (s : State) (c : Nat) (r : Reply) : (s.queueReply c r).board = s.board := rfl
theorem State.queueFinal_board (s : State) (c : Nat) (e : Entry) : (s.queueFinal c e).board = s.board := rfl
theorem State.count_board (s : State) (off k : Nat) : (s.count off k).board = s.board := rfl

/-- The domain of a port is none of a stack. -/
theorem State.updSeq_port_board (s : State) (p : Nat) (f : Sequencer → Sequencer) :
    (s.updSeq (portDomain p) f).board = s.board := by
  have h (k : Fin 8) : (s.updSeq (portDomain p) f).seq (stackDomain k) = s.seq (stackDomain k) := by
    have hne : portDomain p ≠ stackDomain k := by
      unfold stackDomain portDomain
      omega
    simp [State.seq, State.updSeq, Tab.get_upd, hne]
  simp [State.board, h]

theorem State.addLocal_board (s : State) (k : Nat) : (s.addLocal k).board = s.board := by
  unfold State.addLocal
  split <;> rfl

theorem State.updPort_board (s : State) (p : HostPort) (f : HostPortState → HostPortState) : (s.updPort p f).board = s.board := by
  cases p <;> rfl

theorem State.msix_board (s : State) (p : HostPort) (v : Nat) : (s.msix p v).board = s.board := by
  unfold State.msix
  split
  · exact State.updPort_board ..
  · exact State.updPort_board ..

theorem State.logStatus_board (s : State) (st : BitVec 16) (u i a : Nat) (l : Bool) (p : Option (Nat × Word64)) :
    (s.logStatus st u i a l p).board = s.board :=
  (State.msix_board ..).trans ((State.msix_board ..).trans rfl)

theorem State.reportTrip_board (s : State) : s.reportTrip.board = s.board :=
  State.ite_board ((State.addLocal_board ..).trans (State.logStatus_board ..))

/-! ### The training of the live ports (R413) -/

theorem State.setOut_board (s : State) (p : Nat) (on : Bool) : (s.setOut p on).board = s.board := by
  unfold State.setOut
  split <;> rfl

theorem State.startTraining_board (s : State) (p lp : Nat) : (s.startTraining p lp).board = s.board :=
  (State.setOut_board ..).trans (State.updSeq_port_board ..)

theorem State.goDark_board (s : State) (p : Nat) : (s.goDark p).board = s.board :=
  (State.setOut_board (s.darkPort p) p false).trans (State.updSeq_port_board s p Sequencer.disable)

theorem State.settleWait_board (s : State) (c : Nat) : (s.settleWait c).board = s.board := by
  unfold State.settleWait
  split
  · rfl
  · split
    · split
      · rfl
      · exact State.ite_board rfl
    · rfl

theorem State.portEnded_board (s : State) (op bit : Nat) (st : BitVec 16) : (s.portEnded op bit st).board = s.board :=
  State.foldl_board (fun s c _ => by
    split
    · rfl
    · exact State.ite_board (State.settleWait_board ..)) s

/-- A spare brought in for a port whose training a warm boot has begun: where none is free, nothing ends. -/
theorem State.bringSpare_board {lp : Nat} (p : Nat) (h : s.runner.retrains.contains lp = true) :
    (s.bringSpare p lp).board = s.board := by
  unfold State.bringSpare
  dsimp only
  split
  · exact State.startTraining_board ..
  · have hr : (s.stopAwaiting lp).runner.retrains.contains lp = true := h
    rw [State.noSpare, if_pos hr]
    rfl

/-- A port that is no spare and fails for eye safety, which is reported where it is found. -/
theorem State.failPort_board {p : Nat} (s : State) (hp : p < 30) : (s.failPort p stEyeSafety).board = s.board := by
  have hm : ¬stEyeSafety = stMarginLow := by decide
  unfold State.failPort
  dsimp only
  simp only [if_true, hm, if_false, show ¬30 ≤ p by omega]
  have dark (g : Port → Port) (a b lp : Nat) :
      ((((s.goDark p).updRport p g).portEnded a p stEyeSafety).portEnded b lp stEyeSafety).board = s.board :=
    (State.portEnded_board ..).trans ((State.portEnded_board ..).trans (State.goDark_board ..))
  split
  next h => exact (State.bringSpare_board p h).trans (dark ..)
  next => exact dark ..

theorem FlaskRecord.lt_of_mem_live {f : FlaskRecord} {p : Nat} (h : p ∈ f.live) : p < 30 := by
  unfold FlaskRecord.live at h
  simp only [List.mem_filter, List.mem_range] at h
  exact h.1

theorem State.trainLive_board (s : State) (f : FlaskRecord) : (s.trainLive f.live).board = s.board :=
  State.foldl_board (fun s p hp => by
    split
    · exact State.failPort_board s (FlaskRecord.lt_of_mem_live hp)
    · exact State.startTraining_board ..) s

/-! ### Readiness -/

theorem State.confirmBoot_board (s : State) : s.confirmBoot.board = s.board := by
  unfold State.confirmBoot
  dsimp only
  split
  · rfl
  · exact State.ite_board rfl

/-- Readiness sets the phase, READY and the stacks' TRAINED, and no more of the board. -/
theorem State.becomeReady_board (s : State) :
    s.becomeReady.board = { s.board with boot := { s.boot with phase := .ready, ready := true }, ident := { s.ident with trained := 0xFF } } := by
  have hc := State.confirmBoot_board s
  have hb := State.boot_of_board hc
  have hi := State.ident_of_board hc
  have hr : ({ s.confirmBoot with
      boot := { s.confirmBoot.boot with phase := .ready, ready := true }
      ident := { s.confirmBoot.ident with trained := 0xFF }
      light := { s.confirmBoot.light with enabled := true } } : State).board
      = { s.board with boot := { s.boot with phase := .ready, ready := true }, ident := { s.ident with trained := 0xFF } } := by
    rw [← hb, ← hi, ← hc]
    rfl
  unfold State.becomeReady
  dsimp only
  split
  · exact (State.trainLive_board ..).trans hr
  · exact hr

/-! ### The recovery of the ledger (R251 to R253) -/

theorem State.unload_board (s : State) (h : Nat) : (s.unload h).board = s.board := by
  unfold State.unload
  split <;> rfl

theorem State.completeWrites_board (s : State) (c : Nat) (e : Entry) : (s.completeWrites c e).board = s.board := by
  unfold State.completeWrites
  split
  · exact State.ite_board (State.unload_board ..)
  · rfl

theorem State.cutRun_board (s : State) (c : Nat) (e : Nat × Entry) : (s.cutRun c e).board = s.board :=
  State.ite_board rfl

theorem State.recoverOne_board (s : State) (cold : Bool) (c : Nat) (e : Nat × Entry) : (s.recoverOne cold c e).board = s.board := by
  have put (x : Entry) : (if x = e.2 then s else s.updEntry e.1 fun _ => x).board = s.board := by
    split <;> rfl
  unfold State.recoverOne
  dsimp only
  generalize (if cold = true then s.recoverEntry c e.2 else s.warmEntry c e.2) = x
  split
  · exact (State.noteChan_board ..).trans (put x)
  · split
    · exact put x
    · exact (State.cutRun_board ..).trans (put x)

theorem State.recoverCount_board (s : State) (c : Nat) : (s.recoverCount c).board = s.board := by
  unfold State.recoverCount
  split <;> rfl

theorem State.requeue_board (s : State) (c : Nat) : (s.requeue c).board = s.board := by
  unfold State.requeue
  exact (State.foldl_board (fun _ _ _ => State.queueFinal_board ..) _).trans
    (State.foldl_board (fun _ _ _ => State.queueReply_board ..) _)

theorem State.recoverChannel_board (s : State) (cold : Bool) (c : Nat) : (s.recoverChannel cold c).board = s.board := by
  unfold State.recoverChannel
  split
  · rfl
  · exact (State.requeue_board ..).trans ((State.recoverCount_board ..).trans
      ((State.foldl_board (fun s e _ => State.recoverOne_board s cold c e) _).trans
        (State.foldl_board (fun s e _ => State.completeWrites_board s c e.2) _)))

theorem State.mergeCopies_board (s : State) : s.mergeCopies.board = s.board :=
  State.ite_board rfl

theorem State.recoverOrder_board (s : State) : s.recoverOrder.board = s.board := rfl
theorem State.chans_board (s : State) (t : Tab Chan) : ({ s with chans := t } : State).board = s.board := rfl
theorem State.patterns_board (s : State) (t : Tab (Option Pattern)) (k : Option KeptContext) :
    ({ s with patterns := t, kept := k } : State).board = s.board := rfl
theorem State.lost_board (s : State) (r : Riser) (t : Tab (Option Pattern)) (k : Option KeptContext) :
    ({ s with riser := r, patterns := t, kept := k } : State).board = s.board := rfl
theorem State.riser_board (s : State) (r : Riser) : ({ s with riser := r } : State).board = s.board := rfl

theorem State.recoverLost_board (s : State) : s.recoverLost.board = s.board := by
  unfold State.recoverLost
  extract_lets r u
  have hu : u.board = s.board := State.lost_board s ..
  exact (State.riser_board u _).trans hu

theorem State.recover_board (s : State) (cold : Bool) : (s.recover cold).board = s.board := by
  unfold State.recover
  extract_lets u m v w
  have hu : u.board = s.board := State.chans_board ..
  have hm : m.board = s.board := (State.mergeCopies_board u).trans hu
  have hv : v.board = m.board := State.foldl_board (fun s h _ => State.dropRecords_board s (h + 1)) m
  have hw : w.board = s.board := by
    dsimp only [w]
    split
    · exact (State.patterns_board v [] none).trans (hv.trans hm)
    · exact hm
  split
  · split
    · exact (State.recoverLost_board u).trans hu
    · exact hu
  · exact (State.recoverOrder_board _).trans ((State.foldl_board (fun s c _ => State.recoverChannel_board s cold c) w).trans hw)

end Sys2Proof.Machine
end

section
/-! SUPPORT. The stages of a boot: what each leaves on the board, and BOOT_STAGE_DONE after it. -/

namespace Sys2Proof.Machine

variable {s t u : State}

/-! ### BOOT_STAGE_DONE by the outcome of its stage -/

/-- A stage noted in DONE. -/
def State.noteStage (s : State) (n : Nat) : State := { s with boot := { s.boot with done := s.boot.done ||| (1#8 <<< (n - 1)) } }

theorem State.phase_of_stageRuns {n : Nat} (h : s.stageRuns n = true) : s.boot.phase = .booting := by
  simp only [State.stageRuns, Bool.and_eq_true, decide_eq_true_eq] at h
  tauto

theorem execBootStageDone_notDue {n : Nat} (r : BootResult) (h : s.stageRuns n = false) : exec (.bootStageDone n r) s = .next s := by
  simp [exec, execBootStageDone, h]

theorem execBootStageDone_stopped {n : Nat} {r : BootResult} (h : s.stageRuns n = true)
    (hp : (s.runStage r n).boot.phase = .stopped) : exec (.bootStageDone n r) s = .next (s.runStage r n) := by
  simp [exec, execBootStageDone, h, hp]

theorem execBootStageDone_goesOn {n : Nat} {r : BootResult} (h : s.stageRuns n = true) (hn : n ≠ 8)
    (hp : (s.runStage r n).boot.phase = .booting) :
    exec (.bootStageDone n r) s = .next (if ((s.runStage r n).noteStage n).boot.done = 0xFF
      then ((s.runStage r n).noteStage n).becomeReady else (s.runStage r n).noteStage n) := by
  have hq : ((s.runStage r n).noteStage n).boot.phase = .booting := hp
  simp only [State.noteStage] at hq
  simp [exec, execBootStageDone, h, hp, hn, State.noteStage]

/-- What stands after a stage that did not stop the boot, whether or not the part has become ready with it. -/
structure Settles (n : Nat) (b : Board) (t : State) : Prop where
  mem     : t.mem = b.mem
  sprue   : t.sprue = b.sprue
  done    : t.boot.done = b.boot.done ||| (1#8 <<< (n - 1))
  mode    : t.assay.mode = b.mode
  ident   : t.ident = { b.ident with trained := t.ident.trained }
  out     : ∀ d : Fin 2, t.light.out d = b.light d
  sources : t.light.srcPresent = b.sources
  gates   : ∀ k (hk : k < 8), t.seq (stackDomain k) = b.gates ⟨k, hk⟩

/-- The lanes out of both directions, where the board has them as a pair. -/
theorem Settles.outs {n : Nat} {b : Board} {x y : BitVec 400} (h : Settles n b t) (hb : b.light = ![x, y]) :
    t.light.out 0 = x ∧ t.light.out 1 = y := by
  have h0 := h.out 0
  have h1 := h.out 1
  rw [hb] at h0 h1
  exact ⟨h0, h1⟩

theorem State.noteStage_settles (u : State) (n : Nat) : Settles n u.board (u.noteStage n) where
  mem := rfl
  sprue := rfl
  done := rfl
  mode := rfl
  ident := rfl
  out _ := rfl
  sources := rfl
  gates _ _ := rfl

/-- Readiness leaves what has settled. -/
theorem Settles.becomeReady {n : Nat} {b : Board} (h : Settles n b u) : Settles n b u.becomeReady := by
  have hb := State.becomeReady_board u
  have hi : u.becomeReady.ident = { u.ident with trained := 0xFF } := congrArg Board.ident hb
  exact {
    mem := (congrArg Board.mem hb).trans h.mem
    sprue := (congrArg Board.sprue hb).trans h.sprue
    done := (congrArg (fun x => x.boot.done) hb).trans h.done
    mode := (congrArg Board.mode hb).trans h.mode
    ident := by rw [hi, h.ident]
    out := fun d => (congrFun (congrArg Board.light hb) d).trans (h.out d)
    sources := (congrArg Board.sources hb).trans h.sources
    gates := fun k hk => (congrFun (congrArg Board.gates hb) ⟨k, hk⟩).trans (h.gates k hk) }

theorem execBootStageDone_settles {n : Nat} {r : BootResult} (h : s.stageRuns n = true) (hn : n ≠ 8)
    (hp : (s.runStage r n).boot.phase = .booting) :
    ∃ t, exec (.bootStageDone n r) s = .next t ∧ Settles n (s.runStage r n).board t := by
  refine ⟨_, execBootStageDone_goesOn h hn hp, ?_⟩
  have hu := State.noteStage_settles (s.runStage r n) n
  split
  · exact hu.becomeReady
  · exact hu

/-! ### The boot that stops -/

/-- A boot stops with its cause; the Assay and the memory stay. -/
theorem State.stopBoot_eq (s : State) (c i : BitVec 8) :
    (s.stopBoot c i).boot = { s.boot with phase := .stopped, ready := false, stopped := true, cause := c, causeIndex := i }
      ∧ (s.stopBoot c i).assay = s.assay := ⟨rfl, rfl⟩

/-- Before readiness an Assay that stops, stops the boot with CAUSE 1 and its own cause. -/
theorem State.assayStop_booting (hp : s.boot.phase = .booting) (m : AssayMode) (c : BitVec 8) :
    (s.assayStop m c).boot = { s.boot with phase := .stopped, ready := false, stopped := true, cause := 1, causeIndex := c }
      ∧ (s.assayStop m c).assay.mode = m ∧ (s.assayStop m c).assay.cause = c := by
  have hz : s.zeroiseSsps.boot = s.boot := rfl
  unfold State.assayStop
  dsimp only
  rw [hz, if_pos hp]
  exact ⟨rfl, rfl, rfl⟩

/-! ### Stage 1 (R370, R372) -/

theorem State.stage1_decommissioned (r : BootResult) (hm : s.assay.mode ≠ .decommissioned) (ho : s.assay.otp.decommissioned = true) :
    s.stage1 r = s.assayStop .decommissioned 6 := by
  simp [State.stage1, hm, ho]

theorem State.stage1_passes (hm : s.assay.mode = .selfTest) (ho : s.assay.otp.decommissioned = false) :
    s.stage1 .ok = { s with assay := { s.assay with mode := .operational } }.seedDrbg := by
  simp [State.stage1, hm, ho]

theorem State.stage1_fails (c : BitVec 8) (hm : s.assay.mode = .selfTest) (ho : s.assay.otp.decommissioned = false) :
    s.stage1 (.selfTest c) = s.assayStop .error c := by
  simp [State.stage1, hm, ho]

/-! ### Stage 2 (R354, R355) -/

/-- With no slot that passes, stage 2 stops the boot with CAUSE 2. -/
theorem State.stage2_noSlot (h : s.chooseSlot.slot = none) :
    s.stage2.boot = { s.boot with phase := .stopped, ready := false, stopped := true, cause := 2, causeIndex := 0 } := by
  have hb (u : State) (hu : u.boot = s.boot) :
      (u.stopBoot 2 0).boot = { s.boot with phase := .stopped, ready := false, stopped := true, cause := 2, causeIndex := 0 } := by
    rw [(State.stopBoot_eq u 2 0).1, hu]
  unfold State.stage2
  extract_lets c u a v
  have hu : u.boot = s.boot := by
    dsimp only [u]
    split <;> rfl
  have hc : c.slot = none := h
  rw [hc]
  exact hb v hu

/-! ### Stage 3 (R247, R252) -/

/-- Stage 3 of a cold boot starts the Sprue, and the boot goes on. -/
theorem State.stage3_cold (works : Bool) (h : s.boot.recoverCold = true) :
    (s.stage3 (.sprue works)).sprue = s.sprue.boot works ∧ (s.stage3 (.sprue works)).boot.phase = s.boot.phase := by
  have hr := State.recover_board s true
  unfold State.stage3
  rw [h]
  extract_lets works' cold u _ _ x y
  have hu : u.board = s.board := hr
  have hx : x.board = { u.board with sprue := u.sprue.boot works } := rfl
  have hy : y.board = x.board := State.reportTrip_board x
  have hs : y.sprue = s.sprue.boot works :=
    calc y.sprue = x.sprue := State.sprue_of_board hy
      _ = u.sprue.boot works := congrArg Board.sprue hx
      _ = s.sprue.boot works := by rw [State.sprue_of_board hu]
  have hb : y.boot = s.boot :=
    calc y.boot = x.boot := State.boot_of_board hy
      _ = u.boot := congrArg Board.boot hx
      _ = s.boot := State.boot_of_board hu
  exact ⟨hs, show y.boot.phase = s.boot.phase by rw [hb]⟩

/-! ### Stage 4 (R407) -/

/-- Stage 4 with a stack that fails stops the boot with CAUSE 3. -/
theorem State.stage4_fails (st : BitVec 3) :
    (s.stage4 (.stackFailed st)).boot
      = { s.boot with phase := .stopped, ready := false, stopped := true, cause := 3, causeIndex := st.setWidth 8 } := rfl

/-- Every stack gated on. -/
def gatesOn (q : Tab Sequencer) (ks : List Nat) : Tab Sequencer := ks.foldl (fun t k => Tab.put Sequencer.init t k ⟨.on, .none, true⟩) q

theorem get_gatesOn {k : Nat} {ks : List Nat} (q : Tab Sequencer) (h : k ∈ ks) :
    (Tab.get Sequencer.init (gatesOn q ks) k).state = .on := by
  induction ks using List.reverseRecOn with
  | nil => simp at h
  | append_singleton ks j ih =>
    simp only [gatesOn, List.foldl_append, List.foldl_cons, List.foldl_nil, Tab.get_put] at ih ⊢
    split
    · rfl
    · next hj => exact ih (by simpa [Ne.symm hj] using h)

/-- Stage 4 of a cold boot zeroes HBM and gates every stack on. -/
theorem State.stage4_zeroes (h : s.boot.zeroHbm = true) :
    (s.stage4 .ok).mem = s.mem.clear 0 hbmEnd ∧ (s.stage4 .ok).boot = { s.boot with zeroHbm := false }
      ∧ (s.stage4 .ok).power.seq = gatesOn s.power.seq allStacks := by
  simp [State.stage4, h, gatesOn]

/-- A range cleared reads zero. -/
theorem Mem.byte_clear (m : Mem) {a n b : Nat} (lo : a ≤ b) (hi : b < a + n) : (m.clear a n).byte b = 0 :=
  Tab.get_cellsOut m.bytes lo hi

/-! ### Stage 5 (R7) -/

/-- The map of a die with no position retired: its 64 clusters at the positions of their numbers. -/
def wholeMap (base : Nat) (t : Tab (Option Nat)) : Tab (Option Nat) :=
  (List.range 64).zipIdx.foldl (fun t e => Tab.put none t (base + e.2) (some e.1)) t

theorem get_wholeMap (base c : Nat) (t : Tab (Option Nat)) :
    Tab.get none (wholeMap base t) c = if base ≤ c ∧ c < base + 64 then some (c - base) else Tab.get none t c := by
  unfold wholeMap
  generalize 64 = n
  induction n with
  | zero => simp
  | succ n ih =>
    simp only [List.range_succ, List.zipIdx_append, List.foldl_append, List.length_range, List.zipIdx_cons, List.zipIdx_nil,
      List.foldl_cons, List.foldl_nil, Tab.get_put, ih]
    grind

/-- A die with no position retired has its whole map and two spares. -/
theorem State.buildDie_whole (s : State) (die : Bool) :
    s.buildDie die 0 = { s with ident :=
      if die then { s.ident with clmap := wholeMap 64 s.ident.clmap, spares1 := [64, 65], short1 := false }
      else { s.ident with clmap := wholeMap 0 s.ident.clmap, spares0 := [64, 65], short0 := false } } := by
  have ht : (List.range 66).take 64 = List.range 64 := by simp
  have hd : (List.range 66).drop 64 = [64, 65] := by decide
  unfold State.buildDie
  extract_lets good base map short
  have hg : good = List.range 66 := by simp [good]
  have hm : map = wholeMap (if die then 64 else 0) s.ident.clmap := by
    dsimp only [map, wholeMap]
    rw [hg, ht]
  have hs : short = false := by simp [short, hg]
  rw [hm, hs, hg, hd]
  cases die <;> simp only [if_true, Bool.false_eq_true, if_false]

/-- The identity with both dies whole. -/
def Ident.whole (i : Ident) : Ident :=
  { i with
    clmap := wholeMap 64 (wholeMap 0 [])
    spares0 := [64, 65]
    spares1 := [64, 65]
    short0 := false
    short1 := false }

theorem State.buildMaps_whole (h0 : s.ledger.retired0 = 0) (h1 : s.ledger.retired1 = 0) :
    s.buildMaps 0 0 = { s with ident := s.ident.whole } := by
  simp only [State.buildMaps, h0, h1, BitVec.or_self, and_self, if_true, State.buildDie_whole, Bool.false_eq_true, if_false]
  rw [Ident.whole]

/-- Stage 5 of a cold boot with no position retired and no BIST that failed. -/
theorem State.stage5_whole (hb : s.boot.buildMap = true) (h0 : s.ledger.retired0 = 0) (h1 : s.ledger.retired1 = 0) :
    s.stage5 .ok = { s with boot := { s.boot with buildMap := false }, ident := s.ident.whole } := by
  unfold State.stage5
  dsimp only
  rw [if_pos hb]
  exact State.buildMaps_whole (s := { s with boot := { s.boot with buildMap := false } }) h0 h1

/-! ### Stage 6 (R319, R320) -/

/-- One bit set in a mask. -/
theorem getLsbD_setBit {w : Nat} (m : BitVec w) (k i : Nat) (hi : i < w) :
    (m ||| (1#w <<< k)).getLsbD i = (m.getLsbD i || decide (i = k)) := by
  rw [BitVec.getLsbD_or, BitVec.getLsbD_shiftLeft, BitVec.getLsbD_one]
  grind

/-- The bits set in a mask one by one. -/
theorem getLsbD_setBits {w : Nat} (ks : List Nat) (m : BitVec w) (i : Nat) (hi : i < w) :
    (ks.foldl (fun m k => m ||| (1#w <<< k)) m).getLsbD i = (m.getLsbD i || decide (i ∈ ks)) := by
  induction ks generalizing m with
  | nil => simp
  | cons k ks ih =>
    rw [List.foldl_cons, ih, getLsbD_setBit m k i hi]
    simp [Bool.or_assoc]

/-- A mask is what its bits set one by one give. -/
theorem setBits_filter {w : Nat} (b : BitVec w) :
    ((List.range w).filter fun k => b.getLsbD k).foldl (fun m k => m ||| (1#w <<< k)) 0 = b := by
  apply BitVec.eq_of_getLsbD_eq
  intro i hi
  rw [getLsbD_setBits _ _ i hi]
  simp [hi]

/-- A mask of the places that a test does not hold at. -/
theorem getLsbD_maskUnless {w : Nat} (p : Nat → Bool) (n i : Nat) (hi : i < w) :
    ((List.range n).foldl (fun m k => if p k then m else m ||| (1#w <<< k)) 0).getLsbD i = (decide (i < n) && !p i) := by
  induction n with
  | zero => simp
  | succ n ih =>
    simp only [List.range_succ, List.foldl_append, List.foldl_cons, List.foldl_nil]
    split
    · rw [ih]
      grind
    · rw [getLsbD_setBit _ _ _ hi, ih]
      grind

/-- A lane fails unless its thresholds are all placed and its margin is at least 1.5 dB. -/
theorem getLsbD_failMask (scans : List LaneScan) {i : Nat} (hi : i < 400) :
    (failMask scans).getLsbD i = !((scans[i]?).map lanePasses).getD false := by
  rw [failMask, getLsbD_maskUnless (fun i => ((scans[i]?).map lanePasses).getD false) 400 i hi]
  simp [hi]

/-- The lanes out of a direction after those of a list have left. -/
def leftLanes (ks : List Nat) (m : BitVec 400) : BitVec 400 := ks.foldl (fun m k => m ||| (1#400 <<< k)) m

/-- What a floor-link lane that leaves service changes of the board: its direction's lanes out. -/
theorem State.floorLeave_board (s : State) (d : Fin 2) (k : Nat) :
    (s.floorLeave d k).board = { s.board with light := Function.update s.board.light d (s.board.light d ||| (1#400 <<< k)) } := by
  unfold State.floorLeave
  refine (State.addLocal_board ..).trans ((State.count_board ..).trans ?_)
  have hl (e : Fin 2) : (s.light.setFloor d (s.light.out d ||| (1#400 <<< k))).out e
      = Function.update s.board.light d (s.board.light d ||| (1#400 <<< k)) e := by
    fin_cases d <;> fin_cases e <;> simp [Light.setFloor, Light.out, State.board]
  have hp : (s.light.setFloor d (s.light.out d ||| (1#400 <<< k))).srcPresent = s.light.srcPresent := by
    unfold Light.setFloor
    split <;> rfl
  simp only [State.board, hp, hl]
  rfl

/-- The lanes of a list leave service in their direction. -/
theorem State.floorLeaves_board (d : Fin 2) (ks : List Nat) (s : State) :
    (ks.foldl (fun (s : State) k => s.floorLeave d k) s).board
      = { s.board with light := Function.update s.board.light d (leftLanes ks (s.board.light d)) } := by
  induction ks generalizing s with
  | nil => simp [leftLanes]
  | cons k ks ih =>
    rw [List.foldl_cons, ih, State.floorLeave_board]
    simp [leftLanes]

/-- The floor link after its margin test: the lanes out are the ones that failed it. -/
theorem State.floorFails_board (s : State) (b0 b1 : BitVec 400) :
    (s.floorFails b0 b1).board = { s.board with light := ![b0, b1] } := by
  unfold State.floorFails
  extract_lets one
  have hone (d : Fin 2) (b : BitVec 400) (u : State) (h0 : u.light.out d = 0) :
      (one d b u).board = { u.board with light := Function.update u.board.light d b } := by
    have hb : leftLanes ((List.range 400).filter fun k => b.getLsbD k) (u.board.light d) = b := by
      rw [show u.board.light d = 0 from h0]
      exact setBits_filter b
    exact (State.floorLeaves_board d _ u).trans (by rw [hb])
  set u : State := { s with light := { s.light with floorOut0 := 0, floorOut1 := 0 } } with hu
  have h0 := hone 0 b0 u rfl
  have h1 : (one (0 : Fin 2) b0 u).light.out (1 : Fin 2) = 0 := by
    rw [State.out_eq_board, h0]
    rfl
  have hl : Function.update (Function.update u.board.light 0 b0) 1 b1 = ![b0, b1] := by
    funext d
    fin_cases d <;> simp
  refine (hone 1 b1 _ h1).trans ?_
  rw [h0, ← hl]
  rfl

/-- Stage 6 with two failed lanes in a direction stops the boot with CAUSE 4 and the direction. -/
theorem State.stage6_stops (b0 b1 : List LaneScan) (src : BitVec 4) (h : 1 < laneCount (failMask b0) ∨ 1 < laneCount (failMask b1)) :
    (s.stage6 (.optics b0 b1 src)).boot = { s.boot with
      phase := .stopped, ready := false, stopped := true, cause := 4,
      causeIndex := if 1 < laneCount (failMask b0) then 0 else 1 } := by
  unfold State.stage6
  dsimp only
  split
  · rfl
  next h0 =>
    rw [if_pos (h.resolve_left h0)]
    rfl

/-- Stage 6 otherwise: the lanes that failed leave service, and the sources are noted. -/
theorem State.stage6_passes (b0 b1 : List LaneScan) (src : BitVec 4) (h0 : ¬1 < laneCount (failMask b0))
    (h1 : ¬1 < laneCount (failMask b1)) :
    (s.stage6 (.optics b0 b1 src)).board = { s.board with
      light := ![failMask b0, failMask b1], sources := src } := by
  have hf := State.floorFails_board s (failMask b0) (failMask b1)
  unfold State.stage6
  dsimp only
  rw [if_neg h0, if_neg h1]
  exact calc
    _ = { (s.floorFails (failMask b0) (failMask b1)).board with sources := src } := rfl
    _ = _ := by rw [hf]

/-! ### Stage 7 and readiness (R409) -/

/-- With a bottom tree at hand stage 7 spends no leaf. -/
theorem State.stage7_held (h : s.assay.bottom.isSome = true) : s.stage7 = s := by
  have hn : s.assay.bottom.isNone = false := Option.isNone_eq_false_iff.mpr h
  unfold State.stage7
  rw [hn, if_neg Bool.false_ne_true]

/-- BOOT_STATUS bit 31 is READY. -/
theorem Boot.status_ready (b : Boot) : b.status.getLsbD 31 = b.ready := by
  have hd := b.done.isLt
  have hi := b.causeIndex.isLt
  have hc := b.cause.isLt
  have hk := b.kind.isLt
  have hs : (if b.stopped then 2 ^ 30 else 0) ≤ 2 ^ 30 := by split <;> omega
  unfold Boot.status
  rw [BitVec.getLsbD_ofNat, Nat.testBit_eq_decide_div_mod_eq]
  generalize (if b.stopped then 2 ^ 30 else 0) = x at hs ⊢
  cases b.ready with
  | false =>
    rw [if_neg Bool.false_ne_true]
    simp only [Nat.reduceLT, decide_true, Bool.true_and, decide_eq_false_iff_not]
    omega
  | true =>
    rw [if_pos rfl]
    simp only [Nat.reduceLT, decide_true, Bool.true_and, decide_eq_true_eq]
    omega

/-- Readiness with no flask to restore. -/
theorem State.becomeReady_alone (h : s.runner.flask = none) :
    s.becomeReady = { s.confirmBoot with
      boot := { s.confirmBoot.boot with phase := .ready, ready := true }
      ident := { s.confirmBoot.ident with trained := 0xFF }
      light := { s.confirmBoot.light with enabled := true } } := by
  have hf : s.confirmBoot.runner.flask = none := by
    rw [← h]
    unfold State.confirmBoot
    dsimp only
    split
    · rfl
    · split <;> rfl
  unfold State.becomeReady
  dsimp only
  rw [hf]

theorem State.confirmBoot_running (s : State) : s.confirmBoot.running = s.running := by
  unfold State.confirmBoot
  dsimp only
  split
  · rfl
  · split <;> rfl

end Sys2Proof.Machine
end

section
/-! SUPPORT. The boot, stage by stage. -/

namespace Sys2Proof.Machine

variable {s : State}

/-! ### The starts of a boot (R27, R406, R423) -/

theorem Boot.status_clear (b : Boot) : b.clearStatus.status = 0 := by
  simp [Boot.status, Boot.clearStatus]

theorem execPwrgdAonRise_clears (hv : s.pins.vddAon = true) (hp : s.pins.pwrgdAon = false) :
    ∃ t, exec .pwrgdAonRise s = .next t ∧ t.pins.pwrgdAon = true ∧ t.boot.status = 0 ∧ t.riser = s.riser := by
  simp only [exec, execPwrgdAonRise, hv, hp, Bool.not_false, Bool.and_self, if_true]
  exact ⟨_, rfl, rfl, Boot.status_clear _, rfl⟩

theorem execBootStart_samples (slot : BitVec 3) (board : BitVec 15) (hv : s.pins.vddAon = true) (hm : s.pins.pwrgdMain = false) :
    ∃ t, exec (.bootStart slot board) s = .next t ∧ t.pins.pwrgdMain = true ∧ t.pins.thermtrip = false
      ∧ t.ident.chipId.toNat = board.toNat * 8 + slot.toNat
      ∧ (if s.pins.pwrgdAon then t.boot.phase = .booting ∧ t.boot.kind = 1 ∧ t.boot.done = 0 ∧ t.boot.ready = false
          else t.boot = s.boot) ∧ t.riser = s.riser := by
  have hc : (BitVec.ofNat 18 (board.toNat * 8 + slot.toNat)).toNat = board.toNat * 8 + slot.toNat := by
    rw [BitVec.toNat_ofNat]
    omega
  simp only [exec, execBootStart, hv, hm, Bool.not_true, Bool.or_self, Bool.false_eq_true, if_false]
  split
  · exact ⟨_, rfl, rfl, rfl, hc, ⟨rfl, rfl, rfl, rfl⟩, rfl⟩
  · exact ⟨_, rfl, rfl, rfl, hc, rfl, rfl⟩

theorem execBootStart_running (slot : BitVec 3) (board : BitVec 15) (hm : s.pins.pwrgdMain = true) :
    exec (.bootStart slot board) s = .next s := by
  simp [exec, execBootStart, hm]

theorem execWarmBootStart_starts (hp : s.boot.phase = .warmEntry) :
    ∃ t, exec .warmBootStart s = .next t ∧ t.boot.phase = .booting ∧ t.boot.kind = 2 ∧ t.boot.done = 0
      ∧ t.pins.warmResetN = true ∧ t.riser = s.riser ∧ t.mem = s.mem := by
  simp only [exec, execWarmBootStart, hp, if_true]
  exact ⟨_, rfl, rfl, rfl, rfl, rfl, rfl, rfl⟩

theorem execWarmBootStart_notDue (hp : s.boot.phase ≠ .warmEntry) : exec .warmBootStart s = .next s := by
  simp [exec, execWarmBootStart, hp]

/-! ### The stages -/

theorem bootStage_one (h : s.stageRuns 1 = true) (hm : s.assay.mode = .selfTest) (ho : s.assay.otp.decommissioned = false) :
    (∃ t, exec (.bootStageDone 1 .ok) s = .next t ∧ t.assay.mode = .operational ∧ t.boot.done = s.boot.done ||| 1)
      ∧ ∀ c, ∃ t, exec (.bootStageDone 1 (.selfTest c)) s = .next t ∧ t.assay.mode = .error ∧ t.boot.phase = .stopped
          ∧ t.boot.cause = 1 ∧ t.boot.causeIndex = c ∧ t.boot.ready = false := by
  have hp := State.phase_of_stageRuns h
  constructor
  · have h1 : s.runStage .ok 1 = { s with assay := { s.assay with mode := .operational } }.seedDrbg := State.stage1_passes hm ho
    have hq : (s.runStage .ok 1).boot.phase = .booting := by
      rw [h1]
      exact hp
    obtain ⟨t, ht, hs⟩ := execBootStageDone_settles h (by decide) hq
    rw [h1] at hs
    exact ⟨t, ht, hs.mode, hs.done⟩
  · intro c
    have h1 : s.runStage (.selfTest c) 1 = s.assayStop .error c := State.stage1_fails c hm ho
    obtain ⟨hb, ha, -⟩ := State.assayStop_booting hp .error c
    rw [← h1] at hb ha
    exact ⟨_, execBootStageDone_stopped h (by rw [hb]), ha, by rw [hb], by rw [hb], by rw [hb], by rw [hb]⟩

theorem bootStage_one_decommissioned (r : BootResult) (h : s.stageRuns 1 = true) (ho : s.assay.otp.decommissioned = true)
    (hm : s.assay.mode ≠ .decommissioned) :
    ∃ t, exec (.bootStageDone 1 r) s = .next t ∧ t.assay.mode = .decommissioned ∧ t.assay.cause = 6 ∧ t.boot.phase = .stopped
      ∧ t.boot.cause = 1 := by
  have h1 : s.runStage r 1 = s.assayStop .decommissioned 6 := State.stage1_decommissioned r hm ho
  obtain ⟨hb, ha, hc⟩ := State.assayStop_booting (State.phase_of_stageRuns h) .decommissioned 6
  rw [← h1] at hb ha hc
  exact ⟨_, execBootStageDone_stopped h (by rw [hb]), ha, hc, by rw [hb], by rw [hb]⟩

theorem bootStage_two_noSlot (h : s.stageRuns 2 = true) (hc : s.chooseSlot.slot = none) :
    ∃ t, exec (.bootStageDone 2 .ok) s = .next t ∧ t.boot.phase = .stopped ∧ t.boot.cause = 2 ∧ t.boot.ready = false := by
  have hb : (s.runStage .ok 2).boot = _ := State.stage2_noSlot hc
  exact ⟨_, execBootStageDone_stopped h (by rw [hb]), by rw [hb], by rw [hb], by rw [hb]⟩

theorem bootStage_three_sprue (works : Bool) (h : s.stageRuns 3 = true) (hc : s.boot.recoverCold = true) :
    ∃ t, exec (.bootStageDone 3 (.sprue works)) s = .next t
      ∧ t.sprue = (if works = true ∨ (s.sprue.failed0 = false ∧ s.sprue.failed1 = false) then ⟨false, true, false, false⟩
          else if s.sprue.failed0 = true ∧ s.sprue.failed1 = false then ⟨true, false, true, false⟩ else ⟨false, false, false, true⟩) := by
  obtain ⟨hs, hb⟩ := State.stage3_cold works hc
  obtain ⟨t, ht, hr⟩ := execBootStageDone_settles (r := .sprue works) h (by decide) (hb.trans (State.phase_of_stageRuns h))
  refine ⟨t, ht, (hr.sprue.trans hs).trans ?_⟩
  simp [Sprue.boot]

theorem failMask_iff (scans : List LaneScan) {i : Nat} (hi : i < 400) :
    (failMask scans).getLsbD i = true ↔ ¬∃ c, scans[i]? = some c ∧ c.eyes.all Option.isSome = true
      ∧ 150 ≤ min (attenuation c.p0 c.low.2) (attenuation c.p0 c.high.2) := by
  have hl (c : LaneScan) : lanePasses c = true ↔ c.eyes.all Option.isSome = true
      ∧ 150 ≤ min (attenuation c.p0 c.low.2) (attenuation c.p0 c.high.2) := by
    rw [lanePasses, Bool.and_eq_true, decide_eq_true_iff, laneMargin]
  rw [getLsbD_failMask scans hi, Bool.not_eq_true', ← Bool.not_eq_true]
  cases scans[i]? with
  | none => simp
  | some c => simp only [Option.map_some, Option.getD_some, hl, Option.some.injEq, exists_eq_left']

theorem bootStage_six (h : s.stageRuns 6 = true) (b0 b1 : List LaneScan) (src : BitVec 4) :
    (1 < laneCount (failMask b0) ∨ 1 < laneCount (failMask b1) →
        ∃ t, exec (.bootStageDone 6 (.optics b0 b1 src)) s = .next t ∧ t.boot.phase = .stopped ∧ t.boot.cause = 4
          ∧ t.boot.causeIndex = (if 1 < laneCount (failMask b0) then 0 else 1) ∧ t.boot.ready = false)
      ∧ (laneCount (failMask b0) ≤ 1 → laneCount (failMask b1) ≤ 1 →
        ∃ t, exec (.bootStageDone 6 (.optics b0 b1 src)) s = .next t ∧ t.light.out 0 = failMask b0 ∧ t.light.out 1 = failMask b1
          ∧ t.light.srcPresent = src ∧ t.mem = s.mem) := by
  constructor
  · intro hl
    have hb : (s.runStage (.optics b0 b1 src) 6).boot = _ := State.stage6_stops b0 b1 src hl
    exact ⟨_, execBootStageDone_stopped h (by rw [hb]), by rw [hb], by rw [hb], by rw [hb], by rw [hb]⟩
  · intro h0 h1
    have hb : (s.runStage (.optics b0 b1 src) 6).board = _ := State.stage6_passes b0 b1 src (by omega) (by omega)
    have hq : (s.runStage (.optics b0 b1 src) 6).boot.phase = .booting :=
      (congrArg (fun b => b.boot.phase) hb).trans (State.phase_of_stageRuns h)
    obtain ⟨t, ht, hs⟩ := execBootStageDone_settles h (by decide) hq
    obtain ⟨ho0, ho1⟩ := hs.outs (congrArg Board.light hb)
    exact ⟨t, ht, ho0, ho1, hs.sources.trans (congrArg Board.sources hb), hs.mem.trans (congrArg Board.mem hb)⟩

theorem bootStage_four (h : s.stageRuns 4 = true) :
    (∀ st, ∃ t, exec (.bootStageDone 4 (.stackFailed st)) s = .next t ∧ t.boot.phase = .stopped
        ∧ t.boot.cause = 3 ∧ t.boot.causeIndex.toNat = st.toNat)
      ∧ (s.boot.zeroHbm = true → ∃ t, exec (.bootStageDone 4 .ok) s = .next t ∧ (∀ a < hbmEnd, t.mem.byte a = 0)
        ∧ (∀ k < 8, (t.seq (stackDomain k)).state = .on) ∧ t.boot.done = s.boot.done ||| 8) := by
  constructor
  · intro st
    have hb : (s.runStage (.stackFailed st) 4).boot = _ := State.stage4_fails st
    refine ⟨_, execBootStageDone_stopped h (by rw [hb]), by rw [hb], by rw [hb], ?_⟩
    rw [hb]
    exact BitVec.toNat_setWidth_of_le (by decide)
  · intro hz
    obtain ⟨hm, hb, hq⟩ := State.stage4_zeroes hz
    obtain ⟨t, ht, hs⟩ := execBootStageDone_settles (r := .ok) h (by decide)
      ((congrArg Boot.phase hb).trans (State.phase_of_stageRuns h))
    refine ⟨t, ht, fun a ha => ?_, fun k hk => ?_, hs.done.trans (congrArg (fun b => b.done ||| 8) hb)⟩
    · rw [hs.mem.trans hm]
      exact Mem.byte_clear _ (Nat.zero_le a) (by omega)
    · rw [hs.gates k hk]
      have hk' : stackDomain k ∈ allStacks := List.mem_map_of_mem (List.mem_range.mpr hk)
      exact (congrArg (fun q => (Tab.get Sequencer.init q (stackDomain k)).state) hq).trans (get_gatesOn _ hk')

theorem bootStage_five (h : s.stageRuns 5 = true) (hb : s.boot.buildMap = true) (h0 : s.ledger.retired0 = 0)
    (h1 : s.ledger.retired1 = 0) :
    ∃ t, exec (.bootStageDone 5 .ok) s = .next t
      ∧ (∀ c < 64, Tab.get none t.ident.clmap c = some c ∧ Tab.get none t.ident.clmap (64 + c) = some c)
      ∧ t.ident.spares0 = [64, 65] ∧ t.ident.spares1 = [64, 65] ∧ t.ident.short0 = false ∧ t.ident.short1 = false := by
  have hw : s.runStage .ok 5 = _ := State.stage5_whole hb h0 h1
  obtain ⟨t, ht, hs⟩ := execBootStageDone_settles (r := .ok) h (by decide) (by
    rw [hw]
    exact State.phase_of_stageRuns h)
  have hi := hs.ident
  rw [hw] at hi
  refine ⟨t, ht, fun c hc => ?_, by rw [hi]; rfl, by rw [hi]; rfl, by rw [hi]; rfl, by rw [hi]; rfl⟩
  rw [hi]
  simp only [State.board, Ident.whole, get_wholeMap]
  constructor
  · rw [if_neg (by omega), if_pos (by omega), Nat.sub_zero]
  · rw [if_pos (by omega), Nat.add_sub_cancel_left]

theorem bootStage_seven (h : s.stageRuns 7 = true) (hd : s.boot.done ||| 0x40 = 0xFF) (hb : s.assay.bottom.isSome = true)
    (hf : s.runner.flask = none) :
    ∃ t, exec (.bootStageDone 7 .ok) s = .next t ∧ t.boot.phase = .ready ∧ t.boot.status.getLsbD 31 = true ∧ t.boot.done = 0xFF
      ∧ t.light.enabled = true ∧ t.ident.trained = 0xFF ∧ t.running = s.running ∧ t.mem = s.mem := by
  have hw : s.runStage .ok 7 = s := State.stage7_held hb
  have he := execBootStageDone_goesOn (r := .ok) h (by decide) (by
    rw [hw]
    exact State.phase_of_stageRuns h)
  have hd7 : (s.noteStage 7).boot.done = 0xFF := hd
  have hf7 : (s.noteStage 7).runner.flask = none := hf
  rw [hw, if_pos hd7, State.becomeReady_alone hf7] at he
  have hm := State.mem_of_board (State.confirmBoot_board (s.noteStage 7))
  have hn := State.boot_of_board (State.confirmBoot_board (s.noteStage 7))
  exact ⟨_, he, rfl, Boot.status_ready _, (congrArg Boot.done hn).trans hd, rfl, rfl, State.confirmBoot_running _, hm⟩

end Sys2Proof.Machine

namespace Sys2Proof.Machine

/-- Settles O57: each start and each stage by what it leaves on the board, which recovery, readiness and the training of the live ports
keep. -/
theorem bootStages : Obligations.BootStages := by
  unfold Obligations.BootStages
  intro s slot board
  refine ⟨execPwrgdAonRise_clears, execBootStart_samples slot board, execBootStart_running slot board, execWarmBootStart_starts,
    execWarmBootStart_notDue, fun n r => execBootStageDone_notDue r, bootStage_one, fun h ho hm r => bootStage_one_decommissioned r h ho hm,
    bootStage_two_noSlot, fun h hc works => bootStage_three_sprue works h hc, fun scans i hi => failMask_iff scans hi, ?_, bootStage_four,
    bootStage_five, bootStage_seven⟩
  rintro h b0 b1 src _ _ rfl rfl
  exact bootStage_six h b0 b1 src

end Sys2Proof.Machine
end

section
/-! SUPPORT. Where a pour starts now: the state its body acts on, and what the ledger, the ports and the memory are there. -/

namespace Sys2Proof.Machine

variable {s t u s1 : State} {c i op : Nat} {k : Packet}

/-! ### The domains that are asked for, and the attempt -/

/-- Asking for domains changes their sequencers alone. -/
theorem State.enableAll_eq (s : State) (ks : List Nat) : s.enableAll ks = { s with power := (s.enableAll ks).power } := by
  induction ks generalizing s with
  | nil => rfl
  | cons k ks ih =>
    have h : s.enableAll (k :: ks) = (s.updSeq k Sequencer.enable).enableAll ks := rfl
    rw [h, ih]
    rfl

/-- A domain that is ON stays so when domains are asked for. -/
theorem State.on_enableAll {k : Nat} (ks : List Nat) (h : (s.seq k).state = .on) : ((s.enableAll ks).seq k).state = .on := by
  induction ks generalizing s with
  | nil => exact h
  | cons j ks ih =>
    refine ih (s := s.updSeq j Sequencer.enable) ?_
    simp only [State.seq, State.updSeq, Tab.get_upd] at h ⊢
    split
    next hj =>
      subst hj
      simp only [Sequencer.enable, h]
    next => exact h

theorem State.allOn_enableAll {ks : List Nat} (js : List Nat) (h : s.allOn ks = true) : (s.enableAll js).allOn ks = true := by
  simp only [State.allOn, List.all_eq_true, decide_eq_true_eq] at h ⊢
  exact fun k hk => State.on_enableAll js (h k hk)

/-- What the beginning of an attempt changes: the entry's line with the count of replays, the running pours, and what the gate step notes. -/
theorem State.beginAttempt_eq (s : State) (c i : Nat) (k : Packet) :
    s.beginAttempt c i k = { s with
      riser := (s.beginAttempt c i k).riser
      trail := (s.beginAttempt c i k).trail
      running := Tab.put none s.running c (some ⟨i, k, opClass k.opcode, none, none, 0, [], [], none⟩)
      power := (s.beginAttempt c i k).power } := by
  unfold State.beginAttempt State.noteRan
  dsimp only
  split <;> split <;> rfl

/-- The entry as an attempt begins it (R241); `again`: one had begun before (R248). -/
def Entry.begun (e : Entry) (again : Bool) (now : Word64) : Entry :=
  { e with
    state := .running
    started := true
    attempts := min 7 (e.attempts + 1)
    replayed := e.replayed || again
    tsStart := if e.started then e.tsStart else now }

theorem State.beginAttempt_ledger (h : s.ledgerKept) (c i : Nat) (k : Packet) :
    (s.beginAttempt c i k).ledger = { s.ledger with
      entries := Tab.upd Entry.free s.ledger.entries i fun e => e.begun (decide ((s.entry i).state = .running)) s.cnt.regs.time } := by
  have hl : s.linesDone.ledgerKept := h
  refine Eq.trans ?_ (State.ledger_updLedger_of_kept hl (.entry i) fun l => { l with
    entries := Tab.upd Entry.free l.entries i fun e => e.begun (decide ((s.entry i).state = .running)) s.cnt.regs.time })
  unfold State.beginAttempt State.noteRan
  dsimp only
  split <;> split <;> rfl

/-! ### What holds where the body of a pour acts -/

/-- The state `u` in which the body of a pour acts: its attempt has begun, and all else that a body reads is as it was. -/
structure State.Begins (s u : State) (c i : Nat) (k : Packet) : Prop where
  running  : u.runningOf c = some ⟨i, k, opClass k.opcode, none, none, 0, [], [], none⟩
  state    : (u.entry i).state = .running
  attempts : (u.entry i).attempts = min 7 ((s.entry i).attempts + 1)
  ledger   : u.ledger = { s.ledger with entries := u.ledger.entries }
  mem      : u.mem = s.mem
  cope     : u.cope = s.cope
  drag     : u.drag = s.drag
  patterns : u.patterns = s.patterns
  ident    : u.ident = s.ident

theorem State.startsNow.begins {ks : List Nat} (h : s.startsNow s1 c op i ks k) : s.Begins (s1.beginAttempt c i k) c i k := by
  obtain ⟨-, -, -, -, -, hkept, -, hs1⟩ := h
  rw [State.enableAll_eq] at hs1
  have hk1 : s1.ledgerKept := by
    rw [hs1]
    exact hkept
  have hl : (s1.beginAttempt c i k).ledger = _ := State.beginAttempt_ledger hk1 c i k
  have hl1 : s1.ledger = s.ledger := by
    rw [hs1]
    rfl
  have he : (s1.beginAttempt c i k).entry i = (s.entry i).begun (decide ((s1.entry i).state = .running)) s1.cnt.regs.time := by
    rw [State.entry, hl, Tab.get_upd_same, hl1]
    rfl
  have hb := State.beginAttempt_eq s1 c i k
  exact {
    running := by
      rw [hb]
      exact State.runningOf_setRunning_same s1 c _
    state := by rw [he]; rfl
    attempts := by rw [he]; rfl
    ledger := by
      rw [hl, hl1]
    mem := by rw [hb, hs1]
    cope := by rw [hb, hs1]
    drag := by rw [hb, hs1]
    patterns := by rw [hb, hs1]
    ident := by rw [hb, hs1] }

/-- A pour that starts now does what its body does. -/
theorem State.startsNow.startPour {ks : List Nat} (h : s.startsNow s1 c op i ks k) {needs : State → Packet → List Nat}
    (hn : needs s (s.bodyOf i) = ks) (body : Nat → Packet → State → State) :
    s.startPour c op needs body = body i k (s1.beginAttempt c i k) := by
  obtain ⟨hhead, hop, -, hmay, hon, -, hread, -⟩ := h
  have hall := State.allOn_enableAll (s.bodyStack i :: ks) hon
  unfold State.startPour
  rw [hhead]
  dsimp only
  rw [if_pos ⟨hop, hmay⟩, hn, if_pos hall, hread]

/-- No pour runs on a channel whose head pour starts now. -/
theorem State.startsNow.idle {ks : List Nat} (h : s.startsNow s1 c op i ks k) : s.runningOf c = none := by
  have hhead := h.1
  unfold State.headOf at hhead
  split at hhead
  · simp at hhead
  · next hr => simpa using hr

/-- The pour runs as long as its entry is the one that has begun. -/
theorem State.Begins.runsWith {o : Option PourOutcome} {r : Running} (h : s.Begins u c i k) (he : t.entry i = u.entry i)
    (hr : t.runningOf c = some r) (hi : r.entry = i) (hb : r.body = k) (ho : r.outcome = o) : t.runsWith s c i k o := by
  refine ⟨⟨r, hr, hi, hb, ho⟩, ?_, ?_⟩
  · rw [he]
    exact h.state
  · rw [he]
    exact h.attempts

/-- A channel's record where the body acts. -/
theorem State.Begins.chan (h : s.Begins u c i k) (d : Nat) : u.chan d = s.chan d := by
  rw [State.chan, h.ledger]
  rfl

theorem State.Begins.port (h : s.Begins u c i k) (p : HostPort) : u.port p = s.port p := by
  cases p with
  | cope => exact h.cope
  | drag => exact h.drag

/-- The current map of a handle depends on the patterns and on the ledger's slots, records and maps. -/
theorem State.currentMap_congr (hp : u.patterns = s.patterns) (hl : u.ledger = { s.ledger with entries := u.ledger.entries })
    (h : Nat) : u.currentMap h = s.currentMap h := by
  have hm : u.ledger.maps = s.ledger.maps := by rw [hl]
  have hs : u.ledger.slots = s.ledger.slots := by rw [hl]
  have hr : u.ledger.precs = s.ledger.precs := by rw [hl]
  have hc (d : Nat) : u.curSlot d = s.curSlot d := by
    unfold State.curSlot
    rw [hs]
  have hd : u.precOf h = s.precOf h := by
    unfold State.precOf
    rw [hr]
  have hq : u.patternSlot h = s.patternSlot h := by
    unfold State.patternSlot State.pattern
    simp only [hp, hc, hd]
  unfold State.currentMap
  rw [hq, hm]

/-- Where a host command's range lies depends on the slot of the chip and on the STATE buffers. -/
theorem State.Begins.hostTarget (h : s.Begins u c i k) (a n : Nat) : u.hostTarget a n = s.hostTarget a n := by
  have hm (x : Nat) : u.currentMap x = s.currentMap x := State.currentMap_congr h.patterns h.ledger x
  have hs : u.slot = s.slot := congrArg (fun d => d.chipId.toNat % 8) h.ident
  have hb : u.stateBufs = s.stateBufs := by simp only [State.stateBufs, State.loaded, h.patterns, hm]
  simp only [State.hostTarget, hs, hb]

end Sys2Proof.Machine
end

section
/-! SUPPORT. What the accesses to memory and the writes to the host leave of the running pours and their entries. -/

namespace Sys2Proof.Machine

variable {s t : State}

/-- The memory, the running pours and the entries of a state. -/
structure Work where
  mem     : Mem
  running : Tab (Option Running)
  entries : Tab Entry

def State.work (s : State) : Work := ⟨s.mem, s.running, s.ledger.entries⟩

theorem State.mem_of_work (h : t.work = s.work) : t.mem = s.mem := congrArg Work.mem h

theorem State.runningOf_of_work (h : t.work = s.work) (c : Nat) : t.runningOf c = s.runningOf c :=
  congrArg (fun w : Work => Tab.get none w.running c) h

theorem State.entry_of_work (h : t.work = s.work) (i : Nat) : t.entry i = s.entry i :=
  congrArg (fun w : Work => Tab.get Entry.free w.entries i) h

/-! ### Operations that keep them -/

/-- A line that is none of an entry's leaves the entries, whatever copy they are read from. -/
theorem State.updLedger_work (s : State) (l : RLine) {f : Ledger → Ledger} (hf : ∀ x, (f x).entries = x.entries) :
    (s.updLedger l f).work = s.work := by
  have he : (s.updLedger l f).ledger.entries = s.ledger.entries := by
    cases hl : s.riser.lost with
    | true => simp [State.ledger, State.updLedger, Riser.put, hl, hf]
    | false =>
      have hl' : (s.riser.put l f).lost = false := by simp [Riser.put, hl]
      simp only [State.ledger, State.updLedger, hl, hl', Riser.current_put hl, RiserCopy.write, Bool.false_eq_true, if_false]
      split
      · rfl
      · exact hf _
  simp [State.work, he]

theorem State.saveHealth_work (s : State) : s.saveHealth.work = s.work := State.updLedger_work s .health fun _ => rfl

theorem State.addLocal_work (s : State) (k : Nat) : (s.addLocal k).work = s.work := by
  unfold State.addLocal
  dsimp only
  split
  · exact State.saveHealth_work _
  · rfl

theorem State.updPort_work (s : State) (p : HostPort) (f : HostPortState → HostPortState) : (s.updPort p f).work = s.work := by
  cases p <;> rfl

theorem State.msix_work (s : State) (p : HostPort) (v : Nat) : (s.msix p v).work = s.work := by
  unfold State.msix
  split
  · exact State.updPort_work ..
  · exact State.updPort_work ..

theorem State.logStatus_work (s : State) (st : BitVec 16) (x i a : Nat) (l : Bool) (p : Option (Nat × Word64)) :
    (s.logStatus st x i a l p).work = s.work :=
  (State.msix_work ..).trans ((State.msix_work ..).trans rfl)

theorem State.noteEvent_work (s : State) (p : Option (Nat × Word64)) (e : MemEvent) : (s.noteEvent p e).work = s.work := by
  cases e with
  | corrected x =>
    cases x with
    | hbm st => rfl
    | intake => exact State.addLocal_work ..
    | cluster g => exact State.addLocal_work ..
  | uncorrectable x a =>
    cases x with
    | hbm st => exact (State.addLocal_work ..).trans (State.logStatus_work ..)
    | intake => exact (State.addLocal_work ..).trans (State.logStatus_work ..)
    | cluster g => exact (State.addLocal_work ..).trans (State.logStatus_work ..)
  | poisonWritten => rfl

theorem State.noteAll_work (s : State) (p : Option (Nat × Word64)) (es : List MemEvent) : (s.noteAll p es).work = s.work := by
  induction es generalizing s with
  | nil => rfl
  | cons e es ih => exact (ih _).trans (State.noteEvent_work s p e)

/-- What traffic changes: counters and the fabric's transfers. -/
theorem State.hbmTraffic_eq (s : State) (a n : Nat) (w d : Bool) :
    ∃ x y, s.hbmTraffic a n w d = { s with cnt := x, power := y } := by
  have moves (o k u f m : Nat) : ∃ x y, ((s.count o k).bwCount u w k).onFabric f m = { s with cnt := x, power := y } := ⟨_, _, rfl⟩
  have counts {t : State} (o k : Nat) (h : ∃ x y, t = { s with cnt := x, power := y }) :
      ∃ x y, t.count o k = { s with cnt := x, power := y } := by
    obtain ⟨x, y, rfl⟩ := h
    exact ⟨_, _, rfl⟩
  unfold State.hbmTraffic
  split
  · exact ⟨s.cnt, s.power, rfl⟩
  · dsimp only
    split
    · exact counts _ _ (moves ..)
    · exact moves ..

theorem State.hbmTraffic_work (s : State) (a n : Nat) (w d : Bool) : (s.hbmTraffic a n w d).work = s.work := by
  obtain ⟨x, y, h⟩ := State.hbmTraffic_eq s a n w d
  rw [h]
  rfl

theorem State.wake_work (s : State) (a : Nat) : (s.wake a).work = s.work := by
  unfold State.wake
  split <;> rfl

/-- A write to memory changes the memory alone. -/
theorem State.writeMem_work (s : State) (p : Option (Nat × Word64)) (d : Bool) (a : Nat) (bs : List Byte) :
    (s.writeMem p d a bs).work = { s.work with mem := (s.mem.writeRange .chip a bs).1 } :=
  (State.hbmTraffic_work ..).trans ((State.noteAll_work ..).trans rfl)

/-- A read that is clean gives its bytes and leaves the memory. -/
theorem State.readMem_clean {a n : Nat} {bs : List Byte} (h : s.mem.readsClean .chip a n bs) (p : Option (Nat × Word64)) (d : Bool) :
    s.readMem p d a n = (⟨bs, [], [], s.mem, []⟩, s.hbmTraffic a n false d) := by
  unfold State.readMem
  rw [show s.mem.readRange .chip a n = ⟨bs, [], [], s.mem, []⟩ from h]
  rfl

/-- A range that reads clean is read to its end. -/
theorem State.readUpTo_clean {a n : Nat} {bs : List Byte} (h : s.mem.readsClean .chip a n bs) (p : Option (Nat × Word64)) :
    s.readUpTo p a n = (none, ⟨bs, [], [], s.mem, []⟩, s.hbmTraffic a n false true) := by
  have hf : firstBad (s.mem.readRange .chip a n) = none := by
    rw [show s.mem.readRange .chip a n = ⟨bs, [], [], s.mem, []⟩ from h]
    rfl
  unfold State.readUpTo
  rw [hf]
  dsimp only
  rw [State.readMem_clean h]

/-! ### The host ports -/

theorem State.hbmTraffic_port (s : State) (a n : Nat) (w d : Bool) (p : HostPort) : (s.hbmTraffic a n w d).port p = s.port p := by
  obtain ⟨x, y, h⟩ := State.hbmTraffic_eq s a n w d
  rw [h]
  cases p <;> rfl

theorem State.port_wake (s : State) (a : Nat) (p : HostPort) : (s.wake a).port p = s.port p := by
  unfold State.wake
  split <;> cases p <;> rfl

@[simp] theorem State.port_updPort (s : State) (p : HostPort) (f : HostPortState → HostPortState) : (s.updPort p f).port p = f (s.port p) := by
  cases p <;> rfl

theorem State.hostWrite_work (s : State) (p : HostPort) (a : Word64) (bs : List Byte) : (s.hostWrite p a bs).work = s.work :=
  State.updPort_work ..

/-- A write to host memory goes out of its port after what went before. -/
theorem State.port_hostWrite (s : State) (p : HostPort) (a : Word64) (bs : List Byte) :
    ((s.hostWrite p a bs).port p).out = (s.port p).out ++ [.write a bs] := by
  cases p <;> rfl

/-- A message changes nothing that AER holds. -/
theorem State.msix_aer (s : State) (p q : HostPort) (v : Nat) : ((s.msix p v).port q).aerUncor = (s.port q).aerUncor := by
  unfold State.msix
  split <;> cases p <;> cases q <;> rfl

theorem State.logStatus_aer (s : State) (st : BitVec 16) (x i a : Nat) (l : Bool) (n : Option (Nat × Word64)) (q : HostPort) :
    ((s.logStatus st x i a l n).port q).aerUncor = (s.port q).aerUncor := by
  refine (State.msix_aer ..).trans ((State.msix_aer ..).trans ?_)
  cases q <;> rfl

/-! ### The running pour -/

theorem State.runningOf_updRunning (s : State) (c : Nat) (f : Running → Running) : (s.updRunning c f).runningOf c = (s.runningOf c).map f :=
  State.runningOf_setRunning_same ..

/-- Fixing an outcome leaves the pour otherwise as it ran. -/
theorem State.runningOf_fix {c : Nat} {r : Running} (h : s.runningOf c = some r) (o : PourOutcome) :
    (s.fix c o).runningOf c = some { r with outcome := some o } := by
  rw [State.fix, State.runningOf_updRunning, h]
  rfl

end Sys2Proof.Machine
end

section
/-! SUPPORT. The Memory pours: what FILL, COPY_OUT and COPY_IN do where they start, and what host data do when they come. -/

namespace Sys2Proof.Machine

variable {s t u s1 : State} {i n : Nat} {k : Packet} {c : Fin 64}

/-! ### Bytes in whole codewords -/

theorem getElem?_leBytes {j n : Nat} (v : Nat) (h : j < n) : (leBytes n v)[j]? = some (BitVec.ofNat 8 (v / 256 ^ j)) := by
  induction n generalizing j v with
  | zero => omega
  | succ n ih =>
    cases j with
    | zero => simp [leBytes]
    | succ j => rw [leBytes, List.getElem?_cons_succ, ih _ (by omega), Nat.div_div_eq_div_mul, ← Nat.pow_succ']

theorem length_leBytes (n v : Nat) : (leBytes n v).length = n := by
  induction n generalizing v with
  | zero => rfl
  | succ n ih => rw [leBytes, List.length_cons, ih]

/-- A list repeated holds at each place what the list holds there modulo its length. -/
theorem getElem?_flatten_replicate {α : Type} (l : List α) {m j : Nat} (h : j < m * l.length) :
    ((List.replicate m l).flatten)[j]? = l[j % l.length]? := by
  induction m generalizing j with
  | zero => omega
  | succ m ih =>
    rw [List.replicate_succ, List.flatten_cons, List.getElem?_append]
    split
    · next hj => rw [Nat.mod_eq_of_lt hj]
    · next hj =>
      rw [Nat.succ_mul] at h
      rw [ih (by omega), ← Nat.mod_eq_sub_mod (by omega)]

/-- A write of whole codewords: they are set clean, and the bytes laid. -/
theorem Mem.writeRange_whole (m : Mem) (k : MemKind) {a : Nat} {bs : List Byte} (ha : a % 32 = 0) (hn : bs.length % 32 = 0)
    (hp : 0 < bs.length) :
    (m.writeRange k a bs).1 = (m.cleanAll k (m.suspects k (a / 32) (bs.length / 32))).lay a bs := by
  have hh : ¬(a % 32 ≠ 0 ∨ a / 32 = (a + bs.length - 1) / 32 ∧ bs.length < 32) := by omega
  have ht : ¬((a + bs.length) % 32 ≠ 0 ∧ (a + bs.length - 1) / 32 ≠ a / 32) := by omega
  have h0 : (a + 31) / 32 = a / 32 := by omega
  have h1 : (a + bs.length) / 32 - a / 32 = bs.length / 32 := by omega
  have hl : a / 32 < (a + bs.length) / 32 := by omega
  have hd : 32 * (a / 32) - a = 0 := by omega
  have hz : 32 * (a / 32) = a := by omega
  have hk : bs.take (32 * (bs.length / 32)) = bs := List.take_of_length_le (by omega)
  unfold Mem.writeRange
  simp only [hh, ht, if_false, h0, hl, if_true, h1, hz, Nat.sub_self, List.drop_zero, hk, show ¬bs.length = 0 by omega]

/-! ### Where the pours start -/

/-- A pour whose outcome is fixed where its body acts: after what left its entry and the running pours. -/
theorem State.Begins.fix (h : s.Begins u c i k) (ht : t.runningOf c = u.runningOf c) (he : t.entry i = u.entry i) (o : PourOutcome) :
    (t.fix c o).runsWith s c i k (some o) :=
  h.runsWith (r := ⟨i, k, opClass k.opcode, some o, none, 0, [], [], none⟩) he (State.runningOf_fix (ht.trans h.running) o) rfl rfl rfl

theorem execCopyIn_reached {a : Nat} (h : s.startsNow s1 c.val 0x30 i (stackNeed (s.bodyOf i).devRange.1) k)
    (hr : s.hostTarget k.devRange.1 k.devRange.2 = some a) :
    exec (.copyIn c) s
      = .next (((s1.beginAttempt c i k).updRunning c.val fun r => { r with transfer := some ⟨0, k.devRange.2, []⟩ }).askHost c.val) := by
  refine congrArg Host.Outcome.next ((h.startPour (needs := fun _ k => stackNeed k.devRange.1) rfl _).trans ?_)
  rw [h.begins.hostTarget, hr]

theorem execCopyIn_notReached (h : s.startsNow s1 c.val 0x30 i (stackNeed (s.bodyOf i).devRange.1) k)
    (hr : s.hostTarget k.devRange.1 k.devRange.2 = none) :
    exec (.copyIn c) s = .next ((s1.beginAttempt c i k).fix c.val (refusedAt stHbmExceeded 0)) := by
  refine congrArg Host.Outcome.next ((h.startPour (needs := fun _ k => stackNeed k.devRange.1) rfl _).trans ?_)
  rw [h.begins.hostTarget, hr]

theorem execFill_reached {a : Nat} (h : s.startsNow s1 c.val 0x32 i (stackNeed (s.bodyOf i).devRange.1) k)
    (hr : s.hostTarget k.devRange.1 k.devRange.2 = some a) :
    exec (.fill c) s = .next (((s1.beginAttempt c i k).writeMem none true a
      ((List.replicate (k.devRange.2 / 32) (leBytes 32 (fieldOf k.pay 128 256))).flatten)).fix c.val
        (completed stOk k.devRange.2 .nothing)) := by
  refine congrArg Host.Outcome.next ((h.startPour (needs := fun _ k => stackNeed k.devRange.1) rfl _).trans ?_)
  dsimp only
  rw [h.begins.hostTarget, hr]

theorem execFill_notReached (h : s.startsNow s1 c.val 0x32 i (stackNeed (s.bodyOf i).devRange.1) k)
    (hr : s.hostTarget k.devRange.1 k.devRange.2 = none) :
    exec (.fill c) s = .next ((s1.beginAttempt c i k).fix c.val (refusedAt stHbmExceeded 0)) := by
  refine congrArg Host.Outcome.next ((h.startPour (needs := fun _ k => stackNeed k.devRange.1) rfl _).trans ?_)
  dsimp only
  rw [h.begins.hostTarget, hr]

theorem execCopyOut_starts (h : s.startsNow s1 c.val 0x31 i (stackNeed (s.bodyOf i).devRange.1) k) :
    exec (.copyOut c) s = .next ((s1.beginAttempt c i k).copyOut c.val k) := by
  have he : exec (.copyOut c) s = execCopyOut c s := rfl
  rw [he, execCopyOut, h.idle]
  exact congrArg Host.Outcome.next (h.startPour (needs := fun _ k => stackNeed k.devRange.1) rfl _)

/-! ### Refusal (R18, R186) -/

/-- A Memory pour whose range the host may not reach is refused with HBM_EXCEEDED. -/
theorem execMemory_refused {x : Instr × Nat} (hx : x ∈ [(Instr.copyIn c, 0x30), (Instr.copyOut c, 0x31), (Instr.fill c, 0x32)])
    (h : s.startsNow s1 c.val x.2 i (stackNeed (s.bodyOf i).devRange.1) k) (hn : s.hostTarget k.devRange.1 k.devRange.2 = none) :
    ∃ t, exec x.1 s = .next t ∧ t.runsWith s c.val i k (some (refusedAt 0x0204 0)) ∧ t.mem = s.mem := by
  have hb := h.begins
  refine ⟨(s1.beginAttempt c i k).fix c.val (refusedAt stHbmExceeded 0), ?_, hb.fix rfl rfl _, hb.mem⟩
  simp only [List.mem_cons, List.not_mem_nil, or_false] at hx
  rcases hx with rfl | rfl | rfl
  · exact execCopyIn_notReached h hn
  · rw [execCopyOut_starts h, State.copyOut, hb.hostTarget, hn]
  · exact execFill_notReached h hn

/-! ### FILL (R226) -/

theorem execFill_writes {a : Nat} (h : s.startsNow s1 c.val 0x32 i (stackNeed (s.bodyOf i).devRange.1) k)
    (hn : n = k.devRange.2) (hr : s.hostTarget k.devRange.1 n = some a) (ha : a % 32 = 0) (hw : n % 32 = 0) (hp : 0 < n) :
    ∃ t, exec (.fill c) s = .next t ∧ t.runsWith s c.val i k (some (completed stOk n .nothing))
      ∧ (∀ j < n, t.mem.byte (a + j) = BitVec.ofNat 8 (fieldOf k.pay 128 256 / 256 ^ (j % 32)))
      ∧ (s.mem.suspects .chip (a / 32) (n / 32) = [] → ∀ b, b < a ∨ a + n ≤ b → t.mem.byte b = s.mem.byte b) := by
  subst hn
  have hb := h.begins
  generalize hv : (List.replicate (k.devRange.2 / 32) (leBytes 32 (fieldOf k.pay 128 256))).flatten = bs
  have hlen : bs.length = k.devRange.2 := by
    rw [← hv]
    simp [length_leBytes]
    omega
  have hwork := State.writeMem_work (s1.beginAttempt c i k) none true a bs
  have hmem : ((s1.beginAttempt c i k).writeMem none true a bs).mem
      = (s.mem.cleanAll .chip (s.mem.suspects .chip (a / 32) (k.devRange.2 / 32))).lay a bs := by
    refine (congrArg Work.mem hwork).trans ?_
    dsimp only
    rw [hb.mem, Mem.writeRange_whole _ _ ha (by omega) (by omega), hlen]
  refine ⟨((s1.beginAttempt c i k).writeMem none true a bs).fix c.val (completed stOk k.devRange.2 .nothing), ?_, ?_, ?_, ?_⟩
  · rw [execFill_reached h hr, hv]
  · exact hb.fix (congrArg (fun w : Work => Tab.get none w.running c) hwork)
      (congrArg (fun w : Work => Tab.get Entry.free w.entries i) hwork) _
  · intro j hj
    have hm : (((s1.beginAttempt c i k).writeMem none true a bs).fix c.val (completed stOk k.devRange.2 .nothing)).mem = _ := hmem
    rw [hm, Mem.byte_lay, if_pos (by omega), Nat.add_sub_cancel_left, List.getD_eq_getElem?_getD, ← hv,
      getElem?_flatten_replicate _ (by rw [length_leBytes]; omega), length_leBytes, getElem?_leBytes _ (by omega)]
    rfl
  · intro hs b hb
    have hm : (((s1.beginAttempt c i k).writeMem none true a bs).fix c.val (completed stOk k.devRange.2 .nothing)).mem = _ := hmem
    rw [hm, Mem.byte_lay, if_neg (by omega), hs]
    rfl

/-! ### COPY_OUT and COPY_IN (R226, R227) -/

theorem execCopyOut_writes {a : Nat} {bs : List Byte} (h : s.startsNow s1 c.val 0x31 i (stackNeed (s.bodyOf i).devRange.1) k)
    (hn : n = k.devRange.2) (hr : s.hostTarget k.devRange.1 n = some a) (hw : (s.port (s.chan c.val).owner).mayWrite = true)
    (hc : s.mem.readsClean .chip a n bs) :
    ∃ t, exec (.copyOut c) s = .next t ∧ t.runsWith s c.val i k (some (completed stOk n .nothing))
      ∧ (t.port (s.chan c.val).owner).out
          = (s.port (s.chan c.val).owner).out ++ [.write (BitVec.ofNat 64 (fieldOf k.pay 0 64)) bs] ∧ t.mem = s.mem := by
  subst hn
  have hb := h.begins
  set u := s1.beginAttempt c i k with hu
  have hwm : (u.wake a).mem = s.mem := (State.mem_of_work (State.wake_work u a)).trans hb.mem
  have hcu : (u.wake a).mem.readsClean .chip a k.devRange.2 bs := by
    rw [hwm]
    exact hc
  generalize hv : (u.wake a).hbmTraffic a k.devRange.2 false true = v
  have hvw : v.work = u.work := by
    rw [← hv]
    exact (State.hbmTraffic_work ..).trans (State.wake_work ..)
  have hvp (p : HostPort) : v.port p = s.port p := by
    rw [← hv, State.hbmTraffic_port]
    exact (State.port_wake u a p).trans (hb.port p)
  refine ⟨(v.hostWrite (s.chan c.val).owner (BitVec.ofNat 64 (fieldOf k.pay 0 64)) bs).fix c.val (completed stOk k.devRange.2 .nothing),
    ?_, ?_, ?_, ?_⟩
  · rw [execCopyOut_starts h, State.copyOut, hb.hostTarget, hr]
    dsimp only
    rw [hb.chan, hb.port, hw, State.readUpTo_clean hcu, hv]
    rfl
  · have hw' := (State.hostWrite_work v (s.chan c.val).owner (BitVec.ofNat 64 (fieldOf k.pay 0 64)) bs).trans hvw
    exact hb.fix (State.runningOf_of_work hw' c) (State.entry_of_work hw' i) _
  · exact (State.port_hostWrite ..).trans (by rw [hvp])
  · exact (State.mem_of_work (State.hostWrite_work ..)).trans ((State.mem_of_work hvw).trans hb.mem)

theorem execCopyIn_asks {a : Nat} (h : s.startsNow s1 c.val 0x30 i (stackNeed (s.bodyOf i).devRange.1) k)
    (hn : n = k.devRange.2) (hr : s.hostTarget k.devRange.1 n = some a) (hw : (s.port (s.chan c.val).owner).mayWrite = true)
    (hp : 0 < n) :
    ∃ t, exec (.copyIn c) s = .next t ∧ t.runsWith s c.val i k none
      ∧ (t.runningOf c.val).bind (·.transfer) = some ⟨0, n, []⟩
      ∧ (t.port (s.chan c.val).owner).out
          = (s.port (s.chan c.val).owner).out ++ [.readReq c.val (BitVec.ofNat 64 (fieldOf k.pay 0 64)) n] ∧ t.mem = s.mem := by
  subst hn
  have hb := h.begins
  have hop : k.opcode = opCopyIn := h.2.2.1
  set u := (s1.beginAttempt c i k).updRunning c.val fun r => { r with transfer := some ⟨0, k.devRange.2, []⟩ } with hu
  have hrun : u.runningOf c.val
      = some ⟨i, k, opClass k.opcode, none, some ⟨0, k.devRange.2, []⟩, 0, [], [], none⟩ := by
    rw [hu, State.runningOf_updRunning, hb.running]
    rfl
  have hask : u.askHost c.val = u.updPort (s.chan c.val).owner fun h => { h with out := h.out ++
      [.readReq c.val (BitVec.ofNat 64 (fieldOf k.pay 0 64)) k.devRange.2] } := by
    have hch : u.chan c.val = s.chan c.val := hb.chan c.val
    have hpo : u.port (s.chan c.val).owner = s.port (s.chan c.val).owner := hb.port _
    unfold State.askHost
    rw [hrun]
    dsimp only
    rw [hch, hpo, if_pos ⟨.inl hop, hp, hw⟩]
    rfl
  have hwork := State.updPort_work u (s.chan c.val).owner fun h => { h with out := h.out ++
      [.readReq c.val (BitVec.ofNat 64 (fieldOf k.pay 0 64)) k.devRange.2] }
  refine ⟨u.askHost c.val, execCopyIn_reached h hr, ?_, ?_, ?_, ?_⟩
  · rw [hask]
    exact hb.runsWith (State.entry_of_work hwork i) ((State.runningOf_of_work hwork c).trans hrun) rfl rfl rfl
  · rw [hask, State.runningOf_of_work hwork, hrun]
    rfl
  · rw [hask, State.port_updPort]
    exact congrArg (fun h : HostPortState => h.out ++ _) (hb.port _)
  · rw [hask, State.mem_of_work hwork]
    exact hb.mem

/-! ### HOST_DMA_COMPLETION of a COPY_IN (R226, R227, R382) -/

/-- What a transfer that waits for data is. -/
theorem State.running_of_awaitsData {port : HostPort} {c : Nat} {r : Running} {x : Transfer} (h : s.awaitsData port c = some (r, x)) :
    s.runningOf c = some r ∧ r.transfer = some x ∧ r.outcome = none := by
  unfold State.awaitsData at h
  split at h
  · simp at h
  next q hq =>
    split at h
    · simp at h
    next y hy =>
      split at h
      next hc =>
        obtain ⟨rfl, rfl⟩ := by simpa using h
        exact ⟨hq, hy, Option.isNone_iff_eq_none.mp hc.1⟩
      next => simp at h

/-- A COPY_IN is no FIRMWARE_STAGE. -/
theorem opcode_ne_stage {k : Packet} (hop : k.opcode = opCopyIn) : ¬k.opcode = opFirmwareStage := by
  rw [hop]
  decide

/-- The bytes of a COPY_IN go to its range, each codeword whole. -/
theorem State.takeBytes_copyIn {k : Packet} {x : Transfer} {bs : List Byte} {a : Nat} (hop : k.opcode = opCopyIn)
    (ht : s.hostTarget k.devRange.1 k.devRange.2 = some a) :
    (s.takeBytes k x bs).work = { s.work with
      mem := (s.mem.writeRange .chip (a + (x.done - x.rest.length)) ((x.rest ++ bs).take ((x.rest ++ bs).length / 32 * 32))).1 } := by
  have hw := State.wake_work s (a + (x.done - x.rest.length))
  unfold State.takeBytes
  rw [if_neg (opcode_ne_stage hop), ht]
  dsimp only
  rw [State.writeMem_work, hw, State.mem_of_work hw]

/-- A COPY_IN whose last byte has come completes with its length. -/
theorem State.endTransfer_copyIn {c : Nat} {k : Packet} (hop : k.opcode = opCopyIn) (n : Nat) :
    s.endTransfer c k n = s.fix c (completed stOk n .nothing) := by
  unfold State.endTransfer
  rw [if_neg (opcode_ne_stage hop)]

/-- What a COPY_IN's transfer has after more bytes: those that fill no codeword are kept. -/
theorem Transfer.take_copyIn {k : Packet} (hop : k.opcode = opCopyIn) (x : Transfer) (hold : Bool) (bs : List Byte) :
    x.take k hold bs
      = ⟨x.done + bs.length, x.total, (x.rest ++ bs).drop ((x.rest ++ bs).length / 32 * 32)⟩ := by
  unfold Transfer.take
  dsimp only
  rw [if_neg (opcode_ne_stage hop)]

/-- A completion's data of a COPY_IN, taken: the whole codewords are in memory, the rest is kept, and the last byte ends the pour. -/
theorem State.takeData_copyIn {port : HostPort} {c : Nat} {r : Running} {x : Transfer} {data bs all : List Byte} {a n : Nat}
    (hr : s.runningOf c = some r) (ho : r.outcome = none) (hop : r.body.opcode = opCopyIn)
    (ht : s.hostTarget r.body.devRange.1 r.body.devRange.2 = some a) (hbs : bs = data.take (x.total - x.done))
    (hall : all = x.rest ++ bs) (hn : n = all.length / 32 * 32) :
    (s.takeData port c r x data).mem = (s.mem.writeRange .chip (a + (x.done - x.rest.length)) (all.take n)).1
      ∧ ((s.takeData port c r x data).runningOf c).bind (·.transfer) = some ⟨x.done + bs.length, x.total, all.drop n⟩
      ∧ ((s.takeData port c r x data).runningOf c).bind (·.outcome)
          = if x.done + bs.length = x.total then some (completed stOk x.total .nothing) else none := by
  subst hbs hall hn
  unfold State.takeData
  extract_lets bs hold v w
  have hh : ¬hold := fun h => absurd (hop.symm.trans h.1) (by decide)
  have hv : v.work = _ := (show v.work = (s.takeBytes r.body x bs).work from rfl).trans (State.takeBytes_copyIn hop ht)
  have hm : w.mem = _ := congrArg Work.mem hv
  have hw : w.runningOf c
      = some { r with transfer := some ⟨x.done + bs.length, x.total, (x.rest ++ bs).drop ((x.rest ++ bs).length / 32 * 32)⟩ } := by
    have hvr : v.runningOf c = some r := (congrArg (fun y : Work => Tab.get none y.running c) hv).trans hr
    rw [State.runningOf_updRunning, hvr, Option.map_some, Transfer.take_copyIn hop]
  by_cases hd : x.done + bs.length = x.total
  · rw [if_pos ⟨hd, hh⟩, if_pos hd, State.endTransfer_copyIn hop, State.runningOf_fix hw]
    exact ⟨hm, rfl, rfl⟩
  · rw [if_neg fun h => hd h.1, if_neg hd, hw]
    exact ⟨hm, rfl, ho⟩

/-- A read that failed ends a COPY_IN with UNCORRECTABLE_DATA. -/
theorem State.failedRead_copyIn {c : Nat} {r : Running} (hr : s.runningOf c = some r) (hop : r.body.opcode = opCopyIn) :
    (s.failedRead c r).mem = s.mem ∧ ((s.failedRead c r).runningOf c).bind (·.outcome) = some (faultedWith 0x0302)
      ∧ ∀ p, ((s.failedRead c r).port p).aerUncor = (s.port p).aerUncor := by
  unfold State.failedRead
  rw [if_neg (opcode_ne_stage hop)]
  generalize hl : s.logStatus stUncorrectable unitIntake 0 0 false (some (c, BitVec.ofNat 64 r.body.pour)) = v
  have hv : v.work = s.work := by
    rw [← hl]
    exact State.logStatus_work ..
  have hm := State.mem_of_work hv
  refine ⟨hm, ?_, fun p => ?_⟩
  · rw [State.runningOf_fix ((State.runningOf_of_work hv c).trans hr)]
    rfl
  · refine Eq.trans (b := (v.port p).aerUncor) (by cases p <;> rfl) ?_
    rw [← hl]
    exact State.logStatus_aer ..

/-- HOST_DMA_COMPLETION where its data are awaited. -/
theorem execHostDmaCompletion_awaited {port : HostPort} {r : Running} {x : Transfer} (h : s.awaitsData port c.val = some (r, x))
    (hp : s.hostReach port = true) (data : List Byte) :
    exec (.hostDmaCompletion port c data .good) s = .next (s.takeData port c.val r x data)
      ∧ exec (.hostDmaCompletion port c data .error) s = .next (s.failedRead c.val r)
      ∧ exec (.hostDmaCompletion port c data .poisoned) s = .next ((s.notePoisoned port).failedRead c.val r) := by
  have he (st : TlpStatus) : exec (.hostDmaCompletion port c data st) s = execHostDmaCompletion port c data st s := rfl
  simp only [he, execHostDmaCompletion, h, hp, Bool.not_true, Bool.false_eq_true, if_false, and_self]

theorem execHostDmaCompletion_failed {port : HostPort} {r : Running} {x : Transfer} (h : s.awaitsData port c.val = some (r, x))
    (hp : s.hostReach port = true) (hop : r.body.opcode = opCopyIn) (data : List Byte) {st : TlpStatus} (hst : st ≠ .good) :
    ∃ t, exec (.hostDmaCompletion port c data st) s = .next t ∧ t.mem = s.mem
      ∧ (t.runningOf c.val).bind (·.outcome) = some (faultedWith 0x0302)
      ∧ (t.port port).aerUncor = (if st = .poisoned then (s.port port).aerUncor ||| 0x1000 else (s.port port).aerUncor) := by
  obtain ⟨hr, -, -⟩ := State.running_of_awaitsData h
  obtain ⟨-, herr, hpois⟩ := execHostDmaCompletion_awaited h hp data
  cases st with
  | good => exact absurd rfl hst
  | error =>
    obtain ⟨hm, ho, ha⟩ := State.failedRead_copyIn hr hop
    exact ⟨_, herr, hm, ho, ha port⟩
  | poisoned =>
    have hw : (s.notePoisoned port).work = s.work := State.updPort_work ..
    obtain ⟨hm, ho, ha⟩ := State.failedRead_copyIn ((State.runningOf_of_work hw c).trans hr) hop
    refine ⟨_, hpois, hm.trans (State.mem_of_work hw), ho, (ha port).trans ?_⟩
    rw [State.notePoisoned, State.port_updPort]
    rfl

end Sys2Proof.Machine

namespace Sys2Proof.Machine

/-- Settles O26: the body of each Memory pour acts where its attempt has begun, and host data where their transfer stands. -/
theorem memoryPours : Obligations.MemoryPours := by
  unfold Obligations.MemoryPours
  refine ⟨?_, ?_⟩
  · rintro c s s1 i _ k _ _ rfl rfl rfl
    exact ⟨fun x hx h hn => execMemory_refused hx h hn, fun a h hr ha hw hp => execFill_writes h rfl hr ha hw hp,
      fun a bs h hr hw hc => execCopyOut_writes h rfl hr hw hc, fun a h hr hw hp => execCopyIn_asks h rfl hr hw hp⟩
  · intro port c data bs all s r x a n h hp hop ht hbs hall hn
    obtain ⟨hr, -, ho⟩ := State.running_of_awaitsData h
    exact ⟨⟨_, (execHostDmaCompletion_awaited h hp data).1, State.takeData_copyIn hr ho hop ht hbs hall hn⟩,
      fun st hst => execHostDmaCompletion_failed h hp hop data hst⟩

end Sys2Proof.Machine
end

section
/-! SUPPORT. The control core: how the word at the program counter is fetched and decoded, and what the retirement of an instruction
leaves of the part (R83, R397, R401). -/

namespace Sys2Proof.Machine

variable {s u : State} {g w : Nat}

/-! ### Bytes and fields of a word -/

/-- The number of a number's low bytes. -/
theorem leNat_leBytes (n v : Nat) : leNat (leBytes n v) = v % 256 ^ n := by
  induction n generalizing v with
  | zero => simp [leBytes, leNat, Nat.mod_one]
  | succ n ih =>
    rw [leBytes, leNat, ih, BitVec.toNat_ofNat, Nat.pow_succ' (m := 256)]
    exact Nat.mod_mul.symm

/-- The low n bits of a number as a signed integer. -/
theorem signedOf_eq_toInt (n b : Nat) : signedOf n b = (BitVec.ofNat n b).toInt := by
  simp only [signedOf, BitVec.toInt, BitVec.toNat_ofNat, Nat.cast_pow, Nat.cast_ofNat]

/-- The OP field of a word whose bits above the field are zero. -/
theorem fieldOf_op {w o : Nat} (ho : w / 2 ^ 26 = o) (hlt : o < 64) : fieldOf w 26 6 = o := by
  rw [fieldOf, ho]
  exact Nat.mod_eq_of_lt hlt

/-- A field that is zero meets none of the bits of its mask. -/
theorem and_mask_eq_zero {w lo n : Nat} (h : w / 2 ^ lo % 2 ^ n = 0) : w &&& (2 ^ n - 1) <<< lo = 0 := by
  refine Nat.eq_of_testBit_eq fun i => ?_
  have hbit := congrArg (Nat.testBit · (i - lo)) h
  simp only [Nat.testBit_mod_two_pow, Nat.testBit_div_two_pow, Nat.zero_testBit] at hbit
  by_cases hi : lo ≤ i
  · rw [Nat.sub_add_cancel hi] at hbit
    rw [Nat.testBit_and, Nat.testBit_shiftLeft, Nat.testBit_two_pow_sub_one, Nat.zero_testBit, decide_eq_true hi, Bool.true_and,
      Bool.and_comm]
    exact hbit
  · simp [Nat.testBit_shiftLeft, hi]

/-! ### The fetch -/

/-- What a change does to one cluster depends on what it makes of that cluster alone. -/
theorem State.updCl_congr {f f' : Cluster → Cluster} (h : f (s.cl g) = f' (s.cl g)) : s.updCl g f = s.updCl g f' :=
  congrArg (fun c => ({ s with clusters := Tab.put Cluster.init s.clusters g c } : State)) h

/-- The state after a clean fetch: the cluster's instruction memory is written back as it was. -/
def State.fetched (s : State) (g : Nat) : State := s.updCl g id

@[simp] theorem State.fetched_cl (s : State) (g h : Nat) : (s.fetched g).cl h = s.cl h := by
  rw [State.fetched, State.cl_updCl]
  split
  · next e => rw [e, id]
  · rfl

/-- Code that reads clean is consumed as it stands. -/
theorem consumeCode_clean {a n : Nat} {bs : List Byte} (h : (s.cl g).imem.readsClean (.priv g) a n bs) :
    consumeCode s g a n = (s.fetched g, .ok bs) := by
  unfold consumeCode
  rw [show (s.cl g).imem.readRange (.priv g) a n = _ from h]
  exact congrArg (·, _) (State.updCl_congr rfl)

/-- The fetch of a word that begins no ISSUE. -/
theorem coreFetch_word {a : Nat} (h : (s.cl g).wordAt g a w) (hi : isIssueWord w = false) :
    coreFetch g a s = (s.fetched g, .ok ⟨g, a, w, 0⟩) := by
  obtain ⟨hlen, hw, hread⟩ := h
  have hnum : leNat (leBytes 4 w) = w := (leNat_leBytes 4 w).trans (Nat.mod_eq_of_lt hw)
  unfold coreFetch
  rw [if_neg (by omega), consumeCode_clean hread]
  simp only [hnum, hi, Bool.false_eq_true, if_false]

/-- The core runs the body of the instruction at its program counter, on the state that the fetch leaves. -/
theorem coreRun_word {op : CoreOp} (body : CoreArgs → State → CoreOut) (h : s.runsWord g w) (hi : isIssueWord w = false)
    (hd : coreDecode w = some op) :
    coreRun g op body s = (body ⟨g, (s.cl g).pc.toNat, w, 0⟩ (s.fetched g)).apply g (s.cl g).pc.toNat := by
  obtain ⟨hready, hword⟩ := h
  unfold coreRun
  simp only [hready, if_true, coreFetch_word hword hi, hd]

/-! ### Retirement -/

/-- A core that has not halted does not end its part of the pour. -/
theorem Cluster.settle_of_not_halted {c : Cluster} (h : c.run ≠ .halted) : c.settle = c := if_neg fun hc => h hc.1

/-- The offset of a cluster's counter gives back its cluster and its number. -/
theorem ctrCluster_fields {n : Nat} (hg : g < 128) (hn : n < 32) :
    ctrCluster g n / 0x10000 = 1 ∧ (ctrCluster g n - 0x10000) / 0x200 = g ∧ ctrCluster g n % 0x200 / 8 = n := by
  unfold ctrCluster
  omega

@[simp] theorem State.cl_count (s : State) (off k h : Nat) : (s.count off k).cl h = s.cl h := rfl
@[simp] theorem State.cl_updSampler (s : State) (g h : Nat) (f : Sampler → Sampler) : (s.updSampler g f).cl h = s.cl h := rfl
@[simp] theorem State.ctr_updSampler (s : State) (g : Nat) (f : Sampler → Sampler) :
    (s.updSampler g f).cnt.regs.ctr = s.cnt.regs.ctr := rfl

/-- A sampler after one of them is changed. -/
theorem State.samp_updSampler (s : State) (g h : Nat) (f : Sampler → Sampler) :
    Tab.get Sampler.init (s.updSampler g f).cnt.regs.samp h
      = if g = h then f (Tab.get Sampler.init s.cnt.regs.samp g) else Tab.get Sampler.init s.cnt.regs.samp h := Tab.get_upd g f h

/-- A sampler after the count of a cluster has moved on: that of the counter's cluster may see a crossing (R401). -/
theorem State.samp_count {n : Nat} (s : State) (k h : Nat) (hg : g < 128) (hn : n < 32) :
    Tab.get Sampler.init (s.count (ctrCluster g n) k).cnt.regs.samp h
      = if h = g then (Tab.get Sampler.init s.cnt.regs.samp g).passed n (Tab.get Ctr48.zero s.cnt.regs.ctr (ctrCluster g n)).n.toNat k
          (s.cl g).cycle (s.cl g).lastPc
        else Tab.get Sampler.init s.cnt.regs.samp h := by
  obtain ⟨hblock, hcl, hno⟩ := ctrCluster_fields hg hn
  change Tab.get _ (CntRegs.sampled ..) _ = _
  unfold CntRegs.sampled
  rw [if_pos hblock, hcl, hno]
  simp only [Tab.get_upd, eq_comm (a := g)]
  rfl

/-- The state after a retirement at the program counter of a cluster that does not end with it. -/
def State.afterRetire (s : State) (g next : Nat) : State :=
  ((s.updCl g fun c => c.retired next).updSampler g fun m => m.retired (s.cl g).pc.toNat).count (ctrCluster g 14) 1

/-- A retirement after which the core has not halted. -/
theorem CoreOut.apply_retire (h : (s.cl g).run ≠ .halted) (next : Nat) :
    (CoreOut.retire s next).apply g (s.cl g).pc.toNat = s.afterRetire g next :=
  congrArg (fun t : State => (t.updSampler g fun m => m.retired (s.cl g).pc.toNat).count (ctrCluster g 14) 1)
    (State.updCl_congr (Cluster.settle_of_not_halted (c := (s.cl g).retired next) h))

/-- A retirement moves on the cluster, its counter 14 and its sampler, and nothing else. -/
theorem State.afterRetire_retiresAs (s : State) (hg : g < 128) (next : Nat) :
    s.retiresAs (s.afterRetire g next) g ((s.cl g).retired next) := by
  unfold State.afterRetire
  refine ⟨⟨rfl, ?_, fun h hne => ?_⟩, fun o => ?_, rfl, fun h => ?_⟩
  · rw [State.cl_count, State.cl_updSampler, State.cl_updCl_same]
  · rw [State.cl_count, State.cl_updSampler, State.cl_updCl, if_neg (Ne.symm hne)]
  · rw [State.ctr_count, State.ctr_updSampler, State.updCl_cnt]
    by_cases ho : o = ctrCluster g 14
    · rw [if_pos ho, if_pos ho.symm, ho]
    · rw [if_neg ho, if_neg (Ne.symm ho)]
  · rw [State.samp_count _ _ _ hg (by decide), State.samp_updSampler, State.samp_updSampler, State.ctr_updSampler,
      State.cl_updSampler, State.cl_updCl_same, State.updCl_cnt, if_pos rfl]
    by_cases hh : h = g
    · rw [if_pos hh, if_pos hh]
      rfl
    · rw [if_neg hh, if_neg hh, if_neg (Ne.symm hh)]

/-- What retires after a change of its own cluster alone has retired in the whole instruction, where the change leaves the program
counter and the cycle count. -/
theorem State.retiresAs.of_onlyCluster {t : State} {c d : Cluster} (h : u.retiresAs t g d) (hu : s.onlyCluster u g c)
    (hcnt : u.cnt = s.cnt) (hpc : c.pc = (s.cl g).pc) (hcycle : c.cycle = (s.cl g).cycle) : s.retiresAs t g d := by
  obtain ⟨⟨hrest, hd, hothers⟩, hctr, hregs, hsamp⟩ := h
  obtain ⟨hrest', hc, hothers'⟩ := hu
  have hsampled : u.sampledRetire g = s.sampledRetire g := by
    unfold State.sampledRetire
    rw [hc, hcnt, hpc, hcycle]
  rw [hcnt] at hctr hregs hsamp
  refine ⟨⟨?_, hd, fun h hne => (hothers h hne).trans (hothers' h hne)⟩, hctr, hregs, hsampled ▸ hsamp⟩
  exact hrest.trans (congrArg (fun y : State => { y with clusters := t.clusters, cnt := t.cnt }) hrest')

/-- A whole instruction retires from `s`, where `u` is what its body has made of its own cluster. -/
theorem CoreOut.retire_retiresAs {c : Cluster} (hg : g < 128) (hu : s.onlyCluster u g c) (hcnt : u.cnt = s.cnt)
    (hpc : c.pc = (s.cl g).pc) (hcycle : c.cycle = (s.cl g).cycle) (hrun : c.run ≠ .halted) (next : Nat) :
    s.retiresAs ((CoreOut.retire u next).apply g (s.cl g).pc.toNat) g (c.retired next) := by
  have ⟨_, hcl, _⟩ := hu
  subst hcl
  rw [← hpc, CoreOut.apply_retire hrun]
  exact (u.afterRetire_retiresAs hg next).of_onlyCluster hu hcnt hpc hcycle

/-! ### An instruction that gives a register -/

/-- A register written leaves the rest of its cluster. -/
theorem Cluster.setReg_eq (c : Cluster) (n : Nat) (v : Word64) : c.setReg n v = { c with regs := (c.setReg n v).regs } := by
  unfold Cluster.setReg
  split <;> rfl

/-- A cluster changed after a clean fetch, and nothing else. -/
theorem State.onlyCluster_fetched (s : State) (g : Nat) (f : Cluster → Cluster) :
    s.onlyCluster ((s.fetched g).updCl g f) g (f (s.cl g)) := by
  refine ⟨rfl, ?_, fun h hne => ?_⟩
  · rw [State.cl_updCl_same, State.fetched_cl]
  · rw [State.cl_updCl, if_neg (Ne.symm hne), State.fetched_cl]

/-- A core that may execute its next instruction has not halted. -/
theorem State.run_of_coreReady (h : s.coreReady g = true) : (s.cl g).run = .running := by
  simp only [State.coreReady, Bool.and_eq_true, decide_eq_true_eq] at h
  obtain ⟨⟨-, hrun⟩, -⟩ := h
  exact hrun

/-- An instruction that makes one register of two retires with it: xd := f xa xb, and the next address is that of the next word. -/
theorem coreRun_alu {op : CoreOp} (f : Word64 → Word64 → Word64) (hg : g < 128) (h : s.runsWord g w)
    (hi : isIssueWord w = false) (hd : coreDecode w = some op) :
    s.retiresAs (coreRun g op (aluBody f) s) g
      (((s.cl g).setReg (w / 2 ^ 21 % 32) (f ((s.cl g).reg (w / 2 ^ 16 % 32)) ((s.cl g).reg (w / 2 ^ 11 % 32)))).retired
        ((s.cl g).pc.toNat + 4)) := by
  have hrun := State.run_of_coreReady h.1
  rw [coreRun_word (aluBody f) h hi hd]
  unfold aluBody CoreArgs.result
  simp only [State.fetched_cl]
  refine CoreOut.retire_retiresAs hg (State.onlyCluster_fetched s g _) rfl ?_ ?_ ?_ _
  · rw [Cluster.setReg_eq]
  · rw [Cluster.setReg_eq]
  · rw [Cluster.setReg_eq]
    exact ne_of_eq_of_ne hrun (by decide)

end Sys2Proof.Machine
end

section
/-! SUPPORT. The scalar floating-point group of the control core (Table 4-3): its words and its results. -/

namespace Sys2Proof.Machine

/-- A word of the floating-point group decodes by its FN, where an XB that is not used is zero (R434). -/
theorem coreDecode_float {w fn : Nat} {op : CoreOp} {useB : Bool} (ho : w / 2 ^ 26 = 3) (hfn : w % 2 ^ 11 = fn)
    (hop : fpGroup fn = some (op, useB)) (hb : useB = false → w / 2 ^ 11 % 32 = 0) : coreDecode w = some op := by
  have hfn' : fieldOf w 0 11 = fn := by rw [fieldOf, Nat.pow_zero, Nat.div_one, hfn]
  unfold coreDecode
  rw [fieldOf_op ho (by decide), hfn', hop]
  cases useB with
  | true => rfl
  | false => exact if_pos (and_mask_eq_zero (n := 5) (hb rfl))

/-- FCVT.D.L reads xa as a signed integer. -/
theorem fcvtDLBody_eq : fcvtDLBody = fpBody fun a _ => roundRne 0xE (Num.ofInt (BitVec.ofNat 64 a).toInt) := by
  simp only [fcvtDLBody, signedOf_eq_toInt]

/-- What a row of the floating-point group says of its command: each word of its FN, with XB zero where it is not used, retires with the
row's function of xa and xb in xd. -/
def FloatRow (x : (Fin 128 → Instr) × Nat × Bool × (Nat → Nat → Nat)) : Prop :=
  ∀ (g : Fin 128) (s : State) (w : Nat),
    s.runsWord g.val w → w / 2 ^ 26 = 3 → w % 2 ^ 11 = x.2.1 → (x.2.2.1 = false → w / 2 ^ 11 % 32 = 0) →
    ∃ t, exec (x.1 g) s = .next t
      ∧ s.retiresAs t g.val (((s.cl g.val).setReg (w / 2 ^ 21 % 32)
          (BitVec.ofNat 64 (x.2.2.2 ((s.cl g.val).reg (w / 2 ^ 16 % 32)).toNat ((s.cl g.val).reg (w / 2 ^ 11 % 32)).toNat))).retired
            ((s.cl g.val).pc.toNat + 4))

/-- A row holds where its command runs the operation that FN names, with the row's function as its body. -/
theorem floatRow {mk : Fin 128 → Instr} {fn : Nat} {useB : Bool} {f : Nat → Nat → Nat} {op : CoreOp}
    (hop : fpGroup fn = some (op, useB)) (hexec : ∀ g s, exec (mk g) s = .next (coreRun g.val op (fpBody f) s)) :
    FloatRow (mk, fn, useB, f) := by
  intro g s w hruns ho hfn hb
  have hi : isIssueWord w = false := by
    rw [isIssueWord, fieldOf_op ho (by decide)]
    rfl
  exact ⟨_, hexec g s, coreRun_alu _ g.isLt hruns hi (coreDecode_float ho hfn hop hb)⟩

end Sys2Proof.Machine

namespace Sys2Proof.Machine

/-- Settles O8: every row of the group is an instruction that makes one register of two, on the word that its FN decodes to. -/
theorem floatGroupResult : Obligations.FloatGroupResult := by
  unfold Obligations.FloatGroupResult
  change ∀ x ∈ floatTable, FloatRow x
  simp only [floatTable, List.forall_mem_cons]
  exact ⟨floatRow (op := .fadd) rfl fun _ _ => rfl,
    floatRow (op := .fsub) rfl fun _ _ => rfl,
    floatRow (op := .fmul) rfl fun _ _ => rfl,
    floatRow (op := .fdiv) rfl fun _ _ => rfl,
    floatRow (op := .fsqrt) rfl fun _ _ => rfl,
    floatRow (op := .fmin) rfl fun _ _ => rfl,
    floatRow (op := .fmax) rfl fun _ _ => rfl,
    floatRow (op := .flt) rfl fun _ _ => rfl,
    floatRow (op := .feq) rfl fun _ _ => rfl,
    floatRow (op := .fcvtDS) rfl fun _ _ => rfl,
    floatRow (op := .fcvtSD) rfl fun _ _ => rfl,
    floatRow (op := .fcvtDL) rfl fun _ _ => fcvtDLBody_eq ▸ rfl,
    floatRow (op := .fcvtLD) rfl fun _ _ => rfl,
    List.forall_mem_nil _⟩

end Sys2Proof.Machine
end

section
/-! SUPPORT. The control core: how its words decode, and what an instruction that retires, stalls or faults leaves of the part
(R83, R84, R92). -/

namespace Sys2Proof.Machine

variable {s u : State} {g w : Nat}

/-! ### Words -/

/-- A word whose OP is not that of ISSUE begins none. -/
theorem isIssueWord_of_op {o : Nat} (ho : w / 2 ^ 26 = o) (hlt : o < 64) (hne : o ≠ 0x30) : isIssueWord w = false := by
  rw [isIssueWord, fieldOf_op ho hlt]
  exact decide_eq_false hne

/-- The lowest field of a word. -/
theorem fieldOf_zero (v n : Nat) : fieldOf v 0 n = v % 2 ^ n := by rw [fieldOf, Nat.pow_zero, Nat.div_one]

theorem whenClear_of_clear {m : Nat} (h : w &&& m = 0) (op : CoreOp) : whenClear w m op = some op := if_pos h

/-- A word that meets neither of two masks does not meet both together. -/
theorem and_or_mask_eq_zero {m n : Nat} (hm : w &&& m = 0) (hn : w &&& n = 0) : w &&& (m ||| n) = 0 := by
  rw [Nat.and_or_distrib_left, hm, hn]
  rfl

/-- A bit of a number, as the parity of a quotient. -/
theorem testBit_iff_div (w i : Nat) : w.testBit i = true ↔ w / 2 ^ i % 2 = 1 := by
  rw [Nat.testBit_eq_decide_div_mod_eq, decide_eq_true_eq]

/-! ### Changes of one cluster alone -/

theorem State.onlyCluster_refl (s : State) (g : Nat) : s.onlyCluster s g (s.cl g) := ⟨rfl, rfl, fun _ _ => rfl⟩

/-- A further change of the cluster that alone has changed. -/
theorem State.onlyCluster.updCl {c : Cluster} (h : s.onlyCluster u g c) (f : Cluster → Cluster) :
    s.onlyCluster (u.updCl g f) g (f c) := by
  obtain ⟨hrest, hc, hothers⟩ := h
  refine ⟨?_, ?_, fun i hne => ?_⟩
  · exact congrArg (fun y : State => { y with clusters := (u.updCl g f).clusters }) hrest
  · rw [State.cl_updCl_same, hc]
  · rw [State.cl_updCl, if_neg (Ne.symm hne), hothers i hne]

theorem State.onlyCluster_fetch (s : State) (g : Nat) : s.onlyCluster (s.fetched g) g (s.cl g) := (s.onlyCluster_refl g).updCl id

/-! ### Outcomes of an instruction -/

/-- A cluster keeps what its core's retirement goes by. -/
structure Cluster.SameStep (c d : Cluster) : Prop where
  pc    : d.pc = c.pc
  cycle : d.cycle = c.cycle
  run   : d.run = c.run

theorem Cluster.SameStep.refl (c : Cluster) : c.SameStep c := ⟨rfl, rfl, rfl⟩

theorem Cluster.sameStep_setReg (c : Cluster) (n : Nat) (v : Word64) : c.SameStep (c.setReg n v) := by
  rw [Cluster.setReg_eq]
  exact ⟨rfl, rfl, rfl⟩

/-- An instruction whose body retires, with nothing changed but its own cluster, retires with that cluster. -/
theorem coreRun_retires {op : CoreOp} {body : CoreArgs → State → CoreOut} {c : Cluster} {next : Nat} (hg : g < 128)
    (h : s.runsWord g w) (hi : isIssueWord w = false) (hd : coreDecode w = some op)
    (hbody : body ⟨g, (s.cl g).pc.toNat, w, 0⟩ (s.fetched g) = .retire u next) (hu : s.onlyCluster u g c) (hcnt : u.cnt = s.cnt)
    (hc : (s.cl g).SameStep c) : s.retiresAs (coreRun g op body s) g (c.retired next) := by
  rw [coreRun_word body h hi hd, hbody]
  refine CoreOut.retire_retiresAs hg hu hcnt hc.pc hc.cycle ?_ next
  rw [hc.run, State.run_of_coreReady h.1]
  decide

/-- A body that gives xd a value retires with it. -/
theorem coreRun_result {op : CoreOp} {body : CoreArgs → State → CoreOut} {v : Word64} (hg : g < 128) (h : s.runsWord g w)
    (hi : isIssueWord w = false) (hd : coreDecode w = some op)
    (hbody : body ⟨g, (s.cl g).pc.toNat, w, 0⟩ (s.fetched g) = CoreArgs.result ⟨g, (s.cl g).pc.toNat, w, 0⟩ v (s.fetched g)) :
    s.retiresAs (coreRun g op body s) g (((s.cl g).setReg (w / 2 ^ 21 % 32) v).retired ((s.cl g).pc.toNat + 4)) :=
  coreRun_retires hg h hi hd hbody ((s.onlyCluster_fetch g).updCl _) rfl (Cluster.sameStep_setReg ..)

/-- An instruction that stalls changes the stall of its cluster alone. -/
theorem coreRun_stalls {op : CoreOp} {body : CoreArgs → State → CoreOut} {why : Stall} (h : s.runsWord g w)
    (hi : isIssueWord w = false) (hd : coreDecode w = some op)
    (hbody : body ⟨g, (s.cl g).pc.toNat, w, 0⟩ (s.fetched g) = .stall (s.fetched g) why) :
    s.onlyCluster (coreRun g op body s) g { s.cl g with stall := some why } ∧ (coreRun g op body s).cnt = s.cnt := by
  rw [coreRun_word body h hi hd, hbody]
  exact ⟨(s.onlyCluster_fetch g).updCl _, rfl⟩

/-! ### Faults -/

/-- The first fault of an attempt: the attempt ends with it, its cycle closes with the present period, and CLS_FAULT of its cluster
holds it (R92). -/
theorem State.faultPour_first {r : RunCtx} {st : BitVec 16} (hr : s.run = some r) (hf : r.fault = none) (hst : st ≠ stPoisonConsumed)
    (source : Nat) (pc : BitVec 18) (addr : Nat) :
    s.faultPour g source st pc addr
      = { s.updCl g fun c => { c with fault := ⟨true, BitVec.ofNat 4 source, st, pc, BitVec.ofNat 48 addr⟩ } with
          run := some { r with fault := some (st, false), stopAt := some s.cnt.regs.time } } := by
  have hcounts : s.faultCounts g source = true := by simp [State.faultCounts, hr, hf]
  have hend : s.endAttempt st false = { s with run := some { r with fault := some (st, false), stopAt := some s.cnt.regs.time } } := by
    simp [State.endAttempt, hr, hf]
  unfold State.faultPour
  simp only [hcounts, if_true, hend, if_neg hst]
  split <;> rfl

/-- An attempt that no fault has ended runs. -/
theorem State.run_of_faultFree (h : s.faultFree = true) : ∃ r, s.run = some r ∧ r.fault = none := by
  unfold State.faultFree at h
  cases hr : s.run with
  | none => simp [hr] at h
  | some r => exact ⟨r, rfl, by simpa [hr] using h⟩

/-- A fault by a cluster: the attempt ends, and CLS_FAULT alone changes of its cluster. -/
theorem State.faultPour_faultsBy {source : Nat} {st : BitVec 16} (h : s.faultFree = true) (hst : st ≠ stPoisonConsumed)
    (pc : BitVec 19) :
    let t := s.faultPour g source st (BitVec.ofNat 18 pc.toNat) 0
    t.faultsBy g source st pc ∧ t.cl g = { s.cl g with fault := (t.cl g).fault } ∧ (∀ i, i ≠ g → t.cl i = s.cl i)
      ∧ t.mem = s.mem := by
  obtain ⟨r, hr, hf⟩ := State.run_of_faultFree h
  have hcl : ∀ i, (s.faultPour g source st (BitVec.ofNat 18 pc.toNat) 0).cl i = (s.updCl g fun c =>
      { c with fault := ⟨true, BitVec.ofNat 4 source, st, BitVec.ofNat 18 pc.toNat, 0⟩ }).cl i := by
    rw [State.faultPour_first hr hf hst]
    exact fun _ => rfl
  have hg := (hcl g).trans (State.cl_updCl_same ..)
  refine ⟨⟨?_, congrArg Cluster.fault hg⟩, ?_, fun i hne => ?_, ?_⟩
  · rw [State.faultPour_first hr hf hst]
    exact ⟨_, rfl, rfl⟩
  · rw [hg]
  · rw [hcl, State.cl_updCl, if_neg (Ne.symm hne)]
  · rw [State.faultPour_first hr hf hst]
    rfl

/-- An instruction whose body faults ends its attempt, and of its cluster changes CLS_FAULT alone. -/
theorem coreRun_faults {op : CoreOp} {body : CoreArgs → State → CoreOut} {st : BitVec 16} (h : s.runsWord g w)
    (hi : isIssueWord w = false) (hd : coreDecode w = some op) (hfree : s.faultFree = true) (hst : st ≠ stPoisonConsumed)
    (hbody : body ⟨g, (s.cl g).pc.toNat, w, 0⟩ (s.fetched g) = .fault (s.fetched g) st) :
    (coreRun g op body s).faultsBy g 5 st (s.cl g).pc
      ∧ (coreRun g op body s).cl g = { s.cl g with fault := ((coreRun g op body s).cl g).fault }
      ∧ (coreRun g op body s).mem = s.mem := by
  rw [coreRun_word body h hi hd, hbody]
  obtain ⟨hby, hcl, -, hmem⟩ := State.faultPour_faultsBy (s := s.fetched g) (g := g) (source := srcCore) hfree hst (s.cl g).pc
  rw [State.fetched_cl] at hcl
  exact ⟨hby, hcl, hmem⟩

end Sys2Proof.Machine
end

section
/-! SUPPORT. The integer group of the control core with ADDI and MOVK (Table 4-3): their words and their results. -/

namespace Sys2Proof.Machine

/-- A word of the integer group decodes by its FN. -/
theorem coreDecode_integer {w fn : Nat} {op : CoreOp} (ho : w / 2 ^ 26 = 0) (hfn : w % 2 ^ 11 = fn) (hop : intGroup fn = some op) :
    coreDecode w = some op := by
  have hfn' : fieldOf w 0 11 = fn := by rw [fieldOf_zero, hfn]
  unfold coreDecode
  rw [fieldOf_op ho (by decide), hfn', hop]
  rfl

/-- What a row of the integer group says of its command: each word of its FN retires with the row's function of xa and xb in xd. -/
def IntegerRow (x : (Fin 128 → Instr) × Nat × (Word64 → Word64 → Word64)) : Prop :=
  ∀ (g : Fin 128) (s : State) (w : Nat),
    s.runsWord g.val w → w / 2 ^ 26 = 0 → w % 2 ^ 11 = x.2.1 →
    ∃ t, exec (x.1 g) s = .next t
      ∧ s.retiresAs t g.val (((s.cl g.val).setReg (w / 2 ^ 21 % 32)
          (x.2.2 ((s.cl g.val).reg (w / 2 ^ 16 % 32)) ((s.cl g.val).reg (w / 2 ^ 11 % 32)))).retired ((s.cl g.val).pc.toNat + 4))

/-- A row holds where its command runs the operation that FN names, with the row's function as its body. -/
theorem integerRow {mk : Fin 128 → Instr} {fn : Nat} {f : Word64 → Word64 → Word64} {op : CoreOp} (hop : intGroup fn = some op)
    (hexec : ∀ g s, exec (mk g) s = .next (coreRun g.val op (aluBody f) s)) : IntegerRow (mk, fn, f) := by
  intro g s w hruns ho hfn
  exact ⟨_, hexec g s, coreRun_alu f g.isLt hruns (isIssueWord_of_op ho (by decide) (by decide)) (coreDecode_integer ho hfn hop)⟩

/-! ### Comparisons as Table 4-3 writes them -/

theorem divuBody_eq : divuBody = aluBody fun a b => if b = 0 then 0xFFFFFFFFFFFFFFFF else a / b := rfl

theorem sltBody_eq : sltBody = aluBody fun a b => if a.toInt < b.toInt then 1 else 0 := by
  simp only [sltBody, b2w, BitVec.slt, decide_eq_true_eq]

theorem sltuBody_eq : sltuBody = aluBody fun a b => if a.toNat < b.toNat then 1 else 0 := by
  simp only [sltuBody, b2w, BitVec.ult, decide_eq_true_eq]

/-- The lesser of two by signed value, which of equal ones does not matter. -/
theorem ite_slt_eq_ite_le {α : Type} (a b : Word64) (f : Word64 → α) :
    (if a.slt b then f a else f b) = if a.toInt ≤ b.toInt then f a else f b := by
  rcases Int.lt_trichotomy a.toInt b.toInt with h | h | h
  · rw [if_pos (by simpa [BitVec.slt] using h), if_pos (by omega)]
  · rw [BitVec.eq_of_toInt_eq h, ite_self, ite_self]
  · rw [if_neg (by simp [BitVec.slt]; omega), if_neg (by omega)]

theorem minBody_eq : minBody = aluBody fun a b => if a.toInt ≤ b.toInt then a else b :=
  congrArg aluBody (funext fun a => funext fun b => ite_slt_eq_ite_le a b id)

theorem maxBody_eq : maxBody = aluBody fun a b => if a.toInt ≤ b.toInt then b else a := by
  refine congrArg aluBody (funext fun a => funext fun b => ?_)
  rcases Int.lt_trichotomy a.toInt b.toInt with h | h | h
  · rw [if_pos (by simpa [BitVec.slt] using h), if_pos (by omega)]
  · rw [BitVec.eq_of_toInt_eq h, ite_self, ite_self]
  · rw [if_neg (by simp [BitVec.slt]; omega), if_neg (by omega)]

/-! ### MOVK -/

/-- Sixteen bits of a register replaced, the others kept. -/
theorem getLsbD_movk (old : Word64) (v k i : Nat) (hi : i < 64) :
    ((old &&& ~~~(0xFFFF#64 <<< (16 * k))) ||| (BitVec.ofNat 64 (v % 2 ^ 16) <<< (16 * k))).getLsbD i
      = if i / 16 = k then v.testBit (i % 16) else old.getLsbD i := by
  have hmask (j : Nat) : (0xFFFF#64).getLsbD j = decide (j < 16) := by
    rw [show (0xFFFF#64) = BitVec.ofNat 64 (2 ^ 16 - 1) from rfl, BitVec.getLsbD_ofNat, Nat.testBit_two_pow_sub_one]
    by_cases h : j < 16
    · simp [h, Nat.lt_trans h (by decide : 16 < 64)]
    · simp [h]
  simp only [BitVec.getLsbD_or, BitVec.getLsbD_and, BitVec.getLsbD_not, BitVec.getLsbD_shiftLeft, hmask, BitVec.getLsbD_ofNat,
    Nat.testBit_mod_two_pow, hi, decide_true, Bool.true_and]
  split
  · next h =>
    have hlow : ¬ i < 16 * k := by omega
    have hoff : i - 16 * k = i % 16 := by omega
    have hlt : i % 16 < 16 := Nat.mod_lt _ (by decide)
    simp [hlow, hoff, hlt, Nat.lt_trans hlt (by decide : 16 < 64)]
  · next h =>
    rcases Nat.lt_or_ge i (16 * k) with hlow | hhigh
    · simp [hlow]
    · have hout : ¬ i - 16 * k < 16 := by omega
      simp [hout]

end Sys2Proof.Machine

namespace Sys2Proof.Machine

/-- Settles O7: every row of the group is an instruction that makes one register of two, and ADDI and MOVK make one of one. -/
theorem integerResult : Obligations.IntegerResult := by
  unfold Obligations.IntegerResult
  refine ⟨?_, fun g s w hruns => ⟨fun ho => ?_, fun ho hres => ?_⟩⟩
  · change ∀ x ∈ integerTable, IntegerRow x
    simp only [integerTable, List.forall_mem_cons]
    exact ⟨integerRow (op := .add) rfl fun _ _ => rfl,
      integerRow (op := .sub) rfl fun _ _ => rfl,
      integerRow (op := .and) rfl fun _ _ => rfl,
      integerRow (op := .or) rfl fun _ _ => rfl,
      integerRow (op := .xor) rfl fun _ _ => rfl,
      integerRow (op := .shl) rfl fun _ _ => rfl,
      integerRow (op := .shr) rfl fun _ _ => rfl,
      integerRow (op := .sra) rfl fun _ _ => rfl,
      integerRow (op := .mul) rfl fun _ _ => rfl,
      integerRow (op := .mulhu) rfl fun _ _ => rfl,
      integerRow (op := .divu) rfl fun _ _ => divuBody_eq ▸ rfl,
      integerRow (op := .remu) rfl fun _ _ => rfl,
      integerRow (op := .slt) rfl fun _ _ => sltBody_eq ▸ rfl,
      integerRow (op := .sltu) rfl fun _ _ => sltuBody_eq ▸ rfl,
      integerRow (op := .min) rfl fun _ _ => minBody_eq ▸ rfl,
      integerRow (op := .max) rfl fun _ _ => maxBody_eq ▸ rfl,
      List.forall_mem_nil _⟩
  · have hd : coreDecode w = some .addi := by
      rw [coreDecode, fieldOf_op ho (by decide)]
      rfl
    refine ⟨_, rfl, coreRun_result g.isLt hruns (isIssueWord_of_op ho (by decide) (by decide)) hd ?_⟩
    rw [addiBody, State.fetched_cl, CoreArgs.simm, signedOf_eq_toInt]
    rfl
  · have hd : coreDecode w = some .movk := by
      rw [coreDecode, fieldOf_op ho (by decide)]
      exact whenClear_of_clear (and_mask_eq_zero (lo := 18) (n := 3) hres) _
    refine ⟨_, _, rfl, coreRun_result g.isLt hruns (isIssueWord_of_op ho (by decide) (by decide)) hd rfl, fun i hi => ?_⟩
    rw [State.fetched_cl, CoreArgs.imm, fieldOf_zero]
    exact getLsbD_movk _ w _ i hi

end Sys2Proof.Machine
end

section
/-! SUPPORT. The control core beyond its arithmetic: how loads, stores, transfers, tokens, summaries, hints, FENCE, HALT and ISSUE decode,
and what each body comes to (R74, R76, R77, R83 to R87, R339). -/

namespace Sys2Proof.Machine

variable {s u : State} {g w : Nat}

/-! ### Decoding by OP -/

/-- The instructions that their OP alone decides: no reserved bit and no further field. -/
def plainOp : Nat → Option CoreOp
  | 0x01 => some .addi
  | 0x08 => some .ld64
  | 0x09 => some .st64
  | 0x0A => some .ld32
  | 0x0B => some .st32
  | 0x10 => some .beq
  | 0x11 => some .bne
  | 0x12 => some .blt
  | 0x13 => some .bge
  | 0x14 => some .bltu
  | 0x15 => some .bgeu
  | 0x18 => some .jmp
  | 0x19 => some .call
  | _ => none

theorem coreDecode_plain {o : Nat} {op : CoreOp} (ho : w / 2 ^ 26 = o) (hop : plainOp o = some op) :
    coreDecode w = some op ∧ isIssueWord w = false := by
  have key (hlt : o < 64) (hne : o ≠ 0x30) (hd : ∀ v, fieldOf v 26 6 = o → coreDecode v = some op) :
      coreDecode w = some op ∧ isIssueWord w = false := ⟨hd w (fieldOf_op ho hlt), isIssueWord_of_op ho hlt hne⟩
  unfold plainOp at hop
  split at hop <;> cases hop
  all_goals exact key (by decide) (by decide) fun v hv => by rw [coreDecode, hv]; rfl

/-- An instruction whose reserved bits are those of a mask. -/
theorem coreDecode_masked {o m : Nat} {op : CoreOp} (ho : w / 2 ^ 26 = o) (hlt : o < 64) (hne : o ≠ 0x30) (hm : w &&& m = 0)
    (hd : fieldOf w 26 6 = o → coreDecode w = whenClear w m op) : coreDecode w = some op ∧ isIssueWord w = false :=
  ⟨(hd (fieldOf_op ho hlt)).trans (whenClear_of_clear hm op), isIssueWord_of_op ho hlt hne⟩

theorem coreDecode_jr (ho : w / 2 ^ 26 = 0x1A) (hlow : w % 2 ^ 16 = 0) (hxd : w / 2 ^ 21 % 32 = 0) :
    coreDecode w = some .jr ∧ isIssueWord w = false := by
  refine coreDecode_masked ho (by decide) (by decide) (m := (2 ^ 5 - 1) <<< 21 ||| (2 ^ 16 - 1) <<< 0)
    (and_or_mask_eq_zero (and_mask_eq_zero (n := 5) hxd) (and_mask_eq_zero ?_)) fun h => by rw [coreDecode, h]; rfl
  rw [Nat.pow_zero, Nat.div_one, hlow]

theorem coreDecode_waitt (ho : w / 2 ^ 26 = 0x20) (hhigh : w / 2 ^ 16 % 2 ^ 10 = 0) (hmid : w / 2 ^ 8 % 2 ^ 7 = 0) :
    coreDecode w = some .waitt ∧ isIssueWord w = false :=
  coreDecode_masked ho (by decide) (by decide) (m := (2 ^ 10 - 1) <<< 16 ||| (2 ^ 7 - 1) <<< 8)
    (and_or_mask_eq_zero (and_mask_eq_zero hhigh) (and_mask_eq_zero hmid)) fun h => by rw [coreDecode, h]; rfl

theorem coreDecode_sett (ho : w / 2 ^ 8 = 0x21 * 2 ^ 18) : coreDecode w = some .sett ∧ isIssueWord w = false :=
  coreDecode_masked (o := 0x21) (by omega) (by decide) (by decide) (and_mask_eq_zero (lo := 8) (n := 18) (by omega)) fun h => by
    rw [coreDecode, h]; rfl

theorem coreDecode_clrt (ho : w / 2 ^ 8 = 0x22 * 2 ^ 18) : coreDecode w = some .clrt ∧ isIssueWord w = false :=
  coreDecode_masked (o := 0x22) (by omega) (by decide) (by decide) (and_mask_eq_zero (lo := 8) (n := 18) (by omega)) fun h => by
    rw [coreDecode, h]; rfl

theorem coreDecode_sumrd (ho : w / 2 ^ 26 = 0x28) (hhigh : w / 2 ^ 12 % 2 ^ 9 = 0) (hlow : w / 2 ^ 3 % 2 ^ 5 = 0) :
    coreDecode w = some .sumrd ∧ isIssueWord w = false :=
  coreDecode_masked ho (by decide) (by decide) (m := (2 ^ 9 - 1) <<< 12 ||| (2 ^ 5 - 1) <<< 3)
    (and_or_mask_eq_zero (and_mask_eq_zero hhigh) (and_mask_eq_zero hlow)) fun h => by rw [coreDecode, h]; rfl

theorem coreDecode_phaseHint (ho : w / 2 ^ 13 = 0x32 * 2 ^ 13) (hlevel : w / 2 ^ 8 % 32 ≤ 16) :
    coreDecode w = some .phaseHint ∧ isIssueWord w = false :=
  coreDecode_masked (o := 0x32) (by omega) (by decide) (by decide) (and_mask_eq_zero (lo := 13) (n := 13) (by omega)) fun h => by
    rw [coreDecode, h]
    exact if_pos hlevel

theorem coreDecode_fence : coreDecode (0x3E * 2 ^ 26) = some .fence ∧ isIssueWord (0x3E * 2 ^ 26) = false := by decide

theorem coreDecode_halt : coreDecode (0x3F * 2 ^ 26) = some .halt ∧ isIssueWord (0x3F * 2 ^ 26) = false := by decide

/-- Word 0 of an ISSUE decodes as one. -/
theorem coreDecode_issue (h : issueWord w) : coreDecode w = some .issue ∧ isIssueWord w = true := by
  obtain ⟨ho, heng, hmid, hlow⟩ := h
  have hop : fieldOf w 26 6 = 0x30 := fieldOf_op ho (by decide)
  refine ⟨?_, decide_eq_true hop⟩
  rw [coreDecode, hop]
  refine (if_pos heng).trans (whenClear_of_clear (m := (2 ^ 2 - 1) <<< 21 ||| (2 ^ 5 - 1) <<< 0) ?_ _)
  refine and_or_mask_eq_zero (and_mask_eq_zero hmid) (and_mask_eq_zero ?_)
  rw [Nat.pow_zero, Nat.div_one, hlow]

/-! ### Scalar data memory -/

/-- Scalar data memory that reads clean is consumed as it stands. -/
theorem consumeScalar_clean {a n : Nat} {bs : List Byte} (h : (s.cl g).dmem.readsClean (.priv g) a n bs) :
    consumeScalar s g a n = (s.fetched g, .ok bs) := by
  unfold consumeScalar
  rw [show (s.cl g).dmem.readRange (.priv g) a n = _ from h]
  exact congrArg (·, _) (State.updCl_congr rfl)

/-- The address of a scalar access. -/
theorem CoreArgs.dataAddr_fetched (s : State) (g pc w w1 : Nat) :
    CoreArgs.dataAddr ⟨g, pc, w, w1⟩ (s.fetched g)
      = ((s.cl g).reg (w / 2 ^ 16 % 32) + (BitVec.ofNat 16 w).signExtend 64).toNat := by
  rw [CoreArgs.dataAddr, State.fetched_cl, CoreArgs.simm, signedOf_eq_toInt]
  rfl

theorem scalarOk_iff {a n : Nat} : scalarOk a n = true ↔ a % n = 0 ∧ a + n ≤ 0x10000 := by
  simp [scalarOk]

theorem scalarOk_eq_false {a n : Nat} (h : a % n ≠ 0 ∨ 0x10000 < a + n) : scalarOk a n = false := by
  rw [Bool.eq_false_iff, Ne, scalarOk_iff]
  omega

theorem loadBody_malformed {n pc w1 : Nat}
    (h : ((s.cl g).reg (w / 2 ^ 16 % 32) + (BitVec.ofNat 16 w).signExtend 64).toNat % n ≠ 0
      ∨ 0x10000 < ((s.cl g).reg (w / 2 ^ 16 % 32) + (BitVec.ofNat 16 w).signExtend 64).toNat + n) :
    loadBody n ⟨g, pc, w, w1⟩ (s.fetched g) = .fault (s.fetched g) stMalformed := by
  unfold loadBody
  dsimp only
  rw [CoreArgs.dataAddr_fetched, scalarOk_eq_false h]
  rfl

theorem storeBody_malformed {n pc w1 : Nat}
    (h : ((s.cl g).reg (w / 2 ^ 16 % 32) + (BitVec.ofNat 16 w).signExtend 64).toNat % n ≠ 0
      ∨ 0x10000 < ((s.cl g).reg (w / 2 ^ 16 % 32) + (BitVec.ofNat 16 w).signExtend 64).toNat + n) :
    storeBody n ⟨g, pc, w, w1⟩ (s.fetched g) = .fault (s.fetched g) stMalformed := by
  unfold storeBody
  dsimp only
  rw [CoreArgs.dataAddr_fetched, scalarOk_eq_false h]
  rfl

/-- A load of clean bytes retires with them in xd, lowest first. -/
theorem coreRun_load {op : CoreOp} {n a : Nat} {bs : List Byte} (hg : g < 128) (h : s.runsWord g w) (hi : isIssueWord w = false)
    (hd : coreDecode w = some op) (ha : ((s.cl g).reg (w / 2 ^ 16 % 32) + (BitVec.ofNat 16 w).signExtend 64).toNat = a)
    (hok : scalarOk a n = true) (hread : (s.cl g).dmem.readsClean (.priv g) a n bs) :
    s.retiresAs (coreRun g op (loadBody n) s) g
      (((s.cl g).setReg (w / 2 ^ 21 % 32) (BitVec.ofNat 64 (leNat bs))).retired ((s.cl g).pc.toNat + 4)) := by
  rw [← State.fetched_cl s g g] at hread
  refine coreRun_retires (u := ((s.fetched g).fetched g).updCl g fun c => c.setReg (w / 2 ^ 21 % 32) (BitVec.ofNat 64 (leNat bs)))
    hg h hi hd ?_ (((s.onlyCluster_fetch g).updCl id).updCl _) rfl (Cluster.sameStep_setReg ..)
  unfold loadBody
  rw [CoreArgs.dataAddr_fetched, ha]
  simp only [hok, if_true, consumeScalar_clean hread]
  rfl

/-- The i-th of a number's low bytes. -/
theorem leBytes_getD (n v i : Nat) (h : i < n) : (leBytes n v).getD i 0 = BitVec.ofNat 8 (v / 256 ^ i) := by
  induction n generalizing v i with
  | zero => omega
  | succ n ih =>
    cases i with
    | zero => rw [leBytes, List.getD_cons_zero, Nat.pow_zero, Nat.div_one]
    | succ i => rw [leBytes, List.getD_cons_succ, ih _ _ (by omega), Nat.div_div_eq_div_mul, Nat.pow_succ']

@[simp] theorem leBytes_length (n v : Nat) : (leBytes n v).length = n := by
  induction n generalizing v with
  | zero => rfl
  | succ n ih => rw [leBytes, List.length_cons, ih]

/-- A codeword of a cluster's memory whose check bits match reads as it is stored. -/
theorem Mem.readCw_priv {m : Mem} {c : Nat} (h : Tab.get 0 m.chk c = 0) (g : Nat) :
    m.readCw (.priv g) c = ⟨m.raw (32 * c) 32, false, false, m, []⟩ := by
  have hclass : classify (Tab.get 0 m.chk c) = .clean := by rw [h]; rfl
  have hhbm : isHbmCw (.priv g) c = false := rfl
  unfold Mem.readCw isMapCw
  simp only [hhbm, hclass, Bool.false_and, Bool.false_eq_true, if_false]

/-- A memory with the bytes of a codeword laid over themselves. -/
theorem Mem.byte_layRaw (m : Mem) (a n b : Nat) : (m.lay a (m.raw a n)).byte b = m.byte b := by
  rw [Mem.byte_lay, Mem.raw_length]
  split
  · next h =>
    rw [List.getD_eq_getElem?_getD, Mem.raw_getElem _ _ _ _ (by omega), Nat.add_sub_cancel' h.1]
    rfl
  · rfl

/-- A write within a part of one codeword of a cluster's memory, whose check bits match: its bytes are laid over the others of the
codeword, and nothing is noted (R377). -/
theorem Mem.writeRange_part {m : Mem} {a : Nat} {bs : List Byte} (g : Nat) (hn : 0 < bs.length) (hlt : bs.length < 32)
    (hin : a % 32 + bs.length ≤ 32) (hchk : Tab.get 0 m.chk (a / 32) = 0) :
    (m.writeRange (.priv g) a bs).2 = []
      ∧ ∀ b, (m.writeRange (.priv g) a bs).1.byte b = if a ≤ b ∧ b < a + bs.length then bs.getD (b - a) 0 else m.byte b := by
  have htail : (a + bs.length - 1) / 32 = a / 32 := by omega
  have hpart : partIn (a / 32) a bs = (a, bs) := by
    rw [partIn, if_neg (by omega), List.take_of_length_le (by omega)]
  have hwrite : m.writeRange (.priv g) a bs = m.writePart (.priv g) (a / 32) a bs := by
    unfold Mem.writeRange
    dsimp only
    rw [if_neg (by omega), if_pos (Or.inr ⟨htail.symm, hlt⟩), if_neg (by omega), if_neg (by omega), hpart, List.append_nil]
  have hmem : m.writePart (.priv g) (a / 32) a bs
      = (((m.lay (32 * (a / 32)) (m.raw (32 * (a / 32)) 32)).putCw (a / 32)
          (((m.lay (32 * (a / 32)) (m.raw (32 * (a / 32)) 32)).lay a bs).raw (32 * (a / 32)) 32) 0), []) := by
    simp [Mem.writePart, Mem.mergeWrite, Mem.mergeRead, Mem.merged, Mem.readCw_priv hchk, Mem.writeClean, isHbmCw]
  rw [hwrite, hmem]
  refine ⟨rfl, fun b => ?_⟩
  change (Mem.lay _ _ _).byte b = _
  rw [Mem.byte_lay, Mem.raw_length, Mem.byte_layRaw]
  by_cases hb : 32 * (a / 32) ≤ b ∧ b < 32 * (a / 32) + 32
  · rw [if_pos hb, List.getD_eq_getElem?_getD, Mem.raw_getElem _ _ _ _ (by omega), Option.getD_some, Mem.byte_lay,
      Mem.byte_layRaw, Nat.add_sub_cancel' hb.1]
  · rw [if_neg hb, if_neg (by omega)]

/-- A store of the low bytes of xd, within a codeword whose check bits match and on no line of an armed item: of its cluster the bytes and
the record of stored lines alone change, and the bytes elsewhere stay. -/
theorem coreRun_store {op : CoreOp} {n a : Nat} (hg : g < 128) (h : s.runsWord g w) (hi : isIssueWord w = false)
    (hd : coreDecode w = some op) (ha : ((s.cl g).reg (w / 2 ^ 16 % 32) + (BitVec.ofNat 16 w).signExtend 64).toNat = a)
    (hok : scalarOk a n = true) (hn : n ∣ 32) (hpos : 0 < n) (hlt : n < 32) (hchk : Tab.get 0 (s.cl g).dmem.chk (a / 32) = 0)
    (hlent : (s.cl g).storeLent a = false) :
    let t := coreRun g op (storeBody n) s
    s.retiresAs t g { (s.cl g).retired ((s.cl g).pc.toNat + 4) with dmem := (t.cl g).dmem, dirty := (t.cl g).dirty }
      ∧ ∀ b, (t.cl g).dmem.byte b =
          if a ≤ b ∧ b < a + n then BitVec.ofNat 8 (((s.cl g).reg (w / 2 ^ 21 % 32)).toNat / 256 ^ (b - a)) else (s.cl g).dmem.byte b := by
  intro t
  let bs := leBytes n ((s.cl g).reg (w / 2 ^ 21 % 32)).toNat
  have hlen : bs.length = n := leBytes_length _ _
  have hin : a % 32 + n ≤ 32 := by
    obtain ⟨k, hk⟩ := hn
    obtain ⟨j, hj⟩ := Nat.dvd_of_mod_eq_zero (scalarOk_iff.mp hok).1
    have hmod : a % 32 = n * (j % k) := by rw [hj, hk, Nat.mul_mod_mul_left]
    have hk0 : j % k < k := Nat.mod_lt _ (Nat.pos_of_ne_zero fun h0 => by rw [h0] at hk; omega)
    calc a % 32 + n = n * (j % k + 1) := by rw [hmod, Nat.mul_succ]
      _ ≤ n * k := Nat.mul_le_mul_left n hk0
      _ = 32 := hk.symm
  obtain ⟨hev, hbyte⟩ := Mem.writeRange_part (m := (s.cl g).dmem) (a := a) (bs := bs) g (by omega) (by omega) (by omega) hchk
  have hret := coreRun_retires (body := storeBody n) (next := (s.cl g).pc.toNat + 4)
    (u := (s.fetched g).updCl g fun c => { c with
      dmem := ((s.cl g).dmem.writeRange (.priv g) a bs).1
      dirty := if c.dirty.contains (a / 64 * 64) then c.dirty else a / 64 * 64 :: c.dirty })
    hg h hi hd ?_ ((s.onlyCluster_fetch g).updCl _) rfl ⟨rfl, rfl, rfl⟩
  · obtain ⟨⟨-, hcl, -⟩, -⟩ := id hret
    refine ⟨?_, fun b => ?_⟩
    · rw [show t.cl g = _ from hcl]
      exact hret
    · rw [show t.cl g = _ from hcl]
      refine (hbyte b).trans ?_
      rw [hlen]
      split
      · exact leBytes_getD _ _ _ (by omega)
      · rfl
  · unfold storeBody
    rw [CoreArgs.dataAddr_fetched, ha, State.fetched_cl]
    simp only [hok, hlent, Bool.not_true, Bool.or_false, Bool.false_eq_true, if_false]
    change CoreOut.retire (State.noteAll _ _ ((s.cl g).dmem.writeRange (.priv g) a bs).2) _ = _
    rw [hev]
    rfl

/-! ### Transfers -/

theorem State.isTarget_fetched (s : State) (g h t : Nat) : (s.fetched g).isTarget h t = s.isTarget h t := by
  unfold State.isTarget
  rw [State.fetched_cl]
  rfl

theorem CoreArgs.simm_eq (g pc w w1 : Nat) : (⟨g, pc, w, w1⟩ : CoreArgs).simm = (BitVec.ofNat 16 w).toInt := signedOf_eq_toInt 16 w

theorem CoreArgs.off26_eq (g pc w w1 : Nat) : (⟨g, pc, w, w1⟩ : CoreArgs).off26 = (BitVec.ofNat 26 w).toInt := signedOf_eq_toInt 26 w

/-- A transfer to where an instruction begins. -/
theorem CoreArgs.goTo_target {a : CoreArgs} {t : Int} (h0 : 0 ≤ t) (ht : s.isTarget a.g t.toNat = true) (link : Bool) :
    a.goTo t link (s.fetched a.g)
      = .retire (if link then (s.fetched a.g).updCl a.g fun c => c.setReg 31 (BitVec.ofNat 64 (a.pc + 4)) else s.fetched a.g) t.toNat :=
  if_pos ⟨h0, by rw [State.isTarget_fetched, ht]⟩

/-- A transfer to where none begins. -/
theorem CoreArgs.goTo_malformed {a : CoreArgs} {t : Int} (h : t < 0 ∨ s.isTarget a.g t.toNat = false) (link : Bool) :
    a.goTo t link (s.fetched a.g) = .fault (s.fetched a.g) stMalformed := by
  refine if_neg fun hc => ?_
  rw [State.isTarget_fetched] at hc
  obtain ⟨h0, ht⟩ := hc
  rcases h with h | h
  · omega
  · rw [h] at ht
    cases ht

/-- A conditional branch as the model runs it: its instruction, and its condition as a test. -/
structure BranchRow (x : (Fin 128 → Instr) × Nat × (Word64 → Word64 → Prop)) (op : CoreOp) (cond : Word64 → Word64 → Bool) : Prop where
  decode : plainOp x.2.1 = some op
  test   : ∀ d a, cond d a = true ↔ x.2.2 d a
  exec   : ∀ (g : Fin 128) (s : State), Machine.exec (x.1 g) s = .next (coreRun g.val op (branchBody cond) s)

theorem branchTable_rows : ∀ x ∈ branchTable, ∃ op cond, BranchRow x op cond := by
  simp only [branchTable, List.forall_mem_cons]
  refine ⟨⟨.beq, (· == ·), rfl, fun d a => ?_, fun _ _ => rfl⟩, ⟨.bne, (· != ·), rfl, fun d a => ?_, fun _ _ => rfl⟩,
    ⟨.blt, fun x y => x.slt y, rfl, fun d a => ?_, fun _ _ => rfl⟩, ⟨.bge, fun x y => !x.slt y, rfl, fun d a => ?_, fun _ _ => rfl⟩,
    ⟨.bltu, fun x y => x.ult y, rfl, fun d a => ?_, fun _ _ => rfl⟩,
    ⟨.bgeu, fun x y => !x.ult y, rfl, fun d a => ?_, fun _ _ => rfl⟩, List.forall_mem_nil _⟩
  · exact beq_iff_eq
  · exact bne_iff_ne
  · exact decide_eq_true_iff
  · simp [BitVec.slt]
  · exact decide_eq_true_iff
  · simp [BitVec.ult]

/-- A branch that is taken goes where its offset leads. -/
theorem branchBody_taken {cond : Word64 → Word64 → Bool} {pc w1 : Nat}
    (h : cond ((s.cl g).reg (w / 2 ^ 21 % 32)) ((s.cl g).reg (w / 2 ^ 16 % 32)) = true) :
    branchBody cond ⟨g, pc, w, w1⟩ (s.fetched g)
      = CoreArgs.goTo ⟨g, pc, w, w1⟩ (pc + 4 * (BitVec.ofNat 16 w).toInt) false (s.fetched g) := by
  unfold branchBody
  rw [State.fetched_cl, if_pos (by exact h), CoreArgs.simm_eq]

theorem branchBody_notTaken {cond : Word64 → Word64 → Bool} {pc w1 : Nat}
    (h : ¬cond ((s.cl g).reg (w / 2 ^ 21 % 32)) ((s.cl g).reg (w / 2 ^ 16 % 32)) = true) :
    branchBody cond ⟨g, pc, w, w1⟩ (s.fetched g) = .retire (s.fetched g) (pc + 4) := by
  unfold branchBody
  rw [State.fetched_cl, if_neg (by exact h)]

/-- An instruction that goes to where another begins, and changes nothing else. -/
theorem coreRun_goTo {op : CoreOp} {body : CoreArgs → State → CoreOut} {t : Int} (hg : g < 128) (h : s.runsWord g w)
    (hi : isIssueWord w = false) (hd : coreDecode w = some op) (h0 : 0 ≤ t) (ht : s.isTarget g t.toNat = true)
    (hbody : body ⟨g, (s.cl g).pc.toNat, w, 0⟩ (s.fetched g) = CoreArgs.goTo ⟨g, (s.cl g).pc.toNat, w, 0⟩ t false (s.fetched g)) :
    s.retiresAs (coreRun g op body s) g ((s.cl g).retired t.toNat) :=
  coreRun_retires hg h hi hd (hbody.trans (CoreArgs.goTo_target h0 ht false)) (s.onlyCluster_fetch g) rfl (Cluster.SameStep.refl _)

/-- An instruction that goes to where none begins faults the pour. -/
theorem coreRun_goTo_malformed {op : CoreOp} {body : CoreArgs → State → CoreOut} {t : Int} {link : Bool} (h : s.runsWord g w)
    (hi : isIssueWord w = false) (hd : coreDecode w = some op) (hfree : s.faultFree = true) (ht : t < 0 ∨ s.isTarget g t.toNat = false)
    (hbody : body ⟨g, (s.cl g).pc.toNat, w, 0⟩ (s.fetched g) = CoreArgs.goTo ⟨g, (s.cl g).pc.toNat, w, 0⟩ t link (s.fetched g)) :
    (coreRun g op body s).faultsBy g 5 0x0201 (s.cl g).pc ∧ ((coreRun g op body s).cl g).regs = (s.cl g).regs := by
  obtain ⟨hby, hcl, -⟩ := coreRun_faults (st := stMalformed) h hi hd hfree (by decide)
    (hbody.trans (CoreArgs.goTo_malformed (a := ⟨g, (s.cl g).pc.toNat, w, 0⟩) ht link))
  exact ⟨hby, by rw [hcl]⟩

end Sys2Proof.Machine

namespace Sys2Proof.Machine

/-- Settles O9: a load consumes clean bytes, and a store lies within one codeword. -/
theorem scalarAccessResult : Obligations.ScalarAccessResult := by
  unfold Obligations.ScalarAccessResult
  refine ⟨fun g s w bs hruns => ?_, fun g s w hruns => ?_⟩
  · have row {op : CoreOp} {o n : Nat} (hop : plainOp o = some op) (hw : w / 2 ^ 26 = o) :=
      fun halign hin hread => coreRun_load (op := op) (n := n) (bs := bs) g.isLt hruns (coreDecode_plain hw hop).2
        (coreDecode_plain hw hop).1 rfl (scalarOk_iff.mpr ⟨halign, hin⟩) hread
    simp only [List.forall_mem_cons]
    exact ⟨fun hw h1 h2 h3 => ⟨_, rfl, row rfl hw h1 h2 h3⟩, fun hw h1 h2 h3 => ⟨_, rfl, row rfl hw h1 h2 h3⟩, List.forall_mem_nil _⟩
  · have row {op : CoreOp} {o n : Nat} (hop : plainOp o = some op) (hn : n ∣ 32) (hpos : 0 < n) (hlt : n < 32) (hw : w / 2 ^ 26 = o) :=
      fun halign hin hchk hlent => coreRun_store (op := op) g.isLt hruns (coreDecode_plain hw hop).2
        (coreDecode_plain hw hop).1 rfl (scalarOk_iff.mpr ⟨halign, hin⟩) hn hpos hlt hchk hlent
    simp only [List.forall_mem_cons]
    exact ⟨fun hw h1 h2 h3 h4 => ⟨_, rfl, row rfl (by decide) (by decide) (by decide) hw h1 h2 h3 h4⟩,
      fun hw h1 h2 h3 h4 => ⟨_, rfl, row rfl (by decide) (by decide) (by decide) hw h1 h2 h3 h4⟩, List.forall_mem_nil _⟩

/-- Settles O10: what each body comes to where the access or the transfer is malformed is a fault, and a fault changes of its cluster
CLS_FAULT alone. -/
theorem malformedFaults : Obligations.MalformedFaults := by
  unfold Obligations.MalformedFaults
  refine ⟨fun g s w hruns => ?_, fun g s w hruns => ⟨?_, ?_⟩⟩
  · have row {op : CoreOp} {o : Nat} {body : CoreArgs → State → CoreOut} (hop : plainOp o = some op) (hw : w / 2 ^ 26 = o)
        (hfree : s.faultFree = true)
        (hbody : body ⟨g.val, (s.cl g.val).pc.toNat, w, 0⟩ (s.fetched g.val) = .fault (s.fetched g.val) stMalformed) :
        (coreRun g.val op body s).faultsBy g.val 5 0x0201 (s.cl g.val).pc
          ∧ ((coreRun g.val op body s).cl g.val).regs = (s.cl g.val).regs
          ∧ ((coreRun g.val op body s).cl g.val).dmem = (s.cl g.val).dmem ∧ (coreRun g.val op body s).mem = s.mem := by
      obtain ⟨hby, hcl, hmem⟩ := coreRun_faults hruns (coreDecode_plain hw hop).2 (coreDecode_plain hw hop).1 hfree (by decide) hbody
      exact ⟨hby, by rw [hcl], by rw [hcl], hmem⟩
    simp only [List.forall_mem_cons]
    exact ⟨fun hw hbad hfree => ⟨_, rfl, row rfl hw hfree (loadBody_malformed hbad)⟩, fun hw hbad hfree => ⟨_, rfl, row rfl hw hfree (loadBody_malformed hbad)⟩,
      fun hw hbad hfree => ⟨_, rfl, row rfl hw hfree (storeBody_malformed hbad)⟩, fun hw hbad hfree => ⟨_, rfl, row rfl hw hfree (storeBody_malformed hbad)⟩,
      List.forall_mem_nil _⟩
  · simp only [List.forall_mem_cons]
    refine ⟨fun hw hbad hfree => ⟨_, rfl, ?_⟩, fun hw hbad hfree => ⟨_, rfl, ?_⟩, List.forall_mem_nil _⟩
    · obtain ⟨hd, hi⟩ := coreDecode_plain hw (op := .jmp) rfl
      refine coreRun_goTo_malformed (link := false) hruns hi hd hfree hbad ?_
      rw [jmpBody, CoreArgs.off26_eq]
    · obtain ⟨hd, hi⟩ := coreDecode_plain hw (op := .call) rfl
      refine coreRun_goTo_malformed (link := true) hruns hi hd hfree hbad ?_
      rw [callBody, CoreArgs.off26_eq]
  · intro x hx hw hcond hbad hfree
    obtain ⟨op, cond, row⟩ := branchTable_rows x hx
    obtain ⟨hd, hi⟩ := coreDecode_plain hw row.decode
    exact ⟨_, row.exec g s, coreRun_goTo_malformed hruns hi hd hfree hbad (branchBody_taken ((row.test ..).mpr hcond))⟩

/-- Settles O11: a transfer goes where its address leads, if an instruction begins there. -/
theorem controlTransfer : Obligations.ControlTransfer := by
  unfold Obligations.ControlTransfer
  refine ⟨fun x hx g s w hruns hw => ?_, fun g s w hruns => ⟨fun hw h0 ht => ⟨_, rfl, ?_⟩, fun hw h0 ht => ⟨_, rfl, ?_⟩,
    fun hw hlow hxd ht => ⟨_, rfl, ?_⟩⟩⟩
  · obtain ⟨op, cond, row⟩ := branchTable_rows x hx
    obtain ⟨hd, hi⟩ := coreDecode_plain hw row.decode
    exact ⟨fun hcond h0 ht => ⟨_, row.exec g s,
        coreRun_goTo g.isLt hruns hi hd h0 ht (branchBody_taken ((row.test ..).mpr hcond))⟩,
      fun hcond => ⟨_, row.exec g s, coreRun_retires g.isLt hruns hi hd
        (branchBody_notTaken fun h => hcond ((row.test ..).mp h)) (s.onlyCluster_fetch _) rfl (Cluster.SameStep.refl _)⟩⟩
  · obtain ⟨hd, hi⟩ := coreDecode_plain hw (op := .jmp) rfl
    refine coreRun_goTo g.isLt hruns hi hd h0 ht ?_
    rw [jmpBody, CoreArgs.off26_eq]
  · obtain ⟨hd, hi⟩ := coreDecode_plain hw (op := .call) rfl
    refine coreRun_retires g.isLt hruns hi hd ?_
      ((s.onlyCluster_fetch g.val).updCl fun c => c.setReg 31 (BitVec.ofNat 64 ((s.cl g.val).pc.toNat + 4))) rfl
      (Cluster.sameStep_setReg ..)
    rw [callBody, CoreArgs.off26_eq]
    exact CoreArgs.goTo_target (a := ⟨g.val, (s.cl g.val).pc.toNat, w, 0⟩) h0 ht true
  · obtain ⟨hd, hi⟩ := coreDecode_jr hw hlow hxd
    refine coreRun_goTo (t := (((s.cl g.val).reg (w / 2 ^ 16 % 32)).toNat : Int)) g.isLt hruns hi hd (Int.natCast_nonneg _) ht ?_
    rw [jrBody, State.fetched_cl]
    rfl

end Sys2Proof.Machine
end

section
/-! SUPPORT. Tokens, summaries, hints, FENCE, HALT and stalls of the control core (R76, R77, R86, R87, R159, R339). -/

namespace Sys2Proof.Machine

variable {s u : State} {g w : Nat}

/-! ### Tokens -/

theorem CoreArgs.token_eq (g pc w w1 : Nat) : (⟨g, pc, w, w1⟩ : CoreArgs).token = w % 256 := fieldOf_zero w 8

/-- Whether a head is ready does not hang on the fetch. -/
theorem State.headReady_fetched (s : State) (g h : Nat) (e : Engine) : (s.fetched g).headReady h e = s.headReady h e := by
  unfold State.headReady State.hasRoom
  simp only [State.fetched_cl]
  rfl

theorem Cluster.sameStep_latchPut (c : Cluster) (k : Nat) (b : Bool) : c.SameStep (c.latchGuards.putToken k b) := ⟨rfl, rfl, rfl⟩

/-- WAITT on a set token goes on where it does not clear it. -/
theorem waittBody_goesOn {pc w1 : Nat} (hset : (u.cl g).token (w % 256) = true) (hkeep : w.testBit 15 = false) :
    waittBody ⟨g, pc, w, w1⟩ u = .retire u (pc + 4) := by
  unfold waittBody
  simp only [CoreArgs.token_eq, hset, hkeep, if_true, Bool.false_eq_true, if_false]

/-- WAITT on a set token clears it, where no ready head consumes it in the same cycle. -/
theorem waittBody_clears {pc w1 : Nat} (hset : (s.cl g).token (w % 256) = true) (hclear : w.testBit 15 = true)
    (hnone : ∀ e ∈ Engine.all, s.headReady g e = true → ∀ q, (s.cl g).head e = some q → w % 256 ∉ q.consumes) :
    waittBody ⟨g, pc, w, w1⟩ (s.fetched g)
      = .retire ((s.fetched g).updCl g fun c => c.latchGuards.putToken (w % 256) false) (pc + 4) := by
  have hfind : (Engine.all.find? fun e => s.headReady g e
      && (((s.cl g).head e).map fun h => h.consumes.contains (w % 256)).getD false) = none := by
    rw [List.find?_eq_none]
    intro e he hbad
    obtain ⟨hready, htakes⟩ := Bool.and_eq_true_iff.mp hbad
    cases hq : (s.cl g).head e with
    | none => simp [hq] at htakes
    | some q => exact hnone e he hready q hq (by simpa [hq] using htakes)
  unfold waittBody
  simp only [State.fetched_cl, CoreArgs.token_eq, State.headReady_fetched, hset, hclear, if_true, hfind]

theorem waittBody_stalls {pc w1 : Nat} (hclear : (u.cl g).token (w % 256) = false) :
    waittBody ⟨g, pc, w, w1⟩ u = .stall u (.token (w % 256)) := by
  unfold waittBody
  simp only [CoreArgs.token_eq, hclear, Bool.false_eq_true, if_false]

theorem settBody_eq (pc w1 : Nat) : settBody ⟨g, pc, w, w1⟩ (s.fetched g)
    = if (s.cl g).token (w % 256) then .fault (s.fetched g) stSlotCollision
      else .retire ((s.fetched g).updCl g fun c => c.putToken (w % 256) true) (pc + 4) := by
  unfold settBody
  simp only [State.fetched_cl, CoreArgs.token_eq]

theorem clrtBody_eq (pc w1 : Nat) : clrtBody ⟨g, pc, w, w1⟩ (s.fetched g)
    = if (s.cl g).token (w % 256) then
        .retire ((s.fetched g).updCl g fun c => c.latchGuards.putToken (w % 256) false) (pc + 4)
      else .fault (s.fetched g) stSlotCollision := by
  unfold clrtBody
  simp only [State.fetched_cl, CoreArgs.token_eq]

/-! ### Summaries, hints and FENCE -/

/-- SUMRD gives the word of a valid slot, and waits for a slot that is not. -/
theorem sumrdBody_eq (pc w1 : Nat) : sumrdBody ⟨g, pc, w, w1⟩ (s.fetched g)
    = if ((s.cl g).slot (w / 2 ^ 8 % 16)).valid then
        CoreArgs.result ⟨g, pc, w, w1⟩ (((s.cl g).slot (w / 2 ^ 8 % 16)).words.getD (w % 8) 0) (s.fetched g)
      else .stall (s.fetched g) (.slot (w / 2 ^ 8 % 16)) := by
  unfold sumrdBody
  simp only [State.fetched_cl, fieldOf_zero]
  rfl

theorem fenceBody_eq (pc w1 : Nat) : fenceBody ⟨g, pc, w, w1⟩ (s.fetched g)
    = if (s.cl g).drained then .retire (s.fetched g) (pc + 4) else .stall (s.fetched g) .drained := by
  unfold fenceBody
  simp only [State.fetched_cl]

theorem Cluster.drained_of_empty {c : Cluster} (hq : ∀ e ∈ Engine.all, c.queue e = []) (hf : c.flights = []) : c.drained = true := by
  unfold Cluster.drained
  rw [hf, Bool.and_eq_true, List.all_eq_true]
  exact ⟨fun e he => by rw [hq e he]; rfl, rfl⟩

/-! ### HALT -/

/-- A core that has halted ends its part where nothing is queued, in flight or armed. -/
theorem Cluster.settle_halted (c : Cluster) :
    { c with run := .halted }.settle
      = { c with run := if c.drained && c.lending.items.all (·.finished) then .ended else .halted } := by
  unfold Cluster.settle Cluster.drained
  by_cases h : Engine.all.all (fun e => (c.queue e).isEmpty) = true ∧ c.flights.isEmpty = true ∧ c.lending.items.all (·.finished) = true
  · obtain ⟨hq, hf, hi⟩ := h
    rw [if_pos ⟨rfl, hq, hf, hi⟩, hq, hf, hi]
    rfl
  · rw [if_neg fun hc => h ⟨hc.2.1, hc.2.2.1, hc.2.2.2⟩, if_neg]
    intro hc
    obtain ⟨hqf, hi⟩ := Bool.and_eq_true_iff.mp hc
    obtain ⟨hq, hf⟩ := Bool.and_eq_true_iff.mp hqf
    exact h ⟨hq, hf, hi⟩

/-- A retirement that makes any change of its own cluster, if the cycle count stays and the instruction is the last retired. -/
theorem State.retiresAs_of_update (s : State) (hg : g < 128) (F : Cluster → Cluster) (hcycle : (F (s.cl g)).cycle = (s.cl g).cycle)
    (hlast : (F (s.cl g)).lastPc = some (s.cl g).pc.toNat) :
    s.retiresAs (((s.updCl g F).updSampler g fun m => m.retired (s.cl g).pc.toNat).count (ctrCluster g 14) 1) g (F (s.cl g)) := by
  refine ⟨⟨rfl, ?_, fun h hne => ?_⟩, fun o => ?_, rfl, fun h => ?_⟩
  · rw [State.cl_count, State.cl_updSampler, State.cl_updCl_same]
  · rw [State.cl_count, State.cl_updSampler, State.cl_updCl, if_neg (Ne.symm hne)]
  · rw [State.ctr_count, State.ctr_updSampler, State.updCl_cnt]
    by_cases ho : o = ctrCluster g 14
    · rw [if_pos ho, if_pos ho.symm, ho]
    · rw [if_neg ho, if_neg (Ne.symm ho)]
  · rw [State.samp_count _ _ _ hg (by decide), State.samp_updSampler, State.samp_updSampler, State.ctr_updSampler,
      State.cl_updSampler, State.cl_updCl_same, State.updCl_cnt, if_pos rfl, hcycle, hlast]
    by_cases hh : h = g
    · rw [if_pos hh, if_pos hh]
      rfl
    · rw [if_neg hh, if_neg hh, if_neg (Ne.symm hh)]

/-- HALT stops the core, and where nothing is left to do its part ends. -/
theorem coreRun_halt (hg : g < 128) (h : s.runsWord g w) (hi : isIssueWord w = false) (hd : coreDecode w = some .halt) :
    s.retiresAs (coreRun g .halt haltBody s) g
      ({ s.cl g with run := if (s.cl g).drained && (s.cl g).lending.items.all (·.finished) then .ended else .halted }.retired
        ((s.cl g).pc.toNat + 4)) := by
  generalize hudef : ((s.fetched g).updCl g fun c => { c with run := .halted }) = u
  have hu : s.onlyCluster u g { s.cl g with run := .halted } := hudef ▸ (s.onlyCluster_fetch g).updCl _
  have hpc : (u.cl g).pc = (s.cl g).pc := by rw [hu.2.1]
  have hF (c : Cluster) : (c.retired ((s.cl g).pc.toNat + 4)).settle.cycle = c.cycle
      ∧ (c.retired ((s.cl g).pc.toNat + 4)).settle.lastPc = some c.pc.toNat := by
    unfold Cluster.settle
    split <;> exact ⟨rfl, rfl⟩
  have hret := (u.retiresAs_of_update hg (fun c => (c.retired ((s.cl g).pc.toNat + 4)).settle) (hF _).1 (hF _).2).of_onlyCluster
    hu (by rw [← hudef]; rfl) rfl rfl
  have hended : (Cluster.retired { s.cl g with run := .halted } ((s.cl g).pc.toNat + 4)).settle
      = Cluster.retired { s.cl g with run := if (s.cl g).drained && (s.cl g).lending.items.all (·.finished) then .ended else .halted }
        ((s.cl g).pc.toNat + 4) := Cluster.settle_halted ((s.cl g).retired ((s.cl g).pc.toNat + 4))
  rw [hpc, hu.2.1, hended] at hret
  have happly : (CoreOut.retire u ((s.cl g).pc.toNat + 4)).apply g (s.cl g).pc.toNat
      = ((u.updCl g fun c => (c.retired ((s.cl g).pc.toNat + 4)).settle).updSampler g fun m => m.retired (s.cl g).pc.toNat).count
        (ctrCluster g 14) 1 :=
    congrArg (fun t : State => (t.updSampler g fun m => m.retired (s.cl g).pc.toNat).count (ctrCluster g 14) 1)
      (State.updCl_congr (by rw [← hpc]; rfl))
  rw [coreRun_word haltBody h hi hd, haltBody, hudef, happly]
  exact hret

/-! ### The end of a stall -/

/-- The words of an instruction whose code reads clean. -/
theorem stalledArgs_word {pc : Nat} (h : (s.cl g).wordAt g pc w) (hi : isIssueWord w = false) : stalledArgs g pc s = ⟨g, pc, w, 0⟩ := by
  obtain ⟨-, hw, hread⟩ := h
  have hnum : leNat ((s.cl g).imem.readRange (.priv g) pc 4).data = w := by
    rw [show (s.cl g).imem.readRange (.priv g) pc 4 = _ from hread]
    exact (leNat_leBytes 4 w).trans (Nat.mod_eq_of_lt hw)
  unfold stalledArgs
  simp only [hnum, hi, Bool.false_eq_true, if_false]

section
variable {op : CoreOp} (hruns : s.attemptRuns g = true) (hrun : (s.cl g).run = .running) (hstall : (s.cl g).stall.isSome = true)
  (h : (s.cl g).wordAt g (s.cl g).pc.toNat w) (hi : isIssueWord w = false) (hd : coreDecode w = some op)
include hruns hrun hstall h hi hd

/-- A stalled instruction is tried again by the rule of one that has not stalled: it goes on … -/
theorem coreRetry_retires {u : State} {next : Nat} (hbody : coreBody op ⟨g, (s.cl g).pc.toNat, w, 0⟩ s = .retire u next) :
    coreRetry g s = (CoreOut.retire u next).apply g (s.cl g).pc.toNat := by
  unfold coreRetry
  rw [stalledArgs_word h hi]
  simp only [hruns, hrun, hstall, hd, hbody, decide_true, Bool.and_self, if_true]

/-- … or stalls again. -/
theorem coreRetry_stalls {u : State} {why : Stall} (hbody : coreBody op ⟨g, (s.cl g).pc.toNat, w, 0⟩ s = .stall u why) :
    coreRetry g s = s.updCl g fun c => { c with stall := some why } := by
  unfold coreRetry
  rw [stalledArgs_word h hi]
  simp only [hruns, hrun, hstall, hd, hbody, decide_true, Bool.and_self, if_true]

end

/-- CORE_STALL_END of a WAITT that clears no token. -/
theorem coreRetry_waitt {k : Nat} (hk : k < 256) (hruns : s.attemptRuns g = true) (hrun : (s.cl g).run = .running)
    (hstall : (s.cl g).stall = some (.token k)) (h : (s.cl g).wordAt g (s.cl g).pc.toNat (0x20 * 2 ^ 26 + k)) :
    coreRetry g s = if (s.cl g).token k then (CoreOut.retire s ((s.cl g).pc.toNat + 4)).apply g (s.cl g).pc.toNat
      else s.updCl g fun c => { c with stall := some (.token k) } := by
  obtain ⟨hd, hi⟩ := coreDecode_waitt (w := 0x20 * 2 ^ 26 + k) (by omega) (by omega) (by omega)
  have hkeep : (0x20 * 2 ^ 26 + k).testBit 15 = false := by
    rw [Bool.eq_false_iff, Ne, testBit_iff_div]
    omega
  have hstalled : (s.cl g).stall.isSome = true := by rw [hstall]; rfl
  have hmod : (0x20 * 2 ^ 26 + k) % 256 = k := by omega
  cases hset : (s.cl g).token k with
  | true => exact coreRetry_retires hruns hrun hstalled h hi hd (waittBody_goesOn (by rw [hmod, hset]) hkeep)
  | false => exact (coreRetry_stalls hruns hrun hstalled h hi hd (waittBody_stalls (by rw [hmod, hset]))).trans (by rw [hmod]; rfl)

end Sys2Proof.Machine

namespace Sys2Proof.Machine

/-- Settles O12: each of the three goes by its token as it stands. -/
theorem tokenInstructions : Obligations.TokenInstructions := by
  unfold Obligations.TokenInstructions
  refine ⟨fun g s w hruns => ⟨fun hw hk hset => ⟨_, rfl, ?_⟩, fun hw hk hset hnone => ⟨_, rfl, ?_⟩, fun hw hclear => ⟨_, rfl, ?_⟩,
      fun hw hset => ⟨_, rfl, ?_⟩⟩,
    fun g s w hruns => ⟨fun hw hset hfree => ⟨_, rfl, ?_⟩, fun hw hclear hfree => ⟨_, rfl, ?_⟩⟩⟩
  · obtain ⟨hd, hi⟩ := coreDecode_waitt (w := w) (by omega) (by omega) (by omega)
    have hkeep : w.testBit 15 = false := by
      rw [Bool.eq_false_iff, Ne, testBit_iff_div]
      omega
    exact coreRun_retires g.isLt hruns hi hd (waittBody_goesOn (by rw [State.fetched_cl, hset]) hkeep) (s.onlyCluster_fetch _) rfl (Cluster.SameStep.refl _)
  · obtain ⟨hd, hi⟩ := coreDecode_waitt (w := w) (by omega) (by omega) (by omega)
    exact coreRun_retires g.isLt hruns hi hd (waittBody_clears hset ((testBit_iff_div ..).mpr (by omega)) hnone)
      ((s.onlyCluster_fetch _).updCl _) rfl (Cluster.sameStep_latchPut ..)
  · obtain ⟨hd, hi⟩ := coreDecode_sett hw
    exact coreRun_retires g.isLt hruns hi hd ((settBody_eq ..).trans (if_neg (by simpa using hclear)))
      ((s.onlyCluster_fetch _).updCl _) rfl ⟨rfl, rfl, rfl⟩
  · obtain ⟨hd, hi⟩ := coreDecode_clrt hw
    exact coreRun_retires g.isLt hruns hi hd ((clrtBody_eq ..).trans (if_pos hset)) ((s.onlyCluster_fetch _).updCl _) rfl
      (Cluster.sameStep_latchPut ..)
  · obtain ⟨hd, hi⟩ := coreDecode_sett hw
    obtain ⟨hby, hcl, -⟩ := coreRun_faults hruns hi hd hfree (by decide) ((settBody_eq ..).trans (if_pos hset))
    exact ⟨hby, by rw [hcl]⟩
  · obtain ⟨hd, hi⟩ := coreDecode_clrt hw
    obtain ⟨hby, hcl, -⟩ := coreRun_faults hruns hi hd hfree (by decide) ((clrtBody_eq ..).trans (if_neg (by simpa using hclear)))
    exact ⟨hby, by rw [hcl]⟩

/-- Settles O13: a valid slot, the latched hint, the drained cluster and the halted core. -/
theorem summaryHintFenceHalt : Obligations.SummaryHintFenceHalt := by
  unfold Obligations.SummaryHintFenceHalt
  intro g s w hruns
  refine ⟨fun hw hhigh hlow hvalid => ⟨_, rfl, ?_⟩, fun hw hlevel => ⟨_, rfl, ?_⟩, fun hw hq hf => ⟨_, rfl, ?_⟩,
    fun hw => ⟨_, rfl, ?_⟩⟩
  · obtain ⟨hd, hi⟩ := coreDecode_sumrd hw hhigh hlow
    exact coreRun_result g.isLt hruns hi hd ((sumrdBody_eq ..).trans (if_pos hvalid))
  · obtain ⟨hd, hi⟩ := coreDecode_phaseHint hw hlevel
    refine coreRun_retires g.isLt hruns hi hd ?_
      ((s.onlyCluster_fetch g.val).updCl fun c => { c with gate := { c.gate with newHint := some (w / 2 ^ 8 % 32, w % 256) } }) rfl
      ⟨rfl, rfl, rfl⟩
    unfold phaseHintBody
    rw [fieldOf_zero]
    rfl
  · subst hw
    obtain ⟨hd, hi⟩ := coreDecode_fence
    exact coreRun_retires g.isLt hruns hi hd ((fenceBody_eq ..).trans (if_pos (Cluster.drained_of_empty hq hf)))
      (s.onlyCluster_fetch _) rfl (Cluster.SameStep.refl _)
  · subst hw
    exact coreRun_halt g.isLt hruns coreDecode_halt.2 coreDecode_halt.1

end Sys2Proof.Machine
end

section
/-! SUPPORT. ISSUE: the fetch of its two words, what it waits for, and the entry it makes of clean scalar data memory
(R74, R85, R86, Table 4-4). -/

namespace Sys2Proof.Machine

variable {s u : State} {g w w1 : Nat}

/-- The core runs the body of the ISSUE at its program counter, on the state that the fetch of its two words leaves. -/
theorem coreRun_issue (body : CoreArgs → State → CoreOut) (h : s.runsWord g w) (hw : issueWord w)
    (h1 : (s.cl g).wordAt g ((s.cl g).pc.toNat + 4) w1) :
    coreRun g .issue body s
      = (body ⟨g, (s.cl g).pc.toNat, w, w1⟩ ((s.fetched g).fetched g)).apply g (s.cl g).pc.toNat := by
  obtain ⟨hd, hi⟩ := coreDecode_issue hw
  obtain ⟨hready, hlen, hlt, hread⟩ := h
  obtain ⟨-, hlt1, hread1⟩ := h1
  have hnum : leNat (leBytes 4 w) = w := (leNat_leBytes 4 w).trans (Nat.mod_eq_of_lt hlt)
  have hnum1 : leNat (leBytes 4 w1) = w1 := (leNat_leBytes 4 w1).trans (Nat.mod_eq_of_lt hlt1)
  replace hread1 : ((s.fetched g).cl g).imem.readsClean (.priv g) ((s.cl g).pc.toNat + 4) 4 (leBytes 4 w1) := by
    rw [State.fetched_cl]
    exact hread1
  have hfetch : coreFetch g (s.cl g).pc.toNat s = ((s.fetched g).fetched g, .ok ⟨g, (s.cl g).pc.toNat, w, w1⟩) := by
    unfold coreFetch
    rw [if_neg (by omega), consumeCode_clean hread]
    simp only [hnum, hi, if_true, consumeCode_clean hread1, hnum1]
  unfold coreRun
  simp only [hready, if_true, hfetch, hd]

/-- What ISSUE does where its record's address is well formed (R74): it waits for its summary slot, then for room, and then makes its
entry. -/
theorem coreRun_issue_stalls {why : Stall} (h : s.runsWord g w) (hw : issueWord w)
    (h1 : (s.cl g).wordAt g ((s.cl g).pc.toNat + 4) w1)
    (hbody : issueBody ⟨g, (s.cl g).pc.toNat, w, w1⟩ ((s.fetched g).fetched g) = .stall ((s.fetched g).fetched g) why) :
    s.onlyCluster (coreRun g .issue issueBody s) g { s.cl g with stall := some why } ∧ (coreRun g .issue issueBody s).cnt = s.cnt := by
  rw [coreRun_issue issueBody h hw h1, hbody]
  exact ⟨((s.onlyCluster_fetch g).updCl id).updCl _, rfl⟩

theorem lineOk_of_aligned {a : Nat} (ha : a % 64 = 0) (hlt : a < 0x10000) : lineOk a = true := by
  simp only [lineOk, Bool.and_eq_true, decide_eq_true_eq]
  omega

end Sys2Proof.Machine
end

section
/-! SUPPORT. What ISSUE copies out of clean scalar data memory, and the entry it makes (R74, R85, R86). -/

namespace Sys2Proof.Machine

variable {s t u : State} {g w w1 : Nat}

/-! ### Clean memory read and written back -/

/-- The state `u` is `s` with memory of cluster `g` read and written back as it was. -/
structure State.Rereads (s u : State) (g : Nat) : Prop where
  only : s.onlyCluster u g (s.cl g)
  cnt  : u.cnt = s.cnt

theorem State.Rereads.refl (s : State) (g : Nat) : s.Rereads s g := ⟨s.onlyCluster_refl g, rfl⟩

theorem State.Rereads.fetch (h : s.Rereads u g) : s.Rereads (u.fetched g) g := ⟨h.only.updCl id, h.cnt⟩

theorem State.Rereads.cl (h : s.Rereads u g) : u.cl g = s.cl g := h.only.2.1

theorem State.Rereads.trans (h : s.Rereads u g) (h' : u.Rereads t g) : s.Rereads t g := by
  obtain ⟨⟨hrest, hc, hothers⟩, hcnt⟩ := h
  obtain ⟨⟨hrest', hc', hothers'⟩, hcnt'⟩ := h'
  refine ⟨⟨?_, hc'.trans hc, fun i hne => (hothers' i hne).trans (hothers i hne)⟩, hcnt'.trans hcnt⟩
  exact hrest'.trans (congrArg (fun y : State => { y with clusters := t.clusters, cnt := t.cnt }) hrest)

/-- A cluster's memory with no check-bit difference reads as it is stored. -/
theorem Mem.readsClean_of_chk_nil {m : Mem} (h : m.chk = []) (g a n : Nat) : m.readsClean (.priv g) a n (m.raw a n) := by
  have hsus (c k : Nat) : m.suspects (.priv g) c k = [] := by
    unfold Mem.suspects
    rw [h]
    rfl
  unfold Mem.readsClean Mem.readRange
  simp only [hsus]

theorem consumeScalar_chk_nil (h : (s.cl g).dmem.chk = []) (a n : Nat) :
    consumeScalar s g a n = (s.fetched g, .ok ((s.cl g).dmem.raw a n)) := consumeScalar_clean (Mem.readsClean_of_chk_nil h g a n)

/-! ### The copy of R74 -/

theorem copyLine_chk_nil (h : (s.cl g).dmem.chk = []) (a : Nat) (acc : List (Nat × BitVec 512)) :
    ∃ u acc', copyLine g a acc s = (u, .ok acc') ∧ s.Rereads u g := by
  unfold copyLine
  split
  · exact ⟨_, _, rfl, State.Rereads.refl s g⟩
  · rw [consumeScalar_chk_nil h]
    exact ⟨_, _, rfl, (State.Rereads.refl s g).fetch⟩

theorem copyDescs_chk_nil (h : (s.cl g).dmem.chk = []) (as : List Nat) (acc : List (Nat × BitVec 512)) :
    ∃ u acc', copyDescs g as acc s = (u, .ok acc') ∧ s.Rereads u g := by
  induction as generalizing s acc with
  | nil => exact ⟨_, _, rfl, State.Rereads.refl s g⟩
  | cons a as ih =>
    obtain ⟨u, acc1, hfirst, hu⟩ := copyLine_chk_nil h a acc
    have hsecond : ∃ v acc2, (if acc1.any (fun l => l.1 = a && l.2.toNat.testBit 55) then copyLine g (a + 64) acc1 u
        else (u, .ok acc1)) = (v, .ok acc2) ∧ s.Rereads v g := by
      split
      · obtain ⟨v, acc2, hv, hr⟩ := copyLine_chk_nil (s := u) (by rw [hu.cl, h]) (a + 64) acc1
        exact ⟨v, acc2, hv, hu.trans hr⟩
      · exact ⟨u, acc1, rfl, hu⟩
    obtain ⟨v, acc2, hv, hr⟩ := hsecond
    obtain ⟨t, acc3, ht, hr'⟩ := ih (s := v) (by rw [hr.cl, h]) acc2
    refine ⟨t, acc3, ?_, hr.trans hr'⟩
    rw [copyDescs, hfirst]
    dsimp only
    rw [hv]
    exact ht

theorem copyLines_chk_nil (h : (s.cl g).dmem.chk = []) (eng : Engine) (rec_ : Nat) :
    ∃ u lines, copyLines g eng rec_ s = (u, .ok lines) ∧ s.Rereads u g := by
  obtain ⟨u, acc, hdescs, hu⟩ := copyDescs_chk_nil h (recDescs eng rec_) []
  unfold copyLines
  rw [hdescs]
  dsimp only
  cases blockAddr (u.cl g) eng rec_ with
  | none => exact ⟨u, acc, rfl, hu⟩
  | some b =>
    obtain ⟨v, acc1, hblock, hv⟩ := copyLine_chk_nil (s := u) (by rw [hu.cl, h]) b acc
    dsimp only
    rw [hblock]
    dsimp only
    obtain ⟨t, acc2, hnamed, ht⟩ := copyDescs_chk_nil (s := v) (by rw [hv.cl, hu.cl, h])
      (((parseBlock (lineIn acc1 b).toNat).ins ++ (parseBlock (lineIn acc1 b).toNat).outs).filter (· != 0)) acc1
    exact ⟨t, acc2, hnamed, (hu.trans hv).trans ht⟩

/-- A record in clean scalar data memory always makes an entry, and reading it changes nothing. -/
theorem makeEntry_chk_nil (h : (s.cl g).dmem.chk = []) (p : Pattern) (eng : Engine) (d : Bool) (pc addr : Nat) (seed : Nat → Word64) :
    ∃ u q, makeEntry p g eng d pc addr seed s = (u, .ok q) ∧ s.Rereads u g ∧ q.pc = pc ∧ q.addr = addr
      ∧ q.record = BitVec.ofNat 512 (leNat ((s.cl g).dmem.raw addr 64)) := by
  obtain ⟨u, lines, hlines, hu⟩ := copyLines_chk_nil (s := s.fetched g) (g := g) (by rw [State.fetched_cl, h]) eng
    (leNat ((s.cl g).dmem.raw addr 64))
  unfold makeEntry
  rw [consumeScalar_chk_nil h]
  dsimp only
  rw [hlines]
  exact ⟨u, _, rfl, (State.Rereads.refl s g).fetch.trans hu, rfl, rfl, rfl⟩

/-! ### The queue -/

/-- What the entry leaves of its cluster outside a lending period: its queue has grown, its slot is no longer valid. -/
theorem Cluster.enqueue_eq {c : Cluster} (h : c.lending.active = false) (eng : Engine) (q : QEntry) (pr : Prints) :
    c.enqueue eng q pr
      = (match q.slot with
          | some n => c.setSlot n { c.slot n with valid := false }
          | none => c).setQueue eng (c.queue eng ++ [q]) := by
  unfold Cluster.enqueue
  cases q.slot with
  | none => simp only [h, Bool.false_eq_true, if_false]
  | some n =>
    have h' : (c.setSlot n { c.slot n with valid := false }).lending.active = false := h
    simp only [h', Bool.false_eq_true, if_false]
    cases eng <;> rfl

/-- The queues of a cluster after one of them is replaced. -/
theorem Cluster.queue_setQueue (c : Cluster) (e e' : Engine) (q : List QEntry) :
    (c.setQueue e q).queue e' = if e' = e then q else c.queue e' := by
  cases e <;> cases e' <;> rfl

/-- A queue replaced leaves the rest of its cluster. -/
theorem Cluster.setQueue_eq (c : Cluster) (e : Engine) (q : List QEntry) :
    c.setQueue e q = { c with
      qLd := (c.setQueue e q).qLd
      qSt := (c.setQueue e q).qSt
      qMx := (c.setQueue e q).qMx
      qDr := (c.setQueue e q).qDr
      qVx := (c.setQueue e q).qVx } := by
  cases e <;> rfl

/-- The parts of a cluster that an entry leaves alone. -/
theorem Cluster.enqueue_keeps {c : Cluster} (h : c.lending.active = false) (eng : Engine) (q : QEntry) (pr : Prints) :
    (c.enqueue eng q pr).regs = c.regs ∧ (c.enqueue eng q pr).tokens = c.tokens ∧ (c.enqueue eng q pr).dmem = c.dmem
      ∧ c.SameStep (c.enqueue eng q pr) := by
  rw [Cluster.enqueue_eq h, Cluster.setQueue_eq]
  cases q.slot with
  | none => exact ⟨rfl, rfl, rfl, rfl, rfl, rfl⟩
  | some n => exact ⟨rfl, rfl, rfl, rfl, rfl, rfl⟩

theorem Cluster.queue_enqueue {c : Cluster} (h : c.lending.active = false) (eng e : Engine) (q : QEntry) (pr : Prints) :
    (c.enqueue eng q pr).queue e = if e = eng then c.queue eng ++ [q] else c.queue e := by
  rw [Cluster.enqueue_eq h, Cluster.queue_setQueue]
  cases q.slot with
  | none => rfl
  | some n => cases e <;> rfl

theorem Cluster.slot_enqueue {c : Cluster} (h : c.lending.active = false) (eng : Engine) {q : QEntry} {n : Nat} (hq : q.slot = some n)
    (pr : Prints) : ((c.enqueue eng q pr).slot n).valid = false := by
  rw [Cluster.enqueue_eq h, Cluster.setQueue_eq, hq]
  exact congrArg SumSlot.valid (Tab.get_put_same (d := SumSlot.init) (t := c.slots) n { c.slot n with valid := false })

/-! ### ISSUE -/

/-- The entry of a record, with the tokens and the slot of the two words (Table 4-4). -/
theorem withTokens_fromIssue {q : QEntry} {c : Cluster} {pc a : Nat} (hpc : q.pc = pc) (haddr : q.addr = a)
    (hrec : q.record = BitVec.ofNat 512 (leNat (c.dmem.raw a 64))) : (withTokens ⟨g, pc, w, w1⟩ q).fromIssue c pc a w w1 := by
  refine ⟨hpc, haddr, hrec, rfl, rfl, rfl, ?_, rfl⟩
  rw [show w1 % 256 = fieldOf w1 0 8 from (fieldOf_zero w1 8).symm]
  rfl

section
variable {pc a : Nat}

/-- ISSUE of a record at a good address waits for its summary slot. -/
theorem issueBody_waitsForSlot (hr : s.Rereads u g) (ha : ((s.cl g).reg (w / 2 ^ 16 % 32)).toNat = a) (hline : lineOk a = true)
    (hen : w.testBit 9 = true) (hslot : ((s.cl g).slot (w / 2 ^ 5 % 16)).valid = false) :
    issueBody ⟨g, pc, w, w1⟩ u = .stall u (.sumSlot (w / 2 ^ 5 % 16)) := by
  subst ha
  unfold issueBody
  simp only [hr.cl]
  have hgood : ¬(!lineOk ((s.cl g).reg (w / 2 ^ 16 % 32)).toNat) = true := by rw [hline]; decide
  have hwait : (w.testBit 9 && !((s.cl g).slot (w / 2 ^ 5 % 16)).valid) = true := by rw [hen, hslot]; rfl
  exact (if_neg hgood).trans (if_pos hwait)

/-- Then it waits for room in its queue. -/
theorem issueBody_waitsForRoom (hr : s.Rereads u g) (ha : ((s.cl g).reg (w / 2 ^ 16 % 32)).toNat = a) (hline : lineOk a = true)
    (hslot : w.testBit 9 = true → ((s.cl g).slot (w / 2 ^ 5 % 16)).valid = true)
    (hfull : 16 ≤ ((s.cl g).queue (engineOf (w / 2 ^ 23 % 8))).length) :
    issueBody ⟨g, pc, w, w1⟩ u = .stall u (.queueFull (engineOf (w / 2 ^ 23 % 8))) := by
  subst ha
  unfold issueBody
  simp only [hr.cl]
  have hgood : ¬(!lineOk ((s.cl g).reg (w / 2 ^ 16 % 32)).toNat) = true := by rw [hline]; decide
  have hready : ¬(w.testBit 9 && !((s.cl g).slot (w / 2 ^ 5 % 16)).valid) = true := by simpa using hslot
  exact (if_neg hgood).trans ((if_neg hready).trans (if_pos hfull))

/-- Then it makes the entry of its record and appends it. -/
theorem issueBody_enqueues {p : Pattern} (hr : s.Rereads u g) (hp : s.runPattern = some p)
    (ha : ((s.cl g).reg (w / 2 ^ 16 % 32)).toNat = a) (hline : lineOk a = true)
    (hslot : w.testBit 9 = true → ((s.cl g).slot (w / 2 ^ 5 % 16)).valid = true)
    (hroom : ((s.cl g).queue (engineOf (w / 2 ^ 23 % 8))).length < 16) (hchk : (s.cl g).dmem.chk = [])
    (hlend : (s.cl g).lending.active = false) :
    ∃ v q, issueBody ⟨g, pc, w, w1⟩ u
        = .retire (v.updCl g fun c => c.enqueue (engineOf (w / 2 ^ 23 % 8)) (withTokens ⟨g, pc, w, w1⟩ q) Prints.none) (pc + 8)
      ∧ s.Rereads v g ∧ q.pc = pc ∧ q.addr = a ∧ q.record = BitVec.ofNat 512 (leNat ((s.cl g).dmem.raw a 64)) := by
  subst ha
  have hpu : u.runPattern = some p := by
    rw [← hp, hr.only.1]
    rfl
  obtain ⟨v, q, hmake, hv, hpc, haddr, hrec⟩ := makeEntry_chk_nil (s := u) (g := g) (by rw [hr.cl, hchk]) p
    (engineOf (w / 2 ^ 23 % 8)) false pc ((s.cl g).reg (w / 2 ^ 16 % 32)).toNat (s.cl g).reg
  refine ⟨v, q, ?_, hr.trans hv, hpc, haddr, by rw [hrec, hr.cl]⟩
  have hgood : ¬(!lineOk ((s.cl g).reg (w / 2 ^ 16 % 32)).toNat) = true := by rw [hline]; decide
  have hready : ¬(w.testBit 9 && !((s.cl g).slot (w / 2 ^ 5 % 16)).valid) = true := by simpa using hslot
  unfold issueBody
  simp only [hr.cl, hpu]
  refine (if_neg hgood).trans ((if_neg hready).trans ((if_neg (Nat.not_le.mpr hroom)).trans ?_))
  erw [hmake]
  simp only [hlend, Bool.false_and, Bool.false_eq_true, if_false]
  rfl

end

end Sys2Proof.Machine

namespace Sys2Proof.Machine

/-- Settles O14: what each instruction waits for, and what a WAITT comes to when it is tried again. -/
theorem coreStalls : Obligations.CoreStalls := by
  unfold Obligations.CoreStalls
  refine ⟨fun g s w hruns => ⟨fun hw hmid hclear => ⟨_, rfl, ?_⟩, fun hw hhigh hlow hslot => ⟨_, rfl, ?_⟩, fun hw hdrained => ⟨_, rfl, ?_⟩⟩,
    fun g s k hk hruns hrun hstall hword => ⟨fun hset => ⟨_, rfl, ?_⟩, fun hclear => ⟨_, rfl, ?_⟩⟩, ?_⟩
  · obtain ⟨hd, hi⟩ := coreDecode_waitt (w := w) (by omega) (by omega) hmid
    exact coreRun_stalls hruns hi hd (waittBody_stalls (by rw [State.fetched_cl, hclear]))
  · obtain ⟨hd, hi⟩ := coreDecode_sumrd hw hhigh hlow
    exact coreRun_stalls hruns hi hd ((sumrdBody_eq ..).trans (if_neg (by simpa using hslot)))
  · subst hw
    exact coreRun_stalls hruns coreDecode_fence.2 coreDecode_fence.1 ((fenceBody_eq ..).trans (if_neg (by simpa using hdrained)))
  · rw [coreRetry_waitt hk hruns hrun hstall hword, if_pos hset]
    exact CoreOut.retire_retiresAs g.isLt (s.onlyCluster_refl _) rfl rfl rfl (by rw [hrun]; decide) _
  · rw [coreRetry_waitt hk hruns hrun hstall hword, if_neg (by simpa using hclear)]
    have hsame : { s.cl g.val with stall := some (.token k) } = s.cl g.val := by rw [← hstall]
    exact ⟨hsame ▸ (s.onlyCluster_refl g.val).updCl _, rfl⟩
  · rintro g s w w1 a n eng _ hruns rfl rfl rfl rfl hword1 hw halign hlt
    have hr : s.Rereads ((s.fetched g.val).fetched g.val) g.val := (State.Rereads.refl s g.val).fetch.fetch
    have hline := lineOk_of_aligned halign hlt
    exact ⟨fun hen hslot => ⟨_, rfl, coreRun_issue_stalls hruns hw hword1 (issueBody_waitsForSlot hr rfl hline hen hslot)⟩,
      fun hslot hfull => ⟨_, rfl, coreRun_issue_stalls hruns hw hword1 (issueBody_waitsForRoom hr rfl hline hslot hfull)⟩⟩

/-- Settles O15: the entry that clean memory gives, appended to the queue of its engine. -/
theorem issueEnqueues : Obligations.IssueEnqueues := by
  unfold Obligations.IssueEnqueues
  rintro g s w w1 a n eng _ p hruns hp rfl rfl rfl rfl hword1 hw halign hlt hchk hlend hroom hslot
  have hr : s.Rereads ((s.fetched g.val).fetched g.val) g.val := (State.Rereads.refl s g.val).fetch.fetch
  obtain ⟨v, q, hbody, hv, hpc, haddr, hrec⟩ := issueBody_enqueues (pc := (s.cl g.val).pc.toNat) (w1 := w1) hr hp rfl
    (lineOk_of_aligned halign hlt) hslot hroom hchk hlend
  have hkeeps := fun q => Cluster.enqueue_keeps hlend (engineOf (w / 2 ^ 23 % 8)) q Prints.none
  have hret := CoreOut.retire_retiresAs g.isLt (hv.only.updCl fun c => c.enqueue (engineOf (w / 2 ^ 23 % 8))
    (withTokens ⟨g.val, (s.cl g.val).pc.toNat, w, w1⟩ q) Prints.none) hv.cnt (hkeeps _).2.2.2.pc (hkeeps _).2.2.2.cycle
    (by rw [(hkeeps _).2.2.2.run, State.run_of_coreReady hruns.1]; decide) ((s.cl g.val).pc.toNat + 8)
  rw [← hbody, ← coreRun_issue issueBody hruns hw hword1] at hret
  obtain ⟨⟨hrest, hcl, hothers⟩, -⟩ := hret
  refine ⟨_, withTokens ⟨g.val, (s.cl g.val).pc.toNat, w, w1⟩ q, rfl, withTokens_fromIssue hpc haddr hrec, ?_, fun e hne => ?_, fun hen => ?_, ?_, ?_, ?_, ?_, ?_, hothers⟩
  · rw [hcl]
    exact (Cluster.queue_enqueue hlend _ _ _ _).trans (if_pos rfl)
  · rw [hcl]
    exact (Cluster.queue_enqueue hlend _ _ _ _).trans (if_neg hne)
  · rw [hcl]
    exact Cluster.slot_enqueue hlend _ (if_pos hen) _
  · rw [hcl]
    exact (hkeeps _).1
  · rw [hcl]
    exact (hkeeps _).2.1
  · rw [hcl]
    exact (hkeeps _).2.2.1
  · rw [hcl]
    rfl
  · rw [hrest]

end Sys2Proof.Machine
end

section
/-! SUPPORT. What reporting and accounting leave alone: the clusters, the attempt and the memory (R379, R386, R397, R401). -/

namespace Sys2Proof.Machine

variable {s t u : State}

/-- The state `t` is `s` but for its accounts: error records and pins, the ledger's health, the host ports' messages, the counters and
the estimate of the fabric's transfers. -/
structure State.Accounts (s t : State) : Prop where
  eq : t = { s with
    pins := t.pins
    riser := t.riser
    trail := t.trail
    cope := t.cope
    drag := t.drag
    power := t.power
    err := t.err
    cnt := t.cnt }

theorem State.Accounts.refl (s : State) : s.Accounts s := ⟨rfl⟩

theorem State.Accounts.trans (h : s.Accounts t) (h' : t.Accounts u) : s.Accounts u :=
  ⟨h'.eq.trans (congrArg (fun y : State => { y with
    pins := u.pins
    riser := u.riser
    trail := u.trail
    cope := u.cope
    drag := u.drag
    power := u.power
    err := u.err
    cnt := u.cnt }) h.eq)⟩

theorem State.Accounts.clusters (h : s.Accounts t) : t.clusters = s.clusters := by rw [h.eq]
theorem State.Accounts.cl (h : s.Accounts t) (g : Nat) : t.cl g = s.cl g := congrArg (Tab.get Cluster.init · g) h.clusters
theorem State.Accounts.mem (h : s.Accounts t) : t.mem = s.mem := by rw [h.eq]
theorem State.Accounts.run (h : s.Accounts t) : t.run = s.run := by rw [h.eq]
theorem State.Accounts.patterns (h : s.Accounts t) : t.patterns = s.patterns := by rw [h.eq]

theorem State.Accounts.runner (h : s.Accounts t) : t.runner = s.runner := by rw [h.eq]
theorem State.Accounts.running (h : s.Accounts t) : t.running = s.running := by rw [h.eq]

theorem State.accounts_cnt (s : State) (x : Counters) : s.Accounts { s with cnt := x } := ⟨rfl⟩
theorem State.accounts_err (s : State) (x : Err) : s.Accounts { s with err := x } := ⟨rfl⟩
theorem State.count_accounts (s : State) (o k : Nat) : s.Accounts (s.count o k) := ⟨rfl⟩
theorem State.updSampler_accounts (s : State) (g : Nat) (f : Sampler → Sampler) : s.Accounts (s.updSampler g f) := ⟨rfl⟩
theorem State.onFabric_accounts (s : State) (k n : Nat) : s.Accounts (s.onFabric k n) := ⟨rfl⟩
theorem State.saveHealth_accounts (s : State) : s.Accounts s.saveHealth := ⟨rfl⟩

theorem State.addLocal_accounts (s : State) (k : Nat) : s.Accounts (s.addLocal k) := by
  unfold State.addLocal
  dsimp only
  split
  · exact (State.accounts_err ..).trans (State.saveHealth_accounts _)
  · exact State.accounts_err ..

theorem State.updPort_accounts (s : State) (p : HostPort) (f : HostPortState → HostPortState) : s.Accounts (s.updPort p f) := by
  cases p <;> exact ⟨rfl⟩

theorem State.msix_accounts (s : State) (p : HostPort) (v : Nat) : s.Accounts (s.msix p v) := by
  unfold State.msix
  split
  · exact (State.updPort_accounts ..).trans (State.accounts_cnt ..)
  · exact State.updPort_accounts ..

theorem State.logStatus_accounts (s : State) (st : BitVec 16) (x i a : Nat) (l : Bool) (p : Option (Nat × Word64)) :
    s.Accounts (s.logStatus st x i a l p) :=
  State.Accounts.trans ⟨rfl⟩ ((State.msix_accounts ..).trans (State.msix_accounts ..))

theorem State.noteEvent_accounts (s : State) (p : Option (Nat × Word64)) (e : MemEvent) : s.Accounts (s.noteEvent p e) := by
  unfold State.noteEvent
  cases e with
  | corrected x =>
    cases x with
    | hbm st => exact State.accounts_err ..
    | intake => exact (State.accounts_err ..).trans (State.addLocal_accounts ..)
    | cluster g => exact (State.accounts_err ..).trans (State.addLocal_accounts ..)
  | uncorrectable x a =>
    cases x with
    | hbm st => exact ((State.accounts_err ..).trans (State.logStatus_accounts ..)).trans (State.addLocal_accounts ..)
    | intake => exact ((State.accounts_err ..).trans (State.logStatus_accounts ..)).trans (State.addLocal_accounts ..)
    | cluster g => exact ((State.accounts_err ..).trans (State.logStatus_accounts ..)).trans (State.addLocal_accounts ..)
  | poisonWritten => exact State.accounts_err ..

/-- Memory events are reported and nothing else. -/
theorem State.noteAll_accounts (s : State) (p : Option (Nat × Word64)) (es : List MemEvent) : s.Accounts (s.noteAll p es) := by
  induction es generalizing s with
  | nil => exact State.Accounts.refl s
  | cons e es ih => exact (State.noteEvent_accounts s p e).trans (ih _)

theorem State.hbmTraffic_accounts (s : State) (a n : Nat) (w d : Bool) : s.Accounts (s.hbmTraffic a n w d) := by
  obtain ⟨x, y, h⟩ := State.hbmTraffic_eq s a n w d
  rw [h]
  exact ⟨rfl⟩

/-- An access carried over the floor link is counted and nothing else. -/
theorem State.floorCarry_accounts (s : State) (die : Nat) (write : Bool) (a : Nat) : s.Accounts (s.floorCarry die write a) := by
  have hfirst : s.Accounts (if a < hbmEnd then s else s.onFabric (dieOf a) 1) := by
    split
    · exact State.Accounts.refl s
    · exact State.onFabric_accounts ..
  unfold State.floorCarry
  dsimp only
  split
  · exact hfirst
  · exact hfirst.trans (State.count_accounts ..)

theorem State.writeSample_accounts (s : State) (g : Nat) (r : BitVec 128) : s.Accounts (s.writeSample g r) := by
  unfold State.writeSample
  dsimp only
  split
  · exact State.updSampler_accounts ..
  · exact (State.accounts_cnt ..).trans (State.updSampler_accounts ..)

theorem State.sampleDone_accounts (s : State) (g : Nat) (fl : Flight) : s.Accounts (s.sampleDone g fl) := by
  unfold State.sampleDone
  dsimp only
  split
  · exact (State.updSampler_accounts ..).trans (State.writeSample_accounts ..)
  · exact State.Accounts.refl s

end Sys2Proof.Machine
end

section
/-! SUPPORT. Completions: tokens set by the program, and what an instruction leaves of its cluster (R77, R86, R97, R109). -/

namespace Sys2Proof.Machine

variable {s t : State} {g : Nat}

/-! ### Tokens -/

theorem Cluster.token_putToken (c : Cluster) {k : Nat} (hk : k < 256) (i : Nat) (b : Bool) :
    (c.putToken k b).token i = if i = k then b else c.token i := by
  have hone : (1#256 <<< k).getLsbD i = decide (i = k) := by
    rw [BitVec.getLsbD_shiftLeft, BitVec.getLsbD_one]
    by_cases h : i = k
    · subst h
      simp [hk]
    · simp only [h, decide_false]
      by_cases hlt : i < k <;> simp [hlt]
      omega
  by_cases h : i = k
  · subst h
    cases b <;> simp [Cluster.token, Cluster.putToken, hone]
  · cases b <;> simp [Cluster.token, Cluster.putToken, hone, h]
    exact fun hset => BitVec.lt_of_getLsbD hset

/-- Two clusters differ in their tokens alone, and in what a change of a token does to the clock (R334). -/
def Cluster.TokensOnly (c d : Cluster) : Prop :=
  d = { c with
    tokens := d.tokens
    asleep := d.asleep
    idleCycles := d.idleCycles }

theorem Cluster.TokensOnly.trans {c d e : Cluster} (h : c.TokensOnly d) (h' : d.TokensOnly e) : c.TokensOnly e :=
  (show e = _ from h').trans (congrArg (fun y : Cluster => { y with
    tokens := e.tokens
    asleep := e.asleep
    idleCycles := e.idleCycles }) h)

/-- The tokens of `posts`, each of them a cluster and its token, were set in `s`, and `t` is what that left. -/
structure State.Posts (s t : State) (posts : List (Nat × Nat)) : Prop where
  rest : t = { s with clusters := t.clusters }
  only : ∀ c, (s.cl c).TokensOnly (t.cl c)
  sets : ∀ c k, (t.cl c).token k = ((s.cl c).token k || decide ((c, k) ∈ posts))

/-- One clear token set. -/
theorem postToken_clear {eng pc c k : Nat} (hf : s.faultFree = true) (hk : k < 256) (hclear : (s.cl c).token k = false) :
    s.Posts (postToken g eng pc c k s) [(c, k)] := by
  have heq : postToken g eng pc c k s = s.updCl c fun c => c.putToken k true := by
    unfold postToken
    rw [hclear, hf]
    rfl
  rw [heq]
  refine ⟨rfl, fun i => ?_, fun i j => ?_⟩
  · rw [State.cl_updCl]
    split
    · next h => subst h; rfl
    · rfl
  · rw [State.cl_updCl]
    by_cases h : c = i
    · subst h
      rw [if_pos rfl, Cluster.token_putToken _ hk]
      by_cases hj : j = k
      · simp [hj]
      · simp [hj]
    · have hne : (i, j) ≠ (c, k) := fun hp => h (congrArg Prod.fst hp).symm
      simp [h, hne]

/-- Tokens that are distinct and clear are all set. -/
theorem postAll_clear {eng pc : Nat} {posts : List (Nat × Nat)} (hf : s.faultFree = true) (hnodup : posts.Nodup)
    (hclear : ∀ x ∈ posts, x.2 < 256 ∧ (s.cl x.1).token x.2 = false) : s.Posts (postAll g eng pc posts s) posts := by
  induction posts generalizing s with
  | nil => exact ⟨rfl, fun _ => rfl, fun c k => by simp [postAll]⟩
  | cons x xs ih =>
    obtain ⟨c, k⟩ := x
    obtain ⟨hnotin, hnodup'⟩ := List.nodup_cons.mp hnodup
    obtain ⟨hk, hfirst⟩ := hclear (c, k) List.mem_cons_self
    obtain ⟨hrest, honly, hsets⟩ := postToken_clear (g := g) (eng := eng) (pc := pc) hf hk hfirst
    have hf' : (postToken g eng pc c k s).faultFree = true := by rw [hrest]; exact hf
    obtain ⟨hrest', honly', hsets'⟩ := ih hf' hnodup' fun x hx => by
      obtain ⟨hlt, hx0⟩ := hclear x (List.mem_cons_of_mem _ hx)
      have hne : x ≠ (c, k) := fun h => hnotin (h ▸ hx)
      exact ⟨hlt, by rw [hsets, hx0]; simp [hne]⟩
    refine ⟨?_, fun i => (honly i).trans (honly' i), fun i j => ?_⟩
    · exact hrest'.trans (congrArg (fun y : State => { y with clusters := (postAll g eng pc ((c, k) :: xs) s).clusters }) hrest)
    · rw [postAll, hsets', hsets]
      simp [Bool.or_assoc]

/-- A token found set faults the pour. -/
theorem postToken_set {eng pc c k : Nat} (hset : (s.cl c).token k = true) :
    postToken g eng pc c k s = s.faultPour g eng stSlotCollision (BitVec.ofNat 18 pc) 0 := if_pos hset

/-- A fault is recorded once for its cluster and source (R92). -/
theorem State.faultPour_again {r : RunCtx} {eng : Nat} (hr : s.run = some r) (hf : r.fault.isSome = true) (hv : (s.cl g).fault.valid = true)
    (hs : (s.cl g).fault.source.toNat ≤ eng) (st : BitVec 16) (pc : BitVec 18) (a : Nat) : s.faultPour g eng st pc a = s := by
  have hcounts : s.faultCounts g eng = false := by
    obtain ⟨v, hv'⟩ := Option.isSome_iff_exists.mp hf
    simp [State.faultCounts, hr, hv', hv, hs]
  unfold State.faultPour
  rw [hcounts]
  rfl

/-- Once a completion has faulted the pour, it sets no further token. -/
theorem postAll_faulted {r : RunCtx} {eng pc : Nat} (hr : s.run = some r) (hf : r.fault.isSome = true) (hv : (s.cl g).fault.valid = true)
    (hs : (s.cl g).fault.source.toNat ≤ eng) (posts : List (Nat × Nat)) : postAll g eng pc posts s = s := by
  have hnone : s.faultFree = false := by
    obtain ⟨v, hv'⟩ := Option.isSome_iff_exists.mp hf
    simp [State.faultFree, hr, hv']
  induction posts with
  | nil => rfl
  | cons x xs ih =>
    have hstay : postToken g eng pc x.1 x.2 s = s := by
      unfold postToken
      rw [State.faultPour_again hr hf hv hs, hnone]
      simp
    rw [postAll, hstay, ih]

/-! ### The cluster that an instruction leaves -/

/-- What a completion leaves of its cluster: the engine, the summary, the bank and the lending period go on. -/
theorem Cluster.complete_eq (c : Cluster) (fl : Flight) (words : List Word64) :
    c.complete fl words = { c with
      flights := c.flights.filter fun f => f.idx != fl.idx
      asleep := false
      idleCycles := 0
      slots := match fl.entry.slot with
        | some n => Tab.put SumSlot.init c.slots n ⟨true, words⟩
        | none => c.slots
      bank0 := match fl.bank with
        | some (false, b) => b
        | _ => c.bank0
      bank1 := match fl.bank with
        | some (true, b) => b
        | _ => c.bank1
      lending := (c.complete fl words).lending } := by
  unfold Cluster.complete
  rcases fl.entry.slot with _ | n <;> rcases fl.bank with _ | ⟨_ | _, b⟩ <;> dsimp only <;> (split; rfl; split <;> rfl)

/-- A part that ends changes its run state alone. -/
theorem Cluster.settle_eq (c : Cluster) : c.settle = { c with run := c.settle.run } := by
  unfold Cluster.settle
  split <;> rfl

theorem Cluster.flight_idx {c : Cluster} {idx : Nat} {fl : Flight} (h : c.flight idx = some fl) : fl.idx = idx := by
  simpa using List.find?_some h

/-- The flights left once those of a number are gone. -/
theorem Cluster.flight_filtered {c d : Cluster} {idx : Nat} (hd : d.flights = c.flights.filter fun f => f.idx != idx) (j : Nat) :
    d.flight j = if j = idx then none else c.flight j := by
  unfold Cluster.flight
  rw [hd, List.find?_filter]
  split
  · next h =>
    subst h
    rw [List.find?_eq_none]
    simp
  · next h =>
    congr 1
    funext f
    simp only [bne_iff_ne, ne_eq]
    grind

/-- Tiles that land leave everything but the Crucible of their cluster and its flags, and accounts. -/
theorem State.landTiles_other (s : State) (g : Nat) (fl : Flight) :
    (s.landTiles g fl).mem = s.mem ∧ (s.landTiles g fl).run = s.run
      ∧ ∀ i, (s.landTiles g fl).cl i = { s.cl i with
          crucible := ((s.landTiles g fl).cl i).crucible
          satFlags := ((s.landTiles g fl).cl i).satFlags } := by
  unfold State.landTiles
  split
  · next p sat _ =>
    have hacc := State.noteAll_accounts (s.updCl g fun c => { c with crucible := ((s.cl g).crucible.apply (.priv g) p).1 })
      s.runPour ((s.cl g).crucible.apply (.priv g) p).2
    refine ⟨hacc.mem, hacc.run, fun i => ?_⟩
    rw [State.cl_updCl]
    unfold State.applyTiles
    dsimp only
    rw [hacc.cl, hacc.cl, State.cl_updCl, State.cl_updCl]
    by_cases h : g = i
    · subst h
      simp
    · simp [h]
  · exact ⟨rfl, rfl, fun _ => rfl⟩

theorem State.landTiles_tiles {fl : Flight} {p : Patch} {sat : BitVec 64} (h : fl.tiles = some (p, sat)) :
    ((s.landTiles g fl).cl g).crucible = ((s.cl g).crucible.apply (.priv g) p).1
      ∧ ((s.landTiles g fl).cl g).satFlags = (s.cl g).satFlags ||| sat := by
  have hacc := State.noteAll_accounts (s.updCl g fun c => { c with crucible := ((s.cl g).crucible.apply (.priv g) p).1 })
    s.runPour ((s.cl g).crucible.apply (.priv g) p).2
  unfold State.landTiles
  rw [h]
  dsimp only
  unfold State.applyTiles
  dsimp only
  rw [State.cl_updCl_same, hacc.cl, State.cl_updCl_same]
  exact ⟨rfl, rfl⟩

theorem State.landTiles_none {fl : Flight} (h : fl.tiles = none) : s.landTiles g fl = s := by
  unfold State.landTiles
  rw [h]

/-! ### Completion -/

/-- An instruction with nothing left to do completes. -/
theorem execInstructionComplete_done {g : Fin 128} {eng : Engine} {idx : Nat} {fl : Flight} {n : Option CollInstance}
    (hfl : (s.cl g.val).flight idx = some fl) (heng : fl.eng = eng) (hruns : s.attemptRuns g.val = true)
    (hn : n = (s.run.bind fun r => r.colls.find? fun n => n.g = g.val && n.idx = idx)) (hdone : s.flightDone fl n = true) :
    execInstructionComplete g eng idx s = .next (completeFlight g.val idx fl n s) := by
  subst hn
  unfold execInstructionComplete
  rw [hfl]
  exact if_pos ⟨heng, hruns, hdone⟩

/-- The tokens that a completion sets: the entry's post tokens, then those of NOTIFY (R77, R297). -/
def State.completionPosts (s : State) (g : Nat) (fl : Flight) (n : Option CollInstance) : List (Nat × Nat) :=
  fl.entry.posts.map (fun t => (g, t))
    ++ (n.bind fun n => s.runPattern.map fun p => notifyTokens (collRecord p n.collId)).getD []

/-- The summary that a completion writes (R86). -/
def Flight.words (fl : Flight) (n : Option CollInstance) : List Word64 :=
  (n.map fun (i : CollInstance) => i.sums.map satWord ++ [0, 0, 0]).getD fl.summary

/-- A completion with its tokens set goes on in its cluster, in the attempt and in the sampler, unless a token has faulted the pour. -/
theorem completeFlight_eq {idx : Nat} {fl : Flight} {n : Option CollInstance}
    (ht : postAll g fl.eng.toNat fl.entry.pc (s.completionPosts g fl n) (s.landTiles g fl) = t) :
    completeFlight g idx fl n s = if t.faultFree then
      State.sampleDone { t.updCl g fun c => (c.complete fl (fl.words n)).settle with
        run := t.run.map fun (r : RunCtx) => r.afterDone g idx fl } g fl
    else t := by
  subst ht
  rfl

/-- What the clusters and the memory are once no token has faulted the pour. -/
theorem completeFlight_next {idx : Nat} {fl : Flight} {n : Option CollInstance}
    (ht : postAll g fl.eng.toNat fl.entry.pc (s.completionPosts g fl n) (s.landTiles g fl) = t) (hf : t.faultFree = true) :
    (∀ i, (completeFlight g idx fl n s).cl i = if g = i then ((t.cl g).complete fl (fl.words n)).settle else t.cl i)
      ∧ (completeFlight g idx fl n s).mem = t.mem := by
  rw [completeFlight_eq ht, if_pos hf]
  have hacc := State.sampleDone_accounts { t.updCl g fun c => (c.complete fl (fl.words n)).settle with
    run := t.run.map fun (r : RunCtx) => r.afterDone g idx fl } g fl
  exact ⟨fun i => (hacc.cl i).trans (State.cl_updCl t g i fun c => (c.complete fl (fl.words n)).settle), hacc.mem⟩

end Sys2Proof.Machine

namespace Sys2Proof.Machine

/-- Settles O36: the tokens are set one after the other in the state whose tiles have landed, and the cluster then goes on. -/
theorem instructionCompletes : Obligations.InstructionCompletes := by
  unfold Obligations.InstructionCompletes
  intro g eng idx s fl n posts hfl heng hruns hn hdone hfree hposts
  have hexec : exec (.instructionComplete g eng idx) s = .next (completeFlight g.val idx fl n s) :=
    execInstructionComplete_done hfl heng hruns hn hdone
  obtain ⟨hmem, hrun, hcl⟩ := s.landTiles_other g.val fl
  have htok (i k : Nat) : ((s.landTiles g.val fl).cl i).token k = (s.cl i).token k := by rw [hcl]; rfl
  have hfree' : (s.landTiles g.val fl).faultFree = true := by rw [State.faultFree, hrun]; exact hfree
  change posts = s.completionPosts g.val fl n at hposts
  refine ⟨fun hnodup hclear => ?_, fun x rest hx hset => ?_⟩
  · subst hposts
    obtain ⟨u, hu⟩ : ∃ u, postAll g.val fl.eng.toNat fl.entry.pc (s.completionPosts g.val fl n) (s.landTiles g.val fl) = u := ⟨_, rfl⟩
    have hp : (s.landTiles g.val fl).Posts u (s.completionPosts g.val fl n) :=
      hu ▸ postAll_clear hfree' hnodup fun x hx => by rw [htok]; exact hclear x hx
    obtain ⟨hcls, hmemt⟩ := completeFlight_next (idx := idx) hu (by rw [hp.rest]; exact hfree')
    have hg := (hcls g.val).trans (if_pos rfl)
    rw [Cluster.settle_eq, Cluster.complete_eq, hp.only g.val, hcl] at hg
    have hidx : fl.idx = idx := Cluster.flight_idx hfl
    have hflight : ((completeFlight g.val idx fl n s).cl g.val).flights = (s.cl g.val).flights.filter fun f => f.idx != idx := by
      rw [hg, hidx]
    refine ⟨_, hexec, ?_, fun x hx => ?_, fun k hk hnone => ?_, fun p sat hp => ?_, fun hnone => ?_, fun b hb => ?_, fun b hb => ?_,
      fun j hj => ?_, fun e => ?_, ?_, hmemt.trans (by rw [hp.rest]; exact hmem)⟩
    · exact (Cluster.flight_filtered hflight idx).trans (if_pos rfl)
    · have hx' : (u.cl x.1).token x.2 = true := by rw [hp.sets]; simp [hx]
      rw [hcls]
      split
      · next h =>
        rw [Cluster.settle_eq, Cluster.complete_eq, h]
        exact hx'
      · exact hx'
    · subst hnone
      rw [hg, hk]
      exact Tab.get_put_same (d := SumSlot.init) k _
    · rw [hg]
      exact State.landTiles_tiles hp
    · rw [hg, State.landTiles_none hnone]
      exact ⟨rfl, rfl⟩
    · rw [hg, hb]
    · rw [hg, hb]
    · exact (Cluster.flight_filtered hflight j).trans (if_neg hj)
    · rw [hg]
      cases e <;> rfl
    · rw [hg]
  · have hset' : ((s.landTiles g.val fl).cl x.1).token x.2 = true := by rw [htok, hset]
    obtain ⟨hby, hclg, hothers, hmemf⟩ := State.faultPour_faultsBy (g := g.val) (source := fl.eng.toNat) (st := stSlotCollision) hfree'
      (by decide) (BitVec.ofNat 19 fl.entry.pc)
    have hpc : BitVec.ofNat 18 (BitVec.ofNat 19 fl.entry.pc).toNat = BitVec.ofNat 18 fl.entry.pc := by
      apply BitVec.eq_of_toNat_eq
      simp only [BitVec.toNat_ofNat]
      omega
    rw [hpc] at hby hclg hothers hmemf
    obtain ⟨r, hr, hrf⟩ := hby.1
    have hsource : (BitVec.ofNat 4 fl.eng.toNat).toNat ≤ fl.eng.toNat := by
      rw [BitVec.toNat_ofNat]
      exact Nat.mod_le ..
    have hall : postAll g.val fl.eng.toNat fl.entry.pc (s.completionPosts g.val fl n) (s.landTiles g.val fl)
        = (s.landTiles g.val fl).faultPour g.val fl.eng.toNat stSlotCollision (BitVec.ofNat 18 fl.entry.pc) 0 := by
      rw [← hposts, hx, postAll, postToken_set hset']
      exact postAll_faulted hr (by rw [hrf]; rfl) (by rw [hby.2]) (by rw [hby.2]; exact hsource) rest
    rw [completeFlight_eq hall, if_neg (by simp [State.faultFree, hr, hrf])] at hexec
    refine ⟨_, hexec, ?_, heng ▸ hby, hmemf.trans hmem⟩
    by_cases h : x.1 = g.val
    · rw [h, hclg]
      exact (htok g.val x.2).trans (by rw [← h]; exact hset)
    · rw [hothers _ h]
      exact hset'

/-- Settles O37: a latch is a map over the armed items, and a step issues by the same operation as an entry of a queue. -/
theorem fillerActs : Obligations.FillerActs := by
  unfold Obligations.FillerActs
  refine fun g s hruns => ⟨?_, ?_, ?_⟩
  · have hexec : exec (.guardLatch g) s = .next (s.updCl g.val fun c => c.latchGuards) := if_pos hruns
    refine ⟨_, hexec, ?_, rfl, ?_⟩
    · rw [State.cl_updCl_same]
      exact (s.onlyCluster_refl g.val).updCl fun c => c.latchGuards
    · have hlatch : ArmedItem.latch (s.cl g.val).tokens
          = fun i => if (i.guard.map (s.cl g.val).token).getD false then { i with latched := true } else i := by
        funext i
        unfold ArmedItem.latch
        cases i.guard <;> rfl
      rw [State.cl_updCl_same, Cluster.latchGuards, hlatch]
  · rintro p i rest e q s1 s2 hp hopen hrun hready rfl hmake rfl hissued
    have hexec : exec (.fillerStepIssue g) s = .next (((startOp (opOf (stepEngine i.drMap.toNat i.next) q.record.toNat)
        (s1.engCtx p g.val { q with cycle := i.cycle } true) (stepEngine i.drMap.toNat i.next) id s1).updCl g.val fun c =>
          { c with lending := { c.lending with items := markRunning c.lending.items } }).count (ctrCluster g.val 15) 1) := by
      change execFillerStepIssue g s = _
      unfold execFillerStepIssue
      rw [hp, hopen]
      dsimp only
      rw [hruns, hrun, hready, hmake]
      exact (if_pos rfl).trans (if_pos (bne_iff_ne.mpr hissued))
    refine ⟨_, hexec, ?_, ?_, ?_⟩
    · rw [State.cl_count, State.cl_updCl_same]
    · rw [State.cl_count, State.cl_updCl_same]
    · rw [State.ctr_count, if_pos rfl]
      rfl
  · rintro p i rest e st s1 hp hopen hrun hready rfl hmake
    change execFillerStepIssue g s = _
    unfold execFillerStepIssue
    rw [hp, hopen]
    dsimp only
    rw [hruns, hrun, hready, hmake]
    rfl

end Sys2Proof.Machine
end

section
/-! SUPPORT. The accesses of a copy, one by one: what each of them does, and where a copy waits for a phase or slot (R89, R91, R290). -/

namespace Sys2Proof.Machine

variable {s t : State} {x : CopyCtx} {cs : CopyState} {may : Bool → Nat → Bool} {c : Nat}

/-! ### Codewords of elements -/

theorem Tab.mem_keys_insert {α : Type} (k : Nat) (v : α) (t : Tab α) (i : Nat) :
    i ∈ (Tab.insert k v t).map (·.1) ↔ i = k ∨ i ∈ t.map (·.1) := by
  induction t with
  | nil => simp [Tab.insert]
  | cons e t ih =>
    obtain ⟨k', v'⟩ := e
    unfold Tab.insert
    split
    · simp
    · split
      · next h => simp [h]
      · rw [List.map_cons, List.mem_cons, ih, List.map_cons, List.mem_cons]
        tauto

theorem mem_sortedSet (l : List Nat) (i : Nat) : i ∈ sortedSet l ↔ i ∈ l := by
  have hfold : ∀ (l : List Nat) (t : Tab Unit),
      i ∈ (l.foldl (fun (t : Tab Unit) c => Tab.insert c () t) t).map (·.1) ↔ i ∈ l ∨ i ∈ t.map (·.1) := by
    intro l
    induction l with
    | nil => simp
    | cons c l ih =>
      intro t
      rw [List.foldl_cons, ih, Tab.mem_keys_insert, List.mem_cons]
      tauto
  unfold sortedSet
  rw [hfold]
  simp

/-- A codeword that holds one of several elements holds it by itself. -/
theorem mem_codewordsOf (w : Nat) (bits : List Nat) (k : Nat) : k ∈ codewordsOf w bits ↔ ∃ b ∈ bits, k ∈ elemCws w b := by
  simp only [elemCws, codewordsOf, mem_sortedSet, List.mem_flatMap, List.mem_singleton, exists_eq_left]

/-- An element lies in the codeword of its first bit, whatever others. -/
theorem div_mem_elemCws (w b : Nat) : b / 256 ∈ elemCws w b := by
  simp only [elemCws, codewordsOf, mem_sortedSet, List.mem_flatMap, List.mem_singleton, exists_eq_left]
  split <;> simp

theorem widthBits_pos (f : Nat) : 0 < widthBits f := by
  unfold widthBits
  split <;> decide

theorem widthBits_le (f : Nat) : widthBits f ≤ 64 := by
  unfold widthBits
  split <;> decide

theorem groupUnit_pos {w : Nat} (h : w ≤ 256) : 0 < groupUnit w := by
  unfold groupUnit
  split
  · decide
  · exact Nat.div_pos (by omega) (by omega)

/-! ### What a carrier changes -/

/-- The state `t` is `s` but for its memory and its accounts. -/
def State.Carries (s t : State) : Prop := State.Accounts { s with mem := t.mem } t

theorem State.Carries.trans {u : State} (h : s.Carries t) (h' : t.Carries u) : s.Carries u :=
  ⟨h'.eq.trans (congrArg (fun y : State => { y with
    mem := u.mem
    pins := u.pins
    riser := u.riser
    trail := u.trail
    cope := u.cope
    drag := u.drag
    power := u.power
    err := u.err
    cnt := u.cnt }) h.eq)⟩

theorem State.Accounts.carries (h : s.Accounts t) : s.Carries t := by
  unfold State.Carries
  rw [h.mem]
  exact h

theorem State.carries_mem (s : State) (m : Mem) : s.Carries { s with mem := m } := State.Accounts.refl _

theorem State.Carries.cl (h : s.Carries t) (g : Nat) : t.cl g = s.cl g := State.Accounts.cl h g

theorem State.Accounts.foldl {α : Type} {f : State → α → State} (hf : ∀ (s : State) (a : α), s.Accounts (f s a)) (s : State) (l : List α) :
    s.Accounts (l.foldl f s) := by
  induction l generalizing s with
  | nil => exact State.Accounts.refl s
  | cons a l ih => exact (hf s a).trans (ih _)

/-- Elements read by a carrier: memory as its check bits were mended, and accounts. -/
theorem carryRun_carries (c : CopyPlan) (bits : List Nat) (s : State) :
    s.Carries (carryRun c bits s).1 ∧ (carryRun c bits s).1.mem = (s.mem.readElems .chip c.w bits).mem := by
  have hacc : State.Accounts { s with mem := (s.mem.readElems .chip c.w bits).mem } (carryRun c bits s).1 :=
    (State.noteAll_accounts ..).trans (State.Accounts.foldl (fun s k => State.hbmTraffic_accounts s (32 * k) 32 false false) _ _)
  exact ⟨(State.carries_mem s _).trans hacc.carries, hacc.mem⟩

/-- What a carrier reads follows from the memory. -/
theorem carryRun_congr (h : t.mem = s.mem) (c : CopyPlan) (bits : List Nat) :
    (carryRun c bits t).2 = (carryRun c bits s).2 ∧ (carryRun c bits t).1.mem = (carryRun c bits s).1.mem := by
  rw [(carryRun_carries c bits t).2, (carryRun_carries c bits s).2, h]
  refine ⟨?_, rfl⟩
  unfold carryRun
  rw [h]

/-- A carrier reads a value for every element. -/
theorem length_carryRun (c : CopyPlan) (bits : List Nat) (s : State) : (carryRun c bits s).2.length = bits.length := by
  have hvals : (s.mem.readElems .chip c.w bits).vals.length = bits.length := by
    unfold Mem.readElems
    dsimp only
    split <;> simp
  simp [carryRun, hvals]

/-- Whole codewords written by a carrier: the memory as it follows from the one before, and accounts. -/
theorem carryCws_carries (p : Patch) (bad cws : List Nat) (s : State) : s.Carries (carryCws p bad cws s) := by
  induction cws generalizing s with
  | nil => exact (State.Accounts.refl s).carries
  | cons k cws ih =>
    unfold carryCws
    exact ((State.carries_mem s _).trans ((State.noteAll_accounts ..).trans (State.hbmTraffic_accounts ..)).carries).trans (ih _)

theorem carryCws_congr (p : Patch) (bad cws : List Nat) (h : t.mem = s.mem) : (carryCws p bad cws t).mem = (carryCws p bad cws s).mem := by
  induction cws generalizing s t with
  | nil => exact h
  | cons k cws ih =>
    unfold carryCws
    refine ih ?_
    rw [h, (State.hbmTraffic_accounts ..).mem, (State.noteAll_accounts ..).mem, (State.hbmTraffic_accounts ..).mem,
      (State.noteAll_accounts ..).mem]

theorem carryElems_carries (w : Nat) (els : List (Nat × Nat × Bool)) (s : State) : s.Carries (carryElems w els s) :=
  carryCws_carries ..

theorem carryElems_congr (w : Nat) (els : List (Nat × Nat × Bool)) (h : t.mem = s.mem) :
    (carryElems w els t).mem = (carryElems w els s).mem := carryCws_congr _ _ _ h

/-- A STATE buffer marked as written changes the attempt alone (R185). -/
theorem State.markWritten_eq (s : State) (p : Pattern) (a : Nat) : s.markWritten p a = { s with run := (s.markWritten p a).run } := by
  unfold State.markWritten
  split <;> rfl

/-! ### The accesses of a copy -/

/-- A copy between places of this chip, on its way, none of whose elements is refused and whose Ladle is sound. -/
structure CopyState.Sound (cs : CopyState) : Prop where
  goes  : cs.done = false
  split : cs.whole = false
  owned : cs.miss = none
  clean : cs.ladle = []

theorem CopyState.Sound.access (h : cs.Sound) (c : Nat) : CopyState.Sound { cs with started := c :: cs.started } :=
  ⟨h.goes, h.split, h.owned, h.clean⟩

/-- A copy's context between places of this chip, where every access needs a phase or slot. -/
structure CopyCtx.Slotted (x : CopyCtx) : Prop where
  fromHere : x.plan.srcPeer = none
  toHere   : x.plan.dstPeer = none
  unit     : 0 < x.plan.unit
  slots    : ∀ j, ∀ k ∈ elemCws x.plan.w (x.plan.src.getD j 0) ++ elemCws x.plan.w (x.plan.dst.getD j 0), accessFree x.die (32 * k) = false

/-- The codewords of the element that a copy reads next. -/
def readCws (pl : CopyPlan) (cs : CopyState) : List Nat := elemCws pl.w (pl.src.getD (readAt cs) 0)

/-- Where the group that a copy writes next goes. -/
def groupBits (pl : CopyPlan) (cs : CopyState) : List Nat := (List.range cs.got.length).map fun k => pl.dst.getD (cs.next + k) 0

/-- The elements that a copy reads once the codewords of the next one have been accessed. -/
def nextRun (pl : CopyPlan) (cs : CopyState) : List Nat := readRun pl (readAt cs) (readWant pl cs)

/-- Only a group that holds elements has codewords to be accessed. -/
theorem got_ne_nil_of_access {pl : CopyPlan} {f : Nat → Bool} (h : (codewordsOf pl.w (groupBits pl cs)).find? f = some c) : cs.got ≠ [] := by
  rintro hnil
  rw [groupBits, hnil] at h
  cases h

/-- The copy once a group is written. -/
def CopyState.wrote (pl : CopyPlan) (cs : CopyState) : CopyState :=
  { cs with
    next := cs.next + cs.got.length
    got := []
    ladle := []
    started := []
    done := cs.next + cs.got.length ≥ pl.total }

theorem copyStep_read_access (hcs : cs.Sound) (hx : x.Slotted) (hwant : readWant x.plan cs ≠ 0)
    (hc : (readCws x.plan cs).find? (fun k => !cs.started.contains k) = some c) :
    copyStep x may cs s = if may false (32 * c) then .moved (s.floorCarry x.die false (32 * c)) { cs with started := c :: cs.started }
      else .blocked s cs := by
  have hw : (readWant x.plan cs != 0) = true := bne_iff_ne.mpr hwant
  unfold readCws at hc
  unfold copyStep
  simp only [hcs.goes, Bool.false_eq_true, if_false, hw, if_true, hx.fromHere, hc]

theorem copyStep_read_all (hcs : cs.Sound) (hx : x.Slotted) (hwant : readWant x.plan cs ≠ 0)
    (hc : (readCws x.plan cs).find? (fun k => !cs.started.contains k) = none) :
    copyStep x may cs s = .moved (carryRun x.plan (nextRun x.plan cs) s).1 (takeRead cs (carryRun x.plan (nextRun x.plan cs) s).2) := by
  have hw : (readWant x.plan cs != 0) = true := bne_iff_ne.mpr hwant
  unfold readCws at hc
  unfold copyStep nextRun
  simp only [hcs.goes, Bool.false_eq_true, if_false, hw, if_true, hx.fromHere, hc]

theorem CopyState.group_sound (hcs : cs.Sound) (g w n : Nat) : cs.group g w n = (cs.got, []) := by
  have hfind (base : Nat) : (List.range ((cs.got.length * w + 255) / 256)).filter (fun k => Tab.get 0 ([] : Tab (BitVec 32)) (base + k) ≠ 0) = [] := by
    simp [Tab.get]
  unfold CopyState.group ladleOut
  rw [hcs.split, hcs.clean, hfind]
  rfl

theorem copyStep_write_access (hcs : cs.Sound) (hx : x.Slotted) (hwant : readWant x.plan cs = 0) (hgot : cs.got ≠ [])
    (hc : (codewordsOf x.plan.w (groupBits x.plan cs)).find? (fun k => !cs.started.contains k) = some c) :
    copyStep x may cs s = if may true (32 * c) then .moved (s.floorCarry x.die true (32 * c)) { cs with started := c :: cs.started }
      else .blocked s cs := by
  have hw : (readWant x.plan cs != 0) = false := by rw [hwant]; rfl
  have hg : (cs.got.length != 0) = true := bne_iff_ne.mpr (by simpa using hgot)
  unfold groupBits at hc
  unfold copyStep
  simp only [hcs.goes, Bool.false_eq_true, if_false, hw, hcs.split, hg, if_true, hx.toHere, hc]

theorem copyStep_write_all (hcs : cs.Sound) (hx : x.Slotted) (hwant : readWant x.plan cs = 0) (hgot : cs.got ≠ [])
    (hc : (codewordsOf x.plan.w (groupBits x.plan cs)).find? (fun k => !cs.started.contains k) = none) :
    copyStep x may cs s = .moved (carryElems x.plan.w ((groupBits x.plan cs).zip cs.got)
      (s.markWritten x.pat ((groupBits x.plan cs).headD 0 / 8))) (cs.wrote x.plan) := by
  have hw : (readWant x.plan cs != 0) = false := by rw [hwant]; rfl
  have hg : (cs.got.length != 0) = true := bne_iff_ne.mpr (by simpa using hgot)
  unfold groupBits at hc
  unfold copyStep groupBits CopyState.wrote
  simp only [hcs.goes, Bool.false_eq_true, if_false, hw, hcs.split, hg, if_true, CopyState.group_sound hcs, hx.toHere, hc]
  rfl

/-! ### Where a copy waits -/

/-- No access of such a copy goes on without a phase or slot. -/
theorem copyStep_waits (hcs : cs.Sound) (hx : x.Slotted)
    (h : (readWant x.plan cs ≠ 0 ∧ ∃ k ∈ readCws x.plan cs, k ∉ cs.started)
      ∨ (readWant x.plan cs = 0 ∧ cs.got ≠ [] ∧ ∃ k ∈ codewordsOf x.plan.w (groupBits x.plan cs), k ∉ cs.started)) :
    copyStep x (fun _ a => accessFree x.die a) cs s = .blocked s cs := by
  rcases h with ⟨hwant, k, hk, hnew⟩ | ⟨hwant, hgot, k, hk, hnew⟩
  · obtain ⟨c, hc⟩ := Option.isSome_iff_exists.mp (List.find?_isSome.mpr
      ⟨k, hk, by simpa using hnew⟩ : ((readCws x.plan cs).find? fun k => !cs.started.contains k).isSome = true)
    have hfree := hx.slots (readAt cs) c (List.mem_append_left _ (List.mem_of_find?_eq_some hc))
    exact (copyStep_read_access hcs hx hwant hc).trans (if_neg (by rw [hfree]; decide))
  · obtain ⟨c, hc⟩ := Option.isSome_iff_exists.mp (List.find?_isSome.mpr
      ⟨k, hk, by simpa using hnew⟩ : ((codewordsOf x.plan.w (groupBits x.plan cs)).find? fun k => !cs.started.contains k).isSome = true)
    obtain ⟨b, hb, hcb⟩ := (mem_codewordsOf ..).mp (List.mem_of_find?_eq_some hc)
    obtain ⟨j, -, rfl⟩ := List.mem_map.mp hb
    have hfree := hx.slots (cs.next + j) c (List.mem_append_right _ hcb)
    exact (copyStep_write_access hcs hx hwant hgot hc).trans (if_neg (by rw [hfree]; decide))

/-- A copy that has started no access waits for its next one. -/
theorem copyStep_waits_fresh (hcs : cs.Sound) (hx : x.Slotted) (hnew : cs.started = []) (h : readWant x.plan cs ≠ 0 ∨ cs.got ≠ []) :
    copyStep x (fun _ a => accessFree x.die a) cs s = .blocked s cs := by
  refine copyStep_waits hcs hx ?_
  by_cases hwant : readWant x.plan cs = 0
  · have hgot : cs.got ≠ [] := h.resolve_left (not_not_intro hwant)
    have hb : x.plan.dst.getD (cs.next + 0) 0 ∈ groupBits x.plan cs :=
      List.mem_map_of_mem (List.mem_range.mpr (List.length_pos_iff.mpr hgot))
    exact .inr ⟨hwant, hgot, _, (mem_codewordsOf ..).mpr ⟨_, hb, div_mem_elemCws ..⟩, by rw [hnew]; exact List.not_mem_nil⟩
  · exact .inl ⟨hwant, _, div_mem_elemCws .., by rw [hnew]; exact List.not_mem_nil⟩

/-- The first element is read with those that follow it in its codewords. -/
theorem nextRun_ne_nil (hwant : readWant x.plan cs ≠ 0) : nextRun x.plan cs ≠ [] := by
  obtain ⟨n, hn⟩ := Nat.exists_eq_succ_of_ne_zero hwant
  simp [nextRun, readRun, hn, List.range_succ_eq_map]

/-- What has been read waits for its next access. -/
theorem copyStep_waits_read {vals : List (Nat × Bool)} (hcs : cs.Sound) (hx : x.Slotted) (hvals : vals ≠ []) :
    copyStep x (fun _ a => accessFree x.die a) (takeRead cs vals) s = .blocked s (takeRead cs vals) := by
  have htake : takeRead cs vals = { cs with started := [], come := [], got := cs.got ++ vals } := by
    unfold takeRead
    dsimp only
    rw [hcs.split]
    rfl
  rw [htake]
  exact copyStep_waits_fresh ⟨hcs.goes, hcs.split, hcs.owned, hcs.clean⟩ hx rfl (.inr (by simp [hvals]))

/-- A group that is written waits for the next read, or was the last. -/
theorem copyStep_waits_wrote (hcs : cs.Sound) (hx : x.Slotted) :
    copyStep x (fun _ a => accessFree x.die a) (cs.wrote x.plan) s = .blocked s (cs.wrote x.plan) := by
  by_cases hdone : (cs.wrote x.plan).done = true
  · unfold copyStep
    simp only [hdone, if_true]
  · have hlt : cs.next + cs.got.length < x.plan.total := by simpa [CopyState.wrote] using hdone
    refine copyStep_waits_fresh ⟨by simpa using hdone, hcs.split, hcs.owned, rfl⟩ hx rfl (.inl ?_)
    have hunit := hx.unit
    simp only [readWant, readAt, CopyState.wrote, hcs.split, hcs.owned, Bool.false_eq_true, if_false, List.length_nil, Option.map_none,
      Option.getD_none]
    omega


/-! ### The loop -/

theorem copyLoop_blocked {free : Bool → Nat → Bool} {cs' : CopyState} (h : copyStep x may cs s = .blocked t cs') (n : Nat) :
    copyLoop x free (n + 1) may cs s = (t, cs', none) := by
  rw [copyLoop, h]

theorem copyLoop_moved {free : Bool → Nat → Bool} {cs' : CopyState} (h : copyStep x may cs s = .moved t cs') (n : Nat) :
    copyLoop x free (n + 1) may cs s = copyLoop x free n free cs' t := by
  rw [copyLoop, h]

/-- The codewords that wait once that of `c` has been accessed: none, where the others had all been. -/
theorem find?_started_eq_none {l : List Nat} {c : Nat} {st : List Nat} :
    l.find? (fun k => !(c :: st).contains k) = none ↔ l.all (fun k => k = c || st.contains k) = true := by
  simp only [List.find?_eq_none, List.all_eq_true, List.contains_cons, Bool.not_eq_true, Bool.not_eq_false', beq_eq_decide]

section
variable (hcs : cs.Sound) (hx : x.Slotted)
include hcs hx

/-- A read that is one of several of its element starts, and the copy waits for the next. -/
theorem copyLoop_read_some (hwant : readWant x.plan cs ≠ 0) (hc : (readCws x.plan cs).find? (fun k => !cs.started.contains k) = some c)
    (hmay : may false (32 * c) = true) (hmore : ¬(readCws x.plan cs).all (fun k => k = c || cs.started.contains k) = true) (n : Nat) :
    copyLoop x (fun _ a => accessFree x.die a) (n + 3) may cs s
      = (s.floorCarry x.die false (32 * c), { cs with started := c :: cs.started }, none) := by
  rw [copyLoop_moved ((copyStep_read_access hcs hx hwant hc).trans (if_pos hmay))]
  obtain ⟨k, hk, hnew⟩ : ∃ k ∈ readCws x.plan cs, k ∉ c :: cs.started := by
    rw [← find?_started_eq_none] at hmore
    simpa using hmore
  exact copyLoop_blocked (copyStep_waits (hcs.access c) hx (.inl ⟨hwant, k, hk, hnew⟩)) _

/-- The last read of an element reads it, and what follows waits. -/
theorem copyLoop_read_last (hwant : readWant x.plan cs ≠ 0) (hc : (readCws x.plan cs).find? (fun k => !cs.started.contains k) = some c)
    (hmay : may false (32 * c) = true) (hlast : (readCws x.plan cs).all (fun k => k = c || cs.started.contains k) = true) (n : Nat) :
    copyLoop x (fun _ a => accessFree x.die a) (n + 3) may cs s
      = ((carryRun x.plan (nextRun x.plan cs) (s.floorCarry x.die false (32 * c))).1,
        takeRead { cs with started := c :: cs.started } (carryRun x.plan (nextRun x.plan cs) (s.floorCarry x.die false (32 * c))).2, none) := by
  have hcs' := hcs.access c
  rw [copyLoop_moved ((copyStep_read_access hcs hx hwant hc).trans (if_pos hmay)),
    copyLoop_moved (copyStep_read_all hcs' hx hwant (find?_started_eq_none.mpr hlast))]
  refine copyLoop_blocked (copyStep_waits_read hcs' hx ?_) n
  rw [← List.length_pos_iff, length_carryRun]
  exact List.length_pos_iff.mpr (nextRun_ne_nil hwant)

/-- A write that is one of several of its group starts, and the copy waits for the next. -/
theorem copyLoop_write_some (hwant : readWant x.plan cs = 0) (hgot : cs.got ≠ [])
    (hc : (codewordsOf x.plan.w (groupBits x.plan cs)).find? (fun k => !cs.started.contains k) = some c)
    (hmay : may true (32 * c) = true)
    (hmore : ¬(codewordsOf x.plan.w (groupBits x.plan cs)).all (fun k => k = c || cs.started.contains k) = true) (n : Nat) :
    copyLoop x (fun _ a => accessFree x.die a) (n + 3) may cs s
      = (s.floorCarry x.die true (32 * c), { cs with started := c :: cs.started }, none) := by
  rw [copyLoop_moved ((copyStep_write_access hcs hx hwant hgot hc).trans (if_pos hmay))]
  obtain ⟨k, hk, hnew⟩ : ∃ k ∈ codewordsOf x.plan.w (groupBits x.plan cs), k ∉ c :: cs.started := by
    rw [← find?_started_eq_none] at hmore
    simpa using hmore
  exact copyLoop_blocked (copyStep_waits (hcs.access c) hx (.inr ⟨hwant, hgot, k, hk, hnew⟩)) _

/-- The last write of a group writes it, and the copy waits for the next read, or is done. -/
theorem copyLoop_write_last (hwant : readWant x.plan cs = 0) (hgot : cs.got ≠ [])
    (hc : (codewordsOf x.plan.w (groupBits x.plan cs)).find? (fun k => !cs.started.contains k) = some c)
    (hmay : may true (32 * c) = true)
    (hlast : (codewordsOf x.plan.w (groupBits x.plan cs)).all (fun k => k = c || cs.started.contains k) = true) (n : Nat) :
    copyLoop x (fun _ a => accessFree x.die a) (n + 3) may cs s
      = (carryElems x.plan.w ((groupBits x.plan cs).zip cs.got)
          ((s.floorCarry x.die true (32 * c)).markWritten x.pat ((groupBits x.plan cs).headD 0 / 8)), cs.wrote x.plan, none) := by
  have hcs' := hcs.access c
  rw [copyLoop_moved ((copyStep_write_access hcs hx hwant hgot hc).trans (if_pos hmay)),
    copyLoop_moved (copyStep_write_all hcs' hx hwant hgot (find?_started_eq_none.mpr hlast))]
  exact copyLoop_blocked (copyStep_waits_wrote hcs' hx) n

end

/-! ### The copy's flight -/

theorem Cluster.flight_updFlight (c : Cluster) (idx : Nat) {f : Flight → Flight} (hf : ∀ x, (f x).idx = x.idx) :
    (c.updFlight idx f).flight idx = (c.flight idx).map f := by
  unfold Cluster.flight Cluster.updFlight
  dsimp only
  induction c.flights with
  | nil => rfl
  | cons x xs ih =>
    rw [List.map_cons, List.find?_cons, List.find?_cons]
    by_cases h : x.idx = idx
    · simp [h, hf]
    · simpa [h] using ih

/-- A phase or slot for a copy: what its loop comes to is its flight's. -/
theorem phaseCopy_eq {p : Pattern} {g idx phase : Nat} {fl : Flight} {cs' : CopyState} (hp : s.runPattern = some p)
    (hfl : (s.cl g).flight idx = some fl) (hcopy : fl.copy = some cs) (hruns : s.attemptRuns g = true)
    (hx : x = copyCtxOf p g fl.eng (s.engCtx p g fl.entry fl.deferred))
    (hloop : copyLoop x (fun _ a => accessFree x.die a) (8 * x.plan.total + 5 + 3)
      (fun w a => accessIn x.pat x.q x.die w a phase && s.floorRuns x.die w a) cs s = (t, cs', none)) (ht : t.cl g = s.cl g) :
    ((phaseCopy g fl.eng idx phase s).cl g).flight idx = some { fl with copy := some cs' } ∧ (phaseCopy g fl.eng idx phase s).mem = t.mem := by
  subst hx
  have heq : phaseCopy g fl.eng idx phase s = t.updCl g fun c => c.updFlight idx fun fl => { fl with copy := some cs' } := by
    unfold phaseCopy
    rw [hfl]
    dsimp only
    rw [if_pos rfl]
    unfold advanceCopy
    rw [hp, hfl]
    dsimp only
    rw [hcopy]
    dsimp only
    rw [if_pos hruns, hloop]
  refine ⟨?_, by rw [heq]; rfl⟩
  rw [heq, State.cl_updCl_same, Cluster.flight_updFlight _ _ (by intro x; rfl), ht, hfl]
  rfl

/-! ### Collectives -/

/-- An access of a collective that starts is the first of its started ones, in a phase or slot that its engine owns. -/
theorem CollCtx.startAccess_some {c : CollCtx} {e phase : Nat} {n n' : CollInstance} {write : Bool} {cw : Nat}
    (h : c.startAccess e phase n s = some (n', write, cw)) :
    n'.started.drop 1 = n.started ∧ accessIn c.x.pat (.stream e) (s.engineDie c.x.pat e) write (32 * cw) phase = true
      ∧ s.floorRuns (s.engineDie c.x.pat e) write (32 * cw) = true := by
  unfold CollCtx.startAccess at h
  dsimp only at h
  obtain ⟨wk, -, hwk⟩ := List.exists_of_findSome?_eq_some h
  split at hwk
  · obtain ⟨a, -, ha⟩ := Option.bind_eq_some_iff.mp hwk
    split at ha
    · next hin =>
      obtain ⟨rfl, rfl⟩ : _ ∧ _ := by simpa using ha
      simpa using hin
    · cases ha
  · cases hwk

/-- A phase or slot for a stream engine starts the access of the first collective that waits for it. -/
theorem phaseStream_first {r : RunCtx} {e phase : Nat} {pre post : List CollInstance} {n n' : CollInstance} {c : CollCtx} {write : Bool}
    {cw : Nat} (hr : s.run = some r) (hf : r.fault = none) (hcolls : r.colls = pre ++ n :: post)
    (hpre : ∀ m ∈ pre, ∀ cm, s.collCtxOf m = some cm → cm.startAccess e phase m s = none) (hc : s.collCtxOf n = some c)
    (hstart : c.startAccess e phase n s = some (n', write, cw)) :
    phaseStream e phase s = c.advance n' (s.floorCarry (s.engineDie c.x.pat e) write (32 * cw)) := by
  have hnone : pre.findSome? (fun n => (s.collCtxOf n).bind fun c => (c.startAccess e phase n s).map fun n => (c, n)) = none := by
    rw [List.findSome?_eq_none_iff]
    intro m hm
    cases hcm : s.collCtxOf m with
    | none => rfl
    | some cm => rw [Option.bind_some, hpre m hm cm hcm, Option.map_none]
  unfold phaseStream
  simp [hr, hf, hcolls, List.findSome?_append, hnone, hc, hstart]

/-- With no collective that waits for it, a phase or slot finds no occasion (log entry 3). -/
theorem phaseStream_none {r : RunCtx} {e phase : Nat} (hr : s.run = some r)
    (hnone : ∀ n ∈ r.colls, ∀ c, s.collCtxOf n = some c → c.startAccess e phase n s = none) : phaseStream e phase s = s := by
  have hfind : r.colls.findSome? (fun n => (s.collCtxOf n).bind fun c => (c.startAccess e phase n s).map fun n => (c, n)) = none := by
    rw [List.findSome?_eq_none_iff]
    intro n hn
    cases hc : s.collCtxOf n with
    | none => rfl
    | some c => rw [Option.bind_some, hnone n hn c hc, Option.map_none]
  unfold phaseStream
  simp only [hr, Option.bind_some, hfind, ite_self]

end Sys2Proof.Machine
end

section
namespace Sys2Proof.Machine

/-- Settles O38: a copy makes at most three steps in a phase or slot, of which only the first is an access, and a stream engine's access
is found collective by collective. -/
theorem phaseAccess : Obligations.PhaseAccess := by
  unfold Obligations.PhaseAccess
  refine ⟨?_, fun e idx phase s r hr hf => ⟨fun n rest c n' write cw hcolls hc hstart => ⟨?_, CollCtx.startAccess_some hstart⟩,
    fun pre n post c n' write cw hcolls hpre hc hstart => ?_, fun hnone => ?_⟩⟩
  · intro g eng idx phase s p fl cs x rd wr hp hfl heng hcopy hruns hx hdone hwhole hmiss hladle hsrc hdst hslots hrd hwr
    have hcs : cs.Sound := ⟨hdone, hwhole, hmiss, hladle⟩
    have hxs : x.Slotted := ⟨hsrc, hdst, by rw [hx]; exact groupUnit_pos (le_trans (widthBits_le _) (by decide)), hslots⟩
    have hexec : exec (.hbmPhaseAccess g (.move eng) idx phase) s = .next (phaseCopy g.val fl.eng idx phase s) := by
      rw [heng]
      rfl
    have hsame : { fl with copy := some cs } = fl := by rw [← hcopy]
    change rd = readCws x.plan cs at hrd
    change wr = codewordsOf x.plan.w (groupBits x.plan cs) at hwr
    subst hrd hwr
    refine ⟨fun c hwant hc => ⟨fun hin hruns' => ?_, fun hout => ?_⟩, fun c hwant hc => ⟨fun hin hruns' => ?_, fun hout => ?_⟩⟩
    · have hmay : (accessIn x.pat x.q x.die false (32 * c) phase && s.floorRuns x.die false (32 * c)) = true := by rw [hin, hruns']; rfl
      have hacc := s.floorCarry_accounts x.die false (32 * c)
      by_cases hlast : (readCws x.plan cs).all (fun k => k = c || cs.started.contains k) = true
      · obtain ⟨hvals, hmem⟩ := carryRun_congr hacc.mem x.plan (nextRun x.plan cs)
        obtain ⟨hflight, hmem'⟩ := phaseCopy_eq hp hfl hcopy hruns hx (copyLoop_read_last hcs hxs hwant hc hmay hlast _)
          (((carryRun_carries ..).1.cl _).trans (hacc.cl _))
        refine ⟨_, _, hexec, by rw [hflight]; rfl, ?_⟩
        rw [if_pos hlast, hvals, hmem', hmem]
        unfold takeRead
        simp only [hwhole]
        exact ⟨rfl, rfl, rfl, rfl⟩
      · obtain ⟨hflight, hmem'⟩ := phaseCopy_eq hp hfl hcopy hruns hx (copyLoop_read_some hcs hxs hwant hc hmay hlast _) (hacc.cl _)
        refine ⟨_, _, hexec, by rw [hflight]; rfl, ?_⟩
        rw [if_neg hlast]
        exact ⟨rfl, hmem'.trans hacc.mem⟩
    · have hwait := (copyStep_read_access (s := s) (may := fun w a => accessIn x.pat x.q x.die w a phase && s.floorRuns x.die w a)
        hcs hxs hwant hc).trans (if_neg (by rw [hout]; exact Bool.false_ne_true))
      obtain ⟨hflight, hmem'⟩ := phaseCopy_eq hp hfl hcopy hruns hx (copyLoop_blocked hwait _) rfl
      exact ⟨_, hexec, by rw [hflight, hsame], hmem'⟩
    · have hgot := got_ne_nil_of_access hc
      have hmay : (accessIn x.pat x.q x.die true (32 * c) phase && s.floorRuns x.die true (32 * c)) = true := by rw [hin, hruns']; rfl
      have hacc := s.floorCarry_accounts x.die true (32 * c)
      by_cases hlast : (codewordsOf x.plan.w (groupBits x.plan cs)).all (fun k => k = c || cs.started.contains k) = true
      · have hhead : (groupBits x.plan cs).headD 0 = x.plan.dst.getD cs.next 0 := by
          obtain ⟨n, hn⟩ := Nat.exists_eq_succ_of_ne_zero (mt List.length_eq_zero_iff.mp hgot)
          rw [groupBits, hn, List.range_succ_eq_map]
          rfl
        have hmark (u : State) (a : Nat) : (u.markWritten x.pat a).clusters = u.clusters ∧ (u.markWritten x.pat a).mem = u.mem := by
          rw [State.markWritten_eq]
          exact ⟨rfl, rfl⟩
        obtain ⟨hflight, hmem'⟩ := phaseCopy_eq hp hfl hcopy hruns hx (copyLoop_write_last hcs hxs hwant hgot hc hmay hlast _)
          (((carryElems_carries ..).cl _).trans ((congrArg (Tab.get Cluster.init · g.val) (hmark _ _).1).trans (hacc.cl _)))
        refine ⟨_, _, hexec, by rw [hflight]; rfl, ?_⟩
        rw [if_pos hlast]
        refine ⟨rfl, rfl, decide_eq_true_iff, hmem'.trans (carryElems_congr _ _ ?_)⟩
        rw [(hmark _ _).2, (hmark _ _).2, hacc.mem]
      · obtain ⟨hflight, hmem'⟩ := phaseCopy_eq hp hfl hcopy hruns hx (copyLoop_write_some hcs hxs hwant hgot hc hmay hlast _) (hacc.cl _)
        refine ⟨_, _, hexec, by rw [hflight]; rfl, ?_⟩
        rw [if_neg hlast]
        exact ⟨rfl, hmem'.trans hacc.mem⟩
    · have hgot := got_ne_nil_of_access hc
      have hwait := (copyStep_write_access (s := s) (may := fun w a => accessIn x.pat x.q x.die w a phase && s.floorRuns x.die w a)
        hcs hxs hwant hgot hc).trans (if_neg (by rw [hout]; exact Bool.false_ne_true))
      obtain ⟨hflight, hmem'⟩ := phaseCopy_eq hp hfl hcopy hruns hx (copyLoop_blocked hwait _) rfl
      exact ⟨_, hexec, by rw [hflight, hsame], hmem'⟩
  · exact congrArg _ (phaseStream_first (pre := []) hr hf hcolls (fun m hm => absurd hm List.not_mem_nil) hc hstart)
  · exact congrArg _ (phaseStream_first hr hf hcolls hpre hc hstart)
  · exact congrArg _ (phaseStream_none hr hnone)

end Sys2Proof.Machine
end

section
/-! SUPPORT. The issue of a queue head, and of LD and ST in particular (R76). -/

namespace Sys2Proof.Machine

variable {s s' : State} {g : Nat} {eng : Engine} {op : EngineOp} {q : QEntry} {d : Done}

/-- A head that starts is taken from its queue, performed and put in flight. -/
theorem issueHead_starts {isOp : Nat → Bool} (h : s.headStarts g eng op q s' d) (hop : isOp q.record.toNat = true) :
    issueHead g eng isOp op s = s.issuedTo g eng op q s' d := by
  obtain ⟨p, hp, hq, hruns, hready, hclash, hcheck, hlate, hbuffers, hprints, hperform⟩ := h
  have hfailing : (if (s.engCtx p g q false).fixedAll (op.descs (s.engCtx p g q false)) then op.late (s.engCtx p g q false) s
      else firstFail [op.check (s.engCtx p g q false), op.late (s.engCtx p g q false) s, op.buffers (s.engCtx p g q false)]) = none := by
    rw [hcheck, hlate, hbuffers]
    split <;> rfl
  have hbase : (s.cl (s.engCtx p g q false).g).flights.any (fun f => (op.prints (s.engCtx p g q false) s).clash f.prints) = false := hprints
  unfold issueHead
  rw [hp, hq]
  dsimp only
  rw [hruns, hop, hready, hclash]
  simp only [Bool.and_self, if_true]
  unfold startOp State.issuedTo
  dsimp only
  rw [hfailing, hbase, hperform, hp]
  rfl

/-- What the issue leaves of the flights of its cluster. -/
theorem State.flights_issuedTo : ((s.issuedTo g eng op q s' d).cl g).flights = (s'.cl g).flights
    ++ [⟨(s'.cl g).issues, eng, q, false, (s.runPattern.map fun p => op.prints (s.engCtx p g q false) s).getD Prints.none,
      d.summary, d.bank, d.tiles, (s'.cl g).cycle, d.cycles, d.permuting, d.isUpdate, d.copy, d.coll⟩] := by
  unfold State.issuedTo
  dsimp only
  rw [State.cl_updCl_same, State.cl_updSampler]
  rfl

/-- The flight put in flight has the number that its issue gave it. -/
theorem State.flight_issuedTo (hnone : (s.cl g).flight (s.cl g).issues = none) (hissues : (s'.cl g).issues = (s.cl g).issues)
    (hflights : (s'.cl g).flights = (s.cl g).flights) :
    ∃ fl, ((s.issuedTo g eng op q s' d).cl g).flight (s.cl g).issues = some fl ∧ fl.coll = d.coll := by
  unfold Cluster.flight at hnone ⊢
  rw [State.flights_issuedTo, hissues, hflights, List.find?_append, hnone]
  exact ⟨_, by simp; rfl, rfl⟩

/-- The head of LD or ST that starts goes on at once (log entry 49). -/
theorem issueMove_starts {isOp : Nat → Bool} (h : s.headStarts g eng op q s' d) (hop : isOp q.record.toNat = true)
    (hnone : (s.cl g).flight (s.cl g).issues = none) (hissues : (s'.cl g).issues = (s.cl g).issues)
    (hflights : (s'.cl g).flights = (s.cl g).flights) :
    issueMove g eng isOp op s = if d.coll.isSome then collAfterIssue g (s.cl g).issues (s.issuedTo g eng op q s' d)
      else advanceFree g (s.cl g).issues (s.issuedTo g eng op q s' d) := by
  obtain ⟨fl, hfl, hcoll⟩ := State.flight_issuedTo (eng := eng) (op := op) (q := q) (d := d) hnone hissues hflights
  unfold issueMove
  dsimp only
  rw [issueHead_starts h hop, hfl, ← hcoll]

/-- What a row of the collectives says of its command: the head of that OP issues, and its streams begin. -/
def CollectiveRow (x : (Fin 128 → MoveEngine → Instr) × Nat) : Prop :=
  ∀ (g : Fin 128) (eng : MoveEngine) (s s' : State) (p : Pattern) (q : QEntry) (d : Done),
    s.runPattern = some p → q.record.toNat % 256 = 2 → (collRecord p (q.record.toNat / 2 ^ 64 % 2 ^ 16)).op = x.2 →
    s.headStarts g.val eng.toEngine (collOp eng.toEngine) q s' d → d.coll.isSome = true →
    (s.cl g.val).flight (s.cl g.val).issues = none → (s'.cl g.val).issues = (s.cl g.val).issues →
    (s'.cl g.val).flights = (s.cl g.val).flights →
    exec (x.1 g eng) s = .next (collAfterIssue g.val (s.cl g.val).issues (s.issuedTo g.val eng.toEngine (collOp eng.toEngine) q s' d))

theorem collectiveRow {mk : Fin 128 → MoveEngine → Instr} {o : Nat}
    (hexec : ∀ g eng s, exec (mk g eng) s = .next (issueMove g.val eng.toEngine (collIs s.runPattern o) (collOp eng.toEngine) s)) :
    CollectiveRow (mk, o) := by
  intro g eng s s' p q d hp hopc hrec h hcoll hnone hissues hflights
  have hop : collIs s.runPattern o q.record.toNat = true := by
    have hid : (collRecord p (fieldOf q.record.toNat 64 16)).op = o := hrec
    unfold collIs
    rw [if_pos hopc, hp]
    simp [hid]
  exact (hexec g eng s).trans (congrArg _ ((issueMove_starts h hop hnone hissues hflights).trans (if_pos hcoll)))

end Sys2Proof.Machine
end

section
/-! SUPPORT. What a reduction computes: the chains of its chunks, and the partial results combined (R299, R300). -/

namespace Sys2Proof.Machine

/-! ### Chunks and chains -/

/-- The chunks of S follow one another from its first element to its last, so one of them holds each element. -/
theorem exists_chunk {e n i : Nat} (hn : 0 < n) (hi : i < e) : ∃ k < n, k * e / n ≤ i ∧ i < (k + 1) * e / n := by
  have hlast : i < (n - 1 + 1) * e / n := by rw [Nat.sub_add_cancel hn, Nat.mul_div_cancel_left _ hn]; exact hi
  have hex : ∃ k, i < (k + 1) * e / n := ⟨_, hlast⟩
  refine ⟨Nat.find hex, ?_, ?_, Nat.find_spec hex⟩
  · have := Nat.find_min' hex hlast
    omega
  · rcases hk : Nat.find hex with _ | k
    · simp
    · exact Nat.le_of_not_lt (Nat.find_min hex (by omega : k < Nat.find hex))

/-- The end of a chunk is where the next begins. -/
theorem CollCtx.chunk_end (c : CollCtx) (hn : 0 < c.size) (k : Nat) :
    (c.chunk k).1 = k * c.elems / c.size ∧ (c.chunk k).1 + (c.chunk k).2 = (k + 1) * c.elems / c.size := by
  have hle : k * c.elems / c.size ≤ (k + 1) * c.elems / c.size := Nat.div_le_div_right (Nat.mul_le_mul_right _ (Nat.le_succ k))
  have hmax : max 1 c.size = c.size := by omega
  unfold CollCtx.chunk
  dsimp only
  rw [hmax]
  exact ⟨rfl, by omega⟩

/-- The chunk of an element holds it. -/
theorem CollCtx.chunkOf_spec (c : CollCtx) {i : Nat} (hn : 0 < c.size) (hi : i < c.elems) :
    c.chunkOf i < c.size ∧ c.chunkOf i * c.elems / c.size ≤ i ∧ i < (c.chunkOf i + 1) * c.elems / c.size := by
  obtain ⟨k, hk, hlo, hhi⟩ := exists_chunk hn hi
  have hsome : ((List.range c.size).find? fun k => (c.chunk k).1 ≤ i && i < (c.chunk k).1 + (c.chunk k).2).isSome = true := by
    rw [List.find?_isSome]
    refine ⟨k, List.mem_range.mpr hk, ?_⟩
    rw [(c.chunk_end hn k).2, (c.chunk_end hn k).1]
    simp only [hlo, hhi, decide_true, Bool.and_self]
  obtain ⟨j, hj⟩ := Option.isSome_iff_exists.mp hsome
  have hof : c.chunkOf i = j := by
    unfold CollCtx.chunkOf
    rw [hj]
    rfl
  have hspec := List.find?_some hj
  rw [(c.chunk_end hn j).2, (c.chunk_end hn j).1, Bool.and_eq_true, decide_eq_true_eq, decide_eq_true_eq] at hspec
  rw [hof]
  exact ⟨List.mem_range.mp (List.mem_of_find?_eq_some hj), hspec⟩

/-- A member stands in the chain of a chunk where R299 names it. -/
theorem CollCtx.place_spec (c : CollCtx) {k : Nat} (hq : c.q < c.size) (hk : k < c.size) :
    c.place k < c.size ∧ c.q = if c.rec_.order then (k + 1 + c.place k) % c.size else c.place k := by
  have hmax : max 1 c.size = c.size := by omega
  unfold CollCtx.place
  rw [hmax, Nat.mod_eq_of_lt hk]
  split
  · refine ⟨Nat.mod_lt _ (by omega), ?_⟩
    rw [Nat.add_mod_mod, show k + 1 + (c.q + c.size - k + c.size - 1) = c.q + c.size + c.size by omega, Nat.add_mod_right,
      Nat.add_mod_right, Nat.mod_eq_of_lt hq]
  · exact ⟨hq, rfl⟩

/-! ### Accumulators -/

/-- An accumulator read after one of them is set. -/
theorem accGet_accPut (m : Mem) (i v j : Nat) : accGet (accPut m i v) j = if j = i then v % 2 ^ 32 else accGet m j := by
  unfold accGet accPut
  split
  · next h =>
    have hraw := m.raw_lay (4 * i) (leBytes 4 v)
    rw [leBytes_length] at hraw
    rw [h, hraw, leNat_leBytes, show 256 ^ 4 = 2 ^ 32 by decide]
  · next h =>
    congr 1
    refine List.ext_getElem? fun b => ?_
    by_cases hb : b < 4
    · rw [Mem.raw_getElem _ _ _ _ hb, Mem.raw_getElem _ _ _ _ hb, Mem.byte_lay, if_neg (by rw [leBytes_length]; omega)]
    · rw [List.getElem?_eq_none (by rw [Mem.raw_length]; omega), List.getElem?_eq_none (by rw [Mem.raw_length]; omega)]

section
variable {β : Type} (val : β → Nat)

/-- Accumulators that are not set stay. -/
theorem accGet_foldl_of_not_mem {l : List (Nat × β)} {i : Nat} (h : i ∉ l.map (·.1)) (m : Mem) :
    accGet (l.foldl (fun m v => accPut m v.1 (val v.2)) m) i = accGet m i := by
  induction l generalizing m with
  | nil => rfl
  | cons x l ih =>
    obtain ⟨hne, hnot⟩ := not_or.mp (mt List.mem_cons.mpr h)
    rw [List.foldl_cons, ih hnot, accGet_accPut, if_neg hne]

/-- Of accumulators set once each, every one holds its value. -/
theorem accGet_foldl_of_mem {l : List (Nat × β)} (hnd : (l.map (·.1)).Nodup) {x : Nat × β} (hx : x ∈ l) (m : Mem) :
    accGet (l.foldl (fun m v => accPut m v.1 (val v.2)) m) x.1 = val x.2 % 2 ^ 32 := by
  induction l generalizing m with
  | nil => cases hx
  | cons y l ih =>
    obtain ⟨hnot, hnd'⟩ := List.nodup_cons.mp hnd
    rw [List.foldl_cons]
    rcases List.mem_cons.mp hx with rfl | hx
    · rw [accGet_foldl_of_not_mem val hnot, accGet_accPut, if_pos rfl]
    · exact ih hnd' hx _

end

/-! ### Results fit their formats -/

theorem bitsOfInt_lt (w : Nat) (i : Int) : bitsOfInt w i < 2 ^ w := by
  have hpos : (0 : Int) < (2 ^ w : Nat) := Int.natCast_pos.mpr (Nat.pow_pos (by decide))
  have hlt := Int.emod_lt_of_pos i hpos
  have hge := Int.emod_nonneg i hpos.ne'
  unfold bitsOfInt
  omega

/-- A result in a format with infinities fits its bits. -/
theorem narrowFloat_lt {eb mb bias cnan : Nat} (heb : 0 < eb) (hcnan : cnan < 2 ^ (eb + mb) + 2 ^ (eb + mb)) (mode : RMode) (key : SrKey)
    (v : Num) : (narrowFloat eb mb bias .ieee cnan mode key v).bits < 2 ^ (eb + mb) + 2 ^ (eb + mb) := by
  have htop : maxFiniteBits eb mb .ieee + 1 < 2 ^ (eb + mb) := by
    have hone : 1 < 2 ^ eb := Nat.one_lt_two_pow (by omega)
    have hpos : 0 < 2 ^ mb := Nat.two_pow_pos mb
    have hmul : 0 < (2 ^ eb - 1) * 2 ^ mb := Nat.mul_pos (by omega) hpos
    have hlt : (2 ^ eb - 1) * 2 ^ mb < 2 ^ eb * 2 ^ mb := (Nat.mul_lt_mul_right hpos).mpr (by omega)
    rw [Nat.pow_add]
    simp only [maxFiniteBits]
    omega
  have hsgn (neg : Bool) : (if neg then 2 ^ (eb + mb) else 0) ≤ 2 ^ (eb + mb) := by split <;> omega
  cases v with
  | nan => exact hcnan
  | inf neg =>
    have := hsgn neg
    simp only [narrowFloat, if_true]
    omega
  | fin neg m e =>
    have := hsgn neg
    simp only [narrowFloat]
    split
    · dsimp only
      omega
    · split
      · dsimp only
        omega
      · dsimp only
        omega

/-- The FP32 result of an operation fits 32 bits. -/
theorem roundRne_fp32_lt (v : Num) : roundRne 0x0 v < 2 ^ 32 := narrowFloat_lt (eb := 8) (mb := 23) (by decide) (by decide) _ _ v

theorem narrowTo_bf16_lt (mode : RMode) (key : SrKey) (v : Num) : (narrowTo 0x1 mode key v).bits < 2 ^ 16 :=
  narrowFloat_lt (eb := 8) (mb := 7) (by decide) (by decide) _ _ v

/-- A sum limited to INT32. -/
theorem saturate_int32 (i : Int) : (saturate 32 i).1 = max (-2 ^ 31) (min (2 ^ 31 - 1) i) := rfl

/-- combine of R299, as the statements name it. -/
theorem combineColl_eq (red fmt a b : Nat) : (combineColl red fmt a b).1 = reduceStep red fmt a b := by
  unfold combineColl reduceStep
  by_cases hfmt : fmt = 0x9
  · by_cases hred : red = 0
    · simp only [hfmt, hred, if_true, saturate_int32]
    · simp only [hfmt, hred, if_true, if_false]
  · by_cases hred : red = 0
    · simp only [hfmt, hred, if_true, if_false]
      rfl
    · by_cases hmax : red = 1
      · simp only [hfmt, hmax, if_true, if_false]
        rfl
      · simp only [hfmt, hred, hmax, if_false]
        rfl

theorem reduceStep_lt (red fmt a b : Nat) : reduceStep red fmt a b < 2 ^ 32 := by
  unfold reduceStep
  split
  · exact bitsOfInt_lt ..
  · exact roundRne_fp32_lt _

/-! ### Partial results combined -/

/-- The last member's narrowing, bit for bit (R300). -/
theorem narrowColl_bits (r : CollRecord) (key : SrKey) (v : Nat) :
    (narrowColl r key v).bits = if r.fmt = 0x1 then (narrowTo 0x1 (if r.red = 0 then modeOf r.rmode else .rne) key (decodeNum 0x0 v)).bits
      else v := by
  unfold narrowColl
  split <;> rfl

theorem narrowColl_lt (r : CollRecord) (key : SrKey) {v : Nat} (h : v < 2 ^ 32) : (narrowColl r key v).bits < 2 ^ 32 := by
  rw [narrowColl_bits]
  split
  · exact (narrowTo_bf16_lt ..).trans (by decide)
  · exact h

/-- Each element that came combined with this member's own, with its linear index and whether the sum was limited. -/
def CollCtx.combined (c : CollCtx) (vals : List (Nat × Nat)) (own : List Nat) : List (Nat × Nat × Bool) :=
  (vals.zip own).map fun v => (v.1.1, combineColl c.rec_.red c.rec_.fmt v.1.2 (widenColl c.rec_.fmt v.2))

/-- The accumulators that a frame of partial results leaves: the combined elements, and narrowed those whose chain ends here. -/
theorem CollCtx.combineIn_acc (c : CollCtx) {vals : List (Nat × Nat)} {own : List Nat} {s s1 : State}
    (hread : c.readS (vals.map (·.1)) s = (s1, .ok own)) (n : CollInstance) :
    ∃ t n', c.combineIn vals n s = (t, n', none)
      ∧ n'.acc = (((c.combined vals own).filter fun v => c.isLast v.1).map fun v => (v.1, narrowColl c.rec_ (c.key v.1) v.2.1)).foldl
          (fun m v => accPut m v.1 v.2.bits) ((c.combined vals own).foldl (fun m v => accPut m v.1 v.2.1) n.acc) := by
  have hmap : (((c.combined vals own).filter fun v => c.isLast v.1).map fun v => (v.1, narrowColl c.rec_ (c.key v.1) v.2.1))
      = (((c.combined vals own).filter fun v => c.isLast v.1).map fun v => (v.1, v.2.1)).map fun v =>
        (v.1, narrowColl c.rec_ (c.key v.1) v.2) := by
    rw [List.map_map]
    rfl
  rw [hmap]
  unfold CollCtx.combineIn
  rw [hread]
  exact ⟨_, _, rfl, rfl⟩

theorem CollCtx.combined_keys (c : CollCtx) {vals : List (Nat × Nat)} {own : List Nat} (h : own.length = vals.length) :
    (c.combined vals own).map (·.1) = vals.map (·.1) := by
  have hzip : (vals.zip own).map Prod.fst = vals := List.map_fst_zip (by omega)
  conv_rhs => rw [← hzip]
  simp [CollCtx.combined]

/-- Every combined element ends in its accumulator (R299, R300). -/
theorem CollCtx.combineIn_spec (c : CollCtx) {vals : List (Nat × Nat)} {own : List Nat} {s s1 : State}
    (hread : c.readS (vals.map (·.1)) s = (s1, .ok own)) (hlen : own.length = vals.length) (hnd : (vals.map (·.1)).Nodup) (n : CollInstance) :
    ∃ t n', c.combineIn vals n s = (t, n', none) ∧ ∀ v ∈ c.combined vals own,
      accGet n'.acc v.1 = if c.isLast v.1 then (narrowColl c.rec_ (c.key v.1) v.2.1).bits % 2 ^ 32 else v.2.1 % 2 ^ 32 := by
  obtain ⟨t, n', heq, hacc⟩ := c.combineIn_acc hread n
  have hnd' : ((c.combined vals own).map (·.1)).Nodup := c.combined_keys hlen ▸ hnd
  have hlast : ((((c.combined vals own).filter fun v => c.isLast v.1).map fun v => (v.1, narrowColl c.rec_ (c.key v.1) v.2.1)).map
      (·.1)).Nodup := by
    rw [List.map_map]
    exact hnd'.sublist (List.filter_sublist.map _)
  refine ⟨t, n', heq, fun v hv => ?_⟩
  rw [hacc]
  split
  · next h => exact accGet_foldl_of_mem Conv.bits hlast (List.mem_map_of_mem (List.mem_filter.mpr ⟨hv, h⟩)) _
  · next h =>
    rw [accGet_foldl_of_not_mem Conv.bits, accGet_foldl_of_mem Prod.fst hnd' hv]
    rintro hmem
    obtain ⟨w, hw, hwv⟩ := List.mem_map.mp hmem
    obtain ⟨u, hu, rfl⟩ := List.mem_map.mp hw
    exact h (hwv ▸ (List.mem_filter.mp hu).2)

end Sys2Proof.Machine

namespace Sys2Proof.Machine

/-- Settles O18: the issue is that of any queue head, and a reduction sets each accumulator once, or once more where its chain ends. -/
theorem moveIssues : Obligations.MoveIssues := by
  unfold Obligations.MoveIssues
  refine ⟨fun g eng s s' q d hopc h hnone hissues hflights => ?_, ?_, fun c i k hn => ⟨c.chunkOf_spec hn, c.place_spec⟩, ?_⟩
  · have hcoll : d.coll = none := by
      obtain ⟨p, -, -, -, -, -, -, -, -, -, hperform⟩ := h
      have hd := congrArg Prod.snd hperform
      injection hd with hd
      rw [← hd]
      rfl
    exact congrArg _ ((issueMove_starts h (by simp [hopc]) hnone hissues hflights).trans (if_neg (by rw [hcoll]; decide)))
  · change ∀ x ∈ collectiveTable, CollectiveRow x
    simp only [collectiveTable, List.forall_mem_cons]
    exact ⟨collectiveRow fun _ _ _ => rfl, collectiveRow fun _ _ _ => rfl, collectiveRow fun _ _ _ => rfl, collectiveRow fun _ _ _ => rfl,
      collectiveRow fun _ _ _ => rfl, collectiveRow fun _ _ _ => rfl, collectiveRow fun _ _ _ => rfl, List.forall_mem_nil _⟩
  · intro c n s s1 vals own hread hlen hnd _ _
    obtain ⟨t, n', heq, hspec⟩ := c.combineIn_spec hread hlen hnd n
    refine ⟨t, n', heq, ?_⟩
    rintro j hj i r rfl hr
    have hmem : ((vals.getD j (0, 0)).1, combineColl c.rec_.red c.rec_.fmt (vals.getD j (0, 0)).2 (widenColl c.rec_.fmt (own.getD j 0)))
        ∈ c.combined vals own := by
      have hj' : j < own.length := by omega
      refine List.mem_map.mpr ⟨(vals.getD j (0, 0), own.getD j 0), List.mem_iff_getElem.mpr ⟨j, by simp [hlen, hj], ?_⟩, rfl⟩
      simp [hj, hj']
    have hr' : (combineColl c.rec_.red c.rec_.fmt (vals.getD j (0, 0)).2 (widenColl c.rec_.fmt (own.getD j 0))).1 = r := by
      rw [combineColl_eq, hr]
      rfl
    have hlt : r < 2 ^ 32 := by
      rw [hr]
      exact reduceStep_lt ..
    have h := hspec _ hmem
    dsimp only at h
    rw [hr'] at h
    rw [h, Nat.mod_eq_of_lt (narrowColl_lt _ _ hlt), Nat.mod_eq_of_lt hlt, narrowColl_bits]
    simp only [CollCtx.isLast, decide_eq_true_eq]

end Sys2Proof.Machine
end

section
/-! SUPPORT. A RUN at its start: its checks, the clusters as an attempt sets them up, and what the start leaves alone (R93, R223, R224). -/

namespace Sys2Proof.Machine

variable {s t u s1 : State} {c i : Nat} {k : Packet}

/-! ### The checks of R223 -/

theorem firstFail_orElse (b : Bool) (st : BitVec 16) (l : List (Option (BitVec 16))) :
    firstFail (orElse b st :: l) = if b then firstFail l else some st := by
  cases b <;> rfl

theorem firstFailing_cons (b : Bool) (st : BitVec 16) (l : List (Bool × BitVec 16)) :
    firstFailing ((b, st) :: l) = if b then firstFailing l else some st := by
  cases b <;> rfl

/-- The refusal of a RUN is its first failing row. -/
theorem State.runRefusal_eq (s : State) (k : Packet) (p : Pattern) : s.runRefusal k p = firstFailing (s.runRows k p) := by
  have hreceipts : k.receipts.all p.receiptOk = k.receipts.all fun b => (p.bufs[b]?).any fun e => e.kind = 1 || e.kind = 3 := by
    congr 1
    funext b
    unfold Pattern.receiptOk
    cases p.bufs[b]? <;> rfl
  have hkinds : (p.bufs.all fun b => b.kind != 4) = p.bufs.all fun b => b.kind ≠ 4 := by
    congr 1
    funext b
    simp [bne, beq_eq_decide]
  unfold State.runRefusal State.runRows
  rw [hreceipts, hkinds]
  cases s.resolveStep k p with
  | none => simp only [firstFail_orElse, firstFailing_cons, firstFail, Option.isSome_none, Bool.false_eq_true, if_false]; rfl
  | some v =>
    simp only [firstFail_orElse, firstFailing_cons, Option.isSome_some, if_true, Option.getD_some]
    rfl

/-! ### What a RUN's checks read where its body acts -/

/-- Where the body of a pour acts, everything but the ledger, the running pours, the counters and the power is as it was. -/
theorem State.startsNow.begun {op : Nat} {ks : List Nat} (h : s.startsNow s1 c op i ks k) :
    ∃ ri tr ru po cn, s1.beginAttempt c i k = { s with riser := ri, trail := tr, running := ru, power := po, cnt := cn } := by
  obtain ⟨-, -, -, -, -, -, -, hs1⟩ := h
  rw [State.enableAll_eq] at hs1
  rw [State.beginAttempt_eq, hs1]
  exact ⟨_, _, _, _, _, rfl⟩

/-- The commit slot of a handle follows from the patterns and the ledger's slots and records. -/
theorem State.Begins.patternSlot (h : s.Begins u c i k) (n : Nat) : u.patternSlot n = s.patternSlot n := by
  have hslots : u.ledger.slots = s.ledger.slots := by rw [h.ledger]
  have hprecs : u.ledger.precs = s.ledger.precs := by rw [h.ledger]
  have hcur (d : Nat) : u.curSlot d = s.curSlot d := by
    unfold State.curSlot
    rw [hslots]
  have hprec : u.precOf n = s.precOf n := by
    unfold State.precOf
    rw [hprecs]
  unfold State.patternSlot State.pattern
  simp only [h.patterns, hcur, hprec]

theorem State.Begins.stepOf (h : s.Begins u c i k) (n : Nat) : u.stepOf n = s.stepOf n := by rw [State.stepOf, h.patternSlot, State.stepOf]

theorem State.Begins.resolveStep (h : s.Begins u c i k) (p : Pattern) : u.resolveStep k p = s.resolveStep k p := by
  unfold State.resolveStep
  rw [h.patternSlot, h.stepOf]

theorem State.Begins.patternOn (h : s.Begins u c i k) (d n : Nat) : u.patternOn d n = s.patternOn d n := by
  rw [State.patternOn, State.pattern, h.patterns, State.patternOn, State.pattern]

/-- The checks of a RUN find where its body acts what they find before. -/
theorem State.startsNow.runRows {op : Nat} {ks : List Nat} (h : s.startsNow s1 c op i ks k) (p : Pattern) :
    (s1.beginAttempt c i k).runRows k p = s.runRows k p := by
  obtain ⟨ri, tr, ru, po, cn, hu⟩ := h.begun
  have htopo : topologyFits (s1.beginAttempt c i k) p = topologyFits s p := by rw [hu]; rfl
  have hmapped : (s1.beginAttempt c i k).mapped = s.mapped := by rw [hu]; rfl
  unfold State.runRows
  rw [htopo, hmapped, h.begins.resolveStep]

/-! ### Clusters one after the other -/

/-- A step for each of several clusters, each of which touches its own alone: what each of them leaves there stands. -/
theorem State.cl_foldl {f : State → Nat → State} (hother : ∀ (s : State) (h g : Nat), g ≠ h → (f s h).cl g = s.cl g) {l : List Nat}
    (hnd : l.Nodup) (s : State) (g : Nat) : (g ∉ l → (l.foldl f s).cl g = s.cl g) ∧ (g ∈ l → ∃ u, (l.foldl f s).cl g = (f u g).cl g) := by
  induction l generalizing s with
  | nil => exact ⟨fun _ => rfl, fun h => absurd h List.not_mem_nil⟩
  | cons h l ih =>
    obtain ⟨hnot, hnd'⟩ := List.nodup_cons.mp hnd
    rw [List.foldl_cons]
    refine ⟨fun hg => ?_, fun hg => ?_⟩
    · obtain ⟨hne, hg'⟩ := not_or.mp (mt List.mem_cons.mpr hg)
      rw [(ih hnd' _).1 hg', hother _ _ _ hne]
    · by_cases hgl : g ∈ l
      · exact (ih hnd' _).2 hgl
      · obtain rfl : g = h := (List.mem_cons.mp hg).resolve_right hgl
        exact ⟨s, (ih hnd' _).1 hnot⟩

/-- The state `t` is `s` but for its clusters, its memory and its accounts, with the entries of the ledger as they were. -/
structure State.SetsUp (s t : State) : Prop where
  only    : State.Accounts { s with clusters := t.clusters, mem := t.mem } t
  entries : t.ledger.entries = s.ledger.entries

theorem State.SetsUp.refl (s : State) : s.SetsUp s := ⟨State.Accounts.refl s, rfl⟩

theorem State.SetsUp.trans (h : s.SetsUp t) (h' : t.SetsUp u) : s.SetsUp u :=
  ⟨⟨h'.only.eq.trans (congrArg (fun y : State => { y with
    mem := u.mem
    clusters := u.clusters
    pins := u.pins
    riser := u.riser
    trail := u.trail
    cope := u.cope
    drag := u.drag
    power := u.power
    err := u.err
    cnt := u.cnt }) h.only.eq)⟩, h'.entries.trans h.entries⟩

theorem State.Carries.clusters (h : s.Carries t) : t.clusters = s.clusters := State.Accounts.clusters (s := { s with mem := t.mem }) h

/-- What keeps the entries and carries data sets nothing else up. -/
theorem State.Carries.setsUp (h : s.Carries t) (hw : t.ledger.entries = s.ledger.entries) : s.SetsUp t := by
  refine ⟨?_, hw⟩
  rw [h.clusters]
  exact h

theorem State.updCl_setsUp (s : State) (g : Nat) (f : Cluster → Cluster) : s.SetsUp (s.updCl g f) := ⟨⟨rfl⟩, rfl⟩
theorem State.mem_setsUp (s : State) (m : Mem) : s.SetsUp { s with mem := m } := ⟨⟨rfl⟩, rfl⟩

theorem State.SetsUp.runner (h : s.SetsUp t) : t.runner = s.runner := by rw [h.only.eq]
theorem State.SetsUp.running (h : s.SetsUp t) : t.running = s.running := by rw [h.only.eq]

theorem State.SetsUp.foldl {f : State → Nat → State} (hf : ∀ (s : State) (g : Nat), s.SetsUp (f s g)) (s : State) (l : List Nat) :
    s.SetsUp (l.foldl f s) := by
  induction l generalizing s with
  | nil => exact State.SetsUp.refl s
  | cons g l ih => exact (hf s g).trans (ih _)

/-! ### A cluster set up -/

theorem State.readMem_setsUp (s : State) (p : Option (Nat × Word64)) (d : Bool) (a n : Nat) :
    s.SetsUp (s.readMem p d a n).2 ∧ (s.readMem p d a n).2.clusters = s.clusters := by
  have hacc : State.Accounts { s with mem := (s.mem.readRange .chip a n).mem } (s.readMem p d a n).2 :=
    (State.noteAll_accounts ..).trans (State.hbmTraffic_accounts ..)
  have hwork : (s.readMem p d a n).2.work = { s.work with mem := (s.mem.readRange .chip a n).mem } :=
    (State.hbmTraffic_work ..).trans (State.noteAll_work ..)
  exact ⟨((State.carries_mem s _).trans hacc.carries).setsUp (congrArg Work.entries hwork), hacc.clusters⟩

theorem State.noteAll_setsUp (s : State) (p : Option (Nat × Word64)) (es : List MemEvent) : s.SetsUp (s.noteAll p es) :=
  (State.noteAll_accounts s p es).carries.setsUp (congrArg Work.entries (State.noteAll_work s p es))

theorem State.startTiles_setsUp (s : State) (p : Pattern) (map : BitVec 4096) (restore : Bool) (g : Nat) :
    s.SetsUp (s.startTiles p map restore g).1 ∧ (s.startTiles p map restore g).1.clusters = s.clusters := by
  unfold State.startTiles State.restoreTiles
  cases restore with
  | false => exact ⟨State.SetsUp.refl s, rfl⟩
  | true =>
    obtain ⟨htiles, hcl⟩ := s.readMem_setsUp s.runPour true ((p.copyBase map (p.saveBuffer.getD 0)).1 + p.saveOffset g) (p.keptBytes g)
    obtain ⟨hflags, hcl'⟩ := (s.readMem s.runPour true ((p.copyBase map (p.saveBuffer.getD 0)).1 + p.saveOffset g) (p.keptBytes g)).2.readMem_setsUp
      (s.readMem s.runPour true ((p.copyBase map (p.saveBuffer.getD 0)).1 + p.saveOffset g) (p.keptBytes g)).2.runPour true
      ((p.copyBase map (p.saveBuffer.getD 0)).1 + p.saveOffset g + p.keptBytes g) 32
    exact ⟨(htiles.trans hflags).trans (State.noteAll_setsUp ..), ((State.noteAll_accounts ..).clusters.trans hcl').trans hcl⟩

/-- A cluster as the attempt starts, as far as the pattern fixes it (R224). -/
structure Cluster.AtStart (d : Cluster) (p : Pattern) (g : Nat) : Prop where
  run    : d.run = .running
  used   : d.unused = false
  pc     : d.pc = BitVec.ofNat 19 (p.resOf g).entryPc
  tokens : d.tokens = Tab.get 0 p.tokens g
  dmem   : d.dmem = p.scalarImage g
  idle   : d.flights = []
  sound  : d.fault.valid = false
  queues : ∀ e, d.queue e = []

/-- A cluster that the pattern does not use, as the attempt starts (R93). -/
structure Cluster.LeftOut (d : Cluster) : Prop where
  run    : d.run = .ended
  unused : d.unused = true
  pc     : d.pc = 0
  valid  : d.fault.valid = false
  status : d.fault.status = 0

/-- A used cluster as an attempt starts, of what it was before. -/
def Cluster.started (p : Pattern) (regs : Nat → Tab Word64) (g : Nat) (tiles : Tiles) (c : Cluster) : Cluster :=
  { Cluster.init with
    run := .running
    pc := BitVec.ofNat 19 (p.resOf g).entryPc
    regs := regs g
    dmem := p.scalarImage g
    imem := Mem.zeros.lay 0 (Tab.get [] p.code g)
    codeLen := (Tab.get [] p.code g).length
    tokens := Tab.get 0 p.tokens g
    crucible := tiles.words
    satFlags := tiles.flags
    flagPoison := tiles.poison
    fault := c.fault.cleared
    gate := c.gate }

theorem Cluster.started_atStart (p : Pattern) (regs : Nat → Tab Word64) (g : Nat) (tiles : Tiles) (c : Cluster) :
    (c.started p regs g tiles).AtStart p g := ⟨rfl, rfl, rfl, rfl, rfl, rfl, rfl, fun e => by cases e <;> rfl⟩

/-- A cluster that an attempt leaves out. -/
def Cluster.leftOut (c : Cluster) : Cluster :=
  { c with run := .ended, unused := true, pc := 0, fault := c.fault.cleared, flights := [], stall := none, lending := Lending.none }

/-- The set-up of a used cluster: its kept tiles, if any, and then the cluster and its window. -/
theorem State.setupCluster_eq (s : State) (p : Pattern) (map : BitVec 4096) (restore : Bool) (regs : Nat → Tab Word64) (g : Nat) :
    ∃ u tiles m, s.SetsUp u ∧ u.clusters = s.clusters
      ∧ s.setupCluster p map restore regs g = { u.updCl g (Cluster.started p regs g tiles) with mem := m } := by
  obtain ⟨⟨u, tiles⟩, hv⟩ : ∃ v, (if p.keeps then s.startTiles p map restore g else (s, (⟨Mem.zeros, 0, false⟩ : Tiles))) = v := ⟨_, rfl⟩
  have hfirst : s.SetsUp u ∧ u.clusters = s.clusters := by
    split at hv
    · have h := s.startTiles_setsUp p map restore g
      rw [hv] at h
      exact h
    · obtain ⟨rfl, -⟩ := Prod.mk.inj hv
      exact ⟨State.SetsUp.refl s, rfl⟩
  refine ⟨u, tiles, u.mem.clear (windowBase + windowSize * g) windowUsable, hfirst.1, hfirst.2, ?_⟩
  unfold State.setupCluster
  rw [hv]
  rfl

theorem State.setupCluster_spec (s : State) (p : Pattern) (map : BitVec 4096) (restore : Bool) (regs : Nat → Tab Word64) (g : Nat) :
    s.SetsUp (s.setupCluster p map restore regs g) ∧ ((s.setupCluster p map restore regs g).cl g).AtStart p g
      ∧ ∀ h, h ≠ g → (s.setupCluster p map restore regs g).cl h = s.cl h := by
  obtain ⟨u, tiles, m, hu, hcl, heq⟩ := s.setupCluster_eq p map restore regs g
  have hcls (h : Nat) : (s.setupCluster p map restore regs g).cl h = (u.updCl g (Cluster.started p regs g tiles)).cl h := by
    rw [heq]
    rfl
  refine ⟨heq ▸ (hu.trans (State.updCl_setsUp ..)).trans (State.mem_setsUp ..), ?_, fun h hne => ?_⟩
  · rw [hcls, State.cl_updCl_same]
    exact Cluster.started_atStart ..
  · rw [hcls, State.cl_updCl, if_neg (Ne.symm hne)]
    exact congrArg (Tab.get Cluster.init · h) hcl

/-- One step of the set-up. -/
def State.setupStep (p : Pattern) (map : BitVec 4096) (restore : Bool) (regs : Nat → Tab Word64) (s : State) (g : Nat) : State :=
  if p.used.getLsbD g then s.setupCluster p map restore regs g
  else s.updCl g Cluster.leftOut

theorem State.setupStep_spec (p : Pattern) (map : BitVec 4096) (restore : Bool) (regs : Nat → Tab Word64) (s : State) (g : Nat) :
    s.SetsUp (s.setupStep p map restore regs g)
      ∧ (if p.used.getLsbD g then ((State.setupStep p map restore regs s g).cl g).AtStart p g
          else ((State.setupStep p map restore regs s g).cl g).LeftOut)
      ∧ ∀ h, h ≠ g → (State.setupStep p map restore regs s g).cl h = s.cl h := by
  unfold State.setupStep
  cases p.used.getLsbD g with
  | true => exact s.setupCluster_spec p map restore regs g
  | false =>
    simp only [Bool.false_eq_true, if_false]
    refine ⟨State.updCl_setsUp .., ?_, fun h hne => (State.cl_updCl ..).trans (if_neg (Ne.symm hne))⟩
    rw [State.cl_updCl_same]
    exact ⟨rfl, rfl, rfl, rfl, rfl⟩

/-- Every cluster as the set-up leaves it. -/
theorem State.setupClusters_spec (s : State) (p : Pattern) (map : BitVec 4096) (restore : Bool) (regs : Nat → Tab Word64) :
    s.SetsUp (s.setupClusters p map restore regs)
      ∧ ∀ g < 128, if p.used.getLsbD g then ((s.setupClusters p map restore regs).cl g).AtStart p g
          else ((s.setupClusters p map restore regs).cl g).LeftOut := by
  refine ⟨State.SetsUp.foldl (fun s g => (State.setupStep_spec p map restore regs s g).1) s _, fun g hg => ?_⟩
  obtain ⟨u, hu⟩ := (State.cl_foldl (f := State.setupStep p map restore regs)
    (fun s h g hne => (State.setupStep_spec p map restore regs s h).2.2 g hne) List.nodup_range s g).2 (List.mem_range.mpr hg)
  have hspec := (State.setupStep_spec p map restore regs u g).2.1
  rw [← hu] at hspec
  exact hspec

/-! ### The attempt set going -/

theorem State.resetSamples_accounts (s : State) (g : Nat) (f : Sampler → Sampler) : s.Accounts (s.resetSamples g f) := ⟨rfl⟩

theorem State.freshSamples_accounts (s : State) : s.Accounts s.freshSamples :=
  State.Accounts.trans ⟨rfl⟩ (State.Accounts.foldl (fun _ _ => State.Accounts.foldl (fun _ _ => State.resetSamples_accounts ..) _ _) _ _)

/-- Fresh sample buffers leave the ledger. -/
theorem State.ledger_freshSamples (s : State) : s.freshSamples.ledger = s.ledger := by
  have hlose (s : State) (l : List Nat) : (l.foldl State.loseSamples s).ledger = s.ledger := by
    induction l generalizing s with
    | nil => rfl
    | cons g l ih => exact (ih _).trans rfl
  have hall (s : State) (l : List Nat) : (l.foldl (fun s k => (s.groupOf k).foldl State.loseSamples s) s).ledger = s.ledger := by
    induction l generalizing s with
    | nil => rfl
    | cons k l ih => exact (ih _).trans (hlose _ _)
  exact (hall ..).trans rfl

/-- With no frame that waits to be relayed, a start relays nothing, and only the ports' lists of such frames are set. -/
theorem State.releaseRelays_none (h : ∀ q, (s.rport q).relays = []) :
    ∃ ps, s.releaseRelays = { s with runner := { s.runner with ports := ps } } := by
  have hfold : ∀ (l : List Nat) (s : State), (∀ q, (s.rport q).relays = []) →
      ∃ ps, l.foldl State.releasePort s = { s with runner := { s.runner with ports := ps } } := by
    intro l
    induction l with
    | nil => exact fun s _ => ⟨s.runner.ports, rfl⟩
    | cons p l ih =>
      intro s hs
      have hstep : s.releasePort p = s.updRport p fun o => { o with relays := [] } := by
        unfold State.releasePort
        rw [hs p]
        rfl
      have hnext (q : Nat) : ((s.updRport p fun o => { o with relays := [] }).rport q).relays = [] := by
        have hq := hs q
        simp only [State.rport, State.updRport, List.getD_eq_getElem?_getD, List.getElem?_modify] at hq ⊢
        cases hget : s.runner.ports[q]? with
        | none => rw [hget] at hq; split <;> exact hq
        | some o =>
          rw [hget] at hq
          split
          · rfl
          · exact hq
      obtain ⟨ps, hps⟩ := ih _ hnext
      exact ⟨ps, by rw [List.foldl_cons, hstep, hps]; rfl⟩
  unfold State.releaseRelays
  split
  · exact hfold _ s h
  · exact ⟨s.runner.ports, rfl⟩

/-- A RUN's context as its attempt starts: its own records are empty. -/
def RunCtx.fresh (r : RunCtx) : RunCtx :=
  { r with
    written := 0
    updated := false
    fault := none
    stopAt := none
    votes := []
    votedUp := false
    verdict := none
    binding := []
    instances := []
    colls := []
    nextTag := 0 }

/-- What the start of an attempt comes to, with no frame that waits to be relayed. -/
structure State.Started (s t : State) (r : RunCtx) (p : Pattern) : Prop where
  run      : t.run = some r.fresh
  votes    : t.runner.votes = s.runner.votes
  running  : t.running = s.running
  entries  : t.ledger.entries = s.ledger.entries
  clusters : ∀ g < 128, if p.used.getLsbD g then (t.cl g).AtStart p g else (t.cl g).LeftOut

/-- What follows the set-up of the clusters: their samplers, the counters of the collective table, and the attempt's own records. -/
def State.opensAttempt (u : State) (r : RunCtx) (p : Pattern) : State :=
  let s := p.usedList.foldl (fun (s : State) g => s.updSampler g fun sm =>
    { sm with base := s.cnt.regs.time, seen := 0, marked := [], owed := [] }) u
  { s.clearColl with
    kept := if p.keeps then some ⟨r.chan, r.handle, false⟩ else none
    run := some r.fresh
    runner := { s.runner with
      held := s.runner.held.filter fun h => decide (h.tag.toNat / 2 ^ 15 = r.attempt) } }.releaseRelays

theorem State.startAttempt_eq (s : State) (r : RunCtx) (p : Pattern) (k : Packet) :
    ∃ map restore regs, s.startAttempt r p k
      = (State.setupClusters { s.linesDone.freshSamples with run := some r } p map restore regs).opensAttempt r p := ⟨_, _, _, rfl⟩

/-- The records of an attempt opened leave its clusters, the running pours and the entries. -/
theorem State.opensAttempt_spec (h : ∀ q, (u.rport q).relays = []) (r : RunCtx) (p : Pattern) :
    (u.opensAttempt r p).run = some r.fresh ∧ (u.opensAttempt r p).runner.votes = u.runner.votes
      ∧ (u.opensAttempt r p).running = u.running ∧ (u.opensAttempt r p).ledger = u.ledger ∧ (u.opensAttempt r p).clusters = u.clusters := by
  have hsamplers : ∀ (l : List Nat) (s : State), ∃ x, l.foldl (fun (s : State) g => s.updSampler g fun sm =>
      { sm with base := s.cnt.regs.time, seen := 0, marked := [], owed := [] }) s = { s with cnt := x } := by
    intro l
    induction l with
    | nil => exact fun s => ⟨s.cnt, rfl⟩
    | cons g l ih =>
      intro s
      obtain ⟨x, hx⟩ := ih (s.updSampler g fun sm => { sm with base := s.cnt.regs.time, seen := 0, marked := [], owed := [] })
      exact ⟨x, hx⟩
  obtain ⟨x, hx⟩ := hsamplers p.usedList u
  unfold State.opensAttempt
  rw [hx]
  obtain ⟨ps, hps⟩ := State.releaseRelays_none (s := { State.clearColl { u with cnt := x } with
    kept := if p.keeps then some ⟨r.chan, r.handle, false⟩ else none
    run := some r.fresh
    runner := { u.runner with held := u.runner.held.filter fun h => decide (h.tag.toNat / 2 ^ 15 = r.attempt) } }) h
  dsimp only at hps ⊢
  rw [hps]
  exact ⟨rfl, rfl, rfl, rfl, rfl⟩

theorem State.startAttempt_spec (h : ∀ q, (s.rport q).relays = []) (r : RunCtx) (p : Pattern) (k : Packet) :
    s.Started (s.startAttempt r p k) r p := by
  have hfresh : s.Accounts s.linesDone.freshSamples := State.Accounts.trans ⟨rfl⟩ (State.freshSamples_accounts s.linesDone)
  obtain ⟨map, restore, regs, heq⟩ := s.startAttempt_eq r p k
  obtain ⟨hsets, hclusters⟩ := State.setupClusters_spec { s.linesDone.freshSamples with run := some r } p map restore regs
  generalize hu : State.setupClusters { s.linesDone.freshSamples with run := some r } p map restore regs = u at *
  have hrunner : u.runner = s.runner := hsets.runner.trans hfresh.runner
  have hrunning : u.running = s.running := hsets.running.trans hfresh.running
  obtain ⟨hrun, hvotes, hrunning', hledger, hcl⟩ := State.opensAttempt_spec (u := u)
    (fun q => by rw [State.rport, hrunner]; exact h q) r p
  rw [← heq] at hrun hvotes hrunning' hledger hcl
  exact {
    run := hrun
    votes := hvotes.trans (congrArg Runner.votes hrunner)
    running := hrunning'.trans hrunning
    entries := by
      rw [hledger, hsets.entries]
      exact congrArg Ledger.entries (State.ledger_freshSamples s.linesDone)
    clusters := fun g hg => by
      rw [show (s.startAttempt r p k).cl g = u.cl g from congrArg (Tab.get Cluster.init · g) hcl]
      exact hclusters g hg }

/-! ### The RUN -/

/-- The context that a RUN starts with. -/
def State.runCtx (s : State) (c i : Nat) (k : Packet) (p : Pattern) (seq : Word32) : RunCtx :=
  ⟨c, i, k.handle, s.stepOf k.handle, BitVec.ofNat 32 ((s.resolveStep k p).getD 0), k.receipts, (s.entry i).attempts % 2, seq, 0, false,
    none, none, [], false, none, [], [], [], 0⟩

/-- A RUN of several ranks counted in RUN_SEQ (R302). -/
def State.countsRun (s : State) (c i : Nat) (p : Pattern) : State :=
  if 1 < p.ranks then { s with runner := s.runner.countRun c (s.entry i).pour } else s

theorem State.countsRun_eq (s : State) (c i : Nat) (p : Pattern) :
    ∃ x, s.countsRun c i p = { s with runner := x } ∧ x.votes = s.runner.votes ∧ x.ports = s.runner.ports := by
  unfold State.countsRun Runner.countRun
  split
  · exact ⟨_, rfl, by split <;> rfl, by split <;> rfl⟩
  · exact ⟨_, rfl, rfl, rfl⟩

/-- The first attempt of a RUN, in a state with no votes of the flask and no frames that wait. -/
theorem State.firstAttempt_spec (h : ∀ q, (s.rport q).relays = []) (hv : ∀ x ∈ s.runner.votes, x.1 = false) (p : Pattern) :
    ∃ seq, s.Started (s.firstAttempt c i k p) (s.runCtx c i k p seq) p := by
  obtain ⟨x, hx, hvotes, hports⟩ := s.countsRun_eq c i p
  have hstart := State.startAttempt_spec (s := s.countsRun c i p) (fun q => by
    rw [hx, State.rport, hports]
    exact h q) ((s.countsRun c i p).runCtx c i k p (s.countsRun c i p).runner.runSeq) p k
  have hquiet : ((s.countsRun c i p).startAttempt ((s.countsRun c i p).runCtx c i k p (s.countsRun c i p).runner.runSeq) p k).runner.votes.any
      (fun h => h.1 && h.2.2.1 != ((s.countsRun c i p).startAttempt ((s.countsRun c i p).runCtx c i k p
        (s.countsRun c i p).runner.runSeq) p k).runner.runSeq) = false := by
    rw [hstart.votes, hx, hvotes, List.any_eq_false]
    intro v hvm
    simp [hv v hvm]
  have heq : s.firstAttempt c i k p = (s.countsRun c i p).startAttempt ((s.countsRun c i p).runCtx c i k p
      (s.countsRun c i p).runner.runSeq) p k := by
    refine Eq.trans (b := if 1 < p.ranks ∧ _ then _ else _) rfl (if_neg fun hc => ?_)
    exact Bool.false_ne_true (hquiet.symm.trans hc.2)
  rw [heq]
  refine ⟨x.runSeq, ?_⟩
  rw [hx] at hstart ⊢
  exact ⟨hstart.run, hstart.votes.trans hvotes, hstart.running, hstart.entries, hstart.clusters⟩

/-- RUN at a head pour that starts now, in a state that no fault of a cluster holds up. -/
theorem execRun_starts {c : Fin 64} {ks : List Nat} (h : s.startsNow s1 c.val opRun i ks k) (hks : runNeeds s (s.bodyOf i) = ks)
    (hclear : s.runClear (s.bodyOf i).handle = true) (hfaults : s.handleFaults = s) :
    execRun c s = .next ((s1.beginAttempt c.val i k).startRun c.val i k) := by
  unfold execRun
  rw [h.idle, h.1]
  dsimp only
  rw [hfaults, if_pos hclear, h.startPour hks]

/-- RUN of a loaded pattern goes by its first failing check. -/
theorem State.startRun_eq {p : Pattern} (hp : s.patternOn c k.handle = some p) {o : Option (BitVec 16)} (ho : s.runRefusal k p = o) :
    s.startRun c i k = o.elim (s.firstAttempt c i k p) fun st => s.fix c (refusedAt st (s.stepOf k.handle).toNat) := by
  unfold State.startRun
  rw [hp]
  dsimp only
  rw [ho]
  cases o <;> rfl

end Sys2Proof.Machine

namespace Sys2Proof.Machine

/-- Settles O29: the checks find where the pour's body acts what they find before, and the start sets up one cluster after the other. -/
theorem runStarts : Obligations.RunStarts := by
  unfold Obligations.RunStarts
  intro c s s1 i k p hstart hclear hfaults hp
  have hb := hstart.begins
  obtain ⟨ri, tr, ru, po, cn, hu⟩ := hstart.begun
  have hrefusal := (State.runRefusal_eq (s1.beginAttempt c.val i k) k p).trans (congrArg firstFailing (hstart.runRows p))
  have hexec : exec (.run c) s = .next ((s1.beginAttempt c.val i k).startRun c.val i k) := execRun_starts hstart rfl hclear hfaults
  rw [State.startRun_eq (by rw [hb.patternOn, hp]) hrefusal, hb.stepOf] at hexec
  generalize s1.beginAttempt c.val i k = u at *
  refine ⟨fun st hst => ?_, fun hnone hrelays hvotes => ?_⟩
  · rw [hst] at hexec
    refine ⟨_, hexec, hb.runsWith rfl (State.runningOf_fix hb.running _) rfl rfl rfl, ?_⟩
    rw [hu]
    rfl
  · rw [hnone] at hexec
    obtain ⟨seq, hrun, -, hrunning, hentries, hclusters⟩ := State.firstAttempt_spec (s := u) (c := c.val) (i := i) (k := k)
      (by rw [hu]; exact hrelays) (by rw [hu]; exact hvotes) p
    have hruns := (congrArg (Tab.get none · c.val) hrunning).trans hb.running
    refine ⟨_, _, hexec, hb.runsWith (congrArg (Tab.get Entry.free · i) hentries) hruns rfl rfl rfl, hrun, rfl, rfl, rfl, hb.stepOf k.handle,
      rfl, rfl, rfl, fun g hg hused => ?_, fun g hg hused => ?_⟩
    · have hset := hclusters g hg
      rw [if_pos hused] at hset
      exact ⟨hset.run, hset.used, hset.pc, hset.tokens, hset.dmem, hset.idle, hset.sound, hset.queues⟩
    · have hset := hclusters g hg
      rw [if_neg (by rw [hused]; decide)] at hset
      exact ⟨hset.run, hset.unused, hset.pc, hset.valid, hset.status⟩

end Sys2Proof.Machine
end

section
/-! SUPPORT. The rows of MX, DR and VX (R76), and what the matrix engine computes (R103, R105 to R107). -/

namespace Sys2Proof.Machine

/-! ### The issue of a row -/

/-- What a row of the computing engines says of its command: the head of that OPC issues, and is in flight with what its effect gave. -/
def ComputeRow (x : (Fin 128 → Instr) × Engine × Nat) : Prop :=
  ∀ (g : Fin 128) (s s' : State) (q : QEntry) (d : Done),
    q.record.toNat % 256 = x.2.2 → s.headStarts g.val x.2.1 (computeOp x.2.1 x.2.2) q s' d →
    exec (x.1 g) s = .next (s.issuedTo g.val x.2.1 (computeOp x.2.1 x.2.2) q s' d)
      ∧ (∃ fl ∈ ((s.issuedTo g.val x.2.1 (computeOp x.2.1 x.2.2) q s' d).cl g.val).flights,
          fl.eng = x.2.1 ∧ fl.entry = q ∧ fl.summary = d.summary ∧ fl.cycles = d.cycles)

theorem computeRow {mk : Fin 128 → Instr} {eng : Engine} {opc : Nat} (known : List Nat)
    (hexec : ∀ g s, exec (mk g) s = .next (issueHead g.val eng (opcIs known opc) (computeOp eng opc) s)) :
    ComputeRow (mk, eng, opc) := by
  intro g s s' q d hopc h
  refine ⟨?_, ?_⟩
  · rw [hexec, issueHead_starts h (by simp [opcIs, hopc])]
  · rw [State.flights_issuedTo]
    exact ⟨_, List.mem_append_right _ List.mem_cons_self, rfl, rfl, rfl, rfl⟩

theorem computeRow_tiles : ∀ x ∈ tileTable, ComputeRow x := by
  simp only [tileTable, List.forall_mem_cons]
  exact ⟨computeRow mxOpcs fun _ _ => rfl, computeRow mxOpcs fun _ _ => rfl, computeRow drOpcs fun _ _ => rfl,
    computeRow drOpcs fun _ _ => rfl, List.forall_mem_nil _⟩

theorem computeRow_plain : ∀ x ∈ vxPlainTable, ComputeRow x := by
  simp only [vxPlainTable, List.forall_mem_cons]
  refine ⟨?_, ?_, ?_, ?_, ?_, ?_, ?_, ?_, ?_, ?_, ?_, ?_, ?_, List.forall_mem_nil _⟩ <;> exact computeRow vxOpcs fun _ _ => rfl

theorem computeRow_curves : ∀ x ∈ vxCurveTable, ComputeRow x := by
  simp only [vxCurveTable, List.forall_mem_cons]
  refine ⟨?_, ?_, ?_, ?_, ?_, ?_, ?_, ?_, List.forall_mem_nil _⟩ <;> exact computeRow vxOpcs fun _ _ => rfl

theorem computeRow_others : ∀ x ∈ vxOtherTable, ComputeRow x := by
  simp only [vxOtherTable, List.forall_mem_cons]
  refine ⟨?_, ?_, ?_, ?_, ?_, ?_, ?_, ?_, ?_, ?_, ?_, ?_, ?_, ?_, List.forall_mem_nil _⟩ <;> exact computeRow vxOpcs fun _ _ => rfl

theorem computeRow_table : ∀ x ∈ computeTable, ComputeRow x := by
  simp only [computeTable, List.forall_mem_append]
  exact ⟨⟨⟨computeRow_tiles, computeRow_plain⟩, computeRow_curves⟩, computeRow_others⟩

/-! ### Lists by index -/

theorem List.mapIdx_map_range {α β : Type} (n : Nat) (g : Nat → α) (f : Nat → α → β) :
    ((List.range n).map g).mapIdx f = (List.range n).map fun i => f i (g i) := by
  apply List.ext_getElem <;> simp

theorem List.map_mapIdx_comp {α β γ : Type} (l : List α) (f : Nat → α → β) (g : β → γ) :
    (l.mapIdx f).map g = l.mapIdx fun i a => g (f i a) := by
  apply List.ext_getElem <;> simp

/-- The elements of a grid in row order: element (a, c) stands at a × n + c. -/
theorem List.mapIdx_grid {α β : Type} (m n : Nat) (g : Nat → Nat → α) (f : Nat → α → β) :
    ((List.range m).flatMap fun a => (List.range n).map (g a)).mapIdx f
      = (List.range m).flatMap fun a => (List.range n).map fun c => f (a * n + c) (g a c) := by
  induction m with
  | zero => rfl
  | succ m ih =>
    have hlen : ((List.range m).flatMap fun a => (List.range n).map (g a)).length = m * n := by simp [List.length_flatMap]
    simp only [List.range_succ, List.flatMap_append, List.flatMap_singleton, List.mapIdx_append, ih, hlen, List.mapIdx_map_range, Nat.add_comm]

/-! ### MATMUL -/

/-- The chain of R105, as the statements write it: over the elements as they were read. -/
theorem mxChain_word (g : MxGroup) (r : MxRec) (b : Bank) (a sv w ws : List Nat) (sc : Desc) (m n start : Nat) :
    mxChain g r b a.toArray sv.toArray w.toArray ws.toArray sc (kRed r b) m n start
      = (List.range (kRed r b)).foldl (fun acc k => mxStep g r.aFmt b.fmt r.aMx b.mx acc (a.getD (aIndex r (kRed r b) m k) 0)
          (if r.aMx then sv.getD (asIndex r sc m (k / 32)) 0 else 0)
          (w.getD (if r.orient then n * b.nW + k else k * b.nW + n) 0) (if b.mx then ws.getD (k / 32 * b.nW + n) 0 else 0)) ⟨start, 0⟩ := by
  simp only [mxChain, Array.getD_eq_getD_getElem?, List.getElem?_toArray, List.getD_eq_getElem?_getD]

/-- The words that a MATMUL leaves, tile by tile (R103). -/
theorem matmul_words {α : Type} (r : MxRec) (n nu : Nat) (chain : Nat → Nat → Nat → α) (word : α → Nat) :
    (((outPlaces r n nu).mapIdx fun i p => (p, chain i p.1 p.2.1)).map fun o => (tileBit o.1.2.2.1 o.1.2.2.2, word o.2))
      = (List.range r.m).flatMap fun m => (List.range nu).map fun c =>
          (8 * (65536 * (r.tile + m / tileHeight n) + 4 * (m % tileHeight n * n + c)), word (chain (m * nu + c) m c)) := by
  rw [List.map_mapIdx_comp]
  exact List.mapIdx_grid r.m nu _ _

theorem matmul_tiles (x : EngCtx) (s s1 : State) (r : MxRec) (a sv w ws old : List Nat) (b : Bank) (g : MxGroup) (hr : r = parseMx x.rec_)
    (hreads : matmulReads x r s = (s1, .ok (a, sv, w, ws, old))) (hb : b = (s1.cl x.g).bank r.bank) (hpre : r.preload = false)
    (hg : mxGroup r.aFmt = some g) :
    ∃ o, matmulOp.perform x s = (s1, .ok o) ∧ ∃ flags, o.tiles = some (Patch.writeAll 32 []
        ((List.range r.m).flatMap fun m => (List.range (nUsed r b)).map fun n =>
          (8 * (65536 * (r.tile + m / tileHeight (nOut r.form r.aFmt)) + 4 * (m % tileHeight (nOut r.form r.aFmt) * nOut r.form r.aFmt + n)),
            (mxChain g r b a.toArray sv.toArray w.toArray ws.toArray (x.entry.desc r.asDesc) (kRed r b) m n
              (if r.acc then old.toArray.getD (m * nUsed r b + n) 0 else if g.isInt then 0 else 0x80000000)).word)), flags) := by
  have hwords := matmul_words r (nOut r.form r.aFmt) (nUsed r b)
    (fun i m n => mxChain g r b a.toArray sv.toArray w.toArray ws.toArray (x.entry.desc r.asDesc) (kRed r b) m n
      (if r.acc then old.toArray.getD i 0 else if g.isInt then 0 else 0x80000000)) MacOut.word
  change ∃ o, matmulPerform x s = _ ∧ _
  unfold matmulPerform
  simp only [← hr, hreads, hpre, ← hb, hg, Option.getD_some, Bool.false_eq_true, if_false, hwords]
  exact ⟨_, rfl, _, rfl⟩

/-! ### One step of a chain -/

theorem mxStep_float {g : MxGroup} (hint : g.isInt = false) (h32 : g ≠ .fp32) (fa fw : Nat) (ma mw : Bool) (o : MacOut) (a as w ws : Nat) :
    (mxStep g fa fw ma mw o a as w ws).word = roundRne 0x0 ((decodeNum 0x0 o.word).add
      ((if ma then mxValue fa a as else decodeNum fa a).mul (if mw then mxValue fw w ws else decodeNum fw w))) := by
  unfold mxStep
  rw [hint, if_neg Bool.false_ne_true, if_neg h32]
  rfl

/-- The value of an operand of INT8 or UINT8. -/
def byteOperand (fmt v : Nat) : Int := if fmt = 0xC then ((v % 2 ^ 8 : Nat) : Int) else signedOf 8 v

theorem mxStep_int8 {fa fw : Nat} (hfa : fa ∈ [0xB, 0xC]) (hfw : fw ∈ [0xB, 0xC]) (ma mw : Bool) (o : MacOut) (a as w ws : Nat) :
    (mxStep .int8 fa fw ma mw o a as w ws).word
      = bitsOfInt 32 (max (-2 ^ 31) (min (2 ^ 31 - 1) (signedOf 32 o.word + byteOperand fa a * byteOperand fw w))) := by
  rw [← saturate_int32]
  simp only [List.mem_cons, List.not_mem_nil, or_false] at hfa hfw
  obtain rfl | rfl := hfa <;> obtain rfl | rfl := hfw <;> rfl

theorem mxStep_int4 (ma mw : Bool) (o : MacOut) (a as w ws : Nat) :
    (mxStep .int4 0xD 0xD ma mw o a as w ws).word
      = bitsOfInt 32 (max (-2 ^ 31) (min (2 ^ 31 - 1) (signedOf 32 o.word + signedOf 4 a * signedOf 4 w))) := by
  rw [← saturate_int32]
  rfl

end Sys2Proof.Machine
end

section
/-! SUPPORT. What the drain engine computes: DRAIN (R120 to R122) and TCLR (R118). -/

namespace Sys2Proof.Machine

/-! ### Elements read and elements stored -/

theorem Mem.length_readElems (k : MemKind) (m : Mem) (w : Nat) (addrs : List Nat) : (m.readElems k w addrs).vals.length = addrs.length := by
  unfold Mem.readElems
  dsimp only
  split <;> simp

theorem consumeTiles_length {s s1 : State} {g : Nat} {addrs vals : List Nat} (h : consumeTiles s g addrs = (s1, .ok vals)) :
    vals.length = addrs.length := by
  unfold consumeTiles at h
  dsimp only at h
  split at h <;> injection h with _ h
  · cases h
  · injection h with h
    rw [← h, Mem.length_readElems]

theorem List.zip_eq_map_range {α β : Type} {l : List α} {l' : List β} {n : Nat} (h : l.length = n) (h' : l'.length = n) (d : α) (d' : β) :
    l.zip l' = (List.range n).map fun i => (l.getD i d, l'.getD i d') := by
  subst h
  apply List.ext_getElem <;> simp +contextual [h']

theorem List.mapIdx_eq_map_range {α β : Type} {l : List α} {n : Nat} (h : l.length = n) (d : α) (f : Nat → α → β) :
    l.mapIdx f = (List.range n).map fun i => f i (l.getD i d) := by
  subst h
  apply List.ext_getElem <;> simp +contextual

/-- Without ACCUM every value is narrowed by itself (R36 to R38). -/
theorem storeAll_plain (fmt : Nat) (mode : RMode) (m : Mem) (ts : List ToStore) (p : Patch) (k : Counts) :
    (storeAll fmt false mode m p k ts).1
      = Patch.writeAll (widthBits fmt) p (ts.map fun t => (t.bit, (narrowTo fmt mode t.key t.val).bits)) := by
  induction ts generalizing p k with
  | nil => rfl
  | cons t ts ih => exact ih _ _

/-! ### DRAIN -/

/-- What a DRAIN leaves in element `i` of its destination (R120, R122). -/
def drainOutput (x : EngCtx) (r : DrRec) (words : List Nat) (sc bi : Array Nat) (i : Nat) : Nat :=
  let d := x.entry.desc r.dDesc
  let narrowed (v : Num) := (narrowTo r.outFmt (modeOf r.rmode) ⟨x.entry.seed.toNat, d.tid, (d.keyIndices x.env).getD i 0⟩ v).bits
  if r.integerPath then
    narrowed (.ofInt (if r.act = 1 then max (signedOf 32 (words.getD i 0)) 0 else signedOf 32 (words.getD i 0)))
  else if r.srcInt = false ∧ r.scaleMode = 0 ∧ r.biasMode = 0 ∧ r.act = 0 ∧ r.outFmt = 0 then words.getD i 0
  else narrowed (decodeNum 0x0 (drainValue r (sc.getD (if r.scaleMode = 2 then i % r.cols else i / r.cols) 0)
    (bi.getD (if r.biasMode = 1 then i % r.cols else i / r.cols) 0) (words.getD i 0)))

theorem drainStore_writes (x : EngCtx) (r : DrRec) (words : List Nat) (sc bi : Array Nat) (n : Nat) (s : State)
    (haccum : (x.entry.desc r.dDesc).accum = false) (hmx : r.outMx = false) (hwords : words.length = n)
    (hbits : (x.entry.desc r.dDesc).bitAddrs.length = n) (hkeys : ((x.entry.desc r.dDesc).keyIndices x.env).length = n) :
    (drainStore x r words sc bi [] s).1 = s.applyPatch (Patch.writeAll (widthBits r.outFmt) []
      ((List.range n).map fun i => ((x.entry.desc r.dDesc).bitAddrs.getD i 0, drainOutput x r words sc bi i))) := by
  have hplaces : ((x.entry.desc r.dDesc).bitAddrs.zip ((x.entry.desc r.dDesc).keyIndices x.env)).zip words = (List.range n).map fun i =>
      (((x.entry.desc r.dDesc).bitAddrs.getD i 0, ((x.entry.desc r.dDesc).keyIndices x.env).getD i 0), words.getD i 0) := by
    rw [List.zip_eq_map_range hbits hkeys 0 0, List.zip_eq_map_range (by simp) hwords (0, 0) 0]
    exact List.map_congr_left fun i hi => by simp [List.mem_range.mp hi]
  unfold drainStore drainOutput
  by_cases hint : r.integerPath = true
  · simp only [hint, if_true, haccum, storeAll_plain, hplaces, List.map_map, Function.comp_def]
  · by_cases hsame : r.srcInt = false ∧ r.scaleMode = 0 ∧ r.biasMode = 0 ∧ r.act = 0 ∧ r.outFmt = 0
    · obtain ⟨hsrc, hscale, hbias, hact, hfmt⟩ := hsame
      simp only [hint, hsrc, hscale, hbias, hact, hfmt, haccum, Bool.not_false, Bool.and_self, decide_true, if_true, Bool.false_eq_true, if_false,
        List.zip_eq_map_range hbits hwords 0 0, and_self]
      rfl
    · have hchanges : (!r.srcInt && decide (r.scaleMode = 0) && decide (r.biasMode = 0) && decide (r.act = 0) && decide (r.outFmt = 0)
          && !false) = false := by
        simpa [and_assoc] using hsame
      simp only [hint, hsame, haccum, hchanges, hmx, Bool.false_eq_true, if_false, storeAll_plain, hplaces,
        List.mapIdx_eq_map_range hwords 0, List.zip_map', List.map_map, Function.comp_def, decide_eq_true_eq]

theorem drain_performs {x : EngCtx} {s s1 s2 s3 : State} {r : DrRec} {words : List Nat} {sc bi : Array Nat} (hr : r = parseDr x.rec_)
    (haccum : (x.entry.desc r.dDesc).accum = false)
    (hwords : consumeTiles s x.g ((List.range r.rows).flatMap fun m => (List.range r.cols).map fun n => viewBit r.tile r.rowLog m n)
      = (s1, .ok words))
    (hsc : drainOperand x r.scaleDesc (if r.scaleMode = 2 then r.cols else r.rows) s1 = (s2, .ok sc))
    (hbi : drainOperand x r.biasDesc (if r.biasMode = 1 then r.cols else r.rows) s2 = (s3, .ok bi)) :
    ∃ t o, drainOp.perform x s = (t, .ok o) ∧ t.mem = (drainStore x r words sc bi [] s3).1.mem
      ∧ o.summary.getD 4 0 = BitVec.ofNat 64 (r.rows * r.cols) := by
  change ∃ t o, drainPerform x s = _ ∧ _
  unfold drainPerform
  simp only [← hr, hwords, hsc, hbi, haccum, accumBase, Bool.false_eq_true, if_false]
  exact ⟨_, _, rfl, rfl, rfl⟩

/-- drain_value of R120, each step one operation in FP32. -/
theorem drainValue_eq (r : DrRec) (sc bi w : Nat) :
    let v := if r.srcInt then roundRne 0x0 (.ofInt (signedOf 32 w)) else w
    let u := if r.scaleMode = 0 then v else roundRne 0x0 ((decodeNum 0x0 v).mul (decodeNum 0x0 (if r.scaleMode = 1 then r.scaleImm else sc)))
    drainValue r sc bi w = activation r.act (if r.biasMode = 0 then u else roundRne 0x0 ((decodeNum 0x0 u).add (decodeNum 0x0 bi))) := by
  unfold drainValue fadd fmul fpAdd fpMul
  dsimp only
  by_cases h0 : r.scaleMode = 0
  · simp only [h0, if_true, if_neg (show ¬(0 = 1) by decide)]
  · by_cases h1 : r.scaleMode = 1
    · simp only [h1, if_true, if_neg (show ¬(1 = 0) by decide)]
    · simp only [h0, h1, if_false]

/-- The three paths of a DRAIN: an integer, the words unchanged, or drain_value narrowed (R120, R122). -/
theorem drainOutput_eq {x : EngCtx} {r : DrRec} {words : List Nat} {sc bi : Array Nat} {i o : Nat}
    (hint : r.integerPath = true → o = (narrowTo r.outFmt (modeOf r.rmode)
        ⟨x.entry.seed.toNat, (x.entry.desc r.dDesc).tid, ((x.entry.desc r.dDesc).keyIndices x.env).getD i 0⟩
        (.ofInt (if r.act = 1 then max (signedOf 32 (words.getD i 0)) 0 else signedOf 32 (words.getD i 0)))).bits)
    (hsame : r.integerPath = false → r.srcInt = false ∧ r.scaleMode = 0 ∧ r.biasMode = 0 ∧ r.act = 0 ∧ r.outFmt = 0 → o = words.getD i 0)
    (hfloat : r.integerPath = false → ¬(r.srcInt = false ∧ r.scaleMode = 0 ∧ r.biasMode = 0 ∧ r.act = 0 ∧ r.outFmt = 0) →
      o = (narrowTo r.outFmt (modeOf r.rmode)
        ⟨x.entry.seed.toNat, (x.entry.desc r.dDesc).tid, ((x.entry.desc r.dDesc).keyIndices x.env).getD i 0⟩
        (decodeNum 0x0 (drainValue r (sc.getD (if r.scaleMode = 2 then i % r.cols else i / r.cols) 0)
          (bi.getD (if r.biasMode = 1 then i % r.cols else i / r.cols) 0) (words.getD i 0)))).bits) :
    drainOutput x r words sc bi i = o := by
  unfold drainOutput
  by_cases hpath : r.integerPath = true
  · rw [if_pos hpath, hint hpath]
  · rw [if_neg hpath]
    rw [Bool.not_eq_true] at hpath
    split
    case isTrue h => exact (hsame hpath h).symm
    case isFalse h => exact (hfloat hpath h).symm

/-! ### TCLR -/

theorem getLsbD_clearFlags (tiles : List Nat) (f : BitVec 64) {j : Nat} (hj : j < 64) :
    (clearFlags f tiles).getLsbD j = (f.getLsbD j && !tiles.contains j) := by
  induction tiles generalizing f with
  | nil => simp [clearFlags]
  | cons t ts ih =>
    have hbit : (f &&& ~~~(1#64 <<< t)).getLsbD j = (f.getLsbD j && !(j == t)) := by
      have hne : (decide (j < t) || !decide (j - t = 0)) = !(j == t) := by
        rw [Bool.eq_iff_iff]
        simp
        omega
      simp [hj, hne]
    change (clearFlags (f &&& ~~~(1#64 <<< t)) ts).getLsbD j = _
    rw [ih, hbit, List.contains_cons, Bool.not_or, Bool.and_assoc]

theorem DrRec.tiles_contains (r : DrRec) (j : Nat) : r.tiles.contains j = (decide (r.tile ≤ j) && decide (j < r.tile + r.tileCount)) := by
  rw [Bool.eq_iff_iff]
  simp only [DrRec.tiles, List.contains_iff_mem, List.mem_map, List.mem_range, Bool.and_eq_true, decide_eq_true_eq]
  exact ⟨by rintro ⟨i, hi, rfl⟩; omega, fun h => ⟨j - r.tile, by omega, by omega⟩⟩

theorem Tab.get_filter_of_kept {α : Type} {d : α} {p : Nat × α → Bool} {i : Nat} (hp : ∀ v, p (i, v) = true) (t : Tab α) :
    Tab.get d (t.filter p) i = Tab.get d t i := by
  induction t with
  | nil => rfl
  | cons e t ih =>
    obtain ⟨k, v⟩ := e
    by_cases hk : k = i
    · subst hk
      rw [List.filter_cons_of_pos (hp v)]
      simp only [Tab.get, if_true]
    · rw [List.filter_cons]
      split <;> simp only [Tab.get, hk, if_false, ih]

/-- The bytes outside the range that is cleared stay. -/
theorem Mem.byte_clear_outside (m : Mem) {a n b : Nat} (h : b < a ∨ a + n ≤ b) : (m.clear a n).byte b = m.byte b :=
  Tab.get_filter_of_kept (fun _ => by simp; omega) _

theorem Mem.byte_clear_eq (m : Mem) (a n b : Nat) : (m.clear a n).byte b = if a ≤ b ∧ b < a + n then 0 else m.byte b := by
  split
  case isTrue h => exact m.byte_clear h.1 h.2
  case isFalse h => exact m.byte_clear_outside (by omega)

theorem tclr_performs (x : EngCtx) (s : State) (r : DrRec) (hr : r = parseDr x.rec_) :
    ∃ t o, tclrOp.perform x s = (t, .ok o) ∧ (t.cl x.g).satFlags = clearFlags (s.cl x.g).satFlags r.tiles
      ∧ (t.cl x.g).crucible
        = if r.zero then (s.cl x.g).crucible.clear (65536 * r.tile) (65536 * r.tileCount) else (s.cl x.g).crucible := by
  change ∃ t o, tclrPerform x s = _ ∧ _
  unfold tclrPerform
  simp only [← hr]
  refine ⟨_, _, rfl, ?_, ?_⟩ <;> rw [State.cl_updCl_same]

end Sys2Proof.Machine
end

section
/-! SUPPORT. What the vector engine computes: the elementwise operations, the comparisons and NFCOUNT (R139 to R141). -/

namespace Sys2Proof.Machine

/-! ### Masked elements (R139) -/

theorem List.getElem?_foldl_set {α : Type} (val : Nat → α) (l : List Nat) (t : List α) (j : Nat) :
    (l.foldl (fun t i => t.set i (val i)) t)[j]? = if j ∈ l then t[j]?.map (fun _ => val j) else t[j]? := by
  induction l generalizing t with
  | nil => simp
  | cons i l ih =>
    rw [List.foldl_cons, ih, List.getElem?_set']
    by_cases hij : i = j
    · subst hij
      simp only [if_true, List.mem_cons_self]
      split <;> cases t[i]? <;> rfl
    · simp [hij, show ¬j = i from fun h => hij h.symm]

theorem Array.toList_foldl_setIfInBounds {α : Type} (val : Nat → α) (l : List Nat) (t : Array α) :
    (l.foldl (fun t i => t.setIfInBounds i (val i)) t).toList = l.foldl (fun t i => t.set i (val i)) t.toList := by
  induction l generalizing t with
  | nil => rfl
  | cons i l ih => simp only [List.foldl_cons, ih, Array.toList_setIfInBounds]

/-- With MASK_MODE 1 the active elements take their values over an array of zeros. -/
theorem zeroed_elements {α : Type} (n : Nat) (z : α) (act : Nat → Bool) (val : Nat → α) :
    ((((List.range n).filter act).foldl (fun t i => t.setIfInBounds i (val i)) (Array.replicate n z)).toList.mapIdx fun i v => (i, v))
      = (List.range n).map fun i => (i, if act i then val i else z) := by
  apply List.ext_getElem?
  intro j
  rw [List.getElem?_mapIdx, Array.toList_foldl_setIfInBounds, List.getElem?_foldl_set]
  by_cases hj : j < n <;> by_cases ha : act j <;> simp [hj, ha]

/-! ### The destination (R134, R137) -/

theorem storeVx_writes (x : EngCtx) (r : VxRec) (els : List (Nat × Nat)) (s : State) (hmx : r.dMx = false)
    (haccum : (x.entry.desc r.d.desc).accum = false) : ∃ k, storeVx x r els s = (s.vxWritten x r els, .ok k) := by
  unfold storeVx State.vxWritten
  by_cases h1 : r.d.kind = 1
  · simp only [h1, if_true, storeVxDesc, hmx, haccum, accumBase, Bool.false_eq_true, false_and, if_false, storeAll_plain, List.map_map,
      Function.comp_def, Array.getD_eq_getD_getElem?, List.getElem?_toArray, List.getD_eq_getElem?_getD]
    exact ⟨_, rfl⟩
  · by_cases h3 : r.d.kind = 3
    · rw [h3]
      exact ⟨_, rfl⟩
    · rw [if_neg h1, if_neg h3]
      split
      case h_1 h => exact absurd h h1
      case h_2 h => exact absurd h h3
      case h_3 => exact ⟨_, rfl⟩

/-! ### Elementwise operations -/

theorem elem_performs {x : EngCtx} {s s1 : State} {r : VxRec} {vs : List (Array Nat)} {mask : Array Bool} (fn : VxFn) (hr : r = parseVx x.rec_)
    (hread : readAll x r s = (s1, .ok (vs, mask))) (hmx : r.dMx = false) (haccum : (x.entry.desc r.d.desc).accum = false) :
    ∃ o, elemPerform fn x s = (s1.vxWritten x r (vxEls (shapeCount (vxShape x r)) r.maskZero (roundRne r.wf Machine.Num.zero)
        (fun i => mask.getD i true) fun i => (fn r.wf ((vs.getD 0 #[]).getD i 0) ((vs.getD 1 #[]).getD i 0) ((vs.getD 2 #[]).getD i 0)).1), .ok o)
      ∧ o.summary.getD 3 0 = satWord ((List.range (shapeCount (vxShape x r))).filter fun i => mask.getD i true).length := by
  unfold elemPerform
  simp only [← hr, hread, List.foldl_map, List.map_map, Function.comp_def, zeroed_elements, toWf]
  obtain ⟨k, hk⟩ := storeVx_writes x r (vxEls (shapeCount (vxShape x r)) r.maskZero (roundRne r.wf Machine.Num.zero)
    (fun i => mask.getD i true) fun i => (fn r.wf ((vs.getD 0 #[]).getD i 0) ((vs.getD 1 #[]).getD i 0) ((vs.getD 2 #[]).getD i 0)).1) s1 hmx haccum
  unfold vxEls at hk ⊢
  simp only [hk, List.length_map]
  exact ⟨_, rfl, rfl⟩

/-- An operation of both forms gives what the statements say of one. -/
theorem bothForms_eq {f : Nat → Nat → Nat → Nat} {i : Int → Int → Int} (F : Num → Num → Num) (I : Int → Int → Int)
    (hf : ∀ wf a b, f wf a b = roundRne wf (F (decodeNum wf a) (decodeNum wf b))) (hi : ∀ a b, i a b = I a b) (wf a b c : Nat) :
    (bothForms f i wf a b c).1 = vxBoth F I wf a b c := by
  unfold bothForms vxBoth
  split
  · rw [hi]
    rfl
  · exact hf wf a b

theorem signedOf_lt {w : Nat} (hw : 0 < w) (b : Nat) : signedOf w b ≤ (2 ^ (w - 1) : Nat) - 1 := by
  obtain ⟨w, rfl⟩ := Nat.exists_eq_add_of_lt hw
  have hlt := Nat.mod_lt b (Nat.two_pow_pos (w + 1))
  simp only [signedOf, Nat.zero_add, Nat.add_sub_cancel]
  generalize b % 2 ^ (w + 1) = v at hlt ⊢
  have hcast : (2 : Int) ^ (w + 1) = ((2 * 2 ^ w : Nat) : Int) := by push_cast; ring
  rw [hcast, Nat.pow_succ'] at *
  split <;> omega

theorem vxRelu_eq (wf a b c : Nat) : (vxRelu wf a b c).1 =
    if isIntCode wf then bitsOfInt (widthBits wf) (if signedOf (widthBits wf) a < 0 then 0 else signedOf (widthBits wf) a)
    else if (decodeNum wf a).isNan then canonicalNan wf else if Num.zero.lt (decodeNum wf a) then a else 0 := by
  unfold vxRelu bothForms
  by_cases hint : isIntCode wf = true
  · rw [if_pos hint, if_pos hint]
    have hle := signedOf_lt (widthBits_pos wf) a
    have hclamp : (saturate (widthBits wf) (max (signedOf (widthBits wf) a) 0)).1
        = if signedOf (widthBits wf) a < 0 then 0 else signedOf (widthBits wf) a := by
      have hpos := Nat.two_pow_pos (widthBits wf - 1)
      unfold saturate clampInt
      dsimp only
      split <;> omega
    rw [← hclamp]
    rfl
  · rw [if_neg hint, if_neg hint]

theorem vxAdd_eq : ∀ wf a b c, (vxAdd wf a b c).1 = vxBoth (fun a b => a.add b) (fun a b => a + b) wf a b c :=
  bothForms_eq _ _ (fun _ _ _ => rfl) fun _ _ => rfl
theorem vxMin_eq : ∀ wf a b c, (vxMin wf a b c).1 = vxBoth (fun a b => a.min b) (fun a b => if a ≤ b then a else b) wf a b c :=
  bothForms_eq _ _ (fun _ _ _ => rfl) fun _ _ => rfl
theorem vxMax_eq : ∀ wf a b c, (vxMax wf a b c).1 = vxBoth (fun a b => a.max b) (fun a b => if a ≤ b then b else a) wf a b c :=
  bothForms_eq _ _ (fun _ _ _ => rfl) fun _ _ => rfl
theorem vxAbs_eq : ∀ wf a b c, (vxAbs wf a b c).1 = vxBoth (fun a _ => a.abs) (fun a _ => if a < 0 then -a else a) wf a b c :=
  bothForms_eq _ _ (fun _ _ _ => rfl) fun a _ => by split <;> omega

/-- The operation of a row of the elementwise table, by the function of one element. -/
theorem vxValueTable_fn : ∀ y ∈ vxValueTable, ∃ fn : VxFn, y.1 = vxOp (elemPerform fn) ∧ ∀ wf a b c, (fn wf a b c).1 = y.2 wf a b c := by
  simp only [vxValueTable, List.forall_mem_cons]
  exact ⟨⟨vxMov, rfl, fun _ _ _ _ => rfl⟩,
    ⟨vxAdd, rfl, vxAdd_eq⟩,
    ⟨vxSub, rfl, bothForms_eq _ _ (fun _ _ _ => rfl) fun _ _ => rfl⟩,
    ⟨vxMul, rfl, bothForms_eq _ _ (fun _ _ _ => rfl) fun _ _ => rfl⟩,
    ⟨vxDiv, rfl, fun _ _ _ _ => rfl⟩,
    ⟨vxMin, rfl, vxMin_eq⟩,
    ⟨vxMax, rfl, vxMax_eq⟩,
    ⟨vxFma, rfl, fun _ _ _ _ => rfl⟩,
    ⟨vxAbs, rfl, vxAbs_eq⟩,
    ⟨vxNeg, rfl, bothForms_eq _ _ (fun _ _ _ => rfl) fun _ _ => rfl⟩,
    ⟨vxSqrt, rfl, fun _ _ _ _ => rfl⟩, ⟨vxRsqrt, rfl, fun _ _ _ _ => rfl⟩, ⟨vxRcp, rfl, fun _ _ _ _ => rfl⟩,
    ⟨vxRelu, rfl, vxRelu_eq⟩,
    ⟨vxExp, rfl, fun _ _ _ _ => rfl⟩, ⟨vxLog, rfl, fun _ _ _ _ => rfl⟩, ⟨vxGeluTanh, rfl, fun _ _ _ _ => rfl⟩,
    ⟨vxGeluErf, rfl, fun _ _ _ _ => rfl⟩, ⟨vxSilu, rfl, fun _ _ _ _ => rfl⟩, ⟨vxSigmoid, rfl, fun _ _ _ _ => rfl⟩,
    ⟨vxTanh, rfl, fun _ _ _ _ => rfl⟩, List.forall_mem_nil _⟩

/-! ### Comparisons and NFCOUNT -/

/-- The state after a comparison's results are written: to a UINT8 descriptor as they are, or to a register. -/
def State.testsWritten (s : State) (x : EngCtx) (r : VxRec) (els : List (Nat × Nat)) : State :=
  if r.d.kind = 1 then s.applyPatch (Patch.writeAll 8 [] (els.map fun e => ((x.entry.desc r.d.desc).bitAddrs.getD e.1 0, e.2)))
  else s.vxWritten x r els

theorem cmp_performs {x : EngCtx} {s s1 : State} {r : VxRec} {vs : List (Array Nat)} {mask : Array Bool} (fn : Num → Num → Bool)
    (hr : r = parseVx x.rec_) (hread : readAll x r s = (s1, .ok (vs, mask))) (hkind : r.d.kind = 1 ∨ r.d.kind = 3) :
    ∃ o, cmpPerform fn x s = (s1.testsWritten x r (vxEls (shapeCount (vxShape x r)) r.maskZero 0 (fun i => mask.getD i true) fun i =>
      if fn (decodeNum r.wf ((vs.getD 0 #[]).getD i 0)) (decodeNum r.wf ((vs.getD 1 #[]).getD i 0)) then 1 else 0), .ok o) := by
  unfold cmpPerform State.testsWritten vxEls
  simp only [← hr, hread, List.foldl_map, zeroed_elements]
  refine ⟨_, Prod.ext ?_ rfl⟩
  obtain h1 | h3 := hkind
  · simp only [h1, if_true, Array.getD_eq_getD_getElem?, List.getElem?_toArray, List.getD_eq_getElem?_getD]
  · simp only [State.vxWritten, h3, if_true]
    rfl

theorem nfcount_performs {x : EngCtx} {s s1 : State} {r : VxRec} {vs : List (Array Nat)} {mask : Array Bool} (hr : r = parseVx x.rec_)
    (hread : readAll x r s = (s1, .ok (vs, mask))) :
    ∃ o, nfcountPerform x s = (s1, .ok o) ∧ o.summary.getD 2 0 = satWord ((List.range (shapeCount (vxShape x r))).filter fun i =>
      mask.getD i true && !(decodeNum r.wf ((vs.getD 0 #[]).getD i 0)).isFinite).length := by
  unfold nfcountPerform
  simp only [← hr, hread, List.filter_filter]
  refine ⟨_, rfl, ?_⟩
  simp only [isNonfinite, Bool.and_comm]
  rfl

theorem vxTestTable_fn : ∀ y ∈ vxTestTable, y.1 = vxOp (cmpPerform y.2) := by
  simp only [vxTestTable, List.forall_mem_cons]
  exact ⟨rfl, rfl, rfl, rfl, List.forall_mem_nil _⟩

end Sys2Proof.Machine
end

section
/-! SUPPORT. What the vector engine computes: the reductions over R143's tree and COMPRESS (R142 to R144). -/

namespace Sys2Proof.Machine

/-! ### The tree of R143 -/

theorem treeSplit_eq {n k : Nat} (hlo : 2 ^ k < n) (hhi : n ≤ 2 * 2 ^ k) : treeSplit n = 2 ^ k := by
  have hpos := Nat.two_pow_pos k
  have hlog : (n - 1).log2 = k := (Nat.log2_eq_iff (by omega)).mpr ⟨by omega, by rw [Nat.pow_succ']; omega⟩
  rw [treeSplit, if_neg (by omega), hlog]

section
variable {f : Nat → Nat → Nat} {g : Nat × Nat → Nat × Nat → Nat × Nat} (hg : ∀ a b, (g a b).1 = f a.1 b.1)
include hg

/-- A node of the tree joins its halves; what else is counted on the way does not change the values. -/
theorem treeFold_node {ls : List (Option (Nat × Nat))} (h : 1 < ls.length) (fuel : Nat) :
    (treeFold g (fuel + 1) ls).map Prod.fst = joinLeaves f ((treeFold g fuel (ls.take (treeSplit ls.length))).map Prod.fst)
      ((treeFold g fuel (ls.drop (treeSplit ls.length))).map Prod.fst) := by
  rw [treeFold]
  · generalize treeFold g fuel (ls.take _) = l
    generalize treeFold g fuel (ls.drop _) = r
    cases l <;> cases r <;> simp [joinLeaves, hg]
  · rintro rfl
    simp at h
  · rintro x rfl
    simp at h

theorem treeFold_of_treeVal {l : List (Option Nat)} {o : Option Nat} (h : TreeVal f l o) :
    ∀ (fuel : Nat) (ls : List (Option (Nat × Nat))), ls.map (Option.map Prod.fst) = l → ls.length ≤ fuel →
      (treeFold g fuel ls).map Prod.fst = o := by
  induction h with
  | leaf o =>
    intro fuel ls hls hfuel
    match ls, fuel, hls, hfuel with
    | [x], _ + 1, hls, _ => exact (List.cons.inj hls).1
  | node l k a b hlo hhi _ _ iha ihb =>
    rintro fuel ls rfl hfuel
    rw [List.length_map] at hlo hhi
    have hpos := Nat.two_pow_pos k
    obtain ⟨fuel, rfl⟩ := Nat.exists_eq_add_of_lt (show 0 < fuel by omega)
    rw [Nat.zero_add, treeFold_node hg (by omega), treeSplit_eq hlo hhi]
    rw [iha fuel _ List.map_take (by rw [List.length_take]; omega), ihb fuel _ List.map_drop (by rw [List.length_drop]; omega)]

end

/-! ### Reductions -/

/-- The value of an output, from the value of its tree. -/
theorem redOne_val {f : VxRed} {wf : Nat} {leaves : List (Option Nat)} {o : Option Nat}
    (h : TreeVal (fun a b => (f.combine wf a b).1) (leaves.map (Option.map fun v => (f.leaf wf v).1)) o) :
    (redOne f wf leaves).val = o.elim (f.ident wf) (canonical wf) := by
  unfold redOne
  dsimp only
  generalize hls : leaves.map (fun o => o.map fun v => ((f.leaf wf v).1, if (f.leaf wf v).2 then 1 else 0)) = ls
  generalize hcomb : (fun (a b : Nat × Nat) => ((f.combine wf a.1 b.1).1, a.2 + b.2 + if (f.combine wf a.1 b.1).2 then 1 else 0)) = g
  have htree := treeFold_of_treeVal (g := g) (fun a b => by rw [← hcomb]) h (ls.length + 1) ls (by
    rw [← hls, List.map_map]
    exact List.map_congr_left fun o _ => by cases o <;> rfl) (by omega)
  rw [← htree]
  cases treeFold g (ls.length + 1) ls <;> rfl

theorem groupsOf_map_range {α : Type} (n k : Nat) (g : Nat → α) :
    groupsOf n k ((List.range (n * k)).map g) = (List.range k).map fun j => (List.range n).map fun q => g (j * n + q) := by
  induction k generalizing g with
  | zero => rfl
  | succ k ih =>
    have hsplit : (List.range (n * (k + 1))).map g = (List.range n).map g ++ (List.range (n * k)).map fun i => g (n + i) := by
      rw [Nat.mul_succ, Nat.add_comm, List.range_add, List.map_append, List.map_map]
      rfl
    rw [groupsOf, hsplit, List.take_left' (by simp), List.drop_left' (by simp), ih, List.range_succ_eq_map, List.map_cons, List.map_map]
    congr 1
    · simp
    · exact List.map_congr_left fun j _ => List.map_congr_left fun q _ => congrArg g (by rw [Nat.succ_mul]; omega)

/-- The outputs of a reduction, from the values of their trees. -/
theorem redOne_groups {f : VxRed} {wf nl no : Nat} {vals : Array Nat} {act : Nat → Bool} {res : List (Option Nat)} (hsize : vals.size = nl * no)
    (htree : ∀ j < no, TreeVal (fun a b => (f.combine wf a b).1) ((List.range nl).map fun q =>
      if act (j * nl + q) then some (f.leaf wf (vals.getD (j * nl + q) 0)).1 else none) (res.getD j none)) :
    ((groupsOf nl no (vals.toList.mapIdx fun i v => if act i then some v else none)).map (redOne f wf)).mapIdx (fun i o => (i, o.val))
      = (List.range no).map fun j => (j, (res.getD j none).elim (f.ident wf) (canonical wf)) := by
  have hleaves : vals.toList.mapIdx (fun i v => if act i then some v else none)
      = (List.range (nl * no)).map fun i => if act i then some (vals.getD i 0) else none := by
    rw [List.mapIdx_eq_map_range (d := 0) (by simpa using hsize)]
    simp [Array.getD_eq_getD_getElem?]
  rw [hleaves, groupsOf_map_range, List.map_map, List.mapIdx_map_range]
  refine List.map_congr_left fun j hj => Prod.ext rfl (redOne_val ?_)
  rw [List.map_map]
  refine (List.map_congr_left fun q _ => ?_ : _ = _) ▸ htree j (List.mem_range.mp hj)
  simp only [Function.comp]
  split <;> rfl

theorem red_performs {x : EngCtx} {s s1 : State} {r : VxRec} {vs : List (Array Nat)} {mask : Array Bool} (f : VxRed) {els : List (Nat × Nat)}
    (hr : r = parseVx x.rec_) (hread : readAll x r s = (s1, .ok (vs, mask)))
    (hmx : r.dMx = false) (haccum : (x.entry.desc r.d.desc).accum = false)
    (hels : ((groupsOf (shapeCount ((vxShape x r).take r.rdims)) (shapeCount ((vxShape x r).drop r.rdims))
      ((vs.getD 0 #[]).toList.mapIdx fun i v => if mask.getD i true then some v else none)).map (redOne f r.wf)).mapIdx (fun i o => (i, o.val))
        = els) :
    ∃ o, redPerform f x s = (s1.vxWritten x r els, .ok o) := by
  obtain ⟨k, hk⟩ := storeVx_writes x r els s1 hmx haccum
  unfold redPerform
  simp only [← hr, hread, hels, hk]
  exact ⟨_, rfl⟩

/-- The operation of a row of the reductions, by its leaf, combination and identity. -/
theorem vxTreeTable_red : ∀ y ∈ vxTreeTable, ∃ f : VxRed, y.1 = vxOp (redPerform f) ∧ (∀ wf v, (f.leaf wf v).1 = y.2.1 wf v)
    ∧ (∀ wf a b, (f.combine wf a b).1 = y.2.2.1 wf a b) ∧ ∀ wf, f.ident wf = y.2.2.2 wf := by
  simp only [vxTreeTable, List.forall_mem_cons]
  exact ⟨⟨rsumRed, rfl, fun _ _ => rfl, fun wf a b => vxAdd_eq wf a b 0, fun _ => rfl⟩,
    ⟨rsumsqRed, rfl, fun _ _ => rfl, fun wf a b => vxAdd_eq wf a b 0, fun _ => rfl⟩,
    ⟨rmaxRed, rfl, fun _ _ => rfl, fun wf a b => vxMax_eq wf a b 0, fun _ => rfl⟩,
    ⟨rminRed, rfl, fun _ _ => rfl, fun wf a b => vxMin_eq wf a b 0, fun _ => rfl⟩,
    ⟨ramaxRed, rfl, fun wf v => vxAbs_eq wf v 0 0, fun wf a b => vxMax_eq wf a b 0, fun _ => rfl⟩, List.forall_mem_nil _⟩

theorem vxTreeTable_performs {y : EngineOp × (Nat → Nat → Nat) × (Nat → Nat → Nat → Nat) × (Nat → Nat)} (hy : y ∈ vxTreeTable) {x : EngCtx}
    {s s1 : State} {r : VxRec} {vs : List (Array Nat)} {mask : Array Bool} {nl no : Nat} {res : List (Option Nat)} (hr : r = parseVx x.rec_)
    (hread : readAll x r s = (s1, .ok (vs, mask))) (hmx : r.dMx = false) (haccum : (x.entry.desc r.d.desc).accum = false)
    (hnl : nl = shapeCount ((vxShape x r).take r.rdims)) (hno : no = shapeCount ((vxShape x r).drop r.rdims))
    (hsize : (vs.getD 0 #[]).size = nl * no)
    (htree : ∀ j < no, TreeVal (y.2.2.1 r.wf) ((List.range nl).map fun q => if mask.getD (j * nl + q) true
      then some (y.2.1 r.wf ((vs.getD 0 #[]).getD (j * nl + q) 0)) else none) (res.getD j none)) :
    ∃ o, y.1.perform x s = (s1.vxWritten x r ((List.range no).map fun j =>
      (j, (res.getD j none).elim (y.2.2.2 r.wf) (canonical r.wf))), .ok o) := by
  obtain ⟨f, hop, hleaf, hcombine, hident⟩ := vxTreeTable_red y hy
  have hels := redOne_groups (f := f) (wf := r.wf) (act := fun i => mask.getD i true) (res := res) hsize (by
    simpa only [hleaf, hcombine] using htree)
  rw [hident] at hels
  subst hnl hno
  rw [hop]
  exact red_performs f hr hread hmx haccum hels

/-! ### COMPRESS -/

/-- COMPRESS tells how many assignments its key has, how many it keeps, how many it drops, and the first of those (R144). -/
theorem compress_performs {x : EngCtx} {s s1 s2 : State} {r : VxRec} {keys : List Nat} {mask : Array Bool} {n cap : Nat} {hits : List Nat}
    (hr : r = parseVx x.rec_) (hn : n = (x.entry.desc r.a.desc).extent 1 * r.rowDiv) (hcap : cap = (x.entry.desc r.d.desc).extent 1)
    (hkeys : consume s (x.entry.desc r.b.desc).bitAddrs 32 = (s1, .ok keys)) (hmask : readMask x r n s1 = (s2, .ok mask))
    (hhits : hits = (List.range n).filter (fun i => decide (keys.getD i 0 = x.entry.scalar r.c.pos % 2 ^ 32) && mask.getD i true)) :
    ∃ t o, compressOp.perform x s = (t, .ok o) ∧ o.summary.getD 3 0 = satWord hits.length
      ∧ o.summary.getD 4 0 = satWord (min cap hits.length) ∧ o.summary.getD 5 0 = satWord (hits.length - cap)
      ∧ o.summary.getD 6 0 = ((hits[cap]?).map (BitVec.ofNat 64)).getD (BitVec.allOnes 64) := by
  have hkept : keepRows cap (fun i => decide (keys.toArray.getD i 0 = x.entry.scalar r.c.pos % 2 ^ 32) && mask.getD i true) n
      = ⟨hits.take cap, hits.length - cap, hits[cap]?, hits.length⟩ := by
    simp only [keepRows, hhits, List.length_drop, List.head?_drop, Array.getD_eq_getD_getElem?, List.getElem?_toArray,
      List.getD_eq_getElem?_getD]
  change ∃ t o, compressPerform x s = _ ∧ _
  unfold compressPerform
  simp only [← hr, ← hn, ← hcap, hkeys, hmask, hkept]
  refine ⟨_, _, rfl, rfl, by simp [Done.plain], rfl, ?_⟩
  cases hits[cap]? <;> rfl

end Sys2Proof.Machine

namespace Sys2Proof.Machine

/-- Settles O17: the rows issue by one rule for a queue head, and what each engine computes is read off its effect: the words of a MATMUL by
their places, a DRAIN's elements one by one, the flags and words of TCLR, and the elements, trees and kept rows of VX. -/
theorem computeIssues : Obligations.ComputeIssues := by
  unfold Obligations.ComputeIssues
  refine ⟨computeRow_table, ?_, ?_, ?_, ?_, ?_, ?_⟩
  · intro x s s1 r a sv w ws old b g hr hreads hb hpre hg
    obtain ⟨o, hperform, flags, htiles⟩ := matmul_tiles x s s1 r a sv w ws old b g hr hreads hb hpre hg
    refine ⟨o, flags, hperform, htiles.trans ?_⟩
    simp only [mxChain_word, Array.getD_eq_getD_getElem?, List.getElem?_toArray, List.getD_eq_getElem?_getD]
  · intro g fa fw ma mw o a as w ws
    refine ⟨fun hint h32 => mxStep_float hint h32 .., ?_, ?_, ?_⟩
    · rintro hfa hfw va vw rfl rfl
      exact mxStep_int8 hfa hfw ..
    · rintro rfl rfl
      exact mxStep_int4 ..
    · rintro w2 w3 rfl rfl
      rfl
  · rintro x s s1 s2 s3 r d words sc bi scale bias hr rfl haccum hmx hbits hkeys hwords hsc hbi rfl rfl out hint hsame hfloat
    obtain ⟨t, o, hperform, hmem, hsum⟩ := drain_performs hr haccum hwords hsc hbi
    have hlen : words.length = r.rows * r.cols := by
      rw [consumeTiles_length hwords]
      simp [List.length_flatMap]
    refine ⟨t, o, hperform, hmem.trans ?_, hsum⟩
    rw [drainStore_writes x r words sc bi _ s3 haccum hmx hlen hbits hkeys]
    have hout : ∀ i < r.rows * r.cols, drainOutput x r words sc bi i = out i := fun i hi =>
      drainOutput_eq (hint · i hi) (hsame · · i hi) fun hpath h => by rw [hfloat hpath h i hi _ _ rfl rfl, drainValue_eq]
    congr 3
    exact List.map_congr_left fun i hi => by rw [hout i (List.mem_range.mp hi)]
  · intro x s r hr htiles
    obtain ⟨t, o, hperform, hflags, hcrucible⟩ := tclr_performs x s r hr
    refine ⟨t, o, hperform, fun j hj => ?_, fun a => ?_⟩
    · rw [hflags, getLsbD_clearFlags _ _ hj, r.tiles_contains]
    · rw [hcrucible]
      by_cases hzero : r.zero = true
      · simp only [hzero, if_true, Mem.byte_clear_eq, true_and, Nat.mul_add]
      · simp only [hzero, Bool.false_eq_true, if_false, false_and]
  · rintro x s s1 r vs mask n src act hr hread rfl rfl rfl
    refine ⟨?_, ?_, nfcount_performs hr hread, ?_⟩
    · intro y hy hmx haccum
      obtain ⟨fn, hop, hfn⟩ := vxValueTable_fn y hy
      obtain ⟨o, hperform, hsum⟩ := elem_performs fn hr hread hmx haccum
      simp only [hfn] at hperform
      exact ⟨o, by rw [hop]; exact hperform, hsum⟩
    · intro y hy hkind
      obtain ⟨o, hperform⟩ := cmp_performs y.2 hr hread hkind
      exact ⟨o, _, by rw [vxTestTable_fn y hy]; exact hperform, rfl⟩
    · rintro y hy nl no res hmx haccum hnl hno - hsize - htree
      obtain ⟨o, hperform⟩ := vxTreeTable_performs hy hr hread hmx haccum hnl hno hsize htree
      refine ⟨o, hperform.trans ?_⟩
      congr 3
      funext j
      cases res.getD j none <;> rfl
  · rintro x s s1 s2 r keys mask n cap hits hr hn hcap hkeys hmask hhits
    exact compress_performs hr hn hcap hkeys hmask hhits

end Sys2Proof.Machine
end

section
/-! SUPPORT. DEFER: how its words decode, the item that DEFER ARM makes of clean scalar data memory, and what DEFER SYNC closes
(R156 to R161, R164, Tables 8-3 to 8-5). -/

namespace Sys2Proof.Machine

variable {s u : State} {g w : Nat}

/-! ### Words -/

/-- The word of a DEFER by its OP and its FN (Table 8-3). -/
theorem coreDecode_defer {fn m : Nat} {op : CoreOp} (ho : w / 2 ^ 21 = 0x31 * 2 ^ 5 + fn) (hfn : fn < 2 ^ 5) (hm : w &&& m = 0)
    (hd : fieldOf w 26 6 = 0x31 → fieldOf w 21 5 = fn → coreDecode w = whenClear w m op) :
    coreDecode w = some op ∧ isIssueWord w = false :=
  coreDecode_masked (o := 0x31) (by omega) (by decide) (by decide) hm fun h => hd h (by rw [fieldOf, ho]; omega)

theorem coreDecode_deferArm (ho : w / 2 ^ 21 = 0x31 * 2 ^ 5) (hmid : w / 2 ^ 8 % 2 ^ 7 = 0) :
    coreDecode w = some .deferArm ∧ isIssueWord w = false :=
  coreDecode_defer (fn := 0) ho (by decide) (and_mask_eq_zero hmid) fun h h' => by rw [coreDecode, h, h']; rfl

theorem coreDecode_deferSync (ho : w / 2 ^ 21 = 0x31 * 2 ^ 5 + 1) (hhigh : w / 2 ^ 13 % 2 ^ 8 = 0) (hlow : w % 2 ^ 8 = 0) :
    coreDecode w = some .deferSync ∧ isIssueWord w = false := by
  refine coreDecode_defer (fn := 1) (m := (2 ^ 8 - 1) <<< 13 ||| (2 ^ 8 - 1) <<< 0) ho (by decide)
    (and_or_mask_eq_zero (and_mask_eq_zero hhigh) (and_mask_eq_zero ?_)) fun h h' => by rw [coreDecode, h, h']; rfl
  rw [Nat.pow_zero, Nat.div_one, hlow]

/-! ### The item of a header -/

/-- A header with its reserved bits zero, at least one step, and its steps aligned and within scalar data memory (R157). -/
theorem parseHeader_ok {v : Nat} (hhigh : v / 2 ^ 128 = 0) (hmid : v / 2 ^ 22 % 2 ^ 42 = 0) (hsteps : 0 < v / 2 ^ 16 % 2 ^ 6)
    (halign : v % 2 ^ 16 % 64 = 0) (hin : v % 2 ^ 16 + 64 * (v / 2 ^ 16 % 2 ^ 6) ≤ 0x10000) : (parseHeader v).ok = true := by
  have hreserved : (parseHeader v).reserved = 0 := by
    change v / 2 ^ 128 % 2 ^ 384 + v / 2 ^ 22 % 2 ^ 42 = 0
    rw [hhigh, hmid, Nat.zero_mod]
  have hfirst : (parseHeader v).first = v % 2 ^ 16 := fieldOf_zero v 16
  have hcount : (parseHeader v).steps = v / 2 ^ 16 % 2 ^ 6 := rfl
  simp only [ItemHeader.ok, hreserved, hfirst, hcount, Bool.and_eq_true, bne_iff_ne, decide_eq_true_eq]
  exact ⟨⟨⟨trivial, Nat.ne_of_gt hsteps⟩, halign⟩, hin⟩

/-- The records of an item in clean scalar data memory always make its entries, and reading them changes nothing. -/
theorem itemEntries_chk_nil (p : Pattern) (pc drMap first : Nat) (seed : Nat → Nat → Word64) (n j : Nat) (acc : List QEntry)
    (h : (s.cl g).dmem.chk = []) : ∃ u qs, itemEntries p g pc drMap first seed n j acc s = (u, .ok qs) ∧ s.Rereads u g := by
  induction n generalizing s j acc with
  | zero => exact ⟨s, acc, rfl, State.Rereads.refl s g⟩
  | succ n ih =>
    obtain ⟨u, q, hentry, hu, -⟩ := makeEntry_chk_nil h p (stepEngine drMap j) true pc (first + 64 * j) (seed j)
    obtain ⟨v, qs, hrest, hv⟩ := ih (s := u) (j + 1) (acc ++ [q]) (by rw [hu.cl, h])
    refine ⟨v, qs, ?_, hu.trans hv⟩
    rw [itemEntries, hentry]
    exact hrest

/-- An item as it is armed: the steps of its header and the guard of its ARM, with no step issued. -/
structure ArmedItem.FromHeader (i : ArmedItem) (h : ItemHeader) (guard : Option Nat) : Prop where
  steps    : i.steps = h.steps
  drMap    : i.drMap = BitVec.ofNat 64 h.drMap
  first    : i.first = h.first
  guard    : i.guard = guard
  next     : i.next = 0
  finished : i.finished = false

/-! ### DEFER ARM -/

/-- An item armed outside a lending period opens one and is its only item (R161). -/
theorem Cluster.arm_opens {c : Cluster} (h : c.lending = Lending.none) (i : ArmedItem) :
    (c.arm i).lending.active = true ∧ (c.arm i).lending.items = [i] := by
  unfold Cluster.arm
  rw [h]
  exact ⟨rfl, rfl⟩

/-- DEFER ARM outside a lending period arms the item of its header, where the header is well formed and scalar data memory reads clean. -/
theorem deferArmBody_arms {pc w1 a : Nat} {p : Pattern} {h : ItemHeader} (hp : s.runPattern = some p)
    (ha : ((s.cl g).reg (w / 2 ^ 16 % 32)).toNat = a) (hline : lineOk a = true) (hchk : (s.cl g).dmem.chk = [])
    (hlend : (s.cl g).lending = Lending.none) (hh : parseHeader (leNat ((s.cl g).dmem.raw a 64)) = h) (hok : h.ok = true) :
    ∃ v i, deferArmBody ⟨g, pc, w, w1⟩ (s.fetched g) = .retire (v.updCl g fun c => c.arm i) (pc + 4) ∧ s.Rereads v g
      ∧ i.FromHeader h (if w.testBit 15 then some (w % 256) else none) := by
  have hr : s.Rereads ((s.fetched g).fetched g) g := (State.Rereads.refl s g).fetch.fetch
  have haddr : ((s.cl g).reg (CoreArgs.xa ⟨g, pc, w, w1⟩)).toNat = a := ha
  have hpattern : (s.fetched g).runPattern = some p := hp
  have hheader := consumeScalar_chk_nil (s := s.fetched g) (g := g) (by rw [State.fetched_cl, hchk]) a 64
  rw [State.fetched_cl] at hheader
  obtain ⟨v, qs, hsteps, hv⟩ := itemEntries_chk_nil (s := (s.fetched g).fetched g) p pc h.drMap h.first (fun _ => (s.cl g).reg)
    h.steps 0 [] (by rw [hr.cl, hchk])
  unfold deferArmBody
  simp only [State.fetched_cl, haddr, hline, hlend, hpattern, hheader, hh, hok, hsteps, fieldOf_zero]
  exact ⟨v, _, rfl, hr.trans hv, rfl, rfl, rfl, rfl, rfl, rfl⟩

/-! ### DEFER SYNC -/

/-- The close of a lending period, with the deferred summary written to slot n where it is asked for (Table 8-5). -/
def Cluster.deferClosed (c : Cluster) (sum : Bool) (n : Nat) : Cluster :=
  (if sum then c.setSlot n ⟨true, c.lending.sums.map satWord⟩ else c).closeLending

theorem Cluster.sameStep_deferClosed (c : Cluster) (sum : Bool) (n : Nat) : c.SameStep (c.deferClosed sum n) := by
  cases sum <;> exact ⟨rfl, rfl, rfl⟩

/-- A lending period of which every item has completed has none open. -/
theorem Lending.open_of_finished {l : Lending} (h : ∀ i ∈ l.items, i.finished = true) : l.open_ = [] := by
  rw [Lending.open_, List.filter_eq_nil_iff]
  intro i hi
  simp [h i hi]

/-- DEFER SYNC goes on where every item has completed and the slot it writes is valid. -/
theorem deferSyncBody_closes {pc w1 : Nat} (hdone : ∀ i ∈ (s.cl g).lending.items, i.finished = true)
    (hslot : w.testBit 12 = true → ((s.cl g).slot (w / 2 ^ 8 % 16)).valid = true) :
    deferSyncBody ⟨g, pc, w, w1⟩ (s.fetched g)
      = .retire ((s.fetched g).updCl g fun c => c.deferClosed (w.testBit 12) (w / 2 ^ 8 % 16)) (pc + 4) := by
  unfold deferSyncBody Cluster.deferClosed
  simp only [State.fetched_cl, Lending.open_of_finished hdone]
  cases hsum : w.testBit 12 with
  | false => rfl
  | true => exact if_pos (hslot hsum)

end Sys2Proof.Machine

namespace Sys2Proof.Machine

/-- Settles O16: the item that clean memory gives opens the lending period, and a period with none open is closed. -/
theorem deferOpensAndCloses : Obligations.DeferOpensAndCloses := by
  unfold Obligations.DeferOpensAndCloses
  intro g s w p hruns hp
  refine ⟨fun hw hmid halign hlt hchk hlend hhigh hres hsteps hfirst hin _ => ?_, fun hw hhigh hlow hdone hslot => ⟨_, rfl, ?_⟩⟩
  · obtain ⟨hd, hi⟩ := coreDecode_deferArm hw hmid
    obtain ⟨v, i, hbody, hv, hitem⟩ := deferArmBody_arms (pc := (s.cl g.val).pc.toNat) (w1 := 0) hp rfl
      (lineOk_of_aligned halign hlt) hchk hlend rfl (parseHeader_ok hhigh hres hsteps hfirst hin)
    obtain ⟨⟨hrest, hcl, -⟩, -⟩ := coreRun_retires g.isLt hruns hi hd hbody (hv.only.updCl fun c => c.arm i) hv.cnt ⟨rfl, rfl, rfl⟩
    obtain ⟨hactive, hitems⟩ := Cluster.arm_opens hlend i
    refine ⟨_, i, rfl, ?_, ?_, hitem.steps, ?_, hitem.first.trans (fieldOf_zero ..), hitem.guard, hitem.next, hitem.finished, ?_, ?_, ?_⟩
    · rw [hcl]
      exact hactive
    · rw [hcl]
      exact hitems
    · rw [hitem.drMap, BitVec.toNat_ofNat]
      exact Nat.mod_mod ..
    · rw [hcl]
      rfl
    · rw [hcl]
      rfl
    · rw [hrest]
  · obtain ⟨hd, hi⟩ := coreDecode_deferSync hw hhigh hlow
    exact coreRun_retires g.isLt hruns hi hd (deferSyncBody_closes hdone hslot) ((s.onlyCluster_fetch g.val).updCl _) rfl
      (Cluster.sameStep_deferClosed ..)

end Sys2Proof.Machine
end

section
/-! SUPPORT. Pours whose outcome is fixed at their start (log entry 51): the command of each comes to one outcome fixed where its attempt
has begun, and nothing but the ledger, the running pours and the accounts is touched. -/

namespace Sys2Proof.Machine

variable {s s1 : State} {i : Nat} {k : Packet} {c : Fin 64}

/-- With no packet bound on its channel, a channel opcode has nothing to accept. -/
theorem State.acceptOp_of_noneBound {d : Nat} (h : s.noneBound d) (op : Nat) : s.acceptOp d op = s := by
  unfold State.acceptOp
  rw [show (s.intake.bound.find? fun b => b.packet.chan = d) = none from h]

/-- The beginning of a pour's attempt leaves the memory and the channels' volatile records. -/
theorem State.startsNow.begun_leaves {d op : Nat} {ks : List Nat} (h : s.startsNow s1 d op i ks k) :
    (s1.beginAttempt d i k).mem = s.mem ∧ (s1.beginAttempt d i k).chans = s.chans := by
  obtain ⟨ri, tr, ru, po, cn, hu⟩ := h.begun
  rw [hu]
  exact ⟨rfl, rfl⟩

theorem State.startsNow.vchan {d op : Nat} {ks : List Nat} (h : s.startsNow s1 d op i ks k) (e : Nat) :
    (s1.beginAttempt d i k).vchan e = s.vchan e :=
  congrArg (Tab.get Chan.init · e) h.begun_leaves.2

/-- A command that fixes an outcome where the attempt has begun leaves the pour running with it, and memory and channels as they were. -/
theorem State.startsNow.fixes {op : Nat} {ks : List Nat} (h : s.startsNow s1 c.val op i ks k) {x : Instr} {o : PourOutcome}
    (hx : exec x s = .next ((s1.beginAttempt c.val i k).fix c.val o)) :
    ∃ t, exec x s = .next t ∧ t.runsWith s c.val i k (some o) ∧ t.mem = s.mem ∧ t.chans = s.chans := by
  obtain ⟨hmem, hchans⟩ := h.begun_leaves
  exact ⟨_, hx, h.begins.fix rfl rfl o, hmem, hchans⟩

/-! ### Channels (R198 to R201, R221) -/

theorem execChannelOpen_completes (hn : s.noneBound c.val) (h : s.startsNow s1 c.val 0x01 i [] k) :
    exec (.channelOpen c) s = .next ((s1.beginAttempt c.val i k).fix c.val (completed stOk 0 .nothing)) := by
  refine congrArg Host.Outcome.next ?_
  rw [State.acceptOp_of_noneBound hn]
  exact h.startPour (needs := noNeeds) rfl _

theorem execChannelAdopt_completes (hn : s.noneBound c.val) (h : s.startsNow s1 c.val 0x03 i [] k) :
    exec (.channelAdopt c) s
      = .next ((s1.beginAttempt c.val i k).fix c.val (completed stOk (s.vchan c.val).adoptCopies .nothing)) := by
  refine congrArg Host.Outcome.next ?_
  rw [State.acceptOp_of_noneBound hn, ← h.vchan]
  exact h.startPour (needs := noNeeds) rfl _

/-- The outcome of a close is its teardown's to fix. -/
theorem execChannelClose_begins (hn : s.noneBound c.val) (h : s.startsNow s1 c.val 0x02 i [] k) :
    exec (.channelClose c) s = .next (s1.beginAttempt c.val i k) := by
  refine congrArg Host.Outcome.next ?_
  rw [State.acceptOp_of_noneBound hn]
  exact h.startPour (needs := noNeeds) rfl _

/-! ### Patterns and step sizes (R175, R193, R222, R225) -/

theorem execPatternUnload_fixes (h : s.startsNow s1 c.val 0x11 i [] k) :
    exec (.patternUnload c) s = .next ((s1.beginAttempt c.val i k).fix c.val
      (if (s.patternOn c.val k.handle).isSome then completed stOk 0 (.unload k.handle) else refusedAt 0x0201 0)) := by
  refine congrArg Host.Outcome.next ?_
  rw [← h.begins.patternOn]
  exact h.startPour (needs := noNeeds) rfl _

theorem execSetStepSize_fixes (h : s.startsNow s1 c.val 0x22 i [] k) :
    exec (.setStepSize c) s = .next ((s1.beginAttempt c.val i k).fix c.val
      (if (s.patternOn c.val k.handle).isNone then refusedAt 0x0201 0
        else if stepSizeOk (fieldOf k.pay 0 32) then
          completed stOk (s.stepOf k.handle).toNat (.stepSize k.handle (BitVec.ofNat 32 (fieldOf k.pay 0 32)))
        else refusedAt 0x0209 (s.stepOf k.handle).toNat)) := by
  refine congrArg Host.Outcome.next ?_
  rw [← h.begins.patternOn, ← h.begins.stepOf]
  exact h.startPour (needs := noNeeds) rfl _

/-! ### The accumulator of energy, and a leave outside a flask (R232, R347) -/

theorem execEnergyRead_completes (h : s.startsNow s1 c.val 0x41 i [] k) :
    exec (.energyRead c) s = .next ((s1.beginAttempt c.val i k).fix c.val ⟨stOk, (s.chan c.val).energy, true, .nothing⟩) := by
  refine congrArg Host.Outcome.next ?_
  rw [← h.begins.chan]
  exact h.startPour (needs := noNeeds) rfl _

theorem State.leaveBody_outside {u : State} (h : u.runner.flask = none) (d : Nat) :
    u.leaveBody d = u.fix d (completed stOk 0 .nothing) := by
  unfold State.leaveBody
  rw [h]

theorem execFlaskLeave_outside (hf : s.runner.flask = none) (h : s.startsNow s1 c.val 0x51 i [] k) :
    exec (.flaskLeave c) s = .next ((s1.beginAttempt c.val i k).fix c.val (completed stOk 0 .nothing)) := by
  have hu : (s1.beginAttempt c.val i k).runner.flask = none := by
    obtain ⟨ri, tr, ru, po, cn, hu⟩ := h.begun
    rw [hu]
    exact hf
  refine congrArg Host.Outcome.next ?_
  rw [State.resumeOr, h.idle, ← State.leaveBody_outside hu]
  exact h.startPour (needs := noNeeds) rfl _

end Sys2Proof.Machine

namespace Sys2Proof.Machine

/-- Settles O24: each command fixes its outcome where the attempt has begun (the reading of log entry 51), and what its body reads there is
as it was before; a close begins and goes no further. -/
theorem pourOutcomes : Obligations.PourOutcomes := by
  unfold Obligations.PourOutcomes
  intro c s s1 i k x hx hn h
  simp only [List.mem_cons, List.not_mem_nil, or_false] at hx
  obtain (rfl | rfl | rfl | rfl | rfl | rfl) | ⟨hf, rfl⟩ := hx
  · exact h.fixes (execChannelOpen_completes hn h)
  · exact h.fixes (execChannelAdopt_completes hn h)
  · exact ⟨_, execChannelClose_begins hn h, h.begins.runsWith rfl h.begins.running rfl rfl rfl, h.begun_leaves⟩
  · exact h.fixes (execPatternUnload_fixes h)
  · exact h.fixes (execSetStepSize_fixes h)
  · exact h.fixes (execEnergyRead_completes h)
  · exact h.fixes (execFlaskLeave_outside hf h)

end Sys2Proof.Machine
end

section
/-! SUPPORT. PATTERN_LOAD: Table 10-9 as rows, the image as the load reads it, and the handle that it assigns (R190, R191). -/

namespace Sys2Proof.Machine

variable {s t s1 s3 : State} {i : Nat} {k : Packet} {r : RangeRead}

/-! ### Checks as rows -/

/-- A row stands for the check that gives its code where its condition fails. -/
theorem firstFailing_eq_firstFail (l : List (Bool × BitVec 16)) : firstFailing l = firstFail (l.map fun x => orElse x.1 x.2) := by
  induction l with
  | nil => rfl
  | cons x l ih => rw [firstFailing_cons, List.map_cons, firstFail_orElse, ih]

/-- A row with codes of its own stands for the check that it was made of. -/
theorem orElse_ownRow (o : Option (BitVec 16)) : orElse (ownRow o).1 (ownRow o).2 = o := by
  cases o <;> rfl

/-- Checks 3 to 20 of Table 10-9 come to the first failing row. -/
theorem imageCheck_eq (s : State) (p : Pattern) (img : List Byte) (len : Nat) :
    imageCheck s p img len = firstFailing (s.imageRows p img len) := by
  rw [firstFailing_eq_firstFail]
  unfold imageCheck State.imageRows
  simp only [List.map_cons, List.map_nil, orElse_ownRow, bne, beq_eq_decide, ne_eq, decide_not]
  rfl

/-- Checks 1 and 2 have the one code HBM_EXCEEDED. -/
theorem stagingCheck_cases (s : State) (a len : Nat) : stagingCheck s a len = none ∨ stagingCheck s a len = some 0x0204 := by
  unfold stagingCheck
  rw [firstFail_orElse, firstFail_orElse]
  split
  · split
    · exact .inl rfl
    · exact .inr rfl
  · exact .inr rfl

/-! ### The image as it is read -/

/-- A range in which no codeword stops a consumer is read to its end. -/
theorem State.readUpTo_unstopped {a n : Nat} (hb : (s.mem.readRange .chip a n).bad = []) (hp : (s.mem.readRange .chip a n).poisoned = [])
    (pour : Option (Nat × Word64)) : s.readUpTo pour a n = (none, s.readMem pour true a n) := by
  have hf : firstBad (s.mem.readRange .chip a n) = none := by
    unfold firstBad
    rw [hb, hp]
    rfl
  unfold State.readUpTo
  rw [hf]

/-- A read leaves the patterns, the running pours and the entries. -/
theorem State.readMem_leaves (s : State) (pour : Option (Nat × Word64)) (d : Bool) (a n : Nat) :
    (s.readMem pour d a n).2.patterns = s.patterns ∧ (s.readMem pour d a n).2.running = s.running
      ∧ (s.readMem pour d a n).2.ledger.entries = s.ledger.entries := by
  obtain ⟨hset, -⟩ := s.readMem_setsUp pour d a n
  exact ⟨hset.only.patterns, hset.only.running, hset.entries⟩

/-! ### What a load comes to -/

/-- A load that passes: the image into the metadata region of the handle it assigns, and the outcome with that handle (R191). -/
def State.assignHandle (s : State) (c : Nat) (p : Pattern) (img : List Byte) : State :=
  ((s.wake (metadataBase s.freeHandle)).writeMem none true (metadataBase s.freeHandle) img).fix c
    (completed stOk s.freeHandle (.load s.freeHandle p p.digest))

/-- An image that lies where none may be staged, or for which there is no handle, is not read. -/
theorem State.loadPattern_unstaged {c : Nat} {st : BitVec 16} (h : stagingCheck s (fieldOf k.pay 0 48) (fieldOf k.pay 64 32) = some st) :
    s.loadPattern c k = s.fix c (refusedAt st 0) := by
  unfold State.loadPattern
  dsimp only
  rw [h]

/-- An image that reads well goes by the first failing check of Table 10-9. -/
theorem State.loadPattern_read {c : Nat} {p : Pattern} (hstage : stagingCheck s (fieldOf k.pay 0 48) (fieldOf k.pay 64 32) = none)
    (hread : s.readMem (some (c, BitVec.ofNat 64 k.pour)) true (fieldOf k.pay 0 48 % 2 ^ 45) (fieldOf k.pay 64 32) = (r, s3))
    (hbad : r.bad = []) (hpois : r.poisoned = []) (hp : p = readPattern c (BitVec.ofNat 64 (fieldOf k.pay 128 64)) r.data) :
    s.loadPattern c k = (firstFailing (s3.imageRows p r.data (fieldOf k.pay 64 32))).elim (s3.assignHandle c p r.data)
      fun st => s3.fix c (refusedAt st 0) := by
  have hr : s.mem.readRange .chip (fieldOf k.pay 0 48 % 2 ^ 45) (fieldOf k.pay 64 32) = r := congrArg Prod.fst hread
  subst hp
  unfold State.loadPattern State.assignHandle
  dsimp only
  rw [hstage]
  dsimp only
  rw [State.readUpTo_unstopped (by rw [hr, hbad]) (by rw [hr, hpois]), hread]
  dsimp only
  rw [imageCheck_eq]
  cases firstFailing (s3.imageRows (readPattern c (BitVec.ofNat 64 (fieldOf k.pay 128 64)) r.data) r.data (fieldOf k.pay 64 32)) <;> rfl

/-- The image's copy leaves the running pours and the entries as they were. -/
theorem State.writeMetadata_leaves (s : State) (a : Nat) (img : List Byte) :
    ((s.wake a).writeMem none true a img).running = s.running
      ∧ ((s.wake a).writeMem none true a img).ledger.entries = s.ledger.entries := by
  have hw := (State.writeMem_work (s.wake a) none true a img).trans
    (congrArg (fun w : Work => { w with mem := ((s.wake a).mem.writeRange .chip a img).1 }) (State.wake_work s a))
  exact ⟨congrArg Work.running hw, congrArg Work.entries hw⟩

/-- Every handle below the free one holds a pattern. -/
theorem State.pattern_below_freeHandle {h : Nat} (h1 : 1 ≤ h) (hlt : h < s.freeHandle) : s.pattern h ≠ none := by
  rw [State.freeHandle, List.find?_map] at hlt
  cases hf : (List.range 16).find? ((fun h => (s.pattern h).isNone) ∘ (· + 1)) with
  | none =>
    rw [hf] at hlt
    exact absurd hlt (Nat.not_lt_zero h)
  | some j =>
    rw [hf] at hlt
    have hj : h < j + 1 := hlt
    obtain ⟨-, -, hbelow⟩ := List.find?_range_eq_some.mp hf
    have hp := hbelow (h - 1) (by omega)
    rw [Function.comp_apply, Nat.sub_add_cancel h1] at hp
    intro hnone
    rw [hnone] at hp
    exact absurd hp (by decide)

/-- The free handle follows from the patterns alone. -/
theorem State.freeHandle_of_patterns (h : t.patterns = s.patterns) : t.freeHandle = s.freeHandle := by
  unfold State.freeHandle State.pattern
  rw [h]

theorem execPatternLoad_starts {c : Fin 64} (h : s.startsNow s1 c.val 0x10 i (stackNeed (fieldOf (s.bodyOf i).pay 0 48)) k) :
    exec (.patternLoad c) s = .next ((s1.beginAttempt c.val i k).loadPattern c.val k) :=
  congrArg Host.Outcome.next (h.startPour (needs := fun _ k => stackNeed (fieldOf k.pay 0 48)) rfl _)

end Sys2Proof.Machine

namespace Sys2Proof.Machine

/-- Settles O28: the load goes by the first failing row, on the image as its read gives it, and neither that read nor the copy of the image
touches the pour or the patterns. -/
theorem patternLoads : Obligations.PatternLoads := by
  unfold Obligations.PatternLoads
  rintro c s s1 _ s3 i _ _ k r p h rfl rfl rfl hread hp
  have hexec := execPatternLoad_starts h
  have hb := h.begins
  generalize s1.beginAttempt c.val i k = u at *
  obtain ⟨hpatterns, hrunning, hentries⟩ := State.readMem_leaves u (some (c.val, BitVec.ofNat 64 k.pour)) true
    (fieldOf k.pay 0 48 % 2 ^ 45) (fieldOf k.pay 64 32)
  rw [← hread] at hpatterns hrunning hentries
  have hfree : s3.freeHandle = s.freeHandle := State.freeHandle_of_patterns (hpatterns.trans hb.patterns)
  refine ⟨fun hst => ?_, fun st hstage hbad hpois hrow => ?_, fun hstage hbad hpois hrow => ?_⟩
  · rw [State.loadPattern_unstaged ((stagingCheck_cases ..).resolve_left hst)] at hexec
    exact ⟨_, hexec, hb.fix rfl rfl _⟩
  · rw [State.loadPattern_read hstage hread.symm hbad hpois hp, hrow] at hexec
    exact ⟨_, hexec, hb.fix (congrArg (Tab.get none · c.val) hrunning) (congrArg (Tab.get Entry.free · i) hentries) _⟩
  · rw [State.loadPattern_read hstage hread.symm hbad hpois hp, hrow] at hexec
    obtain ⟨hrun', hent'⟩ := s3.writeMetadata_leaves (metadataBase s3.freeHandle) r.data
    refine ⟨_, hexec, ?_, fun n h1 hlt => State.pattern_below_freeHandle h1 hlt⟩
    rw [← hfree]
    exact hb.fix (congrArg (Tab.get none · c.val) (hrun'.trans hrunning)) (congrArg (Tab.get Entry.free · i) (hent'.trans hentries)) _

end Sys2Proof.Machine
end

section
/-! SUPPORT. A Runner port changed, and a frame that it sends at once (R263 to R266). -/

namespace Sys2Proof.Machine

variable {s t : State} {p : Nat}

/-! ### The port -/

theorem State.rport_updRport_same (hp : p < s.runner.ports.length) (f : Port → Port) : (s.updRport p f).rport p = f (s.rport p) := by
  simp [State.rport, State.updRport, List.getD_eq_getElem?_getD, hp]

@[simp] theorem State.length_ports_updRport (s : State) (p : Nat) (f : Port → Port) :
    (s.updRport p f).runner.ports.length = s.runner.ports.length := List.length_modify ..

/-- Only a port of the chip has board accesses that wait. -/
theorem State.lt_of_boards {b : BoardAccess} {rest : List BoardAccess} (h : (s.rport p).boards = b :: rest) : p < s.runner.ports.length := by
  by_contra hp
  rw [State.rport, List.getD_eq_default _ _ (not_lt.mp hp)] at h
  cases h

theorem State.Accounts.rport (h : s.Accounts t) (p : Nat) : t.rport p = s.rport p :=
  congrArg (fun r : Runner => r.ports.getD p (Port.init p)) h.runner

theorem State.Carries.rport (h : s.Carries t) (p : Nat) : t.rport p = s.rport p :=
  State.Accounts.rport (s := { s with mem := t.mem }) h p

/-! ### A frame sent -/

theorem State.countTx_accounts (s : State) (p : Nat) (f : Frame) : s.Accounts (s.countTx p f) := by
  unfold State.countTx
  dsimp only
  split <;> exact ⟨rfl⟩

/-- The state `t` is `s` with frames sent by port `p`, the first of them `x`: the board accesses that wait there, and memory, are as
they were. -/
structure State.SendsFirst (s t : State) (p : Nat) (x : Frame) : Prop where
  boards : (t.rport p).boards = (s.rport p).boards
  sent   : ∃ more, (t.rport p).sent = (s.rport p).sent ++ ⟨(s.lport p).txLanes, x⟩ :: more
  mem    : t.mem = s.mem

/-- A frame numbered and sent, and nothing more (R265, R266). -/
theorem State.rport_emitOne (hp : p < s.runner.ports.length) (f : Frame) :
    (s.emitOne p f).rport p = { s.rport p with
      txSeq := (s.rport p).txSeq + 1
      replay := if (s.rport p).replay.length < 512 then (s.rport p).replay ++ [⟨(s.rport p).txSeq, s.stamp p f⟩] else (s.rport p).replay
      sent := (s.rport p).sent ++ [⟨(s.lport p).txLanes, s.stamp p f⟩]
      sinceIdle := if (s.stamp p f).type = 0 then 0 else (s.rport p).sinceIdle + 1 } := by
  unfold State.emitOne State.putLine
  rw [(State.countTx_accounts ..).rport, State.rport_updRport_same (by simpa using hp), State.rport_updRport_same hp]
  rfl

theorem State.mem_emitOne (s : State) (p : Nat) (f : Frame) : (s.emitOne p f).mem = s.mem := (State.countTx_accounts ..).mem

theorem State.length_ports_emitOne (s : State) (p : Nat) (f : Frame) :
    (s.emitOne p f).runner.ports.length = s.runner.ports.length := by
  unfold State.emitOne State.putLine
  rw [(State.countTx_accounts ..).runner]
  simp

/-- A frame sent comes first; an idle frame may follow it (R315). -/
theorem State.emit_sendsFirst (hp : p < s.runner.ports.length) (f : Frame) : s.SendsFirst (s.emit p f) p (s.stamp p f) := by
  have hone := State.rport_emitOne hp f
  unfold State.emit State.keepTag
  split
  · have hidle := State.rport_emitOne (s := s.emitOne p f) (by rwa [State.length_ports_emitOne]) (rawFrame 0 0 0 0 [] [])
    refine ⟨?_, ?_, ?_⟩
    · rw [State.emitIdle, hidle, hone]
    · rw [State.emitIdle, hidle, hone]
      exact ⟨_, List.append_assoc ..⟩
    · rw [State.emitIdle, State.mem_emitOne, State.mem_emitOne]
  · exact ⟨by rw [hone], ⟨[], by rw [hone]⟩, State.mem_emitOne ..⟩

/-- With nothing that waits and room in the replay buffer, a frame handed to a port is sent at once (R266). -/
theorem State.xmit_sendsFirst (hp : p < s.runner.ports.length) (hq : (s.rport p).txQ = []) (hroom : (s.rport p).replay.length < 512)
    (f : Frame) : ∃ x, s.SendsFirst (s.xmit p f) p x ∧ x.type = f.type ∧ x.count = f.count ∧ x.payload = f.payload ∧ x.arg = f.arg := by
  let u := s.updRport p fun o => { o with txQ := o.txQ ++ [f] }
  let v := u.updRport p fun o => { o with txQ := [] }
  have hpu : p < u.runner.ports.length := by rwa [State.length_ports_updRport]
  have hpv : p < v.runner.ports.length := by rwa [State.length_ports_updRport]
  have hu : u.rport p = { s.rport p with txQ := [f] } := by
    rw [State.rport_updRport_same hp, hq]
    rfl
  have hv : v.rport p = { s.rport p with txQ := [] } := by
    rw [State.rport_updRport_same hpu, hu]
  have hx : s.xmit p f = v.emit p f := by
    unfold State.xmit
    change u.pumpTx _ p = _
    rw [hq, List.length_nil, State.pumpTx, hu]
    dsimp only
    rw [if_pos hroom, State.pumpTx]
  obtain ⟨hboards, hsent, hmem⟩ := State.emit_sendsFirst hpv f
  rw [hv] at hboards hsent
  refine ⟨v.stamp p f, ?_, rfl, rfl, rfl, rfl⟩
  rw [hx]
  exact ⟨hboards, hsent, hmem⟩

end Sys2Proof.Machine
end

section
/-! SUPPORT. Board accesses: the access that waits first served or refused, and the response taken (R276, R277, log entry 28). -/

namespace Sys2Proof.Machine

variable {s s1 : State} {p phase a : Nat} {b : BoardAccess} {rest : List BoardAccess} {q : Pattern} {f : Frame}

/-- A frame that is delivered has its own effect. -/
theorem State.takesFrame.deliver (h : s.takesFrame s1 p f) {kind : Bool} (hk : kind = true) (body : State → State) :
    s.deliver p f kind body = body s1 := by
  obtain ⟨harrive, -⟩ := h
  unfold State.deliver
  rw [hk, harrive]
  rfl

/-! ### Whole codewords written -/

theorem carryWrite_carries (bs : List Byte) (bad : List Nat) (k n : Nat) (s : State) (a : Nat) :
    s.Carries (carryWrite s a bs bad k n) := by
  induction n generalizing s a bs k with
  | zero => exact (State.Accounts.refl s).carries
  | succ n ih =>
    unfold carryWrite
    exact ((State.carries_mem s _).trans ((State.noteAll_accounts ..).trans (State.hbmTraffic_accounts ..)).carries).trans (ih ..)

/-- What codewords written make of the memory follows from the memory before. -/
theorem carryWrite_congr {t : State} (h : t.mem = s.mem) (bs : List Byte) (bad : List Nat) (k n a : Nat) :
    (carryWrite t a bs bad k n).mem = (carryWrite s a bs bad k n).mem := by
  induction n generalizing s t a bs k with
  | zero => exact h
  | succ n ih =>
    unfold carryWrite
    refine ih ?_ ..
    rw [h, (State.hbmTraffic_accounts ..).mem, (State.noteAll_accounts ..).mem, (State.hbmTraffic_accounts ..).mem,
      (State.noteAll_accounts ..).mem]

theorem State.mem_markWritten (s : State) (q : Pattern) (a : Nat) : (s.markWritten q a).mem = s.mem := by
  rw [State.markWritten_eq]

theorem State.rport_markWritten (s : State) (q : Pattern) (a p : Nat) : (s.markWritten q a).rport p = s.rport p := by
  rw [State.markWritten_eq]
  rfl

/-! ### Service -/

/-- The first board access has left a port, and `rest` waits on. -/
def State.leaveBoards (s : State) (p : Nat) (rest : List BoardAccess) : State := s.updRport p fun o => { o with boards := rest }

@[simp] theorem State.leaveBoards_mem (s : State) (p : Nat) (rest : List BoardAccess) : (s.leaveBoards p rest).mem = s.mem := rfl
@[simp] theorem State.lport_leaveBoards (s : State) (p q : Nat) (rest : List BoardAccess) :
    (s.leaveBoards p rest).lport q = s.lport q := rfl
@[simp] theorem State.length_ports_leaveBoards (s : State) (p : Nat) (rest : List BoardAccess) :
    (s.leaveBoards p rest).runner.ports.length = s.runner.ports.length := State.length_ports_updRport ..

theorem State.rport_leaveBoards (h : (s.rport p).boards = b :: rest) : (s.leaveBoards p rest).rport p = { s.rport p with boards := rest } :=
  State.rport_updRport_same (State.lt_of_boards h) _

/-- Without a RUN nothing is served. -/
theorem State.serveBoard_noRun (h : s.run = none) (p : Nat) (write : Bool) (phase : Nat) : s.serveBoard p write phase = s := by
  unfold State.serveBoard State.runPattern
  rw [h]
  cases (s.rport p).boards <;> rfl

/-- A board frame delivered with no RUN waits behind those before it, and nothing is served. -/
theorem State.boardFrame_queues {write : Bool} (hf : s.takesFrame s1 p f) (ht : f.type = if write then 3 else 2) (hrun : s1.run = none)
    (phase : Nat) : s.boardFrame p (some f) write phase = s1.queueBoard p f write := by
  unfold State.boardFrame
  dsimp only
  rw [hf.deliver (decide_eq_true ht)]
  exact State.serveBoard_noRun (s := s1.queueBoard p f write) hrun ..

/-- With no frame that arrives, a command stands for the phase that has come. -/
theorem exec_boardWrite_none (p : Fin 32) (phase : Nat) (s : State) :
    exec (.boardWrite p none phase) s = .next (s.serveBoard p.val true phase) := rfl

theorem exec_boardReadRequest_none (p : Fin 32) (phase : Nat) (s : State) :
    exec (.boardReadRequest p none phase) s = .next (s.serveBoard p.val false phase) := rfl

/-- An access whose code is not clear is answered with that code. -/
theorem State.serveBoard_refused {st : BitVec 16} (hb : (s.rport p).boards = b :: rest) (hq : s.runPattern = some q)
    (hrun : s.mayRelay = true) (ha : a = translateAddr q ((s.run.map fun r => s.currentMap r.handle).getD 0) b.write b.addr)
    (hcode : s.boardCode q p b a = some st) (phase : Nat) :
    s.serveBoard p b.write phase = (s.leaveBoards p rest).boardFailure p b st := by
  subst ha
  unfold State.serveBoard
  simp only [hb, hq, hrun, hcode, and_self, if_true]
  rfl

/-- An access that nothing refuses is made in a phase of the port's stream engine, and then counted on the floor link. -/
theorem State.serveBoard_served {e : Nat} (hb : (s.rport p).boards = b :: rest) (hq : s.runPattern = some q) (hrun : s.mayRelay = true)
    (ha : a = translateAddr q ((s.run.map fun r => s.currentMap r.handle).getD 0) b.write b.addr) (hcode : s.boardCode q p b a = none)
    (he : s.boardEngine q p = some e) (hin : accessIn q (.stream e) (p % 2) b.write a phase = true)
    (hfloor : s.floorRuns (p % 2) b.write a = true) :
    ((s.leaveBoards p rest).makeBoard q p b a).Accounts (s.serveBoard p b.write phase) := by
  have hserve : s.serveBoard p b.write phase = (List.range b.length).foldl (fun s k => s.floorCarry (p % 2) b.write (a + 32 * k))
      ((s.leaveBoards p rest).makeBoard q p b a) := by
    subst ha
    unfold State.serveBoard
    simp only [hb, hq, hrun, hcode, he, Option.getD_some, hin, hfloor, and_self, if_true]
    rfl
  rw [hserve]
  exact State.Accounts.foldl (fun s k => State.floorCarry_accounts s (p % 2) b.write (a + 32 * k)) _ _

/-- A write made: its codewords written, the ports as they were. -/
theorem State.makeBoard_writes (hw : b.write = true) {u : State} (hu : u.mem = s.mem) (q : Pattern) (p a : Nat) :
    (∀ r, (u.makeBoard q p b a).rport r = u.rport r)
      ∧ (u.makeBoard q p b a).mem = (carryWrite (s.markWritten q a) a b.data (b.poison.map (· - 1)) 0 b.length).mem := by
  unfold State.makeBoard
  rw [if_pos hw]
  refine ⟨fun r => ?_, carryWrite_congr ?_ ..⟩
  · rw [(carryWrite_carries ..).rport, State.rport_markWritten]
  · rw [State.mem_markWritten, State.mem_markWritten, hu]

/-- A read made: a response with the data as the memory gives it. -/
theorem State.makeBoard_reads (hw : b.write = false) (hp : p < s.runner.ports.length) (htx : (s.rport p).txQ = [])
    (hroom : (s.rport p).replay.length < 512) (q : Pattern) (a : Nat) :
    ∃ x more, ((s.makeBoard q p b a).rport p).boards = (s.rport p).boards
      ∧ ((s.makeBoard q p b a).rport p).sent = (s.rport p).sent ++ ⟨(s.lport p).txLanes, x⟩ :: more ∧ x.type = 4 ∧ x.count = b.length
      ∧ x.payload = (s.mem.readRange .chip a (32 * b.length)).data ∧ x.arg = boardArg b.tag b.addr := by
  obtain ⟨hset, -⟩ := s.readMem_setsUp s.runPour false a (32 * b.length)
  have hlight : (s.readMem s.runPour false a (32 * b.length)).2.light = s.light := by rw [hset.only.eq]
  have hrunner := hset.runner
  unfold State.makeBoard
  rw [if_neg (by simp [hw])]
  dsimp only [State.boardReply]
  generalize (s.readMem s.runPour false a (32 * b.length)).2 = u at *
  have hport : u.rport p = s.rport p := congrArg (fun r : Runner => r.ports.getD p (Port.init p)) hrunner
  have hlport : u.lport p = s.lport p := congrArg (fun l : Light => l.ports.getD p PortLight.init) hlight
  obtain ⟨x, ⟨hboards, ⟨more, hsent⟩, -⟩, htype, hcount, hpay, harg⟩ :=
    State.xmit_sendsFirst (s := u) (by rwa [hrunner]) (by rwa [hport]) (by rwa [hport])
      (rawFrame 4 b.length 0 (boardArg b.tag b.addr) (s.readMem s.runPour false a (32 * b.length)).1.data
        ((s.readMem s.runPour false a (32 * b.length)).1.poisoned.map fun c => c - a / 32 + 1))
  rw [hport] at hboards hsent
  rw [hlport] at hsent
  exact ⟨x, more, hboards, hsent, htype, hcount, hpay, harg⟩

/-! ### Responses -/

/-- The first fault of an attempt is the attempt's, whatever its code (R92). -/
theorem State.run_faultPour_first {r : RunCtx} (hr : s.run = some r) (hf : r.fault = none) (g source : Nat) (st : BitVec 16)
    (pc : BitVec 18) (addr : Nat) : ∃ x, (s.faultPour g source st pc addr).run = some x ∧ x.fault = some (st, false) := by
  have hcounts : s.faultCounts g source = true := by simp [State.faultCounts, hr, hf]
  have hend : (s.endAttempt st false).run = some { r with fault := some (st, false), stopAt := some s.cnt.regs.time } := by
    simp [State.endAttempt, hr, hf]
  refine ⟨{ r with fault := some (st, false), stopAt := some s.cnt.regs.time }, ?_, rfl⟩
  unfold State.faultPour
  rw [if_pos hcounts]
  dsimp only
  split
  · rw [(State.logStatus_accounts ..).run]
    split <;> simp [State.updCl, hend]
  · split <;> simp [State.updCl, hend]

/-- A response of the running attempt that a copy awaits: with a code it faults the pour, with data it goes to the copy. -/
theorem State.boardResponse_awaited {r : RunCtx} {g : Nat} {fl : Flight} (hr : s.run = some r) (hf : r.fault = none)
    (htag : (frameXfer f).toNat / 2 ^ 15 = r.attempt) (hask : s.askedBy (frameXfer f) = some (g, fl)) (p : Nat) :
    s.boardResponse p f = if f.arg.getLsbD 45 then
        s.faultPour g fl.eng.toNat (BitVec.ofNat 16 (fieldOf (leNat (f.payload.take 32)) 0 16)) (BitVec.ofNat 18 fl.entry.pc) (s.peerAddr p f)
      else s.takeResponse g fl f := by
  have hlive : ¬(r.fault.isSome = true ∨ (frameXfer f).toNat / 2 ^ 15 ≠ r.attempt) := by
    rw [hf, htag]
    simp
  unfold State.boardResponse
  simp only [hr, if_neg hlive, hask]

end Sys2Proof.Machine

namespace Sys2Proof.Machine

/-- Settles O42: a frame delivered with no RUN is queued and no more; the access that waits first is served or refused where its code says,
and the response that follows is the next frame that the port sends; a response taken by the attempt goes by bit 45 (log entry 28). -/
theorem boardFrames : Obligations.BoardFrames := by
  unfold Obligations.BoardFrames
  intro p s phase
  refine ⟨fun f s1 hf hrun => ⟨fun ht => ?_, fun ht => ?_⟩, ?_, ?_, ?_⟩
  · exact congrArg Host.Outcome.next (State.boardFrame_queues (write := false) hf ht hrun phase)
  · exact congrArg Host.Outcome.next (State.boardFrame_queues (write := true) hf ht hrun phase)
  · intro b rest q e a hb hq hrun ha hcode he hin hfloor
    have hserved := State.serveBoard_served hb hq hrun ha hcode he hin hfloor
    have hport := State.rport_leaveBoards hb
    refine ⟨fun hw => ?_, fun hw htx hroom => ?_⟩
    · obtain ⟨hports, hmem⟩ := State.makeBoard_writes (s := s) (u := s.leaveBoards p rest) hw rfl q p a
      rw [hw] at hserved
      refine ⟨_, exec_boardWrite_none .., ?_, hserved.mem.trans hmem⟩
      rw [hserved.rport, hports, hport]
    · obtain ⟨x, more, hboards, hsent, hx⟩ := State.makeBoard_reads (s := s.leaveBoards p rest) hw
        (by simpa using State.lt_of_boards hb) (by rwa [hport]) (by rwa [hport]) q a
      rw [hport] at hboards hsent
      rw [hw] at hserved
      exact ⟨_, x, more, exec_boardReadRequest_none .., (congrArg Port.boards (hserved.rport _)).trans hboards,
        (congrArg Port.sent (hserved.rport _)).trans hsent, hx⟩
  · intro b rest q st a hb hq hrun ha hcode htx hroom c hc hw
    have hexec : exec c.1 s = .next (s.serveBoard p.val b.write phase) := by
      rw [hw]
      simp only [List.mem_cons, List.not_mem_nil, or_false] at hc
      obtain rfl | rfl := hc
      · exact exec_boardReadRequest_none ..
      · exact exec_boardWrite_none ..
    have hport := State.rport_leaveBoards hb
    obtain ⟨x, ⟨hboards, ⟨more, hsent⟩, hmem⟩, htype, hcount, hpay, harg⟩ := State.xmit_sendsFirst (s := s.leaveBoards p rest)
      (by simpa using State.lt_of_boards hb) (by rwa [hport]) (by rwa [hport]) (rawFrame 4 1 0 (failArg b) (leBytes 32 st.toNat) [])
    rw [hport] at hboards hsent
    rw [State.serveBoard_refused hb hq hrun ha hcode] at hexec
    exact ⟨_, x, more, hexec, hboards, hsent, htype, hcount, hpay, harg, hmem⟩
  · intro f s1 r g fl hf ht hr hfault htag hask
    have hexec : exec (.boardReadResponse p f) s = .next (s1.boardResponse p f) :=
      congrArg Host.Outcome.next (hf.deliver (decide_eq_true ht) _)
    rw [State.boardResponse_awaited hr hfault htag hask] at hexec
    refine ⟨fun h45 => ?_, fun h45 => ?_⟩
    · rwa [h45, if_neg Bool.false_ne_true] at hexec
    · rw [h45, if_pos rfl] at hexec
      obtain ⟨x, hx, hxf⟩ := State.run_faultPour_first hr hfault g fl.eng.toNat
        (BitVec.ofNat 16 (fieldOf (leNat (f.payload.take 32)) 0 16)) (BitVec.ofNat 18 fl.entry.pc) (s1.peerAddr p f)
      exact ⟨_, x, hexec, hx, hxf⟩

end Sys2Proof.Machine
end

section
/-! SUPPORT. Uncorrectable codewords of the Tundish: what a part notes of them beside the packet, which two statements of the intake leave out. -/

namespace Sys2Proof.Machine

/-- Check bits whose difference no single error explains, and that are not the poison mark's (Table 19-1). -/
def uncorrectableDiff : BitVec 32 := 0x01020304

/-- A part that is ready, with COPE's link up. -/
def State.readyPart : State :=
  { State.reset with
    boot := { Boot.init with phase := .ready }
    cope := { HostPortState.init with linkUp := true, perst := false, busMaster := true } }

/-- Channel 0 receives a packet on COPE, and the first codeword of its buffer has become uncorrectable. -/
def State.damagedWindow : State :=
  State.readyPart.setWindow .cope 0 ⟨true, some false, ⟨[], [(0, uncorrectableDiff)]⟩⟩

/-- The points of local events that the ledger's copy 0 holds after a command (R388, R390). -/
def savedPoints : Host.Outcome State Fault Refusal → Nat
  | .next t => t.riser.copy0.data.health.dLocal
  | _ => 0

/-- A NOP of channel 0 by COPE with its CRC, in a buffer of B0 whose first codeword has become uncorrectable; as it decodes, its bytes stand. -/
def damagedNop : Packet :=
  let h := 1 + 0x7F * 2 ^ 8 + 2 ^ 16
  ⟨.cope, 0, some false, BitVec.ofNat 512 (h + crc32c (leBytes 64 h) * 2 ^ 96), 0, [], 0, [(0, uncorrectableDiff)]⟩

/-- Channel 0 is open for COPE, and the damaged NOP waits for its decision. -/
def State.nopWaits : State :=
  let ch : ChanRec := { ChanRec.closed with state := .opened, ringLog := 6, quota := 2, tundishRes := 1 }
  { State.readyPart with
    riser := { Riser.init with
      copy0 := RiserCopy.whole false false { Ledger.fresh with chans := [(0, ch)] }
      copy1 := RiserCopy.whole true false { Ledger.fresh with chans := [(0, ch)] } }
    intake := { Intake.init with received := [damagedNop] } }

/-- The vectors that wait on COPE after a command. -/
def pendingCope : Host.Outcome State Fault Refusal → BitVec 65
  | .next t => t.cope.pending
  | _ => 0

/-! ### What the model does -/

/-- A write to a part of the damaged codeword finds it, and the health that the event costs is saved in the ledger. -/
theorem damagedWindow_savesHealth : savedPoints (exec (.intakeWrite .cope 0 0 [1]) State.damagedWindow) = 100 := by decide +kernel

/-- The damaged NOP passes rows 1 to 10 of Table 11-5. -/
theorem damagedNop_passes : State.nopWaits.refusalOf damagedNop.decode.1 = none := by decide +kernel

/-- Its decision logs the codeword, and COPE's vector 64 is pending. -/
theorem damagedNop_alerts : pendingCope (exec (.packetDecision 0) State.nopWaits) = 1#65 <<< 64 := by decide +kernel

end Sys2Proof.Machine

namespace Sys2Proof.Machine

/-- Refutes O19: a write into a codeword of the packet's buffer that has become uncorrectable is logged, and the health points of the event are
saved in the ledger at once (R379, R388, R390), so that the window is not all that changes; the statement leaves the Riser alone for
every content of the buffer. -/
theorem not_packetArrives : ¬ Obligations.PacketArrives := by
  unfold Obligations.PacketArrives
  intro h
  have hopen : State.damagedWindow.hostReach .cope = true := by decide +kernel
  obtain ⟨-, hwrite, -⟩ := h .cope 0 0 [1] State.damagedWindow _ _ hopen (List.cons_ne_nil _ _) rfl rfl
  obtain ⟨t, hexec, -, -, -, -, hriser, -⟩ := hwrite rfl (by decide)
  have hpoints : savedPoints (.next t) = 100 := hexec ▸ damagedWindow_savesHealth
  have hkept : savedPoints (.next t) = 0 := congrArg (fun r : Riser => r.copy0.data.health.dLocal) hriser
  exact absurd (hpoints.symm.trans hkept) (by decide)

/-- Refutes O21: the decision of a NOP whose buffer holds an uncorrectable codeword logs it, and the log raises MSI-X vector 64 on both ports
(R379, R386), so that COPE is not as before though the NOP passes every row; the statement leaves both ports alone for every NOP. -/
theorem not_ackReleases : ¬ Obligations.AckReleases := by
  unfold Obligations.AckReleases
  intro h
  have hturn : State.nopWaits.nextDecision = some damagedNop := by decide +kernel
  have hkept : State.nopWaits.ledgerKept := .inr (by decide +kernel)
  obtain ⟨hpasses, -⟩ := h 0 State.nopWaits damagedNop damagedNop.decode.1 [] rfl hturn rfl hkept
  obtain ⟨t, hexec, -, -, -, hnop⟩ := hpasses damagedNop_passes
  obtain ⟨-, -, hcope, -⟩ := hnop (by decide +kernel)
  have halert : pendingCope (.next t) = 1#65 <<< 64 := hexec ▸ damagedNop_alerts
  have hquiet : pendingCope (.next t) = 0 := congrArg HostPortState.pending hcope
  exact absurd (halert.symm.trans hquiet) (by decide)

end Sys2Proof.Machine
end

section
/-! SUPPORT. The ledger where reads see what is written (R240, R255, R256): its entries, channels and commit slots after each operation. -/

namespace Sys2Proof.Machine

variable {s t u : State}

/-- What the Nelhan reads of entries, channels and commit slots, with what decides whether a write is read: RISER_LOST and the health of the
copy that reads come from. Beside it the entry allocated last, and the time that entries take. -/
structure Books where
  entries   : Tab Entry
  chans     : Tab ChanRec
  slots     : Tab (Option CommitSlot)
  lost      : Bool
  copy      : CopyHealth
  lastAlloc : Nat
  time      : Word64

def State.books (s : State) : Books :=
  ⟨s.ledger.entries, s.ledger.chans, s.ledger.slots, s.riser.lost, (s.riser.current s.sprue.activeB1).state, s.riser.lastAlloc, s.cnt.regs.time⟩

theorem State.entry_eq_books (s : State) (i : Nat) : s.entry i = Tab.get Entry.free s.books.entries i := rfl
theorem State.chan_eq_books (s : State) (c : Nat) : s.chan c = Tab.get ChanRec.closed s.books.chans c := rfl

/-! ### States of equal books -/

theorem State.entry_of_books (h : t.books = s.books) (i : Nat) : t.entry i = s.entry i := congrArg (fun b : Books => Tab.get _ b.entries i) h
theorem State.chan_of_books (h : t.books = s.books) (c : Nat) : t.chan c = s.chan c := congrArg (fun b : Books => Tab.get _ b.chans c) h
theorem State.lost_of_books (h : t.books = s.books) : t.riser.lost = s.riser.lost := congrArg Books.lost h
theorem State.lastAlloc_of_books (h : t.books = s.books) : t.riser.lastAlloc = s.riser.lastAlloc := congrArg Books.lastAlloc h
theorem State.time_of_books (h : t.books = s.books) : t.cnt.regs.time = s.cnt.regs.time := congrArg Books.time h

/-- An entry where the books have one entry changed. -/
theorem State.entry_of_upd {i : Nat} {f : Entry → Entry} (h : t.books.entries = Tab.upd Entry.free s.books.entries i f) (j : Nat) :
    t.entry j = if i = j then f (s.entry i) else s.entry j := by
  rw [State.entry_eq_books, h]
  exact Tab.get_upd ..

/-- A channel's record where the books have one changed. -/
theorem State.chan_of_upd {c : Nat} {f : ChanRec → ChanRec} (h : t.books.chans = Tab.upd ChanRec.closed s.books.chans c f) (d : Nat) :
    t.chan d = if c = d then f (s.chan c) else s.chan d := by
  rw [State.chan_eq_books, h]
  exact Tab.get_upd ..

theorem State.heldEntries_of_books (h : t.books = s.books) (c : Nat) : t.heldEntries c = s.heldEntries c := by
  have he : t.ledger.entries = s.ledger.entries := congrArg Books.entries h
  unfold State.heldEntries
  rw [he]

theorem State.curSlot_of_slots (h : t.books.slots = s.books.slots) (c : Nat) : t.curSlot c = s.curSlot c := by
  have hs : t.ledger.slots = s.ledger.slots := h
  unfold State.curSlot
  rw [hs]

theorem State.epochOf_of_slots (hs : t.books.slots = s.books.slots) {c : Nat} (hc : (t.chan c).state = (s.chan c).state) : t.epochOf c = s.epochOf c := by
  unfold State.epochOf
  rw [hc, State.curSlot_of_slots hs]

/-- Whether reads see what is written depends on the books. -/
theorem State.ledgerKept_iff_books (s : State) : s.ledgerKept ↔ s.books.lost = true ∨ s.books.copy ≠ .lost := Iff.rfl

theorem State.ledgerKept.of_books (h : s.ledgerKept) (hl : t.books.lost = s.books.lost) (hc : t.books.copy = s.books.copy) : t.ledgerKept := by
  rw [State.ledgerKept_iff_books] at h ⊢
  rwa [hl, hc]

/-- A fold of operations that leave the books leaves them. -/
theorem State.foldl_books {α : Type} {f : State → α → State} (hf : ∀ s a, (f s a).books = s.books) (l : List α) (s : State) :
    (l.foldl f s).books = s.books := by
  induction l generalizing s with
  | nil => rfl
  | cons a l ih => exact (ih _).trans (hf s a)

/-! ### Writes of the ledger -/

/-- A ledger write leaves what is none of its business, and what it writes is read where the ledger is kept. -/
theorem State.books_updLedger (h : s.ledgerKept) (l : RLine) (f : Ledger → Ledger) :
    (s.updLedger l f).books
      = { s.books with entries := (f s.ledger).entries, chans := (f s.ledger).chans, slots := (f s.ledger).slots } := by
  have hlost : (s.riser.put l f).lost = s.riser.lost := by unfold Riser.put; split <;> rfl
  have hlast : (s.riser.put l f).lastAlloc = s.riser.lastAlloc := by unfold Riser.put; split <;> rfl
  have hcopy : ((s.riser.put l f).current s.sprue.activeB1).state = (s.riser.current s.sprue.activeB1).state := by
    cases hl : s.riser.lost with
    | false => rw [Riser.current_put hl, (RiserCopy.write_state_die ..).1]
    | true =>
      have hw (c : RiserCopy) : (c.writeLost l f).state = c.state ∧ (c.writeLost l f).die = c.die := by
        unfold RiserCopy.writeLost
        split <;> exact ⟨rfl, rfl⟩
      simp only [Riser.current, Riser.put, hl, if_true, hw]
      split
      · exact (hw _).1
      · split <;> exact (hw _).1
  have hread := State.ledger_updLedger_of_kept h l f
  have hr : (s.updLedger l f).riser = s.riser.put l f := rfl
  simp only [State.books, hread, hr, State.updLedger_sprue, State.updLedger_cnt, hlost, hlast, hcopy]

/-- A line that holds no entry, channel or commit slot leaves the books, whether or not it is read. -/
theorem State.books_updLedger_other (s : State) (l : RLine) {f : Ledger → Ledger} (he : ∀ x, (f x).entries = x.entries)
    (hc : ∀ x, (f x).chans = x.chans) (hs : ∀ x, (f x).slots = x.slots) : (s.updLedger l f).books = s.books := by
  by_cases h : s.ledgerKept
  · rw [State.books_updLedger h, he, hc, hs]
    rfl
  · have hl : s.riser.lost = false := by
      cases hl : s.riser.lost with
      | false => rfl
      | true => exact absurd (.inl hl) h
    have hcur : (s.riser.current s.sprue.activeB1).state = .lost := not_not.mp fun hn => h (.inr hn)
    have hl' : (s.riser.put l f).lost = false := by simp [Riser.put, hl]
    have hlast : (s.riser.put l f).lastAlloc = s.riser.lastAlloc := by simp [Riser.put, hl]
    simp [State.books, State.ledger, State.updLedger, hl, hl', Riser.current_put hl, RiserCopy.write, hcur, hlast]

theorem State.books_updEntry (h : s.ledgerKept) (i : Nat) (f : Entry → Entry) :
    (s.updEntry i f).books = { s.books with entries := Tab.upd Entry.free s.books.entries i f } := State.books_updLedger h _ _

theorem State.books_updChan (h : s.ledgerKept) (c : Nat) (f : ChanRec → ChanRec) :
    (s.updChan c f).books = { s.books with chans := Tab.upd ChanRec.closed s.books.chans c f } := State.books_updLedger h _ _

/-- The copy that reads come from is chosen by the states and the dies of the copies. -/
theorem Riser.current_mapCopies {g : RiserCopy → RiserCopy} (hg : ∀ c, (g c).state = c.state ∧ (g c).die = c.die) (r : Riser) (b : Bool) :
    ({ r with copy0 := g r.copy0, copy1 := g r.copy1 } : Riser).current b = g (r.current b) := by
  simp only [Riser.current, hg]
  split
  · rfl
  · split <;> rfl

/-- A copy that is not lost with its ledger changed, no line being written. -/
def RiserCopy.note (c : RiserCopy) (f : Ledger → Ledger) : RiserCopy := if c.state = .lost then c else { c with data := f c.data }

theorem RiserCopy.note_state_die (c : RiserCopy) (f : Ledger → Ledger) : (c.note f).state = c.state ∧ (c.note f).die = c.die := by
  unfold RiserCopy.note; split <;> exact ⟨rfl, rfl⟩

/-- A channel's record changed in a ledger. -/
def Ledger.updChans (l : Ledger) (c : Nat) (f : ChanRec → ChanRec) : Ledger := { l with chans := Tab.upd ChanRec.closed l.chans c f }

theorem State.noteChan_riser (hl : s.riser.lost = false) (c : Nat) (f : ChanRec → ChanRec) :
    (s.noteChan c f).riser
      = { s.riser with copy0 := s.riser.copy0.note fun l => l.updChans c f, copy1 := s.riser.copy1.note fun l => l.updChans c f } :=
  if_neg (by simp [hl])

/-- A change of the channel table that is no line write is read as well (R197). -/
theorem State.books_noteChan (h : s.ledgerKept) (c : Nat) (f : ChanRec → ChanRec) :
    (s.noteChan c f).books = { s.books with chans := Tab.upd ChanRec.closed s.books.chans c f } := by
  cases hl : s.riser.lost with
  | true => simp [State.books, State.noteChan, State.ledger, Riser.current, hl]
  | false =>
    have hcur : (s.riser.current s.sprue.activeB1).state ≠ .lost := h.resolve_left (by simp [hl])
    have hr := State.noteChan_riser hl c f
    have hmap : (s.noteChan c f).riser.current s.sprue.activeB1 = (s.riser.current s.sprue.activeB1).note fun l => l.updChans c f := by
      rw [hr]
      exact Riser.current_mapCopies (fun x => RiserCopy.note_state_die x _) s.riser s.sprue.activeB1
    have hlost : (s.noteChan c f).riser.lost = false := by rw [hr, hl]
    have hlast : (s.noteChan c f).riser.lastAlloc = s.riser.lastAlloc := by rw [hr]
    have hdata : ((s.riser.current s.sprue.activeB1).note fun l => l.updChans c f).data = (s.riser.current s.sprue.activeB1).data.updChans c f := by
      rw [RiserCopy.note, if_neg hcur]
    have hsprue : (s.noteChan c f).sprue = s.sprue := rfl
    have hcnt : (s.noteChan c f).cnt = s.cnt := rfl
    simp only [State.books, State.ledger, hsprue, hcnt, hlost, hl, hlast, hmap, hdata, RiserCopy.note_state_die, Bool.false_eq_true, if_false]
    rfl

theorem State.ledgerKept.updEntry (h : s.ledgerKept) (i : Nat) (f : Entry → Entry) : (s.updEntry i f).ledgerKept :=
  have hb := State.books_updEntry h i f
  h.of_books (by rw [hb]) (by rw [hb])

theorem State.ledgerKept.updChan (h : s.ledgerKept) (c : Nat) (f : ChanRec → ChanRec) : (s.updChan c f).ledgerKept :=
  have hb := State.books_updChan h c f
  h.of_books (by rw [hb]) (by rw [hb])

theorem State.ledgerKept.noteChan (h : s.ledgerKept) (c : Nat) (f : ChanRec → ChanRec) : (s.noteChan c f).ledgerKept :=
  have hb := State.books_noteChan h c f
  h.of_books (by rw [hb]) (by rw [hb])

/-! ### What leaves the books -/

theorem State.books_updPort (s : State) (p : HostPort) (f : HostPortState → HostPortState) : (s.updPort p f).books = s.books := by cases p <;> rfl
theorem State.books_count (s : State) (o k : Nat) : (s.count o k).books = s.books := rfl
theorem State.books_bwCount (s : State) (u : Nat) (b : Bool) (k : Nat) : (s.bwCount u b k).books = s.books := rfl
theorem State.books_updVchan (s : State) (c : Nat) (f : Chan → Chan) : (s.updVchan c f).books = s.books := rfl
theorem State.books_setRunning (s : State) (c : Nat) (r : Option Running) : (s.setRunning c r).books = s.books := rfl

theorem State.books_saveHealth (s : State) : s.saveHealth.books = s.books :=
  State.books_updLedger_other s _ (fun _ => rfl) (fun _ => rfl) fun _ => rfl

theorem State.books_addLocal (s : State) (k : Nat) : (s.addLocal k).books = s.books := by
  unfold State.addLocal
  dsimp only
  split
  · exact State.books_saveHealth _
  · rfl

theorem State.books_hostWrite (s : State) (p : HostPort) (a : Word64) (bs : List Byte) : (s.hostWrite p a bs).books = s.books :=
  State.books_updPort ..

theorem State.books_msix (s : State) (p : HostPort) (v : Nat) : (s.msix p v).books = s.books := by
  unfold State.msix
  split <;> exact State.books_updPort ..

theorem State.books_logStatus (s : State) (st : BitVec 16) (x i a : Nat) (l : Bool) (p : Option (Nat × Word64)) :
    (s.logStatus st x i a l p).books = s.books :=
  (State.books_msix ..).trans ((State.books_msix ..).trans rfl)

theorem State.books_noteEvent (s : State) (p : Option (Nat × Word64)) (e : MemEvent) : (s.noteEvent p e).books = s.books := by
  cases e with
  | corrected x =>
    cases x with
    | hbm st => rfl
    | intake => exact State.books_addLocal ..
    | cluster g => exact State.books_addLocal ..
  | uncorrectable x a =>
    cases x with
    | hbm st => exact (State.books_addLocal ..).trans (State.books_logStatus ..)
    | intake => exact (State.books_addLocal ..).trans (State.books_logStatus ..)
    | cluster g => exact (State.books_addLocal ..).trans (State.books_logStatus ..)
  | poisonWritten => rfl

theorem State.books_noteAll (s : State) (p : Option (Nat × Word64)) (es : List MemEvent) : (s.noteAll p es).books = s.books :=
  State.foldl_books (fun s e => State.books_noteEvent s p e) es s

theorem State.books_wake (s : State) (a : Nat) : (s.wake a).books = s.books := by
  unfold State.wake
  split <;> rfl

theorem State.books_hbmTraffic (s : State) (a n : Nat) (w d : Bool) : (s.hbmTraffic a n w d).books = s.books := by
  have moves (o k u f m : Nat) : (((s.count o k).bwCount u w k).onFabric f m).books = s.books := rfl
  unfold State.hbmTraffic
  split
  · rfl
  · dsimp only
    split
    · exact (State.books_count ..).trans (moves ..)
    · exact moves ..

theorem State.books_writeMem (s : State) (p : Option (Nat × Word64)) (d : Bool) (a : Nat) (bs : List Byte) : (s.writeMem p d a bs).books = s.books :=
  (State.books_hbmTraffic ..).trans ((State.books_noteAll ..).trans rfl)

end Sys2Proof.Machine
end

section
/-! SUPPORT. Acceptance of a bound packet: its body in both copies of the intake store, and the commit of its entry (R206, R242, R254). -/

namespace Sys2Proof.Machine

variable {s t u : State}

/-! ### Buffers -/

theorem State.freeBuffer_eq (s : State) (b : Option Bool) : s.freeBuffer b = { s with intake := (s.freeBuffer b).intake } := by
  rcases b with _ | _ | _ <;> rfl

/-- A buffer freed adds to the free buffers of its half, and changes nothing else of intake. -/
theorem State.freeBuffer_intake (s : State) (b : Option Bool) :
    (s.freeBuffer b).intake = { s.intake with
      free0 := if b = some false then s.intake.free0 + 1 else s.intake.free0
      free1 := if b = some true then s.intake.free1 + 1 else s.intake.free1 } := by
  rcases b with _ | _ | _ <;> rfl

theorem State.books_freeBuffer (s : State) (b : Option Bool) : (s.freeBuffer b).books = s.books := by
  rw [State.freeBuffer_eq]
  rfl

/-! ### The body in the intake store -/

theorem State.writeMem_carries (s : State) (p : Option (Nat × Word64)) (d : Bool) (a : Nat) (bs : List Byte) : s.Carries (s.writeMem p d a bs) :=
  (State.carries_mem s _).trans ((State.noteAll_accounts ..).trans (State.hbmTraffic_accounts ..)).carries

theorem State.wake_accounts (s : State) (a : Nat) : s.Accounts (s.wake a) := by
  unfold State.wake
  split
  · exact ⟨rfl⟩
  · exact State.Accounts.refl s

theorem State.carryPoison_carries (s : State) (c : Nat) : s.Carries (s.carryPoison c) :=
  (State.carries_mem s _).trans (State.noteAll_accounts ..).carries

theorem State.books_carryPoison (s : State) (c : Nat) : (s.carryPoison c).books = s.books := State.books_noteAll ..

theorem State.Carries.foldl {α : Type} {f : State → α → State} (hf : ∀ (s : State) (a : α), s.Carries (f s a)) (l : List α)
    (s : State) : s.Carries (l.foldl f s) := by
  induction l generalizing s with
  | nil => exact State.carries_mem s s.mem
  | cons a l ih => exact (hf s a).trans (ih _)

/-- One copy of a body stored from address `a` on, with the codewords `bad` poisoned. -/
def State.storeBody (s : State) (bad : List Nat) (body : List Byte) (a : Nat) : State :=
  bad.foldl (fun (s : State) c => s.carryPoison (a / 32 + c)) ((s.wake a).writeMem none true a body)

theorem State.storeBody_carries (s : State) (bad : List Nat) (body : List Byte) (a : Nat) : s.Carries (s.storeBody bad body a) :=
  ((State.wake_accounts s a).carries.trans (State.writeMem_carries ..)).trans (State.Carries.foldl (fun s _ => State.carryPoison_carries s _) bad _)

theorem State.books_storeBody (s : State) (bad : List Nat) (body : List Byte) (a : Nat) : (s.storeBody bad body a).books = s.books :=
  (State.foldl_books (fun s _ => State.books_carryPoison s _) bad _).trans ((State.books_writeMem ..).trans (State.books_wake ..))

/-- A body in both copies changes memory and accounts alone, but for the note that no copy is missing. -/
theorem State.writeBody_both (s : State) (i : Nat) (k : Packet) : ∃ u, s.Carries u ∧ u.books = s.books
    ∧ s.writeBody i k true true = { u with intake := { u.intake with oneCopy := Tab.put 0 u.intake.oneCopy i 0 } } := by
  let body := leBytes 64 k.decode.1.header.toNat ++ k.decode.1.payload
  let bad := (k.decode.1.chk.map (·.1)).filter fun c => 32 * c < body.length
  refine ⟨((s.noteAll none k.decode.2).storeBody bad body (bodyAddr i false)).storeBody bad body (bodyAddr i true), ?_, ?_, rfl⟩
  · exact ((State.noteAll_accounts ..).carries.trans (State.storeBody_carries ..)).trans (State.storeBody_carries ..)
  · exact (State.books_storeBody ..).trans ((State.books_storeBody ..).trans (State.books_noteAll ..))

/-! ### The commit -/

theorem State.channelEffect_none {k : Packet} (h : isChannelOp k.opcode = false) (i : Nat) : s.channelEffect k i = s := by
  simp only [isChannelOp, Bool.or_eq_false_iff, decide_eq_false_iff_not] at h
  obtain ⟨⟨hopen, hadopt⟩, hclose⟩ := h
  unfold State.channelEffect
  rw [if_neg hopen, if_neg hadopt, if_neg hclose]

/-- A channel's record with the pour that is accepted last. -/
def ChanRec.accepts (ch : ChanRec) (k : Packet) : ChanRec := { ch with accepted := BitVec.ofNat 64 k.pour, lastOp := BitVec.ofNat 8 k.opcode }

theorem State.commitAccept_books (h : s.ledgerKept) {b : Bound} (hop : isChannelOp b.packet.opcode = false) :
    (s.commitAccept b).books = { s.books with
      entries := Tab.upd Entry.free s.books.entries b.entry fun _ => b.packet.entry s.cnt.regs.time
      chans := Tab.upd ChanRec.closed s.books.chans b.packet.chan fun ch => ch.accepts b.packet } := by
  have he := State.books_updEntry h b.entry fun _ => b.packet.entry s.cnt.regs.time
  have hn := State.books_noteChan (h.updEntry b.entry fun _ => b.packet.entry s.cnt.regs.time) b.packet.chan fun ch => ch.accepts b.packet
  unfold State.commitAccept
  dsimp only
  rw [State.channelEffect_none hop, State.books_freeBuffer, State.books_count]
  rw [he] at hn
  exact hn

/-- The commit of an entry changes the ledger, the order of acceptance, the counters and the free buffers. -/
theorem State.commitAccept_leaves {b : Bound} (hop : isChannelOp b.packet.opcode = false) :
    (s.commitAccept b).accepted = s.accepted ++ [b.entry] ∧ (s.commitAccept b).intake = (s.freeBuffer b.packet.buffer).intake := by
  unfold State.commitAccept
  dsimp only
  rw [State.channelEffect_none hop]
  constructor
  · rw [State.freeBuffer_eq]
    rfl
  · rw [State.freeBuffer_intake, State.freeBuffer_intake]
    rfl

/-! ### The first bound packet -/

/-- The packet taken out of those bound on its channel, and no body of the channel held back any more. -/
def State.dropBound (s : State) (c i : Nat) : State :=
  { s with
    err := { s.err with intakeStall := s.err.intakeStall &&& ~~~(1#64 <<< c) }
    intake := { s.intake with
      bound := s.intake.bound.filter fun x => x.entry ≠ i
      held := s.intake.held &&& ~~~(1#64 <<< c) } }

theorem State.boundFirst.chan {c : Nat} {b : Bound} (h : s.boundFirst c b) : b.packet.chan = c := by
  have := List.find?_some h.1
  simpa using this

theorem State.boundFirst.accepts {c : Nat} {b : Bound} (h : s.boundFirst c b) :
    s.acceptWith c true true = ((s.writeBody b.entry b.packet true true).dropBound c b.entry).commitAccept b := by
  obtain ⟨hfind, -, hlost, -⟩ := h
  unfold State.acceptWith
  rw [hfind]
  dsimp only
  rw [if_neg (by simp [hlost])]
  rfl

theorem State.boundFirst.waits {c : Nat} {b : Bound} (h : s.boundFirst c b) :
    s.acceptWith c false false = { s with intake := { s.intake with held := s.intake.held ||| (1#64 <<< c) } } := by
  obtain ⟨hfind, -, hlost, -⟩ := h
  unfold State.acceptWith
  rw [hfind]
  dsimp only
  rw [if_neg (by simp [hlost])]
  rfl

/-- PACKET_ACCEPT acts on a ready part while no body of the channel is held back. -/
theorem exec_packetAccept {c : Fin 64} (hready : s.boot.phase = .ready) (hheld : s.intake.held.getLsbD c.val = false) (s0 s4 : Bool) :
    exec (.packetAccept c s0 s4) s = .next (s.acceptWith c.val s0 s4) := by
  refine congrArg Host.Outcome.next (if_neg ?_)
  rintro (hp | hb)
  · exact hp hready
  · exact Bool.false_ne_true (hheld.symm.trans hb)

/-- What acceptance leaves of a bound packet whose body is in both copies of the intake store. -/
theorem State.boundFirst.accepted {c : Nat} {b : Bound} (h : s.boundFirst c b) (hop : isChannelOp b.packet.opcode = false) :
    (s.acceptWith c true true).books = { s.books with
        entries := Tab.upd Entry.free s.books.entries b.entry fun _ => b.packet.entry s.cnt.regs.time
        chans := Tab.upd ChanRec.closed s.books.chans c fun ch => ch.accepts b.packet }
      ∧ (s.acceptWith c true true).accepted = s.accepted ++ [b.entry]
      ∧ ∃ one, (s.acceptWith c true true).intake = { s.intake with
        oneCopy := one
        bound := s.intake.bound.filter fun x => x.entry ≠ b.entry
        held := s.intake.held &&& ~~~(1#64 <<< c)
        free0 := (s.freeBuffer b.packet.buffer).intake.free0
        free1 := (s.freeBuffer b.packet.buffer).intake.free1 } := by
  obtain ⟨u, hu, hub, hw⟩ := State.writeBody_both s b.entry b.packet
  have hd : ((s.writeBody b.entry b.packet true true).dropBound c b.entry).books = s.books := by
    rw [hw]
    exact hub
  have hkept : ((s.writeBody b.entry b.packet true true).dropBound c b.entry).ledgerKept := by
    obtain ⟨-, -, -, hk⟩ := h
    exact hk.of_books (congrArg Books.lost hd) (congrArg Books.copy hd)
  obtain ⟨hacc, hint⟩ := State.commitAccept_leaves (s := (s.writeBody b.entry b.packet true true).dropBound c b.entry) hop
  have hui : u.intake = s.intake := by rw [State.Accounts.eq hu]
  have hua : u.accepted = s.accepted := by rw [State.Accounts.eq hu]
  rw [h.accepts]
  refine ⟨?_, ?_, Tab.put 0 s.intake.oneCopy b.entry 0, ?_⟩
  · rw [State.commitAccept_books hkept hop, hd, State.time_of_books hd, h.chan]
  · rw [hacc, hw]
    exact congrArg (· ++ [b.entry]) hua
  · rw [hint, State.freeBuffer_intake, State.freeBuffer_intake, hw, State.dropBound, hui]

end Sys2Proof.Machine

namespace Sys2Proof.Machine

/-- Settles O22: the body's writes leave the books, and the commit puts the entry and the channel's last accepted pour into them. -/
theorem packetAccepted : Obligations.PacketAccepted := by
  unfold Obligations.PacketAccepted
  intro c s b h
  have hready : s.boot.phase = .ready := h.2.1
  refine ⟨fun x hx hheld hop => ?_, fun hheld => ?_, fun hheld => ?_⟩
  · have hexec : exec x.1 s = .next (s.acceptWith c.val true true) := by
      simp only [List.mem_cons, List.not_mem_nil, or_false] at hx
      obtain rfl | rfl := hx
      · exact exec_packetAccept hready hheld true true
      · exact congrArg Host.Outcome.next (if_pos ⟨hready, hheld⟩)
    obtain ⟨hbooks, hacc, one, hint⟩ := h.accepted hop
    have hentry (i : Nat) : (s.acceptWith c.val true true).entry i = if b.entry = i then b.packet.entry s.cnt.regs.time else s.entry i :=
      State.entry_of_upd (f := fun _ => b.packet.entry s.cnt.regs.time) (congrArg Books.entries hbooks) i
    have hchan (d : Nat) : (s.acceptWith c.val true true).chan d = if c.val = d then (s.chan c.val).accepts b.packet else s.chan d :=
      State.chan_of_upd (f := fun ch => ch.accepts b.packet) (congrArg Books.chans hbooks) d
    refine ⟨_, hexec, ?_, hacc, ?_, ?_, ?_, ?_, ?_, ?_, fun i hi => ?_, fun d hd => ?_⟩
    · rw [hentry, if_pos rfl]
    · rw [hchan, if_pos rfl]
      rfl
    · rw [hchan, if_pos rfl]
      rfl
    · rw [hint]
    · rw [hint]
      simp
    · rw [hint]
    · rw [hint]
    · rw [hentry, if_neg (Ne.symm hi)]
    · rw [hchan, if_neg (Ne.symm hd)]
  · exact (exec_packetAccept hready hheld false false).trans (congrArg Host.Outcome.next h.waits)
  · refine ⟨_, congrArg Host.Outcome.next (if_pos hheld), ?_, rfl⟩
    simp

end Sys2Proof.Machine
end

section
/-! SUPPORT. The stop of an attempt: what its copies and collectives still write leaves its fault (R92), and registers of the channels (R211, R249, R256). -/

namespace Sys2Proof.Machine

variable {s t u : State}

/-! ### What leaves the fault of the attempt -/

/-- The fault of the running attempt stands. -/
def State.KeepsFault (s t : State) : Prop := t.run.map (·.fault) = s.run.map (·.fault)

theorem State.KeepsFault.refl (s : State) : s.KeepsFault s := rfl

theorem State.KeepsFault.trans (h : s.KeepsFault t) (h' : t.KeepsFault u) : s.KeepsFault u := Eq.trans h' h

theorem State.KeepsFault.fst {α : Type} {x : State × α} {a : α} (h : s.KeepsFault x.1) (hx : x = (t, a)) : s.KeepsFault t := by
  rwa [hx] at h

theorem State.Carries.keepsFault (h : s.Carries t) : s.KeepsFault t := by
  have hrun : t.run = s.run := State.Accounts.run (s := { s with mem := t.mem }) h
  unfold State.KeepsFault
  rw [hrun]

theorem State.KeepsFault.foldl {α : Type} {f : State → α → State} (hf : ∀ (s : State) (a : α), s.KeepsFault (f s a)) (l : List α) (s : State) :
    s.KeepsFault (l.foldl f s) := by
  induction l generalizing s with
  | nil => exact State.KeepsFault.refl s
  | cons a l ih => exact (hf s a).trans (ih _)

theorem State.keepsFault_markWritten (s : State) (p : Pattern) (a : Nat) : s.KeepsFault (s.markWritten p a) := by
  unfold State.markWritten
  split
  · exact Option.map_map ..
  · exact State.KeepsFault.refl s

theorem State.trafficOf_accounts (s : State) (w : Nat) (write : Bool) (bits : List Nat) : s.Accounts (s.trafficOf w write bits) :=
  State.Accounts.foldl (fun s k => State.hbmTraffic_accounts s (32 * k) 32 write false) _ _

theorem consume_carries (s : State) (addrs : List Nat) (w : Nat) : s.Carries (consume s addrs w).1 := by
  have hnote := (State.carries_mem s _).trans
    (State.noteAll_accounts { s with mem := (s.mem.readElems .chip w addrs).mem } s.runPour (s.mem.readElems .chip w addrs).events).carries
  unfold consume
  dsimp only
  split <;> exact hnote

theorem CollCtx.readS_carries (c : CollCtx) (idx : List Nat) (s : State) : s.Carries (c.readS idx s).1 := by
  have hread := (s.trafficOf_accounts (widthBits c.rec_.fmt) false (idx.map fun i => c.sBits.getD i 0)).carries.trans
    (consume_carries _ (idx.map fun i => c.sBits.getD i 0) (widthBits c.rec_.fmt))
  unfold CollCtx.readS
  dsimp only
  split
  · rename_i heq
    rw [heq] at hread
    exact hread
  · rename_i heq
    rw [heq] at hread
    exact hread

theorem CollCtx.carryS_carries (c : CollCtx) (idx : List Nat) (s : State) : s.Carries (c.carryS idx s).1 :=
  (State.carries_mem s _).trans ((State.noteAll_accounts ..).trans (State.trafficOf_accounts ..)).carries

theorem CollCtx.storeD_keepsFault (c : CollCtx) (vals : List (Nat × Nat × Bool)) (n : CollInstance) (s : State) :
    s.KeepsFault (c.storeD vals n s).1 := by
  cases vals with
  | nil => exact (carryCws_carries ..).keepsFault
  | cons v vs => exact (State.keepsFault_markWritten ..).trans (carryCws_carries ..).keepsFault

theorem CollCtx.finish_keepsFault (c : CollCtx) (vals : List (Nat × Nat)) (n : CollInstance) (s : State) : s.KeepsFault (c.finish vals n s).1 :=
  c.storeD_keepsFault ..

theorem CollCtx.moveIn_keepsFault (c : CollCtx) (vals : List (Nat × Nat × Bool)) (n : CollInstance) (s : State) :
    s.KeepsFault (c.moveIn vals n s).1 := c.storeD_keepsFault ..

theorem CollCtx.combineIn_keepsFault (c : CollCtx) (vals : List (Nat × Nat)) (n : CollInstance) (s : State) :
    s.KeepsFault (c.combineIn vals n s).1 := by
  have hread := (c.readS_carries (vals.map (·.1)) s).keepsFault
  unfold CollCtx.combineIn
  split
  · next heq => exact hread.fst heq
  · next heq => exact (hread.fst heq).trans (c.finish_keepsFault ..)

theorem CollCtx.takePart_keepsFault (c : CollCtx) (k : Nat) (t : StreamSpec) (f m : Nat) (out : Option CollFault) (data : List Byte)
    (poison : List Nat) (n : CollInstance) (s : State) : s.KeepsFault (c.takePart k t f m out data poison n s).1 := by
  unfold CollCtx.takePart
  dsimp only
  split
  · exact c.moveIn_keepsFault ..
  · split
    · exact c.moveIn_keepsFault ..
    · split
      · exact State.KeepsFault.refl s
      · split
        · next heq => exact (c.combineIn_keepsFault ..).fst heq
        · next heq => exact (c.combineIn_keepsFault ..).fst heq

theorem CollCtx.beginPart_keepsFault (c : CollCtx) (m : Nat) (out : Option CollFault) (n : CollInstance) (s : State) :
    s.KeepsFault (c.beginPart m out n s).1 := by
  have hread := (c.readS_carries ((c.ownPart.take m).map (·.1)) s).keepsFault
  unfold CollCtx.beginPart
  dsimp only
  split
  · split
    · next heq => exact hread.fst heq
    · next heq => exact (hread.fst heq).trans (c.finish_keepsFault ..)
  · exact (c.carryS_carries ..).keepsFault.trans (c.moveIn_keepsFault ..)

theorem CollCtx.land_keepsFault (c : CollCtx) (n : CollInstance) (s : State) : s.KeepsFault (c.land n s) := by
  unfold CollCtx.land
  dsimp only
  split
  · refine State.KeepsFault.foldl (fun s kt => ?_) _ _
    split
    · exact State.KeepsFault.refl s
    · split
      · exact State.KeepsFault.refl s
      · exact c.takePart_keepsFault ..
  · refine (c.beginPart_keepsFault (c.admitted s c.beginWork n) none n s).trans (State.KeepsFault.foldl (fun s kt => ?_) _ _)
    split
    · exact State.KeepsFault.refl s
    · split
      · exact State.KeepsFault.refl s
      · exact c.takePart_keepsFault ..

theorem landCopy_keepsFault (g : Nat) (fl : Flight) (s : State) : s.KeepsFault (landCopy g fl s) := by
  unfold landCopy
  split
  · dsimp only
    split
    · exact State.KeepsFault.refl s
    · exact ((State.noteAll_accounts ..).carries.trans (carryCws_carries ..)).keepsFault
  · exact State.KeepsFault.refl s

theorem State.landAll_keepsFault (s : State) : s.KeepsFault s.landAll := by
  have hcopies (c : Nat × Cluster) (t : State) : t.KeepsFault (c.2.flights.foldl (fun t fl => landCopy c.1 fl t) t) :=
    State.KeepsFault.foldl (fun t fl => landCopy_keepsFault c.1 fl t) _ _
  unfold State.landAll
  refine (State.KeepsFault.foldl (fun t c => hcopies c t) s.clusters s).trans (State.KeepsFault.foldl (fun t n => ?_) _ _)
  split
  · exact CollCtx.land_keepsFault ..
  · exact State.KeepsFault.refl t

/-! ### The stop -/

/-- An attempt that ran free of faults and is stopped has the fault of the stop, and nothing of it issues any more. -/
theorem State.stopAttempt_stops {x : RunCtx} (hrun : s.run = some x) (hfault : x.fault = none) (st : BitVec 16) (replay : Bool) :
    ∃ y, (s.stopAttempt st replay).run = some y ∧ y.fault = some (st, replay) ∧ ∀ g, (s.stopAttempt st replay).attemptRuns g = false := by
  have hend : (s.endAttempt st replay).run = some { x with fault := some (st, replay), stopAt := some s.cnt.regs.time } := by
    simp [State.endAttempt, hrun, hfault]
  have hland : (s.endAttempt st replay).landAll.run.map (·.fault) = some (some (st, replay)) := by
    have hkeeps := State.landAll_keepsFault (s.endAttempt st replay)
    rw [State.KeepsFault, hend] at hkeeps
    exact hkeeps
  obtain ⟨y, hy, hyf⟩ := Option.map_eq_some_iff.mp hland
  have hclose : (s.stopAttempt st replay).run = some { y with stopAt := none } := by
    simp [State.stopAttempt, State.closeCycle, hend, hy]
  refine ⟨_, hclose, hyf, fun g => ?_⟩
  simp [State.attemptRuns, hclose, State.closing, hyf]

/-! ### Writes of channel registers -/

theorem State.resettable_runningOf {p : HostPort} {c : Nat} {r : Running} (h : s.resettable p c = some r) : s.runningOf c = some r := by
  unfold State.resettable at h
  split at h
  · cases h
  · next r' heq =>
    split at h
    · cases h
      exact heq
    · cases h

theorem exec_sprChanRhead {p : HostPort} (h : s.hostReach p = true) (c : Fin 64) (v : Word32) :
    exec (.sprChanRhead p c v) s = .next ((s.hostTlp p false 4).writeRhead p c.val v) := congrArg Host.Outcome.next (if_neg (by simp [h]))

theorem exec_channelReset {p : HostPort} (h : s.hostReach p = true) (c : Fin 64) :
    exec (.channelReset p c) s = .next ((s.hostTlp p false 4).writeReset p c.val false) := congrArg Host.Outcome.next (if_neg (by simp [h]))

theorem exec_channelResetAbandon {p : HostPort} (h : s.hostReach p = true) (c : Fin 64) :
    exec (.channelResetAbandon p c) s = .next ((s.hostTlp p false 4).writeReset p c.val true) := congrArg Host.Outcome.next (if_neg (by simp [h]))

theorem exec_rsrReinit {p : HostPort} (h : s.hostReach p = true) (v : Word32) (pass : BitVec 4) :
    exec (.rsrReinit p v pass) s = .next ((s.hostTlp p false 4).writeReinit v pass) := congrArg Host.Outcome.next (if_neg (by simp [h]))

theorem State.writeReset_none {p : HostPort} {c : Nat} (h : s.resettable p c = none) (abandon : Bool) : s.writeReset p c abandon = s.addStray := by
  rw [State.writeReset, h]

theorem State.writeReset_some {p : HostPort} {c : Nat} {r : Running} (h : s.resettable p c = some r) (abandon : Bool) :
    s.writeReset p c abandon = s.staleKept.channelReset c r abandon := by
  rw [State.writeReset, h]

/-! ### A channel reset on its pour (R249, R258) -/

/-- The running pour ended at once by a reset, its writes that wait for the host dropped. -/
def State.dropPour (s : State) (c : Nat) : State :=
  (s.updRunning c fun r => { r with out := [], planned := none }).fix c (faultedWith stSlotCollision)

theorem State.dropPour_eq (s : State) (c : Nat) : s.dropPour c = { s with running := (s.dropPour c).running } := rfl

theorem State.runningOf_dropPour {c : Nat} {r : Running} (h : s.runningOf c = some r) :
    (s.dropPour c).runningOf c = some { r with out := [], planned := none, outcome := some (faultedWith stSlotCollision) } :=
  State.runningOf_fix (r := { r with out := [], planned := none }) (by rw [State.runningOf_updRunning, h]; rfl) _

theorem State.runningOf_dropPour_other (s : State) {c d : Nat} (h : d ≠ c) : (s.dropPour c).runningOf d = s.runningOf d := by
  rw [State.dropPour, State.fix, State.updRunning, State.runningOf_setRunning, if_neg (Ne.symm h), State.updRunning, State.runningOf_setRunning,
    if_neg (Ne.symm h)]

theorem State.channelReset_again {r : Running} (h : r.cls ≠ .run) (c : Nat) : s.channelReset c r false = s.setRunning c none := by
  simp [State.channelReset, h]

theorem State.channelReset_abandon {r : Running} (h : r.cls ≠ .run) (c : Nat) : s.channelReset c r true = s.dropPour c := by
  simp [State.channelReset, State.dropPour, h]

/-- A RUN whose outcome is fixed and that is not restartable ends at once. -/
theorem State.channelReset_fixed {r : Running} (hrun : r.cls = .run) (hfixed : r.outcome.isSome = true) (h : (s.entry r.entry).restartable = false)
    (c : Nat) (abandon : Bool) : s.channelReset c r abandon = s.dropPour c := by
  have hnone : r.outcome.isNone = false := by simpa using hfixed
  simp [State.channelReset, State.dropPour, hrun, hnone, h]

/-- A RUN in an attempt that runs ends the attempt, for a replay where it is restartable and not abandoned. -/
theorem State.channelReset_running {r : Running} {x : RunCtx} {c : Nat} (hcls : r.cls = .run) (hopen : r.outcome = none) (hrun : s.run = some x)
    (hchan : x.chan = c) (hvote : x.votedUp = false) (hfault : x.fault = none) (abandon : Bool) :
    s.channelReset c r abandon = s.stopAttempt stSlotCollision (!abandon && (s.entry x.entry).restartable) := by
  simp [State.channelReset, State.resetRun, hcls, hopen, hrun, hchan, hvote, hfault]

/-! ### RSR_REINIT (R256, R257) -/

theorem State.writeReinit_code (hready : s.boot.phase = .ready) (hlost : s.riser.lost = true) (pass : BitVec 4) :
    s.writeReinit 0x52490001 pass = s.reinit pass := by
  simp [State.writeReinit, State.rsvdIf, fieldOf, hready, hlost]

theorem State.writeReinit_other {v : Word32} (hready : s.boot.phase = .ready) (hcode : v.toNat / 2 ^ 16 ≠ 0x5249)
    (hrsvd : v.toNat / 2 % 2 ^ 15 = 0) (pass : BitVec 4) : s.writeReinit v pass = s.addStray := by
  have hfield : fieldOf v.toNat 16 16 ≠ 0x5249 := by
    have hv := v.isLt
    unfold fieldOf
    omega
  have hzero : fieldOf v.toNat 1 15 = 0 := hrsvd
  simp [State.writeReinit, State.rsvdIf, hready, hzero, hfield]

/-- A ledger as RSR_REINIT writes it has no channel open, no entry in use and no pattern. -/
theorem State.reinit_eq {pass : BitVec 4} {a b : Nat} (h : reinitRegions pass = some (a, b)) :
    ∃ t, s.reinit pass = t ∧ t.riser.lost = false ∧ t.patterns = []
      ∧ t.riser.copy0 = RiserCopy.whole (decide (2 ≤ a)) (decide (a % 2 = 1)) s.freshLedger
      ∧ t.riser.copy1 = RiserCopy.whole (decide (2 ≤ b)) (decide (b % 2 = 1)) s.freshLedger := by
  refine ⟨_, rfl, ?_⟩
  unfold State.reinit
  rw [h]
  exact ⟨rfl, rfl, rfl, rfl⟩

/-- With two equal copies in service the ledger is theirs. -/
theorem State.ledger_of_copies {l : Ledger} (hlost : s.riser.lost = false) (h0 : s.riser.copy0.data = l) (h1 : s.riser.copy1.data = l) : s.ledger = l := by
  unfold State.ledger Riser.current
  rw [hlost, if_neg Bool.false_ne_true]
  split
  · exact h0
  · split
    · exact h1
    · exact h0

end Sys2Proof.Machine

namespace Sys2Proof.Machine

/-- Settles O33: each write is carried to its home, which answers by the case its conditions name; a stopped attempt keeps its fault while it
completes what has been admitted. -/
theorem channelRegisters : Obligations.ChannelRegisters := by
  unfold Obligations.ChannelRegisters
  rintro p c v s s1 hreach hready rfl
  refine ⟨rfl, fun hopen howner hle => ?_, fun hbad => ?_, fun hnone => ⟨?_, ?_⟩, fun r hr hcls => ⟨?_, ?_⟩, fun r hr hcls hfixed hres => ?_,
    fun r x hr hcls hout hrun hchan hvote hfault => ⟨?_, ?_⟩, fun hlost pass a b hregions => ?_, fun hcode hrsvd pass => ?_⟩
  · refine (exec_sprChanRhead hreach c v).trans (congrArg Host.Outcome.next (if_neg ?_))
    rintro (h | h | h)
    · exact hopen h
    · exact h howner
    · exact absurd hle (Nat.not_le.mpr h)
  · exact (exec_sprChanRhead hreach c v).trans (congrArg Host.Outcome.next (if_pos hbad))
  · rw [exec_channelReset hreach, State.writeReset_none (s := s.hostTlp p false 4) hnone]
  · rw [exec_channelResetAbandon hreach, State.writeReset_none (s := s.hostTlp p false 4) hnone]
  · rw [exec_channelReset hreach, State.writeReset_some (s := s.hostTlp p false 4) hr, State.channelReset_again hcls]
  · refine ⟨_, exec_channelResetAbandon hreach c, ?_⟩
    rw [State.writeReset_some (s := s.hostTlp p false 4) hr, State.channelReset_abandon hcls]
    exact ⟨rfl, State.runningOf_dropPour (State.resettable_runningOf hr), fun d hd => State.runningOf_dropPour_other _ hd⟩
  · refine ⟨_, exec_channelReset hreach c, ?_⟩
    rw [State.writeReset_some (s := s.hostTlp p false 4) hr, State.channelReset_fixed (s := (s.hostTlp p false 4).staleKept) hcls hfixed hres]
    exact State.runningOf_dropPour (State.resettable_runningOf hr)
  · have hstop := State.channelReset_running (s := (s.hostTlp p false 4).staleKept) hcls hout hrun hchan hvote hfault false
    obtain ⟨y, hy⟩ := State.stopAttempt_stops (s := (s.hostTlp p false 4).staleKept) hrun hfault stSlotCollision (s.entry x.entry).restartable
    refine ⟨_, y, exec_channelReset hreach c, ?_⟩
    rw [State.writeReset_some (s := s.hostTlp p false 4) hr, hstop]
    exact hy
  · have hstop := State.channelReset_running (s := (s.hostTlp p false 4).staleKept) hcls hout hrun hchan hvote hfault true
    obtain ⟨y, hy⟩ := State.stopAttempt_stops (s := (s.hostTlp p false 4).staleKept) hrun hfault stSlotCollision false
    refine ⟨_, y, exec_channelResetAbandon hreach c, ?_⟩
    rw [State.writeReset_some (s := s.hostTlp p false 4) hr, hstop]
    exact hy
  · obtain ⟨t, ht, htlost, hpat, h0, h1⟩ := State.reinit_eq (s := s.hostTlp p false 4) hregions
    have hledger := State.ledger_of_copies (l := (s.hostTlp p false 4).freshLedger) htlost (by rw [h0]; rfl) (by rw [h1]; rfl)
    have hexec := (State.writeReinit_code (s := s.hostTlp p false 4) hready hlost pass).trans ht
    refine ⟨t, (exec_rsrReinit hreach ..).trans (congrArg Host.Outcome.next hexec), htlost, ?_, ?_, ?_, hpat, fun d => ?_, fun i => ?_, ?_, ?_⟩
    · rw [h0]; rfl
    · rw [h1]; rfl
    · rw [h0, h1]; rfl
    · rw [State.chan, hledger]; rfl
    · rw [State.entry, hledger]; rfl
    · rw [hledger]; rfl
    · rw [hledger]; rfl
  · rw [exec_rsrReinit hreach, State.writeReinit_other (s := s.hostTlp p false 4) hready hcode hrsvd]

end Sys2Proof.Machine
end

section
/-! SUPPORT. What goes out of one host port: writes, messages and reads, and what waits for it (R196, R211, R214, R220). -/

namespace Sys2Proof.Machine

variable {s t u : State} {p : HostPort}

/-! ### A port that sends -/

/-- A port without its messages. -/
def HostPortState.plain (h : HostPortState) : HostPortState := { h with pending := 0, late := [], out := [] }

theorem HostPortState.maySend_of_plain {h g : HostPortState} (hp : g.plain = h.plain) (v : Nat) : g.maySend v = h.maySend v := by
  have hmay : g.plain.maySend v = h.plain.maySend v := by rw [hp]
  exact hmay

theorem HostPortState.mayWrite_of_plain {h g : HostPortState} (hp : g.plain = h.plain) : g.mayWrite = h.mayWrite := by
  have hmay : g.plain.mayWrite = h.plain.mayWrite := by rw [hp]
  exact hmay

/-- The port `g` is the port `h` after some sending: what went out before stands, a vector that MSI-X holds back stays pending, and a
pending one that it lets out is still pending or sent. -/
structure HostPortState.Sent (h g : HostPortState) : Prop where
  plain : g.plain = h.plain
  out   : h.out <+: g.out
  held  : ∀ v, h.maySend v = false → h.pending.getLsbD v = true → g.pending.getLsbD v = true
  sent  : ∀ v, h.maySend v = true → h.pending.getLsbD v = true → g.pending.getLsbD v = true ∨ HostOut.msix v ∈ g.out
  clear : ∀ v, h.maySend v = true → h.pending.getLsbD v = false → g.pending.getLsbD v = false

theorem HostPortState.Sent.refl (h : HostPortState) : h.Sent h := ⟨rfl, ⟨[], List.append_nil _⟩, fun _ _ h => h, fun _ _ h => .inl h, fun _ _ h => h⟩

theorem HostPortState.Sent.trans {h g k : HostPortState} (x : h.Sent g) (y : g.Sent k) : h.Sent k := by
  have hmay (v : Nat) : g.maySend v = h.maySend v := HostPortState.maySend_of_plain x.plain v
  refine ⟨y.plain.trans x.plain, x.out.trans y.out, fun v hv hp => ?_, fun v hv hp => ?_, fun v hv hp => ?_⟩
  · exact y.held v ((hmay v).trans hv) (x.held v hv hp)
  · rcases x.sent v hv hp with hp | hout
    · exact y.sent v ((hmay v).trans hv) hp
    · exact .inr (y.out.subset hout)
  · exact y.clear v ((hmay v).trans hv) (x.clear v hv hp)

/-- Something more goes out. -/
theorem HostPortState.Sent.puts (h : HostPortState) (l : List HostOut) : h.Sent { h with out := h.out ++ l } :=
  ⟨rfl, ⟨l, rfl⟩, fun _ _ h => h, fun _ _ h => .inl h, fun _ _ h => h⟩

/-- Refusals that wait for the port change nothing of what has gone out. -/
theorem HostPortState.Sent.late (h : HostPortState) (l : List (Word64 × List Byte × Option Nat)) : h.Sent { h with late := l } :=
  ⟨rfl, ⟨[], List.append_nil _⟩, fun _ _ h => h, fun _ _ h => .inl h, fun _ _ h => h⟩

theorem getLsbD_setPending (b : BitVec 65) (v w : Nat) :
    (b ||| (1#65 <<< v)).getLsbD w = (b.getLsbD w || decide (w = v ∧ w < 65)) := by
  rw [BitVec.getLsbD_or, BitVec.getLsbD_shiftLeft, BitVec.getLsbD_one]
  by_cases hw : w = v
  · subst hw; simp
  · have : ¬ (v ≤ w ∧ w - v = 0) := by omega
    by_cases hlt : w < v
    · simp [hw, hlt]
    · have : w - v ≠ 0 := by omega
      simp [hw, this]

/-- A vector that MSI-X holds back becomes pending. -/
theorem HostPortState.Sent.pend {h : HostPortState} {v : Nat} (hv : h.maySend v = false) : h.Sent { h with pending := h.pending ||| (1#65 <<< v) } := by
  have hor (w : Nat) (hw : h.pending.getLsbD w = true) : (h.pending ||| (1#65 <<< v)).getLsbD w = true := by
    rw [getLsbD_setPending, hw, Bool.true_or]
  refine ⟨rfl, ⟨[], List.append_nil _⟩, fun w _ hw => hor w hw, fun w _ hw => .inl (hor w hw), fun w hmay hw => ?_⟩
  have hne : w ≠ v := by
    rintro rfl
    rw [hv] at hmay
    cases hmay
  have hset : (h.pending ||| (1#65 <<< v)).getLsbD w = false := by
    rw [getLsbD_setPending, hw]
    simp [hne]
  exact hset

/-! ### A state whose port sends -/

theorem State.port_updPort_other (s : State) {p q : HostPort} (h : q ≠ p) (f : HostPortState → HostPortState) : (s.updPort p f).port q = s.port q := by
  cases p <;> cases q
  · exact absurd rfl h
  · rfl
  · rfl
  · exact absurd rfl h

/-- The state `t` is `s` after port `p` has sent: the ledger's counts of replies, the rings, the running pours' writes and the counters may
have moved on; the other port, the channels' owners and the refusals stand. -/
structure State.Sends (p : HostPort) (s t : State) : Prop where
  eq : t = { s with
    riser := t.riser
    trail := t.trail
    chans := t.chans
    running := t.running
    cope := t.cope
    drag := t.drag
    cnt := t.cnt }
  other   : ∀ q, q ≠ p → t.port q = s.port q
  own     : (s.port p).Sent (t.port p)
  owner   : ∀ c, (t.chan c).owner = (s.chan c).owner
  refusal : ∀ c, (t.vchan c).refusal = (s.vchan c).refusal

theorem State.Sends.refl (p : HostPort) (s : State) : s.Sends p s := ⟨rfl, fun _ _ => rfl, .refl _, fun _ => rfl, fun _ => rfl⟩

theorem State.Sends.trans (h : s.Sends p t) (h' : t.Sends p u) : s.Sends p u :=
  ⟨h'.eq.trans (congrArg (fun y : State => { y with
    riser := u.riser
    trail := u.trail
    chans := u.chans
    running := u.running
    cope := u.cope
    drag := u.drag
    cnt := u.cnt }) h.eq),
  fun q hq => (h'.other q hq).trans (h.other q hq), h.own.trans h'.own, fun c => (h'.owner c).trans (h.owner c), fun c => (h'.refusal c).trans (h.refusal c)⟩

theorem State.Sends.foldl {α : Type} {f : State → α → State} (hf : ∀ (s : State) (a : α), s.Sends p (f s a)) (l : List α) (s : State) :
    s.Sends p (l.foldl f s) := by
  induction l generalizing s with
  | nil => exact State.Sends.refl p s
  | cons a l ih => exact (hf s a).trans (ih _)

theorem State.Sends.mem (h : s.Sends p t) : t.mem = s.mem := by rw [h.eq]
theorem State.Sends.intake (h : s.Sends p t) : t.intake = s.intake := by rw [h.eq]

theorem State.Sends.mayWrite (h : s.Sends p t) : (t.port p).mayWrite = (s.port p).mayWrite := HostPortState.mayWrite_of_plain h.own.plain
theorem State.Sends.maySend (h : s.Sends p t) (v : Nat) : (t.port p).maySend v = (s.port p).maySend v :=
  HostPortState.maySend_of_plain h.own.plain v

/-! ### One operation each -/

theorem State.sends_updPort {f : HostPortState → HostPortState} (h : (s.port p).Sent (f (s.port p))) : s.Sends p (s.updPort p f) := by
  refine ⟨?_, fun q hq => State.port_updPort_other s hq f, ?_, fun c => ?_, fun c => ?_⟩
  · cases p <;> rfl
  · rwa [State.port_updPort]
  · cases p <;> rfl
  · cases p <;> rfl

theorem State.sends_cnt (p : HostPort) (s : State) (x : Counters) : s.Sends p { s with cnt := x } := by
  refine ⟨rfl, ?_, ?_, fun c => rfl, fun c => rfl⟩
  · intro q _
    cases q <;> rfl
  · cases p <;> exact HostPortState.Sent.refl _

theorem State.sends_running (p : HostPort) (s : State) (x : Tab (Option Running)) : s.Sends p { s with running := x } := by
  refine ⟨rfl, ?_, ?_, fun c => rfl, fun c => rfl⟩
  · intro q _
    cases q <;> rfl
  · cases p <;> exact HostPortState.Sent.refl _

theorem State.sends_linesDone (p : HostPort) (s : State) : s.Sends p s.linesDone := by
  refine ⟨rfl, ?_, ?_, fun c => rfl, fun c => rfl⟩
  · intro q _
    cases q <;> rfl
  · cases p <;> exact HostPortState.Sent.refl _

theorem State.sends_updVchan {f : Chan → Chan} (hf : ∀ v, (f v).refusal = v.refusal) (p : HostPort) (s : State) (c : Nat) :
    s.Sends p (s.updVchan c f) := by
  refine ⟨rfl, ?_, ?_, fun c => rfl, fun d => ?_⟩
  · intro q _
    cases q <;> rfl
  · cases p <;> exact HostPortState.Sent.refl _
  · rw [State.vchan_updVchan]
    split
    · next h => rw [hf, h]
    · rfl

/-- A note of a channel is read, or finds the copy that reads come from lost. -/
theorem State.chan_noteChan (s : State) (c d : Nat) (f : ChanRec → ChanRec) :
    (s.noteChan c f).chan d = s.chan d ∨ (s.noteChan c f).chan d = if c = d then f (s.chan c) else s.chan d := by
  by_cases h : s.ledgerKept
  · exact .inr (State.chan_of_upd (congrArg Books.chans (State.books_noteChan h c f)) d)
  · refine .inl ?_
    have hl : s.riser.lost = false := by
      cases hl : s.riser.lost with
      | false => rfl
      | true => exact absurd (.inl hl) h
    have hcur : (s.riser.current s.sprue.activeB1).state = .lost := not_not.mp fun hn => h (.inr hn)
    have hmap : (s.noteChan c f).riser.current s.sprue.activeB1 = (s.riser.current s.sprue.activeB1).note fun l => l.updChans c f := by
      rw [State.noteChan_riser hl]
      exact Riser.current_mapCopies (fun x => RiserCopy.note_state_die x _) s.riser s.sprue.activeB1
    have hlost : (s.noteChan c f).riser.lost = false := by rw [State.noteChan_riser hl, hl]
    have hledger : (s.noteChan c f).ledger = s.ledger := by
      have hsprue : (s.noteChan c f).sprue = s.sprue := rfl
      simp only [State.ledger, hsprue, hlost, hl, hmap, RiserCopy.note, if_pos hcur, Bool.false_eq_true, if_false]
    rw [State.chan, State.chan, hledger]

theorem State.sends_noteChan {f : ChanRec → ChanRec} (hf : ∀ ch, (f ch).owner = ch.owner) (p : HostPort) (s : State) (c : Nat) :
    s.Sends p (s.noteChan c f) := by
  refine ⟨rfl, ?_, ?_, fun d => ?_, fun d => rfl⟩
  · intro q _
    cases q <;> rfl
  · cases p <;> exact HostPortState.Sent.refl _
  · rcases State.chan_noteChan s c d f with h | h
    · rw [h]
    · rw [h]
      split
      · next hcd => rw [hf, hcd]
      · rfl

theorem State.sends_hostWrite (p : HostPort) (s : State) (a : Word64) (bs : List Byte) : s.Sends p (s.hostWrite p a bs) :=
  (State.sends_updPort (f := fun h => { h with out := h.out ++ [.write a bs] }) (.puts _ _)).trans (State.sends_cnt ..)

theorem State.sends_count (p : HostPort) (s : State) (o k : Nat) : s.Sends p (s.count o k) := State.sends_cnt ..

theorem State.sends_msix (p : HostPort) (s : State) (v : Nat) : s.Sends p (s.msix p v) := by
  unfold State.msix
  split
  · exact (State.sends_updPort (f := fun h => { h with out := h.out ++ [.msix v] }) (.puts _ _)).trans (State.sends_cnt ..)
  · next h => exact State.sends_updPort (.pend (by simpa using h))

theorem State.port_msix_open {v : Nat} (h : (s.port p).maySend v = true) : (s.msix p v).port p = { s.port p with out := (s.port p).out ++ [.msix v] } := by
  rw [State.msix, if_pos h]
  cases p <;> rfl

theorem State.port_msix_held {v : Nat} (h : (s.port p).maySend v = false) :
    (s.msix p v).port p = { s.port p with pending := (s.port p).pending ||| (1#65 <<< v) } := by
  rw [State.msix, if_neg (by simp [h]), State.port_updPort]

theorem getLsbD_pending_msix {v : Nat} (hlt : v < 65) (h : (s.port p).maySend v = false) : ((s.msix p v).port p).pending.getLsbD v = true := by
  rw [State.port_msix_held h, getLsbD_setPending]
  simp [hlt]

/-! ### Replies -/

/-- A reply's write to the ring of a channel. -/
def State.putReply (s : State) (p : HostPort) (c : Nat) (r : Reply) : State :=
  ((s.linesDone.hostWrite p (s.ringSlot c).1 (r.bytes (s.ringSlot c).2)).count (ctrHost p.toNat 3) 1).updVchan c fun v =>
    { v with rtail := v.rtail + 1 }

/-- A final reply becomes the last replied pour. -/
def State.noteReplied (s : State) (c : Nat) (r : Reply) : State := if r.final then s.noteChan c fun ch => { ch with replied := r.pour } else s

theorem State.writeReply_eq (s : State) (c : Nat) (r : Reply) :
    s.writeReply c r = if (s.chan c).msixEn then ((s.putReply (s.chan c).owner c r).noteReplied c r).msix (s.chan c).owner c
      else (s.putReply (s.chan c).owner c r).noteReplied c r := rfl

theorem State.sends_putReply (p : HostPort) (s : State) (c : Nat) (r : Reply) : s.Sends p (s.putReply p c r) :=
  (((State.sends_linesDone ..).trans (State.sends_hostWrite ..)).trans (State.sends_count ..)).trans
    (State.sends_updVchan (f := fun v => { v with rtail := v.rtail + 1 }) (fun _ => rfl) ..)

theorem State.sends_noteReplied (p : HostPort) (s : State) (c : Nat) (r : Reply) : s.Sends p (s.noteReplied c r) := by
  unfold State.noteReplied
  split
  · exact State.sends_noteChan (f := fun ch => { ch with replied := r.pour }) (fun _ => rfl) ..
  · exact State.Sends.refl ..

theorem State.sends_writeReply {c : Nat} (hown : (s.chan c).owner = p) (r : Reply) : s.Sends p (s.writeReply c r) := by
  subst hown
  have hput := (State.sends_putReply (s.chan c).owner s c r).trans (State.sends_noteReplied _ _ c r)
  rw [State.writeReply_eq]
  split
  · exact hput.trans (State.sends_msix ..)
  · exact hput

theorem State.sends_pumpReply {c : Nat} (hown : (s.chan c).owner = p) : s.Sends p (s.pumpReply c) := by
  unfold State.pumpReply
  split
  · exact State.Sends.refl ..
  · next r rest _ =>
    split
    · exact (State.sends_updVchan (f := fun v => { v with replyQ := rest }) (fun _ => rfl) p s c).trans (State.sends_writeReply (by exact hown) r)
    · exact State.Sends.refl ..

theorem State.sends_pumpReplies {c : Nat} (hown : (s.chan c).owner = p) (n : Nat) : s.Sends p (State.pumpReplies n c s) := by
  induction n generalizing s with
  | zero => exact State.Sends.refl ..
  | succ n ih =>
    have hfirst := State.sends_pumpReply hown
    exact hfirst.trans (ih ((hfirst.owner c).trans hown))

/-! ### A port that may write again (R196) -/

/-- The refusals that waited for the port written. -/
def State.sendLate (s : State) (p : HostPort) : State :=
  (s.port p).late.foldl (fun s e =>
    let s := (s.hostWrite p e.1 e.2.1).count (ctrHost p.toNat 3) 1
    match e.2.2 with
    | some v => s.msix p v
    | none => s) (s.updPort p fun h => { h with late := [] })

/-- The replies that waited for the port written. -/
def State.sendReplies (s : State) (p : HostPort) : State :=
  (List.range 64).foldl (fun s c =>
    if (s.chan c).state ≠ .closed ∧ (s.chan c).owner = p then State.pumpReplies (s.vchan c).replyQ.length c s else s) s

/-- The pending messages of a port sent, as far as MSI-X lets them out. -/
def State.sendPending (s : State) (p : HostPort) : State :=
  (List.range 65).foldl (fun t v => if (s.port p).pending.getLsbD v then t.msix p v else t) (s.updPort p fun h => { h with pending := 0 })

theorem State.flushPort_eq (s : State) (p : HostPort) :
    s.flushPort p = if (s.port p).mayWrite then ((s.sendLate p).sendReplies p).sendPending p else s := rfl

theorem State.sends_sendLate (p : HostPort) (s : State) : s.Sends p (s.sendLate p) := by
  refine (State.sends_updPort (f := fun h => { h with late := [] }) (.late _ _)).trans (State.Sends.foldl (fun s e => ?_) _ _)
  have hwrite := (State.sends_hostWrite p s e.1 e.2.1).trans (State.sends_count p _ (ctrHost p.toNat 3) 1)
  dsimp only
  split
  · exact hwrite.trans (State.sends_msix ..)
  · exact hwrite

theorem State.sends_sendReplies (p : HostPort) (s : State) : s.Sends p (s.sendReplies p) := by
  refine State.Sends.foldl (fun s c => ?_) _ _
  split
  · next h => exact State.sends_pumpReplies h.2 _
  · exact State.Sends.refl ..

/-- Of the vectors of a list that `b` names, each is sent where MSI-X lets it out, and else pending. -/
theorem State.foldl_msix {b : BitVec 65} {l : List Nat} {v : Nat} (hv : v ∈ l) (hb : b.getLsbD v = true) (s : State) (hlt : v < 65) :
    let t := l.foldl (fun (t : State) w => if b.getLsbD w then t.msix p w else t) s
    ((s.port p).maySend v = true → HostOut.msix v ∈ (t.port p).out) ∧ ((s.port p).maySend v = false → (t.port p).pending.getLsbD v = true) := by
  have hstep (s : State) (w : Nat) : s.Sends p (if b.getLsbD w then s.msix p w else s) := by
    split
    · exact State.sends_msix ..
    · exact State.Sends.refl ..
  induction l generalizing s with
  | nil => cases hv
  | cons w l ih =>
    have hrest := State.Sends.foldl (p := p) hstep l (if b.getLsbD w then s.msix p w else s)
    by_cases hw : v = w
    · subst hw
      have hmsix : (if b.getLsbD v then s.msix p v else s) = s.msix p v := if_pos hb
      have hfirst := State.sends_msix p s v
      rw [hmsix] at hrest
      refine ⟨fun hmay => ?_, fun hmay => ?_⟩
      · have hout : HostOut.msix v ∈ ((s.msix p v).port p).out := by
          rw [State.port_msix_open hmay]
          exact List.mem_append_right _ List.mem_cons_self
        rw [List.foldl_cons, hmsix]
        exact hrest.own.out.subset hout
      · rw [List.foldl_cons, hmsix]
        exact hrest.own.held v ((hfirst.maySend v).trans hmay) (getLsbD_pending_msix hlt hmay)
    · have hmay := (hstep s w).maySend v
      have := ih ((List.mem_cons.mp hv).resolve_left hw) (if b.getLsbD w then s.msix p w else s)
      rw [hmay] at this
      exact this

theorem State.sends_sendPending (p : HostPort) (s : State) :
    s.Sends p (s.sendPending p) ∧ ∀ v, (s.port p).maySend v = true → ((s.sendPending p).port p).pending.getLsbD v = false := by
  have hstep (t : State) (w : Nat) : t.Sends p (if (s.port p).pending.getLsbD w then t.msix p w else t) := by
    split
    · exact State.sends_msix ..
    · exact State.Sends.refl ..
  have hfold : State.Sends p (s.updPort p fun h => { h with pending := 0 }) (s.sendPending p) := State.Sends.foldl hstep (List.range 65) _
  have hport : (s.updPort p fun h => { h with pending := 0 }).port p = { s.port p with pending := 0 } := State.port_updPort ..
  have hown := hfold.own
  rw [hport] at hown
  have hnone (v : Nat) (hmay : (s.port p).maySend v = true) : ((s.sendPending p).port p).pending.getLsbD v = false :=
    hown.clear v hmay (BitVec.getLsbD_zero ..)
  have hsent (v : Nat) (hb : (s.port p).pending.getLsbD v = true) :
      ((s.port p).maySend v = true → HostOut.msix v ∈ ((s.sendPending p).port p).out)
        ∧ ((s.port p).maySend v = false → ((s.sendPending p).port p).pending.getLsbD v = true) := by
    have hlt := BitVec.lt_of_getLsbD hb
    have := State.foldl_msix (p := p) (List.mem_range.mpr hlt) hb (s.updPort p fun h => { h with pending := 0 }) hlt
    rw [hport] at this
    exact this
  refine ⟨⟨?_, fun q hq => (hfold.other q hq).trans (State.port_updPort_other s hq _), ⟨hown.plain, hown.out, fun v hmay hb => (hsent v hb).2 hmay,
    fun v hmay hb => .inr ((hsent v hb).1 hmay), fun v hmay _ => hnone v hmay⟩, fun c => ?_, fun c => ?_⟩, hnone⟩
  · refine hfold.eq.trans ?_
    cases p <;> rfl
  · refine (hfold.owner c).trans ?_
    cases p <;> rfl
  · refine (hfold.refusal c).trans ?_
    cases p <;> rfl

theorem State.sends_flushPort (p : HostPort) (s : State) : s.Sends p (s.flushPort p) := by
  rw [State.flushPort_eq]
  split
  · exact ((State.sends_sendLate p s).trans (State.sends_sendReplies p _)).trans (State.sends_sendPending p _).1
  · exact State.Sends.refl ..

/-- No vector that MSI-X lets out waits in a port that may write and has been flushed. -/
theorem State.flushPort_clears (h : (s.port p).mayWrite = true) {v : Nat} (hmay : (s.port p).maySend v = true) :
    ((s.flushPort p).port p).pending.getLsbD v = false := by
  rw [State.flushPort_eq, if_pos h]
  have hsends := (State.sends_sendLate p s).trans (State.sends_sendReplies p _)
  exact (State.sends_sendPending p _).2 v ((hsends.maySend v).trans hmay)

theorem State.sends_flushPour {c : Nat} (hown : (s.chan c).owner = p) : s.Sends p (s.flushPour c) := by
  subst hown
  unfold State.flushPour
  split
  · exact State.Sends.refl ..
  · dsimp only
    split
    · exact State.Sends.refl ..
    · split
      · exact (State.Sends.foldl (fun s (w : Word64 × List Byte) => State.sends_hostWrite _ s w.1 w.2) _ _).trans (State.sends_running ..)
      · exact State.Sends.refl ..

theorem State.sends_askHost {c : Nat} (hown : (s.chan c).owner = p) : s.Sends p (s.askHost c) := by
  subst hown
  unfold State.askHost
  split
  · exact State.Sends.refl ..
  · split
    · exact State.Sends.refl ..
    · dsimp only
      split
      · exact State.sends_updPort (.puts _ _)
      · exact State.Sends.refl ..

theorem State.sends_restartTransfer {c : Nat} (hown : (s.chan c).owner = p) : s.Sends p (s.restartTransfer c) := by
  unfold State.restartTransfer
  split
  · exact State.Sends.refl ..
  · split
    · exact (State.sends_running p s _).trans (State.sends_askHost (by exact hown))
    · exact State.Sends.refl ..

/-- The writes and the reads of running pours go out of the port. -/
theorem State.sends_pours (p : HostPort) (l : List Nat) (s : State) :
    s.Sends p (l.foldl (fun (s : State) c => if (s.chan c).owner = p then (s.flushPour c).restartTransfer c else s) s) := by
  refine State.Sends.foldl (fun s c => ?_) l s
  split
  · next h =>
    have hpour := State.sends_flushPour h
    exact hpour.trans (State.sends_restartTransfer ((hpour.owner c).trans h))
  · exact State.Sends.refl ..

theorem State.sends_portBack (p : HostPort) (s : State) : s.Sends p (s.portBack p) := by
  unfold State.portBack
  split
  · exact (State.sends_flushPort p s).trans (State.sends_pours ..)
  · exact State.Sends.refl ..

/-- A port that may write again has sent, or may still not send, each vector that was pending. -/
theorem State.portBack_sends (h : (s.port p).mayWrite = true) (v : Nat) :
    ((s.port p).maySend v = true → ((s.portBack p).port p).pending.getLsbD v = false
      ∧ ((s.port p).pending.getLsbD v = true → HostOut.msix v ∈ ((s.portBack p).port p).out))
    ∧ ((s.port p).maySend v = false → (s.port p).pending.getLsbD v = true → ((s.portBack p).port p).pending.getLsbD v = true) := by
  have hall := State.sends_portBack p s
  have hclear (hmay : (s.port p).maySend v = true) : ((s.portBack p).port p).pending.getLsbD v = false := by
    have hpours := State.sends_pours p (List.range 64) (s.flushPort p)
    have hback : s.portBack p = _ := if_pos h
    rw [hback]
    exact hpours.own.clear v (((State.sends_flushPort p s).maySend v).trans hmay) (State.flushPort_clears h hmay)
  refine ⟨fun hmay => ⟨hclear hmay, fun hb => (hall.own.sent v hmay hb).resolve_left ?_⟩, fun hmay hb => hall.own.held v hmay hb⟩
  rw [hclear hmay]
  exact Bool.false_ne_true

end Sys2Proof.Machine
end

section
/-! SUPPORT. Events of the host ports: their resets, SPDM and IDE (R194 to R196, R364, R365, R414). -/

namespace Sys2Proof.Machine

variable {s t u : State} {p : HostPort}

/-! ### What a change of one port leaves -/

theorem State.updPort_eq (s : State) (p : HostPort) (f : HostPortState → HostPortState) :
    s.updPort p f = { s with cope := (s.updPort p f).cope, drag := (s.updPort p f).drag } := by cases p <;> rfl

theorem State.updPort_window (s : State) (p : HostPort) (f : HostPortState → HostPortState) (q : HostPort) (c : Nat) :
    (s.updPort p f).window q c = s.window q c := by cases p <;> rfl
theorem State.port_hostTlp (s : State) (p : HostPort) (b : Bool) (n : Nat) (q : HostPort) : (s.hostTlp p b n).port q = s.port q := by cases q <;> rfl

/-! ### A port that comes back -/

theorem State.Sends.plain_eq {α : Type} (h : s.Sends p t) (g : HostPortState → α) : g (t.port p).plain = g (s.port p).plain := congrArg g h.own.plain

theorem State.Sends.linkUp (h : s.Sends p t) : (t.port p).linkUp = (s.port p).linkUp := h.plain_eq HostPortState.linkUp
theorem State.Sends.flr (h : s.Sends p t) : (t.port p).flr = (s.port p).flr := h.plain_eq HostPortState.flr
theorem State.Sends.busMaster (h : s.Sends p t) : (t.port p).busMaster = (s.port p).busMaster := h.plain_eq HostPortState.busMaster
theorem State.Sends.msixConfig (h : s.Sends p t) : (t.port p).msixConfig = (s.port p).msixConfig := h.plain_eq HostPortState.msixConfig
theorem State.Sends.setup (h : s.Sends p t) : (t.port p).setup = (s.port p).setup := h.plain_eq HostPortState.setup

/-- MSI-X lets a vector out where it is enabled and neither the function nor the vector is masked. -/
theorem MsixConfig.opens_iff (m : MsixConfig) (v : Nat) :
    m.opens v = true ↔ m.enable = true ∧ m.functionMask = false ∧ ∃ e, m.table[v]? = some e ∧ e.getLsbD 96 = false := by
  cases h : m.table[v]? <;> simp [MsixConfig.opens, h, and_assoc]

/-- Configuration requests reach a port whose link is up and that is out of reset and FLR (R410). -/
theorem State.portOpen_link (h : s.portOpen p = true) : (s.port p).linkUp = true ∧ (s.port p).perst = false ∧ (s.port p).flr = false := by
  simp only [State.portOpen, Bool.and_eq_true, Bool.not_eq_true'] at h
  exact ⟨h.1.1.1, h.1.1.2, h.1.2⟩

/-- The port as BUS_MASTER_ENABLE sets it. -/
def HostPortState.enabled (h : HostPortState) (m : MsixConfig) (setup : PcieSetup) : HostPortState :=
  { h with busMaster := true, msixConfig := m, setup := setup }

theorem HostPortState.enabled_mayWrite {h : HostPortState} (hl : h.linkUp = true ∧ h.perst = false ∧ h.flr = false) (m : MsixConfig)
    (setup : PcieSetup) : (h.enabled m setup).mayWrite = true := by
  obtain ⟨hup, hperst, hflr⟩ := hl
  simp [HostPortState.mayWrite, HostPortState.enabled, hup, hperst, hflr]

theorem HostPortState.enabled_maySend {h : HostPortState} (hl : h.linkUp = true ∧ h.perst = false ∧ h.flr = false) (m : MsixConfig)
    (setup : PcieSetup) (v : Nat) : (h.enabled m setup).maySend v = m.opens v := by
  rw [HostPortState.maySend, HostPortState.enabled_mayWrite hl, Bool.true_and]
  rfl

/-- The state as BUS_MASTER_ENABLE leaves its port before what waited goes out. -/
def State.enablePort (s : State) (p : HostPort) (m : MsixConfig) (setup : PcieSetup) : State :=
  (s.hostTlp p false 4).updPort p fun h => h.enabled m setup

theorem State.port_enablePort (s : State) (p : HostPort) (m : MsixConfig) (setup : PcieSetup) :
    (s.enablePort p m setup).port p = (s.port p).enabled m setup := by
  rw [State.enablePort, State.port_updPort, State.port_hostTlp]

theorem exec_busMasterEnable (hopen : s.portOpen p = true) (m : MsixConfig) (setup : PcieSetup) :
    exec (.busMasterEnable ⟨p, m, setup⟩) s = .next ((s.enablePort p m setup).portBack p) := congrArg Host.Outcome.next (if_pos hopen)

/-- Each vector that was pending goes out with the port's return, or is still pending where MSI-X holds it back. -/
theorem State.enablePort_pending (hopen : s.portOpen p = true) (m : MsixConfig) (setup : PcieSetup) (v : Nat) :
    if m.enable = true ∧ m.functionMask = false ∧ (∃ e, m.table[v]? = some e ∧ e.getLsbD 96 = false)
    then (((s.enablePort p m setup).portBack p).port p).pending.getLsbD v = false
      ∧ ((s.port p).pending.getLsbD v = true → HostOut.msix v ∈ (((s.enablePort p m setup).portBack p).port p).out)
    else (s.port p).pending.getLsbD v = true → (((s.enablePort p m setup).portBack p).port p).pending.getLsbD v = true := by
  have hport := State.port_enablePort s p m setup
  have hlink := State.portOpen_link hopen
  have hvec := State.portBack_sends (s := s.enablePort p m setup) (p := p) (by rw [hport, HostPortState.enabled_mayWrite hlink]) v
  rw [hport, HostPortState.enabled_maySend hlink] at hvec
  obtain ⟨hgoes, hwaits⟩ := hvec
  split
  · next hopens => exact hgoes ((MsixConfig.opens_iff m v).mpr hopens)
  · next hopens => exact hwaits (Bool.eq_false_iff.mpr fun h => hopens ((MsixConfig.opens_iff m v).mp h))

/-! ### The reset of a port (R414) -/

theorem State.window_setWindow {p q : HostPort} {c d : Nat} (hc : c < 64) (hd : d < 64) (s : State) (w : Window) :
    (s.setWindow p c w).window q d = if p = q ∧ c = d then w else s.window q d := by
  have hkey : 64 * p.toNat + c = 64 * q.toNat + d ↔ p = q ∧ c = d := by
    cases p <;> cases q <;> simp [HostPort.toNat] <;> omega
  exact (Tab.get_put ..).trans (if_congr hkey rfl rfl)

theorem State.freeBuffer_window (s : State) (b : Option Bool) (q : HostPort) (d : Nat) : (s.freeBuffer b).window q d = s.window q d := by
  rcases b with _ | _ | _ <;> rfl

/-- One window of a port cleared. -/
def State.clearWindow (s : State) (p : HostPort) (c : Nat) : State := (s.freeBuffer (s.window p c).buffer).setWindow p c Window.idle

theorem State.clearWindow_eq (s : State) (p : HostPort) (c : Nat) : s.clearWindow p c = { s with intake := (s.clearWindow p c).intake } := by
  unfold State.clearWindow
  rw [State.freeBuffer_eq]
  rfl

theorem State.clearWindow_window {c d : Nat} (hc : c < 64) (hd : d < 64) (s : State) (q : HostPort) :
    (s.clearWindow p c).window q d = if p = q ∧ c = d then Window.idle else s.window q d := by
  rw [State.clearWindow, State.window_setWindow hc hd, State.freeBuffer_window]

/-- Windows of a port cleared one after the other. -/
theorem State.foldl_clearWindow {l : List Nat} (hl : ∀ c ∈ l, c < 64) (s : State) :
    (l.foldl (fun (s : State) c => s.clearWindow p c) s) = { s with intake := (l.foldl (fun (s : State) c => s.clearWindow p c) s).intake }
      ∧ ∀ q d, d < 64 → (l.foldl (fun (s : State) c => s.clearWindow p c) s).window q d = if p = q ∧ d ∈ l then Window.idle else s.window q d := by
  induction l generalizing s with
  | nil => exact ⟨rfl, fun q d _ => by simp⟩
  | cons c l ih =>
    have hc := hl c List.mem_cons_self
    obtain ⟨heq, hwin⟩ := ih (fun d hd => hl d (List.mem_cons_of_mem _ hd)) (s.clearWindow p c)
    rw [List.foldl_cons]
    refine ⟨heq.trans (congrArg (fun y : State => { y with
      intake := (l.foldl (fun (s : State) c => s.clearWindow p c) (s.clearWindow p c)).intake }) (State.clearWindow_eq s p c)), fun q d hd => ?_⟩
    rw [hwin q d hd, State.clearWindow_window hc hd]
    by_cases hp : p = q <;> by_cases hm : d ∈ l <;> by_cases hcd : c = d <;> simp [hp, hm, hcd, eq_comm]

theorem State.clearWindows_spec (s : State) (p : HostPort) :
    s.clearWindows p = { s with intake := (s.clearWindows p).intake }
      ∧ ∀ q c, c < 64 → (s.clearWindows p).window q c = if q = p then Window.idle else s.window q c := by
  obtain ⟨heq, hwin⟩ := State.foldl_clearWindow (p := p) (l := List.range 64) (fun c hc => List.mem_range.mp hc) s
  refine ⟨heq, fun q c hc => (hwin q c hc).trans (if_congr ?_ rfl rfl)⟩
  rw [List.mem_range, eq_comm]
  exact and_iff_left hc

/-- A port reset: its windows are idle, its registers at their reset values, and the other port stands. -/
theorem State.resetPort_spec (s : State) (p : HostPort) :
    (s.resetPort p).port p = (s.port p).unconfigured ∧ (∀ q, q ≠ p → (s.resetPort p).port q = s.port q)
      ∧ (∀ q c, c < 64 → (s.resetPort p).window q c = if q = p then Window.idle else s.window q c)
      ∧ (s.resetPort p).riser = s.riser ∧ (s.resetPort p).running = s.running ∧ (s.resetPort p).boot = s.boot := by
  obtain ⟨hintake, hwin⟩ := State.clearWindows_spec s p
  obtain ⟨x, heq⟩ : ∃ x, s.clearWindows p = { s with intake := x } := ⟨_, hintake⟩
  have hport (q : HostPort) : (s.clearWindows p).port q = s.port q := by
    rw [heq]
    cases q <;> rfl
  have hstale (q : HostPort) : (s.resetPort p).port q = ((s.clearWindows p).updPort p HostPortState.unconfigured).port q := by cases q <;> rfl
  refine ⟨?_, fun q hq => ?_, fun q c hc => ?_, ?_, ?_, ?_⟩
  · rw [hstale, State.port_updPort, hport]
  · rw [hstale, State.port_updPort_other _ hq, hport]
  · exact (State.updPort_window ..).trans (hwin q c hc)
  · refine (State.updPort_riser (s.clearWindows p) p HostPortState.unconfigured).trans ?_
    rw [heq]
  · refine (State.updPort_running (s.clearWindows p) p HostPortState.unconfigured).trans ?_
    rw [heq]
  · refine (State.updPort_boot (s.clearWindows p) p HostPortState.unconfigured).trans ?_
    rw [heq]

/-! ### SPDM (R364) -/

/-- The Assay has drawn random values and signed. -/
structure State.Draws (s t : State) : Prop where
  eq : t = { s with free := t.free, assay := t.assay }

theorem State.Draws.trans (h : s.Draws t) (h' : t.Draws u) : s.Draws u :=
  ⟨h'.eq.trans (congrArg (fun y : State => { y with free := u.free, assay := u.assay }) h.eq)⟩

theorem State.Draws.port (h : s.Draws t) (q : HostPort) : t.port q = s.port q := by
  rw [h.eq]
  cases q <;> rfl

theorem State.draws_drawBytes (s : State) (n : Nat) : s.Draws (s.drawBytes n).2 := by
  unfold State.drawBytes
  dsimp only
  split <;> exact ⟨rfl⟩

theorem State.draws_spdmMessage (s : State) (number : Nat) (content : List Byte) (signed : Bool) : s.Draws (s.spdmMessage number content signed).2 := by
  cases signed with
  | false => exact ⟨rfl⟩
  | true => exact State.Draws.trans (t := { s with free := s.free + 1 }) ⟨rfl⟩ (State.draws_drawBytes ..)

theorem State.draws_spdmError (s : State) : s.Draws s.spdmError.2 := State.draws_spdmMessage ..

/-- The port `g` is the port `h` but for its sessions and its IDE streams. -/
def HostPortState.Keyed (h g : HostPortState) : Prop :=
  g = { h with sessions := g.sessions, linkIde := g.linkIde, selIde := g.selIde, linkKey := g.linkKey, selKey := g.selKey }

/-- The Assay has drawn, and the sessions and streams of port `p` are changed by `f`. -/
def State.Keys (s t : State) (p : HostPort) (f : HostPortState → HostPortState) : Prop :=
  (∃ u, s.Draws u ∧ t = u.updPort p f) ∧ ∀ h, HostPortState.Keyed h (f h)

theorem State.Draws.keys (h : s.Draws t) (p : HostPort) : s.Keys t p id :=
  ⟨⟨t, h, by cases p <;> rfl⟩, fun _ => rfl⟩

variable {f : HostPortState → HostPortState}

theorem State.Keys.port (h : s.Keys t p f) : t.port p = f (s.port p) := by
  obtain ⟨⟨u, hu, rfl⟩, -⟩ := h
  rw [State.port_updPort, hu.port]

theorem State.Keys.other (h : s.Keys t p f) {q : HostPort} (hq : q ≠ p) : t.port q = s.port q := by
  obtain ⟨⟨u, hu, rfl⟩, -⟩ := h
  rw [State.port_updPort_other _ hq, hu.port]

theorem State.Keys.mem (h : s.Keys t p f) : t.mem = s.mem := by
  obtain ⟨⟨u, hu, rfl⟩, -⟩ := h
  rw [State.updPort_mem, hu.eq]

theorem State.Keys.running (h : s.Keys t p f) : t.running = s.running := by
  obtain ⟨⟨u, hu, rfl⟩, -⟩ := h
  rw [State.updPort_running, hu.eq]

theorem State.Keys.out (h : s.Keys t p f) : (t.port p).out = (s.port p).out := by
  rw [h.port]
  exact (congrArg HostPortState.out (h.2 (s.port p))).trans rfl

/-- What a request does in its session, which counts the answer. -/
def HostPortState.asked (n : Nat) (req : SpdmRequest) (h : HostPortState) : HostPortState :=
  (h.updSession n fun x => { x with sent := x.sent + 1 }).inSession n req

theorem HostPortState.asked_keyed (n : Nat) (req : SpdmRequest) (h : HostPortState) : h.Keyed (h.asked n req) := by
  unfold HostPortState.Keyed HostPortState.asked HostPortState.inSession
  split <;> rfl

theorem HostPortState.asked_endSession (n : Nat) (h : HostPortState) : (h.asked n .endSession).sessions = h.sessions.filter fun x => x.id ≠ n := by
  unfold HostPortState.asked HostPortState.updSession HostPortState.inSession
  dsimp only
  induction h.sessions with
  | nil => rfl
  | cons x l ih => by_cases hx : x.id = n <;> simp_all

theorem HostPortState.asked_keyUpdate (n : Nat) (h : HostPortState) : (h.asked n .keyUpdate).sessions = h.sessions.map fun x =>
    if x.id = n then { x with key := (sessionKeys x.key []).1, iv := (sessionKeys x.key []).2, sent := 0 } else x := by
  unfold HostPortState.asked HostPortState.updSession HostPortState.inSession
  dsimp only [HostPortState.updSession]
  rw [List.map_map]
  refine List.map_congr_left fun x _ => ?_
  by_cases hx : x.id = n <;> simp [hx]

/-- The answer to a request outside a session, or in one that does not stand, changes no session and no stream. -/
theorem State.spdmAnswer_none {m : SpdmMessage} (hsession : ∀ n, m.session = some n → ∀ x ∈ (s.port p).sessions, x.id ≠ n)
    (hreq : ∀ pub, m.req ≠ .keyExchange pub) : s.Draws (s.spdmAnswer p m).2 := by
  unfold State.spdmAnswer
  dsimp only
  split
  · next h => exact absurd h (hreq _)
  · split
    · exact State.draws_spdmError s
    · exact State.draws_spdmMessage ..
  · next n hn =>
    have hfind : ((s.port p).sessions.find? fun x => x.id = n) = none :=
      List.find?_eq_none.mpr fun x hx => by simpa using hsession n hn x hx
    rw [hfind]
    exact State.draws_spdmError s

/-- The answer to a request in a session that stands. -/
theorem State.spdmAnswer_session {m : SpdmMessage} {n : Nat} (hn : m.session = some n) (hx : ∃ x ∈ (s.port p).sessions, x.id = n) :
    s.Keys (s.spdmAnswer p m).2 p (HostPortState.asked n m.req) := by
  obtain ⟨x, hmem, hid⟩ := hx
  obtain ⟨y, hy⟩ : ∃ y, ((s.port p).sessions.find? fun x => x.id = n) = some y :=
    Option.isSome_iff_exists.mp (List.find?_isSome.mpr ⟨x, hmem, by simpa using hid⟩)
  refine ⟨⟨(s.spdmMessage (spdmNumber m.req) (s.spdmContent m.req).1 (s.spdmContent m.req).2).2, State.draws_spdmMessage .., ?_⟩,
    HostPortState.asked_keyed n m.req⟩
  unfold State.spdmAnswer
  rw [hn]
  dsimp only
  rw [hy]
  rfl

/-- A port with one session more. -/
def HostPortState.openSession (key iv : List Byte) (h : HostPortState) : HostPortState := { h with sessions := h.sessions ++ [⟨h.freeSession, key, iv, 0⟩] }

theorem State.keyExchange_refused {pub : List Byte}
    (h : 4 ≤ (s.port p).sessions.length ∨ kasEcc (p384KeyFrom (s.drawBytes 56).1) pub = none) : s.Draws (s.keyExchange p pub).2 := by
  unfold State.keyExchange
  split
  · exact State.draws_spdmError s
  · next hroom =>
    dsimp only
    rw [h.resolve_left hroom]
    exact (State.draws_drawBytes ..).trans (State.draws_spdmError _)

theorem State.keyExchange_opens {pub z : List Byte} (hroom : (s.port p).sessions.length < 4)
    (hz : kasEcc (p384KeyFrom (s.drawBytes 56).1) pub = some z) :
    s.Keys (s.keyExchange p pub).2 p (HostPortState.openSession (sessionKeys z (sha384 (pub ++ p384Public (p384KeyFrom (s.drawBytes 56).1)))).1
      (sessionKeys z (sha384 (pub ++ p384Public (p384KeyFrom (s.drawBytes 56).1)))).2) := by
  refine ⟨⟨((s.drawBytes 56).2.spdmMessage 3 (p384Public (p384KeyFrom (s.drawBytes 56).1)) true).2,
    (State.draws_drawBytes ..).trans (State.draws_spdmMessage ..), ?_⟩, fun _ => rfl⟩
  unfold State.keyExchange
  rw [if_neg (Nat.not_le.mpr hroom)]
  dsimp only
  rw [hz]
  rfl

theorem State.spdmAnswer_keyExchange {m : SpdmMessage} {pub : List Byte} (hses : m.session = none) (hreq : m.req = .keyExchange pub) :
    s.spdmAnswer p m = s.keyExchange p pub := by
  unfold State.spdmAnswer
  rw [hses, hreq]

/-- Whatever the request, its answer changes sessions and streams of its own port alone. -/
theorem State.spdmAnswer_keys (s : State) (p : HostPort) (m : SpdmMessage) : ∃ f, s.Keys (s.spdmAnswer p m).2 p f := by
  by_cases hsession : ∃ n, m.session = some n ∧ ∃ x ∈ (s.port p).sessions, x.id = n
  · obtain ⟨n, hn, hx⟩ := hsession
    exact ⟨_, State.spdmAnswer_session hn hx⟩
  · have hno (n : Nat) (hn : m.session = some n) (x : SpdmSession) (hx : x ∈ (s.port p).sessions) : x.id ≠ n := fun hid => hsession ⟨n, hn, x, hx, hid⟩
    by_cases hreq : ∃ pub, m.req = .keyExchange pub
    · obtain ⟨pub, hpub⟩ := hreq
      cases hses : m.session with
      | some n =>
        have hfind : ((s.port p).sessions.find? fun x => x.id = n) = none :=
          List.find?_eq_none.mpr fun x hx => by simpa using hno n hses x hx
        have hans : (s.spdmAnswer p m).2 = s.spdmError.2 := by
          unfold State.spdmAnswer
          rw [hses]
          dsimp only
          rw [hfind]
        rw [hans]
        exact ⟨id, (State.draws_spdmError s).keys p⟩
      | none =>
        rw [State.spdmAnswer_keyExchange hses hpub]
        by_cases hroom : (s.port p).sessions.length < 4
        · cases hz : kasEcc (p384KeyFrom (s.drawBytes 56).1) pub with
          | none => exact ⟨id, (State.keyExchange_refused (.inr hz)).keys p⟩
          | some z => exact ⟨_, State.keyExchange_opens hroom hz⟩
        · exact ⟨id, (State.keyExchange_refused (.inl (Nat.not_lt.mp hroom))).keys p⟩
    · exact ⟨id, (State.spdmAnswer_none hno fun pub h => hreq ⟨pub, h⟩).keys p⟩

/-- SPDM_REQUEST as it is answered: what the answer changes, then the answer out of the port. -/
def State.spdmDone (s : State) (p : HostPort) (m : SpdmMessage) : State :=
  (((s.spdmAnswer p m).2.updPort p fun h => { h with out := h.out ++ [.doe (s.spdmAnswer p m).1] }).hostTlp p true (s.spdmAnswer p m).1.length).service 6

theorem exec_spdmRequest (hopen : s.portOpen p = true) (hmode : s.assay.mode = .operational) (m : SpdmMessage) :
    exec (.spdmRequest p m) s = .next ((s.hostTlp p false m.size).spdmDone p m) := by
  refine (if_neg (by simp [hopen])).trans (if_neg ?_)
  exact not_not.mpr hmode

theorem State.port_spdmDone (s : State) (p : HostPort) (m : SpdmMessage) :
    (s.spdmDone p m).port p = { (s.spdmAnswer p m).2.port p with out := ((s.spdmAnswer p m).2.port p).out ++ [.doe (s.spdmAnswer p m).1] } := by
  cases p <;> rfl

theorem State.Keys.spdmDone {m : SpdmMessage} (h : s.Keys (s.spdmAnswer p m).2 p f) :
    (s.spdmDone p m).port p = { f (s.port p) with out := (s.port p).out ++ [.doe (s.spdmAnswer p m).1] } := by
  rw [State.port_spdmDone, h.out, h.port]

theorem State.port_spdmDone_other {q : HostPort} (h : q ≠ p) (s : State) (m : SpdmMessage) :
    (s.spdmDone p m).port q = (s.spdmAnswer p m).2.port q := by
  refine Eq.trans ?_ (State.port_updPort_other (s.spdmAnswer p m).2 h fun h => { h with out := h.out ++ [.doe (s.spdmAnswer p m).1] })
  cases q <;> rfl

theorem State.spdmDone_leaves (s : State) {q : HostPort} (m : SpdmMessage) (hq : q ≠ p) :
    ((s.spdmDone p m).port p).out = (s.port p).out ++ [.doe (s.spdmAnswer p m).1] ∧ (s.spdmDone p m).port q = s.port q
      ∧ (s.spdmDone p m).mem = s.mem ∧ (s.spdmDone p m).running = s.running := by
  obtain ⟨f, hkeys⟩ := s.spdmAnswer_keys p m
  refine ⟨?_, ?_, (State.updPort_mem ..).trans hkeys.mem, (State.updPort_running ..).trans hkeys.running⟩
  · rw [hkeys.spdmDone]
  · rw [State.port_spdmDone_other hq, hkeys.other hq]

theorem State.spdmDone_refused {m : SpdmMessage} {pub : List Byte} (hses : m.session = none) (hreq : m.req = .keyExchange pub)
    (h : 4 ≤ (s.port p).sessions.length ∨ kasEcc (p384KeyFrom (s.drawBytes 56).1) pub = none) :
    ((s.spdmDone p m).port p).sessions = (s.port p).sessions := by
  have hdraws := State.keyExchange_refused h
  rw [← State.spdmAnswer_keyExchange hses hreq] at hdraws
  rw [(hdraws.keys p).spdmDone]
  rfl

theorem State.spdmDone_opens {m : SpdmMessage} {pub z : List Byte} (hses : m.session = none) (hreq : m.req = .keyExchange pub)
    (hroom : (s.port p).sessions.length < 4) (hz : kasEcc (p384KeyFrom (s.drawBytes 56).1) pub = some z) :
    ((s.spdmDone p m).port p).sessions = (s.port p).sessions ++ [⟨(s.port p).freeSession,
      (sessionKeys z (sha384 (pub ++ p384Public (p384KeyFrom (s.drawBytes 56).1)))).1,
      (sessionKeys z (sha384 (pub ++ p384Public (p384KeyFrom (s.drawBytes 56).1)))).2, 0⟩] := by
  have hkey := State.keyExchange_opens hroom hz
  rw [← State.spdmAnswer_keyExchange hses hreq] at hkey
  rw [hkey.spdmDone]
  rfl

/-- What a request in a session that stands does: it ends the session, sets the key of a stream, or renews the session's key. -/
theorem State.spdmDone_session {m : SpdmMessage} {n : Nat} (hn : m.session = some n) (hx : ∃ x ∈ (s.port p).sessions, x.id = n) :
    (m.req = .endSession → ((s.spdmDone p m).port p).sessions = (s.port p).sessions.filter fun x => x.id ≠ n)
      ∧ (∀ sel k, m.req = .ideKeys sel k →
        if sel then ((s.spdmDone p m).port p).selIde = .secure ∧ ((s.spdmDone p m).port p).selKey = leBytes 32 k.toNat
          ∧ ((s.spdmDone p m).port p).linkIde = (s.port p).linkIde
        else ((s.spdmDone p m).port p).linkIde = .secure ∧ ((s.spdmDone p m).port p).linkKey = leBytes 32 k.toNat
          ∧ ((s.spdmDone p m).port p).selIde = (s.port p).selIde)
      ∧ (m.req = .keyUpdate → ((s.spdmDone p m).port p).sessions = (s.port p).sessions.map fun x =>
        if x.id = n then { x with key := (sessionKeys x.key []).1, iv := (sessionKeys x.key []).2, sent := 0 } else x) := by
  rw [(State.spdmAnswer_session hn hx).spdmDone]
  refine ⟨fun hreq => ?_, fun sel k hreq => ?_, fun hreq => ?_⟩
  · rw [hreq]
    exact HostPortState.asked_endSession n (s.port p)
  · rw [hreq]
    cases sel <;> exact ⟨rfl, rfl, rfl⟩
  · rw [hreq]
    exact HostPortState.asked_keyUpdate n (s.port p)

theorem State.spdmDone_none {m : SpdmMessage} (hsession : ∀ n, m.session = some n → ∀ x ∈ (s.port p).sessions, x.id ≠ n)
    (hreq : ∀ pub, m.req ≠ .keyExchange pub) :
    ((s.spdmDone p m).port p).sessions = (s.port p).sessions ∧ ((s.spdmDone p m).port p).linkIde = (s.port p).linkIde
      ∧ ((s.spdmDone p m).port p).selIde = (s.port p).selIde := by
  rw [((State.spdmAnswer_none hsession hreq).keys p).spdmDone]
  exact ⟨rfl, rfl, rfl⟩

/-! ### IDE (R365) -/

/-- An integrity failure noted by AER, and the stream insecure from then on. -/
def HostPortState.ideFails (sel : Bool) (h : HostPortState) : HostPortState :=
  if sel then { h with aerUncor := h.aerUncor ||| 0x10000000, selIde := .insecure }
  else { h with aerUncor := h.aerUncor ||| 0x10000000, linkIde := .insecure }

theorem exec_ideIntegrityFailure {sel : Bool} (h : (if sel then (s.port p).selIde else (s.port p).linkIde) = .secure) :
    exec (.ideIntegrityFailure p sel) s = .next ((s.updPort p (HostPortState.ideFails sel)).count (ctrHost p.toNat 7) 1) :=
  congrArg Host.Outcome.next (if_pos h)

theorem State.port_count (s : State) (o k : Nat) (q : HostPort) : (s.count o k).port q = s.port q := by cases q <;> rfl

theorem State.portOpen_ideFails (s : State) (p : HostPort) (sel : Bool) :
    ((s.updPort p (HostPortState.ideFails sel)).count (ctrHost p.toNat 7) 1).portOpen p = s.portOpen p := by
  cases p <;> cases sel <;> rfl

/-- No access reaches the part through the stream that failed. -/
theorem State.hostReach_ideFails {sel : Bool} (h : (if sel then (s.port p).selIde else (s.port p).linkIde) = .secure) :
    ((s.updPort p (HostPortState.ideFails sel)).count (ctrHost p.toNat 7) 1).hostReach p
      = (s.hostReach p && !sel && decide ((s.port p).selIde ≠ .off)) := by
  rw [State.hostReach, State.portOpen_ideFails, State.port_count, State.port_updPort, State.hostReach]
  cases sel with
  | true => simp [HostPortState.stream, HostPortState.ideFails]
  | false =>
    by_cases hsel : (s.port p).selIde = .off <;> simp [HostPortState.stream, HostPortState.ideFails, hsel]

end Sys2Proof.Machine

namespace Sys2Proof.Machine

/-- Settles O55: what waited for a port goes out of it and leaves the rest, a reset of a port clears its windows and registers, and an answer
of the Assay changes sessions and streams of its port. -/
theorem hostPortEvents : Obligations.HostPortEvents := by
  unfold Obligations.HostPortEvents
  intro p q s hq
  refine ⟨?_, fun hpwr hperst hdown hentry hoff => ?_, fun hperst => ?_, fun m setup hopen => ?_, fun m setup hopen => ?_, ?_, ?_, fun hup hperst hflr => ?_,
    fun h => ?_, fun hflr => ?_, fun hflr => ?_, fun m hopen hmode => ?_, fun m hopen hmode => ?_, fun m hopen => ?_, fun sel h => ?_, fun sel h => ?_⟩
  · -- HOST_LINK_DOWN
    exact ⟨_, rfl, State.port_updPort .., State.port_updPort_other s hq _, State.updPort_intake .., State.updPort_riser ..⟩
  · -- HOST_LINK_UP out of reset
    have hexec : exec (.hostLinkUp p) s = .next ((s.updPort p fun h => { h with linkUp := true }).portBack p) :=
      congrArg Host.Outcome.next (if_pos ⟨hpwr, by simp [hperst], by simp [hdown], hentry, hoff⟩)
    have hsends := State.sends_portBack p (s.updPort p fun h => { h with linkUp := true })
    refine ⟨_, hexec, ?_, ?_, ?_, ?_, ?_⟩
    · rw [hsends.linkUp, State.port_updPort]
    · rw [hsends.busMaster, State.port_updPort]
    · rw [hsends.other q hq, State.port_updPort_other s hq]
    · rw [hsends.intake, State.updPort_intake]
    · rw [hsends.mem, State.updPort_mem]
  · -- HOST_LINK_UP in reset
    refine congrArg Host.Outcome.next (if_neg ?_)
    rintro ⟨-, hno, -⟩
    simp [hperst] at hno
  · -- BUS_MASTER_ENABLE of an open port
    have hsends := State.sends_portBack p (s.enablePort p m setup)
    have hport := State.port_enablePort s p m setup
    refine ⟨_, exec_busMasterEnable hopen m setup, ?_, ?_, ?_, ?_, ?_, fun v _ => State.enablePort_pending hopen m setup v⟩
    · rw [hsends.busMaster, hport]; rfl
    · rw [hsends.msixConfig, hport]; rfl
    · rw [hsends.setup, hport]; rfl
    · rw [hsends.other q hq, State.enablePort, State.port_updPort_other _ hq, State.port_hostTlp]
    · rw [hsends.mem, State.enablePort, State.updPort_mem]; rfl
  · -- BUS_MASTER_ENABLE of a port that is not open
    exact congrArg Host.Outcome.next (if_neg (by simp [hopen]))
  · -- PERST_N low
    obtain ⟨hport, hother, hwin, hriser, hrunning, -⟩ := State.resetPort_spec s p
    have hset : (exec (.perstN p) s) = .next ((s.resetPort p).updPort p fun h => { h with perst := true, flr := false, linkUp := false }) := rfl
    refine ⟨_, hset, ?_, ?_, ?_, fun c hc => ?_, ?_, fun c hc => ?_, ?_, ?_⟩
    · rw [State.port_updPort]
    · rw [State.port_updPort]
    · rw [State.port_updPort, hport]
      exact ⟨rfl, rfl, rfl, rfl, rfl, rfl, rfl, rfl, rfl, rfl⟩
    · rw [State.updPort_window, hwin p c hc, if_pos rfl]
    · rw [State.port_updPort_other _ hq, hother q hq]
    · rw [State.updPort_window, hwin q c hc, if_neg hq]
    · rw [State.updPort_riser, hriser]
    · rw [State.updPort_running, hrunning]
  · -- PERST_N high
    exact ⟨_, rfl, State.port_updPort .., State.port_updPort_other s hq _, State.updPort_intake ..⟩
  · -- FLR
    obtain ⟨hport, hother, hwin, hriser, hrunning, hboot⟩ := State.resetPort_spec (s.hostTlp p false 4) p
    have hset : (exec (.flr p) s) = .next (((s.hostTlp p false 4).resetPort p).updPort p fun h => { h with flr := true }) :=
      congrArg Host.Outcome.next (if_pos (by simp [hup, hperst, hflr]))
    refine ⟨_, hset, ?_, ?_, fun c hc => ?_, ?_, ?_, ?_, ?_⟩
    · rw [State.port_updPort]
    · rw [State.port_updPort, hport]
      exact ⟨rfl, rfl, rfl, rfl, rfl, rfl, rfl, rfl, rfl, rfl⟩
    · rw [State.updPort_window, hwin p c hc, if_pos rfl]
    · rw [State.port_updPort_other _ hq, hother q hq, State.port_hostTlp]
    · rw [State.updPort_riser, hriser]; rfl
    · rw [State.updPort_running, hrunning]; rfl
    · rw [State.updPort_boot, hboot]; rfl
  · -- FLR of a port without a link, or in reset
    refine congrArg Host.Outcome.next (if_neg ?_)
    rcases h with h | h | h <;> simp [h]
  · -- the end of an FLR
    have hexec : exec (.flrComplete p) s = .next ((s.updPort p fun h => { h with flr := false }).portBack p) := congrArg Host.Outcome.next (if_pos hflr)
    have hsends := State.sends_portBack p (s.updPort p fun h => { h with flr := false })
    refine ⟨_, hexec, ?_, ?_, ?_⟩
    · rw [hsends.flr, State.port_updPort]
    · rw [hsends.other q hq, State.port_updPort_other s hq]
    · rw [hsends.mem, State.updPort_mem]
  · -- no FLR ends
    exact congrArg Host.Outcome.next (if_neg (by simp [hflr]))
  · -- SPDM_REQUEST
    have hbase (r : HostPort) : (s.hostTlp p false m.size).port r = s.port r := State.port_hostTlp ..
    obtain ⟨hout, hother, hmem, hrunning⟩ := (s.hostTlp p false m.size).spdmDone_leaves m hq
    refine ⟨_, ((s.hostTlp p false m.size).spdmAnswer p m).1, exec_spdmRequest hopen hmode m, ?_, ?_, hmem, hrunning,
      fun pub d hm hd => ⟨fun hno => ?_, fun z hroom hz => ?_⟩, fun n hn hx => ?_, fun hno hreq => ?_⟩
    · rw [hout, hbase]
    · rw [hother, hbase]
    · have hsessions := State.spdmDone_refused (congrArg SpdmMessage.session hm) (congrArg SpdmMessage.req hm) (by rwa [hbase, ← hd])
      rw [hsessions, hbase]
    · have hsessions := State.spdmDone_opens (congrArg SpdmMessage.session hm) (congrArg SpdmMessage.req hm) (by rwa [hbase]) (by rwa [← hd])
      rw [hsessions, hbase, hd]
    · have hsession := State.spdmDone_session (s := s.hostTlp p false m.size) hn (by rwa [hbase])
      rwa [hbase] at hsession
    · have hnone := State.spdmDone_none (s := s.hostTlp p false m.size) (by rwa [hbase]) hreq
      rwa [hbase] at hnone
  · -- SPDM_REQUEST to an Assay that is not OPERATIONAL
    exact (if_neg (by simp [hopen])).trans (if_pos hmode)
  · -- SPDM_REQUEST through a port that is not open
    exact if_pos (by simp [hopen])
  · -- IDE_INTEGRITY_FAILURE of a secure stream
    have hport : ((s.updPort p (HostPortState.ideFails sel)).count (ctrHost p.toNat 7) 1).port p = (s.port p).ideFails sel := by
      rw [State.port_count, State.port_updPort]
    refine ⟨_, exec_ideIntegrityFailure h, ?_, ?_, ?_, ?_, ?_, ?_, ?_⟩
    · rw [hport]; cases sel <;> rfl
    · rw [hport]; cases sel <;> rfl
    · rw [hport]; cases sel <;> rfl
    · exact State.hostReach_ideFails h
    · exact State.portOpen_ideFails s p sel
    · rw [State.port_count, State.port_updPort_other s hq]
    · rw [State.ctr_count, if_pos rfl, State.updPort_cnt]
  · -- IDE_INTEGRITY_FAILURE of another stream
    exact congrArg Host.Outcome.next (if_neg h)

end Sys2Proof.Machine
end

section
/-! SUPPORT. Replies written to a channel's ring, and the teardown of a close (R201, R209, R211, R214). -/

namespace Sys2Proof.Machine

variable {s t u : State} {c : Nat}

/-! ### What goes out for replies -/

/-- What goes out for replies depends on the channel's ring and options and on what MSI-X lets out. -/
theorem State.ringWrites_congr (hbase : (t.chan c).ringBase = (s.chan c).ringBase) (hlog : (t.chan c).ringLog = (s.chan c).ringLog)
    (hen : (t.chan c).msixEn = (s.chan c).msixEn)
    (hmay : (t.port (t.chan c).owner).maySend c = (s.port (s.chan c).owner).maySend c) (n : Word32) (rs : List Reply) :
    t.ringWrites c n rs = s.ringWrites c n rs := by
  induction rs generalizing n with
  | nil => rfl
  | cons r rs ih =>
    unfold State.ringWrites
    dsimp only
    rw [hbase, hlog, hen, hmay, ih]

theorem State.ringWrites_append (s : State) (c : Nat) (n : Word32) (rs rs' : List Reply) :
    s.ringWrites c n (rs ++ rs') = s.ringWrites c n rs ++ s.ringWrites c (n + BitVec.ofNat 32 rs.length) rs' := by
  induction rs generalizing n with
  | nil => simp [State.ringWrites]
  | cons r rs ih =>
    have hlen : n + 1 + BitVec.ofNat 32 rs.length = n + BitVec.ofNat 32 (rs.length + 1) := by
      rw [BitVec.ofNat_add, BitVec.add_assoc, BitVec.add_comm 1]
      rfl
    simp only [List.cons_append, State.ringWrites, ih, hlen, List.length_cons, List.append_assoc]

/-! ### Replies written -/

/-- The state `t` is `s` after the replies `rs` have been written to the ring of channel `c`. -/
structure State.Wrote (c : Nat) (rs : List Reply) (s t : State) : Prop where
  sends   : s.Sends (s.chan c).owner t
  out     : (t.port (s.chan c).owner).out = (s.port (s.chan c).owner).out ++ s.ringWrites c (s.vchan c).rtail rs
  pending : rs ≠ [] → (s.chan c).msixEn = true → (s.port (s.chan c).owner).maySend c = false →
    (t.port (s.chan c).owner).pending.getLsbD c = true
  kept    : t.ledgerKept
  entries : t.books.entries = s.books.entries
  chan    : t.chan c = { s.chan c with replied := (t.chan c).replied }
  others  : ∀ d, d ≠ c → t.chan d = s.chan d ∧ t.vchan d = s.vchan d
  vchan   : t.vchan c = { s.vchan c with
    rtail := (s.vchan c).rtail + BitVec.ofNat 32 rs.length
    replyQ := (t.vchan c).replyQ }
  running : t.running = s.running

theorem State.Wrote.refl (h : s.ledgerKept) (c : Nat) : s.Wrote c [] s where
  sends := .refl ..
  out := by simp [State.ringWrites]
  pending h := absurd rfl h
  kept := h
  entries := rfl
  chan := rfl
  others _ _ := ⟨rfl, rfl⟩
  vchan := by simp
  running := rfl

theorem State.Wrote.owner {rs : List Reply} (h : s.Wrote c rs t) : (t.chan c).owner = (s.chan c).owner := h.sends.owner c

theorem State.Wrote.trans {rs rs' : List Reply} (h : s.Wrote c rs t) (h' : t.Wrote c rs' u) : s.Wrote c (rs ++ rs') u := by
  have howner := h.owner
  have hsends : t.Sends (s.chan c).owner u := howner ▸ h'.sends
  have hmay : (t.port (s.chan c).owner).maySend c = (s.port (s.chan c).owner).maySend c := h.sends.maySend c
  have hring : t.ringWrites c (t.vchan c).rtail rs' = s.ringWrites c ((s.vchan c).rtail + BitVec.ofNat 32 rs.length) rs' := by
    rw [State.ringWrites_congr (s := s) (by rw [h.chan]) (by rw [h.chan]) (by rw [h.chan]) (by rw [howner, hmay]), h.vchan]
  have hout' := h'.out
  have hpend' := h'.pending
  rw [howner] at hout' hpend'
  refine ⟨h.sends.trans hsends, ?_, fun hne hen hheld => ?_, h'.kept, h'.entries.trans h.entries, ?_, fun d hd => ?_, ?_, h'.running.trans h.running⟩
  · rw [hout', h.out, hring, State.ringWrites_append, List.append_assoc]
  · by_cases hrs : rs' = []
    · rw [hrs, List.append_nil] at hne
      exact hsends.own.held c (hmay.trans hheld) (h.pending hne hen hheld)
    · exact hpend' hrs (by rw [h.chan]; exact hen) (hmay.trans hheld)
  · have hchan := h'.chan
    rw [h.chan] at hchan
    exact hchan
  · exact ⟨(h'.others d hd).1.trans (h.others d hd).1, (h'.others d hd).2.trans (h.others d hd).2⟩
  · have hvchan := h'.vchan
    rw [h.vchan] at hvchan
    rw [hvchan, List.length_append, BitVec.ofNat_add, BitVec.add_assoc]

/-- What was taken from the queue before the replies were written. -/
theorem State.Wrote.dequeue {rs q : List Reply} (h : State.Wrote c rs (s.updVchan c fun v => { v with replyQ := q }) t) : s.Wrote c rs t := by
  have hv : (s.updVchan c fun v => { v with replyQ := q }).vchan c = { s.vchan c with replyQ := q } := State.vchan_updVchan_same ..
  have hvchan := h.vchan
  have hout := h.out
  rw [hv] at hvchan hout
  refine ⟨(State.sends_updVchan (f := fun v => { v with replyQ := q }) (fun _ => rfl) _ s c).trans h.sends,
    hout.trans (congrArg ((s.port (s.chan c).owner).out ++ ·) 
      (State.ringWrites_congr (s := s) (t := s.updVchan c fun v => { v with replyQ := q }) rfl rfl rfl rfl _ rs)), h.pending, h.kept, h.entries, h.chan,
    fun d hd => ?_, hvchan, h.running⟩
  obtain ⟨hchan, hother⟩ := h.others d hd
  refine ⟨hchan, hother.trans ?_⟩
  rw [State.vchan_updVchan, if_neg (Ne.symm hd)]

/-! ### One reply -/

theorem State.books_putReply (s : State) (p : HostPort) (c : Nat) (r : Reply) : (s.putReply p c r).books = s.books :=
  (State.books_updVchan ..).trans ((State.books_count ..).trans ((State.books_hostWrite ..).trans rfl))

theorem State.port_putReply (s : State) (p : HostPort) (c : Nat) (r : Reply) :
    (s.putReply p c r).port p = { s.port p with out := (s.port p).out ++ [.write (s.ringSlot c).1 (r.bytes (s.ringSlot c).2)] } := by
  cases p <;> rfl

theorem State.vchan_putReply (s : State) (p : HostPort) (c : Nat) (r : Reply) (d : Nat) :
    (s.putReply p c r).vchan d = if c = d then { s.vchan c with rtail := (s.vchan c).rtail + 1 } else s.vchan d := by
  refine (State.vchan_updVchan ..).trans ?_
  cases p <;> rfl

theorem State.port_noteReplied (s : State) (c : Nat) (r : Reply) (q : HostPort) : (s.noteReplied c r).port q = s.port q := by
  unfold State.noteReplied
  split <;> cases q <;> rfl

theorem State.noteReplied_eq (s : State) (c : Nat) (r : Reply) : s.noteReplied c r = { s with riser := (s.noteReplied c r).riser } := by
  unfold State.noteReplied
  split <;> rfl

theorem State.books_noteReplied (h : s.ledgerKept) (c : Nat) (r : Reply) :
    (s.noteReplied c r).books = { s.books with
      chans := if r.final then Tab.upd ChanRec.closed s.books.chans c fun ch => { ch with replied := r.pour } else s.books.chans } := by
  unfold State.noteReplied
  split
  · exact State.books_noteChan h ..
  · rfl

theorem State.chan_noteReplied (h : s.ledgerKept) (c : Nat) (r : Reply) (d : Nat) :
    (s.noteReplied c r).chan d = if c = d then { s.chan c with replied := if r.final then r.pour else (s.chan c).replied } else s.chan d := by
  cases hf : r.final with
  | true =>
    have hb := congrArg Books.chans (State.books_noteReplied h c r)
    rw [hf] at hb
    exact State.chan_of_upd (f := fun ch => { ch with replied := r.pour }) hb d
  | false =>
    rw [State.noteReplied, hf, if_neg Bool.false_ne_true, if_neg Bool.false_ne_true]
    split
    · next h => rw [← h]
    · rfl

/-- The message that follows a reply. -/
def State.signal (s : State) (p : HostPort) (c : Nat) (on : Bool) : State := if on then s.msix p c else s

theorem State.sends_signal (p : HostPort) (s : State) (c : Nat) (on : Bool) : s.Sends p (s.signal p c on) := by
  unfold State.signal
  split
  · exact State.sends_msix ..
  · exact State.Sends.refl ..

theorem State.signal_accounts (s : State) (p : HostPort) (c : Nat) (on : Bool) : s.Accounts (s.signal p c on) := by
  unfold State.signal
  split
  · exact State.msix_accounts ..
  · exact State.Accounts.refl s

theorem State.books_signal (s : State) (p : HostPort) (c : Nat) (on : Bool) : (s.signal p c on).books = s.books := by
  unfold State.signal
  split
  · exact State.books_msix ..
  · rfl

theorem State.out_signal (s : State) (p : HostPort) (c : Nat) (on : Bool) :
    ((s.signal p c on).port p).out = (s.port p).out ++ if on && (s.port p).maySend c then [HostOut.msix c] else [] := by
  cases on with
  | false => exact (List.append_nil _).symm
  | true =>
    cases h : (s.port p).maySend c with
    | true => rw [State.signal, if_pos rfl, State.port_msix_open h]; rfl
    | false => rw [State.signal, if_pos rfl, State.port_msix_held h]; exact (List.append_nil _).symm

/-- A reply's write, and Rp with it. -/
def State.ringReply (s : State) (c : Nat) (r : Reply) : State := (s.putReply (s.chan c).owner c r).noteReplied c r

theorem State.writeReply_signal (s : State) (c : Nat) (r : Reply) :
    s.writeReply c r = (s.ringReply c r).signal (s.chan c).owner c (s.chan c).msixEn := rfl

theorem State.sends_ringReply (s : State) (c : Nat) (r : Reply) : s.Sends (s.chan c).owner (s.ringReply c r) :=
  (State.sends_putReply ..).trans (State.sends_noteReplied ..)

theorem State.books_ringReply (h : s.ledgerKept) (c : Nat) (r : Reply) :
    (s.ringReply c r).books = { s.books with
      chans := if r.final then Tab.upd ChanRec.closed s.books.chans c fun ch => { ch with replied := r.pour } else s.books.chans } := by
  have hput := State.books_putReply s (s.chan c).owner c r
  have hkept := h.of_books (congrArg Books.lost hput) (congrArg Books.copy hput)
  rw [State.ringReply, State.books_noteReplied hkept, hput]

theorem State.chan_ringReply (h : s.ledgerKept) (c : Nat) (r : Reply) (d : Nat) :
    (s.ringReply c r).chan d = if c = d then { s.chan c with replied := if r.final then r.pour else (s.chan c).replied } else s.chan d := by
  have hput := State.books_putReply s (s.chan c).owner c r
  have hkept := h.of_books (congrArg Books.lost hput) (congrArg Books.copy hput)
  rw [State.ringReply, State.chan_noteReplied hkept, State.chan_of_books hput, State.chan_of_books hput]

theorem State.out_ringReply (s : State) (c : Nat) (r : Reply) :
    ((s.ringReply c r).port (s.chan c).owner).out
      = (s.port (s.chan c).owner).out ++ [.write (s.ringSlot c).1 (r.bytes (s.ringSlot c).2)] := by
  rw [State.ringReply, State.port_noteReplied, State.port_putReply]

theorem State.vchan_ringReply (s : State) (c : Nat) (r : Reply) (d : Nat) :
    (s.ringReply c r).vchan d = if c = d then { s.vchan c with rtail := (s.vchan c).rtail + 1 } else s.vchan d := by
  have hnote : (s.ringReply c r).vchan d = (s.putReply (s.chan c).owner c r).vchan d := by rw [State.ringReply, State.noteReplied_eq]; rfl
  rw [hnote, State.vchan_putReply]

theorem State.running_ringReply (s : State) (c : Nat) (r : Reply) : (s.ringReply c r).running = s.running := by
  rw [State.ringReply, State.noteReplied_eq]
  cases (s.chan c).owner <;> rfl

theorem State.chan_writeReply (h : s.ledgerKept) (c : Nat) (r : Reply) (d : Nat) :
    (s.writeReply c r).chan d = if c = d then { s.chan c with replied := if r.final then r.pour else (s.chan c).replied } else s.chan d := by
  rw [State.writeReply_signal, State.chan_of_books (State.books_signal ..), State.chan_ringReply h]

theorem State.vchan_writeReply (s : State) (c : Nat) (r : Reply) (d : Nat) :
    (s.writeReply c r).vchan d = if c = d then { s.vchan c with rtail := (s.vchan c).rtail + 1 } else s.vchan d := by
  have hsig : (s.writeReply c r).vchan d = (s.ringReply c r).vchan d := by rw [State.writeReply_signal, (State.signal_accounts ..).eq]; rfl
  rw [hsig, State.vchan_ringReply]

/-- A reply written to its ring. -/
theorem State.writeReply_wrote (h : s.ledgerKept) (hc : c < 65) (r : Reply) : s.Wrote c [r] (s.writeReply c r) := by
  have hbooks : (s.writeReply c r).books = (s.ringReply c r).books := by rw [State.writeReply_signal, State.books_signal]
  rw [State.books_ringReply h] at hbooks
  have hring := State.sends_ringReply s c r
  refine ⟨hring.trans (State.sends_signal ..), ?_, fun _ hen hheld => ?_, ?_, ?_, ?_, fun d hd => ⟨?_, ?_⟩, ?_, ?_⟩
  · rw [State.writeReply_signal, State.out_signal, State.out_ringReply, hring.maySend, List.append_assoc]
    simp [State.ringWrites, State.ringSlot]
  · rw [State.writeReply_signal, State.signal, if_pos hen]
    exact getLsbD_pending_msix hc ((hring.maySend c).trans hheld)
  · exact h.of_books (by rw [hbooks]) (by rw [hbooks])
  · rw [hbooks]
  · rw [State.chan_writeReply h, if_pos rfl]
  · rw [State.chan_writeReply h, if_neg (Ne.symm hd)]
  · rw [State.vchan_writeReply, if_neg (Ne.symm hd)]
  · rw [State.vchan_writeReply, if_pos rfl]
    rfl
  · rw [State.writeReply_signal, (State.signal_accounts ..).running, State.running_ringReply]

/-! ### Waiting replies -/

theorem State.pumpReply_ready {r : Reply} {rest : List Reply} (hq : (s.vchan c).replyQ = r :: rest) (hready : s.replyReady c = true) :
    s.pumpReply c = (s.updVchan c fun v => { v with replyQ := rest }).writeReply c r := by
  rw [State.pumpReply, hq]
  exact if_pos hready

theorem State.pumpReply_waits {r : Reply} {rest : List Reply} (hq : (s.vchan c).replyQ = r :: rest) (hready : s.replyReady c = false) :
    s.pumpReply c = s := by
  rw [State.pumpReply, hq]
  exact if_neg (by simp [hready])

theorem State.pumpReply_wrote (h : s.ledgerKept) (hc : c < 65) {r : Reply} {rest : List Reply} (hq : (s.vchan c).replyQ = r :: rest)
    (hready : s.replyReady c = true) : s.Wrote c [r] (s.pumpReply c) ∧ ((s.pumpReply c).vchan c).replyQ = rest := by
  rw [State.pumpReply_ready hq hready]
  have hkept : (s.updVchan c fun v => { v with replyQ := rest }).ledgerKept := h
  refine ⟨(State.writeReply_wrote hkept hc r).dequeue, ?_⟩
  rw [State.vchan_writeReply, if_pos rfl, State.vchan_updVchan_same]

/-- The replies that wait are all written where the ring has room for them and the port may write. -/
theorem State.pumpReplies_wrote (h : s.ledgerKept) (hc : c < 65) {rs : List Reply} (hq : (s.vchan c).replyQ = rs) (hopen : (s.chan c).state ≠ .closed)
    (hport : (s.port (s.chan c).owner).mayWrite = true) (hroom : ∀ j < rs.length, s.ringRoom c j = true) :
    s.Wrote c rs (State.pumpReplies rs.length c s) ∧ ((State.pumpReplies rs.length c s).vchan c).replyQ = [] := by
  induction rs generalizing s with
  | nil => exact ⟨State.Wrote.refl h c, hq⟩
  | cons r rest ih =>
    have hready : s.replyReady c = true := by
      simp [State.replyReady, hopen, hport, hroom 0 (by simp)]
    obtain ⟨hfirst, hrest⟩ := State.pumpReply_wrote h hc hq hready
    have hroom' (j : Nat) (hj : j < rest.length) : (s.pumpReply c).ringRoom c j = true := by
      have hnext := hroom (j + 1) (by simpa using hj)
      have hsum : (s.vchan c).rtail + BitVec.ofNat 32 1 + BitVec.ofNat 32 j = (s.vchan c).rtail + BitVec.ofNat 32 (j + 1) := by
        rw [BitVec.add_assoc, ← BitVec.ofNat_add, Nat.add_comm]
      simp only [State.ringRoom] at hnext ⊢
      rw [hfirst.vchan, hfirst.chan, List.length_singleton, hsum]
      exact hnext
    obtain ⟨htail, hempty⟩ := ih hfirst.kept hrest (by rw [hfirst.chan]; exact hopen)
      (by rw [hfirst.owner, hfirst.sends.mayWrite]; exact hport) hroom'
    exact ⟨hfirst.trans htail, hempty⟩

end Sys2Proof.Machine
end

section
/-! SUPPORT. The teardown of a close (R201): patterns unloaded, the close committed, every entry released. -/

namespace Sys2Proof.Machine

variable {s t u : State} {c : Nat}

/-! ### The ledger read after a write of it -/

theorem State.ledgerKept.entry_updEntry (h : s.ledgerKept) (i j : Nat) (f : Entry → Entry) :
    (s.updEntry i f).entry j = if i = j then f (s.entry i) else s.entry j :=
  State.entry_of_upd (congrArg Books.entries (State.books_updEntry h i f)) j

theorem State.ledgerKept.chan_updEntry (h : s.ledgerKept) (i d : Nat) (f : Entry → Entry) : (s.updEntry i f).chan d = s.chan d := by
  rw [State.chan_eq_books, State.books_updEntry h]
  rfl

theorem State.ledgerKept.chan_noteChan (h : s.ledgerKept) (c d : Nat) (f : ChanRec → ChanRec) :
    (s.noteChan c f).chan d = if c = d then f (s.chan c) else s.chan d :=
  State.chan_of_upd (congrArg Books.chans (State.books_noteChan h c f)) d

theorem State.ledgerKept.entry_noteChan (h : s.ledgerKept) (c i : Nat) (f : ChanRec → ChanRec) : (s.noteChan c f).entry i = s.entry i := by
  rw [State.entry_eq_books, State.books_noteChan h]
  rfl

/-! ### Entries released -/

/-- Entries released one after the other. -/
def State.freeAll (s : State) (l : List Nat) : State := l.foldl (fun s i => s.updEntry i fun e => { e with state := .free }) s

/-- Entries of a table released one after the other. -/
def freeIn (t : Tab Entry) (l : List Nat) : Tab Entry := l.foldl (fun t i => Tab.upd Entry.free t i fun e => { e with state := .free }) t

theorem get_freeIn (t : Tab Entry) (l : List Nat) (j : Nat) :
    Tab.get Entry.free (freeIn t l) j = if j ∈ l then { Tab.get Entry.free t j with state := .free } else Tab.get Entry.free t j := by
  induction l generalizing t with
  | nil => simp [freeIn]
  | cons i l ih =>
    have hstep : Tab.get Entry.free (freeIn t (i :: l)) j = _ := ih (Tab.upd Entry.free t i fun e => { e with state := .free })
    rw [hstep, Tab.get_upd]
    by_cases hi : i = j
    · subst hi
      simp
    · have hj : j ≠ i := Ne.symm hi
      simp [hi, hj]

theorem State.books_freeAll (h : s.ledgerKept) (l : List Nat) : (s.freeAll l).books = { s.books with entries := freeIn s.books.entries l } := by
  induction l generalizing s with
  | nil => rfl
  | cons i l ih =>
    have hstep : (s.freeAll (i :: l)).books = _ := ih (h.updEntry i fun e => { e with state := .free })
    rw [hstep, State.books_updEntry h]
    rfl

theorem State.freeAll_eq (s : State) (l : List Nat) : s.freeAll l = { s with riser := (s.freeAll l).riser, trail := (s.freeAll l).trail } := by
  induction l generalizing s with
  | nil => rfl
  | cons i l ih =>
    exact (ih (s.updEntry i fun e => { e with state := .free })).trans rfl

theorem State.ledgerKept.freeAll (h : s.ledgerKept) (l : List Nat) : (s.freeAll l).ledgerKept :=
  have hb := State.books_freeAll h l
  h.of_books (by rw [hb]) (by rw [hb])

theorem State.entry_freeAll (h : s.ledgerKept) (l : List Nat) (j : Nat) :
    (s.freeAll l).entry j = if j ∈ l then { s.entry j with state := .free } else s.entry j := by
  rw [State.entry_eq_books, State.books_freeAll h]
  exact get_freeIn ..

theorem Tab.mem_of_get_ne {α : Type} {d : α} {t : Tab α} {i : Nat} (h : Tab.get d t i ≠ d) : (i, Tab.get d t i) ∈ t := by
  induction t with
  | nil => exact absurd rfl h
  | cons e t ih =>
    obtain ⟨k, v⟩ := e
    rw [Tab.get_cons] at h ⊢
    split
    · next hk => rw [hk]; exact List.mem_cons_self
    · next hk =>
      rw [if_neg hk] at h
      exact List.mem_cons_of_mem _ (ih h)

/-- An entry of a channel that is not FREE is held by the channel. -/
theorem State.mem_heldEntries {j : Nat} (hchan : (s.entry j).chan.toNat = c) (hstate : (s.entry j).state ≠ .free) :
    (j, s.entry j) ∈ s.heldEntries c := by
  have hmem : (j, s.entry j) ∈ s.ledger.entries := Tab.mem_of_get_ne fun h => hstate (by rw [State.entry, h]; rfl)
  exact List.mem_filter.mpr ⟨hmem, by simp [hchan, hstate]⟩

/-! ### A channel closed -/

/-- The handles of the entries that a channel holds. -/
def State.heldIndices (s : State) (c : Nat) : List Nat := (s.heldEntries c).map (·.1)

theorem State.closeChannel_eq (s : State) (c : Nat) :
    s.closeChannel c = { (s.freeAll (s.heldIndices c)).updChan c ChanRec.close with
      accepted := ((s.freeAll (s.heldIndices c)).updChan c ChanRec.close).accepted.filter fun i => !(s.heldIndices c).contains i }.updVchan c fun v =>
        { v with replyQ := [], dups := [] } := rfl

/-- A closed channel holds nothing, and its record is that of a CLOSED one. -/
theorem State.closeChannel_spec (h : s.ledgerKept) (c : Nat) :
    (s.closeChannel c).chan c = (s.chan c).close
      ∧ ∀ j, ((s.closeChannel c).entry j).chan.toNat = c → ((s.closeChannel c).entry j).state = .free := by
  have hkept := h.freeAll (s.heldIndices c)
  have hbooks : (s.closeChannel c).books = _ := State.books_updChan hkept c ChanRec.close
  have hentry (j : Nat) : (s.closeChannel c).entry j = (s.freeAll (s.heldIndices c)).entry j := by
    rw [State.entry_eq_books, hbooks]
    rfl
  refine ⟨?_, fun j hj => ?_⟩
  · rw [State.chan_of_upd (s := s.freeAll (s.heldIndices c)) (f := ChanRec.close) (by rw [hbooks]), if_pos rfl]
    exact congrArg (fun b : Books => (Tab.get ChanRec.closed b.chans c).close) (State.books_freeAll h (s.heldIndices c))
  · rw [hentry, State.entry_freeAll h] at hj ⊢
    split at hj
    · next hmem => rw [if_pos hmem]
    · next hmem =>
      rw [if_neg hmem]
      by_contra hstate
      exact hmem (List.mem_map.mpr ⟨_, State.mem_heldEntries hj hstate, rfl⟩)

theorem State.closeChannel_port (s : State) (c : Nat) (q : HostPort) : (s.closeChannel c).port q = s.port q := by
  rw [State.closeChannel_eq, State.freeAll_eq]
  cases q <;> rfl

theorem State.closeChannel_patterns (s : State) (c : Nat) : (s.closeChannel c).patterns = s.patterns := by
  rw [State.closeChannel_eq, State.freeAll_eq]
  rfl

theorem State.closeChannel_running (s : State) (c : Nat) : (s.closeChannel c).running = s.running := by
  rw [State.closeChannel_eq, State.freeAll_eq]
  rfl

/-! ### Patterns unloaded (R193) -/

/-- The state `t` is `s` with patterns unloaded. -/
structure State.Unloads (s t : State) : Prop where
  eq : t = { s with
    riser := t.riser
    trail := t.trail
    patterns := t.patterns
    assay := t.assay
    kept := t.kept }
  books : t.books = s.books

theorem State.Unloads.refl (s : State) : s.Unloads s := ⟨rfl, rfl⟩

theorem State.Unloads.trans (h : s.Unloads t) (h' : t.Unloads u) : s.Unloads u :=
  ⟨h'.eq.trans (congrArg (fun y : State => { y with
    riser := u.riser
    trail := u.trail
    patterns := u.patterns
    assay := u.assay
    kept := u.kept }) h.eq), h'.books.trans h.books⟩

theorem State.books_dropRecord (s : State) (k : Nat) :
    (s.updLedger (.record k) fun l => { l with precs := Tab.put none l.precs k none }).books = s.books :=
  State.books_updLedger_other s _ (fun _ => rfl) (fun _ => rfl) fun _ => rfl

theorem State.books_dropRecords (s : State) (h : Nat) : (s.dropRecords h).books = s.books :=
  (State.books_dropRecord ..).trans (State.books_dropRecord ..)

theorem State.unload_unloads (s : State) (h : Nat) : s.Unloads (s.unload h) := by
  unfold State.unload
  split
  · exact State.Unloads.refl s
  · exact ⟨rfl, State.books_dropRecords { s with patterns := Tab.put none s.patterns h none } h⟩

theorem State.pattern_unload (s : State) (h i : Nat) : (s.unload h).pattern i = if h = i then none else s.pattern i := by
  unfold State.unload
  split
  · next hnone =>
    split
    · next hi => rw [← hi, hnone]
    · rfl
  · exact Tab.get_put (t := s.patterns) h none i

theorem State.unloads_foldl (l : List Nat) (s : State) :
    s.Unloads (l.foldl State.unload s) ∧ ∀ i, (l.foldl State.unload s).pattern i = if i ∈ l then none else s.pattern i := by
  induction l generalizing s with
  | nil => exact ⟨State.Unloads.refl s, fun i => by simp⟩
  | cons h l ih =>
    obtain ⟨hrest, hpat⟩ := ih (s.unload h)
    refine ⟨(State.unload_unloads s h).trans hrest, fun i => ?_⟩
    rw [List.foldl_cons, hpat, State.pattern_unload]
    by_cases hi : h = i
    · subst hi
      simp
    · have hi' : i ≠ h := Ne.symm hi
      simp [hi, hi']

/-- A loaded pattern of a channel has one of the channel's handles. -/
theorem State.mem_handlesOf {h : Nat} {q : Pattern} (hp : s.pattern h = some q) (hc : q.chan = c) : h ∈ s.handlesOf c := by
  have hmem : (h, some q) ∈ s.patterns := by
    have hget : Tab.get none s.patterns h = some q := hp
    have := Tab.mem_of_get_ne (d := none) (t := s.patterns) (i := h) (by rw [hget]; exact Option.some_ne_none q)
    rwa [hget] at this
  have hload : (h, q) ∈ s.loaded := List.mem_filterMap.mpr ⟨(h, some q), hmem, rfl⟩
  exact List.mem_map.mpr ⟨(h, q), List.mem_filter.mpr ⟨hload, by simpa using hc⟩, rfl⟩

/-- Once the handles of a channel are unloaded, no pattern of it is loaded. -/
theorem State.unloaded {h : Nat} {q : Pattern} (hp : ((s.handlesOf c).foldl State.unload s).pattern h = some q) : q.chan ≠ c := by
  rw [(State.unloads_foldl ..).2] at hp
  split at hp
  · cases hp
  · next hno => exact fun hc => hno (State.mem_handlesOf hp hc)

theorem State.Unloads.port (h : s.Unloads t) (q : HostPort) : t.port q = s.port q := by
  rw [h.eq]
  cases q <;> rfl

/-! ### The close committed (R246) -/

/-- The entry of a close as it commits. -/
def State.closedEntry (s : State) (c i : Nat) : Entry :=
  { s.entry i with
    state := .done
    status := 0
    detail := 0
    epoch := s.epochOf c
    energy := BitVec.ofNat 64 (s.pourEnergy c)
    tsDone := s.cnt.regs.time }

/-- The channel's record with the energy of an entry and with its final reply. -/
def ChanRec.done (ch : ChanRec) (e : Entry) : ChanRec := { ch with energy := ch.energy + e.energy, last := some e }

/-- The queue of a channel with the final reply of an entry, and after it the copies for its duplicates. -/
def Chan.queued (v : Chan) (e : Entry) : Chan :=
  { v with
    replyQ := v.replyQ ++ replyOf e :: List.replicate (v.dups.filter fun d => d = e.pour).length (replyOf e).duplicate
    dups := v.dups.filter fun d => d ≠ e.pour }

/-- Step 4 of R246 but for the entry: the channel's energy and final reply, and its pour's end. -/
def State.finishPour (s : State) (c : Nat) (e : Entry) : State :=
  let s := s.noteChan c fun ch => { ch with energy := ch.energy + e.energy }
  let s := { (s.setRunning c none) with power := { s.power with pours := Tab.put 0 s.power.pours c 0 } }
  s.queueFinal c e

theorem State.doneEntry_eq (h : s.ledgerKept) (c i : Nat) :
    s.doneEntry c i = (s.updEntry i fun e => { e with state := .done }).finishPour c { s.entry i with state := .done } := by
  have hentry := h.entry_updEntry i i fun e => { e with state := .done }
  rw [if_pos rfl] at hentry
  rw [State.doneEntry, State.finishPour, hentry]

theorem State.finishPour_spec (h : s.ledgerKept) (c : Nat) (e : Entry) :
    (s.finishPour c e).ledgerKept ∧ (s.finishPour c e).runningOf c = none ∧ (s.finishPour c e).chan c = (s.chan c).done e
      ∧ (s.finishPour c e).vchan c = (s.vchan c).queued e := by
  have hk : State.ledgerKept { ((s.noteChan c fun ch => { ch with energy := ch.energy + e.energy }).setRunning c none) with
    power := { s.power with pours := Tab.put 0 s.power.pours c 0 } } := h.noteChan c fun ch => { ch with energy := ch.energy + e.energy }
  refine ⟨hk.noteChan c fun ch => { ch with last := some e },
    State.runningOf_setRunning_same (s.noteChan c fun ch => { ch with energy := ch.energy + e.energy }) c none, ?_, State.vchan_updVchan_same ..⟩
  have hlast := hk.chan_noteChan c c fun ch => { ch with last := some e }
  have henergy := h.chan_noteChan c c fun ch => { ch with energy := ch.energy + e.energy }
  rw [if_pos rfl] at hlast henergy
  exact hlast.trans (congrArg (fun ch : ChanRec => { ch with last := some e }) henergy)

theorem State.finishPour_port (s : State) (c : Nat) (e : Entry) (q : HostPort) : (s.finishPour c e).port q = s.port q := by cases q <;> rfl
theorem State.finishPour_patterns (s : State) (c : Nat) (e : Entry) : (s.finishPour c e).patterns = s.patterns := rfl
theorem State.updEntry_port (s : State) (i : Nat) (f : Entry → Entry) (q : HostPort) : (s.updEntry i f).port q = s.port q := by cases q <;> rfl

/-- A close that commits: its reply and the copies for its duplicates wait for the ring, and nothing runs on its channel. -/
theorem State.commitFixed_close (h : s.ledgerKept) {r : Running} (hop : (s.entry r.entry).opcode = 0x02) :
    (s.commitFixed c r (completed stOk 0 .nothing)).ledgerKept
      ∧ (∀ q, (s.commitFixed c r (completed stOk 0 .nothing)).port q = s.port q)
      ∧ (s.commitFixed c r (completed stOk 0 .nothing)).patterns = s.patterns
      ∧ (s.commitFixed c r (completed stOk 0 .nothing)).runningOf c = none
      ∧ (s.commitFixed c r (completed stOk 0 .nothing)).chan c = (s.chan c).done (s.closedEntry c r.entry)
      ∧ (s.commitFixed c r (completed stOk 0 .nothing)).vchan c = (s.vchan c).queued (s.closedEntry c r.entry) := by
  have hend : s.commitFixed c r (completed stOk 0 .nothing)
      = (s.endEntry c r.entry (completed stOk 0 .nothing) (s.epochOf c)).doneEntry c r.entry := by
    have hplain : isEpochOp (s.entry r.entry).opcode.toNat = false := by rw [hop]; decide
    unfold State.commitFixed
    dsimp only
    rw [hplain, Bool.and_false, if_neg Bool.false_ne_true, if_neg Bool.false_ne_true]
  have hk : (s.endEntry c r.entry (completed stOk 0 .nothing) (s.epochOf c)).ledgerKept := h.updEntry ..
  have hentry : { (s.endEntry c r.entry (completed stOk 0 .nothing) (s.epochOf c)).entry r.entry with state := .done } = s.closedEntry c r.entry := by
    rw [State.endEntry, h.entry_updEntry, if_pos rfl]
    rfl
  have hchan : (s.endEntry c r.entry (completed stOk 0 .nothing) (s.epochOf c)).chan c = s.chan c := h.chan_updEntry ..
  rw [hend, State.doneEntry_eq hk, hentry]
  have hk' := hk.updEntry r.entry fun e => { e with state := .done }
  obtain ⟨hkept, hrun, hrec, hqueue⟩ := State.finishPour_spec hk' c (s.closedEntry c r.entry)
  rw [hk.chan_updEntry, hchan] at hrec
  refine ⟨hkept, fun q => ?_, ?_, hrun, hrec, hqueue⟩
  · rw [State.finishPour_port, State.updEntry_port, State.endEntry, State.updEntry_port]
  · rw [State.finishPour_patterns, State.updEntry_patterns, State.endEntry, State.updEntry_patterns]

/-! ### CLOSE_TEARDOWN -/

/-- While a pour of the channel runs, none starts. -/
theorem State.startPour_running {r : Running} (hr : s.runningOf c = some r) (op : Nat) (needs : State → Packet → List Nat)
    (body : Nat → Packet → State → State) : s.startPour c op needs body = s := by
  have hhead : s.headOf c = none := by simp [State.headOf, hr]
  rw [State.startPour, hhead]

/-- The state of a teardown with its final reply and its copies waiting. -/
def State.tornDown (s : State) (c : Nat) (r : Running) : State :=
  ((s.handlesOf c).foldl State.unload s).commitFixed c r (completed stOk 0 .nothing)

theorem exec_closeTeardown {c : Fin 64} {r : Running} (hr : s.runningOf c.val = some r) (hready : s.teardownReady c.val = true) :
    exec (.closeTeardown c) s = .next (
      let t := State.pumpReplies ((s.tornDown c.val r).vchan c.val).replyQ.length c.val (s.tornDown c.val r)
      if (t.vchan c.val).replyQ.isEmpty then t.closeChannel c.val else t) := by
  have hexec : exec (.closeTeardown c) s = execCloseTeardown c s := rfl
  rw [hexec, execCloseTeardown, State.startPour_running hr]
  dsimp only
  rw [hr]
  exact if_pos hready

/-- What a teardown has come to before its replies are written. -/
theorem State.tornDown_spec (h : s.ledgerKept) {r : Running} (hop : (s.entry r.entry).opcode = 0x02) :
    (s.tornDown c r).ledgerKept ∧ (∀ q, (s.tornDown c r).port q = s.port q)
      ∧ (∀ i q, (s.tornDown c r).pattern i = some q → q.chan ≠ c) ∧ (s.tornDown c r).runningOf c = none
      ∧ (s.tornDown c r).chan c = (s.chan c).done (s.closedEntry c r.entry)
      ∧ (s.tornDown c r).vchan c = (s.vchan c).queued (s.closedEntry c r.entry) := by
  obtain ⟨hun, -⟩ := State.unloads_foldl (s.handlesOf c) s
  have hpat (i : Nat) (q : Pattern) := State.unloaded (s := s) (c := c) (h := i) (q := q)
  unfold State.tornDown
  generalize (s.handlesOf c).foldl State.unload s = u at hun hpat
  have hb := hun.books
  have hk : u.ledgerKept := h.of_books (congrArg Books.lost hb) (congrArg Books.copy hb)
  have hclosed : u.closedEntry c r.entry = s.closedEntry c r.entry := by
    have hepoch : u.epochOf c = s.epochOf c := State.epochOf_of_slots (congrArg Books.slots hb) (by rw [State.chan_of_books hb])
    have hpower : u.power = s.power := by rw [hun.eq]
    rw [State.closedEntry, State.closedEntry, State.entry_of_books hb, hepoch, State.time_of_books hb, State.pourEnergy, State.pourEnergy, hpower]
  have hvchan : u.vchan c = s.vchan c := by rw [hun.eq]; rfl
  obtain ⟨hkept, hport, hpatterns, hrun, hrec, hqueue⟩ := State.commitFixed_close (c := c) hk (r := r) (by rw [State.entry_of_books hb]; exact hop)
  rw [hclosed, State.chan_of_books hb] at hrec
  rw [hclosed, hvchan] at hqueue
  refine ⟨hkept, fun q => (hport q).trans (hun.port q), fun i q hp => hpat i q ?_, hrun, hrec, hqueue⟩
  rw [State.pattern, hpatterns] at hp
  exact hp

/-- The conditions of a teardown, taken apart. -/
theorem State.teardownReady_iff {r : Running} (hr : s.runningOf c = some r) (h : s.teardownReady c = true) :
    (s.vchan c).replyQ = [] ∧ (s.chan c).state ≠ .closed ∧ (s.port (s.chan c).owner).mayWrite = true := by
  simp only [State.teardownReady, hr, Bool.and_eq_true, State.replyReady, bne_iff_ne, List.isEmpty_iff] at h
  obtain ⟨⟨⟨-, hq⟩, ⟨hopen, -⟩, hwrite⟩, -⟩ := h
  exact ⟨hq, hopen, hwrite⟩

/-- Every reply that a teardown has formed is written. -/
theorem State.tornDown_pumped (h : s.ledgerKept) {r : Running} (hr : s.runningOf c = some r) (hop : (s.entry r.entry).opcode = 0x02)
    (hready : s.teardownReady c = true) (hc : c < 64) (hroom : ∀ j ≤ (s.vchan c).dups.length, s.ringRoom c j = true) :
    State.Wrote c ((s.tornDown c r).vchan c).replyQ (s.tornDown c r)
        (State.pumpReplies ((s.tornDown c r).vchan c).replyQ.length c (s.tornDown c r))
      ∧ ((State.pumpReplies ((s.tornDown c r).vchan c).replyQ.length c (s.tornDown c r)).vchan c).replyQ = [] := by
  obtain ⟨hempty, hopen, hwrite⟩ := State.teardownReady_iff hr hready
  obtain ⟨hkept, hport, -, -, hrec, hqueue⟩ := State.tornDown_spec (c := c) h hop
  refine State.pumpReplies_wrote hkept (Nat.lt_of_lt_of_le hc (by decide)) rfl ?_ ?_ fun j hj => ?_
  · rw [hrec]
    exact hopen
  · rw [hrec, hport]
    exact hwrite
  · have hlen : ((s.tornDown c r).vchan c).replyQ.length ≤ (s.vchan c).dups.length + 1 := by
      rw [hqueue]
      simp only [Chan.queued, hempty, List.nil_append, List.length_cons, List.length_replicate]
      exact Nat.succ_le_succ (List.length_filter_le ..)
    have hsame : (s.tornDown c r).ringRoom c j = s.ringRoom c j := by
      rw [State.ringRoom, hqueue, hrec]
      rfl
    rw [hsame]
    exact hroom j (by omega)

/-- The ring of a channel is the same for a teardown. -/
theorem State.tornDown_writes (h : s.ledgerKept) {r : Running} (hop : (s.entry r.entry).opcode = 0x02) (n : Word32) (rs : List Reply) :
    (s.tornDown c r).ringWrites c n rs = s.ringWrites c n rs := by
  obtain ⟨-, hport, -, -, hrec, -⟩ := State.tornDown_spec (c := c) h hop
  refine State.ringWrites_congr ?_ ?_ ?_ ?_ n rs
  · rw [hrec]; rfl
  · rw [hrec]; rfl
  · rw [hrec]; rfl
  · rw [hrec, hport]; rfl

end Sys2Proof.Machine

namespace Sys2Proof.Machine

/-- Settles O32: the reply goes to its ring slot with its message, and a teardown writes its queue of replies one after the other before it
closes the channel. -/
theorem repliesWritten : Obligations.RepliesWritten := by
  unfold Obligations.RepliesWritten
  refine ⟨?_, ?_⟩
  · rintro c s r rest p ch n hphase hq rfl rfl rfl
    have hexec : exec (.finalReply c) s = .next (s.pumpReply c.val) := congrArg Host.Outcome.next (if_pos hphase)
    refine ⟨fun hready hkept => ?_, fun hwaits => ?_⟩
    · obtain ⟨hwrote, hrest⟩ := State.pumpReply_wrote hkept (Nat.lt_of_lt_of_le c.isLt (by decide)) hq hready
      have hkept' : (s.updVchan c.val fun v => { v with replyQ := rest }).ledgerKept := hkept
      refine ⟨_, hexec, hwrote.out, hwrote.pending (List.cons_ne_nil _ _), length_leBytes .., ?_, hrest, ?_, fun d hd => ?_⟩
      · rw [hwrote.vchan]
        rfl
      · rw [State.pumpReply_ready hq hready, State.chan_writeReply hkept', if_pos rfl]
        rfl
      · exact ⟨(hwrote.others d hd).2, (hwrote.others d hd).1⟩
    · rw [hexec, State.pumpReply_waits hq hwaits]
  · rintro c s p r e hready hkept rfl hr hop hroom rfl
    obtain ⟨hempty, hopen, hwrite⟩ := State.teardownReady_iff hr hready
    obtain ⟨hpumped, hq⟩ := State.tornDown_pumped hkept hr hop hready c.isLt hroom
    have hexec := exec_closeTeardown hr hready
    dsimp only at hexec
    rw [hq, if_pos List.isEmpty_nil] at hexec
    obtain ⟨hrecord, hfree⟩ := State.closeChannel_spec hpumped.kept c.val
    obtain ⟨-, hport, hpat, hrun, hrec, hqueue⟩ := State.tornDown_spec (c := c.val) hkept hop
    have howner : ((s.tornDown c.val r).chan c.val).owner = (s.chan c.val).owner := by rw [hrec]; rfl
    have hwrites := State.tornDown_writes (c := c.val) hkept hop (s.vchan c.val).rtail ((s.tornDown c.val r).vchan c.val).replyQ
    have hrtail : ((s.tornDown c.val r).vchan c.val).rtail = (s.vchan c.val).rtail := by rw [hqueue]; rfl
    have hlist : ((s.tornDown c.val r).vchan c.val).replyQ = replyOf (s.closedEntry c.val r.entry) ::
        ((s.vchan c.val).dups.filter fun d => d = (s.closedEntry c.val r.entry).pour).map fun _ => (replyOf (s.closedEntry c.val r.entry)).duplicate := by
      rw [hqueue, List.map_const']
      simp only [Chan.queued, hempty, List.nil_append]
    have hout := hpumped.out
    have hpending := hpumped.pending (by rw [hlist]; exact List.cons_ne_nil _ _)
    rw [howner, hport, hrtail, hwrites, hlist] at hout
    rw [howner, hport, hrec] at hpending
    refine ⟨_, hexec, ?_, fun hen hheld => ?_, ?_, ?_, ?_, hfree, fun i q hp => ?_, ?_⟩
    · rw [State.closeChannel_port, hlist]
      exact hout
    · rw [State.closeChannel_port]
      exact hpending hen hheld
    · rw [hrecord]; rfl
    · rw [hrecord]; rfl
    · rw [hrecord]; rfl
    · rw [State.pattern, State.closeChannel_patterns, hpumped.sends.eq] at hp
      exact hpat i q hp
    · rw [State.runningOf, State.closeChannel_running, hpumped.running]
      exact hrun

end Sys2Proof.Machine
end

section
/-! SUPPORT. The checks of Table 11-5 as the model makes them, row by row (R198 to R200, R206, R209, R216). -/

namespace Sys2Proof.Machine

variable {s t u : State} {k : Packet}

/-! ### Lists of rows -/

theorem firstFailing_append (l l' : List (Bool × BitVec 16)) : firstFailing (l ++ l') = (firstFailing l).or (firstFailing l') := by
  induction l with
  | nil => rfl
  | cons r l ih =>
    obtain ⟨b, st⟩ := r
    rw [List.cons_append, firstFailing_cons, firstFailing_cons, ih]
    cases b <;> rfl

theorem bne_eq_decide_ne {α : Type} [DecidableEq α] (a b : α) : (a != b) = decide (a ≠ b) := by
  by_cases h : a = b <;> simp [h]

/-! ### Row 1 -/

theorem opcodeTable_any (op : Nat) : (opcodeTable.any fun e => e.1 = op) = (opcodeForm op).isSome := by
  unfold opcodeForm
  split <;> simp_all [opcodeTable, eq_comm]

theorem opcodeTable_any_len (op len : Nat) :
    (opcodeTable.any fun e => e.1 = op && e.2 = len) = (opcodeForm op).any fun f => decide (f.1 = len) := by
  unfold opcodeForm
  split <;> simp_all [opcodeTable, eq_comm]

/-- Row 1 of Table 11-5 for a packet. -/
def Packet.formRow (k : Packet) : Bool :=
  let h := k.header.toNat
  let t := k.trailer.toNat
  h % 2 ^ 8 = 1 && (opcodeTable.any fun e => e.1 = k.opcode) && h / 2 ^ 32 % 2 ^ 8 = k.chan && k.len ≤ 16304 && k.len % 16 = 0
    && h / 2 ^ 256 = 0 && h / 2 ^ 40 % 2 ^ 8 = 0 && h / 2 ^ 17 % 2 ^ 15 = 0 && t / 2 ^ 96 = 0 && t / 2 ^ 64 % 2 ^ 32 = k.len
    && t % 2 ^ 64 = k.pour && (if k.opcode = 0x7F then k.pour = 0 && k.len = 0 else k.pour ≠ 0)

theorem Packet.formRow_eq (k : Packet) : k.formRow = k.formOk := by
  have hhigh : k.hdr 256 256 = k.header.toNat / 2 ^ 256 := by
    have := k.header.isLt
    rw [Packet.hdr, fieldOf]
    omega
  have hlast : fieldOf k.trailer.toNat 96 32 = k.trailer.toNat / 2 ^ 96 := by
    have := k.trailer.isLt
    rw [fieldOf]
    omega
  have hlow : k.hdr 0 8 = k.header.toNat % 2 ^ 8 := by rw [Packet.hdr, fieldOf, Nat.pow_zero, Nat.div_one]
  have htail : fieldOf k.trailer.toNat 0 64 = k.trailer.toNat % 2 ^ 64 := by rw [fieldOf, Nat.pow_zero, Nat.div_one]
  unfold Packet.formRow Packet.formOk
  dsimp only
  rw [opcodeTable_any, hhigh, hlast, hlow, htail, bne_eq_decide_ne]
  rfl

/-! ### Rows 6 to 9 -/

/-- Rows 6 to 9 but for the sequence: the channel's state and its owner. -/
def State.ownerRows (s : State) (k : Packet) : List (Bool × BitVec 16) :=
  [ (!(k.opcode = 0x01 && (s.chan k.chan).state = .opened), 0x0106),
    (k.opcode = 0x01 || (s.chan k.chan).state ≠ .closed, 0x0105),
    ((s.chan k.chan).state ≠ .closing, 0x010A),
    (k.opcode = 0x01 || (decide (k.opcode = 0x03) != decide (k.port = (s.chan k.chan).owner)), 0x0109) ]

theorem State.firstFailing_ownerRows (s : State) (k : Packet) : firstFailing (s.ownerRows k) = s.ownerRefusal k := by
  unfold State.ownerRows State.ownerRefusal
  simp only [firstFailing_cons, opChannelOpen, opChannelAdopt]
  by_cases hopen : k.opcode = 0x01
  · cases (s.chan k.chan).state <;> simp [hopen, firstFailing, stTableFull, stChannelClosing]
  · cases (s.chan k.chan).state
    · simp [hopen, stChannelClosed]
    · by_cases hadopt : k.opcode = 0x03 <;> by_cases hown : k.port = (s.chan k.chan).owner <;>
        simp [hopen, hadopt, hown, firstFailing, stNotOwner]
    · simp [hopen, stChannelClosing]

/-! ### Row 10 -/

/-- The parameters of a ring against a quota (R198). -/
def ringRows (v quota : Nat) (on : Bool) : List (Bool × BitVec 16) :=
  [ (!on || (fieldOf v 0 64 % 4096 = 0 && 6 ≤ fieldOf v 88 5 && fieldOf v 88 5 ≤ 16), 0x0101),
    (!on || quota ≤ 2 ^ fieldOf v 88 5, 0x020A) ]

theorem firstFailing_ringRows (v quota : Nat) : firstFailing (ringRows v quota true) = ringRefusal v quota := by
  unfold ringRows ringRefusal
  dsimp only
  rw [firstFailing_cons, firstFailing_cons]
  by_cases hring : fieldOf v 0 64 % 4096 = 0 ∧ 6 ≤ fieldOf v 88 5 ∧ fieldOf v 88 5 ≤ 16
  · have hpass : ¬ (fieldOf v 0 64 % 4096 ≠ 0 ∨ fieldOf v 88 5 < 6 ∨ 16 < fieldOf v 88 5) := by omega
    obtain ⟨hbase, hlow, hhigh⟩ := hring
    rw [if_neg hpass, if_pos (by simp [hbase, hlow, hhigh])]
    by_cases hquota : quota ≤ 2 ^ fieldOf v 88 5
    · rw [if_pos (by simp [hquota]), if_neg (Nat.not_lt.mpr hquota)]
      rfl
    · rw [if_neg (by simp [hquota]), if_pos (Nat.not_le.mp hquota)]
      rfl
  · have hfail : fieldOf v 0 64 % 4096 ≠ 0 ∨ fieldOf v 88 5 < 6 ∨ 16 < fieldOf v 88 5 := by omega
    rw [if_pos hfail, if_neg (by simpa [and_assoc] using hring)]
    rfl

theorem firstFailing_ringRows_off (v quota : Nat) : firstFailing (ringRows v quota false) = none := rfl

/-- The channel parameters of R198 and R200. -/
def State.paramRows (s : State) (k : Packet) : List (Bool × BitVec 16) :=
  let quota := if k.opcode = 0x01 then fieldOf k.pay 64 11 else (s.chan k.chan).quota
  [ (!(k.opcode = 0x01) || (2 ≤ quota && quota ≤ 1024 && (s.promised k.chan).1 + quota ≤ 1024), 0x020A),
    (!(k.opcode = 0x01) || (1 ≤ fieldOf k.pay 80 4 && fieldOf k.pay 80 4 ≤ 8 && (s.promised k.chan).2 + fieldOf k.pay 80 4 ≤ 512), 0x0108) ]
    ++ ringRows k.pay quota (k.opcode = 0x01 ∨ k.opcode = 0x03)

/-- A row of a condition for an open stands for the check of its parts. -/
theorem firstFailing_bounds (lo hi a x y lim : Nat) (st : BitVec 16) (rows : List (Bool × BitVec 16)) :
    firstFailing ((lo ≤ a && a ≤ hi && x + y ≤ lim, st) :: rows) = if a < lo ∨ hi < a ∨ lim < x + y then some st else firstFailing rows := by
  rw [firstFailing_cons]
  by_cases h : lo ≤ a ∧ a ≤ hi ∧ x + y ≤ lim
  · obtain ⟨hlo, hhi, hsum⟩ := h
    rw [if_pos (by simp [hlo, hhi, hsum]), if_neg (by omega)]
  · rw [if_neg (by simpa [and_assoc] using h), if_pos (by omega)]

theorem State.firstFailing_paramRows (s : State) (k : Packet) : firstFailing (s.paramRows k) = s.paramRefusal k := by
  unfold State.paramRows State.paramRefusal
  dsimp only [opChannelOpen, opChannelAdopt]
  by_cases hopen : k.opcode = 0x01
  · simp only [hopen, decide_true, Bool.not_true, Bool.false_or, if_true, true_or, List.cons_append, List.nil_append]
    rw [firstFailing_bounds, firstFailing_bounds, firstFailing_ringRows]
    rfl
  · by_cases hadopt : k.opcode = 0x03
    · simp only [hadopt, decide_true, or_true, if_true, firstFailing_append, firstFailing_ringRows]
      rfl
    · simp only [hopen, hadopt, or_false, if_false, decide_false, firstFailing_append, firstFailing_ringRows_off]
      rfl

/-- The rest of row 10. -/
def State.restRows (s : State) (k : Packet) : List (Bool × BitVec 16) :=
  [ (k.header.toNat / 2 ^ 16 % 2 = 1 || (k.opcode = 0x20 && (s.chan k.chan).bestEffort), 0x0101),
    (k.ack ≤ (s.chan k.chan).replied.toNat, 0x0101),
    (payloadOk k.opcode k.pay && ((opcodeForm k.opcode).map fun f => k.handleOk f.2).getD false, 0x0101) ]

/-- Rows of one code fail together. -/
theorem firstFailing_same (st : BitVec 16) (bs : List Bool) : firstFailing (bs.map fun b => (b, st)) = if bs.all id then none else some st := by
  induction bs with
  | nil => rfl
  | cons b bs ih =>
    rw [List.map_cons, firstFailing_cons, ih]
    cases b <;> simp

theorem State.firstFailing_restRows {len use : Nat} (s : State) (hform : opcodeForm k.opcode = some (len, use)) :
    firstFailing (s.restRows k)
      = if s.restartOk k ∧ k.ack ≤ (s.chan k.chan).replied.toNat ∧ payloadOk k.opcode k.pay ∧ k.handleOk use then none else some stBadHeader := by
  have hrows : s.restRows k = [s.restartOk k, decide (k.ack ≤ (s.chan k.chan).replied.toNat),
      payloadOk k.opcode k.pay && k.handleOk use].map fun b => (b, stBadHeader) := by
    unfold State.restRows
    rw [hform]
    rfl
  rw [hrows, firstFailing_same]
  exact if_congr (by simp) rfl rfl

/-- Row 10 in the order of R216. -/
def State.row10Rows (s : State) (k : Packet) : List (Bool × BitVec 16) :=
  (opcodeTable.any fun e => e.1 = k.opcode && e.2 = k.len, 0x0101) :: (s.paramRows k ++ s.restRows k)

theorem State.firstFailing_row10Rows (s : State) (k : Packet) : firstFailing (s.row10Rows k) = s.row10 k := by
  unfold State.row10Rows State.row10
  rw [firstFailing_cons, opcodeTable_any_len, firstFailing_append, State.firstFailing_paramRows]
  cases hform : opcodeForm k.opcode with
  | none => rfl
  | some f =>
    obtain ⟨len, use⟩ := f
    by_cases hlen : k.len = len
    · subst hlen
      cases s.paramRefusal k with
      | some st => simp
      | none =>
        simp only [Option.any_some, decide_true, if_true, Option.none_or, ne_eq, not_true_eq_false, if_false]
        exact s.firstFailing_restRows hform
    · simp [hlen, Ne.symm hlen, stBadHeader]

/-! ### All rows -/

/-- Row 5 of Table 11-5 for a packet. -/
def State.duplicateRow (s : State) (k : Packet) : Bool :=
  !((s.chan k.chan).state ≠ .closed && k.port = (s.chan k.chan).owner && k.pour = s.lastPour k.chan && k.opcode = s.lastOpcode k.chan && k.pour ≠ 0)

theorem State.duplicateRow_eq (s : State) (k : Packet) : s.duplicateRow k = !s.isDuplicate k := by
  unfold State.duplicateRow State.isDuplicate
  dsimp only
  rw [bne_eq_decide_ne, bne_eq_decide_ne]

theorem State.acceptRows_eq (s : State) (k : Packet) :
    s.acceptRows k = (k.formRow, 0x0101) :: (k.buffer.isSome, 0x0108) :: (k.crcOk, 0x0102) :: (!s.riser.lost || k.opcode = 0x7F, 0x0702)
      :: (s.duplicateRow k, 0x0104) :: (s.ownerRows k ++ (k.opcode = 0x7F || k.pour = s.lastPour k.chan + 1, 0x0103)
      :: (s.row10Rows k ++ [(k.opcode = 0x7F || (s.admits k && (s.applyAck k.chan k.ack).allocEntry.isSome), 0x0107)])) := rfl

/-- A check that refuses and the row that passes otherwise. -/
theorem ite_guard {α : Type} {p q : Prop} [Decidable p] [Decidable q] (h : p ↔ ¬ q) {x y y' : α} (hy : y = y') :
    (if p then x else y) = if q then y' else x := by
  by_cases hq : q
  · rw [if_neg (h.not.mpr (not_not.mpr hq)), if_pos hq, hy]
  · rw [if_pos (h.mpr hq), if_neg hq]

/-- The refusal of a packet is its first failing row. -/
theorem State.refusalOf_eq (s : State) (k : Packet) : s.refusalOf k = firstFailing (s.acceptRows k) := by
  rw [State.acceptRows_eq, Packet.formRow_eq, State.duplicateRow_eq]
  simp only [firstFailing_cons, firstFailing_append, State.firstFailing_ownerRows, State.firstFailing_row10Rows]
  unfold State.refusalOf
  refine ite_guard (by simp) (ite_guard (by simp) (ite_guard (by simp) (ite_guard ?_ (ite_guard (by simp) ?_))))
  · simp [opNop]
  · cases s.ownerRefusal k with
    | some st => rfl
    | none =>
      refine ite_guard (by simp [opNop]) ?_
      cases s.row10 k with
      | some st => rfl
      | none => exact ite_guard (by cases s.admits k <;> simp [opNop]) rfl

end Sys2Proof.Machine
end

section
/-! SUPPORT. The decision of a packet: what it depends on, its refusal and its binding (R204, R206, R207, R213). -/

namespace Sys2Proof.Machine

variable {s t u : State} {k : Packet}

/-! ### What a decision depends on -/

/-- A write that reads do not see leaves the books. -/
theorem State.books_updLedger_lost (h : ¬ s.ledgerKept) (l : RLine) (f : Ledger → Ledger) : (s.updLedger l f).books = s.books := by
  obtain ⟨hl, hcur⟩ := not_or.mp h
  have hl := Bool.eq_false_iff.mpr hl
  have hcur := not_not.mp hcur
  have hlost : (s.riser.put l f).lost = false := by simp [Riser.put, hl]
  have hlast : (s.riser.put l f).lastAlloc = s.riser.lastAlloc := by simp [Riser.put, hl]
  simp [State.books, State.ledger, State.updLedger, hl, hlost, Riser.current_put hl, RiserCopy.write, hcur, hlast]

theorem State.ledgerKept_of_books (h : t.books = s.books) : t.ledgerKept ↔ s.ledgerKept := by
  rw [State.ledgerKept_iff_books, State.ledgerKept_iff_books, h]

theorem State.books_updEntry_congr (h : t.books = s.books) (i : Nat) (f : Entry → Entry) : (t.updEntry i f).books = (s.updEntry i f).books := by
  by_cases hk : s.ledgerKept
  · rw [State.books_updEntry hk, State.books_updEntry ((State.ledgerKept_of_books h).mpr hk), h]
  · exact (State.books_updLedger_lost (hk ∘ (State.ledgerKept_of_books h).mp) _ _).trans (h.trans (State.books_updLedger_lost hk _ _).symm)

theorem State.books_updChan_congr (h : t.books = s.books) (c : Nat) (f : ChanRec → ChanRec) : (t.updChan c f).books = (s.updChan c f).books := by
  by_cases hk : s.ledgerKept
  · rw [State.books_updChan hk, State.books_updChan ((State.ledgerKept_of_books h).mpr hk), h]
  · exact (State.books_updLedger_lost (hk ∘ (State.ledgerKept_of_books h).mp) _ _).trans (h.trans (State.books_updLedger_lost hk _ _).symm)

theorem State.books_freeAll_congr (h : t.books = s.books) (l : List Nat) : (t.freeAll l).books = (s.freeAll l).books := by
  induction l generalizing s t with
  | nil => exact h
  | cons i l ih => exact ih (State.books_updEntry_congr h i _)

/-- The entries that an ACK releases. -/
def State.ackedIndices (s : State) (c p : Nat) : List Nat := ((s.heldEntries c).filter fun e => e.2.pour.toNat ≤ p).map (·.1)

theorem State.applyAck_eq (s : State) (c p : Nat) :
    s.applyAck c p = if ((s.freeAll (s.ackedIndices c p)).chan c).acked.toNat < p then
      State.updChan { s.freeAll (s.ackedIndices c p) with
        accepted := (s.freeAll (s.ackedIndices c p)).accepted.filter fun i => !(s.ackedIndices c p).contains i } c fun ch =>
          { ch with acked := BitVec.ofNat 64 p }
    else { s.freeAll (s.ackedIndices c p) with
      accepted := (s.freeAll (s.ackedIndices c p)).accepted.filter fun i => !(s.ackedIndices c p).contains i } := rfl

theorem State.books_applyAck_congr (h : t.books = s.books) (c p : Nat) : (t.applyAck c p).books = (s.applyAck c p).books := by
  have hgone : t.ackedIndices c p = s.ackedIndices c p := by rw [State.ackedIndices, State.ackedIndices, State.heldEntries_of_books h]
  have hfree := State.books_freeAll_congr h (s.ackedIndices c p)
  rw [State.applyAck_eq, State.applyAck_eq, hgone, State.chan_of_books hfree]
  split
  · exact State.books_updChan_congr hfree c _
  · exact hfree

/-- An ACK leaves intake and memory. -/
theorem State.applyAck_leaves (s : State) (c p : Nat) : (s.applyAck c p).intake = s.intake ∧ (s.applyAck c p).mem = s.mem := by
  rw [State.applyAck_eq, State.freeAll_eq]
  split <;> exact ⟨rfl, rfl⟩

theorem State.allocEntry_congr (h : t.books = s.books) (hb : t.intake.bound = s.intake.bound) : t.allocEntry = s.allocEntry := by
  unfold State.allocEntry
  dsimp only
  rw [hb, State.lastAlloc_of_books h]
  simp only [State.entry_of_books h]

/-- What a decision reads: the books, the bound packets and the loaded patterns. -/
structure State.SameDesk (s t : State) : Prop where
  books    : t.books = s.books
  bound    : t.intake.bound = s.intake.bound
  patterns : t.patterns = s.patterns

theorem State.SameDesk.lastPour (h : s.SameDesk t) (c : Nat) : t.lastPour c = s.lastPour c := by
  unfold State.lastPour
  rw [h.bound, State.chan_of_books h.books]

theorem State.SameDesk.isDuplicate (h : s.SameDesk t) (k : Packet) : t.isDuplicate k = s.isDuplicate k := by
  unfold State.isDuplicate State.lastOpcode
  rw [h.lastPour, h.bound, State.chan_of_books h.books]

theorem State.SameDesk.ownerRefusal (h : s.SameDesk t) (k : Packet) : t.ownerRefusal k = s.ownerRefusal k := by
  unfold State.ownerRefusal
  rw [State.chan_of_books h.books]

theorem State.SameDesk.promised (h : s.SameDesk t) (c : Nat) : t.promised c = s.promised c := by
  unfold State.promised
  simp only [h.bound, State.chan_of_books h.books]

theorem State.SameDesk.row10 (h : s.SameDesk t) (k : Packet) : t.row10 k = s.row10 k := by
  unfold State.row10 State.paramRefusal State.restartOk
  simp only [h.promised, State.chan_of_books h.books]

theorem State.SameDesk.admits (h : s.SameDesk t) (k : Packet) : t.admits k = s.admits k := by
  have hreserves : t.reserves k.chan = s.reserves k.chan := by
    unfold State.reserves State.loaded
    rw [h.patterns]
  have hpours : t.heldPours k.chan = s.heldPours k.chan := by
    unfold State.heldPours
    rw [State.heldEntries_of_books h.books, h.bound]
  unfold State.admits
  rw [hreserves, hpours, State.chan_of_books h.books]

theorem State.SameDesk.allocAcked (h : s.SameDesk t) (c p : Nat) : (t.applyAck c p).allocEntry = (s.applyAck c p).allocEntry :=
  State.allocEntry_congr (State.books_applyAck_congr h.books c p) (by rw [(t.applyAck_leaves c p).1, (s.applyAck_leaves c p).1, h.bound])

theorem State.SameDesk.refusalOf (h : s.SameDesk t) (k : Packet) : t.refusalOf k = s.refusalOf k := by
  unfold State.refusalOf
  rw [State.lost_of_books h.books, h.isDuplicate, h.ownerRefusal, h.lastPour, h.row10, h.admits, h.allocAcked]

/-! ### Refusals (R213) -/

/-- Intake, memory and the refusals that SPR_CHAN_REFUSAL holds stand. -/
structure State.KeepsDesk (s t : State) : Prop where
  intake  : t.intake = s.intake
  mem     : t.mem = s.mem
  refusal : ∀ c, (t.vchan c).refusal = (s.vchan c).refusal

theorem State.KeepsDesk.refl (s : State) : s.KeepsDesk s := ⟨rfl, rfl, fun _ => rfl⟩

theorem State.KeepsDesk.trans (h : s.KeepsDesk t) (h' : t.KeepsDesk u) : s.KeepsDesk u :=
  ⟨h'.intake.trans h.intake, h'.mem.trans h.mem, fun c => (h'.refusal c).trans (h.refusal c)⟩

theorem State.Sends.keepsDesk {p : HostPort} (h : s.Sends p t) : s.KeepsDesk t := ⟨h.intake, h.mem, h.refusal⟩

theorem State.updVchan_keepsDesk (s : State) (c : Nat) {f : Chan → Chan} (hf : ∀ v, (f v).refusal = v.refusal) : s.KeepsDesk (s.updVchan c f) :=
  (State.sends_updVchan hf .cope s c).keepsDesk

theorem State.queueReply_keepsDesk (s : State) (c : Nat) (r : Reply) : s.KeepsDesk (s.queueReply c r) := s.updVchan_keepsDesk c fun _ => rfl

theorem State.routeRefusal_keepsDesk (s : State) (k : Packet) (st : BitVec 16) : s.KeepsDesk (s.routeRefusal k st) := by
  unfold State.routeRefusal
  dsimp only
  split
  · split
    · exact (State.Sends.trans (State.sends_updPort (.late _ _)) (State.sends_flushPort ..)).keepsDesk
    · exact State.KeepsDesk.refl s
  · split
    · split
      · exact s.queueReply_keepsDesk ..
      · exact s.updVchan_keepsDesk _ fun _ => rfl
    · exact State.KeepsDesk.refl s

theorem State.answerDuplicate_keepsDesk (s : State) (k : Packet) : s.KeepsDesk (s.answerDuplicate k) := by
  have hwaits := s.updVchan_keepsDesk k.chan (f := fun v => { v with dups := v.dups ++ [BitVec.ofNat 64 k.pour] }) fun _ => rfl
  unfold State.answerDuplicate
  dsimp only
  split
  · split
    · exact s.queueReply_keepsDesk ..
    · exact hwaits
  · exact hwaits

/-- A refusal recorded and counted. -/
def State.recordRefusal (s : State) (k : Packet) (st : BitVec 16) : State :=
  (s.updVchan k.chan fun v => { v with refusal := ⟨true, k.port, BitVec.ofNat 8 k.opcode, st, BitVec.ofNat 64 k.pour⟩ }).count
    (ctrHost k.port.toNat 2) 1

theorem State.vchan_recordRefusal (s : State) (k : Packet) (st : BitVec 16) : (s.recordRefusal k st).vchan k.chan
    = { s.vchan k.chan with refusal := ⟨true, k.port, BitVec.ofNat 8 k.opcode, st, BitVec.ofNat 64 k.pour⟩ } :=
  State.vchan_updVchan_same s k.chan fun v => { v with refusal := ⟨true, k.port, BitVec.ofNat 8 k.opcode, st, BitVec.ofNat 64 k.pour⟩ }

theorem State.refuse_eq (s : State) (k : Packet) (st : BitVec 16) :
    s.refuse k st = (if st = stDuplicate then (s.recordRefusal k st).answerDuplicate k else (s.recordRefusal k st).routeRefusal k st).freeBuffer k.buffer :=
  rfl

/-- A refused packet is recorded and its buffer freed; memory stands. -/
theorem State.refuse_spec (s : State) (k : Packet) (st : BitVec 16) :
    ((s.refuse k st).vchan k.chan).refusal = ⟨true, k.port, BitVec.ofNat 8 k.opcode, st, BitVec.ofNat 64 k.pour⟩
      ∧ (s.refuse k st).intake = (s.freeBuffer k.buffer).intake ∧ (s.refuse k st).mem = s.mem := by
  have hanswer : (s.recordRefusal k st).KeepsDesk
      (if st = stDuplicate then (s.recordRefusal k st).answerDuplicate k else (s.recordRefusal k st).routeRefusal k st) := by
    split
    · exact State.answerDuplicate_keepsDesk ..
    · exact State.routeRefusal_keepsDesk ..
  rw [State.refuse_eq]
  generalize (if st = stDuplicate then (s.recordRefusal k st).answerDuplicate k else (s.recordRefusal k st).routeRefusal k st) = u at hanswer
  refine ⟨?_, ?_, ?_⟩
  · have hfree : (u.freeBuffer k.buffer).vchan k.chan = u.vchan k.chan := by rw [State.freeBuffer_eq]; rfl
    rw [hfree, hanswer.refusal, State.vchan_recordRefusal]
  · rw [State.freeBuffer_intake, hanswer.intake, State.freeBuffer_intake]
    rfl
  · rw [State.freeBuffer_eq]
    exact hanswer.mem

/-! ### Binding -/

/-- The entry allocated is FREE, and no bound packet has it (R242). -/
theorem State.allocEntry_spec {i : Nat} (h : s.allocEntry = some i) : i < 1024 ∧ (s.entry i).state = .free ∧ ∀ b ∈ s.intake.bound, b.entry ≠ i := by
  have hok := List.find?_some h
  obtain ⟨j, -, hj⟩ := List.mem_map.mp (List.mem_of_find?_eq_some h)
  simp only [Bool.and_eq_true, decide_eq_true_eq, Bool.not_eq_true', List.contains_eq_mem, decide_eq_false_iff_not, List.mem_map, not_exists,
    not_and] at hok
  obtain ⟨hfree, hunused⟩ := hok
  exact ⟨by omega, hfree, fun b hb => hunused b hb⟩

/-- A packet that is no NOP and passes every row finds an entry. -/
theorem State.refusalOf_none (h : s.refusalOf k = none) (hop : k.opcode ≠ opNop) : ∃ i, (s.applyAck k.chan k.ack).allocEntry = some i := by
  have hrows (r : Bool × BitVec 16) (hr : r ∈ s.acceptRows k) : r.1 = true := by
    rw [State.refusalOf_eq, firstFailing, Option.map_eq_none_iff, List.find?_eq_none] at h
    simpa using h r hr
  have hlast : (k.opcode = 0x7F || (s.admits k && (s.applyAck k.chan k.ack).allocEntry.isSome), 0x0107) ∈ s.acceptRows k := by
    rw [State.acceptRows_eq]
    simp
  have hrow := hrows _ hlast
  simp only [Bool.or_eq_true, decide_eq_true_eq, Bool.and_eq_true] at hrow
  exact Option.isSome_iff_exists.mp (hrow.resolve_left hop).2

theorem State.decide_refused {st : BitVec 16} (h : s.refusalOf k = some st) : s.decide_ k = s.refuse k st := by
  unfold State.decide_
  rw [h]

theorem State.decide_bound (h : s.refusalOf k = none) (hop : k.opcode ≠ opNop) : s.decide_ k = s.bind k := by
  unfold State.decide_
  rw [h]
  exact if_neg hop

theorem State.bind_eq {i : Nat} (h : (s.applyAck k.chan k.ack).allocEntry = some i) :
    s.bind k = { s.applyAck k.chan k.ack with
      riser := { (s.applyAck k.chan k.ack).riser with lastAlloc := i }
      intake := { (s.applyAck k.chan k.ack).intake with bound := (s.applyAck k.chan k.ack).intake.bound ++ [⟨k, i⟩] } } := by
  unfold State.bind
  dsimp only
  rw [h]

/-! ### PACKET_DECISION -/

theorem takeFirst_chan {c : Nat} {l rest : List Packet} (h : takeFirst c l = some (k, rest)) : k.chan = c := by
  induction l generalizing rest with
  | nil => cases h
  | cons x l ih =>
    unfold takeFirst at h
    split at h
    · next hx =>
      cases h
      exact hx
    · obtain ⟨r, hr, heq⟩ := Option.map_eq_some_iff.mp h
      obtain ⟨x', rest'⟩ := r
      cases heq
      exact ih hr

theorem Packet.ofCells_leaves (k : Packet) (bytes chk : Mem) :
    (k.ofCells bytes chk).port = k.port ∧ (k.ofCells bytes chk).chan = k.chan ∧ (k.ofCells bytes chk).buffer = k.buffer := by
  simp only [Packet.ofCells, and_self]

theorem Packet.decode_leaves (k : Packet) : k.decode.1.port = k.port ∧ k.decode.1.chan = k.chan ∧ k.decode.1.buffer = k.buffer := by
  unfold Packet.decode
  split
  · exact ⟨rfl, rfl, rfl⟩
  · exact Packet.ofCells_leaves ..

/-- The state in which a packet taken out of those received is decided. -/
def State.taken (s : State) (k : Packet) (rest : List Packet) : State :=
  { s with intake := { s.intake with received := rest } }.noteAll none k.decode.2

theorem exec_packetDecision {c : Fin 64} {turn : Packet} {rest : List Packet} (hturn : s.nextDecision = some turn)
    (hfirst : takeFirst c.val s.intake.received = some (k, rest)) (hchan : turn.chan = c.val) :
    exec (.packetDecision c) s = .next ((s.taken k rest).decide_ k.decode.1) := by
  have hexec : exec (.packetDecision c) s = execPacketDecision c s := rfl
  rw [hexec, execPacketDecision, hturn, hfirst]
  exact congrArg Host.Outcome.next (if_pos hchan)

theorem exec_packetDecision_other {c : Fin 64} (h : ∀ turn, s.nextDecision = some turn → turn.chan ≠ c.val) :
    exec (.packetDecision c) s = .next s := by
  have hexec : exec (.packetDecision c) s = execPacketDecision c s := rfl
  rw [hexec, execPacketDecision]
  split
  · next turn _ _ hturn _ => exact congrArg Host.Outcome.next (if_neg (h turn hturn))
  · rfl

theorem State.taken_intake (s : State) (k : Packet) (rest : List Packet) : (s.taken k rest).intake = { s.intake with received := rest } := by
  rw [State.taken, (State.noteAll_accounts ..).eq]

theorem State.taken_mem (s : State) (k : Packet) (rest : List Packet) : (s.taken k rest).mem = s.mem := (State.noteAll_accounts ..).mem

theorem State.taken_sameDesk (s : State) (k : Packet) (rest : List Packet) : s.SameDesk (s.taken k rest) :=
  ⟨State.books_noteAll .., by rw [State.taken_intake], (State.noteAll_accounts ..).patterns⟩

end Sys2Proof.Machine

namespace Sys2Proof.Machine

/-- Settles O20: the model's checks are the rows of Table 11-5 one by one, and what is noted of the packet's buffer changes nothing that they read. -/
theorem packetDecided : Obligations.PacketDecided := by
  unfold Obligations.PacketDecided
  rintro c s k d rest hfirst rfl
  have hchan := takeFirst_chan hfirst
  obtain ⟨hport, hdchan, hbuffer⟩ := k.decode_leaves
  have hrefusal : (s.taken k rest).refusalOf k.decode.1 = firstFailing (s.acceptRows k.decode.1) := by
    rw [(s.taken_sameDesk k rest).refusalOf, State.refusalOf_eq]
  refine ⟨fun hclean => ?_, fun hturn st hst => ?_, fun hturn hpass hop => ?_, fun hno => exec_packetDecision_other hno⟩
  · rw [Packet.decode, if_pos hclean]
  · have hdecide := State.decide_refused (hrefusal.trans hst)
    obtain ⟨hrecord, hintake, hmem⟩ := (s.taken k rest).refuse_spec k.decode.1 st
    rw [hdchan, hchan, hport] at hrecord
    refine ⟨_, exec_packetDecision hturn hfirst hchan, ?_, ?_, ?_⟩
    · rw [hdecide]
      exact hrecord
    · rw [hdecide, hintake, State.freeBuffer_intake, State.taken_intake, hbuffer, State.freeBuffer_intake]
    · rw [hdecide, hmem, State.taken_mem]
  · obtain ⟨i, hi⟩ := State.refusalOf_none (hrefusal.trans hpass) hop
    have hdecide := State.decide_bound (hrefusal.trans hpass) hop
    obtain ⟨hlt, hfree, hunused⟩ := State.allocEntry_spec hi
    obtain ⟨hintake, hmem⟩ := (s.taken k rest).applyAck_leaves k.decode.1.chan k.decode.1.ack
    rw [hintake, State.taken_intake] at hunused
    refine ⟨_, i, exec_packetDecision hturn hfirst hchan, ?_, hlt, ?_, hunused, ?_⟩
    · rw [hdecide, State.bind_eq hi, hintake, State.taken_intake]
    · rw [hdecide, State.bind_eq hi]
      exact hfree
    · rw [hdecide, State.bind_eq hi, hmem, State.taken_mem]

end Sys2Proof.Machine
end

section
/-! SUPPORT. Pours that answer with a block in host memory: the writes that carry it, what a signature leaves, and QUERY and ATTEST where
they start (R228, R229, R360, R361, R363). -/

namespace Sys2Proof.Machine

variable {s t u s1 : State} {i : Nat} {k : Packet} {c : Fin 64}

/-! ### The block -/

/-- Writes to host memory go out of their port one after the other, after what went before. -/
theorem State.port_foldl_hostWrite (p : HostPort) (l : List (Word64 × List Byte)) (s : State) :
    ((l.foldl (fun s w => s.hostWrite p w.1 w.2) s).port p).out = (s.port p).out ++ l.map fun w => .write w.1 w.2 := by
  induction l generalizing s with
  | nil => simp
  | cons w l ih => rw [List.foldl_cons, ih, State.port_hostWrite, List.map_cons, List.append_assoc, List.singleton_append]

/-- A block for a port that may write is written at once, and the pour has its outcome. -/
theorem State.answerWith_writes {d : Nat} {r : Running} {p : HostPort} (hr : u.runningOf d = some r) (hp : (u.chan d).owner = p)
    (hw : (u.port p).mayWrite = true) (a : Word64) (bs : List Byte) (o : PourOutcome) :
    (u.answerWith d a bs o).runningOf d = some { r with out := [], planned := none, outcome := some o }
      ∧ (∀ j, (u.answerWith d a bs o).entry j = u.entry j)
      ∧ ((u.answerWith d a bs o).port p).out = (u.port p).out ++ blockWrites a bs := by
  generalize hv : u.updRunning d (fun r => { r with out := hostPieces a bs, planned := some o }) = v
  have hvr : v.runningOf d = some { r with out := hostPieces a bs, planned := some o } := by
    rw [← hv, State.runningOf_updRunning, hr]
    rfl
  have hvp (q : HostPort) : v.port q = u.port q := by
    rw [← hv]
    cases q <;> rfl
  have heq : u.answerWith d a bs o = ((hostPieces a bs).foldl (fun s w => s.hostWrite p w.1 w.2) v).updRunning d
      fun r => { r with out := [], planned := none, outcome := some o } := by
    have hvc : (v.chan d).owner = p := by
      rw [← hv]
      exact hp
    unfold State.answerWith
    rw [hv]
    unfold State.flushPour
    rw [hvr]
    dsimp only
    rw [hvc, if_pos (by rw [hvp, hw])]
  generalize hx : (hostPieces a bs).foldl (fun s w => s.hostWrite p w.1 w.2) v = x at heq
  have hxw : x.work = v.work := by
    rw [← hx]
    exact List.foldlRecOn _ _ (motive := fun y : State => y.work = v.work) rfl
      fun y hy w _ => (State.hostWrite_work y p w.1 w.2).trans hy
  refine ⟨?_, fun j => ?_, ?_⟩
  · rw [heq, State.runningOf_updRunning, State.runningOf_of_work hxw, hvr]
    rfl
  · have hj : x.entry j = v.entry j := State.entry_of_work hxw j
    rw [heq]
    refine Eq.trans (b := x.entry j) rfl (hj.trans ?_)
    rw [← hv]
    rfl
  · have hout : (x.port p).out = (v.port p).out ++ blockWrites a bs := by
      rw [← hx]
      exact State.port_foldl_hostWrite ..
    rw [heq]
    refine Eq.trans (b := (x.port p).out) (by cases p <;> rfl) ?_
    rw [hout, hvp]

/-! ### Signing -/

/-- What a signature leaves alone: the ledger as the Nelhan reads it, the running pours and the host ports. -/
structure State.Signs (s t : State) : Prop where
  books   : t.books = s.books
  running : t.running = s.running
  cope    : t.cope = s.cope
  drag    : t.drag = s.drag

theorem State.Signs.refl (s : State) : s.Signs s := ⟨rfl, rfl, rfl, rfl⟩

theorem State.Signs.trans (h : s.Signs t) (h' : t.Signs u) : s.Signs u :=
  ⟨h'.books.trans h.books, h'.running.trans h.running, h'.cope.trans h.cope, h'.drag.trans h.drag⟩

theorem State.Signs.port (h : s.Signs t) (p : HostPort) : t.port p = s.port p := by
  cases p with
  | cope => exact h.cope
  | drag => exact h.drag

/-- The Assay's records and the numbers that it draws are none of that. -/
theorem State.signs_assay (s : State) (f : Nat) (a : Assay) : s.Signs { s with free := f, assay := a } := ⟨rfl, rfl, rfl, rfl⟩

theorem State.signs_drawBytes (s : State) (n : Nat) : s.Signs (s.drawBytes n).2 := by
  unfold State.drawBytes State.seedDrbg
  split
  · exact State.signs_assay ..
  · exact State.signs_assay ..

theorem State.signs_updLms (s : State) (l : RLine) {f : Ledger → Ledger} (he : ∀ x, (f x).entries = x.entries)
    (hc : ∀ x, (f x).chans = x.chans) (hs : ∀ x, (f x).slots = x.slots) : s.Signs (s.updLedger l f) :=
  ⟨State.books_updLedger_other s l he hc hs, rfl, rfl, rfl⟩

theorem State.signs_spendLeaf (s : State) : s.Signs s.spendLeaf := by
  unfold State.spendLeaf
  extract_lets q v w
  split
  · exact State.Signs.refl s
  · have hv : s.Signs v := State.signs_updLms s _ (fun _ => rfl) (fun _ => rfl) fun _ => rfl
    have hw : v.Signs w := State.signs_updLms v _ (fun _ => rfl) (fun _ => rfl) fun _ => rfl
    exact ((hv.trans hw).trans (State.signs_drawBytes w 32)).trans (State.signs_assay ..)

theorem State.signs_readyLeaf (s : State) : s.Signs s.readyLeaf := by
  unfold State.readyLeaf
  split
  · split
    · exact State.Signs.refl s
    · exact State.signs_spendLeaf s
  · exact State.signs_spendLeaf s

theorem State.signs_sign (s : State) (msg : List Byte) : s.Signs (s.sign msg).2 := by
  have hfirst : s.Signs (s.aliasSign msg).2 := State.signs_drawBytes s 56
  unfold State.sign
  dsimp only
  split
  · exact (hfirst.trans (State.signs_drawBytes _ 32)).trans (State.signs_assay ..)
  · exact hfirst

/-- Device evidence is signed and counted as a service (R360). -/
theorem State.signs_attestDevice (s : State) (nonce : List Byte) : s.Signs (s.attestDevice nonce).2 :=
  ((State.signs_readyLeaf s).trans (State.signs_sign _ _)).trans (State.signs_assay ..)

/-- A stored receipt is signed and counted as a service (R363). -/
theorem State.signs_attestReceiptOf (s : State) (r : Receipt) (nonce : List Byte) : s.Signs (s.attestReceiptOf r nonce).2 :=
  ((State.signs_readyLeaf s).trans (State.signs_sign _ _)).trans (State.signs_assay ..)

/-! ### Where the pours start -/

/-- A pour that starts now has no writes of an earlier attempt to go on with. -/
theorem State.startsNow.resumeOr {d op : Nat} {ks : List Nat} (h : s.startsNow s1 d op i ks k) (op' : Nat) (v : State) :
    s.resumeOr d op' v = v := by
  rw [State.resumeOr, h.idle]

/-- A pour that answers, signed or not, from the state in which its attempt has begun. -/
theorem State.Begins.answers {d : Nat} {p : HostPort} (h : s.Begins u d i k) (ht : u.Signs t) (hp : p = (s.chan d).owner)
    (hw : (s.port p).mayWrite = true) (a : Word64) (bs : List Byte) (o : PourOutcome) :
    (t.answerWith d a bs o).runsWith s d i k (some o)
      ∧ ((t.answerWith d a bs o).port p).out = (s.port p).out ++ blockWrites a bs := by
  have hport (q : HostPort) : t.port q = s.port q := (ht.port q).trans (h.port q)
  have hrun : t.runningOf d = some ⟨i, k, opClass k.opcode, none, none, 0, [], [], none⟩ :=
    (congrArg (Tab.get none · d) ht.running).trans h.running
  have howner : (t.chan d).owner = p := by rw [State.chan_of_books ht.books, h.chan, hp]
  obtain ⟨hr, he, hout⟩ := State.answerWith_writes hrun howner (by rw [hport, hw]) a bs o
  refine ⟨h.runsWith ((he i).trans (State.entry_of_books ht.books i)) hr rfl rfl rfl, ?_⟩
  rw [hout, hport]

theorem State.startsNow.deviceBlock {d op : Nat} {ks : List Nat} (h : s.startsNow s1 d op i ks k) :
    (s1.beginAttempt d i k).deviceBlock = s.deviceBlock := by
  obtain ⟨ri, tr, ru, po, cn, hu⟩ := h.begun
  rw [hu]
  rfl

theorem State.Begins.patternBlock {d : Nat} (h : s.Begins u d i k) (n : Nat) (q : Pattern) : u.patternBlock n q = s.patternBlock n q := by
  have hmap : u.currentMap n = s.currentMap n := State.currentMap_congr h.patterns h.ledger n
  unfold State.patternBlock
  rw [hmap, h.stepOf, h.patternSlot]

theorem State.startsNow.receiptOf {d op : Nat} {ks : List Nat} (h : s.startsNow s1 d op i ks k) (e n : Nat) :
    (s1.beginAttempt d i k).receiptOf e n = s.receiptOf e n := by
  obtain ⟨ri, tr, ru, po, cn, hu⟩ := h.begun
  rw [hu]
  rfl

theorem execQueryDevice_answers (h : s.startsNow s1 c.val 0x40 i [] k) (hsel : fieldOf k.pay 64 8 = 0) :
    exec (.queryDevice c) s = .next ((s1.beginAttempt c.val i k).answerWith c.val (BitVec.ofNat 64 (fieldOf k.pay 0 64)) s.deviceBlock
      (completed stOk 128 .nothing)) := by
  refine congrArg Host.Outcome.next ?_
  rw [h.resumeOr, ← h.deviceBlock]
  exact (h.startPour (needs := noNeeds) rfl _).trans (if_pos hsel)

theorem execQueryPattern_answers {q : Pattern} (h : s.startsNow s1 c.val 0x40 i [] k) (hsel : fieldOf k.pay 64 8 = 1)
    (hq : s.patternOn c.val k.handle = some q) :
    exec (.queryPattern c) s = .next ((s1.beginAttempt c.val i k).answerWith c.val (BitVec.ofNat 64 (fieldOf k.pay 0 64))
      (s.patternBlock k.handle q) (completed stOk 640 .nothing)) := by
  refine congrArg Host.Outcome.next ?_
  rw [h.resumeOr, ← h.begins.patternBlock]
  refine (h.startPour (needs := noNeeds) rfl _).trans ((if_pos hsel).trans ?_)
  rw [h.begins.patternOn, hq]

theorem execAttestDeviceEvidence_answers (h : s.startsNow s1 c.val 0x60 i [] k) (hsel : fieldOf k.pay 64 8 = 0) {x : List Byte × State}
    (hx : (s1.beginAttempt c.val i k).attestDevice ((k.payload.drop 16).take 48) = x) :
    exec (.attestDeviceEvidence c) s = .next (x.2.answerWith c.val (BitVec.ofNat 64 (fieldOf k.pay 0 64)) (padded x.1)
      (completed stOk x.1.length .nothing)) := by
  refine congrArg Host.Outcome.next ?_
  rw [h.resumeOr, ← hx]
  exact (h.startPour (needs := noNeeds) rfl _).trans (if_pos hsel)

theorem execAttestReceipt_answers {q : Pattern} {r : Receipt} (h : s.startsNow s1 c.val 0x60 i [] k) (hsel : fieldOf k.pay 64 8 = 1)
    (hq : s.patternOn c.val k.handle = some q) (hr : s.receiptOf c.val k.handle = some r) {x : List Byte × State}
    (hx : (s1.beginAttempt c.val i k).attestReceiptOf r ((k.payload.drop 16).take 48) = x) :
    exec (.attestReceipt c) s = .next (x.2.answerWith c.val (BitVec.ofNat 64 (fieldOf k.pay 0 64)) (padded x.1)
      (completed stOk x.1.length .nothing)) := by
  have hfound : ((s1.beginAttempt c.val i k).patternOn c.val k.handle).bind
      (fun _ => (s1.beginAttempt c.val i k).receiptOf c.val k.handle) = some r := by
    rw [h.begins.patternOn, hq, h.receiptOf, hr]
    rfl
  refine congrArg Host.Outcome.next ?_
  rw [h.resumeOr, ← hx]
  refine (h.startPour (needs := noNeeds) rfl _).trans ((if_pos hsel).trans ?_)
  rw [hfound]

end Sys2Proof.Machine

namespace Sys2Proof.Machine

/-- Settles O25: each block is the one that the state before would give, or is signed where the attempt has begun, and a signature leaves
what the answer goes by. -/
theorem answersWritten : Obligations.AnswersWritten := by
  unfold Obligations.AnswersWritten
  rintro c s s1 _ i k a _ p hp hw rfl rfl
  refine ⟨fun h hsel => ?_, fun q h hsel hq => ?_, fun h hsel ha => ?_, fun q r h hsel hq hr ha => ?_⟩
  · exact ⟨_, execQueryDevice_answers h hsel, h.begins.answers (State.Signs.refl _) hp hw ..⟩
  · exact ⟨_, execQueryPattern_answers h hsel hq, h.begins.answers (State.Signs.refl _) hp hw ..⟩
  · have hsigns := State.signs_attestDevice (s1.beginAttempt c.val i k) ((k.payload.drop 16).take 48)
    generalize hx : (s1.beginAttempt c.val i k).attestDevice ((k.payload.drop 16).take 48) = x at ha hsigns
    rw [ha]
    exact ⟨_, execAttestDeviceEvidence_answers h hsel hx, h.begins.answers hsigns hp hw ..⟩
  · have hsigns := State.signs_attestReceiptOf (s1.beginAttempt c.val i k) r ((k.payload.drop 16).take 48)
    generalize hx : (s1.beginAttempt c.val i k).attestReceiptOf r ((k.payload.drop 16).take 48) = x at ha hsigns
    rw [ha]
    exact ⟨_, execAttestReceipt_answers h hsel hq hr hx, h.begins.answers hsigns hp hw ..⟩

end Sys2Proof.Machine
end

section
/-! SUPPORT. The registers that the used clusters of a RUN start with (R81, R174, R224). -/

namespace Sys2Proof.Machine

variable {s u s1 : State} {c i : Nat} {k : Packet} {p : Pattern}

/-! ### The values -/

/-- Values put one after the other from a key on: each is read at its place. -/
theorem Tab.get_foldl_put_mapIdx {α : Type} [DecidableEq α] {d : α} (vs : List α) (n : Nat) (r : Tab α) (j : Nat) :
    Tab.get d ((vs.mapIdx fun i v => (i + n, v)).foldl (fun r e => Tab.put d r e.1 e.2) r) j
      = if n ≤ j ∧ j < n + vs.length then vs.getD (j - n) d else Tab.get d r j := by
  induction vs generalizing n r with
  | nil => simp
  | cons v vs ih =>
    have hshift : (fun (i : Nat) (v : α) => (i + 1 + n, v)) = fun i v => (i + (n + 1), v) := by
      funext i v
      rw [Nat.add_assoc, Nat.add_comm 1 n]
    rw [List.mapIdx_cons, List.foldl_cons, hshift, ih (n + 1), Tab.get_put]
    simp only [List.length_cons, Nat.zero_add]
    by_cases hj : n = j
    · subst hj
      simp
    · by_cases hlo : n + 1 ≤ j
      · obtain ⟨m, rfl⟩ : ∃ m, j = n + 1 + m := ⟨j - (n + 1), by omega⟩
        have hm : n + 1 + m - n = m + 1 := by omega
        simp [hm, hj, show n ≤ n + 1 + m by omega, show (n + 1 + m < n + (vs.length + 1)) ↔ m < vs.length by omega]
      · have hlo' : ¬n ≤ j := by omega
        simp [hlo, hlo', hj]

/-- ARG0 to ARG9 of a RUN's payload. -/
def Packet.runArgs (k : Packet) : List Word64 := (List.range 10).map fun j => BitVec.ofNat 64 (fieldOf k.pay (128 + 64 * j) 64)

/-- The values of R224 in their order, from x1 on. -/
def startValues (t : Word64) (eta : Word32) (rank n g : Nat) (k : Packet) : List Word64 :=
  [t, eta.setWidth 64, BitVec.ofNat 64 rank, BitVec.ofNat 64 n, BitVec.ofNat 64 g] ++ k.runArgs

theorem length_startValues (t : Word64) (eta : Word32) (rank n g : Nat) (k : Packet) : (startValues t eta rank n g k).length = 15 := by
  simp [startValues, Packet.runArgs]

/-- A cluster with the registers of R224: x1 to x15 are the values, x0 and all others zero. -/
theorem Cluster.reg_startRegs {d : Cluster} {t : Word64} {eta : Word32} {rank n g : Nat}
    (h : d.regs = startRegs t eta rank n g k.runArgs) (j : Nat) :
    d.reg j = if 1 ≤ j ∧ j < 16 then (startValues t eta rank n g k).getD (j - 1) 0 else 0 := by
  have hget := Tab.get_foldl_put_mapIdx (d := 0) (startValues t eta rank n g k) 1 [] j
  rw [length_startValues] at hget
  have hregs : d.regs = ((startValues t eta rank n g k).mapIdx fun i v => (i + 1, v)).foldl (fun r e => Tab.put 0 r e.1 e.2) [] := h
  unfold Cluster.reg
  rw [hregs, hget]
  by_cases hj : j = 0
  · subst hj
    rfl
  · rw [if_neg hj]
    rfl

/-! ### The clusters -/

/-- Each used cluster is set up with its own registers. -/
theorem State.regs_setupClusters (s : State) (p : Pattern) (map : BitVec 4096) (restore : Bool) (regs : Nat → Tab Word64) {g : Nat}
    (hg : g < 128) (hused : p.used.getLsbD g = true) : ((s.setupClusters p map restore regs).cl g).regs = regs g := by
  obtain ⟨u, hu⟩ := (State.cl_foldl (f := State.setupStep p map restore regs)
    (fun s h g hne => (State.setupStep_spec p map restore regs s h).2.2 g hne) List.nodup_range s g).2 (List.mem_range.mpr hg)
  obtain ⟨v, tiles, m, -, -, heq⟩ := u.setupCluster_eq p map restore regs g
  have hstep : State.setupStep p map restore regs u g = { v.updCl g (Cluster.started p regs g tiles) with mem := m } := by
    rw [State.setupStep, if_pos hused, heq]
  refine (congrArg Cluster.regs hu).trans ?_
  rw [hstep]
  exact congrArg Cluster.regs (State.cl_updCl_same v g (Cluster.started p regs g tiles))

/-- An attempt starts its clusters with the values of its context, of the chip's place in its flask and of the packet. -/
theorem State.startAttempt_regs (h : ∀ q, (s.rport q).relays = []) (r : RunCtx) (p : Pattern) (k : Packet) {g : Nat} (hg : g < 128)
    (hused : p.used.getLsbD g = true) :
    ((s.startAttempt r p k).cl g).regs = startRegs r.t r.eta s.rank s.flaskN g k.runArgs := by
  have hfresh : s.linesDone.freshSamples.runner = s.runner :=
    (State.Accounts.trans (s := s) ⟨rfl⟩ (State.freshSamples_accounts s.linesDone)).runner
  obtain ⟨map, restore, heq⟩ : ∃ map restore, s.startAttempt r p k = (State.setupClusters { s.linesDone.freshSamples with run := some r } p
      map restore fun g => startRegs r.t r.eta s.linesDone.freshSamples.rank s.linesDone.freshSamples.flaskN g k.runArgs).opensAttempt r p :=
    ⟨_, _, rfl⟩
  have hrank : s.linesDone.freshSamples.rank = s.rank := by rw [State.rank, hfresh, State.rank]
  have hcount : s.linesDone.freshSamples.flaskN = s.flaskN := by rw [State.flaskN, hfresh, State.flaskN]
  rw [hrank, hcount] at heq
  have hset := State.setupClusters_spec { s.linesDone.freshSamples with run := some r } p map restore
    fun g => startRegs r.t r.eta s.rank s.flaskN g k.runArgs
  have hregs := State.regs_setupClusters { s.linesDone.freshSamples with run := some r } p map restore
    (fun g => startRegs r.t r.eta s.rank s.flaskN g k.runArgs) hg hused
  generalize State.setupClusters { s.linesDone.freshSamples with run := some r } p map restore
    (fun g => startRegs r.t r.eta s.rank s.flaskN g k.runArgs) = v at heq hset hregs
  obtain ⟨-, -, -, -, hcl⟩ := State.opensAttempt_spec (u := v)
    (fun q => by rw [State.rport, hset.1.runner, show ({ s.linesDone.freshSamples with run := some r } : State).runner = s.runner from hfresh]; exact h q) r p
  rw [heq, State.cl, hcl]
  exact hregs

/-- With no vote of a flask, the first attempt of a RUN is no more than its start, counted where its pattern has several ranks. -/
theorem State.firstAttempt_unvoted (h : ∀ q, (s.rport q).relays = []) (hv : ∀ x ∈ s.runner.votes, x.1 = false) (c i : Nat) (k : Packet)
    (p : Pattern) :
    s.firstAttempt c i k p = (s.countsRun c i p).startAttempt ((s.countsRun c i p).runCtx c i k p (s.countsRun c i p).runner.runSeq) p k := by
  obtain ⟨x, hx, hvotes, hports⟩ := s.countsRun_eq c i p
  have hstart := State.startAttempt_spec (s := s.countsRun c i p) (fun q => by
    rw [hx, State.rport, hports]
    exact h q) ((s.countsRun c i p).runCtx c i k p (s.countsRun c i p).runner.runSeq) p k
  generalize hu : (s.countsRun c i p).startAttempt ((s.countsRun c i p).runCtx c i k p (s.countsRun c i p).runner.runSeq) p k = u at hstart
  have hquiet : u.runner.votes.any (fun h => h.1 && h.2.2.1 != u.runner.runSeq) = false := by
    rw [hstart.votes, hx, hvotes, List.any_eq_false]
    intro v hvm
    simp [hv v hvm]
  rw [← hu] at hquiet ⊢
  exact if_neg fun hc => Bool.false_ne_true (hquiet.symm.trans hc.2)

/-- Counting a RUN changes no chip's place in its flask. -/
theorem State.countsRun_flask (s : State) (c i : Nat) (p : Pattern) : (s.countsRun c i p).runner.flask = s.runner.flask := by
  unfold State.countsRun Runner.countRun
  split
  · dsimp only
    split <;> rfl
  · rfl

/-- The registers that the first attempt of a RUN gives its used clusters. -/
theorem State.firstAttempt_regs (h : ∀ q, (s.rport q).relays = []) (hv : ∀ x ∈ s.runner.votes, x.1 = false) (c i : Nat) (k : Packet)
    (p : Pattern) {g : Nat} (hg : g < 128) (hused : p.used.getLsbD g = true) :
    ((s.firstAttempt c i k p).cl g).regs
      = startRegs (s.stepOf k.handle) (BitVec.ofNat 32 ((s.resolveStep k p).getD 0)) s.rank s.flaskN g k.runArgs := by
  obtain ⟨x, hx, hvotes, hports⟩ := s.countsRun_eq c i p
  have hflask := s.countsRun_flask c i p
  rw [State.firstAttempt_unvoted h hv, State.startAttempt_regs (fun q => by rw [hx, State.rport, hports]; exact h q) _ _ _ hg hused,
    State.rank, State.flaskN, hflask, hx]
  rfl

end Sys2Proof.Machine

namespace Sys2Proof.Machine

/-- Settles O30: the first attempt sets each used cluster up with the values of R224, taken where the pour's body acts from what was there
before, and with nothing else. -/
theorem runRegisters : Obligations.RunRegisters := by
  unfold Obligations.RunRegisters
  intro c s s1 i eta k p hstart hclear hfaults hp hpass hrelays hvotes heta hlt
  have hb := hstart.begins
  obtain ⟨ri, tr, ru, po, cn, hu⟩ := hstart.begun
  have hrefusal := (State.runRefusal_eq (s1.beginAttempt c.val i k) k p).trans (congrArg firstFailing (hstart.runRows p))
  rw [hpass] at hrefusal
  have hexec : exec (.run c) s = .next ((s1.beginAttempt c.val i k).startRun c.val i k) := execRun_starts hstart rfl hclear hfaults
  rw [State.startRun_eq (by rw [hb.patternOn, hp]) hrefusal] at hexec
  generalize s1.beginAttempt c.val i k = u at *
  have hurelays : ∀ q, (u.rport q).relays = [] := by
    rw [hu]
    exact hrelays
  have huvotes : ∀ h ∈ u.runner.votes, h.1 = false := by
    rw [hu]
    exact hvotes
  have hflask : u.runner.flask = s.runner.flask := by rw [hu]
  have hrank : u.rank = if s.runner.flask.isSome then s.rank else 0 := by
    rw [State.rank, hflask, State.rank]
    cases s.runner.flask <;> rfl
  have hcount : u.flaskN = if s.runner.flask.isSome then s.flaskN else 1 := by
    rw [State.flaskN, hflask, State.flaskN]
    cases s.runner.flask <;> rfl
  refine ⟨u.firstAttempt c.val i k p, hexec, fun g hg hused => ?_⟩
  have hregs := State.firstAttempt_regs hurelays huvotes c.val i k p hg hused
  rw [hb.stepOf, hb.resolveStep, heta, hrank, hcount] at hregs
  have hreg := Cluster.reg_startRegs hregs
  obtain ⟨seq, -, -, -, -, hclusters⟩ := State.firstAttempt_spec (c := c.val) (i := i) (k := k) hurelays huvotes p
  have hset := hclusters g hg
  rw [if_pos hused] at hset
  have hwide : (BitVec.ofNat 32 eta).setWidth 64 = BitVec.ofNat 64 eta := by
    apply BitVec.eq_of_toNat_eq
    simp only [BitVec.toNat_setWidth, BitVec.toNat_ofNat]
    omega
  refine ⟨hreg 1, (hreg 2).trans hwide, hreg 3, hreg 4, hreg 5, fun j hj => ?_, hreg 0, fun j hj => ?_, hset.dmem, hset.tokens⟩
  · rw [hreg, if_pos (by omega), startValues, List.getD_append_right _ _ _ _ (by simp)]
    simp [Packet.runArgs, hj]
  · rw [hreg, if_neg (by omega)]

end Sys2Proof.Machine
end

section
/-! SUPPORT. What a commit of a pour goes by, and what leaves it alone: reports, accesses to memory, the stop of an attempt, and the faults
that are handled after it (R10, R92, R246). -/

namespace Sys2Proof.Machine

variable {s t u : State}

/-- What a commit goes by: the books, the maps, the running pours and the channels' volatile records. -/
structure Docket where
  books   : Books
  maps    : Tab (BitVec 4096)
  running : Tab (Option Running)
  chans   : Tab Chan

def State.docket (s : State) : Docket := ⟨s.books, s.ledger.maps, s.running, s.chans⟩

/-- A docket from its four parts. -/
theorem State.docket_of (hb : t.books = s.books) (hm : t.ledger.maps = s.ledger.maps) (hr : t.running = s.running) (hc : t.chans = s.chans) :
    t.docket = s.docket := by
  simp only [State.docket, hb, hm, hr, hc]

theorem State.docket_foldl {α : Type} {f : State → α → State} (hf : ∀ s a, (f s a).docket = s.docket) (l : List α) (s : State) :
    (l.foldl f s).docket = s.docket := by
  induction l generalizing s with
  | nil => rfl
  | cons a l ih => exact (ih _).trans (hf s a)

theorem State.docket_of_fst {α : Type} {x : State × α} {a : α} (h : x.1.docket = s.docket) (hx : x = (t, a)) : t.docket = s.docket := by
  rwa [hx] at h

/-! ### Parts of the state that the docket does not hold -/

theorem State.docket_mem (s : State) (x : Mem) : State.docket { s with mem := x } = s.docket := rfl
theorem State.docket_err (s : State) (x : Err) : State.docket { s with err := x } = s.docket := rfl
theorem State.docket_ident (s : State) (x : Ident) : State.docket { s with ident := x } = s.docket := rfl
theorem State.docket_power (s : State) (x : Power) : State.docket { s with power := x } = s.docket := rfl
theorem State.docket_run (s : State) (x : Option RunCtx) : State.docket { s with run := x } = s.docket := rfl
theorem State.docket_assay (s : State) (x : Assay) : State.docket { s with assay := x } = s.docket := rfl
theorem State.docket_updCl (s : State) (g : Nat) (f : Cluster → Cluster) : (s.updCl g f).docket = s.docket := rfl

theorem State.docket_updPort (s : State) (p : HostPort) (f : HostPortState → HostPortState) : (s.updPort p f).docket = s.docket := by
  cases p <;> rfl

/-! ### Ledger lines of others -/

/-- A ledger reads after a write as it is written, or as it was. -/
theorem State.ledger_updLedger_cases (s : State) (l : RLine) (f : Ledger → Ledger) :
    (s.updLedger l f).ledger = f s.ledger ∨ (s.updLedger l f).ledger = s.ledger := by
  by_cases h : s.ledgerKept
  · exact .inl (State.ledger_updLedger_of_kept h l f)
  · obtain ⟨hlost, hcur⟩ := not_or.mp h
    have hl : s.riser.lost = false := by simpa using hlost
    have hl' : (s.riser.put l f).lost = false := by simp [Riser.put, hl]
    refine .inr ?_
    simp [State.ledger, State.updLedger, hl, hl', Riser.current_put hl, RiserCopy.write, not_not.mp hcur]

theorem State.docket_updLedger_other (s : State) (l : RLine) {f : Ledger → Ledger} (he : ∀ x, (f x).entries = x.entries)
    (hc : ∀ x, (f x).chans = x.chans) (hs : ∀ x, (f x).slots = x.slots) (hm : ∀ x, (f x).maps = x.maps) :
    (s.updLedger l f).docket = s.docket := by
  refine State.docket_of (State.books_updLedger_other s l he hc hs) ?_ rfl rfl
  rcases State.ledger_updLedger_cases s l f with h | h
  · rw [h, hm]
  · rw [h]

theorem State.docket_saveHealth (s : State) : s.saveHealth.docket = s.docket :=
  State.docket_updLedger_other s _ (fun _ => rfl) (fun _ => rfl) (fun _ => rfl) fun _ => rfl

theorem State.docket_dropRecord (s : State) (k : Nat) :
    (s.updLedger (.record k) fun l => { l with precs := Tab.put none l.precs k none }).docket = s.docket :=
  State.docket_updLedger_other s _ (fun _ => rfl) (fun _ => rfl) (fun _ => rfl) fun _ => rfl

theorem State.docket_dropRecords (s : State) (h : Nat) : (s.dropRecords h).docket = s.docket :=
  (State.docket_dropRecord ..).trans (State.docket_dropRecord ..)

/-! ### Reports and accesses to memory -/

theorem State.docket_addLocal (s : State) (k : Nat) : (s.addLocal k).docket = s.docket := by
  unfold State.addLocal
  dsimp only
  split
  · exact State.docket_saveHealth _
  · rfl

theorem State.docket_count (s : State) (a n : Nat) : (s.count a n).docket = s.docket := rfl
theorem State.docket_hostTlp (s : State) (p : HostPort) (sent : Bool) (n : Nat) : (s.hostTlp p sent n).docket = s.docket := rfl

theorem State.docket_msix (s : State) (p : HostPort) (v : Nat) : (s.msix p v).docket = s.docket := by
  unfold State.msix
  split
  · exact (State.docket_hostTlp ..).trans ((State.docket_count ..).trans (State.docket_updPort ..))
  · exact State.docket_updPort ..

theorem State.docket_logStatus (s : State) (st : BitVec 16) (x i a : Nat) (l : Bool) (p : Option (Nat × Word64)) :
    (s.logStatus st x i a l p).docket = s.docket :=
  (State.docket_msix ..).trans ((State.docket_msix ..).trans rfl)

theorem State.docket_noteEvent (s : State) (p : Option (Nat × Word64)) (e : MemEvent) : (s.noteEvent p e).docket = s.docket := by
  cases e with
  | corrected x =>
    cases x with
    | hbm st => rfl
    | intake => exact State.docket_addLocal ..
    | cluster g => exact State.docket_addLocal ..
  | uncorrectable x a =>
    cases x with
    | hbm st => exact (State.docket_addLocal ..).trans (State.docket_logStatus ..)
    | intake => exact (State.docket_addLocal ..).trans (State.docket_logStatus ..)
    | cluster g => exact (State.docket_addLocal ..).trans (State.docket_logStatus ..)
  | poisonWritten => rfl

theorem State.docket_noteAll (s : State) (p : Option (Nat × Word64)) (es : List MemEvent) : (s.noteAll p es).docket = s.docket :=
  State.docket_foldl (fun s e => State.docket_noteEvent s p e) es s

theorem State.docket_wake (s : State) (a : Nat) : (s.wake a).docket = s.docket := by
  unfold State.wake
  split <;> rfl

theorem State.docket_hbmTraffic (s : State) (a n : Nat) (w d : Bool) : (s.hbmTraffic a n w d).docket = s.docket := by
  obtain ⟨x, y, h⟩ := State.hbmTraffic_eq s a n w d
  have hb := State.books_hbmTraffic s a n w d
  rw [h] at hb ⊢
  exact State.docket_of hb rfl rfl rfl

theorem State.docket_writeMem (s : State) (p : Option (Nat × Word64)) (d : Bool) (a : Nat) (bs : List Byte) :
    (s.writeMem p d a bs).docket = s.docket :=
  (State.docket_hbmTraffic ..).trans (State.docket_noteAll ..)

theorem State.docket_readMem (s : State) (p : Option (Nat × Word64)) (d : Bool) (a n : Nat) : (s.readMem p d a n).2.docket = s.docket :=
  (State.docket_hbmTraffic ..).trans (State.docket_noteAll ..)

theorem State.docket_trafficOf (s : State) (w : Nat) (write : Bool) (bits : List Nat) : (s.trafficOf w write bits).docket = s.docket :=
  State.docket_foldl (fun s k => State.docket_hbmTraffic s (32 * k) 32 write false) _ _

theorem docket_consume (s : State) (addrs : List Nat) (w : Nat) : (consume s addrs w).1.docket = s.docket := by
  unfold consume
  dsimp only
  split
  · exact State.docket_noteAll ..
  · exact State.docket_noteAll ..

theorem docket_carryCws (p : Patch) (bad cws : List Nat) (s : State) : (carryCws p bad cws s).docket = s.docket := by
  induction cws generalizing s with
  | nil => rfl
  | cons k cws ih =>
    unfold carryCws
    exact (ih _).trans ((State.docket_hbmTraffic ..).trans (State.docket_noteAll ..))

theorem State.docket_markWritten (s : State) (p : Pattern) (a : Nat) : (s.markWritten p a).docket = s.docket := by
  rw [State.markWritten_eq]
  rfl

/-! ### What is written after the stop (R92) -/

theorem CollCtx.docket_readS (c : CollCtx) (idx : List Nat) (s : State) : (c.readS idx s).1.docket = s.docket := by
  have hread := (docket_consume (s.trafficOf (widthBits c.rec_.fmt) false (idx.map fun i => c.sBits.getD i 0))
    (idx.map fun i => c.sBits.getD i 0) (widthBits c.rec_.fmt)).trans (State.docket_trafficOf ..)
  unfold CollCtx.readS
  dsimp only
  split
  · next heq => exact State.docket_of_fst hread heq
  · next heq => exact State.docket_of_fst hread heq

theorem CollCtx.docket_carryS (c : CollCtx) (idx : List Nat) (s : State) : (c.carryS idx s).1.docket = s.docket :=
  (State.docket_trafficOf ..).trans (State.docket_noteAll ..)

theorem CollCtx.docket_storeD (c : CollCtx) (vals : List (Nat × Nat × Bool)) (n : CollInstance) (s : State) :
    (c.storeD vals n s).1.docket = s.docket := by
  cases vals with
  | nil => exact docket_carryCws ..
  | cons v vs => exact (docket_carryCws ..).trans (State.docket_markWritten ..)

theorem CollCtx.docket_finish (c : CollCtx) (vals : List (Nat × Nat)) (n : CollInstance) (s : State) : (c.finish vals n s).1.docket = s.docket :=
  c.docket_storeD ..

theorem CollCtx.docket_moveIn (c : CollCtx) (vals : List (Nat × Nat × Bool)) (n : CollInstance) (s : State) :
    (c.moveIn vals n s).1.docket = s.docket := c.docket_storeD ..

theorem CollCtx.docket_combineIn (c : CollCtx) (vals : List (Nat × Nat)) (n : CollInstance) (s : State) :
    (c.combineIn vals n s).1.docket = s.docket := by
  have hread := c.docket_readS (vals.map (·.1)) s
  unfold CollCtx.combineIn
  split
  · next heq => exact State.docket_of_fst hread heq
  · next heq => exact (c.docket_finish ..).trans (State.docket_of_fst hread heq)

theorem CollCtx.docket_takePart (c : CollCtx) (k : Nat) (x : StreamSpec) (f m : Nat) (out : Option CollFault) (data : List Byte)
    (poison : List Nat) (n : CollInstance) (s : State) : (c.takePart k x f m out data poison n s).1.docket = s.docket := by
  unfold CollCtx.takePart
  dsimp only
  split
  · exact c.docket_moveIn ..
  · split
    · exact c.docket_moveIn ..
    · split
      · rfl
      · split
        · next heq => exact State.docket_of_fst (c.docket_combineIn ..) heq
        · next heq => exact State.docket_of_fst (c.docket_combineIn ..) heq

theorem CollCtx.docket_beginPart (c : CollCtx) (m : Nat) (out : Option CollFault) (n : CollInstance) (s : State) :
    (c.beginPart m out n s).1.docket = s.docket := by
  have hread := c.docket_readS ((c.ownPart.take m).map (·.1)) s
  unfold CollCtx.beginPart
  dsimp only
  split
  · split
    · next heq => exact State.docket_of_fst hread heq
    · next heq => exact (c.docket_finish ..).trans (State.docket_of_fst hread heq)
  · exact (c.docket_moveIn ..).trans (c.docket_carryS ..)

theorem CollCtx.docket_land (c : CollCtx) (n : CollInstance) (s : State) : (c.land n s).docket = s.docket := by
  unfold CollCtx.land
  dsimp only
  split
  · refine State.docket_foldl (fun s kt => ?_) _ _
    split
    · rfl
    · split
      · rfl
      · exact c.docket_takePart ..
  · refine (State.docket_foldl (fun s kt => ?_) _ _).trans (c.docket_beginPart (c.admitted s c.beginWork n) none n s)
    split
    · rfl
    · split
      · rfl
      · exact c.docket_takePart ..

theorem docket_landCopy (g : Nat) (fl : Flight) (s : State) : (landCopy g fl s).docket = s.docket := by
  unfold landCopy
  split
  · dsimp only
    split
    · rfl
    · exact (docket_carryCws ..).trans (State.docket_noteAll ..)
  · rfl

theorem State.docket_landAll (s : State) : s.landAll.docket = s.docket := by
  have hcopies (t : State) (c : Nat × Cluster) : (c.2.flights.foldl (fun t fl => landCopy c.1 fl t) t).docket = t.docket :=
    State.docket_foldl (fun t fl => docket_landCopy c.1 fl t) _ _
  unfold State.landAll
  refine (State.docket_foldl (fun t n => ?_) _ _).trans (State.docket_foldl hcopies s.clusters s)
  split
  · exact CollCtx.docket_land ..
  · rfl

theorem State.docket_closeCycle (s : State) : s.closeCycle.docket = s.docket := by
  unfold State.closeCycle
  split
  · exact (State.docket_run ..).trans (State.docket_landAll s)
  · rfl

/-! ### The end of a pour (R10, R338) -/

theorem State.docket_markEnded (s : State) (p : Pattern) : (s.markEnded p).docket = s.docket :=
  State.docket_foldl (fun t g => State.docket_updCl t g fun c => { c with gate := { c.gate with ended := some t.cnt.regs.time.toNat } }) _ _

theorem State.docket_retire (s : State) (die : Bool) (pos : Nat) : (s.retire die pos).docket = s.docket := by
  unfold State.retire
  refine (State.docket_addLocal ..).trans ((State.docket_ident ..).trans ?_)
  refine State.docket_updLedger_other _ _ (fun x => ?_) (fun x => ?_) (fun x => ?_) fun x => ?_
  all_goals split <;> rfl

theorem State.docket_retireWaiting (s : State) : s.retireWaiting.docket = s.docket :=
  State.docket_foldl (fun t (w : WaitingFault) => State.docket_retire t (onB1 w.g) w.pos) _ _

theorem State.docket_unmap (s : State) (g : Nat) (st : BitVec 16) (ended : Bool) : (s.unmap g st ended).docket = s.docket := by
  unfold State.unmap
  dsimp only
  split <;> rfl

theorem State.docket_startSpare (n : Nat) (die : Bool) (s : State) : (State.startSpare n die s).docket = s.docket := by
  induction n generalizing s with
  | zero => rfl
  | succ n ih =>
    unfold State.startSpare
    split
    · rfl
    · split
      · rfl
      · split
        · exact (ih _).trans ((State.docket_ident ..).trans (State.docket_unmap ..))
        · rfl

theorem State.docket_handleFaults (s : State) : s.handleFaults.docket = s.docket :=
  (State.docket_startSpare ..).trans ((State.docket_startSpare ..).trans (State.docket_retireWaiting s))

theorem State.docket_pourOver (s : State) : s.pourOver.docket = s.docket := State.docket_handleFaults _

/-- With no attempt running, the faults that are handled start none. -/
theorem State.run_startSpare (n : Nat) (die : Bool) (h : s.run = none) : (State.startSpare n die s).run = none := by
  induction n generalizing s with
  | zero => exact h
  | succ n ih =>
    unfold State.startSpare
    split
    · exact h
    · split
      · exact h
      · split
        · refine ih ?_
          unfold State.dropWaiting State.unmap
          dsimp only
          split
          · rw [h]
            rfl
          · exact h
        · exact h

theorem State.run_retireWaiting (s : State) : s.retireWaiting.run = s.run := by
  have hretire (s : State) (die : Bool) (pos : Nat) : (s.retire die pos).run = s.run := (State.addLocal_accounts ..).run
  have hfold (l : List WaitingFault) (s : State) : (l.foldl (fun t w => t.retire (onB1 w.g) w.pos) s).run = s.run := by
    induction l generalizing s with
    | nil => rfl
    | cons w l ih => exact (ih _).trans (hretire ..)
  exact hfold _ s

theorem State.run_pourOver (h : s.run = none) : s.pourOver.run = none :=
  State.run_startSpare _ _ (State.run_startSpare _ _ ((State.run_retireWaiting _).trans h))

end Sys2Proof.Machine
end

section
/-! SUPPORT. The commit of a pour step by step: its entry ended, its channel's slot, and its final reply (R244 to R246). -/

namespace Sys2Proof.Machine

variable {s t u : State} {c i : Nat} {o : PourOutcome} {epoch : Word32}

/-! ### The parts of the docket -/

theorem State.books_of_docket (h : t.docket = s.docket) : t.books = s.books := congrArg Docket.books h
theorem State.maps_of_docket (h : t.docket = s.docket) : t.ledger.maps = s.ledger.maps := congrArg Docket.maps h
theorem State.slots_of_docket (h : t.docket = s.docket) : t.ledger.slots = s.ledger.slots := congrArg Books.slots (State.books_of_docket h)
theorem State.vchan_of_docket (h : t.docket = s.docket) (c : Nat) : t.vchan c = s.vchan c :=
  congrArg (fun d : Docket => Tab.get Chan.init d.chans c) h
theorem State.runningOf_of_docket (h : t.docket = s.docket) (c : Nat) : t.runningOf c = s.runningOf c :=
  congrArg (fun d : Docket => Tab.get none d.running c) h

theorem State.ledgerKept.of_docket (h : s.ledgerKept) (hd : t.docket = s.docket) : t.ledgerKept :=
  (State.ledgerKept_of_books (State.books_of_docket hd)).mpr h

theorem State.epochOf_of_docket (h : t.docket = s.docket) (c : Nat) : t.epochOf c = s.epochOf c :=
  State.epochOf_of_slots (congrArg Books.slots (State.books_of_docket h)) (by rw [State.chan_of_books (State.books_of_docket h)])

theorem State.curSlot_of_docket (h : t.docket = s.docket) (c : Nat) : t.curSlot c = s.curSlot c :=
  State.curSlot_of_slots (congrArg Books.slots (State.books_of_docket h)) c

/-! ### The entry ended (R246, step 1) -/

/-- The state `t` is `s` where the pour of entry `i` ends with outcome `o` and commit epoch `epoch`: its entry has the reply's fields, and
its channel still has what it had. -/
structure State.Ends (s t : State) (c i : Nat) (o : PourOutcome) (epoch : Word32) : Prop where
  kept   : t.ledgerKept
  status : (t.entry i).status = o.status
  detail : (t.entry i).detail = o.detail
  epoch  : (t.entry i).epoch = epoch
  pour   : (t.entry i).pour = (s.entry i).pour
  chan   : t.chan c = s.chan c
  vchan  : t.vchan c = s.vchan c

/-- What keeps the entries, the channels and the copy that reads come from leaves a pour ended. -/
theorem State.Ends.of_books (h : s.Ends t c i o epoch) (hb : u.books = { t.books with slots := u.books.slots })
    (hv : u.vchan c = t.vchan c) : s.Ends u c i o epoch := by
  have he : u.entry i = t.entry i := congrArg (fun b : Books => Tab.get Entry.free b.entries i) hb
  have hc : u.chan c = t.chan c := congrArg (fun b : Books => Tab.get ChanRec.closed b.chans c) hb
  exact ⟨h.kept.of_books (by rw [hb]) (by rw [hb]), he ▸ h.status, he ▸ h.detail, he ▸ h.epoch, he ▸ h.pour,
    hc.trans h.chan, hv.trans h.vchan⟩

theorem State.Ends.of_docket (h : s.Ends t c i o epoch) (hd : u.docket = t.docket) : s.Ends u c i o epoch :=
  h.of_books (by rw [State.books_of_docket hd]) (State.vchan_of_docket hd c)

/-- The entry ends in a state that has the books of `s` and its channels. -/
theorem State.endEntry_ends (h : s.ledgerKept) (hb : u.books = s.books) (hv : u.vchan c = s.vchan c) (i : Nat) (o : PourOutcome)
    (epoch : Word32) : s.Ends (u.endEntry c i o epoch) c i o epoch := by
  have hk : u.ledgerKept := (State.ledgerKept_of_books hb).mpr h
  have he := hk.entry_updEntry i i fun e => { e with
    state := .ending
    status := o.status
    detail := o.detail
    epoch := epoch
    energy := BitVec.ofNat 64 (u.pourEnergy c)
    tsDone := u.cnt.regs.time }
  rw [if_pos rfl] at he
  have hc : (u.endEntry c i o epoch).chan c = u.chan c := hk.chan_updEntry ..
  have hentry : (u.endEntry c i o epoch).entry i = _ := he
  refine ⟨hk.updEntry .., ?_, ?_, ?_, ?_, hc.trans (State.chan_of_books hb c), hv⟩
  · rw [hentry]
  · rw [hentry]
  · rw [hentry]
  · rw [hentry]
    exact (congrArg Entry.pour (State.entry_of_books hb i) : (u.entry i).pour = (s.entry i).pour)

/-! ### The entry done (R246, step 4) -/

/-- The state `t` is `s` after the pour of entry `i` has committed. -/
structure State.Commits (s t : State) (c i : Nat) (o : PourOutcome) (epoch : Word32) : Prop where
  running : t.runningOf c = none
  state   : (t.entry i).state = .done
  status  : (t.entry i).status = o.status
  detail  : (t.entry i).detail = o.detail
  epoch   : (t.entry i).epoch = epoch
  pour    : (t.entry i).pour = (s.entry i).pour
  queue   : ∃ rest, (t.vchan c).replyQ = (s.vchan c).replyQ ++ replyOf (t.entry i) :: rest
  energy  : (t.chan c).energy = (s.chan c).energy + (t.entry i).energy

theorem State.Commits.of_docket (h : s.Commits t c i o epoch) (hd : u.docket = t.docket) : s.Commits u c i o epoch := by
  have he : u.entry i = t.entry i := State.entry_of_books (State.books_of_docket hd) i
  refine ⟨(State.runningOf_of_docket hd c).trans h.running, he ▸ h.state, he ▸ h.status, he ▸ h.detail, he ▸ h.epoch, he ▸ h.pour, ?_, ?_⟩
  · rw [State.vchan_of_docket hd, he]
    exact h.queue
  · rw [State.chan_of_books (State.books_of_docket hd), he]
    exact h.energy

theorem State.books_finishPour (h : s.ledgerKept) (c : Nat) (e : Entry) :
    (s.finishPour c e).books = { s.books with chans := (s.finishPour c e).books.chans } := by
  have hk : State.ledgerKept { ((s.noteChan c fun ch => { ch with energy := ch.energy + e.energy }).setRunning c none) with
    power := { s.power with pours := Tab.put 0 s.power.pours c 0 } } := h.noteChan c fun ch => { ch with energy := ch.energy + e.energy }
  have hlast := State.books_noteChan hk c fun ch => { ch with last := some e }
  have henergy : State.books { ((s.noteChan c fun ch => { ch with energy := ch.energy + e.energy }).setRunning c none) with
    power := { s.power with pours := Tab.put 0 s.power.pours c 0 } } = _ :=
    State.books_noteChan h c fun ch => { ch with energy := ch.energy + e.energy }
  rw [henergy] at hlast
  have hfinal : (s.finishPour c e).books = _ := hlast
  rw [hfinal]

/-- The ended entry becomes DONE, its final reply waits for the ring, and nothing runs on the channel. -/
theorem State.Ends.doneEntry (h : s.Ends t c i o epoch) : s.Commits (t.doneEntry c i) c i o epoch := by
  rw [State.doneEntry_eq h.kept]
  have hk := h.kept.updEntry i fun e => { e with state := .done }
  have hc : (t.updEntry i fun e => { e with state := .done }).chan c = s.chan c := (h.kept.chan_updEntry ..).trans h.chan
  have hv : (t.updEntry i fun e => { e with state := .done }).vchan c = s.vchan c := h.vchan
  have he := h.kept.entry_updEntry i i fun e => { e with state := .done }
  rw [if_pos rfl] at he
  generalize t.updEntry i (fun e => { e with state := .done }) = v at *
  obtain ⟨-, hrun, hrec, hqueue⟩ := State.finishPour_spec hk c { t.entry i with state := .done }
  have hb := State.books_finishPour hk c { t.entry i with state := .done }
  have hentry : (v.finishPour c { t.entry i with state := .done }).entry i = { t.entry i with state := .done } :=
    (congrArg (fun b : Books => Tab.get Entry.free b.entries i) hb).trans he
  refine ⟨hrun, ?_, ?_, ?_, ?_, ?_, ?_, ?_⟩
  · rw [hentry]
  · rw [hentry]
    exact h.status
  · rw [hentry]
    exact h.detail
  · rw [hentry]
    exact h.epoch
  · rw [hentry]
    exact h.pour
  · rw [hqueue, hv, hentry]
    exact ⟨_, rfl⟩
  · rw [hrec, hc, hentry]
    rfl

/-- Step 4 leaves the commit slots. -/
theorem State.slots_doneEntry (h : t.ledgerKept) (c i : Nat) : (t.doneEntry c i).books.slots = t.books.slots := by
  rw [State.doneEntry_eq h, State.books_finishPour (h.updEntry ..), State.books_updEntry h]

/-! ### The commit slot (R245, R246, steps 2 and 3) -/

theorem State.docket_putRecord (s : State) (j : Nat) (x : Option CommitSlot) :
    (s.updLedger (.record j) fun l => { l with precs := Tab.put none l.precs j x }).docket = s.docket :=
  State.docket_updLedger_other s _ (fun _ => rfl) (fun _ => rfl) (fun _ => rfl) fun _ => rfl

theorem State.docket_foldSlot (s : State) (c : Nat) : (s.foldSlot c).docket = s.docket := by
  have hfold (b : Bool) (j : Nat) (x : Option CommitSlot) : State.docket (if b then s.updLedger (.record j) fun l =>
      { l with precs := Tab.put none l.precs j x } else s) = s.docket := by
    cases b with
    | false => rfl
    | true => exact State.docket_putRecord s j x
  unfold State.foldSlot
  split
  · rfl
  · exact hfold ..

/-- The number of the slot that a commit writes: the one that is not current. -/
def State.nextSlot (s : State) (c : Nat) : Nat :=
  match s.curSlot c with
  | some (0, _) => 1
  | _ => 0

theorem State.putSlot_eq (s : State) (c : Nat) (sl : CommitSlot) :
    s.putSlot c sl = s.updLedger (.slot (2 * c + s.nextSlot c)) fun l =>
      { l with slots := Tab.put none l.slots (2 * c + s.nextSlot c) (some sl) } := by
  unfold State.putSlot State.nextSlot
  rfl

theorem State.books_putSlot (h : s.ledgerKept) (c : Nat) (sl : CommitSlot) :
    (s.putSlot c sl).books = { s.books with slots := Tab.put none s.books.slots (2 * c + s.nextSlot c) (some sl) } := by
  rw [State.putSlot_eq, State.books_updLedger h]
  rfl

/-- The current one of two slots, and its number (R245). -/
def currentOf : Option CommitSlot → Option CommitSlot → Option (Nat × CommitSlot)
  | some x, some y => if x.epoch = y.epoch + 1 then some (0, x) else some (1, y)
  | some x, none => some (0, x)
  | none, some y => some (1, y)
  | none, none => none

theorem State.curSlot_eq (s : State) (c : Nat) {x y : Option CommitSlot} (hx : Tab.get none s.ledger.slots (2 * c) = x)
    (hy : Tab.get none s.ledger.slots (2 * c + 1) = y) : s.curSlot c = currentOf x y := by
  unfold State.curSlot
  rw [hx, hy]
  cases x <;> cases y <;> rfl

/-- The current slot of a channel is the slot of its number, and there is none where both are invalid. -/
theorem State.curSlot_cases (s : State) (c : Nat) :
    (∃ x, s.curSlot c = some (0, x) ∧ Tab.get none s.ledger.slots (2 * c) = some x)
      ∨ (∃ y, s.curSlot c = some (1, y) ∧ Tab.get none s.ledger.slots (2 * c + 1) = some y)
      ∨ (s.curSlot c = none ∧ Tab.get none s.ledger.slots (2 * c + 1) = none) := by
  cases hx : Tab.get none s.ledger.slots (2 * c) with
  | none =>
    cases hy : Tab.get none s.ledger.slots (2 * c + 1) with
    | none => exact .inr (.inr ⟨s.curSlot_eq c hx hy, rfl⟩)
    | some y => exact .inr (.inl ⟨y, s.curSlot_eq c hx hy, rfl⟩)
  | some x =>
    cases hy : Tab.get none s.ledger.slots (2 * c + 1) with
    | none => exact .inl ⟨x, s.curSlot_eq c hx hy, rfl⟩
    | some y =>
      by_cases hf : x.epoch = y.epoch + 1
      · exact .inl ⟨x, (s.curSlot_eq c hx hy).trans (if_pos hf), rfl⟩
      · exact .inr (.inl ⟨y, (s.curSlot_eq c hx hy).trans (if_neg hf), rfl⟩)

/-- A slot whose EPOCH follows the current one's becomes the current one (R245). -/
theorem State.curSlot_putSlot (h : s.ledgerKept) {c : Nat} {sl : CommitSlot} (hne : (s.chan c).state ≠ .closed)
    (he : sl.epoch = s.epochOf c + 1) : ((s.putSlot c sl).curSlot c).map (·.2) = some sl := by
  have hslots : (s.putSlot c sl).ledger.slots = Tab.put none s.ledger.slots (2 * c + s.nextSlot c) (some sl) :=
    congrArg Books.slots (State.books_putSlot h c sl)
  have hget (j : Nat) : Tab.get none (s.putSlot c sl).ledger.slots j
      = if 2 * c + s.nextSlot c = j then some sl else Tab.get none s.ledger.slots j := by
    rw [hslots]
    exact Tab.get_put _ _ _
  rw [State.epochOf, if_neg hne] at he
  rcases s.curSlot_cases c with ⟨x, hcur, hx⟩ | ⟨y, hcur, hy⟩ | ⟨hcur, hy⟩
  · have hnext : s.nextSlot c = 1 := by simp only [State.nextSlot, hcur]
    rw [hcur] at he
    have hx' := (hget (2 * c)).trans ((if_neg (by omega)).trans hx)
    have hy' := (hget (2 * c + 1)).trans (if_pos (by omega))
    have hlag : x.epoch ≠ sl.epoch + 1 := by
      rw [he]
      simp only [Option.map_some, Option.getD_some]
      bv_omega
    rw [(s.putSlot c sl).curSlot_eq c hx' hy']
    simp only [currentOf, if_neg hlag, Option.map_some]
  · have hnext : s.nextSlot c = 0 := by simp only [State.nextSlot, hcur]
    rw [hcur] at he
    have hx' := (hget (2 * c)).trans (if_pos (by omega))
    have hy' := (hget (2 * c + 1)).trans ((if_neg (by omega)).trans hy)
    have hlead : sl.epoch = y.epoch + 1 := he
    rw [(s.putSlot c sl).curSlot_eq c hx' hy']
    simp only [currentOf, if_pos hlead, Option.map_some]
  · have hnext : s.nextSlot c = 0 := by simp only [State.nextSlot, hcur]
    have hx' := (hget (2 * c)).trans (if_pos (by omega))
    have hy' := (hget (2 * c + 1)).trans ((if_neg (by omega)).trans hy)
    rw [(s.putSlot c sl).curSlot_eq c hx' hy']
    rfl

/-! ### What follows the commit point -/

/-- What is done before the commit point of a load touches no book and no channel. -/
theorem State.beforeCommit_leaves (s : State) (e : CommitEffect) :
    (s.beforeCommit e).books = s.books ∧ (s.beforeCommit e).chans = s.chans := by
  have hzero (s : State) (k : Nat) : (s.updLedger (.map k) fun l => { l with maps := Tab.put 0 l.maps k 0 }).books = s.books
      ∧ (s.updLedger (.map k) fun l => { l with maps := Tab.put 0 l.maps k 0 }).chans = s.chans :=
    ⟨State.books_updLedger_other s _ (fun _ => rfl) (fun _ => rfl) fun _ => rfl, rfl⟩
  have hsave (s : State) (a n : Nat) : ((s.wake a).writeMem none true a (List.replicate n 0)).docket = s.docket :=
    (State.docket_writeMem ..).trans (State.docket_wake ..)
  cases e with
  | load h p g =>
    obtain ⟨hb0, hc0⟩ := hzero s (2 * (h - 1))
    obtain ⟨hb1, hc1⟩ := hzero (s.updLedger (.map (2 * (h - 1))) fun l => { l with maps := Tab.put 0 l.maps (2 * (h - 1)) 0 }) (2 * (h - 1) + 1)
    unfold State.beforeCommit
    dsimp only
    split
    · next b _ =>
      exact ⟨(State.books_of_docket (hsave _ b.base b.length)).trans (hb1.trans hb0),
        (congrArg Docket.chans (hsave _ b.base b.length)).trans (hc1.trans hc0)⟩
    · exact ⟨hb1.trans hb0, hc1.trans hc0⟩
  | _ => exact ⟨rfl, rfl⟩

/-- A pattern's epoch state goes by the patterns and by the ledger but for its entries. -/
theorem State.patternSlot_congr (hp : u.patterns = s.patterns) (hl : u.ledger = { s.ledger with entries := u.ledger.entries }) (h : Nat) :
    u.patternSlot h = s.patternSlot h := by
  have hslots : u.ledger.slots = s.ledger.slots := by rw [hl]
  have hprecs : u.ledger.precs = s.ledger.precs := by rw [hl]
  have hcur (d : Nat) : u.curSlot d = s.curSlot d := by
    unfold State.curSlot
    rw [hslots]
  have hprec : u.precOf h = s.precOf h := by
    unfold State.precOf
    rw [hprecs]
  unfold State.patternSlot State.pattern
  simp only [hp, hcur, hprec]

/-- The slot of an effect is the same once the entry has ended. -/
theorem State.effectSlot_ended (h : s.ledgerKept) (i : Nat) (o : PourOutcome) (epoch epoch' : Word32) (pour : Word64) :
    ((s.beforeCommit o.effect).endEntry c i o epoch').effectSlot pour epoch o.effect = s.effectSlot pour epoch o.effect := by
  have hslot (n : Nat) : (s.endEntry c i o epoch').patternSlot n = s.patternSlot n := by
    refine State.patternSlot_congr (s := s) (u := s.endEntry c i o epoch') rfl ?_ n
    rw [State.endEntry, State.updEntry, State.ledger_updLedger_of_kept h]
  cases o.effect with
  | load => rfl
  | unload n =>
    unfold State.effectSlot
    dsimp only
    rw [← hslot n]
    rfl
  | stepSize n v =>
    unfold State.effectSlot
    dsimp only
    rw [← hslot n]
    rfl
  | _ => rfl

/-- The slot of an effect has the commit's epoch. -/
theorem State.epoch_effectSlot {pour : Word64} {e : CommitEffect} {sl : CommitSlot} (h : s.effectSlot pour epoch e = some sl) : sl.epoch = epoch := by
  unfold State.effectSlot at h
  split at h
  · obtain rfl := Option.some.inj h
    rfl
  · obtain rfl := Option.some.inj h
    rfl
  · obtain ⟨x, -, rfl⟩ := Option.map_eq_some_iff.mp h
    rfl
  · cases h

theorem State.docket_unload (s : State) (h : Nat) : (s.unload h).docket = s.docket := by
  unfold State.unload
  split
  · rfl
  · exact State.docket_dropRecords { s with patterns := Tab.put none s.patterns h none } h

theorem State.docket_afterCommit (s : State) (e : CommitEffect) : (s.afterCommit e).docket = s.docket := by
  cases e with
  | unload h => exact State.docket_unload s h
  | _ => rfl

/-! ### The commit of a fixed outcome (R246) -/

theorem State.commitFixed_plain {r : Running} (hp : (o.ok && isEpochOp (s.entry r.entry).opcode.toNat) = false) (c : Nat) :
    s.commitFixed c r o = (s.endEntry c r.entry o (s.epochOf c)).doneEntry c r.entry := by
  unfold State.commitFixed
  dsimp only
  rw [hp, if_neg Bool.false_ne_true, if_neg Bool.false_ne_true]

/-- The state in which the commit of an advancing outcome makes step 4. -/
def State.slotted (s : State) (c i : Nat) (o : PourOutcome) (epoch : Word32) : State :=
  let s' := (s.beforeCommit o.effect).endEntry c i o epoch
  match s.effectSlot (s.entry i).pour epoch o.effect with
  | none => s'
  | some sl => ((s'.foldSlot c).putSlot c sl).afterCommit o.effect

theorem State.commitFixed_advance (h : s.ledgerKept) {r : Running} (hp : (o.ok && isEpochOp (s.entry r.entry).opcode.toNat) = true) (c : Nat) :
    s.commitFixed c r o = (s.slotted c r.entry o (s.epochOf c + 1)).doneEntry c r.entry := by
  unfold State.commitFixed State.slotted
  dsimp only
  rw [hp, if_pos rfl, if_pos rfl, State.effectSlot_ended h]
  cases s.effectSlot (s.entry r.entry).pour (s.epochOf c + 1) o.effect <;> rfl

/-- Up to step 4 an advancing commit ends the entry and makes its slot the channel's current one. -/
theorem State.slotted_ends (h : s.ledgerKept) (c i : Nat) (o : PourOutcome) :
    s.Ends (s.slotted c i o (s.epochOf c + 1)) c i o (s.epochOf c + 1)
      ∧ ∀ sl, (s.chan c).state ≠ .closed → s.effectSlot (s.entry i).pour (s.epochOf c + 1) o.effect = some sl →
          ((s.slotted c i o (s.epochOf c + 1)).curSlot c).map (·.2) = some sl := by
  obtain ⟨hb, hv⟩ := s.beforeCommit_leaves o.effect
  have hk : (s.beforeCommit o.effect).ledgerKept := (State.ledgerKept_of_books hb).mpr h
  have hends : s.Ends ((s.beforeCommit o.effect).endEntry c i o (s.epochOf c + 1)) c i o (s.epochOf c + 1) :=
    State.endEntry_ends h hb (congrArg (Tab.get Chan.init · c) hv) i o _
  have hslots : ((s.beforeCommit o.effect).endEntry c i o (s.epochOf c + 1)).books.slots = s.books.slots := by
    rw [State.endEntry, State.books_updEntry hk]
    exact (congrArg Books.slots hb : (s.beforeCommit o.effect).books.slots = s.books.slots)
  have hepoch : ((s.beforeCommit o.effect).endEntry c i o (s.epochOf c + 1)).epochOf c = s.epochOf c :=
    State.epochOf_of_slots hslots (congrArg ChanRec.state hends.chan)
  unfold State.slotted
  dsimp only
  generalize (s.beforeCommit o.effect).endEntry c i o (s.epochOf c + 1) = v at *
  cases hs : s.effectSlot (s.entry i).pour (s.epochOf c + 1) o.effect with
  | none => exact ⟨hends, fun sl _ hsl => by cases hsl⟩
  | some sl =>
    have hfold := v.docket_foldSlot c
    have hkept := hends.kept.of_docket hfold
    have hput := State.books_putSlot hkept c sl
    have hafter := ((v.foldSlot c).putSlot c sl).docket_afterCommit o.effect
    have hends' : s.Ends ((v.foldSlot c).putSlot c sl) c i o (s.epochOf c + 1) := (hends.of_docket hfold).of_books (by rw [hput]) rfl
    refine ⟨hends'.of_docket hafter, fun sl' hne hsl => ?_⟩
    obtain rfl := Option.some.inj hsl
    rw [State.curSlot_of_docket hafter]
    refine State.curSlot_putSlot hkept ?_ ?_
    · rw [State.chan_of_books (State.books_of_docket hfold), hends.chan]
      exact hne
    · rw [State.epochOf_of_docket hfold, hepoch]
      exact State.epoch_effectSlot hs

theorem State.commitFixed_commits (h : s.ledgerKept) (r : Running) (c : Nat) (o : PourOutcome) :
    s.Commits (s.commitFixed c r o) c r.entry o
        (if o.ok && isEpochOp (s.entry r.entry).opcode.toNat then s.epochOf c + 1 else s.epochOf c)
      ∧ ((o.ok && isEpochOp (s.entry r.entry).opcode.toNat) = false → (s.commitFixed c r o).books.slots = s.books.slots)
      ∧ ∀ sl, (o.ok && isEpochOp (s.entry r.entry).opcode.toNat) = true → (s.chan c).state ≠ .closed →
          s.effectSlot (s.entry r.entry).pour (s.epochOf c + 1) o.effect = some sl →
          ((s.commitFixed c r o).curSlot c).map (·.2) = some sl := by
  cases hp : o.ok && isEpochOp (s.entry r.entry).opcode.toNat with
  | false =>
    have hends := State.endEntry_ends (c := c) h rfl rfl r.entry o (s.epochOf c)
    rw [State.commitFixed_plain hp]
    refine ⟨hends.doneEntry, fun _ => ?_, fun sl hadv => by cases hadv⟩
    rw [State.slots_doneEntry hends.kept, State.endEntry, State.books_updEntry h]
  | true =>
    obtain ⟨hends, hcur⟩ := State.slotted_ends h c r.entry o
    rw [State.commitFixed_advance h hp]
    refine ⟨hends.doneEntry, fun hno => (by cases hno), fun sl _ hne hsl => ?_⟩
    rw [State.curSlot_of_slots (State.slots_doneEntry hends.kept c r.entry)]
    exact hcur sl hne hsl

end Sys2Proof.Machine
end

section
/-! SUPPORT. The commit of a RUN of one rank, and POUR_COMMIT (R130, R185, R218, R246, R250). -/

namespace Sys2Proof.Machine

variable {s t u : State} {c i : Nat}

/-! ### A RUN that commits -/

theorem State.docket_carryIn (s : State) (a : Nat) (bs : List Byte) (bad : List Nat) : (s.carryIn a bs bad).docket = s.docket :=
  (State.docket_foldl (fun t k => State.docket_noteAll
    { t with mem := (t.mem.carryCw .chip (a / 32 + k) ((bs.drop (32 * k)).take 32) true).1 } _ _) bad _).trans (State.docket_writeMem ..)

theorem State.docket_saveKept (s : State) (p : Pattern) (map : BitVec 4096) : (s.saveKept p map).docket = s.docket := by
  unfold State.saveKept
  split
  · rfl
  · refine State.docket_foldl (fun t g => ?_) _ _
    exact (State.docket_carryIn ..).trans ((State.docket_carryIn ..).trans ((State.docket_noteAll ..).trans (State.docket_updCl ..)))

theorem State.docket_receiptBytes (s : State) (p : Pattern) (map : BitVec 4096) (bufs : List Nat) :
    (s.receiptBytes p map bufs).2.docket = s.docket := by
  have hfold (l : List Nat) (x : List Byte × State) : (l.foldl (fun x b =>
      (x.1 ++ receiptPrefix p b ++ (x.2.readMem x.2.runPour true (p.copyBase map b).1 (p.copyBase map b).2).1.data,
        (x.2.readMem x.2.runPour true (p.copyBase map b).1 (p.copyBase map b).2).2)) x).2.docket = x.2.docket := by
    induction l generalizing x with
    | nil => rfl
    | cons b l ih => exact (ih _).trans (State.docket_readMem ..)
  exact hfold bufs ([], s)

/-- A RUN that commits: its entry ends completed with the step counter and the next epoch, and no attempt runs. -/
theorem State.commitRun_commits (h : s.ledgerKept) (c : Nat) (run : Running) (r : RunCtx) (p : Pattern) :
    s.Commits (s.commitRun c run r p) c run.entry ⟨stOk, if r.updated then r.t + 1 else r.t, true, .run⟩ (s.epochOf c + 1)
      ∧ (s.commitRun c run r p).run = none := by
  unfold State.commitRun
  extract_lets n cur s1 save map sel e pour epoch s2
  have h1 : s1.docket = s.docket := s.docket_saveKept p cur
  have h2 : s2.books = s.books := by
    refine Eq.trans (b := s1.books) ?_ (State.books_of_docket h1)
    exact State.books_updLedger_other s1 _ (f := fun l => { l with maps := Tab.put 0 l.maps (2 * (n - 1) + (if sel then 1 else 0)) map })
      (fun _ => rfl) (fun _ => rfl) fun _ => rfl
  have hc2 : s2.vchan c = s.vchan c := State.vchan_of_docket h1 c
  have hepoch : epoch = s.epochOf c + 1 := by rw [show epoch = s1.epochOf c + 1 from rfl, State.epochOf_of_docket h1]
  have hx : (if r.receipts.isEmpty then ([], s2) else s2.receiptBytes p map r.receipts).2.docket = s2.docket := by
    split
    · rfl
    · exact State.docket_receiptBytes ..
  generalize (if r.receipts.isEmpty then (([] : List Byte), s2) else s2.receiptBytes p map r.receipts) = x at hx ⊢
  obtain ⟨bs, s3⟩ := x
  dsimp only at hx ⊢
  have hends := State.endEntry_ends (c := c) (u := s3) h ((State.books_of_docket hx).trans h2) ((State.vchan_of_docket hx c).trans hc2)
    run.entry ⟨stOk, e, true, .run⟩ epoch
  generalize s3.endEntry c run.entry ⟨stOk, e, true, .run⟩ epoch = s4 at hends ⊢
  have hput := State.books_putSlot (hends.kept.of_docket (s4.docket_foldSlot c)) c ⟨pour, e, epoch, 0, false, sel, false, BitVec.ofNat 5 n⟩
  have hends5 : s.Ends ((s4.foldSlot c).putSlot c ⟨pour, e, epoch, 0, false, sel, false, BitVec.ofNat 5 n⟩) c run.entry
      ⟨stOk, e, true, .run⟩ epoch := (hends.of_docket (s4.docket_foldSlot c)).of_books (by rw [hput]) rfl
  generalize (s4.foldSlot c).putSlot c ⟨pour, e, epoch, 0, false, sel, false, BitVec.ofNat 5 n⟩ = s5 at hends5 ⊢
  have h6 (v : Receipt) : (if r.receipts.isEmpty then s5 else (s5.storeReceipt v).service 4).docket = s5.docket := by
    split <;> rfl
  specialize h6 ⟨c, n, s5.receiptRecord p c n pour e epoch r.receipts (sha384 bs)⟩
  generalize (if r.receipts.isEmpty then s5
    else (s5.storeReceipt ⟨c, n, s5.receiptRecord p c n pour e epoch r.receipts (sha384 bs)⟩).service 4) = s6 at h6 ⊢
  have hdone := ((hends5.of_docket h6).of_docket (s6.docket_markEnded p)).doneEntry
  rw [← hepoch]
  exact ⟨hdone.of_docket rfl, rfl⟩

/-- A RUN of one rank has no vote to take part in. -/
theorem State.voteStep_alone {x : RunCtx} {p : Pattern} (hx : s.run = some x) (hp : s.runPattern = some p) (hn : p.ranks ≤ 1) :
    s.voteStep = s := by
  unfold State.voteStep
  rw [hx, hp]
  exact if_pos (.inl hn)

/-! ### A RUN that ends faulted (R185) -/

theorem State.maps_noteChan (s : State) (c : Nat) (f : ChanRec → ChanRec) : (s.noteChan c f).ledger.maps = s.ledger.maps := by
  cases hl : s.riser.lost with
  | true => simp [State.noteChan, State.ledger, hl]
  | false =>
    have hr := State.noteChan_riser hl c f
    have hmap : (s.noteChan c f).riser.current s.sprue.activeB1 = (s.riser.current s.sprue.activeB1).note fun l => l.updChans c f := by
      rw [hr]
      exact Riser.current_mapCopies (fun x => RiserCopy.note_state_die x _) s.riser s.sprue.activeB1
    have hlost : (s.noteChan c f).riser.lost = false := by rw [hr, hl]
    have hnote (x : RiserCopy) : (x.note fun l => l.updChans c f).data.maps = x.data.maps := by
      unfold RiserCopy.note
      split <;> rfl
    unfold State.ledger
    rw [hlost, hl, if_neg Bool.false_ne_true, if_neg Bool.false_ne_true]
    exact (congrArg (fun x : RiserCopy => x.data.maps) hmap).trans (hnote _)

theorem State.maps_updEntry (h : s.ledgerKept) (i : Nat) (f : Entry → Entry) : (s.updEntry i f).ledger.maps = s.ledger.maps := by
  rw [State.updEntry, State.ledger_updLedger_of_kept h]

theorem State.maps_doneEntry (h : s.ledgerKept) (c i : Nat) : (s.doneEntry c i).ledger.maps = s.ledger.maps := by
  rw [State.doneEntry_eq h]
  exact (State.maps_noteChan ..).trans ((State.maps_noteChan ..).trans (State.maps_updEntry h ..))

/-- A RUN that ends faulted: its entry has the status, and epoch, slots and maps stay. -/
theorem State.faultRun_commits (h : s.ledgerKept) (c : Nat) (run : Running) (p : Pattern) (st : BitVec 16) :
    s.Commits (s.faultRun c run p st) c run.entry (faultedWith st) (s.epochOf c) ∧ (s.faultRun c run p st).ledger.slots = s.ledger.slots
      ∧ (s.faultRun c run p st).ledger.maps = s.ledger.maps ∧ (s.faultRun c run p st).run = none := by
  have hm := s.docket_markEnded p
  have hk := h.of_docket hm
  have hends := State.endEntry_ends (c := c) h (State.books_of_docket hm) (State.vchan_of_docket hm c) run.entry (faultedWith st) (s.epochOf c)
  have hplain := State.commitFixed_plain (s := s.markEnded p) (o := faultedWith st) (r := run) rfl c
  rw [State.epochOf_of_docket hm] at hplain
  have hslots : ((s.markEnded p).commitFixed c run (faultedWith st)).books.slots = s.books.slots := by
    rw [hplain, State.slots_doneEntry hends.kept, State.endEntry, State.books_updEntry hk, State.books_of_docket hm]
  have hmaps : ((s.markEnded p).commitFixed c run (faultedWith st)).ledger.maps = s.ledger.maps := by
    rw [hplain, State.maps_doneEntry hends.kept, State.endEntry, State.maps_updEntry hk, State.maps_of_docket hm]
  have hdone := hends.doneEntry
  rw [← hplain] at hdone
  unfold State.faultRun
  generalize (s.markEnded p).commitFixed c run (faultedWith st) = v at hslots hmaps hdone ⊢
  exact ⟨hdone.of_docket rfl, hslots, hmaps, rfl⟩

/-! ### POUR_COMMIT -/

theorem execPourCommit_fixed {c : Fin 64} {r : Running} {o : PourOutcome} (hready : s.boot.phase = .ready) (hlost : s.riser.lost = false)
    (hr : s.runningOf c.val = some r) (ho : r.outcome = some o) (hop : r.body.opcode ≠ 0x02) :
    exec (.pourCommit c) s = .next (s.commitFixed c.val r o) := by
  have he : exec (.pourCommit c) s = execPourCommit c s := rfl
  have hserves : ¬(s.boot.phase ≠ .ready ∨ s.riser.lost) := by simp [hready, hlost]
  rw [he, execPourCommit, if_neg hserves, hr]
  dsimp only
  rw [ho]
  exact congrArg Host.Outcome.next (if_neg hop)

/-- POUR_COMMIT of a RUN of one rank goes by how its attempt has ended. -/
theorem execPourCommit_run {c : Fin 64} {r : Running} {x : RunCtx} {p : Pattern} (hready : s.boot.phase = .ready)
    (hlost : s.riser.lost = false) (hr : s.runningOf c.val = some r) (ho : r.outcome = none) (hx : s.run = some x)
    (hp : s.runPattern = some p) (hn : p.ranks ≤ 1) (hc : x.chan = c.val) :
    (x.fault = none → s.allEnded p = true → exec (.pourCommit c) s = .next (s.commitRun c.val r x p).pourOver)
      ∧ ∀ st, x.fault = some (st, false) → exec (.pourCommit c) s = .next (s.closeCycle.faultRun c.val r p st).pourOver := by
  have he : exec (.pourCommit c) s = execPourCommit c s := rfl
  have hserves : ¬(s.boot.phase ≠ .ready ∨ s.riser.lost) := by simp [hready, hlost]
  have hending : s.runEnding = x.ending p.ranks (s.allEnded p) (s.entry x.entry).restartable := by rw [State.runEnding, hx, hp]
  rw [he, execPourCommit, if_neg hserves, hr]
  dsimp only
  rw [ho]
  dsimp only
  rw [State.voteStep_alone hx hp hn, hx, hp]
  dsimp only
  rw [if_pos hc, hending]
  unfold RunCtx.ending
  rw [if_pos hn]
  refine ⟨fun hf hall => ?_, fun st hf => ?_⟩
  · rw [hf, hall]
    rfl
  · rw [hf]

end Sys2Proof.Machine

namespace Sys2Proof.Machine

/-- Settles O31: an outcome's commit ends the entry, puts the slot of an epoch opcode and forms the reply, and a RUN of one rank commits or
ends faulted by the same steps, after its saves or after its stop. -/
theorem pourCommits : Obligations.PourCommits := by
  unfold Obligations.PourCommits
  rintro c s r _ hready hlost hkept hr rfl
  refine ⟨fun o ho hop => ?_, fun x p ho hx hp hn hc => ?_⟩
  · obtain ⟨hdone, hslots, hcur⟩ := State.commitFixed_commits hkept r c.val o
    obtain ⟨rest, hqueue⟩ := hdone.queue
    exact ⟨_, rest, execPourCommit_fixed hready hlost hr ho hop, hdone.running, hdone.state, hdone.status, hdone.detail, hdone.pour,
      hdone.epoch, hqueue, hdone.energy, fun hno => State.curSlot_of_slots (hslots hno) c.val, fun sl hadv hne hsl => hcur sl hadv hne hsl⟩
  · obtain ⟨hcommits, hfaults⟩ := execPourCommit_run hready hlost hr ho hx hp hn hc
    refine ⟨fun hf hall => ?_, fun st hf => ?_⟩
    · obtain ⟨hdone, hover⟩ := State.commitRun_commits hkept c.val r x p
      have hdone := hdone.of_docket (State.docket_pourOver _)
      exact ⟨_, hcommits hf hall, State.run_pourOver hover, hdone.running, hdone.state, hdone.status, hdone.detail, hdone.epoch⟩
    · have hclose := s.docket_closeCycle
      obtain ⟨hdone, hslots, hmaps, hover⟩ := State.faultRun_commits (hkept.of_docket hclose) c.val r p st
      rw [State.epochOf_of_docket hclose] at hdone
      have hend := State.docket_pourOver (s.closeCycle.faultRun c.val r p st)
      have hdone := hdone.of_docket hend
      exact ⟨_, hfaults st hf, State.run_pourOver hover, hdone.running, hdone.state, hdone.status, hdone.epoch,
        (State.slots_of_docket hend).trans (hslots.trans (State.slots_of_docket hclose)),
        (State.maps_of_docket hend).trans (hmaps.trans (State.maps_of_docket hclose))⟩

end Sys2Proof.Machine
end

section
/-! SUPPORT. Firmware pours: the staged slot and its verification, FIRMWARE_STAGE and FIRMWARE_ACTIVATE where they start, and the host data of
a stage (R220, R234, R353, R354, R429). -/

namespace Sys2Proof.Machine

variable {s t u s1 : State} {i n : Nat} {k : Packet} {c : Fin 64}

/-! ### The staged slot -/

/-- The verification of a slot goes by the Assay's records and the anti-rollback counter. -/
theorem State.slotReject_congr (ha : u.assay = s.assay) (hr : u.ledger.rollback = s.ledger.rollback) (b : Bool) : u.slotReject b = s.slotReject b := by
  have hread : u.flashRead = s.flashRead := by
    unfold State.flashRead
    rw [ha]
  have hspoilt : u.slotSpoilt b = s.slotSpoilt b := by
    unfold State.slotSpoilt
    rw [hread]
  unfold State.slotReject State.slotRejectAt
  rw [hread, hspoilt, ha, hr]

/-- DETAIL of a firmware pour goes by the flash and by the slot last confirmed. -/
theorem State.firmwareDetail_congr (hf : u.assay.flash = s.assay.flash) (hb : u.ledger.bootActive = s.ledger.bootActive) (v : Bool) :
    u.firmwareDetail v = s.firmwareDetail v := by
  have hread : u.flashRead = s.flashRead := by
    unfold State.flashRead
    rw [hf]
  have hslot : u.stagedSlot = s.stagedSlot := by rw [State.stagedSlot, hb, State.stagedSlot]
  have himage : u.slotImage s.stagedSlot = s.slotImage s.stagedSlot := by
    unfold State.slotImage
    rw [hread]
  rw [State.firmwareDetail, hslot, himage, State.firmwareDetail]

/-- A log entry leaves the ledger. -/
theorem State.ledger_logStatus (s : State) (st : BitVec 16) (x j a : Nat) (l : Bool) (p : Option (Nat × Word64)) :
    (s.logStatus st x j a l p).ledger = s.ledger := by
  have hmsix (s : State) (p : HostPort) (v : Nat) : (s.msix p v).ledger = s.ledger := by
    unfold State.msix
    split <;> cases p <;> rfl
  exact (hmsix ..).trans ((hmsix ..).trans rfl)

theorem State.Accounts.assay (h : s.Accounts t) : t.assay = s.assay := by rw [h.eq]

/-- The reason of a rejected slot noted in ASY_BOOT. -/
def Assay.noteReason (a : Assay) (slot : Bool) (n : Nat) : Assay :=
  if slot then { a with reasonB := BitVec.ofNat 4 n } else { a with reasonA := BitVec.ofNat 4 n }

/-- A slot rejected: its reason noted, and an entry of the log. -/
def State.rejectSlot (s : State) (d pour n : Nat) : State :=
  State.logStatus { s with assay := s.assay.noteReason s.stagedSlot n } (rejectCode n) unitAssay 0 0 false (some (d, BitVec.ofNat 64 pour))

theorem State.rejectSlot_leaves (s : State) (d pour n : Nat) :
    (s.rejectSlot d pour n).work = s.work ∧ (s.rejectSlot d pour n).assay = s.assay.noteReason s.stagedSlot n
      ∧ (s.rejectSlot d pour n).ledger = s.ledger :=
  ⟨State.logStatus_work { s with assay := s.assay.noteReason s.stagedSlot n } ..,
    (State.logStatus_accounts { s with assay := s.assay.noteReason s.stagedSlot n } ..).assay,
    State.ledger_logStatus { s with assay := s.assay.noteReason s.stagedSlot n } ..⟩

theorem State.verifySlot_passes (h : s.slotReject s.stagedSlot = none) (d pour : Nat) : s.verifySlot d pour = (none, s) := by
  unfold State.verifySlot
  dsimp only
  rw [h]

theorem State.verifySlot_rejects (h : s.slotReject s.stagedSlot = some n) (d pour : Nat) :
    s.verifySlot d pour = (some n, s.rejectSlot d pour n) := by
  unfold State.verifySlot
  dsimp only
  rw [h]
  rfl

theorem Assay.flash_noteReason (a : Assay) (slot : Bool) (n : Nat) : (a.noteReason slot n).flash = a.flash := by
  unfold Assay.noteReason
  split <;> rfl

/-- What the verification of a slot leaves: the memory, the flash and the work of the pours. -/
theorem State.verifySlot_leaves (s : State) (d pour : Nat) :
    (s.verifySlot d pour).2.work = s.work ∧ (s.verifySlot d pour).2.assay.flash = s.assay.flash := by
  cases h : s.slotReject s.stagedSlot with
  | none =>
    rw [State.verifySlot_passes h]
    exact ⟨rfl, rfl⟩
  | some n =>
    obtain ⟨hwork, hassay, -⟩ := s.rejectSlot_leaves d pour n
    rw [State.verifySlot_rejects h]
    refine ⟨hwork, ?_⟩
    rw [hassay, Assay.flash_noteReason]

/-! ### Where the pours start -/

/-- Where the body of a pour acts, reads of the ledger see what is written to it. -/
theorem State.startsNow.begun_kept {d op : Nat} {ks : List Nat} (h : s.startsNow s1 d op i ks k) : (s1.beginAttempt d i k).ledgerKept := by
  obtain ⟨-, -, -, -, -, hkept, -, hs1⟩ := h
  rw [State.enableAll_eq] at hs1
  have hk : s1.linesDone.ledgerKept := by
    rw [hs1]
    exact hkept
  unfold State.beginAttempt State.noteRan
  dsimp only
  split <;> split <;> exact hk.updEntry _ _

theorem State.startsNow.begun_assay {d op : Nat} {ks : List Nat} (h : s.startsNow s1 d op i ks k) :
    (s1.beginAttempt d i k).assay = s.assay := by
  obtain ⟨ri, tr, ru, po, cn, hu⟩ := h.begun
  rw [hu]

theorem State.Begins.stagedSlot {d : Nat} (h : s.Begins u d i k) : u.stagedSlot = s.stagedSlot := by
  rw [State.stagedSlot, h.ledger, State.stagedSlot]

theorem State.startsNow.slotReject {d op : Nat} {ks : List Nat} (h : s.startsNow s1 d op i ks k) :
    (s1.beginAttempt d i k).slotReject (s1.beginAttempt d i k).stagedSlot = s.slotReject s.stagedSlot := by
  rw [h.begins.stagedSlot]
  exact State.slotReject_congr h.begun_assay (by rw [h.begins.ledger]) _

/-- A pour with a transfer of host data asks its owner's port for them. -/
theorem State.askHost_asks {d : Nat} {r : Running} {x : Transfer} {p : HostPort} (hr : s.runningOf d = some r) (hx : r.transfer = some x)
    (hop : r.body.opcode = opCopyIn ∨ r.body.opcode = opFirmwareStage) (hlt : x.done < x.total) (hp : (s.chan d).owner = p)
    (hw : (s.port p).mayWrite = true) :
    s.askHost d = s.updPort p fun h => { h with out := h.out ++
      [.readReq d (BitVec.ofNat 64 (fieldOf r.body.pay 0 64 + x.done)) (x.total - x.done)] } := by
  subst hp
  unfold State.askHost
  rw [hr]
  dsimp only
  rw [hx]
  exact if_pos ⟨hop, hlt, hw⟩

/-- FIRMWARE_STAGE clears PENDING and asks for its data (R234). -/
theorem execFirmwareStage_asks {p : HostPort} (hp : p = (s.chan c.val).owner) (h : s.startsNow s1 c.val 0x61 i [] k)
    (hw : (s.port p).mayWrite = true) (hn : 0 < fieldOf k.pay 96 32) :
    ∃ t, exec (.firmwareStage c) s = .next t ∧ t.runsWith s c.val i k none ∧ t.ledger.bootPending = false
      ∧ (t.runningOf c.val).bind (·.transfer) = some ⟨0, fieldOf k.pay 96 32, []⟩
      ∧ (t.port p).out = (s.port p).out ++ [.readReq c.val (BitVec.ofNat 64 (fieldOf k.pay 0 64)) (fieldOf k.pay 96 32)] := by
  have hb := h.begins
  have hkept := h.begun_kept
  have hexec : exec (.firmwareStage c) s = .next ((((s1.beginAttempt c.val i k).updLedger .bootRecord fun l =>
      { l with bootPending := false }).updRunning c.val fun r => { r with transfer := some ⟨0, fieldOf k.pay 96 32, []⟩ }).askHost c.val) :=
    congrArg Host.Outcome.next (h.startPour (needs := noNeeds) rfl _)
  generalize s1.beginAttempt c.val i k = u at *
  have hledger := State.ledger_updLedger_of_kept hkept .bootRecord fun l => { l with bootPending := false }
  have hworks := State.updLedger_work u .bootRecord (f := fun l => { l with bootPending := false }) fun _ => rfl
  have hport (q : HostPort) : (u.updLedger .bootRecord fun l => { l with bootPending := false }).port q = s.port q := by
    rw [← hb.port q]
    cases q <;> rfl
  generalize u.updLedger .bootRecord (fun l => { l with bootPending := false }) = v at *
  have howner : (v.chan c.val).owner = p := by
    rw [State.chan, hledger, hp, ← hb.chan]
    rfl
  have hrun : (v.updRunning c.val fun r => { r with transfer := some ⟨0, fieldOf k.pay 96 32, []⟩ }).runningOf c.val
      = some ⟨i, k, opClass k.opcode, none, some ⟨0, fieldOf k.pay 96 32, []⟩, 0, [], [], none⟩ := by
    rw [State.runningOf_updRunning, State.runningOf_of_work hworks, hb.running]
    rfl
  have hwport : ((v.updRunning c.val fun r => { r with transfer := some ⟨0, fieldOf k.pay 96 32, []⟩ }).port p).mayWrite = true :=
    (congrArg HostPortState.mayWrite (hport p)).trans hw
  rw [State.askHost_asks hrun rfl (.inr h.2.2.1) hn howner hwport] at hexec
  refine ⟨_, hexec, hb.runsWith ?_ ((State.runningOf_of_work (State.updPort_work ..) c.val).trans hrun) rfl rfl rfl, ?_, ?_, ?_⟩
  · exact (State.entry_of_work (State.updPort_work ..) i).trans (State.entry_of_work hworks i)
  · refine Eq.trans (b := v.ledger.bootPending) (by cases p <;> rfl) ?_
    rw [hledger]
  · rw [State.runningOf_of_work (State.updPort_work ..), hrun]
    rfl
  · rw [State.port_updPort]
    exact congrArg (fun h : HostPortState => h.out ++ _) (hport p)

/-- FIRMWARE_ACTIVATE, while the flash is the part's own, verifies the staged slot where its attempt has begun. -/
theorem execFirmwareActivate_verified {v : State} (h : s.startsNow s1 c.val 0x62 i [] k) (hh : s.pins.qspiHold = false) :
    ((s1.beginAttempt c.val i k).verifySlot c.val k.pour = (none, v) →
      exec (.firmwareActivate c) s = .next (((v.service 2).updLedger .bootRecord fun l => { l with bootPending := true }).fix c.val
        (completed stOk (v.firmwareDetail true) .nothing)))
    ∧ ((s1.beginAttempt c.val i k).verifySlot c.val k.pour = (some n, v) →
      exec (.firmwareActivate c) s = .next ((v.service 2).fix c.val (refusedAt (rejectCode n) (v.firmwareDetail true)))) := by
  have he : exec (.firmwareActivate c) s = execFirmwareActivate c s := rfl
  have hfree : ¬s.pins.qspiHold = true := by simp [hh]
  rw [he, execFirmwareActivate, if_neg hfree]
  refine ⟨fun hx => ?_, fun hx => ?_⟩
  · refine congrArg Host.Outcome.next ((h.startPour (needs := noNeeds) rfl _).trans ?_)
    rw [hx]
  · refine congrArg Host.Outcome.next ((h.startPour (needs := noNeeds) rfl _).trans ?_)
    rw [hx]

theorem execFirmwareActivate_passes (h : s.startsNow s1 c.val 0x62 i [] k) (hh : s.pins.qspiHold = false)
    (hs : s.slotReject s.stagedSlot = none) :
    ∃ t, exec (.firmwareActivate c) s = .next t ∧ t.ledger.bootPending = true
      ∧ t.runsWith s c.val i k (some (completed stOk (s.firmwareDetail true) .nothing)) := by
  have hb := h.begins
  have hkept := h.begun_kept
  have hdetail : (s1.beginAttempt c.val i k).firmwareDetail true = s.firmwareDetail true :=
    State.firmwareDetail_congr (congrArg Assay.flash h.begun_assay) (by rw [hb.ledger]) true
  have hexec := (execFirmwareActivate_verified (n := 0) h hh).1 (State.verifySlot_passes (h.slotReject.trans hs) c.val k.pour)
  generalize s1.beginAttempt c.val i k = u at *
  have hledger := State.ledger_updLedger_of_kept (s := u.service 2) hkept .bootRecord fun l => { l with bootPending := true }
  have hworks := State.updLedger_work (u.service 2) .bootRecord (f := fun l => { l with bootPending := true }) fun _ => rfl
  refine ⟨_, hexec, congrArg Ledger.bootPending hledger, ?_⟩
  rw [← hdetail]
  exact hb.fix (State.runningOf_of_work hworks c.val) (State.entry_of_work hworks i) _

theorem execFirmwareActivate_rejects (h : s.startsNow s1 c.val 0x62 i [] k) (hh : s.pins.qspiHold = false)
    (hs : s.slotReject s.stagedSlot = some n) :
    ∃ t, exec (.firmwareActivate c) s = .next t ∧ t.ledger.bootPending = s.ledger.bootPending
      ∧ t.runsWith s c.val i k (some (refusedAt (if n = 5 then 0x0502 else 0x0501) (s.firmwareDetail true)))
      ∧ (if s.stagedSlot then t.assay.reasonB else t.assay.reasonA) = BitVec.ofNat 4 n := by
  have hb := h.begins
  have hexec := (execFirmwareActivate_verified h hh).2 (State.verifySlot_rejects (h.slotReject.trans hs) c.val k.pour)
  obtain ⟨hworks, hassay, hledger⟩ := (s1.beginAttempt c.val i k).rejectSlot_leaves c.val k.pour n
  rw [hb.stagedSlot, h.begun_assay] at hassay
  have hdetail : ((s1.beginAttempt c.val i k).rejectSlot c.val k.pour n).firmwareDetail true = s.firmwareDetail true :=
    State.firmwareDetail_congr (by rw [hassay, Assay.flash_noteReason]) (by rw [hledger, hb.ledger]) true
  generalize (s1.beginAttempt c.val i k).rejectSlot c.val k.pour n = v at *
  generalize s1.beginAttempt c.val i k = u at *
  refine ⟨_, hexec, ?_, ?_, ?_⟩
  · have hpend : v.ledger.bootPending = s.ledger.bootPending := by rw [hledger, hb.ledger]
    exact hpend
  · have hcode : rejectCode n = if n = 5 then 0x0502 else 0x0501 := rfl
    rw [hdetail, hcode]
    exact hb.fix (State.runningOf_of_work hworks c.val) (State.entry_of_work hworks i) _
  · have hnoted : (if s.stagedSlot then (s.assay.noteReason s.stagedSlot n).reasonB else (s.assay.noteReason s.stagedSlot n).reasonA)
        = BitVec.ofNat 4 n := by
      cases s.stagedSlot <;> rfl
    rw [← hassay] at hnoted
    exact hnoted

/-! ### The host data of a stage (R220, R234, R429) -/

/-- Bytes written to the flash stand there in their order, and every other byte stays. -/
theorem State.get_flashWrite (s : State) (a : Nat) (bs : List Byte) (b : Nat) :
    Tab.get 0xFF (s.flashWrite a bs).assay.flash b
      = if a ≤ b ∧ b < a + bs.length then bs.getD (b - a) 0xFF else Tab.get 0xFF s.assay.flash b := by
  have hshift : (bs.mapIdx fun i v => (i + a, v)) = (bs.mapIdx fun i b => (i, b)).map fun e => (a + e.1, e.2) := by
    apply List.ext_getElem
    · simp
    · intro j hj hj'
      simp [Nat.add_comm]
  rw [← Tab.get_foldl_put_mapIdx, hshift, List.foldl_map]
  rfl

/-- The end of a transfer leaves memory and flash. -/
theorem State.endTransfer_leaves (s : State) (d : Nat) (k : Packet) (n : Nat) :
    (s.endTransfer d k n).mem = s.mem ∧ (s.endTransfer d k n).assay.flash = s.assay.flash := by
  obtain ⟨hwork, hflash⟩ := s.verifySlot_leaves d k.pour
  have hmem := State.mem_of_work hwork
  unfold State.endTransfer
  split
  · split
    · split
      · next heq =>
        rw [heq] at hmem hflash
        exact ⟨hmem, hflash⟩
      · next heq =>
        rw [heq] at hmem hflash
        exact ⟨hmem, hflash⟩
    · exact ⟨rfl, rfl⟩
  · exact ⟨rfl, rfl⟩

theorem State.takeBytes_stage {x : Transfer} {bs : List Byte} (hop : k.opcode = opFirmwareStage) :
    s.takeBytes k x bs = if s.pins.qspiHold then s else s.stageBytes k x bs := if_pos hop

theorem Transfer.take_stage (hop : k.opcode = opFirmwareStage) (x : Transfer) (hold : Bool) (bs : List Byte) :
    x.take k hold bs = ⟨x.done + bs.length, x.total, if hold then x.rest ++ bs else []⟩ := by
  unfold Transfer.take
  dsimp only
  rw [if_pos hop]

/-- The arrival of data, as the port's counters note it, leaves what a transfer goes by. -/
theorem State.hostTlp_count_leaves (y : State) (a n m : Nat) (port : HostPort) (sent : Bool) {z : State}
    (hz : (y.count a n).hostTlp port sent m = z) : z.mem = y.mem ∧ z.assay = y.assay ∧ z.pins = y.pins ∧ z.running = y.running := by
  subst hz
  exact ⟨rfl, rfl, rfl, rfl⟩

/-- Data of a stage taken: the transfer has moved on in a state `w` of the memory and the Assay's records that its bytes leave, and `w` ends
the transfer once its last byte is in the flash. -/
theorem State.takeData_stage {port : HostPort} {d : Nat} {r : Running} {x : Transfer} {data bs : List Byte} {y : State}
    (hr : s.runningOf d = some r) (hop : r.body.opcode = opFirmwareStage) (hbs : bs = data.take (x.total - x.done))
    (hy : s.takeBytes r.body x bs = y) (hpins : y.pins = s.pins) (hrun : y.running = s.running) :
    ∃ w, w.mem = y.mem ∧ w.assay = y.assay
      ∧ w.runningOf d = some { r with transfer := some ⟨x.done + bs.length, x.total, if s.pins.qspiHold then x.rest ++ bs else []⟩ }
      ∧ s.takeData port d r x data
        = if x.done + bs.length = x.total ∧ s.pins.qspiHold = false then w.endTransfer d r.body x.total else w := by
  have hlast : (x.done + bs.length = x.total ∧ ¬(r.body.opcode = opFirmwareStage ∧ s.pins.qspiHold = true))
      ↔ (x.done + bs.length = x.total ∧ s.pins.qspiHold = false) := by
    simp [hop]
  unfold State.takeData
  dsimp only
  rw [← hbs, hy]
  generalize hz : (y.count (ctrHost port.toNat 5) bs.length).hostTlp port false bs.length = z
  obtain ⟨hmem, hassay, hzpins, hzrun⟩ := State.hostTlp_count_leaves y _ _ _ _ _ hz
  refine ⟨z.updRunning d fun r => { r with transfer := some (x.take r.body z.pins.qspiHold bs) }, hmem, hassay, ?_, ?_⟩
  · have hrun' : z.runningOf d = some r := (congrArg (Tab.get none · d) (hzrun.trans hrun)).trans hr
    rw [State.runningOf_updRunning, hrun', Option.map_some, Transfer.take_stage hop, hzpins, hpins]
  · by_cases hl : x.done + bs.length = x.total ∧ s.pins.qspiHold = false
    · rw [if_pos hl, if_pos (hlast.mpr hl)]
    · rw [if_neg hl, if_neg (mt hlast.mp hl)]

/-- Bytes that come while the flash is the part's own, and none have waited: they go to the flash, and to it alone. -/
theorem State.takeData_flash {port : HostPort} {d : Nat} {r : Running} {x : Transfer} {data bs : List Byte} {a : Nat}
    (hr : s.runningOf d = some r) (ho : r.outcome = none) (hop : r.body.opcode = opFirmwareStage) (hbs : bs = data.take (x.total - x.done))
    (ha : a = slotBase s.stagedSlot + fieldOf r.body.pay 64 32 + x.done) (hh : s.pins.qspiHold = false) (hrest : x.rest = []) :
    (s.takeData port d r x data).mem = s.mem
      ∧ (∀ j < bs.length, Tab.get 0xFF (s.takeData port d r x data).assay.flash (a + j) = bs.getD j 0)
      ∧ (∀ b, b < a ∨ a + bs.length ≤ b →
          Tab.get 0xFF (s.takeData port d r x data).assay.flash b = Tab.get 0xFF s.assay.flash b)
      ∧ (x.done + bs.length < x.total → ((s.takeData port d r x data).runningOf d).bind (·.outcome) = none
          ∧ ((s.takeData port d r x data).runningOf d).bind (·.transfer) = some ⟨x.done + bs.length, x.total, []⟩) := by
  have hbytes : s.takeBytes r.body x bs = s.flashWrite a bs := by
    rw [State.takeBytes_stage hop, if_neg (by simp [hh]), State.stageBytes, hrest, ha]
    rfl
  obtain ⟨w, hmem, hassay, hrun, hdata⟩ := State.takeData_stage (port := port) hr hop hbs hbytes rfl rfl
  rw [hh] at hrun hdata
  obtain ⟨hendmem, hendflash⟩ := w.endTransfer_leaves d r.body x.total
  have hflash : (s.takeData port d r x data).assay.flash = (s.flashWrite a bs).assay.flash := by
    rw [hdata, ← hassay]
    split
    · exact hendflash
    · rfl
  refine ⟨?_, fun j hj => ?_, fun b hb => ?_, fun hlt => ?_⟩
  · rw [hdata]
    split
    · exact hendmem.trans hmem
    · exact hmem
  · rw [hflash, State.get_flashWrite, if_pos (by omega), Nat.add_sub_cancel_left, List.getD_eq_getElem _ _ hj, List.getD_eq_getElem _ _ hj]
  · rw [hflash, State.get_flashWrite, if_neg (by omega)]
  · rw [hdata, if_neg (by omega), hrun]
    exact ⟨ho, rfl⟩

/-- Bytes that come while the flash is the board's wait (R429). -/
theorem State.takeData_held {port : HostPort} {d : Nat} {r : Running} {x : Transfer} {data bs : List Byte} (hr : s.runningOf d = some r)
    (ho : r.outcome = none) (hop : r.body.opcode = opFirmwareStage) (hbs : bs = data.take (x.total - x.done)) (hh : s.pins.qspiHold = true) :
    (s.takeData port d r x data).assay = s.assay ∧ ((s.takeData port d r x data).runningOf d).bind (·.outcome) = none
      ∧ ((s.takeData port d r x data).runningOf d).bind (·.transfer) = some ⟨x.done + bs.length, x.total, x.rest ++ bs⟩ := by
  have hbytes : s.takeBytes r.body x bs = s := by rw [State.takeBytes_stage hop, if_pos hh]
  obtain ⟨w, -, hassay, hrun, hdata⟩ := State.takeData_stage (port := port) hr hop hbs hbytes rfl rfl
  rw [hh] at hrun hdata
  rw [hdata, if_neg (by simp), hrun]
  exact ⟨hassay, ho, rfl⟩

/-- A read of a stage that failed is asked again (log entry 83). -/
theorem State.failedRead_stage {d : Nat} {r : Running} {x : Transfer} {p : HostPort} (hr : s.runningOf d = some r) (hx : r.transfer = some x)
    (hop : r.body.opcode = opFirmwareStage) (hlt : x.done < x.total) (hp : (s.chan d).owner = p) (hw : (s.port p).mayWrite = true) :
    (s.failedRead d r).assay = s.assay ∧ (s.failedRead d r).running = s.running ∧ ((s.failedRead d r).port p).out
      = (s.port p).out ++ [.readReq d (BitVec.ofNat 64 (fieldOf r.body.pay 0 64 + x.done)) (x.total - x.done)] := by
  rw [State.failedRead, if_pos hop, State.askHost_asks hr hx (.inr hop) hlt hp hw]
  refine ⟨?_, ?_, ?_⟩
  · cases p <;> rfl
  · cases p <;> rfl
  · rw [State.port_updPort]

/-- What a transfer that waits for data is, and where its data come from. -/
theorem State.transfer_of_awaitsData {port : HostPort} {d : Nat} {r : Running} {x : Transfer} (h : s.awaitsData port d = some (r, x)) :
    x.done < x.total ∧ (s.chan d).owner = port ∧ (s.port port).mayWrite = true := by
  unfold State.awaitsData at h
  split at h
  · cases h
  · split at h
    · cases h
    · split at h
      next hc =>
        obtain ⟨rfl, rfl⟩ := by simpa using h
        exact ⟨hc.2.1, hc.2.2.1, hc.2.2.2.1⟩
      next => cases h

theorem execHostDmaCompletion_askedAgain {port : HostPort} {r : Running} {x : Transfer} (h : s.awaitsData port c.val = some (r, x))
    (hp : s.hostReach port = true) (hop : r.body.opcode = opFirmwareStage) (data : List Byte) {st : TlpStatus} (hst : st ≠ .good) :
    ∃ t, exec (.hostDmaCompletion port c data st) s = .next t ∧ t.assay = s.assay ∧ t.running = s.running
      ∧ (t.port port).out = (s.port port).out
          ++ [.readReq c.val (BitVec.ofNat 64 (fieldOf r.body.pay 0 64 + x.done)) (x.total - x.done)] := by
  obtain ⟨hr, hx, -⟩ := State.running_of_awaitsData h
  obtain ⟨hlt, howner, hw⟩ := State.transfer_of_awaitsData h
  obtain ⟨-, herr, hpois⟩ := execHostDmaCompletion_awaited h hp data
  cases st with
  | good => exact absurd rfl hst
  | error => exact ⟨_, herr, State.failedRead_stage hr hx hop hlt howner hw⟩
  | poisoned =>
    have hport : ((s.notePoisoned port).port port) = { s.port port with aerUncor := (s.port port).aerUncor ||| 0x1000 } := State.port_updPort ..
    have hsame : (s.notePoisoned port).running = s.running ∧ (s.notePoisoned port).assay = s.assay
        ∧ ((s.notePoisoned port).chan c.val).owner = (s.chan c.val).owner := by
      cases port <;> exact ⟨rfl, rfl, rfl⟩
    obtain ⟨hrunning, hassay, hchan⟩ := hsame
    obtain ⟨ha, hn, hout⟩ := State.failedRead_stage (s := s.notePoisoned port) ((congrArg (Tab.get none · c.val) hrunning).trans hr) hx hop hlt
      (hchan.trans howner) ((congrArg HostPortState.mayWrite hport).trans hw)
    exact ⟨_, hpois, ha.trans hassay, hn.trans hrunning, hout.trans (by rw [hport])⟩

end Sys2Proof.Machine

namespace Sys2Proof.Machine

/-- Settles O27: a stage asks for its data and puts them in the flash as they come, and an activation goes by the verification of the staged
slot as it stands before. -/
theorem firmwarePours : Obligations.FirmwarePours := by
  unfold Obligations.FirmwarePours
  intro c s s1 i k p hp
  refine ⟨fun h hw hn => execFirmwareStage_asks hp h hw hn, fun h hh hs => execFirmwareActivate_passes h hh hs,
    fun n h hh hs => execFirmwareActivate_rejects h hh hs, fun data bs r x a h hreach hop hbs ha => ?_⟩
  obtain ⟨hr, -, ho⟩ := State.running_of_awaitsData h
  have hgood := (execHostDmaCompletion_awaited h hreach data).1
  exact ⟨fun hh hrest => ⟨_, hgood, State.takeData_flash hr ho hop hbs ha hh hrest⟩,
    fun hh => ⟨_, hgood, State.takeData_held hr ho hop hbs hh⟩,
    fun st hst => execHostDmaCompletion_askedAgain h hreach hop data hst⟩

end Sys2Proof.Machine
end


section
/-! SUPPORT. A port that goes silent while a copy is in flight: what the stop of the attempt completes may be logged too (R92, R379). -/

namespace Sys2Proof.Machine

/-- The descriptor of a dense tensor of FP32 elements in HBM, `n` by `m`, from byte `base` on. -/
def matrixDesc (base n m : Nat) : BitVec 512 :=
  BitVec.ofNat 512 (base + 2 * 2 ^ 52 + n * 2 ^ 96 + m * 2 ^ 128 + n * 2 ^ 288)

/-- A COPY that transposes the tensor whose descriptor stands at 64 into the one whose descriptor stands at 128. -/
def transposeEntry : QEntry :=
  ⟨0, 0, BitVec.ofNat 512 (1 + (1 + 2 * 8 ^ 2 + 3 * 8 ^ 3 + 4 * 8 ^ 4 + 5 * 8 ^ 5) * 2 ^ 9 + 64 * 2 ^ 32 + 128 * 2 ^ 48),
    [(64, matrixDesc 0x10000 4 2), (128, matrixDesc 0x20000 2 4)], 0, [], [], none, none, none, none, none, 0⟩

/-- All eight elements are read and stand in the Ladle, whose codeword has become uncorrectable; their write has been admitted. -/
def transposeFlight : Flight :=
  ⟨0, .ld, transposeEntry, false, ⟨[(0x10000, 32)], [(0x20000, 32)], [], [], [], []⟩, [], none, none, 0, 0, true, false,
    some ⟨0, List.replicate 8 (0, false), false, [], [(0, uncorrectableDiff)], none, [], [0x20000 / 32], none, false⟩, none⟩

/-- A pattern of one rank that uses cluster 0 alone. -/
def soloPattern : Pattern :=
  ⟨0, [], 0, 1, 0, 0, 0, false, none, [(0, ⟨0, 256, 16, 0, 0⟩)], [], [], [], [], [], [], [], [], [], [], [1, 1, 1, 1], [], [], [], []⟩

/-- The attempt of its RUN, free of faults. -/
def soloRun : RunCtx := ⟨0, 0, 1, 0, 0, [], 0, 0, 0, false, none, none, [], false, none, [], [], [], 0⟩

/-- The attempt runs with the copy in flight; port 0 is in service, and both spares are free. -/
def State.copyInFlight : State :=
  { State.readyPart with
    patterns := [(1, some soloPattern)]
    run := some soloRun
    clusters := [(0, { Cluster.init with run := .running, flights := [transposeFlight] })]
    runner := { Runner.init with ports := Runner.init.ports.modify 0 fun o => { o with state := .admitted } } }

/-- The entries that a part has logged after a command (R386). -/
def loggedCount : Host.Outcome State Fault Refusal → Word32
  | .next t => t.err.seq
  | _ => 0

/-- Nothing has been logged before. -/
theorem copyInFlight_unlogged : State.copyInFlight.err.seq = 0 := rfl

/-- The silence of port 0 logs the loss of the port, and the word of the Ladle that the stop of the attempt reads. -/
theorem copyInFlight_logsTwice : loggedCount (exec (.portSilenceTimeout 0) State.copyInFlight) = 2 := by decide +kernel

end Sys2Proof.Machine

namespace Sys2Proof.Machine

/-- Refutes O45: a silence stops the running attempt, whose copies in flight still complete what has been admitted (R92); a word of the Ladle
that is uncorrectable then is logged too (R377, R379, R386), so that the log gains two entries. The statement has it gain one, for every
attempt free of faults for which a spare is free. -/
theorem not_portsLost : ¬ Obligations.PortsLost := by
  unfold Obligations.PortsLost
  intro h
  obtain ⟨-, hspare, -⟩ := h 0 State.copyInFlight _ rfl
  have hkept : State.copyInFlight.ledgerKept := .inr (by decide +kernel)
  obtain ⟨t, _, hexec, -, -, -, -, hseq, -⟩ := hspare 30 soloRun (by decide +kernel) (by decide) (by decide +kernel) (by decide +kernel) rfl
    rfl hkept
  have htwo : t.err.seq = 2 := by
    have hlogged := copyInFlight_logsTwice
    rwa [hexec] at hlogged
  rw [htwo, copyInFlight_unlogged] at hseq
  exact absurd hseq (by decide)

end Sys2Proof.Machine
end

section
/-! SUPPORT. Runner ports that a pour of the flask darkens, trains or fails (R268 to R271, R321): what becomes of the port itself, and all
else that stays. -/

namespace Sys2Proof.Machine

variable {s t u : State} {p : Nat} {ps qs : List Nat}

/-! ### Which ports change -/

theorem State.rport_updRport_other {j : Nat} (hj : j ≠ p) (s : State) (f : Port → Port) : (s.updRport p f).rport j = s.rport j := by
  simp [State.rport, State.updRport, List.getD_eq_getElem?_getD, hj.symm]

/-- Optics without lanes keep their eye-safety state. -/
theorem State.eye_noLanes (s : State) (p j : Nat) : ((s.updLight p PortLight.noLanes).lport j).eye = (s.lport j).eye := by
  simp only [State.lport, State.updLight, List.getD_eq_getElem?_getD, List.getElem?_modify]
  cases s.light.ports[j]? with
  | none => rfl
  | some o => by_cases h : p = j <;> simp [h, PortLight.noLanes]

/-- From `s` to `t` no port but those of `ps` changes, no eye-safety state, and nothing of the Runner or of the ledger beside the ports. -/
structure State.ChangesPorts (s t : State) (ps : List Nat) : Prop where
  riser  : t.riser = s.riser
  sprue  : t.sprue = s.sprue
  runner : t.runner = { s.runner with ports := t.runner.ports }
  length : t.runner.ports.length = s.runner.ports.length
  other  : ∀ j, j ∉ ps → t.rport j = s.rport j
  eye    : ∀ j, (t.lport j).eye = (s.lport j).eye

/-- Where the Riser, the Sprues, the Runner and the eye-safety states stay, no port changes. -/
theorem State.ChangesPorts.of_same (s t : State) (hri : t.riser = s.riser) (hsp : t.sprue = s.sprue) (hru : t.runner = s.runner)
    (heye : ∀ j, (t.lport j).eye = (s.lport j).eye) (ps : List Nat) : s.ChangesPorts t ps where
  riser := hri
  sprue := hsp
  runner := by rw [hru]
  length := by rw [hru]
  other j _ := by rw [State.rport, hru, State.rport]
  eye := heye

theorem State.ChangesPorts.trans (h : s.ChangesPorts t ps) (h' : t.ChangesPorts u qs) : s.ChangesPorts u (ps ++ qs) where
  riser := h'.riser.trans h.riser
  sprue := h'.sprue.trans h.sprue
  runner := by rw [h'.runner, h.runner]
  length := h'.length.trans h.length
  other j hj := by
    obtain ⟨hp, hq⟩ := not_or.mp fun hor => hj (List.mem_append.mpr hor)
    exact (h'.other j hq).trans (h.other j hp)
  eye j := (h'.eye j).trans (h.eye j)

theorem State.ChangesPorts.again (h : s.ChangesPorts t ps) (h' : t.ChangesPorts u ps) : s.ChangesPorts u ps :=
  have hboth := h.trans h'
  { hboth with other := fun j hj => hboth.other j (by simpa using hj) }

theorem State.ChangesPorts.foldl {f : State → Nat → State} (hf : ∀ (s : State) p, p ∈ ps → s.ChangesPorts (f s p) [p]) :
    s.ChangesPorts (ps.foldl f s) ps := by
  induction ps generalizing s with
  | nil => exact .of_same s s rfl rfl rfl (fun _ => rfl) []
  | cons p ps ih => exact (hf s p List.mem_cons_self).trans (ih fun s q hq => hf s q (List.mem_cons_of_mem p hq))

theorem State.ChangesPorts.ledger (h : s.ChangesPorts t ps) : t.ledger = s.ledger := by
  rw [State.ledger, h.riser, h.sprue, State.ledger]

theorem State.ChangesPorts.kept (h : s.ChangesPorts t ps) (hk : s.ledgerKept) : t.ledgerKept := by
  rwa [State.ledgerKept, h.riser, h.sprue]

theorem State.ChangesPorts.flask (h : s.ChangesPorts t ps) : t.runner.flask = s.runner.flask := by rw [h.runner]

theorem State.ChangesPorts.retrains (h : s.ChangesPorts t ps) : t.runner.retrains = s.runner.retrains := by rw [h.runner]

theorem State.changesPorts_updRport (s : State) (p : Nat) (f : Port → Port) : s.ChangesPorts (s.updRport p f) [p] where
  riser := rfl
  sprue := rfl
  runner := rfl
  length := State.length_ports_updRport ..
  other j hj := State.rport_updRport_other (by simpa using hj) s f
  eye _ := rfl

/-! ### A port dark, and in training -/

theorem State.setOut_leaves (s : State) (p : Nat) (on : Bool) :
    (s.setOut p on).riser = s.riser ∧ (s.setOut p on).sprue = s.sprue ∧ (s.setOut p on).runner = s.runner
      ∧ (s.setOut p on).light.ports = s.light.ports ∧ (s.setOut p on).running = s.running := by
  unfold State.setOut
  split
  · exact ⟨rfl, rfl, rfl, rfl, rfl⟩
  · exact ⟨rfl, rfl, rfl, rfl, rfl⟩

/-- The electronics and the source output of a port, and no lane: the port itself stays as it was. -/
theorem State.changesPorts_setOut (s : State) (p : Nat) (on : Bool) (qs : List Nat) : s.ChangesPorts (s.setOut p on) qs := by
  obtain ⟨hri, hsp, hru, hli, -⟩ := s.setOut_leaves p on
  exact .of_same _ _ hri hsp hru (fun j => by rw [State.lport, hli, State.lport]) qs

theorem State.changesPorts_noLanes (s : State) (p : Nat) (qs : List Nat) : s.ChangesPorts (s.updLight p PortLight.noLanes) qs :=
  .of_same s (s.updLight p PortLight.noLanes) rfl rfl rfl (s.eye_noLanes p) qs

theorem State.changesPorts_updSeq (s : State) (k : Nat) (f : Sequencer → Sequencer) (qs : List Nat) : s.ChangesPorts (s.updSeq k f) qs :=
  .of_same s (s.updSeq k f) rfl rfl rfl (fun _ => rfl) qs

theorem State.goDark_changesPorts (s : State) (p : Nat) : s.ChangesPorts (s.goDark p) [p] :=
  ((s.changesPorts_updSeq (portDomain p) Sequencer.disable [p]).again (State.changesPorts_updRport _ p fun o => o.darkened p)).again
    ((State.changesPorts_setOut _ p false [p]).again (State.changesPorts_noLanes _ p [p]))

/-- The port as its training starts from stage 1 for a logical port (R269). -/
def Port.trainsFor (o : Port) (p lp : Nat) : Port :=
  { o.darkened p with state := .training, standsFor := BitVec.ofNat 5 lp, stage := 1 }

theorem State.startTraining_eq (s : State) (p lp : Nat) :
    s.startTraining p lp
      = (((s.updSeq (portDomain p) Sequencer.enable).setOut p true).updRport p fun o => o.trainsFor p lp).updLight p PortLight.noLanes := rfl

theorem State.startTraining_changesPorts (s : State) (p lp : Nat) : s.ChangesPorts (s.startTraining p lp) [p] :=
  ((s.changesPorts_updSeq (portDomain p) Sequencer.enable [p]).again (State.changesPorts_setOut _ p true [p])).again
    ((State.changesPorts_updRport _ p _).again (State.changesPorts_noLanes _ p [p]))

theorem State.rport_startTraining (hp : p < s.runner.ports.length) (lp : Nat) : (s.startTraining p lp).rport p = (s.rport p).trainsFor p lp := by
  have hru : ((s.updSeq (portDomain p) Sequencer.enable).setOut p true).runner = s.runner := (State.setOut_leaves ..).2.2.1
  rw [State.startTraining_eq]
  refine (State.rport_updRport_same (by rwa [hru]) _).trans ?_
  rw [State.rport, hru, State.rport]

theorem State.running_startTraining (s : State) (p lp : Nat) : (s.startTraining p lp).running = s.running :=
  (s.updSeq (portDomain p) Sequencer.enable).setOut_leaves p true |>.2.2.2.2

/-! ### A port that fails -/

theorem State.settleWait_eq (s : State) (c : Nat) : s.settleWait c = { s with running := (s.settleWait c).running } := by
  unfold State.settleWait
  split
  · rfl
  · split
    · split
      · rfl
      · split <;> rfl
    · rfl

/-- A pour that has its outcome, or waits, changes nothing but the running pours. -/
theorem State.changesPorts_running (h : t = { s with running := t.running }) (qs : List Nat) : s.ChangesPorts t qs := by
  rw [h]
  exact .of_same s { s with running := t.running } rfl rfl rfl (fun _ => rfl) qs

theorem State.changesPorts_settleWait (s : State) (c : Nat) (qs : List Nat) : s.ChangesPorts (s.settleWait c) qs :=
  State.changesPorts_running (s.settleWait_eq c) qs

theorem State.portEnded_eq (s : State) (op bit : Nat) (st : BitVec 16) :
    s.portEnded op bit st = { s with running := (s.portEnded op bit st).running } := by
  unfold State.portEnded
  generalize List.range 64 = l
  induction l generalizing s with
  | nil => rfl
  | cons c l ih =>
    rw [List.foldl_cons, ih]
    split
    · rfl
    · split
      · rw [State.settleWait_eq]
        rfl
      · rfl

theorem State.changesPorts_portEnded (s : State) (op bit : Nat) (st : BitVec 16) (qs : List Nat) :
    s.ChangesPorts (s.portEnded op bit st) qs := State.changesPorts_running (s.portEnded_eq op bit st) qs

/-- The port `n` as it stands once the port `o` has failed (R271). -/
def Port.fails (o : Port) (st : BitVec 16) (n : Port) : Port :=
  { n with state := .failed, standsFor := o.standsFor, code := st, found := o.found, sent := o.sent }

/-- A port that fails goes dark, and the pours that wait for it hear of it. -/
def State.failsDark (s : State) (p : Nat) (st : BitVec 16) : State :=
  (((s.goDark p).updRport p (fun n => (s.rport p).fails st n)).portEnded opFlaskJoin p st).portEnded opMarginTest (s.rport p).standsFor.toNat st

theorem State.failsDark_changesPorts (s : State) (p : Nat) (st : BitVec 16) : s.ChangesPorts (s.failsDark p st) [p] :=
  ((s.goDark_changesPorts p).again (State.changesPorts_updRport ..)).again
    ((State.changesPorts_portEnded ..).again (State.changesPorts_portEnded ..))

theorem State.rport_failsDark (hp : p < s.runner.ports.length) (st : BitVec 16) :
    (s.failsDark p st).rport p = (s.rport p).fails st ((s.goDark p).rport p) := by
  have hended (u : State) (op bit : Nat) : (u.portEnded op bit st).rport p = u.rport p :=
    (u.changesPorts_portEnded op bit st []).other p List.not_mem_nil
  rw [State.failsDark, hended, hended, State.rport_updRport_same (by rwa [(s.goDark_changesPorts p).length])]

/-- A port that is no spare fails as it is shut, no warm boot's training being under way: that is reported where it is found (R321). -/
theorem State.failPort_shut (hp : p < 30) (hr : s.runner.retrains = []) : s.failPort p stEyeSafety = s.failsDark p stEyeSafety := by
  have hretrains : (s.failsDark p stEyeSafety).runner.retrains = [] := (s.failsDark_changesPorts p _).retrains.trans hr
  unfold State.failPort
  dsimp only
  simp only [if_true, show ¬stEyeSafety = stMarginLow by decide, if_false, show ¬30 ≤ p by omega]
  delta State.failsDark Port.fails at hretrains ⊢
  rw [hretrains, if_neg (by simp)]

/-! ### The live ports of a join -/

/-- A live port as a join leaves it: in training from stage 1, or failed where its eye-safety state shuts it (R230, R321). -/
structure Port.Joins (o : Port) (p : Nat) (eye : EyeState) : Prop where
  trains : eye ≠ .shut → o.state = .training ∧ o.stage = 1 ∧ o.standsFor = BitVec.ofNat 5 p
  fails  : eye = .shut → o.state = .failed ∧ o.code = 0x0403

/-- A live port that is brought into the flask. -/
def State.trainOne (s : State) (p : Nat) : State :=
  if (s.lport p).eye = .shut then s.failPort p stEyeSafety else s.startTraining p p

theorem State.trainOne_changesPorts (hp : p < 30) (hr : s.runner.retrains = []) : s.ChangesPorts (s.trainOne p) [p] := by
  unfold State.trainOne
  split
  · rw [State.failPort_shut hp hr]
    exact s.failsDark_changesPorts p _
  · exact s.startTraining_changesPorts p p

theorem State.trainOne_joins (hp : p < 30) (hr : s.runner.retrains = []) (hl : p < s.runner.ports.length) :
    ((s.trainOne p).rport p).Joins p (s.lport p).eye := by
  unfold State.trainOne
  split
  · next heye =>
    rw [State.failPort_shut hp hr, State.rport_failsDark hl]
    exact ⟨fun h => absurd heye h, fun _ => ⟨rfl, rfl⟩⟩
  · next heye =>
    rw [State.rport_startTraining hl]
    exact ⟨fun _ => ⟨rfl, rfl, rfl⟩, fun h => absurd h heye⟩

theorem State.trainLive_cons (s : State) (p : Nat) (ps : List Nat) : s.trainLive (p :: ps) = (s.trainOne p).trainLive ps := rfl

theorem State.trainLive_changesPorts (hlt : ∀ p ∈ ps, p < 30) (hr : s.runner.retrains = []) : s.ChangesPorts (s.trainLive ps) ps := by
  induction ps generalizing s with
  | nil => exact .of_same _ _ rfl rfl rfl (fun _ => rfl) []
  | cons p ps ih =>
    have hone := State.trainOne_changesPorts (hlt p List.mem_cons_self) hr
    exact hone.trans (ih (fun q hq => hlt q (List.mem_cons_of_mem p hq)) (hone.retrains.trans hr))

theorem State.trainLive_joins (hlt : ∀ p ∈ ps, p < 30) (hnd : ps.Nodup) (hr : s.runner.retrains = []) (hl : s.runner.ports.length = 32) :
    ∀ p ∈ ps, ((s.trainLive ps).rport p).Joins p (s.lport p).eye := by
  induction ps generalizing s with
  | nil => exact fun p hp => absurd hp List.not_mem_nil
  | cons q ps ih =>
    obtain ⟨hq, hnd'⟩ := List.nodup_cons.mp hnd
    have hlt' (p : Nat) (hp : p ∈ ps) : p < 30 := hlt p (List.mem_cons_of_mem q hp)
    have hq30 := hlt q List.mem_cons_self
    have hone := State.trainOne_changesPorts hq30 hr
    have hr' := hone.retrains.trans hr
    intro p hp
    rw [State.trainLive_cons]
    obtain rfl | hp := List.mem_cons.mp hp
    · rw [(State.trainLive_changesPorts hlt' hr').other p hq]
      exact State.trainOne_joins hq30 hr (by omega)
    · rw [← hone.eye]
      exact ih hlt' hnd' hr' (hone.length.trans hl) p hp

end Sys2Proof.Machine
end

section
/-! SUPPORT. FLASK_JOIN, FLASK_LEAVE and MARGIN_TEST where their bodies act (R230 to R233, R273). -/

namespace Sys2Proof.Machine

variable {s s1 t u : State} {c : Fin 64} {i p q : Nat} {k : Packet} {f : FlaskRecord} {op : Nat} {ks : List Nat}

/-! ### What the bodies read -/

/-- Where the body of a pour acts, the Runner and the optics are as they were. -/
theorem State.startsNow.begun_links (h : s.startsNow s1 c op i ks k) :
    (s1.beginAttempt c i k).runner = s.runner ∧ (s1.beginAttempt c i k).light = s.light ∧ (s1.beginAttempt c i k).ident = s.ident := by
  obtain ⟨ri, tr, ru, po, cn, hu⟩ := h.begun
  rw [hu]
  exact ⟨rfl, rfl, rfl⟩

/-- The entry of a pour where its body acts says whether it is replayed (R248). -/
theorem State.startsNow.begun_replayed (h : s.startsNow s1 c op i ks k) :
    ((s1.beginAttempt c i k).entry i).replayed = ((s.entry i).replayed || decide ((s.entry i).state = .running)) := by
  obtain ⟨-, -, -, -, -, hkept, -, hs1⟩ := h
  rw [State.enableAll_eq] at hs1
  have hk1 : s1.ledgerKept := by
    rw [hs1]
    exact hkept
  have hl1 : s1.ledger = s.ledger := by
    rw [hs1]
    rfl
  rw [State.entry, State.beginAttempt_ledger hk1, Tab.get_upd_same, State.entry, hl1]
  rfl

/-- DETAIL of a join goes by the Runner. -/
theorem State.joinDetail_congr (h : u.runner = s.runner) : u.joinDetail = s.joinDetail := by
  unfold State.joinDetail State.rport State.flaskId
  rw [h]

/-- The port that a margin test takes for a logical port goes by the Runner. -/
theorem State.testedPort_congr (h : u.runner = s.runner) (lp : Nat) : u.testedPort lp = s.testedPort lp := by
  unfold State.testedPort State.serving State.rport
  rw [h]

/-! ### The acceptance of a join or a leave -/

theorem State.allDark_changesPorts (s : State) : s.ChangesPorts ((List.range 32).foldl State.goDark s) (List.range 32) :=
  .foldl fun s p _ => s.goDark_changesPorts p

/-- The acceptance of a join or a leave: every port dark, and the flask as it is then, in the Riser too (R230, R232). -/
structure State.Rejoins (s t : State) (f : Option FlaskRecord) : Prop where
  flask    : t.runner.flask = f
  saved    : t.ledger = { s.ledger with flask := f }
  retrains : t.runner.retrains = []
  length   : t.runner.ports.length = s.runner.ports.length
  dark     : ∀ p < s.runner.ports.length, (t.rport p).state = .dark
  eye      : ∀ p, (t.lport p).eye = (s.lport p).eye
  running  : t.running = s.running

theorem State.running_goDark (s : State) (p : Nat) : (s.goDark p).running = s.running := (s.darkPort p).setOut_leaves p false |>.2.2.2.2

theorem State.running_allDark (s : State) (ps : List Nat) : (ps.foldl State.goDark s).running = s.running := by
  induction ps generalizing s with
  | nil => rfl
  | cons p ps ih => exact (ih _).trans (s.running_goDark p)

theorem Runner.rejoin_dark (r : Runner) (f : Option FlaskRecord) (hp : p < r.ports.length) :
    ((r.rejoin f).ports.getD p (Port.init p)).state = .dark := by
  simp [Runner.rejoin, List.getD_eq_getElem?_getD, hp, Port.rejoined, Port.init]

/-- The state that the acceptance of a join or a leave makes of `s`; `e` is what it makes of the errors' record. -/
def State.rejoined (s : State) (e : Err → Err) (f : Option FlaskRecord) : State :=
  let u := (List.range 32).foldl State.goDark s
  State.updLedger { u with runner := u.runner.rejoin f, err := e u.err } .flask fun l => { l with flask := f }

theorem State.rejoined_rejoins (hk : s.ledgerKept) (e : Err → Err) (f : Option FlaskRecord) : s.Rejoins (s.rejoined e f) f := by
  have hu : s.ChangesPorts ((List.range 32).foldl State.goDark s) (List.range 32) := s.allDark_changesPorts
  unfold State.rejoined
  generalize hv : (List.range 32).foldl State.goDark s = u at hu
  exact {
    flask := rfl
    saved := by
      rw [← hu.ledger]
      exact State.ledger_updLedger_of_kept (s := { u with runner := u.runner.rejoin f, err := e u.err }) (hu.kept hk) .flask _
    retrains := rfl
    length := (List.length_mapIdx ..).trans hu.length
    dark := fun p hp => Runner.rejoin_dark u.runner f (by rwa [hu.length])
    eye := hu.eye
    running := hv ▸ s.running_allDark _ }

theorem State.Rejoins.entry {f : Option FlaskRecord} (h : s.Rejoins t f) (i : Nat) : t.entry i = s.entry i := by
  rw [State.entry, h.saved, State.entry]

theorem State.Rejoins.savedFlask {f : Option FlaskRecord} (h : s.Rejoins t f) : t.ledger.flask = f := by rw [h.saved]

/-! ### FLASK_JOIN -/

theorem FlaskRecord.nodup_live (f : FlaskRecord) : f.live.Nodup := List.nodup_range.filter _

/-- A join outside a flask whose ports keep the no-transit rule: the chip is in the flask, its live ports train or fail, and no others are lit. -/
theorem State.acceptJoin_joins (hk : u.ledgerKept) (hl : u.runner.ports.length = 32) (d : Nat) (f : FlaskRecord) :
    (u.acceptJoin d f).runner.flask = some f ∧ (u.acceptJoin d f).ledger = { u.ledger with flask := some f }
      ∧ (∀ p ∈ f.live, ((u.acceptJoin d f).rport p).Joins p (u.lport p).eye)
      ∧ ∀ p < 32, p ∉ f.live → ((u.acceptJoin d f).rport p).state = .dark := by
  have hlt (p : Nat) (hp : p ∈ f.live) : p < 30 := FlaskRecord.lt_of_mem_live hp
  have hjoins := State.rejoined_rejoins hk (fun e => { e with portShared := [] }) (some f)
  have heq : u.acceptJoin d f = (((u.rejoined (fun e => { e with portShared := [] }) (some f)).updRunning d fun r =>
      { r with waiting := BitVec.ofNat 32 (portMask f.live) }).trainLive f.live).settleWait d := rfl
  rw [heq]
  generalize u.rejoined (fun e => { e with portShared := [] }) (some f) = v at hjoins
  have hvw : v.ChangesPorts (v.updRunning d fun r => { r with waiting := BitVec.ofNat 32 (portMask f.live) }) [] :=
    State.changesPorts_running rfl []
  generalize (v.updRunning d fun r => { r with waiting := BitVec.ofNat 32 (portMask f.live) }) = w at hvw
  have hretrains := hvw.retrains.trans hjoins.retrains
  have hlength := hvw.length.trans (hjoins.length.trans hl)
  have hsettle := State.changesPorts_settleWait (w.trainLive f.live) d []
  have htrain := (State.trainLive_changesPorts hlt hretrains).again (State.changesPorts_settleWait _ d f.live)
  refine ⟨htrain.flask.trans (hvw.flask.trans hjoins.flask), htrain.ledger.trans (hvw.ledger.trans hjoins.saved), fun p hp => ?_,
    fun p hp hnot => ?_⟩
  · rw [hsettle.other p List.not_mem_nil, ← hjoins.eye, ← hvw.eye]
    exact State.trainLive_joins hlt f.nodup_live hretrains hlength p hp
  · rw [htrain.other p hnot, hvw.other p List.not_mem_nil]
    exact hjoins.dark p (by omega)

theorem execFlaskJoin_starts (h : s.startsNow s1 c.val 0x50 i [] k) :
    exec (.flaskJoin c) s = .next ((s1.beginAttempt c.val i k).joinBody c.val i k) :=
  congrArg Host.Outcome.next ((h.resumeOr _ _).trans (h.startPour (needs := noNeeds) rfl _))

/-- A join that is refused changes no port. -/
theorem State.startsNow.refusesJoin (h : s.startsNow s1 c.val 0x50 i [] k) (st : BitVec 16)
    (hbody : (s1.beginAttempt c.val i k).joinBody c.val i k
      = (s1.beginAttempt c.val i k).fix c.val (refusedAt st (s1.beginAttempt c.val i k).joinDetail)) :
    ∃ t, exec (.flaskJoin c) s = .next t ∧ t.runsWith s c.val i k (some (refusedAt st s.joinDetail)) ∧ t.runner = s.runner := by
  obtain ⟨hrunner, -, -⟩ := h.begun_links
  rw [State.joinDetail_congr hrunner] at hbody
  exact ⟨_, (execFlaskJoin_starts h).trans (congrArg Host.Outcome.next hbody), h.begins.fix rfl rfl _, hrunner⟩

theorem State.joinBody_outside (hf : u.runner.flask = none) (d i : Nat) (k : Packet) :
    u.joinBody d i k = if (joinRecord k.pay).live.all fun p => transitOk u.ident.chipId.toNat p ((joinRecord k.pay).port p)
      then u.acceptJoin d (joinRecord k.pay) else u.fix d (refusedAt stTransit u.joinDetail) := by
  simp [State.joinBody, hf]

theorem State.joinBody_inside {g : FlaskRecord} (hf : u.runner.flask = some g)
    (hnew : g ≠ joinRecord k.pay ∨ (u.entry i).replayed = false) (d : Nat) :
    u.joinBody d i k = u.fix d (refusedAt stTopology u.joinDetail) := by
  have hno : ¬((u.entry i).replayed = true ∧ u.runner.flask = some (joinRecord k.pay)) := by
    rintro ⟨hre, hsame⟩
    rw [hf] at hsame
    cases hsame
    simp [hre] at hnew
  simp only [State.joinBody, hf, Option.isSome_some, if_true]
  rw [hf] at hno
  exact if_neg hno

theorem execFlaskJoin_accepts (hf : f = joinRecord k.pay) (hl : s.runner.ports.length = 32) (h : s.startsNow s1 c.val 0x50 i [] k)
    (hout : s.runner.flask = none) (hok : ∀ p ∈ f.live, transitOk s.ident.chipId.toNat p (f.port p) = true) :
    ∃ t, exec (.flaskJoin c) s = .next t ∧ t.runner.flask = some f ∧ t.ledger.flask = some f ∧ (t.entry i).state = .running
      ∧ (∀ p ∈ f.live, (t.rport p).Joins p (s.lport p).eye) ∧ ∀ p < 32, p ∉ f.live → (t.rport p).state = .dark := by
  subst hf
  obtain ⟨hrunner, hlight, hident⟩ := h.begun_links
  have hbody := State.joinBody_outside (u := s1.beginAttempt c.val i k) (by rw [hrunner, hout]) c.val i k
  rw [hident, if_pos (List.all_eq_true.mpr hok)] at hbody
  obtain ⟨hflask, hledger, hlive, hdark⟩ := State.acceptJoin_joins h.begun_kept (by rw [hrunner, hl]) c.val (joinRecord k.pay)
  refine ⟨_, (execFlaskJoin_starts h).trans (congrArg Host.Outcome.next hbody), hflask, by rw [hledger], ?_, fun p hp => ?_, hdark⟩
  · rw [State.entry, hledger]
    exact h.begins.state
  · have heye : ((s1.beginAttempt c.val i k).lport p).eye = (s.lport p).eye := by rw [State.lport, hlight, State.lport]
    rw [← heye]
    exact hlive p hp

theorem execFlaskJoin_transit (hf : f = joinRecord k.pay) (hp : p ∈ f.live) (h : s.startsNow s1 c.val 0x50 i [] k)
    (hout : s.runner.flask = none) (hbad : transitOk s.ident.chipId.toNat p (f.port p) = false) :
    ∃ t, exec (.flaskJoin c) s = .next t ∧ t.runsWith s c.val i k (some (refusedAt 0x0206 s.joinDetail)) ∧ t.runner = s.runner := by
  subst hf
  obtain ⟨hrunner, -, hident⟩ := h.begun_links
  have hbody := State.joinBody_outside (u := s1.beginAttempt c.val i k) (by rw [hrunner, hout]) c.val i k
  rw [hident, if_neg fun hall => by simp [List.all_eq_true.mp hall p hp] at hbad] at hbody
  exact h.refusesJoin _ hbody

theorem execFlaskJoin_inside {g : FlaskRecord} (hf : f = joinRecord k.pay) (h : s.startsNow s1 c.val 0x50 i [] k) (hin : s.runner.flask = some g)
    (hnew : g ≠ f ∨ ((s.entry i).replayed = false ∧ (s.entry i).state ≠ .running)) :
    ∃ t, exec (.flaskJoin c) s = .next t ∧ t.runsWith s c.val i k (some (refusedAt 0x0205 s.joinDetail)) ∧ t.runner = s.runner := by
  subst hf
  obtain ⟨hrunner, -, -⟩ := h.begun_links
  refine h.refusesJoin _ (State.joinBody_inside (by rw [hrunner, hin]) (hnew.imp_right ?_) c.val)
  rintro ⟨hfirst, hnot⟩
  rw [h.begun_replayed, hfirst, decide_eq_false hnot, Bool.or_false]

/-! ### FLASK_LEAVE -/

theorem State.leaveBody_inside {g : FlaskRecord} (h : u.runner.flask = some g) (d : Nat) :
    u.leaveBody d = (u.rejoined id none).staleKept.fix d (completed stOk g.flaskId.toNat .nothing) := by
  rw [State.leaveBody, h]
  rfl

theorem execFlaskLeave_leaves {g : FlaskRecord} (hl : s.runner.ports.length = 32) (h : s.startsNow s1 c.val 0x51 i [] k)
    (hin : s.runner.flask = some g) :
    ∃ t, exec (.flaskLeave c) s = .next t ∧ t.runsWith s c.val i k (some (completed stOk g.flaskId.toNat .nothing))
      ∧ t.runner.flask = none ∧ t.ledger.flask = none ∧ ∀ p < 32, (t.rport p).state = .dark := by
  obtain ⟨hrunner, -, -⟩ := h.begun_links
  have hexec : exec (.flaskLeave c) s = .next ((s1.beginAttempt c.val i k).leaveBody c.val) :=
    congrArg Host.Outcome.next ((h.resumeOr _ _).trans (h.startPour (needs := noNeeds) rfl _))
  have hleaves := State.rejoined_rejoins h.begun_kept id none
  rw [State.leaveBody_inside (by rw [hrunner, hin])] at hexec
  generalize (s1.beginAttempt c.val i k).rejoined id none = v at hexec hleaves
  have hlength : (s1.beginAttempt c.val i k).runner.ports.length = 32 := by rw [hrunner, hl]
  exact ⟨_, hexec, h.begins.fix (t := v.staleKept) (congrArg (Tab.get none · c.val) hleaves.running) (hleaves.entry i) _,
    hleaves.flask, hleaves.savedFlask, fun p hp => hleaves.dark p (by rwa [hlength])⟩

/-! ### MARGIN_TEST -/

/-- A payload that names one port. -/
theorem namedPorts_single {pay : Nat} (hp : p < 30) (h : pay % 2 ^ 30 = 2 ^ p) : ((List.range 30).filter fun j => pay.testBit j) = [p] := by
  have hbit : ∀ j ∈ List.range 30, pay.testBit j = decide (j = p) := by
    intro j hj
    have hlow := Nat.testBit_mod_two_pow pay 30 j
    rw [h, Nat.testBit_two_pow, decide_eq_true (List.mem_range.mp hj), Bool.true_and, Bool.decide_congr eq_comm] at hlow
    exact hlow.symm
  rw [List.filter_congr hbit, List.filter_eq, List.count_range]
  simp [hp]

theorem portMask_single (p : Nat) : portMask [p] = 2 ^ p := by simp [portMask]

/-- A pour that still waits for a port goes on. -/
theorem State.settleWait_waits {d : Nat} {r : Running} (hr : s.runningOf d = some r) (hw : r.waiting ≠ 0) : s.settleWait d = s := by
  unfold State.settleWait
  rw [hr]
  exact if_neg fun h => hw h.1

theorem State.testPort_trains {lp : Nat} (hq : q = s.testedPort lp) (hlit : (s.rport q).state ≠ .dark) (heye : (s.lport q).eye ≠ .shut) (d : Nat) :
    s.testPort d lp = s.startTraining q lp := by
  subst hq
  rw [State.testPort, if_neg hlit, if_neg heye]

theorem execMarginTest_trains (hl : s.runner.ports.length = 32) (h : s.startsNow s1 c.val 0x52 i [] k) (hp : p < 30)
    (hpay : k.pay % 2 ^ 30 = 2 ^ p) (hq : q = s.testedPort p) (hq32 : q < 32) (hlit : (s.rport q).state ≠ .dark) (heye : (s.lport q).eye ≠ .shut) :
    ∃ t, exec (.marginTest c) s = .next t ∧ t.runsWith s c.val i k none ∧ (t.rport q).state = .training ∧ (t.rport q).stage = 1
      ∧ (t.rport q).standsFor = BitVec.ofNat 5 p ∧ ∀ j, j ≠ q → t.rport j = s.rport j := by
  obtain ⟨hrunner, hlight, -⟩ := h.begun_links
  obtain ⟨u, hu⟩ : ∃ u, u = (s1.beginAttempt c.val i k).updRunning c.val fun r => { r with waiting := BitVec.ofNat 32 (portMask [p]) } := ⟨_, rfl⟩
  have hur : u.runner = s.runner := by rw [hu]; exact hrunner
  have hport (j : Nat) : u.rport j = s.rport j := by rw [State.rport, hur, State.rport]
  have heye' : (u.lport q).eye = (s.lport q).eye := by
    rw [State.lport, show u.light = s.light by rw [hu]; exact hlight, State.lport]
  have htest : u.testPort c.val p = u.startTraining q p :=
    State.testPort_trains (hq.trans (State.testedPort_congr hur p).symm) (by rwa [hport]) (by rwa [heye']) c.val
  have hchanges := u.startTraining_changesPorts q p
  have htrains := State.rport_startTraining (s := u) (p := q) (by rw [hur, hl]; exact hq32) p
  have hrun : (u.startTraining q p).runningOf c.val
      = some ⟨i, k, opClass k.opcode, none, none, BitVec.ofNat 32 (portMask [p]), [], [], none⟩ := by
    rw [State.runningOf, State.running_startTraining, hu]
    refine (State.runningOf_updRunning ..).trans ?_
    rw [h.begins.running, Option.map_some]
  have hwaits : BitVec.ofNat 32 (portMask [p]) ≠ 0 := by
    have hlt : 2 ^ p < 2 ^ 32 := Nat.pow_lt_pow_right (by omega) (by omega)
    have hpos : 0 < 2 ^ p := Nat.two_pow_pos p
    rw [portMask_single]
    intro hzero
    have hnat := congrArg BitVec.toNat hzero
    rw [BitVec.toNat_ofNat, Nat.mod_eq_of_lt hlt] at hnat
    exact hpos.ne' hnat
  have hexec : exec (.marginTest c) s = .next (u.startTraining q p) := by
    refine congrArg Host.Outcome.next ((h.resumeOr _ _).trans ((h.startPour (needs := noNeeds) rfl _).trans ?_))
    rw [State.marginBody, namedPorts_single hp hpay, List.foldl_cons, List.foldl_nil, ← hu, htest, State.settleWait_waits hrun hwaits]
  refine ⟨_, hexec, h.begins.runsWith ?_ hrun rfl rfl rfl, ?_, ?_, ?_, fun j hj => ?_⟩
  · rw [State.entry, hchanges.ledger, hu]
    rfl
  · rw [htrains]; rfl
  · rw [htrains]; rfl
  · rw [htrains]; rfl
  · rw [hchanges.other j (by simpa using hj), hport]

end Sys2Proof.Machine

namespace Sys2Proof.Machine

/-- Settles O46: a join that is accepted darkens every port, enters the flask and opens its live ports one by one; a refused one fixes its
outcome where the attempt has begun; a leave darkens every port; a margin test of one port trains it again and waits. -/
theorem flaskPours : Obligations.FlaskPours := by
  unfold Obligations.FlaskPours
  intro c s s1 i k f hf hl
  refine ⟨fun h hout hok => ?_, fun p hp h hout hbad => execFlaskJoin_transit hf hp h hout hbad,
    fun g h hin hnew => execFlaskJoin_inside hf h hin hnew, fun g h hin => execFlaskLeave_leaves hl h hin,
    fun p q h hp hpay hq hq32 hlit heye => execMarginTest_trains hl h hp hpay hq hq32 hlit heye⟩
  obtain ⟨t, hexec, hflask, hsaved, hstate, hlive, hdark⟩ := execFlaskJoin_accepts hf hl h hout hok
  exact ⟨t, hexec, hflask, hsaved, hstate, fun p hp => (hlive p hp).trains, fun p hp => (hlive p hp).fails, hdark⟩

end Sys2Proof.Machine
end

section
/-! SUPPORT. What neither a report nor a refusal nor the faults handled after a pour change: the standing of the Riser's copies, the running
pours and the memory (R10, R213, R386). -/

namespace Sys2Proof.Machine

variable {s t u : State}

/-- The standing of the Riser's copies, the running pours, whether no attempt of a RUN runs, the bound packets and the memory. -/
structure Footing where
  lost    : Bool
  failed  : BitVec 4
  state0  : CopyHealth
  state1  : CopyHealth
  running : Tab (Option Running)
  idle    : Bool
  bound   : List Bound
  mem     : Mem

def State.footing (s : State) : Footing where
  lost := s.riser.lost
  failed := s.riser.failed
  state0 := s.riser.copy0.state
  state1 := s.riser.copy1.state
  running := s.running
  idle := s.run.isNone
  bound := s.intake.bound
  mem := s.mem

/-- A copy's state is on the footing by its number. -/
theorem State.copy_of_footing (h : t.footing = s.footing) (n : Fin 2) : (t.riser.copy n).state = (s.riser.copy n).state := by
  unfold Riser.copy
  split
  · exact congrArg Footing.state0 h
  · exact congrArg Footing.state1 h

theorem State.otherCopy_of_footing (h : t.footing = s.footing) (n : Fin 2) : (t.riser.otherCopy n).state = (s.riser.otherCopy n).state := by
  unfold Riser.otherCopy
  split
  · exact congrArg Footing.state1 h
  · exact congrArg Footing.state0 h

/-- A fold keeps the footing when each of its steps does. -/
theorem State.footing_foldl {α : Type} {f : State → α → State} (hf : ∀ s a, (f s a).footing = s.footing) (l : List α) (s : State) :
    (l.foldl f s).footing = s.footing := by
  induction l generalizing s with
  | nil => rfl
  | cons a l ih => exact (ih _).trans (hf s a)

/-- A step that is taken or not keeps the footing when it does where it is taken. -/
theorem State.footing_ite {c : Prop} [Decidable c] (h : t.footing = s.footing) : (if c then t else s).footing = s.footing := by
  split
  · exact h
  · rfl

/-! ### Lines and records -/

/-- The state of a copy stays when a line is written to it once no copy is left. -/
theorem RiserCopy.writeLost_state (c : RiserCopy) (l : RLine) (f : Ledger → Ledger) : (c.writeLost l f).state = c.state := by
  unfold RiserCopy.writeLost
  split <;> rfl

theorem State.footing_updLedger (s : State) (l : RLine) (f : Ledger → Ledger) : (s.updLedger l f).footing = s.footing := by
  unfold State.updLedger Riser.put State.footing
  split
  · simp [RiserCopy.writeLost_state]
  · simp [RiserCopy.write_state_die]

theorem State.footing_noteChan (s : State) (c : Nat) (f : ChanRec → ChanRec) : (s.noteChan c f).footing = s.footing := by
  cases h : s.riser.lost with
  | true => simp [State.noteChan, State.footing, h]
  | false =>
    simp only [State.footing, State.noteChan_riser h, RiserCopy.note_state_die]
    rfl

/-! ### Reports -/

theorem State.footing_updPort (s : State) (p : HostPort) (f : HostPortState → HostPortState) : (s.updPort p f).footing = s.footing := by
  cases p <;> rfl

theorem State.footing_updVchan (s : State) (c : Nat) (f : Chan → Chan) : (s.updVchan c f).footing = s.footing := rfl
theorem State.footing_count (s : State) (o k : Nat) : (s.count o k).footing = s.footing := rfl
theorem State.footing_bwCount (s : State) (u : Nat) (b : Bool) (k : Nat) : (s.bwCount u b k).footing = s.footing := rfl
theorem State.footing_linesDone (s : State) : s.linesDone.footing = s.footing := rfl
theorem State.footing_updCl (s : State) (g : Nat) (f : Cluster → Cluster) : (s.updCl g f).footing = s.footing := rfl

theorem State.footing_msix (s : State) (p : HostPort) (v : Nat) : (s.msix p v).footing = s.footing := by
  unfold State.msix
  split <;> exact State.footing_updPort ..

theorem State.footing_hostWrite (s : State) (p : HostPort) (a : Word64) (bs : List Byte) : (s.hostWrite p a bs).footing = s.footing :=
  (State.footing_bwCount ..).trans ((State.footing_count ..).trans (State.footing_updPort ..))

theorem State.footing_logStatus (s : State) (st : BitVec 16) (x i a : Nat) (l : Bool) (p : Option (Nat × Word64)) :
    (s.logStatus st x i a l p).footing = s.footing :=
  (State.footing_msix ..).trans ((State.footing_msix ..).trans rfl)

theorem State.footing_addLocal (s : State) (k : Nat) : (s.addLocal k).footing = s.footing := by
  unfold State.addLocal
  dsimp only
  split
  · exact State.footing_updLedger ..
  · rfl

/-! ### Refusals (R196, R213) -/

theorem State.footing_writeReply (s : State) (c : Nat) (r : Reply) : (s.writeReply c r).footing = s.footing := by
  have hput : (s.putReply (s.chan c).owner c r).footing = s.footing :=
    (State.footing_updVchan ..).trans ((State.footing_count ..).trans ((State.footing_hostWrite ..).trans (State.footing_linesDone s)))
  have hnote : ((s.putReply (s.chan c).owner c r).noteReplied c r).footing = s.footing :=
    (State.footing_ite (State.footing_noteChan ..)).trans hput
  rw [State.writeReply_eq]
  split
  · exact (State.footing_msix ..).trans hnote
  · exact hnote

theorem State.footing_pumpReply (s : State) (c : Nat) : (s.pumpReply c).footing = s.footing := by
  unfold State.pumpReply
  split
  · rfl
  · exact State.footing_ite (State.footing_writeReply ..)

theorem State.footing_pumpReplies (n c : Nat) (s : State) : (State.pumpReplies n c s).footing = s.footing := by
  induction n generalizing s with
  | zero => rfl
  | succ n ih => exact (ih _).trans (State.footing_pumpReply s c)

theorem State.footing_flushPort (s : State) (p : HostPort) : (s.flushPort p).footing = s.footing := by
  have hlate : (s.sendLate p).footing = s.footing := by
    refine (State.footing_foldl (fun s e => ?_) _ _).trans (State.footing_updPort s p _)
    have hwrite : ((s.hostWrite p e.1 e.2.1).count (ctrHost p.toNat 3) 1).footing = s.footing :=
      (State.footing_count ..).trans (State.footing_hostWrite ..)
    dsimp only
    split
    · exact (State.footing_msix ..).trans hwrite
    · exact hwrite
  have hreplies (s : State) : (s.sendReplies p).footing = s.footing :=
    State.footing_foldl (fun _ _ => State.footing_ite (State.footing_pumpReplies ..)) _ _
  have hpending (s : State) : (s.sendPending p).footing = s.footing :=
    (State.footing_foldl (fun _ _ => State.footing_ite (State.footing_msix ..)) _ _).trans (State.footing_updPort ..)
  rw [State.flushPort_eq]
  exact State.footing_ite ((hpending _).trans ((hreplies _).trans hlate))

theorem State.footing_routeRefusal (s : State) (k : Packet) (st : BitVec 16) : (s.routeRefusal k st).footing = s.footing := by
  have hqueue (v : Chan → Chan) : (s.updVchan k.chan v).footing = s.footing := State.footing_updVchan ..
  unfold State.routeRefusal
  dsimp only
  split
  · exact State.footing_ite ((State.footing_flushPort ..).trans (State.footing_updPort ..))
  · refine State.footing_ite ?_
    split <;> exact hqueue _

theorem State.footing_answerDuplicate (s : State) (k : Packet) : (s.answerDuplicate k).footing = s.footing := by
  unfold State.answerDuplicate
  dsimp only
  split
  · split <;> rfl
  · rfl

theorem State.footing_refuse (s : State) (k : Packet) (st : BitVec 16) : (s.refuse k st).footing = s.footing := by
  have hfree (u : State) : (u.freeBuffer k.buffer).footing = u.footing := by
    rcases k.buffer with _ | _ | _ <;> rfl
  have hrecord : (s.recordRefusal k st).footing = s.footing := rfl
  rw [State.refuse_eq, hfree]
  split
  · exact (State.footing_answerDuplicate ..).trans hrecord
  · exact (State.footing_routeRefusal ..).trans hrecord

/-! ### The faults handled once a pour is over (R10 to R12) -/

theorem State.footing_retire (s : State) (die : Bool) (pos : Nat) : (s.retire die pos).footing = s.footing :=
  (State.footing_addLocal ..).trans (State.footing_updLedger s ..)

theorem State.footing_retireWaiting (s : State) : s.retireWaiting.footing = s.footing :=
  State.footing_foldl (fun t (w : WaitingFault) => State.footing_retire t (onB1 w.g) w.pos) _ s

/-- A cluster that no spare is left for faults an attempt that runs, and starts none. -/
theorem State.footing_unmap (s : State) (g : Nat) (st : BitVec 16) (ended : Bool) : (s.unmap g st ended).footing = s.footing := by
  unfold State.unmap
  dsimp only
  split
  · simp [State.footing]
  · rfl

theorem State.footing_startSpare (n : Nat) (die : Bool) (s : State) : (State.startSpare n die s).footing = s.footing := by
  induction n generalizing s with
  | zero => rfl
  | succ n ih =>
    unfold State.startSpare
    split
    · rfl
    · split
      · rfl
      · split
        · next w _ _ _ => exact (ih _).trans (State.footing_unmap s w.g w.status w.ended)
        · rfl

theorem State.footing_pourOver (s : State) : s.pourOver.footing = s.footing :=
  (State.footing_startSpare ..).trans ((State.footing_startSpare ..).trans (State.footing_retireWaiting _))

theorem State.footing_markEnded (s : State) (p : Pattern) : (s.markEnded p).footing = s.footing :=
  State.footing_foldl (fun t g => State.footing_updCl t g fun c => { c with gate := { c.gate with ended := some t.cnt.regs.time.toNat } }) _ _

/-! ### The RISER_LOST state (R256) -/

/-- A footing with every pour stopped and no packet bound. -/
def Footing.stopped (f : Footing) : Footing := { f with running := [], idle := true, bound := [] }

/-- As the RISER_LOST state begins, every pour stops and every bound packet is refused; the copies and the memory stand. -/
theorem State.footing_loseRiser (s : State) : s.loseRiser.footing = s.footing.stopped := by
  unfold State.loseRiser
  extract_lets open_ proven unknown bound u v _ _ _ w
  have hu : u.footing = s.footing := by
    dsimp only [u]
    split
    · exact State.footing_markEnded ..
    · rfl
  have hw : w.footing = u.footing.stopped := rfl
  rw [State.footing_pourOver, State.footing_foldl (fun t (b : Bound) => State.footing_refuse t b.packet stRiserLost), hw, hu]

end Sys2Proof.Machine
end

section
/-! SUPPORT. A copy of the Riser lost, rebuilt and back in service, and the takeover of the standby Sprue (R247, R255, R256, R259). -/

namespace Sys2Proof.Machine

variable {s t u : State} {r : Riser} {n : Fin 2} {line : Option RLine}

/-! ### Copies by their numbers -/

theorem Riser.copy_sub (r : Riser) (n : Fin 2) : r.copy (1 - n) = r.otherCopy n := by
  fin_cases n <;> rfl

theorem Riser.otherCopy_sub (r : Riser) (n : Fin 2) : r.otherCopy (1 - n) = r.copy n := by
  fin_cases n <;> rfl

/-- Of the two copies one is a copy by its number, and the other the other. -/
theorem Riser.copies_cases (r : Riser) (n : Fin 2) :
    (r.copy n = r.copy0 ∧ r.otherCopy n = r.copy1) ∨ (r.copy n = r.copy1 ∧ r.otherCopy n = r.copy0) := by
  fin_cases n
  · exact .inl ⟨rfl, rfl⟩
  · exact .inr ⟨rfl, rfl⟩

/-- The dies of the copies differ by either numbering. -/
theorem Riser.die_eq_iff (r : Riser) (n : Fin 2) : (r.otherCopy n).die = (r.copy n).die ↔ r.copy0.die = r.copy1.die := by
  rcases r.copies_cases n with ⟨h, h'⟩ | ⟨h, h'⟩
  · rw [h, h']
    exact eq_comm
  · rw [h, h']

/-- With both copies in service each is, by its number. -/
theorem Riser.inService_by_number (h0 : r.copy0.state = .inService) (h1 : r.copy1.state = .inService) (n : Fin 2) :
    (r.copy n).state = .inService ∧ (r.otherCopy n).state = .inService := by
  rcases r.copies_cases n with ⟨h, h'⟩ | ⟨h, h'⟩
  · rw [h, h']
    exact ⟨h0, h1⟩
  · rw [h, h']
    exact ⟨h1, h0⟩

theorem Riser.exists_inService_iff (r : Riser) (n : Fin 2) :
    (r.copy0.state = .inService ∨ r.copy1.state = .inService)
      ↔ (r.copy n).state = .inService ∨ (r.otherCopy n).state = .inService := by
  rcases r.copies_cases n with ⟨h, h'⟩ | ⟨h, h'⟩
  · rw [h, h']
  · rw [h, h']
    exact Or.comm

/-! ### One copy lost, and its rebuild (R255) -/

/-- A copy that is lost leaves the other as it is. -/
theorem Riser.loseCopy_spec (r : Riser) (line : Option RLine) (n : Fin 2) :
    ((r.loseCopy line n).copy n).state = .lost ∧ ((r.loseCopy line n).copy n).die = (r.copy n).die
      ∧ (r.loseCopy line n).otherCopy n = r.otherCopy n ∧ (r.loseCopy line n).lost = r.lost := by
  fin_cases n <;> exact ⟨rfl, rfl, rfl, rfl⟩

/-- The regions that count as failed with a copy: that of the line, or both of its die. -/
theorem Riser.loseCopy_failed (r : Riser) (line : Option RLine) (n : Fin 2) :
    (r.loseCopy line n).failed = r.failed ||| (match line with
      | some _ => 1#4 <<< mramRegion (r.copy n).die (r.copy n).spare
      | none => 3#4 <<< mramRegion (r.copy n).die false) := by
  fin_cases n <;> rfl

/-- The spare region of a die may take copy `n`: it has not failed, and the other copy does not lie in it. -/
def Riser.spareFree (r : Riser) (n : Fin 2) (d : Bool) : Bool :=
  !r.failed.getLsbD (mramRegion d true) && !((r.otherCopy n).die == d && (r.otherCopy n).spare)

/-- The die in whose spare region copy `n` is rebuilt: its own, if that is free, else the other. -/
def Riser.rebuildDie (r : Riser) (n : Fin 2) : Option Bool :=
  if r.spareFree n (r.copy n).die then some (r.copy n).die
  else if r.spareFree n (!(r.copy n).die) then some (!(r.copy n).die) else none

/-- The Riser with the rebuild of copy `n` started in the spare region of a die. -/
def Riser.rebuildOn (r : Riser) (n : Fin 2) (now : Word64) (die : Bool) : Riser :=
  { r.setCopy n { r.copy n with state := .rebuilding, die := die, spare := true } with rebuildAt := now }

theorem Riser.startRebuild_eq (r : Riser) (n : Fin 2) (now : Word64) :
    r.startRebuild n now = ((r.rebuildDie n).map (r.rebuildOn n now)).getD r := by
  have hmatch : r.startRebuild n now = match r.rebuildDie n with
    | some die => r.rebuildOn n now die
    | none => r := rfl
  rw [hmatch]
  cases r.rebuildDie n <;> rfl

/-- A rebuild leaves the other copy, the failed regions and RISER_LOST. -/
theorem Riser.rebuildOn_spec (r : Riser) (n : Fin 2) (now : Word64) (die : Bool) :
    ((r.rebuildOn n now die).copy n).state = .rebuilding ∧ (r.rebuildOn n now die).otherCopy n = r.otherCopy n
      ∧ (r.rebuildOn n now die).failed = r.failed ∧ (r.rebuildOn n now die).lost = r.lost := by
  fin_cases n <;> exact ⟨rfl, rfl, rfl, rfl⟩

/-- A copy that is lost is rebuilt where a spare region is free, and stays lost elsewhere; all else stands. -/
theorem Riser.startRebuild_spec (h : (r.copy n).state = .lost) (now : Word64) :
    ((r.startRebuild n now).copy n).state
        = (if r.spareFree n (r.copy n).die || r.spareFree n (!(r.copy n).die) then .rebuilding else .lost)
      ∧ (r.startRebuild n now).otherCopy n = r.otherCopy n ∧ (r.startRebuild n now).failed = r.failed
      ∧ (r.startRebuild n now).lost = r.lost := by
  rw [Riser.startRebuild_eq, Riser.rebuildDie]
  by_cases hown : r.spareFree n (r.copy n).die = true
  · simpa [hown] using r.rebuildOn_spec n now (r.copy n).die
  · by_cases hother : r.spareFree n (!(r.copy n).die) = true
    · simpa [hown, hother] using r.rebuildOn_spec n now (!(r.copy n).die)
    · simpa [hown, hother] using h

/-! ### The log's sequence number -/

theorem State.msix_err (s : State) (p : HostPort) (v : Nat) : (s.msix p v).err = s.err := by
  unfold State.msix
  split <;> cases p <;> rfl

theorem State.logStatus_seq (s : State) (st : BitVec 16) (x i a : Nat) (l : Bool) (p : Option (Nat × Word64)) :
    (s.logStatus st x i a l p).err.seq = s.err.seq + 1 := by
  have herr : (s.logStatus st x i a l p).err = _ := (State.msix_err ..).trans (State.msix_err ..)
  rw [herr]

theorem State.addLocal_seq (s : State) (k : Nat) : (s.addLocal k).err.seq = s.err.seq := by
  unfold State.addLocal
  dsimp only
  split <;> rfl

/-! ### RISER_WRITE_FAIL -/

theorem execRiserWriteFail_notDue (h : s.clocked = false ∨ s.riser.lost = true ∨ (s.riser.copy n).state = .lost) :
    exec (.riserWriteFail n line) s = .next s :=
  if_pos (by simpa using h)

/-- A copy that is lost is logged and charged (R255). -/
def State.mirrorLost (s : State) (n : Fin 2) : State := (s.logStatus stMirrorLost unitRiser n.val 0 false none).addLocal 300

theorem State.footing_mirrorLost (s : State) (n : Fin 2) : (s.mirrorLost n).footing = s.footing :=
  (State.footing_addLocal ..).trans (State.footing_logStatus ..)

theorem State.books_mirrorLost (s : State) (n : Fin 2) : (s.mirrorLost n).books = s.books :=
  (State.books_addLocal ..).trans (State.books_logStatus ..)

theorem State.mirrorLost_seq (s : State) (n : Fin 2) : (s.mirrorLost n).err.seq = s.err.seq + 1 :=
  (State.addLocal_seq ..).trans (State.logStatus_seq ..)

theorem State.mirrorLost_run (s : State) (n : Fin 2) : (s.mirrorLost n).run = s.run :=
  ((State.logStatus_accounts ..).trans (State.addLocal_accounts ..)).run

/-- The copies that a failed write loses: its own, and with the whole MRAM of a die the other one there (R255). -/
def Riser.downed (r : Riser) (n : Fin 2) (line : Option RLine) : List (Fin 2) :=
  n :: if decide (line = none ∧ (r.copy (1 - n)).state ≠ .lost ∧ (r.copy (1 - n)).die = (r.copy n).die) then [1 - n] else []

/-- Copies lost one after the other. -/
def Riser.loseAll (r : Riser) (line : Option RLine) (ms : List (Fin 2)) : Riser := ms.foldl (fun r m => r.loseCopy line m) r

theorem Riser.loseAll_one (r : Riser) (line : Option RLine) (n : Fin 2) : r.loseAll line [n] = r.loseCopy line n := rfl

/-- Copies that are lost put into rebuild where they can be. -/
def Riser.rebuildAll (r : Riser) (ms : List (Fin 2)) (now : Word64) : Riser := ms.foldl (fun r m => r.startRebuild m now) r

/-- The Riser as the last copy in service is lost. -/
def Riser.lostWith (r : Riser) (now : Word64) (work : Ledger) : Riser := { r.cutRebuild now with lost := true, work := work }

/-- The state once a write has failed and the copies `ms` are lost; `r`: the Riser then; `left`: a copy stays in service. -/
def State.writeFailed (s : State) (n : Fin 2) (ms : List (Fin 2)) (r : Riser) (left : Bool) : State :=
  let t := ms.foldl State.mirrorLost
    { s with riser := if left then r.rebuildAll ms s.cnt.regs.time else r.lostWith s.cnt.regs.time s.ledger }
  if left then t else (t.logStatus stRiserLost unitRiser n.val 0 false none).loseRiser

theorem execRiserWriteFail_acts (hc : s.clocked = true) (hl : s.riser.lost = false) (hn : (s.riser.copy n).state ≠ .lost) :
    exec (.riserWriteFail n line) s = .next (s.writeFailed n (s.riser.downed n line) (s.riser.loseAll line (s.riser.downed n line))
      (decide ((s.riser.loseAll line (s.riser.downed n line)).copy0.state = .inService
        ∨ (s.riser.loseAll line (s.riser.downed n line)).copy1.state = .inService))) := by
  have hguard : ¬((!s.clocked) = true ∨ s.riser.lost = true ∨ (s.riser.copy n).state = .lost) := by simp [hc, hl, hn]
  exact (if_neg hguard).trans rfl

/-- A failed write of the MRAM of a die, `line` being none, takes the other copy with it that lies there and is not lost already. -/
theorem Riser.downed_eq (r : Riser) (n : Fin 2) (line : Option RLine) :
    r.downed n line = n :: if line = none ∧ (r.otherCopy n).state ≠ .lost ∧ r.copy0.die = r.copy1.die then [1 - n] else [] := by
  simp only [Riser.downed, Riser.copy_sub, Riser.die_eq_iff, decide_eq_true_eq]

/-- A write of a line fails one copy alone, and so does a die's MRAM that does not hold both. -/
theorem Riser.downed_one (h : line ≠ none ∨ r.copy0.die ≠ r.copy1.die) : r.downed n line = [n] := by
  rw [Riser.downed_eq, if_neg (by tauto)]

/-- Where the other copy is in service and this one is not, reads come from the other. -/
theorem Riser.current_eq_otherCopy (hn : (r.copy n).state ≠ .inService) (ho : (r.otherCopy n).state = .inService) (b : Bool) :
    r.current b = r.otherCopy n := by
  unfold Riser.current
  rcases r.copies_cases n with ⟨h, h'⟩ | ⟨h, h'⟩
  · rw [h] at hn
    rw [h'] at ho ⊢
    simp [hn, ho]
  · rw [h] at hn
    rw [h'] at ho ⊢
    simp [hn, ho]

/-- The Riser as copy `n` alone is lost. -/
def Riser.rebuilt (r : Riser) (line : Option RLine) (n : Fin 2) (now : Word64) : Riser := (r.loseCopy line n).startRebuild n now

theorem Riser.rebuilt_spec (r : Riser) (line : Option RLine) (n : Fin 2) (now : Word64) :
    (r.rebuilt line n now).failed = (r.loseCopy line n).failed ∧ (r.rebuilt line n now).lost = r.lost
      ∧ (r.rebuilt line n now).otherCopy n = r.otherCopy n
      ∧ ((r.rebuilt line n now).copy n).state
        = if (r.loseCopy line n).spareFree n (r.copy n).die || (r.loseCopy line n).spareFree n (!(r.copy n).die) then .rebuilding
          else .lost := by
  obtain ⟨hstate, hdie, hother, hlost⟩ := r.loseCopy_spec line n
  obtain ⟨hrebuild, hother', hfailed, hlost'⟩ := Riser.startRebuild_spec hstate now
  rw [hdie] at hrebuild
  exact ⟨hfailed, hlost'.trans hlost, hother'.trans hother, hrebuild⟩

/-- One of two equal copies in service lost: the other stays, and the ledger reads as before. -/
theorem execRiserWriteFail_rebuilds (hl : s.riser.lost = false) (h0 : s.riser.copy0.state = .inService)
    (h1 : s.riser.copy1.state = .inService) (heq : s.riser.copy0.data = s.riser.copy1.data) (hc : s.clocked = true)
    (hone : line ≠ none ∨ s.riser.copy0.die ≠ s.riser.copy1.die) :
    ∃ t, exec (.riserWriteFail n line) s = .next t
      ∧ t.footing = State.footing { s with riser := s.riser.rebuilt line n s.cnt.regs.time } ∧ t.err.seq = s.err.seq + 1
      ∧ (∀ i, t.entry i = s.entry i) ∧ (∀ c, t.chan c = s.chan c) ∧ t.run = s.run := by
  have hboth := Riser.inService_by_number h0 h1 n
  obtain ⟨-, hlost, hother, hcopy⟩ := s.riser.rebuilt_spec line n s.cnt.regs.time
  have hacts := execRiserWriteFail_acts (line := line) hc hl (n := n) (by simp [hboth.1])
  have hleft : (s.riser.loseCopy line n).copy0.state = .inService ∨ (s.riser.loseCopy line n).copy1.state = .inService := by
    rw [Riser.exists_inService_iff _ n, (s.riser.loseCopy_spec line n).2.2.1]
    exact .inr hboth.2
  rw [Riser.downed_one hone, Riser.loseAll_one, decide_eq_true hleft] at hacts
  have hread : State.ledger { s with riser := s.riser.rebuilt line n s.cnt.regs.time } = s.ledger := by
    have hdata : (s.riser.otherCopy n).data = s.riser.copy0.data := by
      rcases s.riser.copies_cases n with ⟨-, h'⟩ | ⟨-, h'⟩
      · rw [h', heq]
      · rw [h']
    rw [State.ledger_of_copies hl rfl heq.symm, ← hdata, State.ledger, hlost, hl, if_neg Bool.false_ne_true,
      Riser.current_eq_otherCopy (n := n) (by rw [hcopy]; split <;> simp) (by rw [hother, hboth.2]), hother]
  have hbooks := State.books_mirrorLost { s with riser := s.riser.rebuilt line n s.cnt.regs.time } n
  refine ⟨_, hacts, State.footing_mirrorLost .., ?_, fun i => ?_, fun c => ?_, ?_⟩
  · exact State.mirrorLost_seq { s with riser := s.riser.rebuilt line n s.cnt.regs.time } n
  · refine (State.entry_of_books hbooks i).trans ?_
    rw [State.entry, hread, State.entry]
  · refine (State.chan_of_books hbooks c).trans ?_
    rw [State.chan, hread, State.chan]
  · exact State.mirrorLost_run { s with riser := s.riser.rebuilt line n s.cnt.regs.time } n

/-! ### The last copy in service lost (R256) -/

/-- Where the other copy is not in service, or is lost with the die's MRAM, none stays in service. -/
theorem Riser.loseAll_none (h : (r.otherCopy n).state ≠ .inService ∨ line = none ∧ r.copy0.die = r.copy1.die) :
    ((r.loseAll line (r.downed n line)).copy n).state = .lost
      ∧ ((r.loseAll line (r.downed n line)).otherCopy n).state ≠ .inService := by
  obtain ⟨hstate, -, hother, -⟩ := r.loseCopy_spec line n
  rw [Riser.downed_eq]
  by_cases hboth : line = none ∧ (r.otherCopy n).state ≠ .lost ∧ r.copy0.die = r.copy1.die
  · obtain ⟨hstate', -, hother', -⟩ := (r.loseCopy line n).loseCopy_spec line (1 - n)
    have htwo : r.loseAll line [n, 1 - n] = (r.loseCopy line n).loseCopy line (1 - n) := rfl
    rw [if_pos hboth, htwo]
    constructor
    · rw [← Riser.otherCopy_sub, hother', Riser.otherCopy_sub, hstate]
    · rw [← Riser.copy_sub, hstate']
      decide
  · rw [if_neg hboth, Riser.loseAll_one, hother]
    refine ⟨hstate, fun hin => hboth ?_⟩
    obtain hout | ⟨hline, hdie⟩ := h
    · exact absurd hin hout
    · exact ⟨hline, by simp [hin], hdie⟩

/-- A copy that is not in service reads lost once no copy is: a rebuild under way is cut off (log entry 35). -/
theorem Riser.lostWith_states (h0 : r.copy0.state ≠ .inService) (h1 : r.copy1.state ≠ .inService) (now : Word64) (work : Ledger) :
    (r.lostWith now work).copy0.state = .lost ∧ (r.lostWith now work).copy1.state = .lost := by
  have hcut (c : RiserCopy) (l : Ledger) (b : List RLine) (k : Nat) (h : c.state ≠ .inService) :
      (if c.state = .rebuilding then { c with state := .lost, data := l, bad := b, held := k } else c).state = .lost := by
    cases hs : c.state with
    | inService => exact absurd hs h
    | lost => simp [hs]
    | rebuilding => simp
  exact ⟨hcut _ _ _ _ h0, hcut _ _ _ _ h1⟩

/-- With no other copy left in service the RISER_LOST state holds, no pour runs and none is bound. -/
theorem execRiserWriteFail_loses (hl : s.riser.lost = false) (hc : s.clocked = true) (hn : (s.riser.copy n).state = .inService)
    (hlast : (s.riser.otherCopy n).state ≠ .inService ∨ line = none ∧ s.riser.copy0.die = s.riser.copy1.die) :
    ∃ t, exec (.riserWriteFail n line) s = .next t ∧ t.riser.lost = true ∧ t.riser.copy0.state = .lost
      ∧ t.riser.copy1.state = .lost ∧ t.running = [] ∧ t.run = none ∧ t.intake.bound = [] ∧ t.mem = s.mem := by
  have hacts := execRiserWriteFail_acts (line := line) hc hl (n := n) (by simp [hn])
  obtain ⟨hcopy, hother⟩ := Riser.loseAll_none hlast
  generalize s.riser.loseAll line (s.riser.downed n line) = r at hacts hcopy hother
  have hnone : ¬(r.copy0.state = .inService ∨ r.copy1.state = .inService) := by
    rw [Riser.exists_inService_iff r n, hcopy]
    simp [hother]
  obtain ⟨h0, h1⟩ := not_or.mp hnone
  obtain ⟨hlost0, hlost1⟩ := Riser.lostWith_states h0 h1 s.cnt.regs.time s.ledger
  rw [decide_eq_false hnone] at hacts
  have hfooting : (s.writeFailed n (s.riser.downed n line) r false).footing
      = (State.footing { s with riser := r.lostWith s.cnt.regs.time s.ledger }).stopped :=
    (State.footing_loseRiser _).trans
      (congrArg Footing.stopped ((State.footing_logStatus ..).trans (State.footing_foldl State.footing_mirrorLost _ _)))
  exact ⟨_, hacts, congrArg Footing.lost hfooting, (congrArg Footing.state0 hfooting).trans hlost0,
    (congrArg Footing.state1 hfooting).trans hlost1, congrArg Footing.running hfooting,
    Option.isNone_iff_eq_none.mp (congrArg Footing.idle hfooting), congrArg Footing.bound hfooting, congrArg Footing.mem hfooting⟩

/-! ### RISER_REBUILD_DONE and the Sprues -/

/-- The copy that was rebuilt is whole, and in service again (R255, R259). -/
theorem execRiserRebuildDone_returns (hc : s.clocked = true) (hn : (s.riser.copy n).state = .rebuilding)
    (ho : (s.riser.otherCopy n).state = .inService) :
    ∃ t, exec .riserRebuildDone s = .next t
      ∧ t.riser.copy n = RiserCopy.whole (s.riser.copy n).die (s.riser.copy n).spare (s.riser.otherCopy n).data
      ∧ t.riser.otherCopy n = s.riser.otherCopy n ∧ t.riser.writes = (s.riser.copy n).countWrites 2048 s.riser.writes := by
  have hexec : exec .riserRebuildDone s = execRiserRebuildDone s := rfl
  rw [hexec, execRiserRebuildDone]
  match n with
  | 0 =>
    have h0 : s.riser.copy0.state = .rebuilding := hn
    simp only [hc, h0, Bool.not_true, Bool.false_eq_true, if_false, if_true]
    exact ⟨_, rfl, rfl, rfl, rfl⟩
  | 1 =>
    have h1 : s.riser.copy1.state = .rebuilding := hn
    have h0 : s.riser.copy0.state = .inService := ho
    simp only [hc, h0, h1, Bool.not_true, Bool.false_eq_true, if_false, if_true, reduceCtorEq]
    exact ⟨_, rfl, rfl, rfl, rfl⟩

theorem execRiserRebuildDone_notClocked (hc : s.clocked = false) : exec .riserRebuildDone s = .next s :=
  if_pos (by simp [hc])

/-- The standby serves with the state as it is (R247). -/
theorem execSprueTakeover_serves (hs : s.sprue.standbyReady = true) (hc : s.clocked = true) :
    ∃ t, exec .sprueTakeover s = .next t
      ∧ t.sprue = ⟨!s.sprue.activeB1, false, s.sprue.failed0 || !s.sprue.activeB1, s.sprue.failed1 || s.sprue.activeB1⟩
      ∧ t.running = s.running ∧ t.run = s.run ∧ t.chans = s.chans ∧ t.intake = s.intake ∧ t.mem = s.mem := by
  let u : State := { s with sprue := { s.sprue.fail s.sprue.activeB1 with activeB1 := !s.sprue.activeB1, standbyReady := false } }
  have hexec : exec .sprueTakeover s = .next (u.addLocal 300) := congrArg Host.Outcome.next (if_pos (by simp [hs, hc]))
  exact ⟨_, hexec, State.sprue_of_board (State.addLocal_board u 300), rfl, rfl, rfl, rfl, rfl⟩

theorem execSprueTakeover_notDue (h : s.sprue.standbyReady = false ∨ s.clocked = false) : exec .sprueTakeover s = .next s :=
  congrArg Host.Outcome.next (if_neg (by rcases h with h | h <;> simp [h]))

theorem execStandbySprueFailure_notes (s : State) :
    exec .standbySprueFailure s
      = .next { s with sprue := ⟨s.sprue.activeB1, false, s.sprue.failed0 || s.sprue.activeB1, s.sprue.failed1 || !s.sprue.activeB1⟩ } := by
  simp [exec, execStandbySprueFailure, Sprue.fail]

end Sys2Proof.Machine

namespace Sys2Proof.Machine

/-- Settles O54: what a lost copy leaves by the footing, on which the RISER_LOST state stops every pour. -/
theorem riserAndSprue : Obligations.RiserAndSprue := by
  unfold Obligations.RiserAndSprue
  intro n line s
  refine ⟨fun hl h0 h1 heq hc hone => ?_, execRiserWriteFail_loses, execRiserWriteFail_notDue, execRiserRebuildDone_returns,
    execRiserRebuildDone_notClocked, execSprueTakeover_serves, execSprueTakeover_notDue,
    execStandbySprueFailure_notes s⟩
  obtain ⟨t, hexec, hfooting, hseq, hentry, hchan, hrun⟩ := execRiserWriteFail_rebuilds (n := n) (line := line) hl h0 h1 heq hc hone
  obtain ⟨hfailed, hlost, hother, hcopy⟩ := s.riser.rebuilt_spec line n s.cnt.regs.time
  have hregions : t.riser.failed = _ := (congrArg Footing.failed hfooting).trans hfailed
  have hin := (Riser.inService_by_number h0 h1 n).2
  refine ⟨t, hexec, ?_, ?_, ?_, ?_, hseq, hentry, hchan, hrun, congrArg Footing.mem hfooting⟩
  · have hmarks := hregions.trans (s.riser.loseCopy_failed line n)
    cases line <;> exact hmarks
  · rw [State.copy_of_footing hfooting n, hregions]
    refine hcopy.trans ?_
    unfold Riser.spareFree
    rw [(s.riser.loseCopy_spec line n).2.2.1]
  · rw [State.otherCopy_of_footing hfooting n, hother, hin]
  · exact (congrArg Footing.lost hfooting).trans (hlost.trans hl)

end Sys2Proof.Machine
end

section
/-! SUPPORT. Resets: the ledger writes that one cuts short, what a cold one leaves, and the entry of a warm one (R240, R393, R405, R412, R415,
R424). -/

namespace Sys2Proof.Machine

variable {s t u : State}

/-- A table filled by number: what stands at each place. -/
theorem Tab.get_foldl_put_range {α : Type} [DecidableEq α] {d : α} (f : Nat → α) (n j : Nat) :
    Tab.get d ((List.range n).foldl (fun t i => Tab.put d t i (f i)) []) j = if j < n then f j else d := by
  induction n with
  | zero => rfl
  | succ n ih =>
    rw [List.range_succ, List.foldl_append, List.foldl_cons, List.foldl_nil, Tab.get_put, ih]
    by_cases hj : n = j
    · subst hj
      simp
    · simp only [if_neg hj, show j < n + 1 ↔ j < n by omega]

/-! ### A reset among the ledger writes of its period (R240, R412, R415) -/

/-- With no write of this period left to cut, a reset finds all of them made. -/
theorem State.cutShort_quiet (h : s.linesQuiet) (tears : Bool) : s.cutShort tears = s.linesDone := by
  have hnone : s.trail.filter (fun m => m.time = s.cnt.regs.time) = [] :=
    List.filter_eq_nil_iff.mpr fun m hm => by simpa using h m hm
  unfold State.cutShort
  rw [hnone]

/-- The ledger writes of this period. -/
def State.period (s : State) : List LineMark := s.trail.filter fun m => m.time = s.cnt.regs.time

/-- What stood before a write of this period, or after the last. -/
def State.markAt (s : State) (i : Nat) : LineMark :=
  (s.period[i]?).getD ⟨s.cnt.regs.time, .health, s.riser.copy0.data, s.riser.copy1.data, s.patterns, s.assay.receipts, s.power.pours⟩

theorem State.ledgers_at {i : Nat} (h : i ≤ s.period.length) : s.ledgers[i]? = some ((s.markAt i).copy0, (s.markAt i).copy1) := by
  have hledgers : s.ledgers = s.period.map (fun m => (m.copy0, m.copy1)) ++ [(s.riser.copy0.data, s.riser.copy1.data)] := rfl
  rw [hledgers]
  by_cases hi : i < s.period.length
  · rw [List.getElem?_append_left (by simpa using hi), List.getElem?_map, State.markAt, List.getElem?_eq_getElem hi]
    rfl
  · have hlast : i = s.period.length := by omega
    subst hlast
    simp [State.markAt]

/-- A copy set back to a ledger, with the line torn that was being written. -/
def RiserCopy.setBack (c : RiserCopy) (l : Ledger) (torn : Bool) (line : RLine) : RiserCopy :=
  if c.state = .inService then { c with data := l, bad := if torn then line :: c.bad else c.bad } else c

theorem RiserCopy.setBack_has (c : RiserCopy) (l : Ledger) (torn : Bool) (line : RLine) : (c.setBack l torn line).has l := by
  unfold RiserCopy.setBack RiserCopy.has
  split
  · exact fun _ => ⟨rfl, rfl, rfl⟩
  · next h => exact fun hin => absurd hin h

theorem RiserCopy.setBack_bad (c : RiserCopy) (l : Ledger) (line : RLine) : (c.setBack l false line).bad = c.bad := by
  unfold RiserCopy.setBack
  split <;> rfl

/-- What the copy that is written first has come to after `k` copy writes of this period. -/
def State.aheadAt (s : State) (k : Nat) : LineMark := if decide (k % 2 = 1) then s.markAt (k / 2 + 1) else s.markAt (k / 2)

/-- Reads come from copy 0: each line is written there first (R240). -/
def State.firstIs0 (s : State) : Bool := decide (s.riser.current s.sprue.activeB1 = s.riser.copy0)

theorem State.cut_all {k : Nat} (h : 2 * s.period.length ≤ k) (tear : Bool) : s.cut k tear = s := if_pos h

/-- The copies as a reset leaves them that has found the first `k` copy writes of this period made. -/
theorem State.cut_copies {k : Nat} (h : k < 2 * s.period.length) (tear : Bool) :
    (s.cut k tear).riser.copy0 = s.riser.copy0.setBack (if s.firstIs0 then (s.aheadAt k).copy0 else (s.markAt (k / 2)).copy0)
        (tear && (s.firstIs0 != decide (k % 2 = 1))) (s.markAt (k / 2)).line
      ∧ (s.cut k tear).riser.copy1 = s.riser.copy1.setBack (if s.firstIs0 then (s.markAt (k / 2)).copy1 else (s.aheadAt k).copy1)
        (tear && (s.firstIs0 == decide (k % 2 = 1))) (s.markAt (k / 2)).line := by
  have hcut : ¬2 * (s.trail.filter fun m => m.time = s.cnt.regs.time).length ≤ k := Nat.not_le_of_lt h
  unfold State.cut
  dsimp only
  rw [if_neg hcut]
  exact ⟨rfl, rfl⟩

/-- The copies stand between two copy writes. -/
theorem State.cut_cutFrom (s : State) (k : Nat) (tear : Bool) : (s.cut k tear).cutFrom s := by
  by_cases hk : 2 * s.period.length ≤ k
  · rw [State.cut_all hk]
    have hlast := State.ledgers_at (s := s) le_rfl
    have hmark : s.markAt s.period.length
        = ⟨s.cnt.regs.time, .health, s.riser.copy0.data, s.riser.copy1.data, s.patterns, s.assay.receipts, s.power.pours⟩ := by
      simp [State.markAt]
    have h0 : s.riser.copy0.has (s.markAt s.period.length).copy0 := fun _ => by simp [hmark]
    have h1 : s.riser.copy1.has (s.markAt s.period.length).copy1 := fun _ => by simp [hmark]
    refine ⟨_, _, _, _, .inl rfl, hlast, hlast, ?_⟩
    split
    · exact ⟨h0, h1⟩
    · exact ⟨h1, h0⟩
  · have hlt := Nat.lt_of_not_le hk
    obtain ⟨h0, h1⟩ := State.cut_copies hlt tear
    have hahead : ∃ i, (i = k / 2 ∨ i = k / 2 + 1) ∧ s.aheadAt k = s.markAt i ∧ i ≤ s.period.length := by
      unfold State.aheadAt
      split
      · exact ⟨k / 2 + 1, .inr rfl, rfl, by omega⟩
      · exact ⟨k / 2, .inl rfl, rfl, by omega⟩
    obtain ⟨i, hi, hmark, hle⟩ := hahead
    rw [hmark] at h0 h1
    refine ⟨i, k / 2, _, _, hi, State.ledgers_at hle, State.ledgers_at (by omega), ?_⟩
    rw [h0, h1]
    unfold State.firstIs0
    split
    · next hfirst =>
      simp only [hfirst, decide_true, if_true]
      exact ⟨RiserCopy.setBack_has _ _ _ _, RiserCopy.setBack_has _ _ _ _⟩
    · next hfirst =>
      simp only [hfirst, decide_false, Bool.false_eq_true, if_false]
      exact ⟨RiserCopy.setBack_has _ _ _ _, RiserCopy.setBack_has _ _ _ _⟩

theorem State.cut_bad (s : State) (k : Nat) :
    (s.cut k false).riser.copy0.bad = s.riser.copy0.bad ∧ (s.cut k false).riser.copy1.bad = s.riser.copy1.bad := by
  by_cases hk : 2 * s.period.length ≤ k
  · rw [State.cut_all hk]
    exact ⟨rfl, rfl⟩
  · obtain ⟨h0, h1⟩ := State.cut_copies (Nat.lt_of_not_le hk) false
    rw [h0, h1, Bool.false_and, Bool.false_and]
    exact ⟨RiserCopy.setBack_bad .., RiserCopy.setBack_bad ..⟩

/-- A cut depends on the copies alone. -/
theorem State.cutFrom.of_copies (h : u.cutFrom s) (h0 : t.riser.copy0 = u.riser.copy0) (h1 : t.riser.copy1 = u.riser.copy1) :
    t.cutFrom s := by
  unfold State.cutFrom at h ⊢
  rwa [h0, h1]

/-- A reset that cuts the writes of its period leaves the copies between two copy writes, and no line torn but where the supplies leave
their ranges. -/
theorem State.cutShort_cuts (s : State) (tears : Bool) : (s.cutShort tears).cutFrom s
    ∧ (tears = false → (s.cutShort tears).riser.copy0.bad = s.riser.copy0.bad ∧ (s.cutShort tears).riser.copy1.bad = s.riser.copy1.bad) := by
  unfold State.cutShort
  split
  next hnone =>
    have hperiod : 2 * s.period.length ≤ 0 := by simp [State.period, hnone]
    have hcut := State.cut_cutFrom s 0 false
    rw [State.cut_all hperiod] at hcut
    exact ⟨hcut.of_copies rfl rfl, fun _ => ⟨rfl, rfl⟩⟩
  next =>
    dsimp only [State.drawFree]
    generalize (Config.freeValue s.free).toNat / 2 % _ = k
    generalize hu : ({ s with free := s.free + 1 } : State) = u
    have hcut := State.cut_cutFrom u k (tears && (Config.freeValue s.free).getLsbD 0)
    have hbad := State.cut_bad u k
    subst hu
    refine ⟨State.cutFrom.of_copies (s := s) hcut rfl rfl, fun ht => ?_⟩
    rw [ht]
    exact hbad

/-! ### Cold resets and the loss of power (R405, R415, R424, R425) -/

theorem State.coldLoss_coldFrom (s : State) : s.coldLoss.coldFrom s :=
  ⟨rfl, rfl, rfl, rfl, rfl, rfl, rfl, rfl, rfl, rfl, rfl, rfl, rfl, rfl, ⟨rfl, rfl, rfl, rfl⟩, ⟨rfl, rfl, rfl, rfl⟩⟩

/-- With no ledger write to cut, a cold reset loses what it loses and no more. -/
theorem State.coldReset_quiet (h : s.linesQuiet) (tears : Bool) : s.coldReset tears = s.linesDone.coldLoss :=
  congrArg State.coldLoss (State.cutShort_quiet h tears)

theorem State.coldReset_coldFrom (h : s.linesQuiet) (tears : Bool) : (s.coldReset tears).coldFrom s := by
  rw [State.coldReset_quiet h]
  exact State.coldLoss_coldFrom s.linesDone

/-- A cold reset leaves the copies as the writes of its period, cut short, have left them. -/
theorem State.coldReset_cuts (s : State) (tears : Bool) : (s.coldReset tears).cutFrom s
    ∧ (tears = false → (s.coldReset tears).riser.copy0.bad = s.riser.copy0.bad ∧ (s.coldReset tears).riser.copy1.bad = s.riser.copy1.bad) := by
  obtain ⟨hcut, hbad⟩ := s.cutShort_cuts tears
  exact ⟨hcut.of_copies rfl rfl, hbad⟩

theorem exec_coldReset_powered (hm : s.pins.pwrgdMain = true) :
    exec .coldReset s = .next { s.coldReset false with pins := { s.pins with pwrgdMain := false } } :=
  congrArg Host.Outcome.next (if_pos hm)

theorem exec_railOutOfRange_powered (hm : s.pins.pwrgdMain = true) : exec .railOutOfRange s = .next (s.coldReset true) :=
  congrArg Host.Outcome.next (if_pos hm)

/-- The loss of VDD_AON, with the time, BOOT_STATUS and the JTAG port. -/
theorem State.aonLoss_loses (h : s.linesQuiet) :
    s.aonLoss.coldFrom s ∧ s.aonLoss.cnt.regs.time = 0 ∧ s.aonLoss.pins.pwrgdAon = false ∧ s.aonLoss.boot.done = 0 := by
  have hloss : (if s.pins.pwrgdMain then s.coldReset true else s.coldLoss).coldFrom s := by
    split
    · exact State.coldReset_coldFrom h true
    · exact State.coldLoss_coldFrom s
  obtain ⟨-, -, hmem, hclusters, hpatterns, hrunning, hrun, hintake, hrunner, hlight, hlog, hotp, hflash, hbottom, h0, h1⟩ := hloss
  exact ⟨⟨rfl, rfl, hmem, hclusters, hpatterns, hrunning, hrun, hintake, hrunner, hlight, hlog, hotp, hflash, hbottom, h0, h1⟩, rfl, rfl, rfl⟩

/-- The cold resets of a part whose main power stands. -/
theorem coldResets_powered (h : s.linesQuiet) (hm : s.pins.pwrgdMain = true) :
    (∃ t, exec .coldReset s = .next t ∧ t.coldFrom s ∧ t.cnt.regs.time = s.cnt.regs.time
        ∧ t.pins = { s.pins with pwrgdMain := false })
      ∧ (∃ t, exec .railOutOfRange s = .next t ∧ t.coldFrom s ∧ t.cnt.regs.time = s.cnt.regs.time ∧ t.pins = s.pins)
      ∧ (s.pins.vddAon = true → ∃ t, exec .aonClkLoss s = .next t ∧ t.coldFrom s ∧ t.cnt.regs.time = s.cnt.regs.time
        ∧ t.pins = { s.pins with aonClk := false })
      ∧ (s.pins.pwrgdAon = true → ∃ t, exec .pwrgdAonFall s = .next t ∧ t.coldFrom s ∧ t.cnt.regs.time = 0
        ∧ t.pins.pwrgdAon = false ∧ t.boot.done = 0) := by
  have htime (tears : Bool) : (s.coldReset tears).cnt.regs.time = s.cnt.regs.time := by
    rw [State.coldReset_quiet h]
    rfl
  have hpins (tears : Bool) : (s.coldReset tears).pins = s.pins := by
    rw [State.coldReset_quiet h]
    rfl
  have hcold := State.coldReset_coldFrom h
  refine ⟨⟨_, exec_coldReset_powered hm, hcold false, htime false, rfl⟩,
    ⟨_, exec_railOutOfRange_powered hm, hcold true, htime true, hpins true⟩, fun hv => ?_, fun ha => ?_⟩
  · have hexec : exec .aonClkLoss s = .next { s.coldReset false with pins := { (s.coldReset false).pins with aonClk := false } } := by
      simp only [exec, execAonClkLoss, hm, hv, if_true]
    exact ⟨_, hexec, hcold false, htime false, by rw [hpins]⟩
  · have hexec : exec .pwrgdAonFall s = .next s.aonLoss := by
      simp only [exec, execPwrgdAonFall, hm, ha, if_true]
    exact ⟨_, hexec, State.aonLoss_loses h⟩

/-- A part without main power has nothing left to lose to these but the pin. -/
theorem coldResets_unpowered (hm : s.pins.pwrgdMain = false) :
    exec .coldReset s = .next s ∧ exec .railOutOfRange s = .next s
      ∧ (s.pins.pwrgdAon = true → exec .pwrgdAonFall s = .next { s with pins := { s.pins with pwrgdAon := false } }) := by
  refine ⟨?_, ?_, fun ha => ?_⟩
  · simp [exec, execColdReset, hm]
  · simp [exec, execRailOutOfRange, hm]
  · simp [exec, execPwrgdAonFall, hm, ha]

theorem exec_vddAonLoss_powered (h : s.linesQuiet) (hv : s.pins.vddAon = true) :
    ∃ t, exec .vddAonLoss s = .next t ∧ t.coldFrom s ∧ t.cnt.regs.time = 0 ∧ t.pins.vddAon = false ∧ t.pins.pwrgdAon = false := by
  obtain ⟨hcold, htime, hpin, -⟩ := State.aonLoss_loses h
  exact ⟨_, congrArg Host.Outcome.next (if_pos hv), hcold, htime, rfl, hpin⟩

theorem exec_vddAonApplied_starts (hv : s.pins.vddAon = false) :
    ∃ t, exec .vddAonApplied s = .next t ∧ t.pins.vddAon = true ∧ t.pins.aonClk = true ∧ t.cnt.regs.time = 0
      ∧ t.riser = s.riser ∧ t.assay = s.assay :=
  ⟨_, congrArg Host.Outcome.next (if_neg (by simp [hv])), rfl, rfl, rfl, rfl, rfl⟩

theorem exec_vddAonApplied_already (hv : s.pins.vddAon = true) : exec .vddAonApplied s = .next s :=
  congrArg Host.Outcome.next (if_pos hv)

/-! ### The entry of a warm reset (R346, R393, R412) -/

/-- An attempt as a warm reset ends it: with SLOT_COLLISION, for a replay where `again`, and with its votes void. -/
def RunCtx.warmed (r : RunCtx) (again : Bool) : RunCtx :=
  { r with fault := some (stSlotCollision, again), votedUp := false, verdict := none, colls := [] }

theorem State.warmRun_eq (s : State) :
    s.warmRun = { s with run := s.run.map fun r => r.warmed (s.entry r.entry).restartable } := by
  unfold State.warmRun
  cases h : s.run with
  | none =>
    have hsame : { s with run := none } = s := by rw [← h]
    exact hsame.symm
  | some r => rfl

/-- The volatile state that a warm reset enters with. -/
def State.cooled (s : State) : State :=
  { s with
    boot := { s.boot with phase := .warmEntry, ready := false }
    ident := s.ident.warm
    mem := s.mem.clear windowBase (128 * windowSize)
    riser := { s.riser with replays := s.riser.replays.clearCount }
    chans := warmChans s.chans
    accepted := []
    intake := { Intake.init with stray := s.intake.stray.clearCount, oneCopy := s.intake.oneCopy }
    cope := s.cope.restart
    drag := s.drag.restart
    running := s.warmRunning
    kept := s.kept.map fun (k : KeptContext) => { k with clean := false }
    clusters := []
    power := s.power.warm
    runner := { Runner.init with
      runSeq := s.runner.runSeq, isle0 := s.runner.isle0, isle1 := s.runner.isle1, counted := s.runner.counted, foreign := s.runner.foreign.clearCount }
    light := s.light.warm
    assay := s.assay.warm
    err := s.err.warm
    cnt := s.cnt.warm }

theorem State.warmReset_eq (s : State) : s.warmReset = (s.cutShort false).warmRun.cooled := rfl

/-- WARM_RESET of a part that has booted or boots. -/
theorem exec_warmReset_enters (hv : s.pins.vddAon = true) (ha : s.pins.pwrgdAon = true) (hm : s.pins.pwrgdMain = true)
    (hst : s.power.stopped = false) (hoff : s.boot.phase ≠ .off) (hwarm : s.boot.phase ≠ .warmEntry) :
    exec .warmReset s = .next { s.warmReset with pins := { s.warmReset.pins with warmResetN := false } } := by
  simp [exec, execWarmReset, hv, ha, hm, hst, hoff, hwarm]

/-- A warm reset leaves the copies between two copy writes, and tears no line. -/
theorem State.warmReset_cuts (s : State) : s.warmReset.cutFrom s
    ∧ s.warmReset.riser.copy0.bad = s.riser.copy0.bad ∧ s.warmReset.riser.copy1.bad = s.riser.copy1.bad := by
  obtain ⟨hcut, hbad⟩ := s.cutShort_cuts false
  obtain ⟨h0, h1⟩ := hbad rfl
  rw [State.warmReset_eq, State.warmRun_eq]
  exact ⟨hcut.of_copies rfl rfl, h0, h1⟩

/-- The warm reset with no ledger write to cut. -/
def State.warmQuiet (s : State) : State :=
  State.cooled { s.linesDone with run := s.run.map fun r => r.warmed (s.entry r.entry).restartable }

theorem State.warmReset_quiet (h : s.linesQuiet) : s.warmReset = s.warmQuiet := by
  rw [State.warmReset_eq, State.cutShort_quiet h, State.warmRun_eq]
  rfl

/-- HBM stays, and the clusters' memories are cleared. -/
theorem State.byte_cooled (s : State) :
    (∀ a < windowBase, s.cooled.mem.byte a = s.mem.byte a) ∧ ∀ a < 128 * windowSize, s.cooled.mem.byte (windowBase + a) = 0 :=
  ⟨fun _ ha => Mem.byte_clear_outside _ (.inl ha), fun a ha => Mem.byte_clear _ (by omega) (by omega)⟩

theorem State.runningOf_cooled (s : State) {c : Nat} (hc : c < 64) :
    s.cooled.runningOf c = (s.runningOf c).bind fun x => s.warmPour c x := by
  refine (Tab.get_foldl_put_range (fun c => (s.runningOf c).bind fun x => s.warmPour c x) 64 c).trans ?_
  rw [if_pos hc]

/-- A pour that was running: the RUN keeps its place without an outcome, another RUN that is not restartable ends, and the rest wait
again (R258). -/
theorem State.warmQuiet_pours (s : State) {c : Nat} (hc : c < 64) {x : Running} (hx : s.runningOf c = some x) :
    if ∃ r, s.run = some r ∧ r.chan = c then ∃ z, s.warmQuiet.runningOf c = some z ∧ z.outcome = none ∧ z.body = x.body
    else if x.cls = .run ∧ (s.entry x.entry).restartable = false then
      ∃ z o, s.warmQuiet.runningOf c = some z ∧ z.outcome = some o ∧ o.status = 0x0301 ∧ o.ok = false
    else s.warmQuiet.runningOf c = none := by
  let u : State := { s.linesDone with run := s.run.map fun r => r.warmed (s.entry r.entry).restartable }
  have hpour : s.warmQuiet.runningOf c = u.warmPour c x := by
    refine (State.runningOf_cooled u hc).trans ?_
    rw [show u.runningOf c = some x from hx]
    rfl
  have hrun : ((u.run.map fun (r : RunCtx) => decide (r.chan = c)).getD false = true) ↔ ∃ r, s.run = some r ∧ r.chan = c := by
    cases h : s.run <;> simp [u, h, RunCtx.warmed]
  have hentry : (!(u.entry x.entry).restartable) = true ↔ (s.entry x.entry).restartable = false := by
    rw [Bool.not_eq_true']
    rfl
  rw [hpour]
  unfold State.warmPour
  simp only [hrun, hentry]
  split
  · exact ⟨_, rfl, rfl, rfl⟩
  · split
    · exact ⟨_, _, rfl, rfl, rfl, rfl⟩
    · rfl

end Sys2Proof.Machine

namespace Sys2Proof.Machine

/-- Settles O56: a reset cuts the writes of its period at one place, and what it leaves is read off what it loses. -/
theorem resets : Obligations.Resets := by
  unfold Obligations.Resets
  refine ⟨fun s hq => ⟨coldResets_powered hq, coldResets_unpowered, exec_vddAonLoss_powered hq, exec_vddAonApplied_starts,
    exec_vddAonApplied_already⟩, fun s hv ha hm hst hoff hwarm => ?_, fun s hm => ?_⟩
  · have hexec := exec_warmReset_enters hv ha hm hst hoff hwarm
    refine ⟨?_, fun hq => ?_⟩
    · obtain ⟨hcut, h0, h1⟩ := s.warmReset_cuts
      exact ⟨_, hexec, hcut.of_copies rfl rfl, fun l hl => h0 ▸ hl, fun l hl => h1 ▸ hl⟩
    · rw [State.warmReset_quiet hq] at hexec
      obtain ⟨hhbm, hwindows⟩ := State.byte_cooled { s.linesDone with run := s.run.map fun r => r.warmed (s.entry r.entry).restartable }
      refine ⟨_, hexec, rfl, rfl, rfl, hhbm, hwindows, fun _ => rfl, fun _ => rfl, rfl, rfl, rfl, rfl, rfl, rfl, rfl, rfl, rfl, rfl, rfl,
        rfl, fun hr => ?_, fun r hr => ?_, fun c hc x hx => s.warmQuiet_pours hc hx⟩
      · exact Option.map_eq_none_iff.mpr hr
      · exact ⟨_, Option.map_eq_some_iff.mpr ⟨r, hr, rfl⟩, rfl, rfl⟩
  · obtain ⟨hcut, hbad⟩ := s.coldReset_cuts false
    obtain ⟨h0, h1⟩ := hbad rfl
    exact ⟨⟨_, exec_coldReset_powered hm, hcut.of_copies rfl rfl, fun l hl => h0 ▸ hl, fun l hl => h1 ▸ hl⟩,
      _, exec_railOutOfRange_powered hm, (s.coldReset_cuts true).1⟩

end Sys2Proof.Machine
end

section
/-! SUPPORT. The training of the live ports leaves the Riser and the channels (R413). -/

namespace Sys2Proof.Machine

variable {s t : State}

/-- The Riser, the Sprues, the channels' volatile records and the loaded patterns. -/
structure Rolls where
  riser    : Riser
  sprue    : Sprue
  chans    : Tab Chan
  patterns : Tab (Option Pattern)

def State.rolls (s : State) : Rolls := ⟨s.riser, s.sprue, s.chans, s.patterns⟩

theorem State.ledger_of_rolls (h : t.rolls = s.rolls) : t.ledger = s.ledger :=
  congrArg (fun r : Rolls => if r.riser.lost then r.riser.work else (r.riser.current r.sprue.activeB1).data) h

theorem State.rolls_setOut (s : State) (p : Nat) (on : Bool) : (s.setOut p on).rolls = s.rolls := by
  unfold State.setOut
  split <;> rfl

theorem State.rolls_goDark (s : State) (p : Nat) : (s.goDark p).rolls = s.rolls := State.rolls_setOut (s.darkPort p) p false

theorem State.rolls_startTraining (s : State) (p lp : Nat) : (s.startTraining p lp).rolls = s.rolls :=
  State.rolls_setOut (s.updSeq (portDomain p) Sequencer.enable) p true

theorem State.rolls_portEnded (s : State) (op bit : Nat) (st : BitVec 16) : (s.portEnded op bit st).rolls = s.rolls := by
  have hrunning (t : State) (h : t = { s with running := t.running }) : t.rolls = s.rolls := by
    rw [h]
    rfl
  exact hrunning _ (State.portEnded_eq s op bit st)

/-- A spare brought in for a port whose training a warm boot has begun: where none is free, nothing ends. -/
theorem State.rolls_bringSpare {lp : Nat} (p : Nat) (h : s.runner.retrains.contains lp = true) : (s.bringSpare p lp).rolls = s.rolls := by
  unfold State.bringSpare
  dsimp only
  split
  · exact State.rolls_startTraining ..
  · have hr : (s.stopAwaiting lp).runner.retrains.contains lp = true := h
    rw [State.noSpare, if_pos hr]
    rfl

/-- A port that is no spare and fails for eye safety, which is reported where it is found. -/
theorem State.rolls_failPort {p : Nat} (s : State) (hp : p < 30) : (s.failPort p stEyeSafety).rolls = s.rolls := by
  have hdark (g : Port → Port) (a b lp : Nat) :
      ((((s.goDark p).updRport p g).portEnded a p stEyeSafety).portEnded b lp stEyeSafety).rolls = s.rolls :=
    (State.rolls_portEnded ..).trans ((State.rolls_portEnded ..).trans (State.rolls_goDark s p))
  unfold State.failPort
  dsimp only
  simp only [if_true, show ¬stEyeSafety = stMarginLow by decide, if_false, show ¬30 ≤ p by omega]
  split
  next h => exact (State.rolls_bringSpare p h).trans (hdark ..)
  next => exact hdark ..

theorem State.rolls_trainLive (ps : List Nat) (h : ∀ p ∈ ps, p < 30) (s : State) : (s.trainLive ps).rolls = s.rolls := by
  induction ps generalizing s with
  | nil => rfl
  | cons p ps ih =>
    refine (ih (fun q hq => h q (List.mem_cons_of_mem p hq)) (s.trainOne p)).trans ?_
    unfold State.trainOne
    split
    · exact State.rolls_failPort s (h p List.mem_cons_self)
    · exact State.rolls_startTraining ..

/-- Readiness changes no more of the ledger than the boot record. -/
theorem State.rolls_becomeReady (s : State) : s.becomeReady.rolls = s.confirmBoot.rolls := by
  unfold State.becomeReady
  dsimp only
  split
  · exact State.rolls_trainLive _ (fun _ hp => FlaskRecord.lt_of_mem_live hp) _
  · rfl

end Sys2Proof.Machine
end

section
/-! SUPPORT. Equal copies of the Riser, which read as one ledger whichever Sprue serves, and their recovery (R240, R253). -/

namespace Sys2Proof.Machine

variable {s t : State}

/-- Both copies are in service and say the same. -/
structure State.Twins (s : State) : Prop where
  lost   : s.riser.lost = false
  state0 : s.riser.copy0.state = .inService
  state1 : s.riser.copy1.state = .inService
  same   : s.riser.copy0.data = s.riser.copy1.data

theorem State.Twins.of_riser (h : s.Twins) (hr : t.riser = s.riser) : t.Twins := by
  obtain ⟨hl, h0, h1, heq⟩ := h
  exact ⟨by rw [hr, hl], by rw [hr, h0], by rw [hr, h1], by rw [hr, heq]⟩

theorem State.Twins.ledger (h : s.Twins) : s.ledger = s.riser.copy0.data := State.ledger_of_copies h.lost rfl h.same.symm

theorem State.Twins.ledger_of_riser (h : s.Twins) (hr : t.riser = s.riser) : t.ledger = s.ledger := by
  rw [(h.of_riser hr).ledger, hr, h.ledger]

theorem State.Twins.kept (h : s.Twins) : s.ledgerKept := .inr (by rw [Riser.current_inService (.inl h.state0)]; decide)

theorem State.Twins.updLedger (h : s.Twins) (l : RLine) (f : Ledger → Ledger) : (s.updLedger l f).Twins := by
  obtain ⟨hl, h0, h1, heq⟩ := h
  constructor <;> simp [State.updLedger, Riser.put, RiserCopy.write, hl, h0, h1, heq]

theorem State.Twins.noteChan (h : s.Twins) (c : Nat) (f : ChanRec → ChanRec) : (s.noteChan c f).Twins := by
  obtain ⟨hl, h0, h1, heq⟩ := h
  constructor <;> simp [State.noteChan_riser hl, RiserCopy.note, hl, h0, h1, heq]

/-! ### The merge of equal copies -/

theorem mergeEntry_self (e : Entry) : mergeEntry e e = e := if_pos rfl

theorem mergeChan_self (c : ChanRec) : mergeChan c c = c := by
  unfold mergeChan
  split
  · rfl
  · rw [if_neg (Nat.lt_irrefl _)]

/-- A copy that holds every line, none of them torn. -/
def RiserCopy.sound (c : RiserCopy) : Prop := c.bad = [] ∧ c.held = 2048

theorem RiserCopy.sound.valid {c : RiserCopy} (h : c.sound) {l : RLine} (hl : lineOffset l < 2048) : c.valid l = true := by
  simp [RiserCopy.valid, h.1, h.2, hl]

/-- Of two equal versions of a line that are both valid, the merge is that version. -/
theorem linePick_same {α : Type} {a b : RiserCopy} (ha : a.sound) (hb : b.sound) (heq : a.data = b.data) {l : RLine} (hl : lineOffset l < 2048)
    (lost : α) {merge : α → α → α} (hm : ∀ x, merge x x = x) (f : Ledger → α) : linePick a b l lost merge f = f a.data := by
  rw [linePick, ha.valid hl, hb.valid hl, ← heq]
  exact hm _

theorem mergeLedger_entries (a b : RiserCopy) :
    (mergeLedger a b).entries = (List.range 1024).foldl (fun t i => Tab.put Entry.free t i (entryPick a b i)) [] := by
  simp only [mergeLedger]

theorem mergeLedger_entry {a b : RiserCopy} (ha : a.sound) (hb : b.sound) (heq : a.data = b.data) (i : Nat) :
    Tab.get Entry.free (mergeLedger a b).entries i = if i < 1024 then Tab.get Entry.free a.data.entries i else Entry.free := by
  rw [mergeLedger_entries, Tab.get_foldl_put_range]
  split
  · next hi =>
    have hl : lineOffset (.entry i) < 2048 := by
      rw [lineOffset]
      omega
    rw [entryPick, ha.valid hl, hb.valid hl, if_pos (.inl rfl), linePick_same ha hb heq hl _ mergeEntry_self]
  · rfl

theorem mergeLedger_chan {a b : RiserCopy} (ha : a.sound) (hb : b.sound) (heq : a.data = b.data) {c : Nat} (hc : c < 64) :
    Tab.get ChanRec.closed (mergeLedger a b).chans c = Tab.get ChanRec.closed a.data.chans c := by
  have htable : (mergeLedger a b).chans = (List.range 64).foldl (fun t c => Tab.put ChanRec.closed t c
      (linePick a b (.chan c) ChanRec.closed mergeChan fun l => Tab.get ChanRec.closed l.chans c)) [] := by
    simp only [mergeLedger]
  rw [htable, Tab.get_foldl_put_range, if_pos hc]
  refine linePick_same ha hb heq ?_ _ mergeChan_self _
  rw [lineOffset]
  omega

/-- A table filled by number is canonical. -/
theorem Tab.wf_foldl_put {α : Type} [DecidableEq α] {d : α} (f : Nat → α) (l : List Nat) {t : Tab α} (h : Tab.wf d t = true) :
    Tab.wf d (l.foldl (fun t i => Tab.put d t i (f i)) t) = true := by
  induction l generalizing t with
  | nil => exact h
  | cons i l ih => exact ih (Tab.wf_put i (f i) h)

theorem mergeLedger_wf (a b : RiserCopy) : Tab.wf Entry.free (mergeLedger a b).entries = true := by
  rw [mergeLedger_entries]
  exact Tab.wf_foldl_put (entryPick a b) _ Tab.wf_nil

/-- Both copies in service take the merge of the two. -/
theorem State.mergeCopies_eq (h0 : s.riser.copy0.state = .inService) (h1 : s.riser.copy1.state = .inService) :
    ∃ writes repaired, s.mergeCopies = { s with riser := { s.riser with
      copy0 := RiserCopy.whole s.riser.copy0.die s.riser.copy0.spare (mergeLedger s.riser.copy0 s.riser.copy1)
      copy1 := RiserCopy.whole s.riser.copy1.die s.riser.copy1.spare (mergeLedger s.riser.copy0 s.riser.copy1)
      writes := writes
      repaired := repaired } } := by
  unfold State.mergeCopies
  extract_lets a b l
  rw [if_pos ⟨h0, h1⟩]
  exact ⟨_, _, rfl⟩

theorem State.mergeCopies_twins (h : s.Twins) :
    s.mergeCopies.Twins ∧ s.mergeCopies.ledger = mergeLedger s.riser.copy0 s.riser.copy1 ∧ s.mergeCopies.chans = s.chans := by
  obtain ⟨w, n, heq⟩ := State.mergeCopies_eq h.state0 h.state1
  generalize mergeLedger s.riser.copy0 s.riser.copy1 = l at heq ⊢
  have htwins : s.mergeCopies.Twins := by
    rw [heq]
    exact ⟨h.lost, rfl, rfl, rfl⟩
  refine ⟨htwins, htwins.ledger.trans ?_, ?_⟩
  · rw [heq]
    rfl
  · rw [heq]

end Sys2Proof.Machine
end

section
/-! SUPPORT. Stage 3 of a cold boot with one entry held: its pour is surrendered, and its reply waits for the ring (R252, R253). -/

namespace Sys2Proof.Machine

variable {s t u : State} {i c : Nat} {e x : Entry}

/-! ### One entry held -/

/-- A strictly rising list of which every member is one and the same is that member alone. -/
theorem eq_singleton_of_forall {α : Type} {r : α → α → Prop} (hr : ∀ a, ¬r a a) {a : α} {l : List α} (hp : l.Pairwise r) (hm : a ∈ l)
    (h : ∀ b ∈ l, b = a) : l = [a] := by
  cases l with
  | nil => cases hm
  | cons b l =>
    obtain rfl := h b List.mem_cons_self
    cases l with
    | nil => rfl
    | cons b' l =>
      obtain rfl := h b' (List.mem_cons_of_mem _ List.mem_cons_self)
      exact absurd ((List.pairwise_cons.mp hp).1 b' List.mem_cons_self) (hr b')

/-- The entry `x` at `i` is the only one held, in two copies that say the same. -/
structure State.Sole (s : State) (i : Nat) (x : Entry) : Prop where
  twins  : s.Twins
  wf     : Tab.wf Entry.free s.ledger.entries = true
  entry  : s.entry i = x
  held   : x.state ≠ .free
  others : ∀ j, j ≠ i → (s.entry j).state = .free

/-- The entries, the copies' standing and no more decide which entry is held. -/
theorem State.Sole.of_entries (h : s.Sole i x) (ht : t.Twins) (he : t.ledger.entries = s.ledger.entries) : t.Sole i x where
  twins := ht
  wf := by rw [he, h.wf]
  entry := by rw [State.entry, he, ← State.entry, h.entry]
  held := h.held
  others j hj := by rw [State.entry, he, ← State.entry, h.others j hj]

theorem State.Sole.heldEntries (h : s.Sole i x) (c : Nat) : s.heldEntries c = if x.chan.toNat = c then [(i, x)] else [] := by
  obtain ⟨hpair, -⟩ := Tab.wf_iff.mp h.wf
  have hread (a : Nat × Entry) (ha : a ∈ s.heldEntries c) : a = (i, x) ∧ x.chan.toNat = c := by
    obtain ⟨hmem, hheld⟩ := List.mem_filter.mp ha
    have hval : s.entry a.1 = a.2 := Tab.get_of_mem hpair hmem
    simp only [Bool.and_eq_true, bne_iff_ne, ne_eq, decide_eq_true_eq] at hheld
    have hi : a.1 = i := not_not.mp fun hne => hheld.1 (hval ▸ h.others a.1 hne)
    have hx : a.2 = x := by rw [← hval, hi, h.entry]
    exact ⟨Prod.ext hi hx, hx ▸ hheld.2⟩
  split
  · next hc =>
    have hmem : (i, x) ∈ s.heldEntries c := by
      have := State.mem_heldEntries (s := s) (j := i) (c := c) (by rw [h.entry, hc]) (by rw [h.entry]; exact h.held)
      rwa [h.entry] at this
    exact eq_singleton_of_forall (r := fun a b : Nat × Entry => a.1 < b.1) (fun _ => Nat.lt_irrefl _) (hpair.filter _) hmem fun a ha => (hread a ha).1
  · next hc => exact List.eq_nil_iff_forall_not_mem.mpr fun a ha => hc (hread a ha).2

theorem State.Sole.heldInOrder (h : s.Sole i x) (c : Nat) : s.heldInOrder c = if x.chan.toNat = c then [(i, x)] else [] := by
  rw [State.heldInOrder, h.heldEntries]
  split <;> rfl

theorem State.Sole.noteChan (h : s.Sole i x) (c : Nat) (f : ChanRec → ChanRec) : (s.noteChan c f).Sole i x :=
  h.of_entries (h.twins.noteChan c f) (congrArg Books.entries (State.books_noteChan h.twins.kept c f))

theorem State.Sole.updEntry (h : s.Sole i x) (hy : e.state ≠ .free) : (s.updEntry i fun _ => e).Sole i e where
  twins := h.twins.updLedger _ _
  wf := by
    rw [show (s.updEntry i fun _ => e).ledger.entries = Tab.upd Entry.free s.ledger.entries i fun _ => e from
      congrArg Books.entries (State.books_updEntry h.twins.kept i fun _ => e)]
    exact Tab.wf_upd _ _ h.wf
  entry := by rw [h.twins.kept.entry_updEntry, if_pos rfl]
  held := hy
  others j hj := by rw [h.twins.kept.entry_updEntry, if_neg hj.symm, h.others j hj]

/-! ### The channels that hold no entry -/

/-- A channel without an entry counts its last acknowledged pour as its last accepted one. -/
theorem State.Sole.recoverChannel_other (h : s.Sole i x) (hc : x.chan.toNat ≠ c) :
    s.recoverChannel true c = if (s.chan c).state = .closed then s else s.noteChan c fun ch => { ch with accepted := ch.acked } := by
  have hcount : s.recoverCount c = s.noteChan c fun ch => { ch with accepted := ch.acked } := by
    rw [State.recoverCount, h.heldInOrder, if_neg hc]
    rfl
  have hqueue {t : State} (ht : t.Sole i x) : t.requeue c = t := by
    rw [State.requeue, ht.heldInOrder, if_neg hc]
    rfl
  unfold State.recoverChannel
  dsimp only
  rw [h.heldInOrder, if_neg hc, List.foldl_nil, List.foldl_nil, hcount, hqueue (h.noteChan c _)]

/-- What the recovery of one channel leaves of another, with its entry. -/
structure State.Spares (s t : State) (d : Nat) : Prop where
  chan     : t.chan d = s.chan d
  chans    : t.chans = s.chans
  patterns : t.patterns = s.patterns

theorem State.Sole.recoverChannels_other (h : s.Sole i x) (l : List Nat) (hl : x.chan.toNat ∉ l) :
    (l.foldl (fun s c => s.recoverChannel true c) s).Sole i x
      ∧ s.Spares (l.foldl (fun s c => s.recoverChannel true c) s) x.chan.toNat := by
  induction l generalizing s with
  | nil => exact ⟨h, rfl, rfl, rfl⟩
  | cons c l ih =>
    have hc : x.chan.toNat ≠ c := fun heq => hl (heq ▸ List.mem_cons_self)
    have hstep : (s.recoverChannel true c).Sole i x ∧ s.Spares (s.recoverChannel true c) x.chan.toNat := by
      rw [h.recoverChannel_other hc]
      split
      · exact ⟨h, rfl, rfl, rfl⟩
      · refine ⟨h.noteChan c _, ?_, rfl, rfl⟩
        rw [h.twins.kept.chan_noteChan, if_neg hc.symm]
    obtain ⟨hsole, hchan, hchans, hpatterns⟩ := hstep
    obtain ⟨hsole', hchan', hchans', hpatterns'⟩ := ih hsole fun hm => hl (List.mem_cons_of_mem c hm)
    exact ⟨hsole', hchan'.trans hchan, hchans'.trans hchans, hpatterns'.trans hpatterns⟩

/-! ### The channel of the entry -/

/-- A pour that was accepted or running had no outcome yet. -/
def Entry.unended (e : Entry) : Prop := e.state = .accepted ∨ e.state = .running

theorem Entry.unended.state_ne (h : e.unended) : e.state ≠ .ending ∧ e.state ≠ .done ∧ e.state ≠ .free := by
  obtain hs | hs := h <;> rw [hs] <;> decide

/-- The entry surrendered at its channel's epoch. -/
def State.surrendered (s : State) (c : Nat) (e : Entry) : Entry := e.surrender (s.epochOf c) s.cnt.regs.time

/-- The surrender of the entry, before the channel is counted. -/
def State.afterSurrender (s : State) (c i : Nat) (e : Entry) : State :=
  (s.updEntry i fun _ => s.surrendered c e).noteChan c fun ch => { ch with energy := ch.energy + (s.surrendered c e).energy }

theorem State.recoverOne_unended (s : State) (c : Nat) (h : e.unended) : s.recoverOne true c (i, e) = s.afterSurrender c i e := by
  obtain ⟨hending, hdone, -⟩ := h.state_ne
  have hrec : s.recoverEntry c e = s.surrendered c e := by
    simp [State.recoverEntry, hending, hdone, State.surrendered]
  have hne : s.surrendered c e ≠ e := fun heq => hdone (by rw [← heq]; rfl)
  unfold State.recoverOne
  dsimp only
  rw [if_pos rfl, hrec, if_neg hne, if_pos ⟨hdone, rfl⟩]
  rfl

theorem State.completeWrites_unended (s : State) (c : Nat) (h : e.unended) : s.completeWrites c e = s := by
  unfold State.completeWrites
  split
  · exact if_neg fun hx => h.state_ne.1 hx.1
  · rfl

/-- The one reply of a channel that has not been written waits for its ring. -/
theorem State.Sole.requeue_final (h : s.Sole i x) (hdone : x.state = .done) (hr : (s.chan x.chan.toNat).replied.toNat < x.pour.toNat) :
    s.requeue x.chan.toNat = s.queueFinal x.chan.toNat x := by
  unfold State.requeue
  rw [h.heldInOrder, if_pos rfl]
  simp [hdone, hr, Nat.not_le_of_lt hr]

/-- With no reply and no duplicate waiting, a final reply waits for the ring alone. -/
theorem State.Sole.queueFinal (h : s.Sole i x) (hq : (s.vchan c).replyQ = []) (hd : (s.vchan c).dups = []) :
    (s.queueFinal c x).Sole i x ∧ ((s.queueFinal c x).chan c).accepted = (s.chan c).accepted
      ∧ ((s.queueFinal c x).vchan c).replyQ = [replyOf x] ∧ (s.queueFinal c x).patterns = s.patterns := by
  have hnote := h.noteChan c fun ch => { ch with last := some x }
  have hchan := h.twins.kept.chan_noteChan c c fun ch => { ch with last := some x }
  rw [if_pos rfl] at hchan
  have hupd (t : State) (v : Chan → Chan) : (t.updVchan c v).chan c = t.chan c := State.chan_of_books (State.books_updVchan t c v) c
  unfold State.queueFinal
  dsimp only
  refine ⟨hnote.of_entries (hnote.twins.of_riser rfl) rfl, ?_, ?_, rfl⟩
  · rw [hupd, hchan]
  · rw [State.vchan_updVchan_same, hd]
    exact congrArg (· ++ [replyOf x]) hq

/-- The entry held as the recovery of its channel leaves it: surrendered, counted as the last accepted pour, and its reply waiting for the
ring, with no pattern loaded. -/
structure State.Surrenders (t : State) (i : Nat) (e x : Entry) : Prop where
  sole     : t.Sole i x
  chan     : x.chan = e.chan
  accepted : (t.chan x.chan.toNat).accepted = e.pour
  queue    : (t.vchan x.chan.toNat).replyQ = [replyOf x]
  unloaded : t.patterns = []

/-- The channel's count after the surrender of its entry. -/
def State.countsPour (s : State) (c i : Nat) (e : Entry) : State :=
  (s.afterSurrender c i e).noteChan c fun ch => { ch with accepted := e.pour, lastOp := e.opcode }

theorem State.Sole.countsPour (h : s.Sole i e) (c : Nat) :
    (s.afterSurrender c i e).Sole i (s.surrendered c e) ∧ (s.countsPour c i e).Sole i (s.surrendered c e)
      ∧ ((s.countsPour c i e).chan c).accepted = e.pour ∧ ((s.countsPour c i e).chan c).replied = (s.chan c).replied := by
  have hheld : (s.surrendered c e).state ≠ .free := EntryState.noConfusion
  have hsole : (s.afterSurrender c i e).Sole i (s.surrendered c e) := (h.updEntry hheld).noteChan c _
  have hchan : (s.countsPour c i e).chan c
      = { s.chan c with energy := (s.chan c).energy + (s.surrendered c e).energy, accepted := e.pour, lastOp := e.opcode } := by
    rw [State.countsPour, hsole.twins.kept.chan_noteChan, if_pos rfl, State.afterSurrender,
      (h.twins.kept.updEntry i _).chan_noteChan, if_pos rfl, h.twins.kept.chan_updEntry]
  exact ⟨hsole, hsole.noteChan c _, by rw [hchan], by rw [hchan]⟩

theorem State.Sole.recoverChannel_own (h : s.Sole i e) (hun : e.unended) (hopen : (s.chan e.chan.toNat).state ≠ .closed)
    (hr : (s.chan e.chan.toNat).replied.toNat < e.pour.toNat) (hq : (s.vchan e.chan.toNat).replyQ = [])
    (hd : (s.vchan e.chan.toNat).dups = []) (hp : s.patterns = []) :
    (s.recoverChannel true e.chan.toNat).Surrenders i e (s.surrendered e.chan.toNat e) := by
  generalize hc : e.chan.toNat = c at *
  have hxc : (s.surrendered c e).chan.toNat = c := hc
  obtain ⟨hsole, hsole', haccepted, hreplied⟩ := h.countsPour c
  have hcount : (s.afterSurrender c i e).recoverCount c = s.countsPour c i e := by
    rw [State.recoverCount, hsole.heldInOrder, if_pos hxc]
    rfl
  have hfinal := hsole'.requeue_final rfl (by rw [hxc, hreplied]; exact hr)
  have heq : s.recoverChannel true c = (s.countsPour c i e).queueFinal c (s.surrendered c e) := by
    unfold State.recoverChannel
    dsimp only
    rw [if_neg hopen, h.heldInOrder, if_pos hc, List.foldl_cons, List.foldl_nil, List.foldl_cons, List.foldl_nil,
      State.completeWrites_unended s c hun, State.recoverOne_unended s c hun, hcount]
    rwa [hxc] at hfinal
  obtain ⟨hlast, hchan, hqueue, hpatterns⟩ := hsole'.queueFinal (c := c) hq hd
  rw [heq]
  exact ⟨hlast, rfl, by rw [hxc, hchan, haccepted], by rw [hxc, hqueue], hpatterns.trans hp⟩

/-! ### The recovery of a cold boot -/

/-- A table of which every value is changed by one function, which leaves the default. -/
theorem Tab.get_map_values {α : Type} {d : α} {g : α → α} (hg : g d = d) (t : Tab α) (k : Nat) :
    Tab.get d (t.map fun e => (e.1, g e.2)) k = g (Tab.get d t k) := by
  induction t with
  | nil => exact hg.symm
  | cons e t ih =>
    obtain ⟨j, v⟩ := e
    rw [List.map_cons, Tab.get_cons, Tab.get_cons, ih]
    split <;> rfl

/-- A channel whose ring starts anew. -/
def Chan.restart (v : Chan) : Chan := { v with rhead := 0, rtail := 0, replyQ := [], dups := [] }

/-- Every channel's ring starts anew. -/
def State.ringsAnew (s : State) : State := { s with chans := s.chans.map fun (e : Nat × Chan) => (e.1, e.2.restart) }

theorem State.vchan_ringsAnew (s : State) (c : Nat) : s.ringsAnew.vchan c = (s.vchan c).restart := Tab.get_map_values rfl s.chans c

/-- The records of every handle dropped. -/
def State.recordsDropped (s : State) : State := (List.range 16).foldl (fun (s : State) h => s.dropRecords (h + 1)) s

theorem State.Twins.recordsDropped (h : s.Twins) : s.recordsDropped.Twins ∧ s.recordsDropped.docket = s.docket := by
  have hfold (l : List Nat) : (l.foldl (fun (s : State) h => s.dropRecords (h + 1)) s).Twins := by
    induction l generalizing s with
    | nil => exact h
    | cons k l ih => exact ih ((h.updLedger _ _).updLedger _ _)
  exact ⟨hfold _, State.docket_foldl (fun s h => State.docket_dropRecords s (h + 1)) _ _⟩

/-- The ledger merged, with every pattern unloaded and every ring anew. -/
def State.merged (s : State) : State := { s.ringsAnew.mergeCopies.recordsDropped with patterns := [], kept := none }

theorem State.recover_cold (hl : s.riser.lost = false) :
    s.recover true = ((List.range 64).foldl (fun s c => s.recoverChannel true c) s.merged).recoverOrder := by
  have hnot : ¬s.ringsAnew.riser.lost = true := by
    rw [show s.ringsAnew.riser = s.riser from rfl, hl]
    exact Bool.false_ne_true
  exact (if_neg hnot).trans rfl

/-- Two sound copies that say the same are read as they were, up to the 1,024 entries and 64 channels that a ledger has. -/
theorem State.merged_reads (h : s.Twins) (hs0 : s.riser.copy0.sound) (hs1 : s.riser.copy1.sound) :
    s.merged.Twins ∧ Tab.wf Entry.free s.merged.ledger.entries = true
      ∧ (∀ j, s.merged.entry j = if j < 1024 then s.entry j else Entry.free)
      ∧ (∀ c < 64, s.merged.chan c = s.chan c) ∧ ∀ c, s.merged.vchan c = (s.vchan c).restart := by
  have hrings : s.ringsAnew.Twins := h.of_riser rfl
  obtain ⟨hmerge, hledger, hchans⟩ := State.mergeCopies_twins hrings
  obtain ⟨hdrop, hdocket⟩ := hmerge.recordsDropped
  have hbooks := State.books_of_docket hdocket
  have hentries : s.merged.ledger.entries = (mergeLedger s.riser.copy0 s.riser.copy1).entries :=
    (congrArg Books.entries hbooks).trans (congrArg Ledger.entries hledger)
  have hrecs : s.merged.ledger.chans = (mergeLedger s.riser.copy0 s.riser.copy1).chans :=
    (congrArg Books.chans hbooks).trans (congrArg Ledger.chans hledger)
  refine ⟨hdrop.of_riser rfl, by rw [hentries]; exact mergeLedger_wf .., fun j => ?_, fun c hc => ?_, fun c => ?_⟩
  · rw [State.entry, hentries, mergeLedger_entry hs0 hs1 h.same, State.entry, h.ledger]
  · rw [State.chan, hrecs, mergeLedger_chan hs0 hs1 h.same hc, State.chan, h.ledger]
  · have hv : s.merged.vchan c = s.ringsAnew.mergeCopies.vchan c := State.vchan_of_docket hdocket c
    rw [hv, State.vchan, hchans]
    exact s.vchan_ringsAnew c

theorem range_split {c n : Nat} (h : c < n) : ∃ l m, List.range n = l ++ c :: m ∧ c ∉ l ∧ c ∉ m := by
  obtain ⟨l, m, heq⟩ := List.append_of_mem (List.mem_range.mpr h)
  have hnodup := heq ▸ List.nodup_range (n := n)
  obtain ⟨-, hm, hdisj⟩ := List.nodup_append.mp hnodup
  exact ⟨l, m, heq, fun hc => hdisj c hc c List.mem_cons_self rfl, (List.nodup_cons.mp hm).1⟩

/-- Recovery with one entry held: its pour is surrendered. -/
theorem State.Sole.recover_surrenders (h : s.Sole i e) (hun : e.unended) (hc : e.chan.toNat < 64)
    (hopen : (s.chan e.chan.toNat).state ≠ .closed) (hr : (s.chan e.chan.toNat).replied.toNat < e.pour.toNat)
    (hq : (s.vchan e.chan.toNat).replyQ = []) (hd : (s.vchan e.chan.toNat).dups = []) (hp : s.patterns = []) :
    ∃ epoch now, State.Surrenders (((List.range 64).foldl (fun s c => s.recoverChannel true c) s).recoverOrder) i e (e.surrender epoch now) := by
  obtain ⟨l, m, hsplit, hl, hm⟩ := range_split hc
  obtain ⟨hsole, hchan, hchans, hpatterns⟩ := h.recoverChannels_other l hl
  rw [hsplit, List.foldl_append, List.foldl_cons]
  generalize l.foldl (fun s c => s.recoverChannel true c) s = u at *
  have hv : u.vchan e.chan.toNat = s.vchan e.chan.toNat := by rw [State.vchan, hchans, State.vchan]
  have hown := hsole.recoverChannel_own hun (by rw [hchan]; exact hopen) (by rw [hchan]; exact hr) (by rw [hv, hq]) (by rw [hv, hd])
    (hpatterns.trans hp)
  obtain ⟨hsole', hchan', hchans', hpatterns'⟩ := hown.sole.recoverChannels_other m hm
  refine ⟨u.epochOf e.chan.toNat, u.cnt.regs.time, ?_⟩
  exact {
    sole := hsole'.of_entries (hsole'.twins.of_riser rfl) rfl
    chan := rfl
    accepted := (congrArg ChanRec.accepted hchan').trans hown.accepted
    queue := (congrArg (fun t : Tab Chan => (Tab.get Chan.init t e.chan.toNat).replyQ) hchans').trans hown.queue
    unloaded := hpatterns'.trans hown.unloaded }

/-! ### Stage 3 of a cold boot, and its end -/

/-- From `s` to `t` nothing changes of the docket and of the loaded patterns, and equal copies stay equal. -/
structure State.SideWork (s t : State) : Prop where
  twins    : s.Twins → t.Twins
  docket   : t.docket = s.docket
  patterns : t.patterns = s.patterns

theorem State.SideWork.refl (s : State) : s.SideWork s := ⟨id, rfl, rfl⟩

theorem State.SideWork.trans (h : s.SideWork t) (h' : t.SideWork u) : s.SideWork u :=
  ⟨h'.twins ∘ h.twins, h'.docket.trans h.docket, h'.patterns.trans h.patterns⟩

theorem State.sideWork_updLedger (s : State) (l : RLine) {f : Ledger → Ledger} (he : ∀ x, (f x).entries = x.entries)
    (hc : ∀ x, (f x).chans = x.chans) (hs : ∀ x, (f x).slots = x.slots) (hm : ∀ x, (f x).maps = x.maps) : s.SideWork (s.updLedger l f) :=
  ⟨fun h => h.updLedger l f, State.docket_updLedger_other s l he hc hs hm, rfl⟩

theorem State.sideWork_logStatus (s : State) (st : BitVec 16) (x i a : Nat) (l : Bool) (p : Option (Nat × Word64)) :
    s.SideWork (s.logStatus st x i a l p) := by
  have hmsix (s : State) (p : HostPort) (v : Nat) : (s.msix p v).riser = s.riser := by
    unfold State.msix
    split <;> cases p <;> rfl
  have hriser : (s.logStatus st x i a l p).riser = s.riser := (hmsix ..).trans (hmsix ..)
  exact ⟨fun h => h.of_riser hriser, State.docket_logStatus .., (State.logStatus_accounts ..).patterns⟩

theorem State.sideWork_err (s : State) (r : Err) : s.SideWork { s with err := r } := ⟨fun h => h.of_riser rfl, rfl, rfl⟩

theorem State.sideWork_saveHealth (s : State) : s.SideWork s.saveHealth :=
  s.sideWork_updLedger .health (fun _ => rfl) (fun _ => rfl) (fun _ => rfl) fun _ => rfl

theorem State.sideWork_addLocal (s : State) (k : Nat) : s.SideWork (s.addLocal k) := by
  unfold State.addLocal
  dsimp only
  split
  · exact (s.sideWork_err _).trans (State.sideWork_saveHealth _)
  · exact s.sideWork_err _

theorem State.sideWork_reportTrip (s : State) : s.SideWork s.reportTrip := by
  unfold State.reportTrip
  split
  · exact (s.sideWork_logStatus ..).trans (State.sideWork_addLocal ..)
  · exact State.SideWork.refl s

theorem State.sideWork_confirmBoot (s : State) : s.SideWork s.confirmBoot := by
  unfold State.confirmBoot
  extract_lets i u
  split
  · have hrecord : s.SideWork u := s.sideWork_updLedger .bootRecord (fun _ => rfl) (fun _ => rfl) (fun _ => rfl) fun _ => rfl
    exact hrecord.trans ⟨fun h => h.of_riser rfl, rfl, rfl⟩
  · split
    · exact s.sideWork_updLedger .bootRecord (fun _ => rfl) (fun _ => rfl) (fun _ => rfl) fun _ => rfl
    · exact State.SideWork.refl s

/-- What the Riser's copies, the channels and the patterns tell of a surrender. -/
theorem State.Surrenders.of_ledger (h : s.Surrenders i e x) (ht : t.Twins) (he : t.ledger.entries = s.ledger.entries)
    (hc : t.ledger.chans = s.ledger.chans) (hv : t.chans = s.chans) (hp : t.patterns = s.patterns) : t.Surrenders i e x where
  sole := h.sole.of_entries ht he
  chan := h.chan
  accepted := by rw [State.chan, hc, ← State.chan, h.accepted]
  queue := by rw [State.vchan, hv, ← State.vchan, h.queue]
  unloaded := hp.trans h.unloaded

theorem State.Surrenders.sideWork (h : s.Surrenders i e x) (hw : s.SideWork t) : t.Surrenders i e x :=
  h.of_ledger (hw.twins h.sole.twins) (congrArg (fun d : Docket => d.books.entries) hw.docket)
    (congrArg (fun d : Docket => d.books.chans) hw.docket) (congrArg Docket.chans hw.docket) hw.patterns

theorem State.Surrenders.of_rolls (h : s.Surrenders i e x) (hr : t.rolls = s.rolls) : t.Surrenders i e x :=
  have hledger := State.ledger_of_rolls hr
  h.of_ledger (h.sole.twins.of_riser (congrArg Rolls.riser hr)) (congrArg Ledger.entries hledger) (congrArg Ledger.chans hledger)
    (congrArg Rolls.chans hr) (congrArg Rolls.patterns hr)

/-- The Sprue that serves decides nothing while the copies are equal. -/
theorem State.Surrenders.sprue (h : s.Surrenders i e x) (u : Sprue) (r : Err) : State.Surrenders { s with sprue := u, err := r } i e x :=
  have hledger : State.ledger { s with sprue := u, err := r } = s.ledger := h.sole.twins.ledger_of_riser rfl
  h.of_ledger (h.sole.twins.of_riser rfl) (congrArg Ledger.entries hledger) (congrArg Ledger.chans hledger) rfl rfl

/-- What stage 3 of a cold boot does after the recovery leaves the surrender. -/
theorem State.Surrenders.stage3 (hcold : s.boot.recoverCold = true) (h : (s.recover true).Surrenders i e x) :
    (s.stage3 .ok).Surrenders i e x := by
  unfold State.stage3
  rw [hcold]
  extract_lets works cold u _ _ y z w
  have hflask : State.Surrenders y i e x :=
    (State.Surrenders.sprue h (u.sprue.boot works) _).sideWork
      (State.sideWork_updLedger _ .flask (fun _ => rfl) (fun _ => rfl) (fun _ => rfl) fun _ => rfl)
  have htrip : State.Surrenders z i e x := hflask.sideWork y.sideWork_reportTrip
  exact htrip.sideWork ⟨fun h => h.of_riser rfl, rfl, rfl⟩

/-- The end of the stage, with which the part may become ready, leaves the surrender. -/
theorem State.Surrenders.noteStage (h : s.Surrenders i e x) (n : Nat) : (s.noteStage n).Surrenders i e x :=
  h.sideWork ⟨fun h => h.of_riser rfl, rfl, rfl⟩

theorem State.Surrenders.becomeReady (h : s.Surrenders i e x) : s.becomeReady.Surrenders i e x :=
  (h.sideWork s.sideWork_confirmBoot).of_rolls s.rolls_becomeReady

/-- The cold boot of two sound copies that say the same, with one entry held whose pour had no outcome. -/
theorem State.Twins.recover_surrenders (h : s.Twins) (hs0 : s.riser.copy0.sound) (hs1 : s.riser.copy1.sound) (hi : i < 1024)
    (hun : (s.entry i).unended) (hothers : ∀ j, j ≠ i → (s.entry j).state = .free) (hc : (s.entry i).chan.toNat < 64)
    (hopen : (s.chan (s.entry i).chan.toNat).state ≠ .closed)
    (hr : (s.chan (s.entry i).chan.toNat).replied.toNat < (s.entry i).pour.toNat) :
    ∃ epoch now, (s.recover true).Surrenders i (s.entry i) ((s.entry i).surrender epoch now) := by
  obtain ⟨htwins, hwf, hentry, hchan, hvchan⟩ := State.merged_reads h hs0 hs1
  have hsole : s.merged.Sole i (s.entry i) := {
    twins := htwins
    wf := hwf
    entry := by rw [hentry, if_pos hi]
    held := hun.state_ne.2.2
    others := fun j hj => by
      rw [hentry]
      split
      · exact hothers j hj
      · rfl }
  rw [State.recover_cold h.lost]
  exact hsole.recover_surrenders hun hc (by rwa [hchan _ hc]) (by rwa [hchan _ hc]) (by rw [hvchan]; rfl) (by rw [hvchan]; rfl) rfl

theorem execBootStageDone_surrenders (h : s.stageRuns 3 = true) (hcold : s.boot.recoverCold = true)
    (hx : (s.recover true).Surrenders i e x) : ∃ t, exec (.bootStageDone 3 .ok) s = .next t ∧ t.Surrenders i e x := by
  have hstage : (s.runStage .ok 3).Surrenders i e x := hx.stage3 hcold
  have hphase : (s.runStage .ok 3).boot.phase = .booting := (State.stage3_cold true hcold).2.trans (State.phase_of_stageRuns h)
  refine ⟨_, execBootStageDone_goesOn h (by decide) hphase, ?_⟩
  split
  · exact (hstage.noteStage 3).becomeReady
  · exact hstage.noteStage 3

end Sys2Proof.Machine

namespace Sys2Proof.Machine

/-- Settles O58: recovery meets one entry held in two copies that say the same, surrenders it as it comes to the entry's channel, and the
rest of the boot changes neither the entries nor the channels. -/
theorem poursSurrendered : Obligations.PoursSurrendered := by
  unfold Obligations.PoursSurrendered
  intro s i e hruns hcold hlost h0 h1 hsame hbad0 hbad1 hheld0 hheld1 hi he hothers hun hc hopen hr
  subst he
  have htwins : s.Twins := ⟨hlost, h0, h1, hsame⟩
  obtain ⟨epoch, now, hrecover⟩ := htwins.recover_surrenders ⟨hbad0, hheld0⟩ ⟨hbad1, hheld1⟩ hi hun hothers hc hopen hr
  obtain ⟨t, hexec, hsole, hchan, haccepted, hqueue, hunloaded⟩ := execBootStageDone_surrenders hruns hcold hrecover
  rw [hchan] at haccepted hqueue
  refine ⟨t, hexec, ?_⟩
  rw [hsole.entry]
  exact ⟨rfl, rfl, rfl, rfl, hsole.others, haccepted, hqueue, hunloaded⟩

end Sys2Proof.Machine
end

section
/-! SUPPORT. Bytes under a keystream, the header's fields, the bytes of a frame and the lane of each (R263, R264, R314), and the lanes of the
floor link (R318, R319). -/

namespace Sys2Proof.Machine

/-! ### Keystreams -/

theorem length_keystream (n seed : Nat) : (keystream n seed).length = n := by
  induction n generalizing seed with
  | zero => rfl
  | succ n ih => rw [keystream, List.length_cons, ih]

theorem length_scramble (seed : Nat) (bs : List Byte) : (scramble seed bs).length = bs.length := by
  rw [scramble, List.length_zipWith, length_keystream, Nat.min_self]

/-- A byte under the same key byte twice is the byte. -/
theorem zipWith_xor_zipWith_xor (bs ks : List Byte) (h : ks.length = bs.length) :
    List.zipWith (· ^^^ ·) (List.zipWith (· ^^^ ·) bs ks) ks = bs := by
  induction bs generalizing ks with
  | nil => rfl
  | cons b bs ih =>
    cases ks with
    | nil => cases h
    | cons k ks =>
      have htail := ih ks (Nat.succ.inj h)
      simp only [List.zipWith_cons_cons, htail, BitVec.xor_assoc, BitVec.xor_self, BitVec.xor_zero]

theorem scramble_scramble (seed : Nat) (bs : List Byte) : scramble seed (scramble seed bs) = bs := by
  rw [scramble, length_scramble, scramble]
  exact zipWith_xor_zipWith_xor bs _ (length_keystream ..)

/-! ### The header and the bytes of a frame -/

/-- The fields of a header fit their bits, so that each is read where it stands. -/
theorem frameHeader_fields {f : Frame} (hc : f.count < 64) :
    leNat (frameHeader f) / 2 ^ 64 % 2 ^ 48 = f.seq.toNat ∧ leNat (frameHeader f) / 2 ^ 112 % 2 ^ 48 = f.ackSeq.toNat
      ∧ leNat (frameHeader f) / 2 ^ 192 = f.arg.toNat := by
  have hflask := f.flaskId.isLt
  have hpace := f.pace.isLt
  have htype := f.type.isLt
  have hstream := f.stream.isLt
  have hseq := f.seq.isLt
  have hack := f.ackSeq.isLt
  have harg := f.arg.isLt
  have hnak : (if f.nak then 2 ^ 160 else 0) = 2 ^ 160 * f.nak.toNat := by cases f.nak <;> rfl
  have hbit := f.nak.toNat_lt
  rw [frameHeader, leNat_leBytes, hnak]
  generalize f.nak.toNat = nak at *
  refine ⟨?_, ?_, ?_⟩ <;> omega

theorem length_checkBytes (data : List Byte) : (checkBytes data).length = 4 := rfl

theorem length_codewordBytes (data : List Byte) (mark : BitVec 32) : (codewordBytes data mark).length = data.length + 4 := by
  rw [codewordBytes, List.length_append, List.length_zipWith, length_checkBytes, leBytes_length, Nat.min_self]

theorem length_frameCodeword {f : Frame} (hp : f.payload.length = 32 * f.count) {k : Nat} (hk : 0 < k) : (frameCodeword f k).length = 36 := by
  unfold frameCodeword
  split
  · rw [length_codewordBytes, List.length_take, List.length_drop]
    omega
  · exact List.length_replicate

theorem length_frameBytes {f : Frame} (hp : f.payload.length = 32 * f.count) : (frameBytes f).length = 1440 := by
  have hwords : ((List.range 39).flatMap fun k => frameCodeword f (k + 1)).length = 39 * 36 := by
    simp [List.length_flatMap, length_frameCodeword hp]
  rw [frameBytes, List.length_append, length_codewordBytes, frameHeader, leBytes_length, hwords]

/-! ### The lane of a byte -/

theorem nodup_lanesOf (m : BitVec 16) : (lanesOf m).Nodup := List.nodup_range.filter _

/-- The lane of a byte has the byte's rank among those in service. -/
theorem idxOf?_stripeLane {m : BitVec 16} (h : lanesOf m ≠ []) (b : Nat) :
    (lanesOf m).idxOf? (stripeLane m b) = some (b % (lanesOf m).length) := by
  have hlt : b % (lanesOf m).length < (lanesOf m).length := Nat.mod_lt _ (List.length_pos_iff.mpr h)
  have hlane : stripeLane m b = (lanesOf m)[b % (lanesOf m).length] := by
    simp only [stripeLane, List.getElem?_eq_getElem hlt, Option.getD_some]
  rw [hlane, List.idxOf?_eq_some_iff]
  refine ⟨hlt, rfl, fun j hj heq => ?_⟩
  exact absurd ((nodup_lanesOf m).getElem_inj_iff.mp heq) hj.ne

/-- A byte of a frame is where its lane, descrambled, has it. -/
theorem LineFrame.getElem?_onLane {x : LineFrame} (hp : x.frame.payload.length = 32 * x.frame.count) (hl : lanesOf x.lanes ≠ []) {b : Nat}
    (hb : b < 1440) :
    (scramble (runnerSeed (stripeLane x.lanes b)) (x.onLane (stripeLane x.lanes b)))[b / (lanesOf x.lanes).length]?
      = (frameBytes x.frame)[b]? := by
  have hpos := List.length_pos_iff.mpr hl
  have hk : b / (lanesOf x.lanes).length < laneLength x.lanes := by
    have hround := Nat.lt_mul_div_succ (1440 + (lanesOf x.lanes).length - 1) hpos
    rw [Nat.mul_succ] at hround
    rw [laneLength, Nat.div_lt_iff_lt_mul hpos, Nat.mul_comm]
    omega
  have hb' : b < (frameBytes x.frame).length := by rwa [length_frameBytes hp]
  rw [LineFrame.onLane, scramble_scramble, List.getElem?_map, List.getElem?_range hk, Option.map_some, idxOf?_stripeLane hl]
  dsimp only
  rw [Nat.div_add_mod', List.getElem?_eq_getElem hb', Option.getD_some]

/-! ### The lanes of the floor link -/

/-- The place of a lane in the stripe: the first stripe index that comes to it. -/
def floorPlace (l : Nat) : Nat := 25 * (l % 16) + l / 16

theorem stripeFloor_eq (k : Nat) : stripeFloor k = 16 * (k % 400 % 25) + k % 400 / 25 := rfl

theorem stripeFloor_lt (k : Nat) : stripeFloor k < 400 := by
  rw [stripeFloor_eq]
  omega

theorem floorPlace_stripeFloor (k : Nat) : floorPlace (stripeFloor k) = k % 400 := by
  rw [floorPlace, stripeFloor_eq]
  omega

theorem floorPlace_lt {l : Nat} (hl : l < 400) : floorPlace l < 400 := by
  unfold floorPlace
  omega

theorem stripeFloor_floorPlace {l : Nat} (hl : l < 400) (i : Nat) : stripeFloor (floorPlace l + 400 * i) = l := by
  rw [stripeFloor_eq, Nat.add_mul_mod_self_left, Nat.mod_eq_of_lt (floorPlace_lt hl), floorPlace]
  omega

theorem floorLane_lt (w j : Nat) : floorLane w j < 400 := stripeFloor_lt _

/-- Two symbols of one codeword are fewer than 400 places of the stripe apart, and so on two lanes. -/
theorem floorLane_inj {w i j : Nat} (hi : i < 36) (hj : j < 36) (h : floorLane w i = floorLane w j) : i = j := by
  have hplace := congrArg floorPlace h
  rw [floorLane, floorLane, floorPlace_stripeFloor, floorPlace_stripeFloor] at hplace
  omega

theorem floorSymbols_eq (l : Nat) :
    floorSymbols l = (List.range 9).map fun i => ((floorPlace l + 400 * i) / 36, (floorPlace l + 400 * i) % 36) := rfl

theorem length_floorSymbols (l : Nat) : (floorSymbols l).length = 9 := by rw [floorSymbols_eq, List.length_map, List.length_range]

/-- A lane carries the symbols whose lane it is. -/
theorem mem_floorSymbols {l : Nat} (hl : l < 400) {w j : Nat} : (w, j) ∈ floorSymbols l ↔ w < 100 ∧ j < 36 ∧ floorLane w j = l := by
  have hplace := floorPlace_lt hl
  simp only [floorSymbols_eq, List.mem_map, List.mem_range, Prod.mk.injEq]
  constructor
  · rintro ⟨i, hi, rfl, rfl⟩
    refine ⟨by omega, by omega, ?_⟩
    rw [floorLane, Nat.div_add_mod, stripeFloor_floorPlace hl]
  · rintro ⟨hw, hj, rfl⟩
    refine ⟨(36 * w + j) / 400, by omega, ?_⟩
    rw [floorLane, floorPlace_stripeFloor, Nat.mod_add_div]
    omega

/-- A lane of a mask with one lane set is that lane. -/
theorem eq_of_getLsbD_one_shift {l k : Nat} (h : (1#400 <<< l).getLsbD k = true) : k = l := by
  simp only [BitVec.getLsbD_shiftLeft, BitVec.getLsbD_one, Bool.and_eq_true, Bool.not_eq_true', decide_eq_true_eq, decide_eq_false_iff_not] at h
  omega

/-- A rising list whose members are all the same has one member at most. -/
theorem length_le_one_of_forall_eq {l : List Nat} (hp : l.Pairwise (· < ·)) (h : ∀ a ∈ l, ∀ b ∈ l, a = b) : l.length ≤ 1 := by
  cases l with
  | nil => exact Nat.zero_le 1
  | cons a l => exact (congrArg List.length (eq_singleton_of_forall Nat.lt_irrefl hp List.mem_cons_self fun b hb => h b hb a List.mem_cons_self)).le

/-- One lane out damages no codeword (R319). -/
theorem floorDamaged_one (l w : Nat) : floorDamaged (1#400 <<< l) w = false := by
  have hone : ((List.range 36).filter fun j => (1#400 <<< l).getLsbD (floorLane w j)).length ≤ 1 := by
    refine length_le_one_of_forall_eq (List.pairwise_lt_range.filter _) fun i hi j hj => ?_
    obtain ⟨hi, hil⟩ := List.mem_filter.mp hi
    obtain ⟨hj, hjl⟩ := List.mem_filter.mp hj
    exact floorLane_inj (List.mem_range.mp hi) (List.mem_range.mp hj) ((eq_of_getLsbD_one_shift hil).trans (eq_of_getLsbD_one_shift hjl).symm)
  exact decide_eq_false (by omega)

theorem scramble_floorOnLane (out : BitVec 400) (slot : List (List Byte)) (l : Nat) :
    scramble (floorSeed l) (floorOnLane out slot l)
      = if out.getLsbD l then List.replicate 9 0 else (floorSymbols l).map fun x => ((slot.getD x.1 [])[x.2]?).getD 0 := by
  rw [floorOnLane, scramble_scramble]
  split
  · rw [List.map_const', length_floorSymbols]
  · rfl

end Sys2Proof.Machine

namespace Sys2Proof.Machine

/-- Settles O60: a keystream under itself is zero, every field of the header fits its bits, a byte's lane has the byte's rank among those in
service, and the stripe of the floor link takes two symbols of one codeword, fewer than 400 places apart, to two lanes. -/
theorem wireForms : Obligations.WireForms := by
  unfold Obligations.WireForms
  refine ⟨fun seed bs => ⟨length_scramble seed bs, scramble_scramble seed bs⟩,
    fun f hc => ⟨leBytes_length .., frameHeader_fields hc⟩,
    fun x _ hp hl => ⟨length_frameBytes hp, fun b hb => LineFrame.getElem?_onLane hp hl hb⟩,
    fun w hw j hj => ⟨floorLane_lt w j, (mem_floorSymbols (floorLane_lt w j)).mpr ⟨hw, hj, rfl⟩, fun i hi => floorLane_inj hi hj⟩,
    fun l hl => ⟨length_floorSymbols l, fun x hx => (mem_floorSymbols hl).mp hx⟩,
    fun l _ w _ => floorDamaged_one l w, scramble_floorOnLane⟩

end Sys2Proof.Machine
end

section
/-! SUPPORT. What the stop of an attempt leaves (R92): the copies and collectives that still write change memory, the attempt and the
accounts, and so no port. -/

namespace Sys2Proof.Machine

variable {s t u : State}

/-! ### What has been admitted completes -/

/-- The state `t` is `s` but for its memory, its attempt and its accounts. -/
def State.Lands (s t : State) : Prop := State.Carries { s with run := t.run } t

theorem State.Carries.lands (h : s.Carries t) : s.Lands t := by
  have hrun : t.run = s.run := State.Accounts.run (s := { s with mem := t.mem }) h
  unfold State.Lands
  rw [hrun]
  exact h

theorem State.Lands.refl (s : State) : s.Lands s := State.Carries.lands (State.carries_mem s s.mem)

theorem State.Lands.trans (h : s.Lands t) (h' : t.Lands u) : s.Lands u :=
  ⟨h'.eq.trans (congrArg (fun y : State => { y with
    run := u.run
    mem := u.mem
    pins := u.pins
    riser := u.riser
    trail := u.trail
    cope := u.cope
    drag := u.drag
    power := u.power
    err := u.err
    cnt := u.cnt }) h.eq)⟩

theorem State.Lands.fst {α : Type} {x : State × α} {a : α} (h : s.Lands x.1) (hx : x = (t, a)) : s.Lands t := by
  rwa [hx] at h

theorem State.Lands.foldl {α : Type} {f : State → α → State} (hf : ∀ (s : State) (a : α), s.Lands (f s a)) (l : List α) (s : State) :
    s.Lands (l.foldl f s) := by
  induction l generalizing s with
  | nil => exact State.Lands.refl s
  | cons a l ih => exact (hf s a).trans (ih _)

theorem State.Lands.runner (h : s.Lands t) : t.runner = s.runner := by rw [h.eq]

theorem State.lands_markWritten (s : State) (p : Pattern) (a : Nat) : s.Lands (s.markWritten p a) := by
  rw [State.markWritten_eq]
  exact ⟨rfl⟩

theorem CollCtx.storeD_lands (c : CollCtx) (vals : List (Nat × Nat × Bool)) (n : CollInstance) (s : State) : s.Lands (c.storeD vals n s).1 := by
  cases vals with
  | nil => exact (carryCws_carries ..).lands
  | cons v vs => exact (State.lands_markWritten ..).trans (carryCws_carries ..).lands

theorem CollCtx.combineIn_lands (c : CollCtx) (vals : List (Nat × Nat)) (n : CollInstance) (s : State) : s.Lands (c.combineIn vals n s).1 := by
  have hread := (c.readS_carries (vals.map (·.1)) s).lands
  unfold CollCtx.combineIn
  split
  · next heq => exact hread.fst heq
  · next heq => exact (hread.fst heq).trans (c.storeD_lands ..)

theorem CollCtx.takePart_lands (c : CollCtx) (k : Nat) (x : StreamSpec) (f m : Nat) (out : Option CollFault) (data : List Byte)
    (poison : List Nat) (n : CollInstance) (s : State) : s.Lands (c.takePart k x f m out data poison n s).1 := by
  unfold CollCtx.takePart
  dsimp only
  split
  · exact c.storeD_lands ..
  · split
    · exact c.storeD_lands ..
    · split
      · exact State.Lands.refl s
      · split
        · next heq => exact (c.combineIn_lands ..).fst heq
        · next heq => exact (c.combineIn_lands ..).fst heq

theorem CollCtx.beginPart_lands (c : CollCtx) (m : Nat) (out : Option CollFault) (n : CollInstance) (s : State) :
    s.Lands (c.beginPart m out n s).1 := by
  have hread := (c.readS_carries ((c.ownPart.take m).map (·.1)) s).lands
  unfold CollCtx.beginPart
  dsimp only
  split
  · split
    · next heq => exact hread.fst heq
    · next heq => exact (hread.fst heq).trans (c.storeD_lands ..)
  · exact (c.carryS_carries ..).lands.trans (c.storeD_lands ..)

theorem CollCtx.land_lands (c : CollCtx) (n : CollInstance) (s : State) : s.Lands (c.land n s) := by
  have hbegun : s.Lands (if n.begun then (s, n) else
      ((c.beginPart (c.admitted s c.beginWork n) none n s).1, (c.beginPart (c.admitted s c.beginWork n) none n s).2.1)).1 := by
    split
    · exact State.Lands.refl s
    · exact c.beginPart_lands ..
  refine hbegun.trans (State.Lands.foldl (fun s kt => ?_) _ _)
  split
  · exact State.Lands.refl s
  · split
    · exact State.Lands.refl s
    · exact c.takePart_lands ..

theorem landCopy_lands (g : Nat) (fl : Flight) (s : State) : s.Lands (landCopy g fl s) := by
  unfold landCopy
  split
  · dsimp only
    split
    · exact State.Lands.refl s
    · exact ((State.noteAll_accounts ..).carries.trans (carryCws_carries ..)).lands
  · exact State.Lands.refl s

theorem State.landAll_lands (s : State) : s.Lands s.landAll := by
  have hcopies (t : State) (c : Nat × Cluster) : t.Lands (c.2.flights.foldl (fun t fl => landCopy c.1 fl t) t) :=
    State.Lands.foldl (fun t fl => landCopy_lands c.1 fl t) _ _
  unfold State.landAll
  refine (State.Lands.foldl hcopies s.clusters s).trans (State.Lands.foldl (fun t n => ?_) _ _)
  split
  · exact CollCtx.land_lands ..
  · exact State.Lands.refl t

/-! ### The stop leaves the ports -/

theorem State.runner_endAttempt (s : State) (st : BitVec 16) (replay : Bool) : (s.endAttempt st replay).runner = s.runner := by
  unfold State.endAttempt
  split
  · rfl
  · split <;> rfl

theorem State.runner_closeCycle (s : State) : s.closeCycle.runner = s.runner := by
  unfold State.closeCycle
  split
  · exact s.landAll_lands.runner
  · rfl

theorem State.runner_stopAttempt (s : State) (st : BitVec 16) (replay : Bool) : (s.stopAttempt st replay).runner = s.runner :=
  (State.runner_closeCycle _).trans (State.runner_endAttempt ..)

theorem State.runner_logLost (s : State) : s.logLost.runner = s.runner := (State.logStatus_accounts ..).runner

theorem State.runner_eventEnds (s : State) (st : BitVec 16) (charge : Bool) : (s.eventEnds st charge).runner = s.runner := by
  unfold State.eventEnds
  split
  · rfl
  · dsimp only
    split
    · rfl
    · split
      · rw [State.runner_stopAttempt]
        split <;> rfl
      · split
        · exact State.runner_stopAttempt ..
        · exact State.runner_stopAttempt ..

theorem State.runner_endRunLost (s : State) : s.endRunLost.runner = s.runner := by
  unfold State.endRunLost
  split
  · rfl
  · split
    · exact (State.runner_stopAttempt ..).trans s.runner_logLost
    · split
      · rfl
      · exact s.runner_logLost
    · rfl

end Sys2Proof.Machine
end

section
/-! SUPPORT. Runner ports that fail or go down (R271, R279 to R281): the port itself as it then stands, for every status and for spares too. -/

namespace Sys2Proof.Machine

variable {s t u : State} {p j q : Nat} {st : BitVec 16}

/-! ### A spare brought in -/

/-- Ports are read from the Runner alone. -/
theorem State.rport_congr (h : t.runner = s.runner) (j : Nat) : t.rport j = s.rport j := by rw [State.rport, h, State.rport]

/-- A port that is not dark is one that the chip has. -/
theorem State.lt_of_rport_state (h : (s.rport p).state ≠ .dark) : p < s.runner.ports.length := by
  by_contra hp
  rw [State.rport, List.getD_eq_default _ _ (not_lt.mp hp)] at h
  exact h rfl

theorem State.rport_noSpare (s : State) (lp j : Nat) : (s.noSpare lp).rport j = s.rport j := by
  unfold State.noSpare
  split
  · rfl
  · exact State.rport_congr s.runner_endRunLost j

/-- Port p is not itself the spare brought in for it: it is no spare, or one that is out until the next join (R281). -/
def State.notSpare (s : State) (p : Nat) : Prop := p < 30 ∨ s.runner.spareOut.getLsbD (p - 30) = true

theorem State.freeSpare_ne (h : s.notSpare p) (hq : s.freeSpare p = some q) : q ≠ p := by
  have hmem := List.mem_of_find?_eq_some hq
  have hfree := List.find?_some hq
  rintro rfl
  rcases h with h | h
  · split at hmem <;> simp at hmem <;> omega
  · simp [h] at hfree

theorem State.rport_bringSpare (h : s.notSpare p) (lp : Nat) : (s.bringSpare p lp).rport p = s.rport p := by
  unfold State.bringSpare
  dsimp only
  split
  · next q hq =>
    have hne : p ≠ q := (State.freeSpare_ne (s := s.stopAwaiting lp) h hq).symm
    exact (State.startTraining_changesPorts ..).other p (by simpa using hne)
  · exact State.rport_noSpare (s.stopAwaiting lp) lp p

/-- Port p is out of its use until the next join, if it is a spare (R281). -/
def State.withSpareOut (s : State) (p : Nat) : State :=
  if 30 ≤ p then { s with runner := { s.runner with spareOut := s.runner.spareOut ||| (1#2 <<< (p - 30)) } } else s

theorem State.rport_withSpareOut (s : State) (p j : Nat) : (s.withSpareOut p).rport j = s.rport j := by
  unfold State.withSpareOut
  split <;> rfl

theorem State.notSpare_withSpareOut (hp : p < 32) (s : State) : (s.withSpareOut p).notSpare p := by
  unfold State.withSpareOut
  split
  · next h =>
    right
    obtain rfl | rfl : p = 30 ∨ p = 31 := by omega
    · simp
    · simp
  · exact .inl (by omega)

/-! ### A port that fails -/

theorem State.addLink_accounts (s : State) (p k : Nat) : s.Accounts (s.addLink p k) := by
  unfold State.addLink
  dsimp only
  split
  · exact (State.accounts_err ..).trans (State.saveHealth_accounts _)
  · exact State.accounts_err ..

/-- A port that fails is reported, but for an eye-safety event, and goes dark; then a spare is brought in where one is due (R271, R281). -/
theorem State.failPort_eq (s : State) (p : Nat) (st : BitVec 16) : ∃ u, s.Accounts u ∧ s.failPort p st =
    if 30 ≤ p then ((u.failsDark p st).withSpareOut p).bringSpare p (s.rport p).standsFor.toNat
    else if (u.failsDark p st).runner.retrains.contains (s.rport p).standsFor.toNat then
      (u.failsDark p st).bringSpare p (s.rport p).standsFor.toNat
    else u.failsDark p st := by
  have hlog : s.Accounts (if st = stEyeSafety then s else s.logStatus st unitRunner p 0 (decide (st = stMarginLow)) none) := by
    split
    · exact State.Accounts.refl s
    · exact State.logStatus_accounts ..
  have hpoints (u : State) : u.Accounts (if st = stMarginLow then u.addLink p 50 else u) := by
    split
    · exact State.addLink_accounts ..
    · exact State.Accounts.refl u
  have hacc := hlog.trans (hpoints _)
  refine ⟨_, hacc, ?_⟩
  unfold State.failPort State.failsDark Port.fails
  rw [hacc.rport]
  dsimp only
  split
  · next h =>
    rw [State.withSpareOut, if_pos h]
  · rfl

/-- A port that fails keeps its logical port and what it found, and has the code of the failure (R271). -/
theorem State.rport_failPort (hp : p < 32) (hl : p < s.runner.ports.length) (st : BitVec 16) :
    ∃ n, (s.failPort p st).rport p = (s.rport p).fails st n := by
  obtain ⟨u, hu, heq⟩ := s.failPort_eq p st
  have hdark := State.rport_failsDark (s := u) (by rwa [hu.runner]) st
  rw [hu.rport] at hdark
  refine ⟨_, Eq.trans ?_ hdark⟩
  rw [heq]
  split
  · rw [State.rport_bringSpare (State.notSpare_withSpareOut hp _), State.rport_withSpareOut]
  · split
    · exact State.rport_bringSpare (.inl (by omega)) _
    · rfl

/-! ### A port that goes down -/

/-- The port `o` once it has gone down: nothing waits there, and no NAK is awaited (R279). -/
def Port.wentDown (st : BitVec 16) (o : Port) : Port :=
  { o with
    state := .down, code := st, replay := [], txQ := [], nakOut := false, nakCount := 0, heardNaks := 0, boards := [], relays := [] }

theorem State.portDown_eq (hs : (s.rport p).state.inService = true) (st : BitVec 16) : ∃ u, s.Accounts u ∧ s.portDown p st =
    (((u.updRport p (Port.wentDown st)).eventEnds stPeerLost true).withSpareOut p).bringSpare p (s.rport p).standsFor.toNat := by
  have hlog : s.Accounts (if st = stEyeSafety then s else (s.logStatus st unitRunner p 0 true none).addLink p 100) := by
    split
    · exact State.Accounts.refl s
    · exact (State.logStatus_accounts ..).trans (State.addLink_accounts ..)
  exact ⟨_, hlog, if_pos hs⟩

theorem State.rport_portDown (hp : p < 32) (hs : (s.rport p).state.inService = true) (st : BitVec 16) :
    (s.portDown p st).rport p = (s.rport p).wentDown st := by
  have hl : p < s.runner.ports.length := State.lt_of_rport_state fun h => by simp [h, PortState.inService] at hs
  obtain ⟨u, hu, heq⟩ := State.portDown_eq hs st
  rw [heq, State.rport_bringSpare (State.notSpare_withSpareOut hp _), State.rport_withSpareOut,
    State.rport_congr (State.runner_eventEnds ..) p, State.rport_updRport_same (by rwa [hu.runner]), hu.rport]

end Sys2Proof.Machine
end

section
/-! SUPPORT. The training of a port: its frames, its optics, the lanes that pass, and the ends of the stages (R269, R271, R320, R321). -/

namespace Sys2Proof.Machine

variable {s t : State} {p n : Nat}

/-! ### The optics of a port, and training frames -/

theorem State.lport_updLight_same (hp : p < s.light.ports.length) (f : PortLight → PortLight) :
    (s.updLight p f).lport p = f (s.lport p) := by
  simp [State.lport, State.updLight, List.getD_eq_getElem?_getD, hp]

/-- The port once it has sent a training frame, which takes no SEQ and stays out of the replay buffer (R269). -/
def Port.trained (o : Port) (lanes : BitVec 16) (x : Frame) : Port :=
  { o with sent := o.sent ++ [⟨lanes, x⟩], sinceIdle := o.sinceIdle + 1 }

theorem State.rport_emitTraining (hp : p < s.runner.ports.length) (lanes : BitVec 16) (words : List Byte) :
    ∃ x, (s.emitTraining p lanes words).rport p = (s.rport p).trained lanes x ∧ x.type = 6 ∧ x.payload = words := by
  refine ⟨s.stamp p (rawFrame 6 (words.length / 32) 0 0 words []), ?_, rfl, rfl⟩
  unfold State.emitTraining State.putLine
  rw [(State.countTx_accounts ..).rport, State.rport_updRport_same hp]
  rfl

/-- The port's identity record goes out over its transmit lanes (R271). -/
theorem State.rport_sendIdentity (hp : p < s.runner.ports.length) (st : BitVec 16) :
    ∃ x, (s.sendIdentity p st).rport p = (s.rport p).trained (s.lport p).txLanes x ∧ x.type = 6 ∧ x.payload = idBytes (s.ownRecord p st) :=
  State.rport_emitTraining hp ..

/-- The running pours are no part of a port or of its optics. -/
theorem State.ports_of_running (h : t = { s with running := t.running }) (j : Nat) : t.rport j = s.rport j ∧ t.lport j = s.lport j := by
  rw [h]
  exact ⟨rfl, rfl⟩

theorem State.ports_portEnded (s : State) (op bit : Nat) (st : BitVec 16) (j : Nat) :
    (s.portEnded op bit st).rport j = s.rport j ∧ (s.portEnded op bit st).lport j = s.lport j :=
  State.ports_of_running (s.portEnded_eq op bit st) j

/-! ### The lanes that pass (R320) -/

/-- The number whose bits say which members of a list have a property. -/
def bitsWhere {α : Type} (P : α → Bool) (l : List α) : Nat := (l.mapIdx fun i c => if P c then 2 ^ i else 0).sum

theorem bitsWhere_cons {α : Type} (P : α → Bool) (c : α) (l : List α) : bitsWhere P (c :: l) = (P c).toNat + 2 * bitsWhere P l := by
  have hshift : (l.mapIdx fun i d => if P d then 2 ^ (i + 1) else 0) = (l.mapIdx fun i d => if P d then 2 ^ i else 0).map (2 * ·) := by
    refine List.ext_getElem (by simp) fun i _ _ => ?_
    rw [List.getElem_map, List.getElem_mapIdx, List.getElem_mapIdx, Nat.pow_succ', mul_ite, Nat.mul_zero]
  rw [bitsWhere, List.mapIdx_cons, List.sum_cons, hshift, List.sum_map_mul_left, List.map_id']
  cases P c <;> rfl

theorem testBit_bitsWhere {α : Type} (P : α → Bool) (l : List α) (i : Nat) : (bitsWhere P l).testBit i = (l[i]?).any P := by
  induction l generalizing i with
  | nil => exact Nat.zero_testBit i
  | cons c l ih =>
    rw [bitsWhere_cons]
    cases i with
    | zero => cases h : P c <;> simp [h, Nat.testBit_zero]
    | succ i =>
      have hhalf : ((P c).toNat + 2 * bitsWhere P l) / 2 = bitsWhere P l := by
        have := (P c).toNat_lt
        omega
      rw [Nat.testBit_succ, hhalf, ih, List.getElem?_cons_succ]

theorem length_filter_any {α : Type} (P : α → Bool) (l : List α) :
    ((List.range l.length).filter fun i => (l[i]?).any P).length = (l.filter P).length := by
  induction l with
  | nil => rfl
  | cons c l ih =>
    rw [List.length_cons, List.range_succ_eq_map, List.filter_cons, List.filter_cons, List.filter_map]
    simp only [Function.comp_def, List.getElem?_cons_succ, List.getElem?_cons_zero, Option.any_some]
    split <;> simp [ih]

theorem passMask_eq (rx : List LaneScan) : passMask rx = BitVec.ofNat 16 (bitsWhere lanePasses rx) := by
  rw [bitsWhere, List.sum_eq_foldl]
  rfl

theorem getLsbD_passMask {rx : List LaneScan} (h : rx.length = 16) (i : Nat) : (passMask rx).getLsbD i = (rx[i]?).any lanePasses := by
  rw [passMask_eq, BitVec.getLsbD_ofNat, testBit_bitsWhere]
  by_cases hi : i < 16
  · simp [hi]
  · rw [List.getElem?_eq_none (by omega)]
    exact Bool.and_false _

theorem length_lanesOf_passMask {rx : List LaneScan} (h : rx.length = 16) : (lanesOf (passMask rx)).length = (rx.filter lanePasses).length := by
  have hcount := length_filter_any lanePasses rx
  rw [h] at hcount
  simpa only [lanesOf, getLsbD_passMask h] using hcount

theorem lanePasses_iff (c : LaneScan) :
    lanePasses c = true ↔ c.eyes.all Option.isSome = true ∧ 150 ≤ min (attenuation c.p0 c.low.2) (attenuation c.p0 c.high.2) := by
  rw [lanePasses, Bool.and_eq_true, decide_eq_true_eq, laneMargin]

theorem getLsbD_passMask_iff {rx : List LaneScan} (h : rx.length = 16) (i : Nat) :
    (passMask rx).getLsbD i = true ↔ ∃ c, rx[i]? = some c ∧ c.eyes.all Option.isSome = true
      ∧ 150 ≤ min (attenuation c.p0 c.low.2) (attenuation c.p0 c.high.2) := by
  simp only [getLsbD_passMask h, Option.any_eq_true, lanePasses_iff]

/-! ### The ends of the stages -/

/-- A port that trains is one that the chip has. -/
theorem State.lt_of_training (h : (s.rport p).state = .training) : p < s.runner.ports.length :=
  State.lt_of_rport_state fun hd => by rw [h] at hd; cases hd

/-- The stage in progress may end. -/
theorem State.atStage.mayEnd (h : s.atStage p n) :
    ¬((s.rport p).state ≠ .training ∨ (s.rport p).stage ≠ n ∨ (s.seq (portDomain p)).state ≠ .on) := by
  obtain ⟨htrains, hstage, hon⟩ := h
  simp [htrains, hstage, hon]

section

variable {p : Fin 32}

theorem exec_stageFailed (h : s.atStage p.val n) :
    exec (.trainingStageDone p n .failed) s = .next (s.failPort p (stageCode n)) := if_neg h.mayEnd

theorem exec_stageOne (h : s.atStage p.val 1) : exec (.trainingStageDone p 1 .ok) s = .next (s.stageOne p) := if_neg h.mayEnd

theorem exec_stageTwo (h : s.atStage p.val 2) (tx : BitVec 16) (rx : List LaneScan) :
    exec (.trainingStageDone p 2 (.margins tx rx)) s = .next (s.stageTwo p tx rx) := if_neg h.mayEnd

theorem exec_stageThree (h : s.atStage p.val 3) :
    exec (.trainingStageDone p 3 .ok) s = .next ((s.updRport p fun o => { o with stage := 4 }).sendIdentity p 0) := if_neg h.mayEnd

theorem exec_stageFour (h : s.atStage p.val 4) (hv : (s.rport p).sentVerdict = 1) :
    exec (.trainingStageDone p 4 .ok) s = .next (s.updRport p fun o => { o with stage := 5 }) :=
  (if_neg h.mayEnd).trans (congrArg _ (if_pos hv))

theorem exec_stageFive (h : s.atStage p.val 5) (hv : (s.rport p).sentVerdict = 1) :
    exec (.trainingStageDone p 5 .ok) s = .next (s.updRport p fun o => { o with stage := 6 }) :=
  (if_neg h.mayEnd).trans (congrArg _ (if_pos hv))

theorem exec_stageSix (h : s.atStage p.val 6) (hv : (s.rport p).sentVerdict = 1) (hg : (s.rport p).gotVerdict = 1) :
    exec (.trainingStageDone p 6 .ok) s = .next (s.letIn p) := (if_neg h.mayEnd).trans (congrArg _ (if_pos ⟨hv, hg⟩))

end

theorem State.stageOne_absent (h : s.light.srcPresent.getLsbD (p / 8) = false) : s.stageOne p = s.failPort p stMarginLow := by
  unfold State.stageOne
  rw [h]
  rfl

theorem State.stageOne_held (h : s.light.srcPresent.getLsbD (p / 8) = true) (he : s.light.enabling.getLsbD p = true) : s.stageOne p = s := by
  simp only [State.stageOne, h, he, Bool.not_true, Bool.false_eq_true, if_false, if_true]

/-- Stage 1 ends with every ring in lock and calibrated at its heater setting (R309, R321). -/
theorem State.stageOne_locks (h : s.light.srcPresent.getLsbD (p / 8) = true) (he : s.light.enabling.getLsbD p = false)
    (hp : p < s.runner.ports.length) (hl : p < s.light.ports.length) :
    (s.stageOne p).rport p = { s.rport p with stage := 2 } ∧ ((s.stageOne p).lport p).txLocked = 0xFFFF
      ∧ ((s.stageOne p).lport p).rxLocked = 0xFFFF ∧ ((s.stageOne p).lport p).calib = (s.lport p).heater := by
  simp only [State.stageOne, h, he, Bool.not_true, Bool.false_eq_true, if_false]
  have hport := State.rport_updRport_same hp fun o => { o with stage := 2 }
  have hlight := State.lport_updLight_same (s := s.updRport p fun o => { o with stage := 2 }) hl fun o => { o with
    txLocked := 0xFFFF
    rxLocked := 0xFFFF
    detune := []
    lag := []
    calib := o.heater
    coef := (List.range 32).map fun k => (k, ringCoef (s.free + k)) }
  refine ⟨hport, ?_⟩
  exact ⟨congrArg PortLight.txLocked hlight, congrArg PortLight.rxLocked hlight, congrArg PortLight.calib hlight⟩

/-- The optics as the margin test of stage 2 sets them (R320). -/
def PortLight.margined (tx : BitVec 16) (rx : List LaneScan) (o : PortLight) : PortLight :=
  { o with
    pass := passMask rx, worst := worstMargin rx, thresholds := thresholdsOf rx, txLanes := tx, rxLanes := passMask rx, rxWant := passMask rx }

theorem State.stageTwo_eq (s : State) (p : Nat) (tx : BitVec 16) (rx : List LaneScan) : s.stageTwo p tx rx =
    if (lanesOf tx).length < 14 ∨ (lanesOf (passMask rx)).length < 14 then (s.updLight p (PortLight.margined tx rx)).failPort p stMarginLow
    else ((s.updLight p (PortLight.margined tx rx)).updRport p fun o => { o with stage := 3 }).portEnded opMarginTest
      (s.rport p).standsFor.toNat stOk := rfl

theorem State.stageTwo_passes {tx : BitVec 16} {rx : List LaneScan} (ht : 14 ≤ (lanesOf tx).length) (hr : 14 ≤ (lanesOf (passMask rx)).length)
    (hp : p < s.runner.ports.length) (hl : p < s.light.ports.length) :
    (s.stageTwo p tx rx).rport p = { s.rport p with stage := 3 } ∧ (s.stageTwo p tx rx).lport p = (s.lport p).margined tx rx := by
  rw [State.stageTwo_eq, if_neg (by omega), (State.ports_portEnded ..).1, (State.ports_portEnded ..).2]
  exact ⟨State.rport_updRport_same (s := s.updLight p (PortLight.margined tx rx)) hp _, State.lport_updLight_same hl _⟩

/-- Stage 4 begins with the port's own identity record (R271). -/
theorem State.rport_stageThree (hp : p < s.runner.ports.length) :
    ∃ x, ((s.updRport p fun o => { o with stage := 4 }).sendIdentity p 0).rport p
        = Port.trained { s.rport p with stage := 4 } (s.lport p).txLanes x
      ∧ x.type = 6 ∧ x.payload = idBytes (s.ownRecord p 0) := by
  have hport := State.rport_updRport_same hp fun o => { o with stage := 4 }
  have hown : (s.updRport p fun o => { o with stage := 4 }).ownRecord p 0 = s.ownRecord p 0 := by
    unfold State.ownRecord
    rw [hport]
    rfl
  obtain ⟨x, hsent, htype, hpayload⟩ := State.rport_sendIdentity (s := s.updRport p fun o => { o with stage := 4 }) (by simpa using hp) 0
  rw [hport] at hsent
  exact ⟨x, hsent, htype, hpayload.trans (congrArg idBytes hown)⟩

/-- The port as its admission leaves it, with all its lanes or not (R269). -/
def Port.letIn (full : Bool) (o : Port) : Port :=
  { o with
    state := if full then .admitted else .degraded
    stage := 0
    code := stOk
    txSeq := 0
    rxSeq := 0
    nextAck := 0
    nakOut := false
    nakCount := 0
    heardNaks := 0
    replay := []
    txQ := []
    sinceIdle := 0
    pace := 16 }

theorem State.rport_letIn (hp : p < s.runner.ports.length) :
    (s.letIn p).rport p = (s.rport p).letIn (decide ((s.lport p).lanes = 0xFFFF)) := by
  have hport := State.rport_updRport_same hp (Port.letIn (decide ((s.lport p).lanes = 0xFFFF)))
  unfold State.letIn
  dsimp only
  rw [(State.ports_portEnded ..).1, ← hport]
  unfold Port.letIn
  simp only [decide_eq_true_eq]
  rfl

end Sys2Proof.Machine

namespace Sys2Proof.Machine

/-- Settles O43: each end of a stage by its own lemma; a lane is in the mask of a margin test where its scan passes, and a port that fails
keeps the code through the spare that may be brought in for it. -/
theorem trainingStages : Obligations.TrainingStages := by
  unfold Obligations.TrainingStages
  intro p s o ho
  subst ho
  have hfails (u : State) (h : (u.rport p.val).state = .training) (st : BitVec 16) :
      ((u.failPort p st).rport p).state = .failed ∧ ((u.failPort p st).rport p).code = st := by
    obtain ⟨n, hn⟩ := State.rport_failPort p.isLt (State.lt_of_training h) st
    rw [hn]
    exact ⟨rfl, rfl⟩
  refine ⟨fun hat hsrc => ⟨fun hen hl => ?_, fun hen => ?_⟩, fun hat hsrc => ?_, fun tx rx hat hlen => ⟨fun htx hrx hl => ?_, fun hfew => ?_⟩,
    fun hat => ?_, fun n hn hat hsent => ?_, fun hat hsent hgot => ?_, fun n hat => ⟨_, exec_stageFailed hat, hfails s hat.1 _⟩⟩
  · obtain ⟨hport, hlocks⟩ := State.stageOne_locks hsrc hen (State.lt_of_training hat.1) hl
    refine ⟨_, exec_stageOne hat, ?_, ?_, hlocks⟩
    · rw [hport]
    · rw [hport]
      exact hat.1
  · rw [exec_stageOne hat, State.stageOne_held hsrc hen]
  · rw [exec_stageOne hat, State.stageOne_absent hsrc]
    exact ⟨_, rfl, hfails s hat.1 _⟩
  · rw [← length_lanesOf_passMask hlen] at hrx
    obtain ⟨hport, hlight⟩ := State.stageTwo_passes htx hrx (State.lt_of_training hat.1) hl
    refine ⟨_, exec_stageTwo hat tx rx, ?_⟩
    rw [hport, hlight]
    exact ⟨rfl, rfl, getLsbD_passMask_iff hlen, rfl⟩
  · rw [← length_lanesOf_passMask hlen] at hfew
    rw [exec_stageTwo hat, State.stageTwo_eq, if_pos hfew]
    exact ⟨_, rfl, hfails (s.updLight p (PortLight.margined tx rx)) hat.1 _⟩
  · obtain ⟨x, hport, htype, hpayload⟩ := State.rport_stageThree (State.lt_of_training hat.1)
    refine ⟨_, x, exec_stageThree hat, ?_⟩
    rw [hport]
    exact ⟨rfl, hat.1, rfl, htype, hpayload⟩
  · have hport (k : Nat) := State.rport_updRport_same (State.lt_of_training hat.1) fun o => { o with stage := k }
    simp only [List.mem_cons, List.not_mem_nil, or_false] at hn
    obtain rfl | rfl := hn
    · exact ⟨_, exec_stageFour hat hsent, hport 5⟩
    · exact ⟨_, exec_stageFive hat hsent, hport 6⟩
  · refine ⟨_, exec_stageSix hat hsent hgot, ?_⟩
    rw [State.rport_letIn (State.lt_of_training hat.1)]
    refine ⟨rfl, rfl, ?_, rfl⟩
    simp only [Port.letIn, decide_eq_true_eq]

end Sys2Proof.Machine
end

section
/-! SUPPORT. A record of the peer's identity taken: noted, checked once, and answered (R271, R272, Table 14-5). -/

namespace Sys2Proof.Machine

variable {s : State} {p : Nat} {r : IdRecord}

theorem exec_identityRecord {p : Fin 32} (h : (s.rport p).state = .training) (hs : 4 ≤ (s.rport p).stage) (r : IdRecord) :
    exec (.identityRecord p r) s = .next (s.takeRecord p r) := congrArg Host.Outcome.next (if_pos ⟨h, hs⟩)

/-- The port `o` once it has noted a record, and that the peer's verdict is 1 where it is. -/
def Port.noted (r : IdRecord) (o : Port) : Port := { o with found := r, gotVerdict := if r.verdict = 1 then 1 else o.gotVerdict }

/-- A record and its verdict noted. -/
def State.noted (s : State) (p : Nat) (r : IdRecord) : State :=
  (s.updRport p fun o => { o with found := r }).updRport p fun o => { o with gotVerdict := if r.verdict = 1 then 1 else o.gotVerdict }

theorem State.length_ports_noted (s : State) (p : Nat) (r : IdRecord) : (s.noted p r).runner.ports.length = s.runner.ports.length := by
  simp [State.noted]

theorem State.rport_noted (hp : p < s.runner.ports.length) (r : IdRecord) : (s.noted p r).rport p = (s.rport p).noted r := by
  rw [State.noted, State.rport_updRport_same (by simpa using hp), State.rport_updRport_same hp, Port.noted]

theorem State.length_ports_sendIdentity (s : State) (p : Nat) (st : BitVec 16) :
    (s.sendIdentity p st).runner.ports.length = s.runner.ports.length := by
  unfold State.sendIdentity State.emitTraining State.putLine
  rw [(State.countTx_accounts ..).runner, State.length_ports_updRport]

/-- What a port has noted is no part of the checks of Table 14-5. -/
theorem State.checkIdentity_noted (s : State) (p lp : Nat) (r : IdRecord) : (s.noted p r).checkIdentity p lp r = s.checkIdentity p lp r := rfl

/-- VERDICT 2 of the peer fails the port with the peer's status. -/
theorem State.takeRecord_rejected (h : r.verdict = 2) :
    s.takeRecord p r = (s.updRport p fun o => { o with found := r }).failPort p r.verdictStatus := if_pos h

theorem State.takeRecord_eq (h : r.verdict ≠ 2) : s.takeRecord p r =
    if ((s.noted p r).rport p).sentVerdict = 1 then s.noted p r
    else match (s.noted p r).checkIdentity p ((s.noted p r).rport p).standsFor.toNat r with
      | .error st => (((s.noted p r).updRport p fun o => { o with sentVerdict := 2 }).sendIdentity p st).failPort p st
      | .ok lp => ((s.noted p r).updRport p fun o => { o with sentVerdict := 1, standsFor := BitVec.ofNat 5 lp }).sendIdentity p 0 := if_neg h

/-- A port that has sent its verdict notes the record. -/
theorem State.takeRecord_again (h : r.verdict ≠ 2) (hp : p < s.runner.ports.length) (hv : (s.rport p).sentVerdict = 1) :
    s.takeRecord p r = s.noted p r := by
  rw [State.takeRecord_eq h, State.rport_noted hp]
  exact if_pos hv

theorem State.takeRecord_first (h : r.verdict ≠ 2) (hp : p < s.runner.ports.length) (hv : (s.rport p).sentVerdict ≠ 1) : s.takeRecord p r =
    match s.checkIdentity p (s.rport p).standsFor.toNat r with
      | .error st => (((s.noted p r).updRport p fun o => { o with sentVerdict := 2 }).sendIdentity p st).failPort p st
      | .ok lp => ((s.noted p r).updRport p fun o => { o with sentVerdict := 1, standsFor := BitVec.ofNat 5 lp }).sendIdentity p 0 := by
  rw [State.takeRecord_eq h, State.rport_noted hp, State.checkIdentity_noted]
  exact if_neg hv

/-- A record that passes is noted and answered with VERDICT 1, for the logical port that it gives. -/
theorem State.takeRecord_passes (h : r.verdict ≠ 2) (hp : p < s.runner.ports.length) (hv : (s.rport p).sentVerdict ≠ 1) {lp : Nat}
    (hok : s.checkIdentity p (s.rport p).standsFor.toNat r = .ok lp) :
    ∃ x, (s.takeRecord p r).rport p
      = Port.trained { (s.rport p).noted r with sentVerdict := 1, standsFor := BitVec.ofNat 5 lp } (s.lport p).txLanes x := by
  have hpn : p < (s.noted p r).runner.ports.length := by rwa [State.length_ports_noted]
  have hport := State.rport_updRport_same hpn fun o => { o with sentVerdict := 1, standsFor := BitVec.ofNat 5 lp }
  rw [State.rport_noted hp] at hport
  obtain ⟨x, hsent, -⟩ := State.rport_sendIdentity
    (s := (s.noted p r).updRport p fun o => { o with sentVerdict := 1, standsFor := BitVec.ofNat 5 lp }) (by simpa using hpn) 0
  rw [hport] at hsent
  rw [State.takeRecord_first h hp hv, hok]
  exact ⟨x, hsent⟩

/-- A record that fails a check is noted and answered with VERDICT 2, and the port fails with the check's status. -/
theorem State.takeRecord_fails (h : r.verdict ≠ 2) (hp : p < s.runner.ports.length) (hp32 : p < 32) (hv : (s.rport p).sentVerdict ≠ 1)
    {st : BitVec 16} (hbad : s.checkIdentity p (s.rport p).standsFor.toNat r = .error st) :
    ∃ x n, (s.takeRecord p r).rport p = (Port.trained { (s.rport p).noted r with sentVerdict := 2 } (s.lport p).txLanes x).fails st n := by
  have hpn : p < (s.noted p r).runner.ports.length := by rwa [State.length_ports_noted]
  have hport := State.rport_updRport_same hpn fun o => { o with sentVerdict := 2 }
  rw [State.rport_noted hp] at hport
  obtain ⟨x, hsent, -⟩ := State.rport_sendIdentity (s := (s.noted p r).updRport p fun o => { o with sentVerdict := 2 }) (by simpa using hpn) st
  rw [hport] at hsent
  have hl : p < (((s.noted p r).updRport p fun o => { o with sentVerdict := 2 }).sendIdentity p st).runner.ports.length := by
    rw [State.length_ports_sendIdentity]
    simpa using hpn
  obtain ⟨n, hn⟩ := State.rport_failPort hp32 hl st
  rw [hsent] at hn
  rw [State.takeRecord_first h hp hv, hbad]
  exact ⟨x, n, hn⟩

end Sys2Proof.Machine

namespace Sys2Proof.Machine

/-- Settles O44: a record is noted before its verdict is looked at; the checks read the flask and the image, which nothing noted changes, and
a port that fails keeps what it found. -/
theorem identityChecks : Obligations.IdentityChecks := by
  unfold Obligations.IdentityChecks
  intro p r s o ho htrains hstage
  subst ho
  have hp := State.lt_of_training htrains
  have hexec := exec_identityRecord htrains hstage r
  refine ⟨fun lp hr hv hok => ?_, fun st hr hv hbad => ?_, fun hr => ?_, fun hv hr => ?_⟩
  · obtain ⟨x, hport⟩ := State.takeRecord_passes hr hp hv hok
    refine ⟨_, hexec, ?_⟩
    rw [hport]
    exact ⟨rfl, rfl, rfl, htrains⟩
  · obtain ⟨x, n, hport⟩ := State.takeRecord_fails hr hp p.isLt hv hbad
    refine ⟨_, hexec, ?_⟩
    rw [hport]
    exact ⟨rfl, rfl, rfl⟩
  · have hfound := State.rport_updRport_same hp fun o => { o with found := r }
    obtain ⟨n, hport⟩ := State.rport_failPort (s := s.updRport p fun o => { o with found := r }) p.isLt (by simpa using hp) r.verdictStatus
    refine ⟨_, hexec, ?_⟩
    rw [State.takeRecord_rejected hr, hport, hfound]
    exact ⟨rfl, rfl, rfl⟩
  · have hport := State.rport_noted hp r
    refine ⟨_, hexec, ?_⟩
    rw [State.takeRecord_again (by rw [hr]; decide) hp hv, hport]
    exact ⟨if_pos hr, htrains⟩

end Sys2Proof.Machine
end

section
/-! SUPPORT. What a frame tells of its lanes where they hold (R315), and frames sent again or from the queue (R266). -/

namespace Sys2Proof.Machine

variable {s t u : State} {p : Nat} {f : Frame} {o o' o'' : Port} {xs : List LineFrame}

/-! ### Lanes that hold -/

/-- The state `t` is `s` but for what a frame has told of port p's lanes: the corrected symbols are counted, and the lanes and the Runner are
as they were. -/
structure State.SeesLanes (s t : State) (p : Nat) : Prop where
  runner  : t.runner = s.runner
  mem     : t.mem = s.mem
  run     : t.run = s.run
  power   : t.power = s.power
  time    : t.cnt.regs.time = s.cnt.regs.time
  txLanes : (t.lport p).txLanes = (s.lport p).txLanes
  ctr     : ∀ n, n ≠ 4 →
    Tab.get Ctr48.zero t.cnt.regs.ctr (ctrRunner (s.unitOf p) n) = Tab.get Ctr48.zero s.cnt.regs.ctr (ctrRunner (s.unitOf p) n)

/-- A port's optics once a frame's symbols and tags have been noted (R315). -/
def PortLight.noted (f : Frame) (o : PortLight) : PortLight :=
  { o with
    history := fixedLanes f o.rxLanes :: o.history.take 63
    tagRuns := (List.range 16).foldl (fun t i => Tab.put 0 t i (o.tagRun f i)) []
    serErr := o.serErr + f.fixed.length
    serTotal := o.serTotal + 1440 }

/-- The corrected symbols counted and noted. -/
def State.lanesNoted (s : State) (p : Nat) (f : Frame) : State :=
  (if f.fixed.length = 0 then s else s.count (ctrRunner (s.unitOf p) 4) f.fixed.length).updLight p (PortLight.noted f)

/-- A port that the chip has not carries no lane. -/
theorem State.lport_absent (hp : ¬p < s.light.ports.length) : s.lport p = PortLight.init := List.getD_eq_default _ _ (not_lt.mp hp)

theorem State.length_lights_updLight (s : State) (p : Nat) (g : PortLight → PortLight) :
    (s.updLight p g).light.ports.length = s.light.ports.length := List.length_modify ..

theorem State.lanesNoted_sees (s : State) (p : Nat) (f : Frame) : s.SeesLanes (s.lanesNoted p f) p := by
  have htx (v : State) : ((v.updLight p (PortLight.noted f)).lport p).txLanes = (v.lport p).txLanes := by
    by_cases hp : p < v.light.ports.length
    · rw [State.lport_updLight_same hp]
      rfl
    · rw [State.lport_absent hp, State.lport_absent (by rwa [State.length_lights_updLight])]
  unfold State.lanesNoted
  split
  · exact ⟨rfl, rfl, rfl, rfl, rfl, htx s, fun _ _ => rfl⟩
  · refine ⟨rfl, rfl, rfl, rfl, rfl, htx (s.count ..), fun n hn => (State.ctr_count ..).trans (if_neg ?_)⟩
    unfold ctrRunner
    omega

/-- No lane in service and wanted leaves by what has been noted of it. -/
theorem State.lanesHold.stay (h : s.lanesHold p f) :
    ∀ i ∈ lanesOf (((s.lanesNoted p f).lport p).rxLanes &&& ((s.lanesNoted p f).lport p).rxWant),
      ((s.lanesNoted p f).lport p).badSymbols i = false ∧ Tab.get 0 ((s.lanesNoted p f).lport p).tagRuns i < 4 := by
  have hlight : (if f.fixed.length = 0 then s else s.count (ctrRunner (s.unitOf p) 4) f.fixed.length).light = s.light := by split <;> rfl
  by_cases hp : p < s.light.ports.length
  · have hnoted : (s.lanesNoted p f).lport p = (s.lport p).noted f := by
      rw [State.lanesNoted, State.lport_updLight_same (by rwa [hlight]), State.lport, hlight, State.lport]
    rw [hnoted]
    intro i hi
    obtain ⟨hsym, htag⟩ := h i hi
    have hi16 : i < 16 := List.mem_range.mp (List.mem_filter.mp hi).1
    refine ⟨hsym, ?_⟩
    rwa [PortLight.noted, Tab.get_foldl_put_range, if_pos hi16]
  · rw [State.lport_absent (s := s.lanesNoted p f) (by rwa [State.lanesNoted, State.length_lights_updLight, hlight])]
    intro i hi
    exact absurd hi (by simp [PortLight.init, lanesOf])

theorem State.checkLanes_holds (h : s.lanesHold p f) : s.checkLanes p f = s.lanesNoted p f := by
  have htag : (lanesOf (((s.lanesNoted p f).lport p).rxLanes &&& ((s.lanesNoted p f).lport p).rxWant)).filter
      (fun i => 4 ≤ Tab.get 0 ((s.lanesNoted p f).lport p).tagRuns i) = [] :=
    List.filter_eq_nil_iff.mpr fun i hi => by simpa using (h.stay i hi).2
  have herr : (lanesOf (((s.lanesNoted p f).lport p).rxLanes &&& ((s.lanesNoted p f).lport p).rxWant)).filter
      ((s.lanesNoted p f).lport p).badSymbols = [] :=
    List.filter_eq_nil_iff.mpr fun i hi => by simpa using (h.stay i hi).1
  exact if_pos (congrArg₂ (fun a b => laneMask a ||| laneMask b) htag herr)

/-! ### Frames that a port sends -/

/-- The port `o'` is `o` after it has sent the frames `xs` and perhaps more: it stands as it stood, and so do the NAKs heard. -/
structure Port.Sends (o o' : Port) (xs : List LineFrame) : Prop where
  state     : o'.state = o.state
  heardNaks : o'.heardNaks = o.heardNaks
  sent      : ∃ more, o'.sent = o.sent ++ xs ++ more

theorem Port.Sends.more (h : o.Sends o' xs) (h' : o'.Sends o'' []) : o.Sends o'' xs where
  state := h'.state.trans h.state
  heardNaks := h'.heardNaks.trans h.heardNaks
  sent := by
    obtain ⟨more, hmore⟩ := h.sent
    obtain ⟨more', hmore'⟩ := h'.sent
    exact ⟨more ++ more', by simp [hmore', hmore]⟩

theorem Port.Sends.refl (o : Port) : o.Sends o [] := ⟨rfl, rfl, [], by simp⟩

theorem State.emitOne_sends (hp : p < s.runner.ports.length) (f : Frame) : (s.rport p).Sends ((s.emitOne p f).rport p) [] := by
  rw [State.rport_emitOne hp]
  exact ⟨rfl, rfl, [⟨(s.lport p).txLanes, s.stamp p f⟩], by rw [List.append_nil]⟩

theorem State.keepTag_sends (hp : p < s.runner.ports.length) : (s.rport p).Sends ((s.keepTag p).rport p) [] := by
  unfold State.keepTag
  split
  · exact State.emitOne_sends hp _
  · exact Port.Sends.refl _

theorem State.length_ports_keepTag (s : State) (p : Nat) : (s.keepTag p).runner.ports.length = s.runner.ports.length := by
  unfold State.keepTag
  split
  · exact State.length_ports_emitOne ..
  · rfl

theorem State.emit_sends (hp : p < s.runner.ports.length) (f : Frame) : (s.rport p).Sends ((s.emit p f).rport p) [] :=
  (State.emitOne_sends hp f).more (State.keepTag_sends (by rwa [State.length_ports_emitOne]))

/-- Frames that waited are sent after those before them. -/
theorem State.pumpTx_sends (n : Nat) (hp : p < s.runner.ports.length) : (s.rport p).Sends ((State.pumpTx n p s).rport p) [] := by
  induction n generalizing s with
  | zero => exact Port.Sends.refl _
  | succ n ih =>
    unfold State.pumpTx
    dsimp only
    split
    · exact Port.Sends.refl _
    · next x rest heq =>
      split
      · have hq : p < (s.updRport p fun o => { o with txQ := rest }).runner.ports.length := by simpa using hp
        have hpop : (s.rport p).Sends ((s.updRport p fun o => { o with txQ := rest }).rport p) [] := by
          rw [State.rport_updRport_same hp]
          exact ⟨rfl, rfl, [], by simp⟩
        refine hpop.more ((State.emit_sends hq x).more (ih ?_))
        rw [State.emit, State.length_ports_keepTag, State.length_ports_emitOne]
        exact hq
      · exact Port.Sends.refl _

/-! ### Frames sent again (R266) -/

/-- The header's fields follow from the flask, the chip's PACE and the port's own numbers. -/
theorem State.stamp_congr (hf : t.runner.flask = s.runner.flask) (hw : t.power = s.power) (htx : (t.rport p).txSeq = (s.rport p).txSeq)
    (hrl : (t.rport p).relays = (s.rport p).relays) (hrx : (t.rport p).rxSeq = (s.rport p).rxSeq)
    (hn : (t.rport p).nakOut = (s.rport p).nakOut) (x : Frame) : t.stamp p x = s.stamp p x := by
  unfold State.stamp State.flaskId State.pace
  simp only [hf, hw, htx, hrl, hrx, hn]

theorem State.rport_putLine (hp : p < s.runner.ports.length) (lanes : BitVec 16) (f : Frame) :
    (s.putLine p lanes f).rport p = { s.rport p with
      sent := (s.rport p).sent ++ [⟨lanes, f⟩]
      sinceIdle := if f.type = 0 then 0 else (s.rport p).sinceIdle + 1 } := State.rport_updRport_same hp _

/-- Frame k of those that port `o` has sent and that are not acknowledged, as it is sent again: its own SEQ, and a fresh header. -/
def State.again (s : State) (p : Nat) (o : Port) (k : Nat) : LineFrame :=
  ⟨(s.lport p).txLanes, { s.stamp p (o.resent (o.nextAck + BitVec.ofNat 48 k)) with seq := o.nextAck + BitVec.ofNat 48 k }⟩

/-- A frame sent again. -/
def State.sendAgain (p : Nat) (o : Port) (s : State) (k : Nat) : State := s.putLine p (s.again p o k).lanes (s.again p o k).frame

theorem State.again_sendAgain (hp : p < s.runner.ports.length) (o : Port) (k j : Nat) :
    (State.sendAgain p o s k).again p o j = s.again p o j := by
  have hport := State.rport_putLine hp (s.again p o k).lanes (s.again p o k).frame
  unfold State.again
  rw [State.stamp_congr (t := State.sendAgain p o s k) (s := s) (p := p) rfl rfl (by rw [State.sendAgain, hport])
    (by rw [State.sendAgain, hport]) (by rw [State.sendAgain, hport]) (by rw [State.sendAgain, hport])]
  rfl

/-- Frames sent again go out in order. -/
theorem State.foldl_sendAgain (hp : p < s.runner.ports.length) (o : Port) (ks : List Nat) :
    (s.rport p).Sends ((ks.foldl (State.sendAgain p o) s).rport p) (ks.map (s.again p o))
      ∧ (ks.foldl (State.sendAgain p o) s).runner.ports.length = s.runner.ports.length := by
  induction ks generalizing s with
  | nil => exact ⟨Port.Sends.refl _, rfl⟩
  | cons k ks ih =>
    have hport := State.rport_putLine hp (s.again p o k).lanes (s.again p o k).frame
    have hlen : (State.sendAgain p o s k).runner.ports.length = s.runner.ports.length := State.length_ports_updRport ..
    obtain ⟨⟨hstate, hnaks, more, hsent⟩, hlen'⟩ := ih (s := State.sendAgain p o s k) (by rwa [hlen])
    have hrest : ks.map ((State.sendAgain p o s k).again p o) = ks.map (s.again p o) :=
      List.map_congr_left fun j _ => State.again_sendAgain hp o k j
    rw [State.sendAgain] at hstate hnaks hsent
    rw [hport] at hstate hnaks hsent
    refine ⟨⟨hstate, hnaks, more, ?_⟩, hlen'.trans hlen⟩
    rw [List.foldl_cons, State.sendAgain, hsent, ← State.sendAgain, hrest]
    simp

theorem State.resend_sends (hp : p < s.runner.ports.length) :
    (s.rport p).Sends ((s.resend p).rport p)
        ((List.range ((s.rport p).txSeq - (s.rport p).nextAck).toNat).map (s.again p (s.rport p)))
      ∧ (s.resend p).runner.ports.length = s.runner.ports.length := by
  unfold State.resend
  dsimp only
  split
  · next h =>
    rw [h]
    exact ⟨Port.Sends.refl _, rfl⟩
  · obtain ⟨hagain, hlen⟩ := State.foldl_sendAgain hp (s.rport p) (List.range ((s.rport p).txSeq - (s.rport p).nextAck).toNat)
    refine ⟨hagain.more (State.keepTag_sends (s := (State.count _ _ _).count _ _) (hlen.symm ▸ hp)), ?_⟩
    exact (State.length_ports_keepTag ..).trans hlen

end Sys2Proof.Machine
end

section
/-! SUPPORT. A frame that arrives whole, or damaged, on a port whose lanes hold (R264 to R267): what its header tells the sender, and whether
it is taken. -/

namespace Sys2Proof.Machine

variable {s t u : State} {p : Nat} {f : Frame}

theorem State.lt_of_inService (hs : (s.rport p).state.inService = true) : p < s.runner.ports.length :=
  State.lt_of_rport_state fun h => by simp [h, PortState.inService] at hs

/-! ### The header -/

/-- The port `o` once it has heard a frame's header: what is acknowledged leaves the replay buffer, and PACE is noted (R266, R305). -/
def Port.hears (f : Frame) (o : Port) : Port :=
  { o with
    replay := o.replay.dropWhile (ackCovers f.ackSeq)
    nextAck := o.ackedUpTo f.ackSeq
    pace := min o.pace f.pace.toNat
    heardNaks := if f.nak then o.heardNaks else 0 }

theorem State.headerIn_eq (s : State) (p : Nat) (f : Frame) : s.headerIn p f =
    State.pumpTx ((if f.nak then (s.updRport p (Port.hears f)).nakIn p f.ackSeq else s.updRport p (Port.hears f)).rport p).txQ.length p
      (if f.nak then (s.updRport p (Port.hears f)).nakIn p f.ackSeq else s.updRport p (Port.hears f)) := rfl

/-- Without a NAK, and with nothing that waits, the header changes the port alone. -/
theorem State.headerIn_quiet (hp : p < s.runner.ports.length) (hn : f.nak = false) (hq : (s.rport p).txQ = []) :
    s.headerIn p f = s.updRport p (Port.hears f) := by
  have hempty : ((s.updRport p (Port.hears f)).rport p).txQ = [] := by
    rw [State.rport_updRport_same hp]
    exact hq
  simp only [State.headerIn_eq, hn, Bool.false_eq_true, if_false, hempty]
  rfl

/-- The state in which a new NAK has been heard, with nothing done for it yet. -/
def State.hearsNak (s : State) (p : Nat) (f : Frame) : State :=
  (s.updRport p (Port.hears f)).updRport p fun o => o.hearNak f.ackSeq s.cnt.regs.time

theorem State.length_ports_hearsNak (s : State) (p : Nat) (f : Frame) : (s.hearsNak p f).runner.ports.length = s.runner.ports.length := by
  simp [State.hearsNak]

theorem State.rport_hearsNak (hp : p < s.runner.ports.length) (f : Frame) :
    (s.hearsNak p f).rport p = ((s.rport p).hears f).hearNak f.ackSeq s.cnt.regs.time := by
  rw [State.hearsNak, State.rport_updRport_same (by simpa using hp), State.rport_updRport_same hp]

/-- NAKs heard in a row, with a new one (R266). -/
theorem State.heardNaks_hearsNak (hp : p < s.runner.ports.length) (hn : f.nak = true) : ((s.hearsNak p f).rport p).heardNaks =
    if (s.rport p).heardNaks ≠ 0 ∧ (s.rport p).heardFor = f.ackSeq then (s.rport p).heardNaks + 1 else 1 := by
  rw [State.rport_hearsNak hp]
  simp only [Port.hearNak, Port.hears, hn, if_true]

/-- A new NAK: the eighth of one frame takes the port down, and another has what is not acknowledged sent again; then what waited is sent. -/
theorem State.headerIn_nak (hp : p < s.runner.ports.length) (hn : f.nak = true) (hnew : (s.rport p).newNak f.ackSeq s.cnt.regs.time = true)
    (hu : u = if 8 ≤ ((s.hearsNak p f).rport p).heardNaks then (s.hearsNak p f).portDown p stPeerLost else (s.hearsNak p f).resend p) :
    s.headerIn p f = State.pumpTx (u.rport p).txQ.length p u := by
  have hnew' : ((s.updRport p (Port.hears f)).rport p).newNak f.ackSeq s.cnt.regs.time = true := by
    rw [State.rport_updRport_same hp]
    simpa only [Port.newNak, Port.hears, hn, if_true] using hnew
  have hnak : (s.updRport p (Port.hears f)).nakIn p f.ackSeq = u := (if_pos hnew').trans hu.symm
  simp only [State.headerIn_eq, hn, if_true, hnak]

theorem State.headerIn_lastNak (hp : p < 32) (hs : (s.rport p).state.inService = true) (hn : f.nak = true)
    (hnew : (s.rport p).newNak f.ackSeq s.cnt.regs.time = true) (hlast : 8 ≤ ((s.hearsNak p f).rport p).heardNaks) :
    (s.headerIn p f).rport p = ((s.hearsNak p f).rport p).wentDown stPeerLost := by
  have hl := State.lt_of_inService hs
  have hdown := State.rport_portDown hp (s := s.hearsNak p f) (by rw [State.rport_hearsNak hl]; exact hs) stPeerLost
  rw [State.headerIn_nak hl hn hnew rfl, if_pos hlast, hdown]
  exact hdown

theorem State.headerIn_resends (hp : p < s.runner.ports.length) (hn : f.nak = true)
    (hnew : (s.rport p).newNak f.ackSeq s.cnt.regs.time = true) (hfew : ((s.hearsNak p f).rport p).heardNaks < 8) :
    ((s.hearsNak p f).rport p).Sends ((s.headerIn p f).rport p)
      ((List.range ((s.rport p).txSeq - (s.rport p).ackedUpTo f.ackSeq).toNat).map
        ((s.hearsNak p f).again p ((s.hearsNak p f).rport p))) := by
  obtain ⟨hsends, hlen⟩ := State.resend_sends (s := s.hearsNak p f) (p := p) (by rwa [State.length_ports_hearsNak])
  rw [State.headerIn_nak hp hn hnew rfl, if_neg (by omega)]
  have hport := State.rport_hearsNak hp f
  have htx : ((s.hearsNak p f).rport p).txSeq = (s.rport p).txSeq := by rw [hport]; rfl
  have hack : ((s.hearsNak p f).rport p).nextAck = (s.rport p).ackedUpTo f.ackSeq := by rw [hport]; rfl
  rw [htx, hack] at hsends
  exact hsends.more (State.pumpTx_sends _ (by rwa [hlen, State.length_ports_hearsNak]))

/-- A frame sent again is stamped as the port stood before the NAK, which numbers nothing anew. -/
theorem State.again_hearsNak (hp : p < s.runner.ports.length) (f : Frame) (k : Nat) :
    (s.hearsNak p f).again p ((s.hearsNak p f).rport p) k = ⟨(s.lport p).txLanes,
      { s.stamp p (Port.resent { s.rport p with replay := (s.rport p).replay.dropWhile (ackCovers f.ackSeq) }
          ((s.rport p).ackedUpTo f.ackSeq + BitVec.ofNat 48 k)) with
        seq := (s.rport p).ackedUpTo f.ackSeq + BitVec.ofNat 48 k }⟩ := by
  have hport := State.rport_hearsNak hp f
  have hstamp (x : Frame) : (s.hearsNak p f).stamp p x = s.stamp p x :=
    State.stamp_congr (t := s.hearsNak p f) (s := s) rfl rfl (by rw [hport]; rfl) (by rw [hport]; rfl) (by rw [hport]; rfl)
      (by rw [hport]; rfl) x
  rw [State.again, hstamp, hport]
  rfl

/-! ### Whether a frame is taken -/

/-- What a whole frame on a port in service leaves before its SEQ is looked at: its lanes are checked, and the header of one of the chip's
own flask is heard (R266, R267). -/
def State.hears (s : State) (p : Nat) (f : Frame) : State :=
  if f.flaskId = s.flaskId then (s.checkLanes p f).headerIn p f else s.checkLanes p f

/-- The port `o` once it has taken the frame awaited. -/
def Port.takes (o : Port) : Port := { o with rxSeq := o.rxSeq + 1, nakOut := false, nakCount := 0 }

theorem PortState.not_isDark_of_inService {x : PortState} (h : x.inService = true) : x.isDark = false := by
  cases x with
  | admitted => rfl
  | degraded => rfl
  | dark | training | down | failed => cases h

theorem State.countRx_accounts (s : State) (p : Nat) (f : Frame) : s.Accounts (s.countRx p f) := by
  unfold State.countRx
  dsimp only
  split <;> exact ⟨rfl⟩

theorem State.countRx_idle (h : f.type = 0) (s : State) (p : Nat) : s.countRx p f = s.count (ctrRunner (s.unitOf p) 1) 1 :=
  if_neg (by rw [h]; decide)

theorem State.SeesLanes.rport (h : s.SeesLanes t p) (j : Nat) : t.rport j = s.rport j := State.rport_congr h.runner j

theorem State.SeesLanes.flaskId (h : s.SeesLanes t p) : t.flaskId = s.flaskId := by rw [State.flaskId, h.runner, State.flaskId]

theorem State.SeesLanes.foreign (h : s.SeesLanes t p) : t.runner.foreign = s.runner.foreign := by rw [h.runner]

theorem State.SeesLanes.stamp (h : s.SeesLanes t p) (x : Frame) : t.stamp p x = s.stamp p x :=
  State.stamp_congr (by rw [h.runner]) h.power (by rw [h.rport]) (by rw [h.rport]) (by rw [h.rport]) (by rw [h.rport]) x

section

variable (hs : (s.rport p).state.inService = true) (hl : s.lanesHold p f)

include hs hl

theorem State.arrive_eq : s.arrive p f =
    if !((s.hears p f).rport p).state.inService then (s.hears p f, false)
    else if f.seq ≠ ((s.hears p f).rport p).rxSeq then ((s.hears p f).count (ctrRunner ((s.hears p f).unitOf p) 5) 1, false)
    else if f.flaskId ≠ s.flaskId ∨ 7 ≤ f.type.toNat then (((s.hears p f).updRport p Port.takes).foreignFrame, false)
    else (((s.hears p f).updRport p Port.takes).countRx p f, true) := by
  have hsees := s.lanesNoted_sees p f
  rw [← State.checkLanes_holds hl] at hsees
  unfold State.arrive
  simp only [PortState.not_isDark_of_inService hs, hs, hsees.rport, hsees.flaskId, Bool.not_true, Bool.false_eq_true, if_false]
  rfl

/-- A frame with another SEQ than the one awaited is counted and no more. -/
theorem State.arrive_discards (hin : ((s.hears p f).rport p).state.inService = true) (hseq : f.seq ≠ ((s.hears p f).rport p).rxSeq) :
    s.arrive p f = ((s.hears p f).count (ctrRunner ((s.hears p f).unitOf p) 5) 1, false) := by
  rw [State.arrive_eq hs hl, hin, if_neg (by decide), if_pos hseq]

/-- The frame awaited is taken, and dropped where it is of another flask. -/
theorem State.arrive_takes (ht : f.type.toNat < 7) (hin : ((s.hears p f).rport p).state.inService = true)
    (hseq : f.seq = ((s.hears p f).rport p).rxSeq) : s.arrive p f =
      if f.flaskId ≠ s.flaskId then (((s.hears p f).updRport p Port.takes).foreignFrame, false)
      else (((s.hears p f).updRport p Port.takes).countRx p f, true) := by
  simp only [State.arrive_eq hs hl, hin, Bool.not_true, Bool.false_eq_true, if_false, not_not.mpr hseq, not_le.mpr ht, or_false]

/-- A frame taken or not, the port stands and has sent what it had once the header was heard. -/
theorem State.arrive_keeps (hin : ((s.hears p f).rport p).state.inService = true) :
    ((s.hears p f).rport p).Sends ((s.arrive p f).1.rport p) [] := by
  have htaken : ((s.hears p f).rport p).Sends (((s.hears p f).updRport p Port.takes).rport p) [] := by
    rw [State.rport_updRport_same (State.lt_of_inService hin)]
    exact ⟨rfl, rfl, [], by rw [List.append_nil, List.append_nil, Port.takes]⟩
  rw [State.arrive_eq hs hl, hin, if_neg (by decide)]
  split
  · exact Port.Sends.refl _
  · split
    · exact htaken
    · rwa [(State.countRx_accounts ..).rport]

/-- A frame that takes the port down is not looked at further. -/
theorem State.arrive_down (hout : ((s.hears p f).rport p).state.inService = false) : s.arrive p f = (s.hears p f, false) := by
  rw [State.arrive_eq hs hl, hout]
  rfl

omit hs

theorem State.hears_own (hown : f.flaskId = s.flaskId) : s.hears p f = (s.lanesNoted p f).headerIn p f := by
  rw [State.hears, if_pos hown, State.checkLanes_holds hl]

theorem State.hears_foreign (hown : f.flaskId ≠ s.flaskId) : s.hears p f = s.lanesNoted p f := by
  rw [State.hears, if_neg hown, State.checkLanes_holds hl]

end

/-! ### IDLE_FRAME -/

theorem exec_idleFrame (ht : f.type = 0) (p : Fin 32) (s : State) : exec (.idleFrame p f) s = .next (s.arrive p f).1 := by
  change execIdleFrame p f s = _
  unfold execIdleFrame State.deliver
  rw [decide_eq_true ht, Bool.true_or, if_pos rfl]
  split
  · next heq => rw [heq]; rfl
  · next heq => rw [heq]

theorem State.arrive_dark (h : (s.rport p).state.isDark = true) (f : Frame) : s.arrive p f = (s, false) := if_pos h

theorem State.arrive_unadmitted (hd : (s.rport p).state.isDark = false) (hs : (s.rport p).state.inService = false) (f : Frame) :
    s.arrive p f = (s.foreignFrame, false) := by
  unfold State.arrive
  simp only [hd, hs, Bool.not_false, Bool.false_eq_true, if_false, if_true]

section

variable (hs : (s.rport p).state.inService = true) (hl : s.lanesHold p f)

include hs hl

/-- A header without a NAK, heard on a port where nothing waits. -/
theorem State.hears_quiet (hown : f.flaskId = s.flaskId) (hn : f.nak = false) (hq : (s.rport p).txQ = []) :
    s.hears p f = (s.lanesNoted p f).updRport p (Port.hears f) ∧ (s.hears p f).rport p = (s.rport p).hears f := by
  have hsees := s.lanesNoted_sees p f
  have hp : p < (s.lanesNoted p f).runner.ports.length := by
    rw [hsees.runner]
    exact State.lt_of_inService hs
  have hheard : s.hears p f = (s.lanesNoted p f).updRport p (Port.hears f) := by
    rw [State.hears_own hl hown, State.headerIn_quiet hp hn (by rwa [hsees.rport])]
  rw [hheard, State.rport_updRport_same hp, hsees.rport]
  exact ⟨rfl, rfl⟩

/-- The idle frame awaited, of the chip's own flask, is taken and counted (R266). -/
theorem State.arrive_idle (ht : f.type = 0) (hown : f.flaskId = s.flaskId) (hn : f.nak = false) (hq : (s.rport p).txQ = [])
    (hseq : f.seq = (s.rport p).rxSeq) :
    ∃ u : State, (s.arrive p f).1 = u.count (ctrRunner (s.unitOf p) 1) 1 ∧ u.rport p = ((s.rport p).hears f).takes
      ∧ u.runner.foreign = s.runner.foreign ∧ u.mem = s.mem ∧ u.run = s.run ∧ u.cnt = (s.lanesNoted p f).cnt := by
  have hsees := s.lanesNoted_sees p f
  obtain ⟨hheard, hport⟩ := State.hears_quiet hs hl hown hn hq
  have htaken : ((s.hears p f).updRport p Port.takes).rport p = ((s.rport p).hears f).takes := by
    rw [State.rport_updRport_same (State.lt_of_inService (by rw [hport]; exact hs)), hport]
  have hunit : ((s.hears p f).updRport p Port.takes).unitOf p = s.unitOf p := by
    rw [State.unitOf, htaken]
    rfl
  refine ⟨(s.hears p f).updRport p Port.takes, ?_, htaken, ?_⟩
  · rw [State.arrive_takes hs hl (by rw [ht]; decide) (by rw [hport]; exact hs) (by rw [hport]; exact hseq), if_neg (not_not.mpr hown),
      State.countRx_idle ht, hunit]
  · rw [hheard]
    exact ⟨hsees.foreign, hsees.mem, hsees.run, rfl⟩

/-- A frame whose NAK is new and the eighth of one frame takes the port down (R266, R279). -/
theorem State.arrive_lastNak (hp : p < 32) (hown : f.flaskId = s.flaskId) (hn : f.nak = true)
    (hnew : (s.rport p).newNak f.ackSeq s.cnt.regs.time = true) (hlast : (s.rport p).heardNaks = 7) (hfor : (s.rport p).heardFor = f.ackSeq) :
    ∃ o, (s.arrive p f).1.rport p = Port.wentDown stPeerLost o := by
  have hsees := s.lanesNoted_sees p f
  have hs' : ((s.lanesNoted p f).rport p).state.inService = true := by rwa [hsees.rport]
  have hdown := State.headerIn_lastNak hp hs' hn (by rwa [hsees.rport, hsees.time]) (by
    rw [State.heardNaks_hearsNak (State.lt_of_inService hs') hn, hsees.rport, hlast, if_pos ⟨by decide, hfor⟩])
  rw [← State.hears_own hl hown] at hdown
  rw [State.arrive_down hs hl (by rw [hdown]; rfl)]
  exact ⟨_, hdown⟩

/-- Another new NAK has every frame that it does not acknowledge sent again (R266). -/
theorem State.arrive_resends (hown : f.flaskId = s.flaskId) (hn : f.nak = true)
    (hnew : (s.rport p).newNak f.ackSeq s.cnt.regs.time = true) (hfew : (s.rport p).heardNaks < 7 ∨ (s.rport p).heardFor ≠ f.ackSeq) :
    Port.Sends { s.rport p with
        heardNaks := if (s.rport p).heardNaks ≠ 0 ∧ (s.rport p).heardFor = f.ackSeq then (s.rport p).heardNaks + 1 else 1 }
      ((s.arrive p f).1.rport p)
      ((List.range ((s.rport p).txSeq - (s.rport p).ackedUpTo f.ackSeq).toNat).map fun k => ⟨(s.lport p).txLanes,
        { s.stamp p (Port.resent { s.rport p with replay := (s.rport p).replay.dropWhile (ackCovers f.ackSeq) }
            ((s.rport p).ackedUpTo f.ackSeq + BitVec.ofNat 48 k)) with
          seq := (s.rport p).ackedUpTo f.ackSeq + BitVec.ofNat 48 k }⟩) := by
  have hsees := s.lanesNoted_sees p f
  have hs' : ((s.lanesNoted p f).rport p).state.inService = true := by rwa [hsees.rport]
  have hp := State.lt_of_inService hs'
  have hnaks := State.heardNaks_hearsNak hp hn
  rw [hsees.rport] at hnaks
  have hresends := State.headerIn_resends hp hn (by rwa [hsees.rport, hsees.time]) (by
    rw [hnaks]
    split
    · next h => exact Nat.succ_lt_succ (hfew.resolve_right (not_not.mpr h.2))
    · decide)
  rw [← State.hears_own hl hown, List.map_congr_left fun k _ => State.again_hearsNak hp f k] at hresends
  simp only [hsees.rport, hsees.stamp, hsees.txLanes] at hresends
  have hport := State.rport_hearsNak hp f
  rw [hsees.rport] at hport
  have hin : ((s.hears p f).rport p).state.inService = true := by
    rw [hresends.state, hport]
    exact hs
  obtain ⟨hstate, hheard, hsent⟩ := hresends.more (State.arrive_keeps hs hl hin)
  rw [hport] at hstate hsent
  exact ⟨hstate, hheard.trans hnaks, hsent⟩

end

/-! ### DAMAGED_FRAME -/

theorem exec_damagedFrame_unadmitted {p : Fin 32} (hs : (s.rport p).state.inService = false) (f : Frame) : exec (.damagedFrame p f) s
    = .next (if (s.rport p).state.isDark || f.type = 6 then s else s.foreignFrame) := by
  change execDamagedFrame p f s = _
  unfold execDamagedFrame
  cases hd : (s.rport p).state.isDark with
  | true => exact if_pos hd
  | false => simp only [hs, hd, Bool.not_false, Bool.false_eq_true, if_false, if_true, Bool.false_or, decide_eq_true_eq]

/-- A damaged frame counted, and its lanes noted. -/
def State.damageNoted (s : State) (p : Nat) (f : Frame) : State := (s.count (ctrRunner (s.unitOf p) 5) 1).lanesNoted p f

/-- The port `o` once the frame awaited has come damaged: it is awaited still, and NAKed (R266). -/
def Port.asksAgain (o : Port) : Port := { o with nakOut := true, nakCount := o.nakCount + 1 }

section

variable {p : Fin 32} (hs : (s.rport p).state.inService = true) (hl : s.lanesHold p f)

include hs hl

theorem exec_damagedFrame_eq : exec (.damagedFrame p f) s = if f.seq ≠ (s.rport p).rxSeq then .next (s.damageNoted p f)
    else .next (if 8 ≤ (((s.damageNoted p f).updRport p Port.asksAgain).rport p).nakCount then
        ((s.damageNoted p f).updRport p Port.asksAgain).portDown p stPeerLost
      else (s.damageNoted p f).updRport p Port.asksAgain) := by
  have hheld : (s.count (ctrRunner (s.unitOf p) 5) 1).checkLanes p f = s.damageNoted p f :=
    State.checkLanes_holds (s := s.count (ctrRunner (s.unitOf p) 5) 1) hl
  have hport : (s.damageNoted p f).rport p = s.rport p := (State.lanesNoted_sees ..).rport p
  change execDamagedFrame p f s = _
  unfold execDamagedFrame
  simp only [PortState.not_isDark_of_inService hs, hs, hheld, hport, Bool.not_true, Bool.false_eq_true, if_false, false_or]
  rfl

omit hl in
theorem State.rport_asksAgain : ((s.damageNoted p f).updRport p Port.asksAgain).rport p = (s.rport p).asksAgain := by
  have hsees := (s.count (ctrRunner (s.unitOf p) 5) 1).lanesNoted_sees p f
  have hp : p < (s.damageNoted p f).runner.ports.length := by
    rw [State.damageNoted, hsees.runner]
    exact State.lt_of_inService hs
  rw [State.rport_updRport_same hp, State.damageNoted, hsees.rport]
  rfl

end

end Sys2Proof.Machine

namespace Sys2Proof.Machine

/-- Settles O40: on lanes that hold a frame changes nothing but what its header and its SEQ say of the port; a NAK acts by the header alone,
even in a frame that is then discarded (log entry 25), and a port that goes down has nothing left to send. Counters are those of the logical
port (R272; log entry 26 for ports that have failed). -/
theorem framesArrive : Obligations.FramesArrive := by
  unfold Obligations.FramesArrive
  refine ⟨?_, ?_, ?_⟩
  · intro p f s o ho ht
    subst ho
    have hexec := exec_idleFrame ht p s
    have hsees := s.lanesNoted_sees p f
    refine ⟨fun hs hl hn hq => ⟨fun hown hseq => ?_, fun hown hseq => ?_, fun hown hseq => ?_⟩,
      fun hs hl hn hown hnew => ⟨fun hlast hfor => ?_, fun hfew => ?_⟩, fun hs hd => ?_, fun hd => ?_⟩
    · obtain ⟨u, harrive, hport, hforeign, hmem, hrun, hcnt⟩ := State.arrive_idle hs hl ht hown hn hq hseq
      have hcount (n : Nat) : (u.count n 1).rport p = ((s.rport p).hears f).takes := hport
      refine ⟨_, hexec, ?_⟩
      rw [harrive, hcount, State.ctr_count, if_pos rfl, hcnt, hsees.ctr 1 (by decide)]
      exact ⟨rfl, rfl, rfl, rfl, rfl, rfl, hforeign, hmem, hrun⟩
    · obtain ⟨hheard, hport⟩ := State.hears_quiet hs hl hown hn hq
      have hunit : (s.hears p f).unitOf p = s.unitOf p := by
        rw [State.unitOf, hport]
        rfl
      have hcount (n : Nat) : ((s.hears p f).count n 1).rport p = (s.rport p).hears f := hport
      refine ⟨_, hexec, ?_⟩
      rw [State.arrive_discards hs hl (by rw [hport]; exact hs) (by rw [hport]; exact hseq), hunit, hcount, State.ctr_count, if_pos rfl, hheard]
      exact ⟨rfl, rfl, congrArg (·.add 1) (hsees.ctr 5 (by decide)), hsees.mem, hsees.run⟩
    · have hheard := State.hears_foreign hl hown
      have hport : (s.hears p f).rport p = s.rport p := by rw [hheard, hsees.rport]
      have htaken : ((s.hears p f).updRport p Port.takes).foreignFrame.rport p = (s.rport p).takes := by
        rw [← hport]
        exact State.rport_updRport_same (State.lt_of_inService (by rwa [hport])) _
      refine ⟨_, hexec, ?_⟩
      rw [State.arrive_takes hs hl (by rw [ht]; decide) (by rwa [hport]) (by rwa [hport]), if_pos hown, htaken, hheard]
      exact ⟨rfl, (congrArg (·.add 1) hsees.foreign :), hsees.mem, hsees.run⟩
    · obtain ⟨o, hdown⟩ := State.arrive_lastNak hs hl p.isLt hown hn hnew hlast hfor
      refine ⟨_, hexec, ?_⟩
      rw [hdown]
      exact ⟨rfl, rfl⟩
    · obtain ⟨hstate, hnaks, rest, hsent⟩ := State.arrive_resends hs hl hown hn hnew hfew
      exact ⟨_, rest, hexec, hstate, hnaks, hsent⟩
    · rw [hexec, State.arrive_unadmitted hd hs]
      rfl
    · rw [hexec, State.arrive_dark hd]
  · intro p f s o ho hs
    subst ho
    exact exec_damagedFrame_unadmitted hs f
  · intro p f s o ho hs hl
    subst ho
    have hexec := exec_damagedFrame_eq hs hl
    have hsees := (s.count (ctrRunner (s.unitOf p) 5) 1).lanesNoted_sees p f
    have hport := State.rport_asksAgain (f := f) hs
    refine ⟨fun hseq hfew => ?_, fun hseq hlast => ?_, fun hseq => ?_⟩
    · rw [if_neg (not_not.mpr hseq), hport, if_neg (by simp only [Port.asksAgain]; omega)] at hexec
      refine ⟨_, hexec, ?_⟩
      rw [hport]
      exact ⟨rfl, rfl, rfl, rfl, hsees.mem⟩
    · rw [if_neg (not_not.mpr hseq), hport, if_pos (by simp only [Port.asksAgain]; omega)] at hexec
      refine ⟨_, hexec, ?_⟩
      rw [State.rport_portDown p.isLt (by rw [hport]; exact hs)]
      exact ⟨rfl, rfl⟩
    · rw [if_pos hseq] at hexec
      exact ⟨_, hexec, hsees.runner, hsees.mem, hsees.run, (hsees.ctr 5 (by decide)).trans ((State.ctr_count ..).trans (if_pos rfl))⟩

end Sys2Proof.Machine
end
